-- ==== Sys2Proof/Word.lean ====
section
/-! DEFINITION. The word types of the BN840 and their plainest arithmetic (00_scope.md R3, 09_vector_compute.md R160). -/
namespace Sys2Proof

/-- A scalar register or a doubleword (R20). -/
abbrev Word := BitVec 64
/-- An instruction word (R30). -/
abbrev Code := BitVec 32
/-- A byte of memory. -/
abbrev Byte := BitVec 8
/-- A V row, 256 bytes (R160). -/
abbrev Row := BitVec 2048
/-- A mask register, one bit per byte of a row (R160). -/
abbrev Mask := BitVec 256

/-- Field [lo + n - 1 : lo] of a bit vector. -/
def fld {m : Nat} (w : BitVec m) (lo n : Nat) : BitVec n := w.extractLsb' lo n

/-- Bit `lo` of a bit vector. -/
def bit {m : Nat} (w : BitVec m) (lo : Nat) : Bool := w.getLsbD lo

/-- Bits [lo + n - 1 : lo] of a natural number, `bits(x, hi, lo)` of R6. -/
def nbits (x lo n : Nat) : Nat := (x >>> lo) % 2 ^ n

/-- The number of bits a natural number needs; 0 for 0. -/
def bitLen (x : Nat) : Nat := if x = 0 then 0 else x.log2 + 1

end Sys2Proof
end

