-- ==== Sys2Proof/Config.lean ====
section
/-! DEFINITION. What one part fixes, and the values the spec leaves open. Every constant here is opaque: nothing can
compute it or prove a value of it, so a claim about the machine holds whatever it is (log entries 2, 7, 14, 15, 16). -/
namespace Sys2Proof.Config

/-- The n-th free doubleword: a value the spec leaves undefined (R22). Log entry 2. -/
opaque freeWord : Nat → Word
/-- The n-th free row of 256 bytes (R22). Log entry 2. -/
opaque freeRow : Nat → Row
/-- The n-th free byte (PEER data, R29). Log entry 15. -/
opaque freeByte : Nat → Byte
/-- The n-th free natural number: a time or an order the spec does not fix (R60, R264). Log entry 7. -/
opaque freeNat : Nat → Nat
/-- The n-th free truth value: a choice the ordering machine may make either way (R265). Log entry 7. -/
opaque freeBool : Nat → Bool

/-- Ed25519 verification of a signature over the first bytes (R383). Log entry 14. -/
opaque edVerify : (signed sig : List Byte) → Bool
/-- ML-DSA-65 verification of a signature over the first bytes (R383). Log entry 14. -/
opaque mlVerify : (signed sig : List Byte) → Bool
/-- The part's Ed25519 signature, 64 bytes (R385). Log entry 14. -/
opaque edSign : List Byte → Vector Byte 64
/-- The part's ML-DSA-65 signature, 3309 bytes (R385). Log entry 14. -/
opaque mlSign : List Byte → Vector Byte 3309
/-- SHA-384, 48 bytes (R384, R385). Log entry 14. -/
opaque sha384 : List Byte → Vector Byte 48
/-- Part, revision and certificates as IDENTIFY returns them (R388). Log entry 14. -/
opaque identity : List Byte
/-- The boot ROM and the Mbanum ROM (R385). Log entry 14. -/
opaque bootRom : List Byte
opaque mbanumRom : List Byte
/-- The image in bank b of image kind k as the part leaves manufacture (R383, R386). Log entry 14. -/
opaque flashImage : (k b : Nat) → List Byte
/-- The outcome of the n-th self-test: the failure bits of SELF other than SAFE, KIMG, WIMG and CIMG (R416, R418).
Log entry 14. -/
opaque selfTest : Nat → BitVec 64
/-- The heartbeat time in ms that a configuration image sets, if it sets one (R405). Log entry 14. -/
opaque configKhbt : List Byte → Option Nat
/-- Where a configuration image places the mirror region: die, offset and size of the primary copy (R408). Log entry 14. -/
opaque configMirror : List Byte → Option (Nat × Nat × Nat)
/-- Where in the mirror region the resident kernel has put the access counter of a region of a virtual device, and the management core
its registry: offsets (R407, R408). Log entry 14. -/
opaque counterPlace : (vd region : Nat) → Nat
opaque registryPlace : Nat
/-- The lanes that the n-th self-test finds bad: die, layer, channel, lane (R416). Log entry 14. -/
opaque testedLanes : Nat → List (Nat × Nat × Nat × Nat)
/-- What the firmware makes of a module budget in watts: the cap of one cluster (R120). Log entry 14. -/
opaque clusterCap : (watts : Nat) → (die cluster : Nat) → BitVec 4
/-- The host entry an H-format walk ends at: present, writable and the host frame address (R366). The routine in the
walker's store reads the host's tables, whose format is the routine's. Log entry 16. -/
opaque hostWalk : (routine : Option (List Byte)) → (host : List (Nat × BitVec 8)) → (root va : Nat) → Option (Bool × Nat)
/-- Whether the host's IOMMU lets an access through (R366). Log entry 16. -/
opaque iommuAllows : (vd : Nat) → (write : Bool) → (addr : Nat) → Bool

end Sys2Proof.Config
end

