-- ==== Sys2Proof/Syntax.lean ====
section
/-! DEFINITION. The syntax of the BN840: the streams and agents a step can belong to, and the one inductive `Instr`
with one constructor for each row of the operation table (192 instruction words of R37-R45 and 73 events). Every
operand is a field of the word's format, named as the table names it; `g` is the guard code of R34 (for SI, SU, SM and
SA words the guard-store nibble of R38), `n` the negate bit of control words (R40). -/
namespace Sys2Proof

/-- The streams that decode words: S, V, M, T of a gang core (R12) and the S-like stream of a Loupe core (R27). -/
inductive Stream where
  | s | v | m | t | l
  deriving DecidableEq, Repr, Inhabited

/-- Who issues a word: a stream of a gang core, or a context of a Loupe core (R262). -/
inductive Agent where
  | core (gang rank : Nat) (st : Stream)
  | loupe (die idx ctx : Nat)
  deriving DecidableEq, Repr, Inhabited

/-- How the resident kernel ends a page-fault service (R370), or refuses it (R390). -/
inductive Service where
  | map | convert | refuse | kill
  deriving DecidableEq, Repr, Inhabited

/-- The command queues of R387, and the MCTP path of R389. -/
inductive CmdQueue where
  | phys | vf (vd : Nat) | mctp
  deriving DecidableEq, Repr, Inhabited

/-- Where a cap message comes from (R120, R388, R389). -/
inductive CapSource where
  | queue (q : CmdQueue)
  | mctp (seq : BitVec 32) (watts leaseMs : Nat)
  deriving DecidableEq, Repr, Inhabited

/-- One failed codeword transfer on a DRAM link (R412, R414). -/
structure LinkFault where
  die : BitVec 2
  layer : BitVec 2
  chan : BitVec 5
  group : BitVec 3
  beat : BitVec 2
  retry : BitVec 2
  deriving DecidableEq, Repr, Inhabited

/-- The outside agents of R325, kind 3. -/
inductive Outsider where
  | host | peer | kernel
  deriving DecidableEq, Repr, Inhabited

/-- An access of an outside agent to device memory (R325, R380): a write of `data` at `pa`, or a read of as many bytes. -/
structure OutsideAccess where
  who : Outsider
  write : Bool
  pa : Nat
  data : List Byte
  deriving DecidableEq, Repr, Inhabited

/-- A value that the resident kernel returns for a TRAP, in a register of the stopped rank (R397). -/
inductive RegValue where
  | s (n : Nat) (v : Word)
  | p (n : Nat) (v : Bool)
  | v (n : Nat) (v : Row)
  | m (n : Nat) (v : Mask)
  | th (n : Nat) (v : BitVec 32)
  | tile (t row : Nat) (v : Row)
  deriving DecidableEq, Repr, Inhabited

/-- A launch of the resident kernel's: the launch record's address, and the save areas of images that it binds, one for each
gang, none for a launch from the record alone (R102, R400). -/
structure LaunchPtr where
  ptr : BitVec 64
  areas : List Nat := []
  deriving DecidableEq, Repr, Inhabited

/-- The steps of the operation table: instruction words and events. -/
inductive Instr where
  /-- ADD: Adds two 64-bit scalars modulo 2^64. (R143) -/
  | add (d : BitVec 6) (a : BitVec 6) (b : BitVec 6) (w : Bool) (g : BitVec 4)
  /-- SUB: Subtracts two 64-bit scalars modulo 2^64. (R143) -/
  | sub (d : BitVec 6) (a : BitVec 6) (b : BitVec 6) (w : Bool) (g : BitVec 4)
  /-- AND: Bitwise AND of two scalars. (R143) -/
  | and (d : BitVec 6) (a : BitVec 6) (b : BitVec 6) (w : Bool) (g : BitVec 4)
  /-- OR: Bitwise OR of two scalars. (R143) -/
  | or (d : BitVec 6) (a : BitVec 6) (b : BitVec 6) (w : Bool) (g : BitVec 4)
  /-- XOR: Bitwise XOR of two scalars. (R143) -/
  | xor (d : BitVec 6) (a : BitVec 6) (b : BitVec 6) (w : Bool) (g : BitVec 4)
  /-- ANDN: a AND NOT b on scalars. (R143) -/
  | andn (d : BitVec 6) (a : BitVec 6) (b : BitVec 6) (w : Bool) (g : BitVec 4)
  /-- MIN: Signed minimum of two scalars. (R143) -/
  | min (d : BitVec 6) (a : BitVec 6) (b : BitVec 6) (w : Bool) (g : BitVec 4)
  /-- MAX: Signed maximum of two scalars. (R143) -/
  | max (d : BitVec 6) (a : BitVec 6) (b : BitVec 6) (w : Bool) (g : BitVec 4)
  /-- MINN: Natural minimum of two scalars. (R143) -/
  | minn (d : BitVec 6) (a : BitVec 6) (b : BitVec 6) (w : Bool) (g : BitVec 4)
  /-- MAXN: Natural maximum of two scalars. (R143) -/
  | maxn (d : BitVec 6) (a : BitVec 6) (b : BitVec 6) (w : Bool) (g : BitVec 4)
  /-- SHL: Shifts a scalar left by the low six bits of b. (R143) -/
  | shl (d : BitVec 6) (a : BitVec 6) (b : BitVec 6) (w : Bool) (g : BitVec 4)
  /-- SHR: Logical right shift of a scalar. (R143) -/
  | shr (d : BitVec 6) (a : BitVec 6) (b : BitVec 6) (w : Bool) (g : BitVec 4)
  /-- SAR: Arithmetic right shift of a scalar. (R143) -/
  | sar (d : BitVec 6) (a : BitVec 6) (b : BitVec 6) (w : Bool) (g : BitVec 4)
  /-- ROTR: Rotates a scalar right. (R143) -/
  | rotr (d : BitVec 6) (a : BitVec 6) (b : BitVec 6) (w : Bool) (g : BitVec 4)
  /-- CLZ: Counts leading zero bits of a scalar. (R143) -/
  | clz (d : BitVec 6) (a : BitVec 6) (w : Bool) (g : BitVec 4)
  /-- POPC: Counts one bits of a scalar. (R143) -/
  | popc (d : BitVec 6) (a : BitVec 6) (w : Bool) (g : BitVec 4)
  /-- MUL: Low 64 bits of the product. (R144) -/
  | mul (d : BitVec 6) (a : BitVec 6) (b : BitVec 6) (w : Bool) (g : BitVec 4)
  /-- MULH: High 64 bits of the signed 128-bit product. (R144) -/
  | mulh (d : BitVec 6) (a : BitVec 6) (b : BitVec 6) (w : Bool) (g : BitVec 4)
  /-- MULHN: High 64 bits of the natural 128-bit product. (R144) -/
  | mulhn (d : BitVec 6) (a : BitVec 6) (b : BitVec 6) (w : Bool) (g : BitVec 4)
  /-- DIV: Signed quotient truncated toward zero. (R144) -/
  | div (d : BitVec 6) (a : BitVec 6) (b : BitVec 6) (w : Bool) (g : BitVec 4)
  /-- DIVN: Natural quotient. (R144) -/
  | divn (d : BitVec 6) (a : BitVec 6) (b : BitVec 6) (w : Bool) (g : BitVec 4)
  /-- REM: Signed remainder with the sign of the dividend. (R144) -/
  | rem (d : BitVec 6) (a : BitVec 6) (b : BitVec 6) (w : Bool) (g : BitVec 4)
  /-- REMN: Natural remainder. (R144) -/
  | remn (d : BitVec 6) (a : BitVec 6) (b : BitVec 6) (w : Bool) (g : BitVec 4)
  /-- CMP.cc: Compares two scalars under condition cc and writes a predicate. (R147) -/
  | cmp (d : BitVec 6) (a : BitVec 6) (b : BitVec 6) (cc : BitVec 3) (g : BitVec 4)
  /-- PAND: AND of two predicates. (R148) -/
  | pand (d : BitVec 6) (a : BitVec 6) (b : BitVec 6) (g : BitVec 4)
  /-- POR: OR of two predicates. (R148) -/
  | por (d : BitVec 6) (a : BitVec 6) (b : BitVec 6) (g : BitVec 4)
  /-- PXOR: XOR of two predicates. (R148) -/
  | pxor (d : BitVec 6) (a : BitVec 6) (b : BitVec 6) (g : BitVec 4)
  /-- PNOT: Negates a predicate. (R148) -/
  | pnot (d : BitVec 6) (a : BitVec 6) (g : BitVec 4)
  /-- PTOS: Packs p0-p7 into a scalar. (R148) -/
  | ptos (d : BitVec 6) (w : Bool) (g : BitVec 4)
  /-- STOP: Unpacks bits 1-7 of a scalar into p1-p7. (R148) -/
  | stop (a : BitVec 6) (g : BitVec 4)
  /-- PTRMK: Builds a checked tagged pointer from space, rank and offset. (R150) -/
  | ptrmk (d : BitVec 6) (a : BitVec 6) (b : BitVec 6) (w : Bool) (g : BitVec 4)
  /-- PTRSP: Extracts the SPACE field of a pointer. (R150) -/
  | ptrsp (d : BitVec 6) (a : BitVec 6) (w : Bool) (g : BitVec 4)
  /-- PTRRK: Extracts the RANK field of a pointer. (R150) -/
  | ptrrk (d : BitVec 6) (a : BitVec 6) (w : Bool) (g : BitVec 4)
  /-- PTROF: Extracts the OFFSET field of a pointer. (R150) -/
  | ptrof (d : BitVec 6) (a : BitVec 6) (w : Bool) (g : BitVec 4)
  /-- PTRADD: Adds a signed value to a pointer's offset and checks the result. (R150) -/
  | ptradd (d : BitVec 6) (a : BitVec 6) (b : BitVec 6) (w : Bool) (g : BitVec 4)
  /-- FADD: Scalar f32 add, RNE. (R153) -/
  | fadd (d : BitVec 6) (a : BitVec 6) (b : BitVec 6) (w : Bool) (g : BitVec 4)
  /-- FSUB: Scalar f32 subtract, RNE. (R153) -/
  | fsub (d : BitVec 6) (a : BitVec 6) (b : BitVec 6) (w : Bool) (g : BitVec 4)
  /-- FMUL: Scalar f32 multiply, RNE. (R153) -/
  | fmul (d : BitVec 6) (a : BitVec 6) (b : BitVec 6) (w : Bool) (g : BitVec 4)
  /-- FFMA: Scalar f32 fused multiply-add with sD as addend. (R153) -/
  | ffma (d : BitVec 6) (a : BitVec 6) (b : BitVec 6) (w : Bool) (g : BitVec 4)
  /-- FMIN: Scalar f32 minimum. (R153) -/
  | fmin (d : BitVec 6) (a : BitVec 6) (b : BitVec 6) (w : Bool) (g : BitVec 4)
  /-- FMAX: Scalar f32 maximum. (R153) -/
  | fmax (d : BitVec 6) (a : BitVec 6) (b : BitVec 6) (w : Bool) (g : BitVec 4)
  /-- FDIV: Scalar f32 divide, RNE. (R153) -/
  | fdiv (d : BitVec 6) (a : BitVec 6) (b : BitVec 6) (w : Bool) (g : BitVec 4)
  /-- FSQRT: Scalar f32 square root, RNE. (R153) -/
  | fsqrt (d : BitVec 6) (a : BitVec 6) (w : Bool) (g : BitVec 4)
  /-- CVTIF: Converts an i64 to f32. (R154) -/
  | cvtif (d : BitVec 6) (a : BitVec 6) (w : Bool) (g : BitVec 4)
  /-- CVTNF: Converts an n64 to f32. (R154) -/
  | cvtnf (d : BitVec 6) (a : BitVec 6) (w : Bool) (g : BitVec 4)
  /-- CVTFI: Converts f32 to i64 under RNE. (R154) -/
  | cvtfi (d : BitVec 6) (a : BitVec 6) (w : Bool) (g : BitVec 4)
  /-- CVTFIZ: Converts f32 to i64 under RTZ. (R154) -/
  | cvtfiz (d : BitVec 6) (a : BitVec 6) (w : Bool) (g : BitVec 4)
  /-- FCMP.lt: f32 less-than compare into a predicate. (R154) -/
  | fcmpLt (d : BitVec 6) (a : BitVec 6) (b : BitVec 6) (g : BitVec 4)
  /-- FCMP.le: f32 less-or-equal compare into a predicate. (R154) -/
  | fcmpLe (d : BitVec 6) (a : BitVec 6) (b : BitVec 6) (g : BitVec 4)
  /-- FCMP.eq: f32 equality compare into a predicate. (R154) -/
  | fcmpEq (d : BitVec 6) (a : BitVec 6) (b : BitVec 6) (g : BitVec 4)
  /-- ADDI: Adds a sign-extended 14-bit immediate. (R145) -/
  | addi (d : BitVec 6) (a : BitVec 6) (imm : BitVec 14) (g : BitVec 4)
  /-- ANDI: ANDs with a sign-extended immediate. (R145) -/
  | andi (d : BitVec 6) (a : BitVec 6) (imm : BitVec 14) (g : BitVec 4)
  /-- ORI: ORs with a sign-extended immediate. (R145) -/
  | ori (d : BitVec 6) (a : BitVec 6) (imm : BitVec 14) (g : BitVec 4)
  /-- XORI: XORs with a sign-extended immediate. (R145) -/
  | xori (d : BitVec 6) (a : BitVec 6) (imm : BitVec 14) (g : BitVec 4)
  /-- SHLI: Shifts left by an immediate 0-63. (R145) -/
  | shli (d : BitVec 6) (a : BitVec 6) (imm : BitVec 14) (g : BitVec 4)
  /-- SHRI: Logical right shift by an immediate. (R145) -/
  | shri (d : BitVec 6) (a : BitVec 6) (imm : BitVec 14) (g : BitVec 4)
  /-- SARI: Arithmetic right shift by an immediate. (R145) -/
  | sari (d : BitVec 6) (a : BitVec 6) (imm : BitVec 14) (g : BitVec 4)
  /-- CMPI.cc: Compares a scalar with an 11-bit immediate into a predicate. (R147) -/
  | cmpi (d : BitVec 6) (a : BitVec 6) (cc : BitVec 3) (imm : BitVec 11) (g : BitVec 4)
  /-- LIM: Loads sext(IMM20) << 12 into a scalar. (R146) -/
  | lim (d : BitVec 6) (imm : BitVec 20) (g : BitVec 4)
  /-- LIH: Sets bits [51:32] of a scalar from IMM20. (R146) -/
  | lih (d : BitVec 6) (imm : BitVec 20) (g : BitVec 4)
  /-- PTRI: Adds a signed immediate to a pointer offset and checks it. (R151) -/
  | ptri (d : BitVec 6) (a : BitVec 6) (imm : BitVec 14) (g : BitVec 4)
  /-- LSCR: Writes a pointer into the own scratchpad at IMM14 x 16. (R152) -/
  | lscr (d : BitVec 6) (imm : BitVec 14) (g : BitVec 4)
  /-- LDB: Loads a sign-extended byte. (R156) -/
  | ldb (d : BitVec 6) (a : BitVec 6) (cls : BitVec 3) (sem : BitVec 2) (sco : BitVec 3) (off : BitVec 6) (g : BitVec 4)
  /-- LDBN: Loads a zero-extended byte. (R156) -/
  | ldbn (d : BitVec 6) (a : BitVec 6) (cls : BitVec 3) (sem : BitVec 2) (sco : BitVec 3) (off : BitVec 6) (g : BitVec 4)
  /-- LDH: Loads a sign-extended halfword. (R156) -/
  | ldh (d : BitVec 6) (a : BitVec 6) (cls : BitVec 3) (sem : BitVec 2) (sco : BitVec 3) (off : BitVec 6) (g : BitVec 4)
  /-- LDHN: Loads a zero-extended halfword. (R156) -/
  | ldhn (d : BitVec 6) (a : BitVec 6) (cls : BitVec 3) (sem : BitVec 2) (sco : BitVec 3) (off : BitVec 6) (g : BitVec 4)
  /-- LDW: Loads a sign-extended word. (R156) -/
  | ldw (d : BitVec 6) (a : BitVec 6) (cls : BitVec 3) (sem : BitVec 2) (sco : BitVec 3) (off : BitVec 6) (g : BitVec 4)
  /-- LDWN: Loads a zero-extended word. (R156) -/
  | ldwn (d : BitVec 6) (a : BitVec 6) (cls : BitVec 3) (sem : BitVec 2) (sco : BitVec 3) (off : BitVec 6) (g : BitVec 4)
  /-- LDD: Loads a doubleword. (R156) -/
  | ldd (d : BitVec 6) (a : BitVec 6) (cls : BitVec 3) (sem : BitVec 2) (sco : BitVec 3) (off : BitVec 6) (g : BitVec 4)
  /-- STB: Stores the low byte of a scalar. (R156) -/
  | stb (d : BitVec 6) (a : BitVec 6) (cls : BitVec 3) (sem : BitVec 2) (sco : BitVec 3) (off : BitVec 6) (g : BitVec 4)
  /-- STH: Stores the low halfword of a scalar. (R156) -/
  | sth (d : BitVec 6) (a : BitVec 6) (cls : BitVec 3) (sem : BitVec 2) (sco : BitVec 3) (off : BitVec 6) (g : BitVec 4)
  /-- STW: Stores the low word of a scalar. (R156) -/
  | stw (d : BitVec 6) (a : BitVec 6) (cls : BitVec 3) (sem : BitVec 2) (sco : BitVec 3) (off : BitVec 6) (g : BitVec 4)
  /-- STD: Stores a doubleword. (R156) -/
  | std (d : BitVec 6) (a : BitVec 6) (cls : BitVec 3) (sem : BitVec 2) (sco : BitVec 3) (off : BitVec 6) (g : BitVec 4)
  /-- LDL: Loads the level-j average of a tree element from one snapshot. (R247) -/
  | ldl (d : BitVec 6) (a : BitVec 6) (cls : BitVec 3) (sem : BitVec 2) (sco : BitVec 3) (j : BitVec 3) (g : BitVec 4)
  /-- AADD: Atomic add at the commit point, returning the old value. (R279) -/
  | aadd (d : BitVec 6) (a : BitVec 6) (b : BitVec 6) (sem : BitVec 2) (sco : BitVec 3) (g : BitVec 4)
  /-- AMIN: Atomic signed minimum. (R279) -/
  | amin (d : BitVec 6) (a : BitVec 6) (b : BitVec 6) (sem : BitVec 2) (sco : BitVec 3) (g : BitVec 4)
  /-- AMAX: Atomic signed maximum. (R279) -/
  | amax (d : BitVec 6) (a : BitVec 6) (b : BitVec 6) (sem : BitVec 2) (sco : BitVec 3) (g : BitVec 4)
  /-- AMINN: Atomic natural minimum. (R279) -/
  | aminn (d : BitVec 6) (a : BitVec 6) (b : BitVec 6) (sem : BitVec 2) (sco : BitVec 3) (g : BitVec 4)
  /-- AMAXN: Atomic natural maximum. (R279) -/
  | amaxn (d : BitVec 6) (a : BitVec 6) (b : BitVec 6) (sem : BitVec 2) (sco : BitVec 3) (g : BitVec 4)
  /-- AAND: Atomic AND. (R279) -/
  | aand (d : BitVec 6) (a : BitVec 6) (b : BitVec 6) (sem : BitVec 2) (sco : BitVec 3) (g : BitVec 4)
  /-- AOR: Atomic OR. (R279) -/
  | aor (d : BitVec 6) (a : BitVec 6) (b : BitVec 6) (sem : BitVec 2) (sco : BitVec 3) (g : BitVec 4)
  /-- ASWAP: Atomic swap. (R279) -/
  | aswap (d : BitVec 6) (a : BitVec 6) (b : BitVec 6) (sem : BitVec 2) (sco : BitVec 3) (g : BitVec 4)
  /-- CAS.w: Compare and swap of a word. (R282) -/
  | casW (d : BitVec 6) (a : BitVec 6) (b : BitVec 6) (sem : BitVec 2) (sco : BitVec 3) (g : BitVec 4)
  /-- CAS.d: Compare and swap of a doubleword. (R282) -/
  | casD (d : BitVec 6) (a : BitVec 6) (b : BitVec 6) (sem : BitVec 2) (sco : BitVec 3) (g : BitVec 4)
  /-- FENCE.sem.sc: Orders the S stream's own accesses in a class set. (R283) -/
  | fence (cls : BitVec 3) (sem : BitVec 2) (sco : BitVec 3) (g : BitVec 4)
  /-- BR: Branches by a signed word offset and switches group. (R86) -/
  | br (g : BitVec 4) (n : Bool) (off : BitVec 18)
  /-- CALL: Writes the link and branches. (R87) -/
  | call (g : BitVec 4) (n : Bool) (off : BitVec 18)
  /-- JMPR: Jumps to a scalar target, optionally writing a link. (R88) -/
  | jmpr (g : BitVec 4) (n : Bool) (t : BitVec 6) (l : BitVec 6)
  /-- LOOP: Closes a pipelined loop, stepping LC or ES, stage predicates and RRB. (R90) -/
  | loop (g : BitVec 4) (n : Bool) (off : BitVec 18)
  /-- LSET: Sets LC, ES and stage predicates for a pipelined loop. (R89) -/
  | lset (g : BitVec 4) (n : Bool) (c : BitVec 6) (stages : BitVec 4) (imm : BitVec 8)
  /-- RDV.fin: Arrives at a final join of a group and ends the stream when it closes. (R92) -/
  | rdvFin (grp : BitVec 8)
  /-- RDV.mid: Arrives at a mid join and resumes at cycle 0 of a new group. (R92) -/
  | rdvMid (grp : BitVec 8)
  /-- EXIT: Ends the stream at once and withdraws it from groups, joins and barriers. (R93) -/
  | exit (g : BitVec 4) (n : Bool) (code : BitVec 16)
  /-- WAITC: Issues nothing for n ec. (R94) -/
  | waitc (g : BitVec 4) (n : Bool) (cnt : BitVec 18)
  /-- YIELD: Offers a yield point; a pending pre-emption request is taken there. (R95) -/
  | yield
  /-- PHASE: Sets the gang's pattern request and recomputes the cluster's applied pattern. (R96) -/
  | phase (g : BitVec 4) (n : Bool) (k : BitVec 4)
  /-- LEASE: Requests or releases a lease of array commands for the core. (R204) -/
  | lease (g : BitVec 4) (n : Bool) (cnt : BitVec 5)
  /-- BAR.INIT: Initialises an idle barrier on a group. (R287) -/
  | barInit (g : BitVec 4) (n : Bool) (bid : BitVec 8) (sc : BitVec 6)
  /-- BAR.EXPB: Adds expected bytes to the current or horizon phase. (R288) -/
  | barExpb (g : BitVec 4) (n : Bool) (bid : BitVec 8) (sc : BitVec 6)
  /-- BAR.ARV.sc: Arrives at a barrier with a release. (R289) -/
  | barArv (g : BitVec 4) (n : Bool) (bid : BitVec 8) (sco : BitVec 3)
  /-- BAR.WAIT.sc: Freezes the gang until the target phase passes, then acquires. (R290) -/
  | barWait (g : BitVec 4) (n : Bool) (bid : BitVec 8) (sco : BitVec 3)
  /-- BAR.AW.sc: Arrives and then waits on the phase it named. (R291) -/
  | barAw (g : BitVec 4) (n : Bool) (bid : BitVec 8) (sco : BitVec 3)
  /-- MFSR: Reads a system register into a scalar. (R98) -/
  | mfsr (g : BitVec 4) (n : Bool) (d : BitVec 6) (reg : BitVec 12)
  /-- MTSR: Writes a scalar to a system register. (R98) -/
  | mtsr (g : BitVec 4) (n : Bool) (a : BitVec 6) (reg : BitVec 12)
  /-- TRAP: Stops the gang with cause 0x11 for kernel service. (R397) -/
  | trap (g : BitVec 4) (n : Bool) (code : BitVec 12)
  /-- EVNT: Releases at device scope and appends an event record to the ring. (R398) -/
  | evnt (g : BitVec 4) (n : Bool) (code : BitVec 12)
  /-- TLBI: Releases and invalidates page translations across the virtual device, freezing until done. (R371) -/
  | tlbi (g : BitVec 4) (n : Bool) (a : BitVec 6)
  /-- DINV: Drops the S view-buffer copy and T KV header capture of one granule. (R372) -/
  | dinv (g : BitVec 4) (n : Bool) (a : BitVec 6)
  /-- HALT: Stops the issuing gang and then every gang of the job. (R399) -/
  | halt (g : BitVec 4) (n : Bool)
  /-- CSAVE: Records a pending checkpoint pointer for the next yield point. (R400) -/
  | csave (g : BitVec 4) (n : Bool) (a : BitVec 6)
  /-- LHASH: Probes or inserts a key in a hash table. (R339) -/
  | lhash (g : BitVec 4) (n : Bool) (d : BitVec 6) (a : BitVec 6) (b : BitVec 6)
  /-- LGATH: Gathers table rows by index list. (R341) -/
  | lgath (g : BitVec 4) (n : Bool) (d : BitVec 6) (a : BitVec 6) (b : BitVec 6)
  /-- LPOOL: Sums bags of rows in f32 RNE. (R341) -/
  | lpool (g : BitVec 4) (n : Bool) (d : BitVec 6) (a : BitVec 6) (b : BitVec 6)
  /-- LSCAT: Scatter-adds source rows into table rows atomically per element. (R341) -/
  | lscat (g : BitVec 4) (n : Bool) (d : BitVec 6) (a : BitVec 6) (b : BitVec 6)
  /-- LHAND: Copies a tile from LPE into a core's scratchpad with tag and barrier. (R344) -/
  | lhand (g : BitVec 4) (n : Bool) (d : BitVec 6) (a : BitVec 6) (b : BitVec 6)
  /-- VADD: Lane-wise add. (R168) -/
  | vadd (d : BitVec 6) (a : BitVec 7) (b : BitVec 7) (x : Bool) (w : Bool) (g : BitVec 4)
  /-- VSUB: Lane-wise subtract. (R168) -/
  | vsub (d : BitVec 6) (a : BitVec 7) (b : BitVec 7) (x : Bool) (w : Bool) (g : BitVec 4)
  /-- VMUL: Lane-wise multiply. (R168) -/
  | vmul (d : BitVec 6) (a : BitVec 7) (b : BitVec 7) (x : Bool) (w : Bool) (g : BitVec 4)
  /-- VFMA: Lane-wise fused multiply-add with D as addend. (R168) -/
  | vfma (d : BitVec 6) (a : BitVec 7) (b : BitVec 7) (x : Bool) (w : Bool) (g : BitVec 4)
  /-- VFMS: Lane-wise fused multiply-subtract. (R168) -/
  | vfms (d : BitVec 6) (a : BitVec 7) (b : BitVec 7) (x : Bool) (w : Bool) (g : BitVec 4)
  /-- VMIN: Lane-wise minimum. (R168) -/
  | vmin (d : BitVec 6) (a : BitVec 7) (b : BitVec 7) (x : Bool) (w : Bool) (g : BitVec 4)
  /-- VMAX: Lane-wise maximum. (R168) -/
  | vmax (d : BitVec 6) (a : BitVec 7) (b : BitVec 7) (x : Bool) (w : Bool) (g : BitVec 4)
  /-- VUN.fn: Applies the unary function selected by B to each lane. (R171) -/
  | vun (d : BitVec 6) (a : BitVec 7) (fn : BitVec 7) (x : Bool) (w : Bool) (g : BitVec 4)
  /-- VAND: Lane-wise AND. (R172) -/
  | vand (d : BitVec 6) (a : BitVec 7) (b : BitVec 7) (x : Bool) (w : Bool) (g : BitVec 4)
  /-- VOR: Lane-wise OR. (R172) -/
  | vor (d : BitVec 6) (a : BitVec 7) (b : BitVec 7) (x : Bool) (w : Bool) (g : BitVec 4)
  /-- VXOR: Lane-wise XOR. (R172) -/
  | vxor (d : BitVec 6) (a : BitVec 7) (b : BitVec 7) (x : Bool) (w : Bool) (g : BitVec 4)
  /-- VSHL: Lane-wise left shift. (R172) -/
  | vshl (d : BitVec 6) (a : BitVec 7) (b : BitVec 7) (x : Bool) (w : Bool) (g : BitVec 4)
  /-- VSHR: Lane-wise logical right shift. (R172) -/
  | vshr (d : BitVec 6) (a : BitVec 7) (b : BitVec 7) (x : Bool) (w : Bool) (g : BitVec 4)
  /-- VSAR: Lane-wise arithmetic right shift. (R172) -/
  | vsar (d : BitVec 6) (a : BitVec 7) (b : BitVec 7) (x : Bool) (w : Bool) (g : BitVec 4)
  /-- VFSL: Funnel shift left within each lane pair. (R173) -/
  | vfsl (d : BitVec 6) (a : BitVec 7) (b : BitVec 7) (x : Bool) (w : Bool) (g : BitVec 4)
  /-- VFSR: Funnel shift right within each lane pair. (R173) -/
  | vfsr (d : BitVec 6) (a : BitVec 7) (b : BitVec 7) (x : Bool) (w : Bool) (g : BitVec 4)
  /-- VHAR: One forward Haar level in a register. (R251) -/
  | vhar (d : BitVec 6) (a : BitVec 7) (x : Bool) (w : Bool) (g : BitVec 4)
  /-- VIHR: One inverse Haar level in a register. (R251) -/
  | vihr (d : BitVec 6) (a : BitVec 7) (x : Bool) (w : Bool) (g : BitVec 4)
  /-- VCMP.cc: Lane-wise compare into a mask. (R174) -/
  | vcmp (cc : BitVec 3) (mk : BitVec 3) (a : BitVec 7) (b : BitVec 7) (x : Bool) (g : BitVec 4)
  /-- VSEL: Selects bytes of A or B under m0. (R175) -/
  | vsel (d : BitVec 6) (a : BitVec 7) (b : BitVec 7) (w : Bool) (g : BitVec 4)
  /-- VMSK.op: Mask logic between mask registers. (R176) -/
  | vmsk (op : BitVec 3) (mk : BitVec 3) (ma : BitVec 3) (mb : BitVec 3) (g : BitVec 4)
  /-- VCOMP: Compresses enabled lanes to the bottom. (R183) -/
  | vcomp (d : BitVec 6) (a : BitVec 7) (w : Bool) (g : BitVec 4)
  /-- VEXPD: Expands lanes into enabled positions. (R183) -/
  | vexpd (d : BitVec 6) (a : BitVec 7) (w : Bool) (g : BitVec 4)
  /-- VSLU: Slides lanes up by n. (R180) -/
  | vslu (d : BitVec 6) (a : BitVec 7) (n : BitVec 7) (x : Bool) (w : Bool) (g : BitVec 4)
  /-- VSLD: Slides lanes down by n. (R180) -/
  | vsld (d : BitVec 6) (a : BitVec 7) (n : BitVec 7) (x : Bool) (w : Bool) (g : BitVec 4)
  /-- VBRD: Broadcasts a scalar into every lane. (R181) -/
  | vbrd (d : BitVec 6) (a : BitVec 7) (x : Bool) (w : Bool) (g : BitVec 4)
  /-- VIOTA: Writes the lane index converted to the element type. (R182) -/
  | viota (d : BitVec 6) (x : Bool) (w : Bool) (g : BitVec 4)
  /-- VMVS: Moves one lane to a scalar. (R184) -/
  | vmvs (d : BitVec 6) (a : BitVec 7) (idx : BitVec 7) (g : BitVec 4)
  /-- VMSV: Moves a scalar into one lane. (R185) -/
  | vmsv (d : BitVec 6) (a : BitVec 7) (idx : BitVec 7) (x : Bool) (w : Bool) (g : BitVec 4)
  /-- VRED.op: Reduces lane groups into a partial-sum latch, or clears it. (R187) -/
  | vred (y : BitVec 2) (op : BitVec 4) (a : BitVec 7) (x : Bool) (g : BitVec 4)
  /-- VMVY: Copies a partial-sum latch into a vector register. (R189) -/
  | vmvy (d : BitVec 6) (y : BitVec 2) (x : Bool) (w : Bool) (g : BitVec 4)
  /-- VCVT.type.pN: Converts lanes to a target type, one part at a time. (R177) -/
  | vcvt (d : BitVec 6) (a : BitVec 7) (ty : BitVec 4) (part : BitVec 3) (x : Bool) (w : Bool) (g : BitVec 4)
  /-- VSET.shape.type: Sets SHP type, rounding, saturation and group size; a V group switch. (R163) -/
  | vsetShape (ty : BitVec 4) (rm : BitVec 2) (sat : Bool) (gsl : BitVec 4) (g : BitVec 4)
  /-- VSET.th: Sets a threshold register from a scalar. (R163) -/
  | vsetTh (th : BitVec 2) (a : BitVec 6) (g : BitVec 4)
  /-- VSET.tag: Sets the expected tag TAGV. (R163) -/
  | vsetTag (tag : BitVec 16) (g : BitVec 4)
  /-- VLD: Loads a 256-byte row from scratchpad, optionally as a first read. (R191) -/
  | vld (d : BitVec 6) (a : BitVec 6) (cls : BitVec 3) (t : Bool) (u : Bool) (off : BitVec 5) (g : BitVec 4)
  /-- VST: Stores a 256-byte row, masked when unaligned. (R191) -/
  | vst (d : BitVec 6) (a : BitVec 6) (cls : BitVec 3) (u : Bool) (off : BitVec 5) (g : BitVec 4)
  /-- VLDL: Loads a row of level-j averages through a tree lens. (R248) -/
  | vldl (d : BitVec 6) (a : BitVec 6) (cls : BitVec 3) (t : Bool) (j : BitVec 3) (r : BitVec 2) (g : BitVec 4)
  /-- VLDD: Loads a row of level-j details through a tree lens. (R248) -/
  | vldd (d : BitVec 6) (a : BitVec 6) (cls : BitVec 3) (t : Bool) (j : BitVec 3) (r : BitVec 2) (g : BitVec 4)
  /-- VSTL.keep: Stores level-j averages as spine commits in KEEP or FLAT mode. (R249) -/
  | vstl (d : BitVec 6) (a : BitVec 6) (cls : BitVec 3) (flat : Bool) (j : BitVec 3) (r : BitVec 2) (g : BitVec 4)
  /-- VLRG: Loads one row of a rung slot into a vector register. (R235) -/
  | vlrg (d : BitVec 6) (k : BitVec 3) (s : Bool) (i : BitVec 6) (w : Bool) (g : BitVec 4)
  /-- VTHR: Sets mask lanes where the magnitude exceeds a threshold. (R250) -/
  | vthr (th : BitVec 2) (mk : BitVec 3) (a : BitVec 7) (g : BitVec 4)
  /-- MCLM: Claims an operand slot for the gang. (R205) -/
  | mclm (sa : BitVec 8) (g : BitVec 4)
  /-- MREL: Releases an operand slot. (R205) -/
  | mrel (sa : BitVec 8) (g : BitVec 4)
  /-- MFIL: Copies 8 KiB from scratchpad into an operand slot. (R207) -/
  | mfil (sa : BitVec 8) (p : BitVec 8) (k : Bool) (g : BitVec 4)
  /-- MMA: Tile multiply-accumulate from two slots, spending a lease command. (R197) -/
  | mma (ac : BitVec 3) (sa : BitVec 8) (sb : BitVec 8) (z : Bool) (g : BitVec 4)
  /-- MMAT: Tile multiply-accumulate with B stored transposed. (R197) -/
  | mmat (ac : BitVec 3) (sa : BitVec 8) (sb : BitVec 8) (z : Bool) (g : BitVec 4)
  /-- MCNV: Runs the window passes of a convolution as one array command. (R209) -/
  | mcnv (ac : BitVec 3) (sa : BitVec 8) (sb : BitVec 8) (z : Bool) (g : BitVec 4)
  /-- MWIN: Sets the convolution window descriptor. (R208) -/
  | mwin (p : BitVec 8) (g : BitVec 4)
  /-- MCFG.ta.tb.sc: Sets operand types and K scope in the M shadow set. (R199) -/
  | mcfg (ta : BitVec 4) (tb : BitVec 4) (sco : BitVec 3) (g : BitVec 4)
  /-- MRND.rm: Sets the M stream's narrowing rounding mode. (R210) -/
  | mrnd (rm : BitVec 2) (g : BitVec 4)
  /-- MDRN.type: Drains a tile to scratchpad, possibly narrowed. (R213) -/
  | mdrn (ac : BitVec 3) (ty : BitVec 4) (p : BitVec 8) (v : Bool) (k : Bool) (g : BitVec 4)
  /-- MZER: Clears a tile to +0. (R211) -/
  | mzer (ac : BitVec 3) (g : BitVec 4)
  /-- MVER: Sets the expected version of a tile. (R215) -/
  | mver (ac : BitVec 3) (p : BitVec 8) (g : BitVec 4)
  /-- MVER.tag: Sets TAGM. (R215) -/
  | mverTag (p : BitVec 8) (g : BitVec 4)
  /-- MLDA: Loads 16 KiB of f32 from scratchpad into a tile. (R212) -/
  | mlda (ac : BitVec 3) (p : BitVec 8) (k : Bool) (g : BitVec 4)
  /-- LOPN: Opens or continues a ladder from an LCB. (R230) -/
  | lopn (p : BitVec 8) (k : Bool) (g : BitVec 4)
  /-- LSTP: Takes one ladder step with a contribution tile. (R231) -/
  | lstp (ac : BitVec 3) (v : Bool) (g : BitVec 4)
  /-- LRD: Writes the weighted blend of the ladder slots into a tile. (R232) -/
  | lrd (ac : BitVec 3) (v : Bool) (g : BitVec 4)
  /-- LCLS: Writes the LCB header and closes the ladder. (R234) -/
  | lcls (k : Bool) (g : BitVec 4)
  /-- LWGT: Re-captures the ladder's factors and weights. (R233) -/
  | lwgt (k : Bool) (g : BitVec 4)
  /-- TSRC: Sets the transfer source pointer. (R301) -/
  | tsrc (p : BitVec 6) (g : BitVec 4)
  /-- TDST: Sets the transfer destination pointer. (R301) -/
  | tdst (p : BitVec 6) (g : BitVec 4)
  /-- TDIM: Sets an extent or stride of one dimension. (R301) -/
  | tdim (dim : BitVec 2) (what : BitVec 2) (a : BitVec 6) (imm : BitVec 12) (g : BitVec 4)
  /-- TIND.n32: Makes a dimension's source index indirect through a table. (R301) -/
  | tind (dim : BitVec 2) (p : BitVec 6) (iw : BitVec 2) (g : BitVec 4)
  /-- TFMT.st.dt: Sets transfer types, level, mode, saturation and rounding. (R301) -/
  | tfmt (sty : BitVec 4) (dty : BitVec 4) (j : BitVec 3) (flat : Bool) (sat : Bool) (rm : BitVec 2) (g : BitVec 4)
  /-- TSYN: Sets acquire, release, barrier and tag of later commands. (R301) -/
  | tsyn (acq : BitVec 3) (rel : BitVec 3) (ben : Bool) (bid : BitVec 8) (tag : BitVec 7) (g : BitVec 4)
  /-- TCPY: Launches a copy, converting types if they differ. (R308) -/
  | tcpy (g : BitVec 4)
  /-- TLVL: Launches a level read from a GLB tree page. (R309) -/
  | tlvl (g : BitVec 4)
  /-- TENC: Launches a level store into a GLB tree page. (R309) -/
  | tenc (g : BitVec 4)
  /-- TPAK: Launches srl packing of rows. (R311) -/
  | tpak (g : BitVec 4)
  /-- TUNP: Launches srl unpacking of records. (R311) -/
  | tunp (g : BitVec 4)
  /-- TCOL.sum: Launches a collective sum or gather over a group or peer ring. (R312) -/
  | tcol (grp : BitVec 8) (op : BitVec 2) (g : BitVec 4)
  /-- TKVF: Launches a KV block fetch with per-block decisions. (R316) -/
  | tkvf (p : BitVec 6) (r : BitVec 6) (pk : BitVec 3) (g : BitVec 4)
  /-- TFIL: Launches a fill of the destination with a scalar pattern. (R308) -/
  | tfil (p : BitVec 6) (g : BitVec 4)
  /-- TOPS: Launches a copy into an operand slot. (R308) -/
  | tops (slot : BitVec 8) (g : BitVec 4)
  /-- TDRP.drop: Launches demotion or dropping of KV blocks. (R318) -/
  | tdrp (p : BitVec 6) (r : BitVec 6) (drop : Bool) (g : BitVec 4)
  /-- TRANSFER_START: A launched command starts 16 pulses after its GO word (28 if indirect). (R305) -/
  | transferStart (id : Nat)
  /-- TRANSFER_COMPLETE: A tagged command completes, stamps tags, clears pending, releases and subtracts barrier bytes. (R68) -/
  | transferComplete (id : Nat)
  /-- TRANSFER_FAULT: An in-flight fault or cancellation ends a command, stamps 0xFFFF and orphans its barrier. (R320) -/
  | transferFault (id : Nat) (cause : BitVec 8)
  /-- PAGE_FAULT_SERVICE: The resident kernel ends a page-fault service by mapping, converting the fault or killing. (R370) -/
  | pageFaultService (id : Nat) (how : Service)
  /-- REPLY_ARRIVAL: A memory reply arrives; it is held to its due slot or ends a late-reply freeze. (R60) -/
  | replyArrival (id : Nat)
  /-- FREEZE_TIMEOUT: A freeze reaching 2^LOG2 mc raises a freeze-timeout fault. (R66) -/
  | freezeTimeout (gang : Nat)
  /-- YIELD_SPACING_FAULT: Ec e + Y is not a yield point and the gang faults 0x0F. (R75) -/
  | yieldSpacingFault (gang : Nat)
  /-- JOIN_RELEASE: Join hardware ends the skew freeze of every member gang 16 mc after the last arrival. (R56) -/
  | joinRelease (vd grp : Nat)
  /-- LEASE_TAKEOVER: After an 8-mc lease freeze the arbiter revokes the holder and grants the requester. (R204) -/
  | leaseTakeover (gang quad pos : Nat) (cnt : BitVec 5)
  /-- TILE_READY: A tile command reaches its ready ec or occupancy end and sets its flags. (R49) -/
  | tileReady (gang rank : Nat) (flags : BitVec 5)
  /-- MFIL_STAMP: At issue + 32 the fill stamps its slot with the TAGM of its issue ec. (R207) -/
  | mfilStamp (gang quad slot : Nat) (tag : BitVec 16)
  /-- MDRN_COMPLETE: The last drained byte commits; release and TVER increment follow, ending version waits. (R213) -/
  | mdrnComplete (gang rank : Nat) (tile : BitVec 3) (rel : Bool) (sco : BitVec 3)
  /-- BARRIER_ARRIVAL_COUNT: An arrival's release is performed and its count lands in ARR or HARR. (R289) -/
  | barrierArrivalCount (vd bar : Nat) (gen : BitVec 16)
  /-- LOUPE_COMMAND_COMPLETE: A Loupe command completes and writes its result to s[D]. (R338) -/
  | loupeCommandComplete (id : Nat)
  /-- LHAND_COMPLETE: A hand-off completes: stamps its tag, releases and subtracts its bytes. (R344) -/
  | lhandComplete (id : Nat)
  /-- LOUPE_SLICE_END: An 8192-mc slice expires and the Loupe core moves to the next ready context. (R334) -/
  | loupeSliceEnd (die idx : Nat)
  /-- TLBI_COMPLETE: Every invalidation has completed and the TLBI freeze ends. (R371) -/
  | tlbiComplete (agent : Agent)
  /-- PREEMPT_REQUEST: The dispatcher marks every gang of a job for pre-emption. (R74) -/
  | preemptRequest (job : Nat)
  /-- YIELD_HOLD_RELEASE: Every gang of the job stands at a yield point or has ended, and all save. (R76) -/
  | yieldHoldRelease (job : Nat)
  /-- CONTEXT_SAVE: After the drain the context-save engine writes the gang's save area. (R403) -/
  | contextSave (gang : Nat)
  /-- CHECKPOINT: At the yield point after CSAVE the image is written, released and the gang resumes. (R400) -/
  | checkpoint (gang : Nat)
  /-- HALT_REMOTE_STOP: Other gangs of a halted job stop at their first ec 16 mc after the HALT. (R399) -/
  | haltRemoteStop (gang : Nat)
  /-- MIRROR_REPAIR: An uncorrectable primary read of the mirror region is repaired by the lockstep pair. (R409) -/
  | mirrorRepair (pa : Nat) (mirrorGood readback : Bool)
  /-- LINK_RETRY: A parity-failed codeword transfer is retried after 24 mc. (R412) -/
  | linkRetry (fault : LinkFault)
  /-- LNOTIFY: A job's write to the launch-notify register releases and submits a launch record. (R102) -/
  | lnotify (vd : Nat) (ptr : BitVec 64)
  /-- BIND: Firmware binds the highest effective-priority launch that can be placed. (R105) -/
  | bind (vd : Nat)
  /-- JOB_LOAD: A start command loads or restores every gang of the job. (R110) -/
  | jobLoad (job : Nat)
  /-- START_CYCLE: At the first 16-aligned mc after loading, every stream starts at ec 0. (R53) -/
  | startCycle (job : Nat)
  /-- PATTERN_FRAME: A 16-mc frame boundary applies the recomputed or ramp pattern. (R119) -/
  | patternFrame (die cluster : Nat)
  /-- FORCED_LOWERING: A lowered cap unapplied for 2^20 mc forces a recomputation. (R117) -/
  | forcedLowering (die cluster : Nat)
  /-- IDLE_TIMEOUT: A virtual device idle for its IDLE time enters COLLAPSING. (R376) -/
  | idleTimeout (vd : Nat)
  /-- COLLAPSE: Once saves finish the collapse copies images, gates clusters and enters DORMANT. (R378) -/
  | collapse (vd : Nat)
  /-- WAKE_DOORBELL: A host doorbell or permitted peer write wakes the virtual device. (R379) -/
  | wakeDoorbell (vd : Nat) (peer : Bool)
  /-- WAKE_COMPLETE: Regions and clusters return, the ramp runs and the state becomes ACTIVE. (R381) -/
  | wakeComplete (vd : Nat)
  /-- LANE_TEST_COMPLETE: After the 7200-mc lane test the faulty lane is swapped to a spare or 0x10 returned. (R412) -/
  | laneTestComplete (fault : LinkFault) (lane : Option (BitVec 8))
  /-- FLG_WRITE: A write to FLG replaces the sticky flags from the next ec. (R99) -/
  | flgWrite (gang rank : Nat) (v : BitVec 64)
  /-- VW_WRITE: A write to VW changes the tile view for V words from the next ec. (R25) -/
  | vwWrite (gang rank : Nat) (v : BitVec 64)
  /-- WDOG_WRITE: Sets the watchdog limit, ignoring values outside 16-26. (R65) -/
  | wdogWrite (vd : Nat) (v : BitVec 64)
  /-- PAT_WRITE: Rewrites a pattern entry from the next frame unless invalid. (R115) -/
  | patWrite (die cluster : Nat) (k : BitVec 4) (v : BitVec 64)
  /-- NQHEAD_WRITE: Advancing NQHEAD moves deferred regions into freed notification entries. (R375) -/
  | nqheadWrite (vd : Nat) (v : BitVec 64)
  /-- NACK_WRITE: Clears a region's counter, pending and deferred bits. (R375) -/
  | nackWrite (vd : Nat) (v : BitVec 64)
  /-- REGISTER_WRITE: Write to a system register that has no behaviour of its own. (R433) -/
  | registerWrite (vd : Nat) (reg : BitVec 12) (v : BitVec 64)
  /-- ACCESS_COMMIT: The ordering machine takes a queued access out of its class queue, committing a store or performing a release action at the commit point, where the race check of R328 is made. (R264) -/
  | accessCommit (id : Nat)
  /-- VIEW_BUFFER_DROP: The machine drops a copy of a GLB granule from an agent's view buffer. (R265) -/
  | viewBufferDrop (agent : Agent) (granule : Nat)
  /-- COMMAND_HALT: A T or Loupe command halts at a unit whose GLB address takes a page fault, recording its resume offset, without freezing the gang. (R319) -/
  | commandHalt (id : Nat) (va : BitVec 64)
  /-- LAUNCH: Host command carrying a launch record pointer. (R388) -/
  | launch (q : CmdQueue)
  /-- IDENTIFY: Returns part, revision and certificates. (R388) -/
  | identify (q : CmdQueue)
  /-- STATUS: Returns virtual device state, caps, counts and SELF. (R388) -/
  | status (q : CmdQueue)
  /-- LOG: Returns the array and link log rings. (R415) -/
  | log (q : CmdQueue)
  /-- SELFTEST: Runs the self-test when no virtual device is present. (R416) -/
  | selftest (q : CmdQueue)
  /-- VD_CREATE: Builds a virtual device from resources, or refuses it. (R377) -/
  | vdCreate (q : CmdQueue)
  /-- VD_DESTROY: Tears down a virtual device, cancelling launches and jobs with CLASS 2. (R114) -/
  | vdDestroy (q : CmdQueue)
  /-- VD_SLEEP: Starts a collapse of a virtual device. (R378) -/
  | vdSleep (q : CmdQueue)
  /-- VD_WAKE: Wakes a collapsing or dormant virtual device. (R379) -/
  | vdWake (q : CmdQueue)
  /-- LOAD_IMAGE: Copies a host buffer into the virtual device's GLB. (R388) -/
  | loadImage (q : CmdQueue)
  /-- ATTEST: Returns a signed attestation report. (R385) -/
  | attest (q : CmdQueue)
  /-- FW_UPDATE: Verifies and writes an image into the inactive flash bank. (R386) -/
  | fwUpdate (q : CmdQueue)
  /-- SET_CAP: A cap message, by command or MCTP, is applied if newer. (R120) -/
  | setCap (src : CapSource)
  /-- HELD_ACCESS: An access to a dormant virtual device is held and counts as a wake. (R380) -/
  | heldAccess (vd : Nat) (acc : OutsideAccess)
  /-- OUTSIDE_AGENT_ACCESS: A host, peer, resident-kernel or other-gang access reaches device memory and updates shadow entries as kind 3. (R325) -/
  | outsideAgentAccess (vd : Nat) (acc : OutsideAccess)
  /-- MASTER_CLOCK_CHANGE: A die's master clock changes rate while no gang is bound on it, and TIME keeps its reference rate. (R116) -/
  | masterClockChange (die : Nat) (num den : Nat)
  /-- KERNEL_END_JOB: The kernel ends a stopped job with CLASS 1, killing its other gangs. (R394) -/
  | kernelEndJob (job : Nat)
  /-- KERNEL_RESUME_IN_PLACE: The kernel resumes a stopped gang on the same cores from its recorded PCs. (R394) After a TRAP it
  may write return values into registers of the stopped rank first (R397): each a rank, or 0x40 + the Loupe index, and a
  register's value. Of a gang that KERNEL_SAVE had saved it is the resume of R78. -/
  | kernelResumeInPlace (gang : Nat) (values : List (Nat × RegValue))
  /-- KERNEL_SAVE: The kernel has a stopped gang saved for later resume or end. (R394) -/
  | kernelSave (gang : Nat)
  /-- KERNEL_LAUNCH: The resident kernel places a launch record into a virtual device's launch queue, the only path that honours PRIV. (R102) With
  save areas, one for each gang, into which checkpoint images have been copied, the job is bound with RESUME = 1. (R400) -/
  | kernelLaunch (vd : Nat) (ptr : LaunchPtr)
  /-- GRAPH_EDIT: The resident kernel registers or edits a graph, making a new version that later launches capture. (R113) -/
  | graphEdit (vd : Nat) (graph : BitVec 32) (records : List (BitVec 64))
  /-- CAP_LEASE_EXPIRY: A cap lease expires and the budget falls to the floor budget. (R120) -/
  | capLeaseExpiry
  /-- RESET: Boot ROM runs the self-test and verifies the flash images. (R383) -/
  | reset
  /-- KHB_WRITE: Kernel heartbeat write restarts the heartbeat timer. (R405) -/
  | khbWrite
  /-- KPANIC_WRITE: Kernel panic write declares the kernel crashed and starts kernel hold. (R405) -/
  | kpanicWrite
  /-- HEARTBEAT_TIMEOUT: KHB unwritten for KHBT ms declares the kernel crashed. (R405) -/
  | heartbeatTimeout
  /-- KREADY_WRITE: Warm start done ends kernel hold for every virtual device. (R407) -/
  | kreadyWrite
  /-- WARM_START_RETRY: KREADY absent for 2 s repeats the warm start, ending jobs after three failures. (R407) -/
  | warmStartRetry
  deriving DecidableEq, Repr

end Sys2Proof
end

