-- ==== Sys2Proof/WellFormed.lean ====
section
/-! DEFINITION. The range part of check 3 of R31: which register, mode, scope, type and form codes each word admits
(R33-R36, R39, R41, R43-R45). The zero fields are checked on the word itself, in Decode. An event has no word and no
such check. -/
namespace Sys2Proof

/-- S destination, and any field that admits only s0-s55 (R33). -/
def okD (d : BitVec 6) : Bool := decide (d.toNat < 56)
/-- Predicate destination p1-p7 (R33). -/
def okP (d : BitVec 6) : Bool := decide (1 ≤ d.toNat) && decide (d.toNat ≤ 7)
/-- Predicate source p0-p7 (R33). -/
def okPs (d : BitVec 6) : Bool := decide (d.toNat ≤ 7)
/-- W = 1 requires D = 0 (R34). -/
def okW (w : Bool) (d : BitVec 6) : Bool := !w || d == 0
/-- V source: v0-v63 or b0-b7 (R33). -/
def okV (a : BitVec 7) : Bool := decide (a.toNat < 72)
/-- Scalar named in a 7-bit field of a V word (R33). -/
def okS7 (a : BitVec 7) : Bool := decide (a.toNat < 56)
/-- Scalar named in an 8-bit field of an M word (R44). -/
def okS8 (a : BitVec 8) : Bool := decide (a.toNat < 56)
/-- Scopes 6 and 7 are reserved (R35). -/
def okSco (sco : BitVec 3) : Bool := decide (sco.toNat ≤ 5)
/-- SEM and SCO: SCO is 0 when SEM is 00 (R35). -/
def okSem (sem : BitVec 2) (sco : BitVec 3) : Bool := okSco sco && (sem != 0 || sco == 0)
/-- A load admits SEM 00 or 01 (R39, R155). -/
def okLd (sem : BitVec 2) (sco : BitVec 3) : Bool := okSem sem sco && (sem == 0 || sem == 1)
/-- A store admits SEM 00 or 10 (R39, R155). -/
def okSt (sem : BitVec 2) (sco : BitVec 3) : Bool := okSem sem sco && (sem == 0 || sem == 2)
/-- Scalar source of a control word: a latch may be named in S only (R33). -/
def okCS (st : Stream) (a : BitVec 6) : Bool := st == .s || okD a
/-- log2 of the lane count of an element type (R160). -/
def laneLog (ty : BitVec 4) : Nat :=
  match ty.toNat with
  | 1 | 2 | 6 | 7 => 7
  | 3 | 8 | 9 => 8
  | _ => 6
/-- The operand type pairs an array command admits (R195). -/
def okPair (ta tb : BitVec 4) : Bool :=
  let half (x : BitVec 4) := x == 1 || x == 2
  let byte (x : BitVec 4) := x == 3 || x == 0xA
  let thin (x : BitVec 4) := x == 0xB || x == 0xC
  (half ta && half tb) || (byte ta && byte tb) || (thin ta && thin tb)

/-- Access of a system register (R100, R433). -/
inductive SysAccess where
  | ro | rw | wo
  deriving DecidableEq, Repr

/-- The system register map of R100 and R433; `none` is an unassigned number. -/
def sysAccess (n : Nat) : Option SysAccess :=
  if n < 3 then some .ro
  else if n = 8 ∨ n = 9 then some .rw
  else if n = 0xA ∨ n = 0xB then some .ro
  else if 0x10 ≤ n ∧ n ≤ 0x13 then some .ro
  else if n = 0x20 then some .wo
  else if 0x100 ≤ n ∧ n < 0x140 then
    match n % 16 with
    | 0 => some .ro
    | 1 | 2 | 3 | 4 => if n < 0x110 then some .rw else some .ro
    | 5 => if n < 0x110 then none else some .ro
    | _ => none
  else if 0x200 ≤ n ∧ n < 0x208 then some .ro
  else if n = 0x800 then some .rw
  else if 0x810 ≤ n ∧ n ≤ 0x821 then some .rw
  else if n = 0x822 then some .ro
  else if n = 0x823 then some .rw
  else if n = 0x824 then some .wo
  else if n = 0x825 then some .rw
  else if 0x830 ≤ n ∧ n ≤ 0x832 then some .wo
  else if 0x840 ≤ n ∧ n ≤ 0x84F then some .rw
  else if n = 0x880 ∨ n = 0x882 then some .rw
  else if n = 0x881 ∨ n = 0x883 ∨ n = 0x884 then some .ro
  else none

/-- An MFSR may name it: assigned and not WO (R98). -/
def sysReadable (n : Nat) : Bool := sysAccess n == some .ro || sysAccess n == some .rw
/-- An MTSR may name it: assigned and not RO (R98). -/
def sysWritable (n : Nat) : Bool := sysAccess n == some .wo || sysAccess n == some .rw

/-- The ranges of check 3 of R31, for a word decoded by stream `st`. -/
def Instr.wf (st : Stream) : Instr → Bool
  | .add d _ _ w _ => okD d && okW w d
  | .sub d _ _ w _ => okD d && okW w d
  | .and d _ _ w _ => okD d && okW w d
  | .or d _ _ w _ => okD d && okW w d
  | .xor d _ _ w _ => okD d && okW w d
  | .andn d _ _ w _ => okD d && okW w d
  | .min d _ _ w _ => okD d && okW w d
  | .max d _ _ w _ => okD d && okW w d
  | .minn d _ _ w _ => okD d && okW w d
  | .maxn d _ _ w _ => okD d && okW w d
  | .shl d _ _ w _ => okD d && okW w d
  | .shr d _ _ w _ => okD d && okW w d
  | .sar d _ _ w _ => okD d && okW w d
  | .rotr d _ _ w _ => okD d && okW w d
  | .clz d _ w _ => okD d && okW w d
  | .popc d _ w _ => okD d && okW w d
  | .mul d _ _ w _ => okD d && okW w d
  | .mulh d _ _ w _ => okD d && okW w d
  | .mulhn d _ _ w _ => okD d && okW w d
  | .div d _ _ w _ => okD d && okW w d
  | .divn d _ _ w _ => okD d && okW w d
  | .rem d _ _ w _ => okD d && okW w d
  | .remn d _ _ w _ => okD d && okW w d
  | .cmp d _ _ cc _ => okP d && cc != 7
  | .pand d a b _ => okP d && okPs a && okPs b
  | .por d a b _ => okP d && okPs a && okPs b
  | .pxor d a b _ => okP d && okPs a && okPs b
  | .pnot d a _ => okP d && okPs a
  | .ptos d w _ => okD d && okW w d
  | .stop _ _ => true
  | .ptrmk d _ _ w _ => okD d && okW w d
  | .ptrsp d _ w _ => okD d && okW w d
  | .ptrrk d _ w _ => okD d && okW w d
  | .ptrof d _ w _ => okD d && okW w d
  | .ptradd d _ _ w _ => okD d && okW w d
  | .fadd d _ _ w _ => okD d && okW w d
  | .fsub d _ _ w _ => okD d && okW w d
  | .fmul d _ _ w _ => okD d && okW w d
  | .ffma d _ _ w _ => okD d && okW w d
  | .fmin d _ _ w _ => okD d && okW w d
  | .fmax d _ _ w _ => okD d && okW w d
  | .fdiv d _ _ w _ => okD d && okW w d
  | .fsqrt d _ w _ => okD d && okW w d
  | .cvtif d _ w _ => okD d && okW w d
  | .cvtnf d _ w _ => okD d && okW w d
  | .cvtfi d _ w _ => okD d && okW w d
  | .cvtfiz d _ w _ => okD d && okW w d
  | .fcmpLt d _ _ _ => okP d
  | .fcmpLe d _ _ _ => okP d
  | .fcmpEq d _ _ _ => okP d
  | .addi d _ _ _ => okD d
  | .andi d _ _ _ => okD d
  | .ori d _ _ _ => okD d
  | .xori d _ _ _ => okD d
  | .shli d _ imm _ => okD d && decide (imm.toNat < 64)
  | .shri d _ imm _ => okD d && decide (imm.toNat < 64)
  | .sari d _ imm _ => okD d && decide (imm.toNat < 64)
  | .cmpi d _ cc _ _ => okP d && cc != 7
  | .lim d _ _ => okD d
  | .lih d _ _ => okD d
  | .ptri d _ _ _ => okD d
  | .lscr d _ _ => okD d
  | .ldb d _ _ sem sco _ _ => okD d && okLd sem sco
  | .ldbn d _ _ sem sco _ _ => okD d && okLd sem sco
  | .ldh d _ _ sem sco _ _ => okD d && okLd sem sco
  | .ldhn d _ _ sem sco _ _ => okD d && okLd sem sco
  | .ldw d _ _ sem sco _ _ => okD d && okLd sem sco
  | .ldwn d _ _ sem sco _ _ => okD d && okLd sem sco
  | .ldd d _ _ sem sco _ _ => okD d && okLd sem sco
  | .stb _ _ _ sem sco _ _ => okSt sem sco
  | .sth _ _ _ sem sco _ _ => okSt sem sco
  | .stw _ _ _ sem sco _ _ => okSt sem sco
  | .std _ _ _ sem sco _ _ => okSt sem sco
  | .ldl d _ _ sem sco j _ => okD d && okLd sem sco && j != 7
  | .aadd d _ _ sem sco _ => okD d && okSem sem sco
  | .amin d _ _ sem sco _ => okD d && okSem sem sco
  | .amax d _ _ sem sco _ => okD d && okSem sem sco
  | .aminn d _ _ sem sco _ => okD d && okSem sem sco
  | .amaxn d _ _ sem sco _ => okD d && okSem sem sco
  | .aand d _ _ sem sco _ => okD d && okSem sem sco
  | .aor d _ _ sem sco _ => okD d && okSem sem sco
  | .aswap d _ _ sem sco _ => okD d && okSem sem sco
  | .casW d _ _ sem sco _ => okD d && okSem sem sco
  | .casD d _ _ sem sco _ => okD d && okSem sem sco
  | .fence _ sem sco _ => sem != 0 && okSco sco
  | .br _ _ _ => true
  | .call _ _ _ => true
  | .jmpr _ _ t l => okCS st t && okD l && (l == 0 || st == .s || st == .l)
  | .loop _ _ off => off.msb
  | .lset _ _ c stages _ => okCS st c && decide (1 ≤ stages.toNat) && decide (stages.toNat ≤ 8)
  | .rdvFin _ => true
  | .rdvMid _ => true
  | .exit _ _ _ => true
  | .waitc _ _ cnt => cnt != 0
  | .yield => true
  | .phase _ _ _ => true
  | .lease _ _ cnt => decide (cnt.toNat ≤ 16)
  | .barInit _ _ _ sc => okCS st sc
  | .barExpb _ _ _ sc => okCS st sc
  | .barArv _ _ _ sco => okSco sco
  | .barWait _ _ _ sco => okSco sco
  | .barAw _ _ _ sco => okSco sco
  | .mfsr _ _ d reg => okD d && sysReadable reg.toNat
  | .mtsr _ _ a reg => okCS st a && sysWritable reg.toNat
  | .trap _ _ _ => true
  | .evnt _ _ _ => true
  | .tlbi _ _ a => okCS st a
  | .dinv _ _ a => okCS st a
  | .halt _ _ => true
  | .csave _ _ a => okCS st a
  | .lhash _ _ d a b => okD d && okD a && okD b
  | .lgath _ _ d a b => okD d && okD a && okD b
  | .lpool _ _ d a b => okD d && okD a && okD b
  | .lscat _ _ d a b => okD d && okD a && okD b
  | .lhand _ _ d a b => okD d && okD a && okD b
  | .vadd d a b _ w _ => okV a && okV b && okW w d
  | .vsub d a b _ w _ => okV a && okV b && okW w d
  | .vmul d a b _ w _ => okV a && okV b && okW w d
  | .vfma d a b _ w _ => okV a && okV b && okW w d
  | .vfms d a b _ w _ => okV a && okV b && okW w d
  | .vmin d a b _ w _ => okV a && okV b && okW w d
  | .vmax d a b _ w _ => okV a && okV b && okW w d
  | .vun d a fn _ w _ => okV a && okW w d && decide (fn.toNat ≤ 9)
  | .vand d a b _ w _ => okV a && okV b && okW w d
  | .vor d a b _ w _ => okV a && okV b && okW w d
  | .vxor d a b _ w _ => okV a && okV b && okW w d
  | .vshl d a b _ w _ => okV a && okV b && okW w d
  | .vshr d a b _ w _ => okV a && okV b && okW w d
  | .vsar d a b _ w _ => okV a && okV b && okW w d
  | .vfsl d a b _ w _ => okV a && okV b && okW w d
  | .vfsr d a b _ w _ => okV a && okV b && okW w d
  | .vhar d a _ w _ => okV a && okW w d
  | .vihr d a _ w _ => okV a && okW w d
  | .vcmp cc _ a b _ _ => okV a && okV b && cc != 7
  | .vsel d a b w _ => okV a && okV b && okW w d
  | .vmsk op _ _ mb _ => decide (op.toNat ≤ 5) && (decide (op.toNat ≤ 2) || mb == 0)
  | .vcomp d a w _ => okV a && okW w d
  | .vexpd d a w _ => okV a && okW w d
  | .vslu d a _ _ w _ => okV a && okW w d
  | .vsld d a _ _ w _ => okV a && okW w d
  | .vbrd d a _ w _ => okS7 a && okW w d
  | .viota d _ w _ => okW w d
  | .vmvs d a _ _ => okD d && okV a
  | .vmsv d a _ _ w _ => okS7 a && okW w d
  | .vred _ op a x _ => okV a && (decide (op.toNat ≤ 5) || (op == 15 && a == 0 && !x))
  | .vmvy d _ _ w _ => okW w d
  | .vcvt d a ty part _ w _ => okV a && okW w d && decide (ty.toNat ≤ 9) && decide (part.toNat ≤ 3)
  | .vsetShape ty _ _ gsl _ => decide (ty.toNat ≤ 9) && decide (gsl.toNat ≤ laneLog ty)
  | .vsetTh _ a _ => okD a
  | .vsetTag _ _ => true
  | .vld _ a _ _ _ _ _ => okD a
  | .vst _ a _ _ _ _ => okD a
  | .vldl _ a _ _ j _ _ => okD a && j != 7
  | .vldd _ a _ _ j _ _ => okD a && j != 7 && j != 0
  | .vstl _ a _ _ j _ _ => okD a && j != 7
  | .vlrg d k _ _ w _ => decide (k.toNat ≤ 5) && okW w d
  | .vthr _ _ a _ => okV a
  | .mclm _ _ => true
  | .mrel _ _ => true
  | .mfil _ p _ _ => okS8 p
  | .mma _ _ _ _ _ => true
  | .mmat _ _ _ _ _ => true
  | .mcnv _ _ _ _ _ => true
  | .mwin p _ => okS8 p
  | .mcfg ta tb sco _ => okPair ta tb && okSco sco
  | .mrnd _ _ => true
  | .mdrn _ ty p _ _ _ => decide (ty.toNat ≤ 2) && okS8 p
  | .mzer _ _ => true
  | .mver _ p _ => okS8 p
  | .mverTag p _ => okS8 p
  | .mlda _ p _ _ => okS8 p
  | .lopn p _ _ => okS8 p
  | .lstp _ _ _ => true
  | .lrd _ _ _ => true
  | .lcls _ _ => true
  | .lwgt _ _ => true
  | .tsrc p _ => okD p
  | .tdst p _ => okD p
  | .tdim dim what a _ _ => okD a && what != 3 && (dim != 0 || what == 0)
  | .tind dim p iw _ => dim != 0 && okD p && decide (iw.toNat ≤ 1)
  | .tfmt sty dty j _ _ _ _ => sty != 0xF && dty != 0xF && j != 7 && ((sty == 0xD) == (dty == 0xD))
  | .tsyn acq rel ben bid _ _ => acq != 6 && rel != 6 && (ben || bid == 0)
  | .tcpy _ => true
  | .tlvl _ => true
  | .tenc _ => true
  | .tpak _ => true
  | .tunp _ => true
  | .tcol _ _ _ => true
  | .tkvf p r pk _ => okD p && okD r && pk != 0
  | .tfil p _ => okD p
  | .tops _ _ => true
  | .tdrp p r _ _ => okD p && okD r
  | .transferStart _ => true
  | .transferComplete _ => true
  | .transferFault _ _ => true
  | .pageFaultService _ _ => true
  | .replyArrival _ => true
  | .freezeTimeout _ => true
  | .yieldSpacingFault _ => true
  | .joinRelease _ _ => true
  | .leaseTakeover _ _ _ _ => true
  | .tileReady _ _ _ => true
  | .mfilStamp _ _ _ _ => true
  | .mdrnComplete _ _ _ _ _ => true
  | .barrierArrivalCount _ _ _ => true
  | .loupeCommandComplete _ => true
  | .lhandComplete _ => true
  | .loupeSliceEnd _ _ => true
  | .tlbiComplete _ => true
  | .preemptRequest _ => true
  | .yieldHoldRelease _ => true
  | .contextSave _ => true
  | .checkpoint _ => true
  | .haltRemoteStop _ => true
  | .kernelEndJob _ => true
  | .kernelResumeInPlace _ _ => true
  | .kernelSave _ => true
  | .lnotify _ _ => true
  | .bind _ => true
  | .jobLoad _ => true
  | .startCycle _ => true
  | .patternFrame _ _ => true
  | .forcedLowering _ _ => true
  | .idleTimeout _ => true
  | .collapse _ => true
  | .wakeDoorbell _ _ => true
  | .wakeComplete _ => true
  | .laneTestComplete _ _ => true
  | .flgWrite _ _ _ => true
  | .vwWrite _ _ _ => true
  | .wdogWrite _ _ => true
  | .patWrite _ _ _ _ => true
  | .nqheadWrite _ _ => true
  | .nackWrite _ _ => true
  | .registerWrite _ _ _ => true
  | .accessCommit _ => true
  | .viewBufferDrop _ _ => true
  | .commandHalt _ _ => true
  | .launch _ => true
  | .identify _ => true
  | .status _ => true
  | .log _ => true
  | .selftest _ => true
  | .vdCreate _ => true
  | .vdDestroy _ => true
  | .vdSleep _ => true
  | .vdWake _ => true
  | .loadImage _ => true
  | .attest _ => true
  | .fwUpdate _ => true
  | .setCap _ => true
  | .heldAccess _ _ => true
  | .outsideAgentAccess _ _ => true
  | .masterClockChange _ _ _ => true
  | .kernelLaunch _ _ => true
  | .graphEdit _ _ _ => true
  | .mirrorRepair _ _ _ => true
  | .linkRetry _ => true
  | .capLeaseExpiry => true
  | .reset => true
  | .khbWrite => true
  | .kpanicWrite => true
  | .heartbeatTimeout => true
  | .kreadyWrite => true
  | .warmStartRetry => true

/-- Streams that accept the word at all (R39, R41, R43-R45). -/
def Instr.validIn (st : Stream) : Instr → Bool
  | .add _ _ _ _ _ => st == .s || st == .l
  | .sub _ _ _ _ _ => st == .s || st == .l
  | .and _ _ _ _ _ => st == .s || st == .l
  | .or _ _ _ _ _ => st == .s || st == .l
  | .xor _ _ _ _ _ => st == .s || st == .l
  | .andn _ _ _ _ _ => st == .s || st == .l
  | .min _ _ _ _ _ => st == .s || st == .l
  | .max _ _ _ _ _ => st == .s || st == .l
  | .minn _ _ _ _ _ => st == .s || st == .l
  | .maxn _ _ _ _ _ => st == .s || st == .l
  | .shl _ _ _ _ _ => st == .s || st == .l
  | .shr _ _ _ _ _ => st == .s || st == .l
  | .sar _ _ _ _ _ => st == .s || st == .l
  | .rotr _ _ _ _ _ => st == .s || st == .l
  | .clz _ _ _ _ => st == .s || st == .l
  | .popc _ _ _ _ => st == .s || st == .l
  | .mul _ _ _ _ _ => st == .s || st == .l
  | .mulh _ _ _ _ _ => st == .s || st == .l
  | .mulhn _ _ _ _ _ => st == .s || st == .l
  | .div _ _ _ _ _ => st == .s || st == .l
  | .divn _ _ _ _ _ => st == .s || st == .l
  | .rem _ _ _ _ _ => st == .s || st == .l
  | .remn _ _ _ _ _ => st == .s || st == .l
  | .cmp _ _ _ _ _ => st == .s || st == .l
  | .pand _ _ _ _ => st == .s || st == .l
  | .por _ _ _ _ => st == .s || st == .l
  | .pxor _ _ _ _ => st == .s || st == .l
  | .pnot _ _ _ => st == .s || st == .l
  | .ptos _ _ _ => st == .s || st == .l
  | .stop _ _ => st == .s || st == .l
  | .ptrmk _ _ _ _ _ => st == .s || st == .l
  | .ptrsp _ _ _ _ => st == .s || st == .l
  | .ptrrk _ _ _ _ => st == .s || st == .l
  | .ptrof _ _ _ _ => st == .s || st == .l
  | .ptradd _ _ _ _ _ => st == .s || st == .l
  | .fadd _ _ _ _ _ => st == .s || st == .l
  | .fsub _ _ _ _ _ => st == .s || st == .l
  | .fmul _ _ _ _ _ => st == .s || st == .l
  | .ffma _ _ _ _ _ => st == .s || st == .l
  | .fmin _ _ _ _ _ => st == .s || st == .l
  | .fmax _ _ _ _ _ => st == .s || st == .l
  | .fdiv _ _ _ _ _ => st == .s || st == .l
  | .fsqrt _ _ _ _ => st == .s || st == .l
  | .cvtif _ _ _ _ => st == .s || st == .l
  | .cvtnf _ _ _ _ => st == .s || st == .l
  | .cvtfi _ _ _ _ => st == .s || st == .l
  | .cvtfiz _ _ _ _ => st == .s || st == .l
  | .fcmpLt _ _ _ _ => st == .s || st == .l
  | .fcmpLe _ _ _ _ => st == .s || st == .l
  | .fcmpEq _ _ _ _ => st == .s || st == .l
  | .addi _ _ _ _ => st == .s || st == .l
  | .andi _ _ _ _ => st == .s || st == .l
  | .ori _ _ _ _ => st == .s || st == .l
  | .xori _ _ _ _ => st == .s || st == .l
  | .shli _ _ _ _ => st == .s || st == .l
  | .shri _ _ _ _ => st == .s || st == .l
  | .sari _ _ _ _ => st == .s || st == .l
  | .cmpi _ _ _ _ _ => st == .s || st == .l
  | .lim _ _ _ => st == .s || st == .l
  | .lih _ _ _ => st == .s || st == .l
  | .ptri _ _ _ _ => st == .s || st == .l
  | .lscr _ _ _ => st == .s || st == .l
  | .ldb _ _ _ _ _ _ _ => st == .s || st == .l
  | .ldbn _ _ _ _ _ _ _ => st == .s || st == .l
  | .ldh _ _ _ _ _ _ _ => st == .s || st == .l
  | .ldhn _ _ _ _ _ _ _ => st == .s || st == .l
  | .ldw _ _ _ _ _ _ _ => st == .s || st == .l
  | .ldwn _ _ _ _ _ _ _ => st == .s || st == .l
  | .ldd _ _ _ _ _ _ _ => st == .s || st == .l
  | .stb _ _ _ _ _ _ _ => st == .s || st == .l
  | .sth _ _ _ _ _ _ _ => st == .s || st == .l
  | .stw _ _ _ _ _ _ _ => st == .s || st == .l
  | .std _ _ _ _ _ _ _ => st == .s || st == .l
  | .ldl _ _ _ _ _ _ _ => st == .s || st == .l
  | .aadd _ _ _ _ _ _ => st == .s || st == .l
  | .amin _ _ _ _ _ _ => st == .s || st == .l
  | .amax _ _ _ _ _ _ => st == .s || st == .l
  | .aminn _ _ _ _ _ _ => st == .s || st == .l
  | .amaxn _ _ _ _ _ _ => st == .s || st == .l
  | .aand _ _ _ _ _ _ => st == .s || st == .l
  | .aor _ _ _ _ _ _ => st == .s || st == .l
  | .aswap _ _ _ _ _ _ => st == .s || st == .l
  | .casW _ _ _ _ _ _ => st == .s || st == .l
  | .casD _ _ _ _ _ _ => st == .s || st == .l
  | .fence _ _ _ _ => st == .s || st == .l
  | .br _ _ _ => true
  | .call _ _ _ => true
  | .jmpr _ _ _ _ => true
  | .loop _ _ _ => true
  | .lset _ _ _ _ _ => true
  | .rdvFin _ => st != .l
  | .rdvMid _ => st != .l
  | .exit _ _ _ => true
  | .waitc _ _ _ => true
  | .yield => st != .l
  | .phase _ _ _ => st == .s
  | .lease _ _ _ => st == .s
  | .barInit _ _ _ _ => st == .s || st == .l
  | .barExpb _ _ _ _ => st == .s || st == .l
  | .barArv _ _ _ _ => st == .s || st == .l
  | .barWait _ _ _ _ => st == .s || st == .l
  | .barAw _ _ _ _ => st == .s || st == .l
  | .mfsr _ _ _ _ => st == .s || st == .l
  | .mtsr _ _ _ _ => st == .s || st == .l
  | .trap _ _ _ => st == .s || st == .l
  | .evnt _ _ _ => st == .s || st == .l
  | .tlbi _ _ _ => st == .s || st == .l
  | .dinv _ _ _ => st == .s || st == .l
  | .halt _ _ => st == .s || st == .l
  | .csave _ _ _ => st == .s
  | .lhash _ _ _ _ _ => st == .l
  | .lgath _ _ _ _ _ => st == .l
  | .lpool _ _ _ _ _ => st == .l
  | .lscat _ _ _ _ _ => st == .l
  | .lhand _ _ _ _ _ => st == .l
  | .vadd _ _ _ _ _ _ => st == .v
  | .vsub _ _ _ _ _ _ => st == .v
  | .vmul _ _ _ _ _ _ => st == .v
  | .vfma _ _ _ _ _ _ => st == .v
  | .vfms _ _ _ _ _ _ => st == .v
  | .vmin _ _ _ _ _ _ => st == .v
  | .vmax _ _ _ _ _ _ => st == .v
  | .vun _ _ _ _ _ _ => st == .v
  | .vand _ _ _ _ _ _ => st == .v
  | .vor _ _ _ _ _ _ => st == .v
  | .vxor _ _ _ _ _ _ => st == .v
  | .vshl _ _ _ _ _ _ => st == .v
  | .vshr _ _ _ _ _ _ => st == .v
  | .vsar _ _ _ _ _ _ => st == .v
  | .vfsl _ _ _ _ _ _ => st == .v
  | .vfsr _ _ _ _ _ _ => st == .v
  | .vhar _ _ _ _ _ => st == .v
  | .vihr _ _ _ _ _ => st == .v
  | .vcmp _ _ _ _ _ _ => st == .v
  | .vsel _ _ _ _ _ => st == .v
  | .vmsk _ _ _ _ _ => st == .v
  | .vcomp _ _ _ _ => st == .v
  | .vexpd _ _ _ _ => st == .v
  | .vslu _ _ _ _ _ _ => st == .v
  | .vsld _ _ _ _ _ _ => st == .v
  | .vbrd _ _ _ _ _ => st == .v
  | .viota _ _ _ _ => st == .v
  | .vmvs _ _ _ _ => st == .v
  | .vmsv _ _ _ _ _ _ => st == .v
  | .vred _ _ _ _ _ => st == .v
  | .vmvy _ _ _ _ _ => st == .v
  | .vcvt _ _ _ _ _ _ _ => st == .v
  | .vsetShape _ _ _ _ _ => st == .v
  | .vsetTh _ _ _ => st == .v
  | .vsetTag _ _ => st == .v
  | .vld _ _ _ _ _ _ _ => st == .v
  | .vst _ _ _ _ _ _ => st == .v
  | .vldl _ _ _ _ _ _ _ => st == .v
  | .vldd _ _ _ _ _ _ _ => st == .v
  | .vstl _ _ _ _ _ _ _ => st == .v
  | .vlrg _ _ _ _ _ _ => st == .v
  | .vthr _ _ _ _ => st == .v
  | .mclm _ _ => st == .m
  | .mrel _ _ => st == .m
  | .mfil _ _ _ _ => st == .m
  | .mma _ _ _ _ _ => st == .m
  | .mmat _ _ _ _ _ => st == .m
  | .mcnv _ _ _ _ _ => st == .m
  | .mwin _ _ => st == .m
  | .mcfg _ _ _ _ => st == .m
  | .mrnd _ _ => st == .m
  | .mdrn _ _ _ _ _ _ => st == .m
  | .mzer _ _ => st == .m
  | .mver _ _ _ => st == .m
  | .mverTag _ _ => st == .m
  | .mlda _ _ _ _ => st == .m
  | .lopn _ _ _ => st == .m
  | .lstp _ _ _ => st == .m
  | .lrd _ _ _ => st == .m
  | .lcls _ _ => st == .m
  | .lwgt _ _ => st == .m
  | .tsrc _ _ => st == .t
  | .tdst _ _ => st == .t
  | .tdim _ _ _ _ _ => st == .t
  | .tind _ _ _ _ => st == .t
  | .tfmt _ _ _ _ _ _ _ => st == .t
  | .tsyn _ _ _ _ _ _ => st == .t
  | .tcpy _ => st == .t
  | .tlvl _ => st == .t
  | .tenc _ => st == .t
  | .tpak _ => st == .t
  | .tunp _ => st == .t
  | .tcol _ _ _ => st == .t
  | .tkvf _ _ _ _ => st == .t
  | .tfil _ _ => st == .t
  | .tops _ _ => st == .t
  | .tdrp _ _ _ _ => st == .t
  | .transferStart _ => false
  | .transferComplete _ => false
  | .transferFault _ _ => false
  | .pageFaultService _ _ => false
  | .replyArrival _ => false
  | .freezeTimeout _ => false
  | .yieldSpacingFault _ => false
  | .joinRelease _ _ => false
  | .leaseTakeover _ _ _ _ => false
  | .tileReady _ _ _ => false
  | .mfilStamp _ _ _ _ => false
  | .mdrnComplete _ _ _ _ _ => false
  | .barrierArrivalCount _ _ _ => false
  | .loupeCommandComplete _ => false
  | .lhandComplete _ => false
  | .loupeSliceEnd _ _ => false
  | .tlbiComplete _ => false
  | .preemptRequest _ => false
  | .yieldHoldRelease _ => false
  | .contextSave _ => false
  | .checkpoint _ => false
  | .haltRemoteStop _ => false
  | .kernelEndJob _ => false
  | .kernelResumeInPlace _ _ => false
  | .kernelSave _ => false
  | .lnotify _ _ => false
  | .bind _ => false
  | .jobLoad _ => false
  | .startCycle _ => false
  | .patternFrame _ _ => false
  | .forcedLowering _ _ => false
  | .idleTimeout _ => false
  | .collapse _ => false
  | .wakeDoorbell _ _ => false
  | .wakeComplete _ => false
  | .laneTestComplete _ _ => false
  | .flgWrite _ _ _ => false
  | .vwWrite _ _ _ => false
  | .wdogWrite _ _ => false
  | .patWrite _ _ _ _ => false
  | .nqheadWrite _ _ => false
  | .nackWrite _ _ => false
  | .registerWrite _ _ _ => false
  | .accessCommit _ => false
  | .viewBufferDrop _ _ => false
  | .commandHalt _ _ => false
  | .launch _ => false
  | .identify _ => false
  | .status _ => false
  | .log _ => false
  | .selftest _ => false
  | .vdCreate _ => false
  | .vdDestroy _ => false
  | .vdSleep _ => false
  | .vdWake _ => false
  | .loadImage _ => false
  | .attest _ => false
  | .fwUpdate _ => false
  | .setCap _ => false
  | .heldAccess _ _ => false
  | .outsideAgentAccess _ _ => false
  | .masterClockChange _ _ _ => false
  | .kernelLaunch _ _ => false
  | .graphEdit _ _ _ => false
  | .mirrorRepair _ _ _ => false
  | .linkRetry _ => false
  | .capLeaseExpiry => false
  | .reset => false
  | .khbWrite => false
  | .kpanicWrite => false
  | .heartbeatTimeout => false
  | .kreadyWrite => false
  | .warmStartRetry => false

end Sys2Proof
end

