-- ==== Sys2Proof/Decode.lean ====
section
/-! DEFINITION. The decoder: the decode checks 1 to 3 of R31 over the maps of R37-R45, total on any word, and the
encoder written from the same maps. Checks 4 and 5 of R31 need the job and are made by the meanings. -/
namespace Sys2Proof

/-- Which decode check of R31 a word fails: 1 the opcode, 2 the form, 3 a field. All three raise cause 0x01. -/
inductive DecodeError where
  | opcode | form | field
  deriving DecidableEq, Repr

/-- A word recognised by opcode and form: the instruction, the bits the maps mark zero, and whether the guard is held
in the guard store (R38). -/
structure Form where
  instr : Instr
  zero : Code
  nib : Bool

/-- A form found. -/
def form (i : Instr) (zero : Code) (nib : Bool) : Except DecodeError Form := .ok ⟨i, zero, nib⟩

/-- The S map of R39. -/
def formS (nib : BitVec 4) (w : Code) : Except DecodeError Form :=
  match (fld w 26 6).toNat with
  | 0x1 => match (fld w 5 3).toNat with
    | 0 => form (.add (fld w 20 6) (fld w 14 6) (fld w 8 6) (bit w 4) (fld w 0 4)) 0x0#32 false
    | 1 => form (.sub (fld w 20 6) (fld w 14 6) (fld w 8 6) (bit w 4) (fld w 0 4)) 0x0#32 false
    | 2 => form (.and (fld w 20 6) (fld w 14 6) (fld w 8 6) (bit w 4) (fld w 0 4)) 0x0#32 false
    | 3 => form (.or (fld w 20 6) (fld w 14 6) (fld w 8 6) (bit w 4) (fld w 0 4)) 0x0#32 false
    | 4 => form (.xor (fld w 20 6) (fld w 14 6) (fld w 8 6) (bit w 4) (fld w 0 4)) 0x0#32 false
    | 5 => form (.andn (fld w 20 6) (fld w 14 6) (fld w 8 6) (bit w 4) (fld w 0 4)) 0x0#32 false
    | 6 => form (.min (fld w 20 6) (fld w 14 6) (fld w 8 6) (bit w 4) (fld w 0 4)) 0x0#32 false
    | 7 => form (.max (fld w 20 6) (fld w 14 6) (fld w 8 6) (bit w 4) (fld w 0 4)) 0x0#32 false
    | _ => .error .form
  | 0x2 => match (fld w 5 3).toNat with
    | 0 => form (.minn (fld w 20 6) (fld w 14 6) (fld w 8 6) (bit w 4) (fld w 0 4)) 0x0#32 false
    | 1 => form (.maxn (fld w 20 6) (fld w 14 6) (fld w 8 6) (bit w 4) (fld w 0 4)) 0x0#32 false
    | 2 => form (.shl (fld w 20 6) (fld w 14 6) (fld w 8 6) (bit w 4) (fld w 0 4)) 0x0#32 false
    | 3 => form (.shr (fld w 20 6) (fld w 14 6) (fld w 8 6) (bit w 4) (fld w 0 4)) 0x0#32 false
    | 4 => form (.sar (fld w 20 6) (fld w 14 6) (fld w 8 6) (bit w 4) (fld w 0 4)) 0x0#32 false
    | 5 => form (.rotr (fld w 20 6) (fld w 14 6) (fld w 8 6) (bit w 4) (fld w 0 4)) 0x0#32 false
    | 6 => form (.clz (fld w 20 6) (fld w 14 6) (bit w 4) (fld w 0 4)) 0x3f00#32 false
    | 7 => form (.popc (fld w 20 6) (fld w 14 6) (bit w 4) (fld w 0 4)) 0x3f00#32 false
    | _ => .error .form
  | 0x3 => match (fld w 5 3).toNat with
    | 0 => form (.mul (fld w 20 6) (fld w 14 6) (fld w 8 6) (bit w 4) (fld w 0 4)) 0x0#32 false
    | 1 => form (.mulh (fld w 20 6) (fld w 14 6) (fld w 8 6) (bit w 4) (fld w 0 4)) 0x0#32 false
    | 2 => form (.mulhn (fld w 20 6) (fld w 14 6) (fld w 8 6) (bit w 4) (fld w 0 4)) 0x0#32 false
    | 3 => form (.div (fld w 20 6) (fld w 14 6) (fld w 8 6) (bit w 4) (fld w 0 4)) 0x0#32 false
    | 4 => form (.divn (fld w 20 6) (fld w 14 6) (fld w 8 6) (bit w 4) (fld w 0 4)) 0x0#32 false
    | 5 => form (.rem (fld w 20 6) (fld w 14 6) (fld w 8 6) (bit w 4) (fld w 0 4)) 0x0#32 false
    | 6 => form (.remn (fld w 20 6) (fld w 14 6) (fld w 8 6) (bit w 4) (fld w 0 4)) 0x0#32 false
    | _ => .error .form
  | 0x4 => form (.cmp (fld w 20 6) (fld w 14 6) (fld w 8 6) (fld w 5 3) (fld w 0 4)) 0x10#32 false
  | 0x5 => match (fld w 5 3).toNat with
    | 0 => form (.pand (fld w 20 6) (fld w 14 6) (fld w 8 6) (fld w 0 4)) 0x10#32 false
    | 1 => form (.por (fld w 20 6) (fld w 14 6) (fld w 8 6) (fld w 0 4)) 0x10#32 false
    | 2 => form (.pxor (fld w 20 6) (fld w 14 6) (fld w 8 6) (fld w 0 4)) 0x10#32 false
    | 3 => form (.pnot (fld w 20 6) (fld w 14 6) (fld w 0 4)) 0x3f10#32 false
    | 4 => form (.ptos (fld w 20 6) (bit w 4) (fld w 0 4)) 0xfff00#32 false
    | 5 => form (.stop (fld w 14 6) (fld w 0 4)) 0x3f03f10#32 false
    | _ => .error .form
  | 0x6 => match (fld w 5 3).toNat with
    | 0 => form (.ptrmk (fld w 20 6) (fld w 14 6) (fld w 8 6) (bit w 4) (fld w 0 4)) 0x0#32 false
    | 1 => form (.ptrsp (fld w 20 6) (fld w 14 6) (bit w 4) (fld w 0 4)) 0x3f00#32 false
    | 2 => form (.ptrrk (fld w 20 6) (fld w 14 6) (bit w 4) (fld w 0 4)) 0x3f00#32 false
    | 3 => form (.ptrof (fld w 20 6) (fld w 14 6) (bit w 4) (fld w 0 4)) 0x3f00#32 false
    | 4 => form (.ptradd (fld w 20 6) (fld w 14 6) (fld w 8 6) (bit w 4) (fld w 0 4)) 0x0#32 false
    | _ => .error .form
  | 0x7 => match (fld w 5 3).toNat with
    | 0 => form (.fadd (fld w 20 6) (fld w 14 6) (fld w 8 6) (bit w 4) (fld w 0 4)) 0x0#32 false
    | 1 => form (.fsub (fld w 20 6) (fld w 14 6) (fld w 8 6) (bit w 4) (fld w 0 4)) 0x0#32 false
    | 2 => form (.fmul (fld w 20 6) (fld w 14 6) (fld w 8 6) (bit w 4) (fld w 0 4)) 0x0#32 false
    | 3 => form (.ffma (fld w 20 6) (fld w 14 6) (fld w 8 6) (bit w 4) (fld w 0 4)) 0x0#32 false
    | 4 => form (.fmin (fld w 20 6) (fld w 14 6) (fld w 8 6) (bit w 4) (fld w 0 4)) 0x0#32 false
    | 5 => form (.fmax (fld w 20 6) (fld w 14 6) (fld w 8 6) (bit w 4) (fld w 0 4)) 0x0#32 false
    | 6 => form (.fdiv (fld w 20 6) (fld w 14 6) (fld w 8 6) (bit w 4) (fld w 0 4)) 0x0#32 false
    | 7 => form (.fsqrt (fld w 20 6) (fld w 14 6) (bit w 4) (fld w 0 4)) 0x3f00#32 false
    | _ => .error .form
  | 0x8 => match (fld w 5 3).toNat with
    | 0 => form (.cvtif (fld w 20 6) (fld w 14 6) (bit w 4) (fld w 0 4)) 0x3f00#32 false
    | 1 => form (.cvtnf (fld w 20 6) (fld w 14 6) (bit w 4) (fld w 0 4)) 0x3f00#32 false
    | 2 => form (.cvtfi (fld w 20 6) (fld w 14 6) (bit w 4) (fld w 0 4)) 0x3f00#32 false
    | 3 => form (.cvtfiz (fld w 20 6) (fld w 14 6) (bit w 4) (fld w 0 4)) 0x3f00#32 false
    | 4 => form (.fcmpLt (fld w 20 6) (fld w 14 6) (fld w 8 6) (fld w 0 4)) 0x10#32 false
    | 5 => form (.fcmpLe (fld w 20 6) (fld w 14 6) (fld w 8 6) (fld w 0 4)) 0x10#32 false
    | 6 => form (.fcmpEq (fld w 20 6) (fld w 14 6) (fld w 8 6) (fld w 0 4)) 0x10#32 false
    | _ => .error .form
  | 0x10 => form (.addi (fld w 20 6) (fld w 14 6) (fld w 0 14) nib) 0x0#32 true
  | 0x11 => form (.andi (fld w 20 6) (fld w 14 6) (fld w 0 14) nib) 0x0#32 true
  | 0x12 => form (.ori (fld w 20 6) (fld w 14 6) (fld w 0 14) nib) 0x0#32 true
  | 0x13 => form (.xori (fld w 20 6) (fld w 14 6) (fld w 0 14) nib) 0x0#32 true
  | 0x14 => form (.shli (fld w 20 6) (fld w 14 6) (fld w 0 14) nib) 0x0#32 true
  | 0x15 => form (.shri (fld w 20 6) (fld w 14 6) (fld w 0 14) nib) 0x0#32 true
  | 0x16 => form (.sari (fld w 20 6) (fld w 14 6) (fld w 0 14) nib) 0x0#32 true
  | 0x17 => form (.cmpi (fld w 20 6) (fld w 14 6) (fld w 11 3) (fld w 0 11) nib) 0x0#32 true
  | 0x18 => form (.lim (fld w 20 6) (fld w 0 20) nib) 0x0#32 true
  | 0x19 => form (.lih (fld w 20 6) (fld w 0 20) nib) 0x0#32 true
  | 0x1a => form (.ptri (fld w 20 6) (fld w 14 6) (fld w 0 14) nib) 0x0#32 true
  | 0x1b => form (.lscr (fld w 20 6) (fld w 0 14) nib) 0xfc000#32 true
  | 0x20 => form (.ldb (fld w 20 6) (fld w 14 6) (fld w 11 3) (fld w 9 2) (fld w 6 3) (fld w 0 6) nib) 0x0#32 true
  | 0x21 => form (.ldbn (fld w 20 6) (fld w 14 6) (fld w 11 3) (fld w 9 2) (fld w 6 3) (fld w 0 6) nib) 0x0#32 true
  | 0x22 => form (.ldh (fld w 20 6) (fld w 14 6) (fld w 11 3) (fld w 9 2) (fld w 6 3) (fld w 0 6) nib) 0x0#32 true
  | 0x23 => form (.ldhn (fld w 20 6) (fld w 14 6) (fld w 11 3) (fld w 9 2) (fld w 6 3) (fld w 0 6) nib) 0x0#32 true
  | 0x24 => form (.ldw (fld w 20 6) (fld w 14 6) (fld w 11 3) (fld w 9 2) (fld w 6 3) (fld w 0 6) nib) 0x0#32 true
  | 0x25 => form (.ldwn (fld w 20 6) (fld w 14 6) (fld w 11 3) (fld w 9 2) (fld w 6 3) (fld w 0 6) nib) 0x0#32 true
  | 0x26 => form (.ldd (fld w 20 6) (fld w 14 6) (fld w 11 3) (fld w 9 2) (fld w 6 3) (fld w 0 6) nib) 0x0#32 true
  | 0x27 => form (.stb (fld w 20 6) (fld w 14 6) (fld w 11 3) (fld w 9 2) (fld w 6 3) (fld w 0 6) nib) 0x0#32 true
  | 0x28 => form (.sth (fld w 20 6) (fld w 14 6) (fld w 11 3) (fld w 9 2) (fld w 6 3) (fld w 0 6) nib) 0x0#32 true
  | 0x29 => form (.stw (fld w 20 6) (fld w 14 6) (fld w 11 3) (fld w 9 2) (fld w 6 3) (fld w 0 6) nib) 0x0#32 true
  | 0x2a => form (.std (fld w 20 6) (fld w 14 6) (fld w 11 3) (fld w 9 2) (fld w 6 3) (fld w 0 6) nib) 0x0#32 true
  | 0x2b => form (.ldl (fld w 20 6) (fld w 14 6) (fld w 11 3) (fld w 9 2) (fld w 6 3) (fld w 3 3) nib) 0x7#32 true
  | 0x2c => match (fld w 5 3).toNat with
    | 0 => form (.aadd (fld w 20 6) (fld w 14 6) (fld w 8 6) (fld w 3 2) (fld w 0 3) nib) 0x0#32 true
    | 1 => form (.amin (fld w 20 6) (fld w 14 6) (fld w 8 6) (fld w 3 2) (fld w 0 3) nib) 0x0#32 true
    | 2 => form (.amax (fld w 20 6) (fld w 14 6) (fld w 8 6) (fld w 3 2) (fld w 0 3) nib) 0x0#32 true
    | 3 => form (.aminn (fld w 20 6) (fld w 14 6) (fld w 8 6) (fld w 3 2) (fld w 0 3) nib) 0x0#32 true
    | 4 => form (.amaxn (fld w 20 6) (fld w 14 6) (fld w 8 6) (fld w 3 2) (fld w 0 3) nib) 0x0#32 true
    | 5 => form (.aand (fld w 20 6) (fld w 14 6) (fld w 8 6) (fld w 3 2) (fld w 0 3) nib) 0x0#32 true
    | 6 => form (.aor (fld w 20 6) (fld w 14 6) (fld w 8 6) (fld w 3 2) (fld w 0 3) nib) 0x0#32 true
    | 7 => form (.aswap (fld w 20 6) (fld w 14 6) (fld w 8 6) (fld w 3 2) (fld w 0 3) nib) 0x0#32 true
    | _ => .error .form
  | 0x2d => match (fld w 5 3).toNat with
    | 0 => form (.casW (fld w 20 6) (fld w 14 6) (fld w 8 6) (fld w 3 2) (fld w 0 3) nib) 0x0#32 true
    | 1 => form (.casD (fld w 20 6) (fld w 14 6) (fld w 8 6) (fld w 3 2) (fld w 0 3) nib) 0x0#32 true
    | _ => .error .form
  | 0x2e => form (.fence (fld w 11 3) (fld w 9 2) (fld w 6 3) nib) 0x3ffc03f#32 true
  | _ => .error .opcode

/-- The control group of R41. -/
def formC (w : Code) : Except DecodeError Form :=
  match (fld w 26 6).toNat with
  | 0x30 => match (fld w 18 3).toNat with
    | 0 => form (.br (fld w 22 4) (bit w 21) (fld w 0 18)) 0x0#32 false
    | _ => .error .form
  | 0x31 => match (fld w 18 3).toNat with
    | 0 => form (.call (fld w 22 4) (bit w 21) (fld w 0 18)) 0x0#32 false
    | _ => .error .form
  | 0x32 => match (fld w 18 3).toNat with
    | 0 => form (.jmpr (fld w 22 4) (bit w 21) (fld w 12 6) (fld w 6 6)) 0x3f#32 false
    | _ => .error .form
  | 0x33 => match (fld w 18 3).toNat with
    | 0 => form (.loop (fld w 22 4) (bit w 21) (fld w 0 18)) 0x0#32 false
    | _ => .error .form
  | 0x34 => match (fld w 18 3).toNat with
    | 0 => form (.lset (fld w 22 4) (bit w 21) (fld w 12 6) (fld w 8 4) (fld w 0 8)) 0x0#32 false
    | _ => .error .form
  | 0x35 => match (fld w 18 3).toNat with
    | 0 => form (.rdvFin (fld w 10 8)) 0x3e003ff#32 false
    | 1 => form (.rdvMid (fld w 10 8)) 0x3e003ff#32 false
    | _ => .error .form
  | 0x36 => match (fld w 18 3).toNat with
    | 0 => form (.exit (fld w 22 4) (bit w 21) (fld w 0 16)) 0x30000#32 false
    | _ => .error .form
  | 0x37 => match (fld w 18 3).toNat with
    | 0 => form (.waitc (fld w 22 4) (bit w 21) (fld w 0 18)) 0x0#32 false
    | _ => .error .form
  | 0x38 => match (fld w 18 3).toNat with
    | 0 => form (.yield) 0x3e3ffff#32 false
    | _ => .error .form
  | 0x39 => match (fld w 18 3).toNat with
    | 0 => form (.phase (fld w 22 4) (bit w 21) (fld w 0 4)) 0x3fff0#32 false
    | _ => .error .form
  | 0x3a => match (fld w 18 3).toNat with
    | 0 => form (.lease (fld w 22 4) (bit w 21) (fld w 0 5)) 0x3ffe0#32 false
    | _ => .error .form
  | 0x3b => match (fld w 18 3).toNat with
    | 0 => form (.barInit (fld w 22 4) (bit w 21) (fld w 10 8) (fld w 4 6)) 0xf#32 false
    | 1 => form (.barExpb (fld w 22 4) (bit w 21) (fld w 10 8) (fld w 4 6)) 0xf#32 false
    | 2 => form (.barArv (fld w 22 4) (bit w 21) (fld w 10 8) (fld w 1 3)) 0x3f1#32 false
    | 3 => form (.barWait (fld w 22 4) (bit w 21) (fld w 10 8) (fld w 1 3)) 0x3f1#32 false
    | 4 => form (.barAw (fld w 22 4) (bit w 21) (fld w 10 8) (fld w 1 3)) 0x3f1#32 false
    | _ => .error .form
  | 0x3c => match (fld w 18 3).toNat with
    | 0 => form (.mfsr (fld w 22 4) (bit w 21) (fld w 12 6) (fld w 0 12)) 0x0#32 false
    | 1 => form (.mtsr (fld w 22 4) (bit w 21) (fld w 12 6) (fld w 0 12)) 0x0#32 false
    | 2 => form (.trap (fld w 22 4) (bit w 21) (fld w 0 12)) 0x3f000#32 false
    | 3 => form (.evnt (fld w 22 4) (bit w 21) (fld w 0 12)) 0x3f000#32 false
    | 4 => form (.tlbi (fld w 22 4) (bit w 21) (fld w 12 6)) 0xfff#32 false
    | 5 => form (.dinv (fld w 22 4) (bit w 21) (fld w 12 6)) 0xfff#32 false
    | 6 => form (.halt (fld w 22 4) (bit w 21)) 0x3ffff#32 false
    | 7 => form (.csave (fld w 22 4) (bit w 21) (fld w 12 6)) 0xfff#32 false
    | _ => .error .form
  | 0x3d => match (fld w 18 3).toNat with
    | 0 => form (.lhash (fld w 22 4) (bit w 21) (fld w 12 6) (fld w 6 6) (fld w 0 6)) 0x0#32 false
    | 1 => form (.lgath (fld w 22 4) (bit w 21) (fld w 12 6) (fld w 6 6) (fld w 0 6)) 0x0#32 false
    | 2 => form (.lpool (fld w 22 4) (bit w 21) (fld w 12 6) (fld w 6 6) (fld w 0 6)) 0x0#32 false
    | 3 => form (.lscat (fld w 22 4) (bit w 21) (fld w 12 6) (fld w 6 6) (fld w 0 6)) 0x0#32 false
    | 4 => form (.lhand (fld w 22 4) (bit w 21) (fld w 12 6) (fld w 6 6) (fld w 0 6)) 0x0#32 false
    | _ => .error .form
  | _ => .error .opcode

/-- The V map of R43. -/
def formV (w : Code) : Except DecodeError Form :=
  match (fld w 26 6).toNat with
  | 0x1 => form (.vadd (fld w 20 6) (fld w 13 7) (fld w 6 7) (bit w 5) (bit w 4) (fld w 0 4)) 0x0#32 false
  | 0x2 => form (.vsub (fld w 20 6) (fld w 13 7) (fld w 6 7) (bit w 5) (bit w 4) (fld w 0 4)) 0x0#32 false
  | 0x3 => form (.vmul (fld w 20 6) (fld w 13 7) (fld w 6 7) (bit w 5) (bit w 4) (fld w 0 4)) 0x0#32 false
  | 0x4 => form (.vfma (fld w 20 6) (fld w 13 7) (fld w 6 7) (bit w 5) (bit w 4) (fld w 0 4)) 0x0#32 false
  | 0x5 => form (.vfms (fld w 20 6) (fld w 13 7) (fld w 6 7) (bit w 5) (bit w 4) (fld w 0 4)) 0x0#32 false
  | 0x6 => form (.vmin (fld w 20 6) (fld w 13 7) (fld w 6 7) (bit w 5) (bit w 4) (fld w 0 4)) 0x0#32 false
  | 0x7 => form (.vmax (fld w 20 6) (fld w 13 7) (fld w 6 7) (bit w 5) (bit w 4) (fld w 0 4)) 0x0#32 false
  | 0x8 => form (.vun (fld w 20 6) (fld w 13 7) (fld w 6 7) (bit w 5) (bit w 4) (fld w 0 4)) 0x0#32 false
  | 0x9 => form (.vand (fld w 20 6) (fld w 13 7) (fld w 6 7) (bit w 5) (bit w 4) (fld w 0 4)) 0x0#32 false
  | 0xa => form (.vor (fld w 20 6) (fld w 13 7) (fld w 6 7) (bit w 5) (bit w 4) (fld w 0 4)) 0x0#32 false
  | 0xb => form (.vxor (fld w 20 6) (fld w 13 7) (fld w 6 7) (bit w 5) (bit w 4) (fld w 0 4)) 0x0#32 false
  | 0xc => form (.vshl (fld w 20 6) (fld w 13 7) (fld w 6 7) (bit w 5) (bit w 4) (fld w 0 4)) 0x0#32 false
  | 0xd => form (.vshr (fld w 20 6) (fld w 13 7) (fld w 6 7) (bit w 5) (bit w 4) (fld w 0 4)) 0x0#32 false
  | 0xe => form (.vsar (fld w 20 6) (fld w 13 7) (fld w 6 7) (bit w 5) (bit w 4) (fld w 0 4)) 0x0#32 false
  | 0xf => form (.vfsl (fld w 20 6) (fld w 13 7) (fld w 6 7) (bit w 5) (bit w 4) (fld w 0 4)) 0x0#32 false
  | 0x10 => form (.vfsr (fld w 20 6) (fld w 13 7) (fld w 6 7) (bit w 5) (bit w 4) (fld w 0 4)) 0x0#32 false
  | 0x11 => form (.vhar (fld w 20 6) (fld w 13 7) (bit w 5) (bit w 4) (fld w 0 4)) 0x1fc0#32 false
  | 0x12 => form (.vihr (fld w 20 6) (fld w 13 7) (bit w 5) (bit w 4) (fld w 0 4)) 0x1fc0#32 false
  | 0x13 => form (.vcmp (fld w 23 3) (fld w 20 3) (fld w 13 7) (fld w 6 7) (bit w 5) (fld w 0 4)) 0x10#32 false
  | 0x14 => form (.vsel (fld w 20 6) (fld w 13 7) (fld w 6 7) (bit w 4) (fld w 0 4)) 0x20#32 false
  | 0x15 => form (.vmsk (fld w 23 3) (fld w 20 3) (fld w 13 3) (fld w 6 3) (fld w 0 4)) 0xf1e30#32 false
  | 0x16 => form (.vcomp (fld w 20 6) (fld w 13 7) (bit w 4) (fld w 0 4)) 0x1fe0#32 false
  | 0x17 => form (.vexpd (fld w 20 6) (fld w 13 7) (bit w 4) (fld w 0 4)) 0x1fe0#32 false
  | 0x18 => form (.vslu (fld w 20 6) (fld w 13 7) (fld w 6 7) (bit w 5) (bit w 4) (fld w 0 4)) 0x0#32 false
  | 0x19 => form (.vsld (fld w 20 6) (fld w 13 7) (fld w 6 7) (bit w 5) (bit w 4) (fld w 0 4)) 0x0#32 false
  | 0x1a => form (.vbrd (fld w 20 6) (fld w 13 7) (bit w 5) (bit w 4) (fld w 0 4)) 0x1fc0#32 false
  | 0x1b => form (.viota (fld w 20 6) (bit w 5) (bit w 4) (fld w 0 4)) 0xfffc0#32 false
  | 0x1c => form (.vmvs (fld w 20 6) (fld w 13 7) (fld w 6 7) (fld w 0 4)) 0x30#32 false
  | 0x1d => form (.vmsv (fld w 20 6) (fld w 13 7) (fld w 6 7) (bit w 5) (bit w 4) (fld w 0 4)) 0x0#32 false
  | 0x1e => form (.vred (fld w 24 2) (fld w 20 4) (fld w 13 7) (bit w 5) (fld w 0 4)) 0x1fd0#32 false
  | 0x1f => form (.vmvy (fld w 20 6) (fld w 13 2) (bit w 5) (bit w 4) (fld w 0 4)) 0xf9fc0#32 false
  | 0x20 => form (.vcvt (fld w 20 6) (fld w 13 7) (fld w 9 4) (fld w 6 3) (bit w 5) (bit w 4) (fld w 0 4)) 0x0#32 false
  | 0x21 => match (fld w 24 2).toNat with
    | 0 => form (.vsetShape (fld w 20 4) (fld w 18 2) (bit w 17) (fld w 13 4) (fld w 0 4)) 0x1ff0#32 false
    | 1 => form (.vsetTh (fld w 22 2) (fld w 16 6) (fld w 0 4)) 0xfff0#32 false
    | 2 => form (.vsetTag (fld w 4 16) (fld w 0 4)) 0xf00000#32 false
    | _ => .error .form
  | 0x22 => form (.vld (fld w 20 6) (fld w 14 6) (fld w 11 3) (bit w 10) (bit w 9) (fld w 4 5) (fld w 0 4)) 0x0#32 false
  | 0x23 => form (.vst (fld w 20 6) (fld w 14 6) (fld w 11 3) (bit w 9) (fld w 4 5) (fld w 0 4)) 0x400#32 false
  | 0x24 => match (fld w 9 1).toNat with
    | 0 => form (.vldl (fld w 20 6) (fld w 14 6) (fld w 11 3) (bit w 10) (fld w 6 3) (fld w 4 2) (fld w 0 4)) 0x0#32 false
    | 1 => form (.vldd (fld w 20 6) (fld w 14 6) (fld w 11 3) (bit w 10) (fld w 6 3) (fld w 4 2) (fld w 0 4)) 0x0#32 false
    | _ => .error .form
  | 0x25 => form (.vstl (fld w 20 6) (fld w 14 6) (fld w 11 3) (bit w 9) (fld w 6 3) (fld w 4 2) (fld w 0 4)) 0x400#32 false
  | 0x26 => form (.vlrg (fld w 20 6) (fld w 17 3) (bit w 16) (fld w 10 6) (bit w 4) (fld w 0 4)) 0x3e0#32 false
  | 0x27 => form (.vthr (fld w 24 2) (fld w 20 3) (fld w 13 7) (fld w 0 4)) 0x801ff0#32 false
  | _ => .error .opcode

/-- The M map of R44. -/
def formM (w : Code) : Except DecodeError Form :=
  match (fld w 26 6).toNat with
  | 0x1 => form (.mclm (fld w 15 8) (fld w 0 4)) 0x3807ff0#32 false
  | 0x2 => form (.mrel (fld w 15 8) (fld w 0 4)) 0x3807ff0#32 false
  | 0x3 => form (.mfil (fld w 15 8) (fld w 7 8) (bit w 4) (fld w 0 4)) 0x3800060#32 false
  | 0x4 => form (.mma (fld w 23 3) (fld w 15 8) (fld w 7 8) (bit w 6) (fld w 0 4)) 0x30#32 false
  | 0x5 => form (.mmat (fld w 23 3) (fld w 15 8) (fld w 7 8) (bit w 6) (fld w 0 4)) 0x30#32 false
  | 0x6 => form (.mcnv (fld w 23 3) (fld w 15 8) (fld w 7 8) (bit w 6) (fld w 0 4)) 0x30#32 false
  | 0x7 => form (.mwin (fld w 7 8) (fld w 0 4)) 0x3ff8070#32 false
  | 0x8 => form (.mcfg (fld w 19 4) (fld w 15 4) (fld w 7 3) (fld w 0 4)) 0x3807c70#32 false
  | 0x9 => form (.mrnd (fld w 15 2) (fld w 0 4)) 0x3fe7ff0#32 false
  | 0xa => form (.mdrn (fld w 23 3) (fld w 15 4) (fld w 7 8) (bit w 5) (bit w 4) (fld w 0 4)) 0x780040#32 false
  | 0xb => form (.mzer (fld w 23 3) (fld w 0 4)) 0x7ffff0#32 false
  | 0xc => match (fld w 15 1).toNat with
    | 0 => form (.mver (fld w 23 3) (fld w 7 8) (fld w 0 4)) 0x7f0070#32 false
    | 1 => form (.mverTag (fld w 7 8) (fld w 0 4)) 0x3ff0070#32 false
    | _ => .error .form
  | 0xd => form (.mlda (fld w 23 3) (fld w 7 8) (bit w 4) (fld w 0 4)) 0x7f8060#32 false
  | 0x10 => form (.lopn (fld w 7 8) (bit w 4) (fld w 0 4)) 0x3ff8060#32 false
  | 0x11 => form (.lstp (fld w 23 3) (bit w 5) (fld w 0 4)) 0x7fffd0#32 false
  | 0x12 => form (.lrd (fld w 23 3) (bit w 5) (fld w 0 4)) 0x7fffd0#32 false
  | 0x13 => form (.lcls (bit w 4) (fld w 0 4)) 0x3ffffe0#32 false
  | 0x14 => form (.lwgt (bit w 4) (fld w 0 4)) 0x3ffffe0#32 false
  | _ => .error .opcode

/-- The T map of R45. -/
def formT (w : Code) : Except DecodeError Form :=
  match (fld w 26 6).toNat with
  | 0x1 => form (.tsrc (fld w 20 6) (fld w 0 4)) 0xffff0#32 false
  | 0x2 => form (.tdst (fld w 20 6) (fld w 0 4)) 0xffff0#32 false
  | 0x3 => form (.tdim (fld w 24 2) (fld w 22 2) (fld w 16 6) (fld w 4 12) (fld w 0 4)) 0x0#32 false
  | 0x4 => form (.tind (fld w 24 2) (fld w 18 6) (fld w 16 2) (fld w 0 4)) 0xfff0#32 false
  | 0x5 => form (.tfmt (fld w 22 4) (fld w 18 4) (fld w 15 3) (bit w 14) (bit w 13) (fld w 11 2) (fld w 0 4)) 0x7f0#32 false
  | 0x6 => form (.tsyn (fld w 23 3) (fld w 20 3) (bit w 19) (fld w 11 8) (fld w 4 7) (fld w 0 4)) 0x0#32 false
  | 0x8 => form (.tcpy (fld w 0 4)) 0x3fffff0#32 false
  | 0x9 => form (.tlvl (fld w 0 4)) 0x3fffff0#32 false
  | 0xa => form (.tenc (fld w 0 4)) 0x3fffff0#32 false
  | 0xb => form (.tpak (fld w 0 4)) 0x3fffff0#32 false
  | 0xc => form (.tunp (fld w 0 4)) 0x3fffff0#32 false
  | 0xd => form (.tcol (fld w 18 8) (fld w 16 2) (fld w 0 4)) 0xfff0#32 false
  | 0xe => form (.tkvf (fld w 20 6) (fld w 14 6) (fld w 11 3) (fld w 0 4)) 0x7f0#32 false
  | 0xf => form (.tfil (fld w 20 6) (fld w 0 4)) 0xffff0#32 false
  | 0x10 => form (.tops (fld w 18 8) (fld w 0 4)) 0x3fff0#32 false
  | 0x11 => form (.tdrp (fld w 20 6) (fld w 14 6) (bit w 13) (fld w 0 4)) 0x1ff0#32 false
  | _ => .error .opcode

/-- The form of a word in stream `st`: majors 0x30-0x3F are the control group, the others the stream's own map (R30).
A control word that is not valid in the issuing stream counts as unassigned (check 1 of R31). -/
def formOf (st : Stream) (nib : BitVec 4) (w : Code) : Except DecodeError Form :=
  if 0x30 ≤ (fld w 26 6).toNat then
    match formC w with
    | .ok f => if f.instr.validIn st then .ok f else .error .opcode
    | .error e => .error e
  else
    match st with
    | .s | .l => formS nib w
    | .v => formV w
    | .m => formM w
    | .t => formT w

/-- The decoder of stream `st` on a word and its guard nibble (R31 checks 1 to 3, R38). V, M and T have no guard
store; their nibble is not looked at. -/
def decode (st : Stream) (nib : BitVec 4) (w : Code) : Except DecodeError Instr :=
  match formOf st nib w with
  | .error e => .error e
  | .ok f =>
    if w &&& f.zero != 0 then .error .field
    else if (st == .s || st == .l) && !f.nib && nib != 0 then .error .field
    else if f.instr.wf st then .ok f.instr
    else .error .field

/-- Where and how a word of an instruction stands: its stream (the first that admits it), its guard nibble and its
bits. -/
structure Encoding where
  st : Stream
  nib : BitVec 4
  word : Code
  deriving DecidableEq, Repr

/-- The word of an instruction, from the maps of R37-R45; an event has none. -/
def encode : Instr → Option Encoding
  | .add d a b w g => some ⟨.s, 0#4, 0x1#6 ++ d ++ a ++ b ++ 0#3 ++ BitVec.ofBool w ++ g⟩
  | .sub d a b w g => some ⟨.s, 0#4, 0x1#6 ++ d ++ a ++ b ++ 1#3 ++ BitVec.ofBool w ++ g⟩
  | .and d a b w g => some ⟨.s, 0#4, 0x1#6 ++ d ++ a ++ b ++ 2#3 ++ BitVec.ofBool w ++ g⟩
  | .or d a b w g => some ⟨.s, 0#4, 0x1#6 ++ d ++ a ++ b ++ 3#3 ++ BitVec.ofBool w ++ g⟩
  | .xor d a b w g => some ⟨.s, 0#4, 0x1#6 ++ d ++ a ++ b ++ 4#3 ++ BitVec.ofBool w ++ g⟩
  | .andn d a b w g => some ⟨.s, 0#4, 0x1#6 ++ d ++ a ++ b ++ 5#3 ++ BitVec.ofBool w ++ g⟩
  | .min d a b w g => some ⟨.s, 0#4, 0x1#6 ++ d ++ a ++ b ++ 6#3 ++ BitVec.ofBool w ++ g⟩
  | .max d a b w g => some ⟨.s, 0#4, 0x1#6 ++ d ++ a ++ b ++ 7#3 ++ BitVec.ofBool w ++ g⟩
  | .minn d a b w g => some ⟨.s, 0#4, 0x2#6 ++ d ++ a ++ b ++ 0#3 ++ BitVec.ofBool w ++ g⟩
  | .maxn d a b w g => some ⟨.s, 0#4, 0x2#6 ++ d ++ a ++ b ++ 1#3 ++ BitVec.ofBool w ++ g⟩
  | .shl d a b w g => some ⟨.s, 0#4, 0x2#6 ++ d ++ a ++ b ++ 2#3 ++ BitVec.ofBool w ++ g⟩
  | .shr d a b w g => some ⟨.s, 0#4, 0x2#6 ++ d ++ a ++ b ++ 3#3 ++ BitVec.ofBool w ++ g⟩
  | .sar d a b w g => some ⟨.s, 0#4, 0x2#6 ++ d ++ a ++ b ++ 4#3 ++ BitVec.ofBool w ++ g⟩
  | .rotr d a b w g => some ⟨.s, 0#4, 0x2#6 ++ d ++ a ++ b ++ 5#3 ++ BitVec.ofBool w ++ g⟩
  | .clz d a w g => some ⟨.s, 0#4, 0x2#6 ++ d ++ a ++ 0#6 ++ 6#3 ++ BitVec.ofBool w ++ g⟩
  | .popc d a w g => some ⟨.s, 0#4, 0x2#6 ++ d ++ a ++ 0#6 ++ 7#3 ++ BitVec.ofBool w ++ g⟩
  | .mul d a b w g => some ⟨.s, 0#4, 0x3#6 ++ d ++ a ++ b ++ 0#3 ++ BitVec.ofBool w ++ g⟩
  | .mulh d a b w g => some ⟨.s, 0#4, 0x3#6 ++ d ++ a ++ b ++ 1#3 ++ BitVec.ofBool w ++ g⟩
  | .mulhn d a b w g => some ⟨.s, 0#4, 0x3#6 ++ d ++ a ++ b ++ 2#3 ++ BitVec.ofBool w ++ g⟩
  | .div d a b w g => some ⟨.s, 0#4, 0x3#6 ++ d ++ a ++ b ++ 3#3 ++ BitVec.ofBool w ++ g⟩
  | .divn d a b w g => some ⟨.s, 0#4, 0x3#6 ++ d ++ a ++ b ++ 4#3 ++ BitVec.ofBool w ++ g⟩
  | .rem d a b w g => some ⟨.s, 0#4, 0x3#6 ++ d ++ a ++ b ++ 5#3 ++ BitVec.ofBool w ++ g⟩
  | .remn d a b w g => some ⟨.s, 0#4, 0x3#6 ++ d ++ a ++ b ++ 6#3 ++ BitVec.ofBool w ++ g⟩
  | .cmp d a b cc g => some ⟨.s, 0#4, 0x4#6 ++ d ++ a ++ b ++ cc ++ 0#1 ++ g⟩
  | .pand d a b g => some ⟨.s, 0#4, 0x5#6 ++ d ++ a ++ b ++ 0#3 ++ 0#1 ++ g⟩
  | .por d a b g => some ⟨.s, 0#4, 0x5#6 ++ d ++ a ++ b ++ 1#3 ++ 0#1 ++ g⟩
  | .pxor d a b g => some ⟨.s, 0#4, 0x5#6 ++ d ++ a ++ b ++ 2#3 ++ 0#1 ++ g⟩
  | .pnot d a g => some ⟨.s, 0#4, 0x5#6 ++ d ++ a ++ 0#6 ++ 3#3 ++ 0#1 ++ g⟩
  | .ptos d w g => some ⟨.s, 0#4, 0x5#6 ++ d ++ 0#12 ++ 4#3 ++ BitVec.ofBool w ++ g⟩
  | .stop a g => some ⟨.s, 0#4, 0x5#6 ++ 0#6 ++ a ++ 0#6 ++ 5#3 ++ 0#1 ++ g⟩
  | .ptrmk d a b w g => some ⟨.s, 0#4, 0x6#6 ++ d ++ a ++ b ++ 0#3 ++ BitVec.ofBool w ++ g⟩
  | .ptrsp d a w g => some ⟨.s, 0#4, 0x6#6 ++ d ++ a ++ 0#6 ++ 1#3 ++ BitVec.ofBool w ++ g⟩
  | .ptrrk d a w g => some ⟨.s, 0#4, 0x6#6 ++ d ++ a ++ 0#6 ++ 2#3 ++ BitVec.ofBool w ++ g⟩
  | .ptrof d a w g => some ⟨.s, 0#4, 0x6#6 ++ d ++ a ++ 0#6 ++ 3#3 ++ BitVec.ofBool w ++ g⟩
  | .ptradd d a b w g => some ⟨.s, 0#4, 0x6#6 ++ d ++ a ++ b ++ 4#3 ++ BitVec.ofBool w ++ g⟩
  | .fadd d a b w g => some ⟨.s, 0#4, 0x7#6 ++ d ++ a ++ b ++ 0#3 ++ BitVec.ofBool w ++ g⟩
  | .fsub d a b w g => some ⟨.s, 0#4, 0x7#6 ++ d ++ a ++ b ++ 1#3 ++ BitVec.ofBool w ++ g⟩
  | .fmul d a b w g => some ⟨.s, 0#4, 0x7#6 ++ d ++ a ++ b ++ 2#3 ++ BitVec.ofBool w ++ g⟩
  | .ffma d a b w g => some ⟨.s, 0#4, 0x7#6 ++ d ++ a ++ b ++ 3#3 ++ BitVec.ofBool w ++ g⟩
  | .fmin d a b w g => some ⟨.s, 0#4, 0x7#6 ++ d ++ a ++ b ++ 4#3 ++ BitVec.ofBool w ++ g⟩
  | .fmax d a b w g => some ⟨.s, 0#4, 0x7#6 ++ d ++ a ++ b ++ 5#3 ++ BitVec.ofBool w ++ g⟩
  | .fdiv d a b w g => some ⟨.s, 0#4, 0x7#6 ++ d ++ a ++ b ++ 6#3 ++ BitVec.ofBool w ++ g⟩
  | .fsqrt d a w g => some ⟨.s, 0#4, 0x7#6 ++ d ++ a ++ 0#6 ++ 7#3 ++ BitVec.ofBool w ++ g⟩
  | .cvtif d a w g => some ⟨.s, 0#4, 0x8#6 ++ d ++ a ++ 0#6 ++ 0#3 ++ BitVec.ofBool w ++ g⟩
  | .cvtnf d a w g => some ⟨.s, 0#4, 0x8#6 ++ d ++ a ++ 0#6 ++ 1#3 ++ BitVec.ofBool w ++ g⟩
  | .cvtfi d a w g => some ⟨.s, 0#4, 0x8#6 ++ d ++ a ++ 0#6 ++ 2#3 ++ BitVec.ofBool w ++ g⟩
  | .cvtfiz d a w g => some ⟨.s, 0#4, 0x8#6 ++ d ++ a ++ 0#6 ++ 3#3 ++ BitVec.ofBool w ++ g⟩
  | .fcmpLt d a b g => some ⟨.s, 0#4, 0x8#6 ++ d ++ a ++ b ++ 4#3 ++ 0#1 ++ g⟩
  | .fcmpLe d a b g => some ⟨.s, 0#4, 0x8#6 ++ d ++ a ++ b ++ 5#3 ++ 0#1 ++ g⟩
  | .fcmpEq d a b g => some ⟨.s, 0#4, 0x8#6 ++ d ++ a ++ b ++ 6#3 ++ 0#1 ++ g⟩
  | .addi d a imm g => some ⟨.s, g, 0x10#6 ++ d ++ a ++ imm⟩
  | .andi d a imm g => some ⟨.s, g, 0x11#6 ++ d ++ a ++ imm⟩
  | .ori d a imm g => some ⟨.s, g, 0x12#6 ++ d ++ a ++ imm⟩
  | .xori d a imm g => some ⟨.s, g, 0x13#6 ++ d ++ a ++ imm⟩
  | .shli d a imm g => some ⟨.s, g, 0x14#6 ++ d ++ a ++ imm⟩
  | .shri d a imm g => some ⟨.s, g, 0x15#6 ++ d ++ a ++ imm⟩
  | .sari d a imm g => some ⟨.s, g, 0x16#6 ++ d ++ a ++ imm⟩
  | .cmpi d a cc imm g => some ⟨.s, g, 0x17#6 ++ d ++ a ++ cc ++ imm⟩
  | .lim d imm g => some ⟨.s, g, 0x18#6 ++ d ++ imm⟩
  | .lih d imm g => some ⟨.s, g, 0x19#6 ++ d ++ imm⟩
  | .ptri d a imm g => some ⟨.s, g, 0x1a#6 ++ d ++ a ++ imm⟩
  | .lscr d imm g => some ⟨.s, g, 0x1b#6 ++ d ++ 0#6 ++ imm⟩
  | .ldb d a cls sem sco off g => some ⟨.s, g, 0x20#6 ++ d ++ a ++ cls ++ sem ++ sco ++ off⟩
  | .ldbn d a cls sem sco off g => some ⟨.s, g, 0x21#6 ++ d ++ a ++ cls ++ sem ++ sco ++ off⟩
  | .ldh d a cls sem sco off g => some ⟨.s, g, 0x22#6 ++ d ++ a ++ cls ++ sem ++ sco ++ off⟩
  | .ldhn d a cls sem sco off g => some ⟨.s, g, 0x23#6 ++ d ++ a ++ cls ++ sem ++ sco ++ off⟩
  | .ldw d a cls sem sco off g => some ⟨.s, g, 0x24#6 ++ d ++ a ++ cls ++ sem ++ sco ++ off⟩
  | .ldwn d a cls sem sco off g => some ⟨.s, g, 0x25#6 ++ d ++ a ++ cls ++ sem ++ sco ++ off⟩
  | .ldd d a cls sem sco off g => some ⟨.s, g, 0x26#6 ++ d ++ a ++ cls ++ sem ++ sco ++ off⟩
  | .stb d a cls sem sco off g => some ⟨.s, g, 0x27#6 ++ d ++ a ++ cls ++ sem ++ sco ++ off⟩
  | .sth d a cls sem sco off g => some ⟨.s, g, 0x28#6 ++ d ++ a ++ cls ++ sem ++ sco ++ off⟩
  | .stw d a cls sem sco off g => some ⟨.s, g, 0x29#6 ++ d ++ a ++ cls ++ sem ++ sco ++ off⟩
  | .std d a cls sem sco off g => some ⟨.s, g, 0x2a#6 ++ d ++ a ++ cls ++ sem ++ sco ++ off⟩
  | .ldl d a cls sem sco j g => some ⟨.s, g, 0x2b#6 ++ d ++ a ++ cls ++ sem ++ sco ++ j ++ 0#3⟩
  | .aadd d a b sem sco g => some ⟨.s, g, 0x2c#6 ++ d ++ a ++ b ++ 0#3 ++ sem ++ sco⟩
  | .amin d a b sem sco g => some ⟨.s, g, 0x2c#6 ++ d ++ a ++ b ++ 1#3 ++ sem ++ sco⟩
  | .amax d a b sem sco g => some ⟨.s, g, 0x2c#6 ++ d ++ a ++ b ++ 2#3 ++ sem ++ sco⟩
  | .aminn d a b sem sco g => some ⟨.s, g, 0x2c#6 ++ d ++ a ++ b ++ 3#3 ++ sem ++ sco⟩
  | .amaxn d a b sem sco g => some ⟨.s, g, 0x2c#6 ++ d ++ a ++ b ++ 4#3 ++ sem ++ sco⟩
  | .aand d a b sem sco g => some ⟨.s, g, 0x2c#6 ++ d ++ a ++ b ++ 5#3 ++ sem ++ sco⟩
  | .aor d a b sem sco g => some ⟨.s, g, 0x2c#6 ++ d ++ a ++ b ++ 6#3 ++ sem ++ sco⟩
  | .aswap d a b sem sco g => some ⟨.s, g, 0x2c#6 ++ d ++ a ++ b ++ 7#3 ++ sem ++ sco⟩
  | .casW d a b sem sco g => some ⟨.s, g, 0x2d#6 ++ d ++ a ++ b ++ 0#3 ++ sem ++ sco⟩
  | .casD d a b sem sco g => some ⟨.s, g, 0x2d#6 ++ d ++ a ++ b ++ 1#3 ++ sem ++ sco⟩
  | .fence cls sem sco g => some ⟨.s, g, 0x2e#6 ++ 0#12 ++ cls ++ sem ++ sco ++ 0#6⟩
  | .br g n off => some ⟨.s, 0#4, 0x30#6 ++ g ++ BitVec.ofBool n ++ 0#3 ++ off⟩
  | .call g n off => some ⟨.s, 0#4, 0x31#6 ++ g ++ BitVec.ofBool n ++ 0#3 ++ off⟩
  | .jmpr g n t l => some ⟨.s, 0#4, 0x32#6 ++ g ++ BitVec.ofBool n ++ 0#3 ++ t ++ l ++ 0#6⟩
  | .loop g n off => some ⟨.s, 0#4, 0x33#6 ++ g ++ BitVec.ofBool n ++ 0#3 ++ off⟩
  | .lset g n c stages imm => some ⟨.s, 0#4, 0x34#6 ++ g ++ BitVec.ofBool n ++ 0#3 ++ c ++ stages ++ imm⟩
  | .rdvFin grp => some ⟨.s, 0#4, 0x35#6 ++ 0#5 ++ 0#3 ++ grp ++ 0#10⟩
  | .rdvMid grp => some ⟨.s, 0#4, 0x35#6 ++ 0#5 ++ 1#3 ++ grp ++ 0#10⟩
  | .exit g n code => some ⟨.s, 0#4, 0x36#6 ++ g ++ BitVec.ofBool n ++ 0#3 ++ 0#2 ++ code⟩
  | .waitc g n cnt => some ⟨.s, 0#4, 0x37#6 ++ g ++ BitVec.ofBool n ++ 0#3 ++ cnt⟩
  | .yield => some ⟨.s, 0#4, 0x38#6 ++ 0#5 ++ 0#3 ++ 0#18⟩
  | .phase g n k => some ⟨.s, 0#4, 0x39#6 ++ g ++ BitVec.ofBool n ++ 0#3 ++ 0#14 ++ k⟩
  | .lease g n cnt => some ⟨.s, 0#4, 0x3a#6 ++ g ++ BitVec.ofBool n ++ 0#3 ++ 0#13 ++ cnt⟩
  | .barInit g n bid sc => some ⟨.s, 0#4, 0x3b#6 ++ g ++ BitVec.ofBool n ++ 0#3 ++ bid ++ sc ++ 0#4⟩
  | .barExpb g n bid sc => some ⟨.s, 0#4, 0x3b#6 ++ g ++ BitVec.ofBool n ++ 1#3 ++ bid ++ sc ++ 0#4⟩
  | .barArv g n bid sco => some ⟨.s, 0#4, 0x3b#6 ++ g ++ BitVec.ofBool n ++ 2#3 ++ bid ++ 0#6 ++ sco ++ 0#1⟩
  | .barWait g n bid sco => some ⟨.s, 0#4, 0x3b#6 ++ g ++ BitVec.ofBool n ++ 3#3 ++ bid ++ 0#6 ++ sco ++ 0#1⟩
  | .barAw g n bid sco => some ⟨.s, 0#4, 0x3b#6 ++ g ++ BitVec.ofBool n ++ 4#3 ++ bid ++ 0#6 ++ sco ++ 0#1⟩
  | .mfsr g n d reg => some ⟨.s, 0#4, 0x3c#6 ++ g ++ BitVec.ofBool n ++ 0#3 ++ d ++ reg⟩
  | .mtsr g n a reg => some ⟨.s, 0#4, 0x3c#6 ++ g ++ BitVec.ofBool n ++ 1#3 ++ a ++ reg⟩
  | .trap g n code => some ⟨.s, 0#4, 0x3c#6 ++ g ++ BitVec.ofBool n ++ 2#3 ++ 0#6 ++ code⟩
  | .evnt g n code => some ⟨.s, 0#4, 0x3c#6 ++ g ++ BitVec.ofBool n ++ 3#3 ++ 0#6 ++ code⟩
  | .tlbi g n a => some ⟨.s, 0#4, 0x3c#6 ++ g ++ BitVec.ofBool n ++ 4#3 ++ a ++ 0#12⟩
  | .dinv g n a => some ⟨.s, 0#4, 0x3c#6 ++ g ++ BitVec.ofBool n ++ 5#3 ++ a ++ 0#12⟩
  | .halt g n => some ⟨.s, 0#4, 0x3c#6 ++ g ++ BitVec.ofBool n ++ 6#3 ++ 0#18⟩
  | .csave g n a => some ⟨.s, 0#4, 0x3c#6 ++ g ++ BitVec.ofBool n ++ 7#3 ++ a ++ 0#12⟩
  | .lhash g n d a b => some ⟨.l, 0#4, 0x3d#6 ++ g ++ BitVec.ofBool n ++ 0#3 ++ d ++ a ++ b⟩
  | .lgath g n d a b => some ⟨.l, 0#4, 0x3d#6 ++ g ++ BitVec.ofBool n ++ 1#3 ++ d ++ a ++ b⟩
  | .lpool g n d a b => some ⟨.l, 0#4, 0x3d#6 ++ g ++ BitVec.ofBool n ++ 2#3 ++ d ++ a ++ b⟩
  | .lscat g n d a b => some ⟨.l, 0#4, 0x3d#6 ++ g ++ BitVec.ofBool n ++ 3#3 ++ d ++ a ++ b⟩
  | .lhand g n d a b => some ⟨.l, 0#4, 0x3d#6 ++ g ++ BitVec.ofBool n ++ 4#3 ++ d ++ a ++ b⟩
  | .vadd d a b x w g => some ⟨.v, 0#4, 0x1#6 ++ d ++ a ++ b ++ BitVec.ofBool x ++ BitVec.ofBool w ++ g⟩
  | .vsub d a b x w g => some ⟨.v, 0#4, 0x2#6 ++ d ++ a ++ b ++ BitVec.ofBool x ++ BitVec.ofBool w ++ g⟩
  | .vmul d a b x w g => some ⟨.v, 0#4, 0x3#6 ++ d ++ a ++ b ++ BitVec.ofBool x ++ BitVec.ofBool w ++ g⟩
  | .vfma d a b x w g => some ⟨.v, 0#4, 0x4#6 ++ d ++ a ++ b ++ BitVec.ofBool x ++ BitVec.ofBool w ++ g⟩
  | .vfms d a b x w g => some ⟨.v, 0#4, 0x5#6 ++ d ++ a ++ b ++ BitVec.ofBool x ++ BitVec.ofBool w ++ g⟩
  | .vmin d a b x w g => some ⟨.v, 0#4, 0x6#6 ++ d ++ a ++ b ++ BitVec.ofBool x ++ BitVec.ofBool w ++ g⟩
  | .vmax d a b x w g => some ⟨.v, 0#4, 0x7#6 ++ d ++ a ++ b ++ BitVec.ofBool x ++ BitVec.ofBool w ++ g⟩
  | .vun d a fn x w g => some ⟨.v, 0#4, 0x8#6 ++ d ++ a ++ fn ++ BitVec.ofBool x ++ BitVec.ofBool w ++ g⟩
  | .vand d a b x w g => some ⟨.v, 0#4, 0x9#6 ++ d ++ a ++ b ++ BitVec.ofBool x ++ BitVec.ofBool w ++ g⟩
  | .vor d a b x w g => some ⟨.v, 0#4, 0xa#6 ++ d ++ a ++ b ++ BitVec.ofBool x ++ BitVec.ofBool w ++ g⟩
  | .vxor d a b x w g => some ⟨.v, 0#4, 0xb#6 ++ d ++ a ++ b ++ BitVec.ofBool x ++ BitVec.ofBool w ++ g⟩
  | .vshl d a b x w g => some ⟨.v, 0#4, 0xc#6 ++ d ++ a ++ b ++ BitVec.ofBool x ++ BitVec.ofBool w ++ g⟩
  | .vshr d a b x w g => some ⟨.v, 0#4, 0xd#6 ++ d ++ a ++ b ++ BitVec.ofBool x ++ BitVec.ofBool w ++ g⟩
  | .vsar d a b x w g => some ⟨.v, 0#4, 0xe#6 ++ d ++ a ++ b ++ BitVec.ofBool x ++ BitVec.ofBool w ++ g⟩
  | .vfsl d a b x w g => some ⟨.v, 0#4, 0xf#6 ++ d ++ a ++ b ++ BitVec.ofBool x ++ BitVec.ofBool w ++ g⟩
  | .vfsr d a b x w g => some ⟨.v, 0#4, 0x10#6 ++ d ++ a ++ b ++ BitVec.ofBool x ++ BitVec.ofBool w ++ g⟩
  | .vhar d a x w g => some ⟨.v, 0#4, 0x11#6 ++ d ++ a ++ 0#7 ++ BitVec.ofBool x ++ BitVec.ofBool w ++ g⟩
  | .vihr d a x w g => some ⟨.v, 0#4, 0x12#6 ++ d ++ a ++ 0#7 ++ BitVec.ofBool x ++ BitVec.ofBool w ++ g⟩
  | .vcmp cc mk a b x g => some ⟨.v, 0#4, 0x13#6 ++ cc ++ mk ++ a ++ b ++ BitVec.ofBool x ++ 0#1 ++ g⟩
  | .vsel d a b w g => some ⟨.v, 0#4, 0x14#6 ++ d ++ a ++ b ++ 0#1 ++ BitVec.ofBool w ++ g⟩
  | .vmsk op mk ma mb g => some ⟨.v, 0#4, 0x15#6 ++ op ++ mk ++ 0#4 ++ ma ++ 0#4 ++ mb ++ 0#2 ++ g⟩
  | .vcomp d a w g => some ⟨.v, 0#4, 0x16#6 ++ d ++ a ++ 0#8 ++ BitVec.ofBool w ++ g⟩
  | .vexpd d a w g => some ⟨.v, 0#4, 0x17#6 ++ d ++ a ++ 0#8 ++ BitVec.ofBool w ++ g⟩
  | .vslu d a n x w g => some ⟨.v, 0#4, 0x18#6 ++ d ++ a ++ n ++ BitVec.ofBool x ++ BitVec.ofBool w ++ g⟩
  | .vsld d a n x w g => some ⟨.v, 0#4, 0x19#6 ++ d ++ a ++ n ++ BitVec.ofBool x ++ BitVec.ofBool w ++ g⟩
  | .vbrd d a x w g => some ⟨.v, 0#4, 0x1a#6 ++ d ++ a ++ 0#7 ++ BitVec.ofBool x ++ BitVec.ofBool w ++ g⟩
  | .viota d x w g => some ⟨.v, 0#4, 0x1b#6 ++ d ++ 0#14 ++ BitVec.ofBool x ++ BitVec.ofBool w ++ g⟩
  | .vmvs d a idx g => some ⟨.v, 0#4, 0x1c#6 ++ d ++ a ++ idx ++ 0#2 ++ g⟩
  | .vmsv d a idx x w g => some ⟨.v, 0#4, 0x1d#6 ++ d ++ a ++ idx ++ BitVec.ofBool x ++ BitVec.ofBool w ++ g⟩
  | .vred y op a x g => some ⟨.v, 0#4, 0x1e#6 ++ y ++ op ++ a ++ 0#7 ++ BitVec.ofBool x ++ 0#1 ++ g⟩
  | .vmvy d y x w g => some ⟨.v, 0#4, 0x1f#6 ++ d ++ 0#5 ++ y ++ 0#7 ++ BitVec.ofBool x ++ BitVec.ofBool w ++ g⟩
  | .vcvt d a ty part x w g => some ⟨.v, 0#4, 0x20#6 ++ d ++ a ++ ty ++ part ++ BitVec.ofBool x ++ BitVec.ofBool w ++ g⟩
  | .vsetShape ty rm sat gsl g => some ⟨.v, 0#4, 0x21#6 ++ 0#2 ++ ty ++ rm ++ BitVec.ofBool sat ++ gsl ++ 0#9 ++ g⟩
  | .vsetTh th a g => some ⟨.v, 0#4, 0x21#6 ++ 1#2 ++ th ++ a ++ 0#12 ++ g⟩
  | .vsetTag tag g => some ⟨.v, 0#4, 0x21#6 ++ 2#2 ++ 0#4 ++ tag ++ g⟩
  | .vld d a cls t u off g => some ⟨.v, 0#4, 0x22#6 ++ d ++ a ++ cls ++ BitVec.ofBool t ++ BitVec.ofBool u ++ off ++ g⟩
  | .vst d a cls u off g => some ⟨.v, 0#4, 0x23#6 ++ d ++ a ++ cls ++ 0#1 ++ BitVec.ofBool u ++ off ++ g⟩
  | .vldl d a cls t j r g => some ⟨.v, 0#4, 0x24#6 ++ d ++ a ++ cls ++ BitVec.ofBool t ++ 0#1 ++ j ++ r ++ g⟩
  | .vldd d a cls t j r g => some ⟨.v, 0#4, 0x24#6 ++ d ++ a ++ cls ++ BitVec.ofBool t ++ 1#1 ++ j ++ r ++ g⟩
  | .vstl d a cls flat j r g => some ⟨.v, 0#4, 0x25#6 ++ d ++ a ++ cls ++ 0#1 ++ BitVec.ofBool flat ++ j ++ r ++ g⟩
  | .vlrg d k s i w g => some ⟨.v, 0#4, 0x26#6 ++ d ++ k ++ BitVec.ofBool s ++ i ++ 0#5 ++ BitVec.ofBool w ++ g⟩
  | .vthr th mk a g => some ⟨.v, 0#4, 0x27#6 ++ th ++ 0#1 ++ mk ++ a ++ 0#9 ++ g⟩
  | .mclm sa g => some ⟨.m, 0#4, 0x1#6 ++ 0#3 ++ sa ++ 0#11 ++ g⟩
  | .mrel sa g => some ⟨.m, 0#4, 0x2#6 ++ 0#3 ++ sa ++ 0#11 ++ g⟩
  | .mfil sa p k g => some ⟨.m, 0#4, 0x3#6 ++ 0#3 ++ sa ++ p ++ 0#2 ++ BitVec.ofBool k ++ g⟩
  | .mma ac sa sb z g => some ⟨.m, 0#4, 0x4#6 ++ ac ++ sa ++ sb ++ BitVec.ofBool z ++ 0#2 ++ g⟩
  | .mmat ac sa sb z g => some ⟨.m, 0#4, 0x5#6 ++ ac ++ sa ++ sb ++ BitVec.ofBool z ++ 0#2 ++ g⟩
  | .mcnv ac sa sb z g => some ⟨.m, 0#4, 0x6#6 ++ ac ++ sa ++ sb ++ BitVec.ofBool z ++ 0#2 ++ g⟩
  | .mwin p g => some ⟨.m, 0#4, 0x7#6 ++ 0#11 ++ p ++ 0#3 ++ g⟩
  | .mcfg ta tb sco g => some ⟨.m, 0#4, 0x8#6 ++ 0#3 ++ ta ++ tb ++ 0#5 ++ sco ++ 0#3 ++ g⟩
  | .mrnd rm g => some ⟨.m, 0#4, 0x9#6 ++ 0#9 ++ rm ++ 0#11 ++ g⟩
  | .mdrn ac ty p v k g => some ⟨.m, 0#4, 0xa#6 ++ ac ++ 0#4 ++ ty ++ p ++ 0#1 ++ BitVec.ofBool v ++ BitVec.ofBool k ++ g⟩
  | .mzer ac g => some ⟨.m, 0#4, 0xb#6 ++ ac ++ 0#19 ++ g⟩
  | .mver ac p g => some ⟨.m, 0#4, 0xc#6 ++ ac ++ 0#7 ++ 0#1 ++ p ++ 0#3 ++ g⟩
  | .mverTag p g => some ⟨.m, 0#4, 0xc#6 ++ 0#10 ++ 1#1 ++ p ++ 0#3 ++ g⟩
  | .mlda ac p k g => some ⟨.m, 0#4, 0xd#6 ++ ac ++ 0#8 ++ p ++ 0#2 ++ BitVec.ofBool k ++ g⟩
  | .lopn p k g => some ⟨.m, 0#4, 0x10#6 ++ 0#11 ++ p ++ 0#2 ++ BitVec.ofBool k ++ g⟩
  | .lstp ac v g => some ⟨.m, 0#4, 0x11#6 ++ ac ++ 0#17 ++ BitVec.ofBool v ++ 0#1 ++ g⟩
  | .lrd ac v g => some ⟨.m, 0#4, 0x12#6 ++ ac ++ 0#17 ++ BitVec.ofBool v ++ 0#1 ++ g⟩
  | .lcls k g => some ⟨.m, 0#4, 0x13#6 ++ 0#21 ++ BitVec.ofBool k ++ g⟩
  | .lwgt k g => some ⟨.m, 0#4, 0x14#6 ++ 0#21 ++ BitVec.ofBool k ++ g⟩
  | .tsrc p g => some ⟨.t, 0#4, 0x1#6 ++ p ++ 0#16 ++ g⟩
  | .tdst p g => some ⟨.t, 0#4, 0x2#6 ++ p ++ 0#16 ++ g⟩
  | .tdim dim what a imm g => some ⟨.t, 0#4, 0x3#6 ++ dim ++ what ++ a ++ imm ++ g⟩
  | .tind dim p iw g => some ⟨.t, 0#4, 0x4#6 ++ dim ++ p ++ iw ++ 0#12 ++ g⟩
  | .tfmt sty dty j flat sat rm g => some ⟨.t, 0#4, 0x5#6 ++ sty ++ dty ++ j ++ BitVec.ofBool flat ++ BitVec.ofBool sat ++ rm ++ 0#7 ++ g⟩
  | .tsyn acq rel ben bid tag g => some ⟨.t, 0#4, 0x6#6 ++ acq ++ rel ++ BitVec.ofBool ben ++ bid ++ tag ++ g⟩
  | .tcpy g => some ⟨.t, 0#4, 0x8#6 ++ 0#22 ++ g⟩
  | .tlvl g => some ⟨.t, 0#4, 0x9#6 ++ 0#22 ++ g⟩
  | .tenc g => some ⟨.t, 0#4, 0xa#6 ++ 0#22 ++ g⟩
  | .tpak g => some ⟨.t, 0#4, 0xb#6 ++ 0#22 ++ g⟩
  | .tunp g => some ⟨.t, 0#4, 0xc#6 ++ 0#22 ++ g⟩
  | .tcol grp op g => some ⟨.t, 0#4, 0xd#6 ++ grp ++ op ++ 0#12 ++ g⟩
  | .tkvf p r pk g => some ⟨.t, 0#4, 0xe#6 ++ p ++ r ++ pk ++ 0#7 ++ g⟩
  | .tfil p g => some ⟨.t, 0#4, 0xf#6 ++ p ++ 0#16 ++ g⟩
  | .tops slot g => some ⟨.t, 0#4, 0x10#6 ++ slot ++ 0#14 ++ g⟩
  | .tdrp p r drop g => some ⟨.t, 0#4, 0x11#6 ++ p ++ r ++ BitVec.ofBool drop ++ 0#9 ++ g⟩
  | .transferStart _ => none
  | .transferComplete _ => none
  | .transferFault _ _ => none
  | .pageFaultService _ _ => none
  | .replyArrival _ => none
  | .freezeTimeout _ => none
  | .yieldSpacingFault _ => none
  | .joinRelease _ _ => none
  | .leaseTakeover _ _ _ _ => none
  | .tileReady _ _ _ => none
  | .mfilStamp _ _ _ _ => none
  | .mdrnComplete _ _ _ _ _ => none
  | .barrierArrivalCount _ _ _ => none
  | .loupeCommandComplete _ => none
  | .lhandComplete _ => none
  | .loupeSliceEnd _ _ => none
  | .tlbiComplete _ => none
  | .preemptRequest _ => none
  | .yieldHoldRelease _ => none
  | .contextSave _ => none
  | .checkpoint _ => none
  | .haltRemoteStop _ => none
  | .kernelEndJob _ => none
  | .kernelResumeInPlace _ _ => none
  | .kernelSave _ => none
  | .lnotify _ _ => none
  | .bind _ => none
  | .jobLoad _ => none
  | .startCycle _ => none
  | .patternFrame _ _ => none
  | .forcedLowering _ _ => none
  | .idleTimeout _ => none
  | .collapse _ => none
  | .wakeDoorbell _ _ => none
  | .wakeComplete _ => none
  | .laneTestComplete _ _ => none
  | .flgWrite _ _ _ => none
  | .vwWrite _ _ _ => none
  | .wdogWrite _ _ => none
  | .patWrite _ _ _ _ => none
  | .nqheadWrite _ _ => none
  | .nackWrite _ _ => none
  | .registerWrite _ _ _ => none
  | .accessCommit _ => none
  | .viewBufferDrop _ _ => none
  | .commandHalt _ _ => none
  | .launch _ => none
  | .identify _ => none
  | .status _ => none
  | .log _ => none
  | .selftest _ => none
  | .vdCreate _ => none
  | .vdDestroy _ => none
  | .vdSleep _ => none
  | .vdWake _ => none
  | .loadImage _ => none
  | .attest _ => none
  | .fwUpdate _ => none
  | .setCap _ => none
  | .heldAccess _ _ => none
  | .outsideAgentAccess _ _ => none
  | .masterClockChange _ _ _ => none
  | .kernelLaunch _ _ => none
  | .graphEdit _ _ _ => none
  | .mirrorRepair _ _ _ => none
  | .linkRetry _ => none
  | .capLeaseExpiry => none
  | .reset => none
  | .khbWrite => none
  | .kpanicWrite => none
  | .heartbeatTimeout => none
  | .kreadyWrite => none
  | .warmStartRetry => none

/-- The stream of which a bare 32-bit word is read when nothing says which: the first of S, Loupe, V, M, T whose decoder
accepts it (log entry 3). -/
def tableStream (w : Code) : Option (Stream × Instr) :=
  match decode .s 0 w with
  | .ok i => some (.s, i)
  | .error _ =>
    match decode .l 0 w with
    | .ok i => some (.l, i)
    | .error _ =>
      match decode .v 0 w with
      | .ok i => some (.v, i)
      | .error _ =>
        match decode .m 0 w with
        | .ok i => some (.m, i)
        | .error _ =>
          match decode .t 0 w with
          | .ok i => some (.t, i)
          | .error _ => none

/-- The instruction the decoder reads from an instruction whose bits are `w` (one 32-bit word; R30). -/
def decodeTableWord (_nbits w : Nat) : Option Instr := (tableStream (BitVec.ofNat 32 w)).map (·.2)

end Sys2Proof
end

