-- ==== Sys2Proof/Machine/State.lean ====
section
/-! DEFINITION. The state of the BN840, all of it plain data, and the machine right after reset. Rules are those of
spec/; INVENTORY.md lists every piece with the rule that names it. -/
namespace Sys2Proof.Machine

/-- A table keyed by a number: at most one entry a key counts, the first. -/
abbrev Tab (α : Type) := List (Nat × α)

/-- A memory: listed bytes by strictly rising address, no listed byte zero; an unlisted byte reads 0 (log entry 5). -/
abbrev Memory := List Host.Cell

/-! ## A core's scalar side (R20) -/

/-- What a stream is doing (R12, R55, R58). -/
inductive StreamState where
  /-- The job gives the stream no code (R12). -/
  | unused
  | live
  /-- Arrived at the open join of a group, `fin` for RDV.fin (R55). -/
  | arrived (grp : Nat) (fin : Bool)
  | ended
  deriving DecidableEq, Repr, Inhabited

/-- The registers of one stream (R20) and where it stands in its group (R59, R70). -/
structure StreamRegs where
  pc : BitVec 14 := 0
  lc : BitVec 32 := 0
  es : BitVec 3 := 0
  rrb : BitVec 5 := 0
  q : BitVec 8 := 0
  lnk : BitVec 14 := 0
  /-- Group-relative cycle of the next ec. -/
  gcyc : Nat := 0
  /-- Number of group switches: a result issued before the last switch writes no latch (R72). -/
  gser : Nat := 0
  /-- Ec left of a WAITC in which the stream issues nothing (R94), and of a bubble, which belongs to no group (R85). -/
  wait : Nat := 0
  bub : Nat := 0
  st : StreamState := .unused
  deriving DecidableEq, Repr, Inhabited

/-- The accumulating types of a partial-sum latch (R186). -/
inductive AccTy where
  | f32 | i32 | n32
  deriving DecidableEq, Repr, Inhabited

/-- One VRED into a partial-sum latch: the operation and the root of each group, none for a group with no lane (R187).
Each root is combined into its element when the word lands. -/
structure YComb where
  op : BitVec 4
  acc : AccTy
  sat : Bool
  roots : List (Option (BitVec 32))
  deriving DecidableEq, Repr, Inhabited

/-- One register a result lands in (R23). -/
inductive Write where
  | s (n : Nat) (v : Word)
  | p (n : Nat) (v : Bool)
  | v (n : Nat) (r : Row)
  /-- Bytes of a vector register under a byte mask (X = 1, R166). -/
  | vm (n : Nat) (k : Mask) (r : Row)
  /-- A viewed tile row (R25), under a byte mask. -/
  | tile (t i : Nat) (k : Mask) (r : Row)
  | m (n : Nat) (k : Mask)
  /-- Bits of a mask register under another mask (X = 1, R165). -/
  | mm (n : Nat) (wr k : Mask)
  | y (n : Nat) (c : YComb)
  deriving DecidableEq, Repr, Inhabited

/-- The shape register (R162); LANES and ESIZE follow from the type. -/
structure Shape where
  ty : BitVec 4 := 0
  rm : BitVec 2 := 0
  sat : Bool := false
  gsl : BitVec 4 := 0
  deriving DecidableEq, Repr, Inhabited

/-- What a V load reads of a rank's scratchpad: bytes, a row through a block lens, averages or details of a tree
(R191, R193, R248). -/
inductive RowKind where
  | bytes
  | block
  | averages (j r : Nat)
  | details (j r : Nat)
  deriving DecidableEq, Repr, Inhabited

/-- A V load: rank, offset, the lens it passes through, the shape at issue, its class. -/
structure RowSpec where
  rank : Nat
  off : Nat
  kind : RowKind
  lens : Word := 0
  shp : Shape := {}
  cls : BitVec 3 := 0
  deriving DecidableEq, Repr, Inhabited

/-- How the bytes of a reply become a result (R156, R192, R247, R279). -/
inductive LoadForm where
  /-- A scalar of `size` bytes, sign- or zero-extended (R155). -/
  | scalar (size : Nat) (sext : Bool)
  /-- A row as its bytes stand (R192). -/
  | row
  deriving DecidableEq, Repr, Inhabited

/-- A first read (R69): the granules it touches and the tag it expects. -/
structure FirstRead where
  rank : Nat
  grans : List Nat
  tag : BitVec 16
  /-- Completions each granule had seen at issue: where one came since, the bytes are taken at the due slot (R69,
  R273). -/
  done : List Nat
  cls : BitVec 3
  icnt : Nat
  deriving DecidableEq, Repr, Inhabited

/-- A result in flight (R60, R70): what lands at ec `due`. -/
structure Pend where
  due : Nat
  strm : Stream
  /-- Issue order within the stream (R23). -/
  seq : Nat
  pc : BitVec 14
  writes : List Write := []
  /-- The latch of R70: cycle of issue modulo 8, group serial at issue, value. -/
  latchS : Option (Nat × Nat × Word) := none
  latchV : Option (Nat × Nat × Row) := none
  flags : BitVec 5 := 0
  /-- The reply the result waits for, and what its bytes become: they replace the value of each write and latch. -/
  reply : Option Nat := none
  form : Option LoadForm := none
  row : Option RowSpec := none
  first : Option FirstRead := none
  /-- A fault raised at the due slot: cause, address and race record (R159, R330). -/
  fault : Option (BitVec 8 × Word × BitVec 128) := none
  deriving DecidableEq, Repr, Inhabited

/-- The scalar side of a gang core, or of a Loupe context (which uses stream 0 only, R27, R333). -/
structure Seq where
  sreg : Vector Word 56 := Vector.replicate 56 0
  /-- p0-p7; p0 reads 1 (R20). -/
  preg : BitVec 8 := 1
  /-- S latches: none until written (R22). -/
  latch : Vector (Option Word) 8 := Vector.replicate 8 none
  /-- S, V, M, T. -/
  strm : Vector StreamRegs 4 := Vector.replicate 4 {}
  /-- The four sections of the code store (R13) and the guard store (R38). -/
  code : Vector (List Code) 4 := Vector.replicate 4 []
  guards : List (BitVec 4) := []
  pend : List Pend := []
  deriving DecidableEq, Repr, Inhabited

/-! ## A core's vector side -/

/-- A partial-sum latch: 64 elements, each empty or a 32-bit value (R186). -/
abbrev YLatch := Vector (Option (BitVec 32)) 64

/-- The vector registers of a core (R20). -/
structure VUnit where
  vreg : Vector Row 64 := Vector.replicate 64 0
  mreg : Vector Mask 8 := Vector.replicate 8 (BitVec.allOnes 256)
  y : Vector YLatch 4 := Vector.replicate 4 (Vector.replicate 64 none)
  th : Vector (BitVec 32) 4 := Vector.replicate 4 0
  shp : Shape := {}
  tagv : BitVec 16 := 0
  latch : Vector (Option Row) 8 := Vector.replicate 8 none
  /-- First ec after the occupancy of the last VSTL (R48). -/
  vstlEnd : Nat := 0
  deriving DecidableEq, Repr, Inhabited

/-! ## A core's matrix side -/

/-- A tile or a rung slot: 64 rows of 256 bytes (R15). -/
abbrev Tile := Vector Row 64
/-- The contents of an operand slot: 8 KiB as 32 rows of 256 bytes (R14). -/
abbrev SlotData := Vector Row 32

/-- An open ladder (R226, R237). -/
structure Ladder where
  ptr : Word
  n : BitVec 32
  one : BitVec 20
  two : BitVec 20
  depth : BitVec 5
  spb : BitVec 13
  ver : BitVec 16
  delta : List (BitVec 32)
  /-- ω of k.0 and k.1 in turn. -/
  omega : List (BitVec 32)
  deriving DecidableEq, Repr, Inhabited

/-- What an M command moves through memory beat by beat (R61, R207, R212, R213). -/
inductive BeatOp where
  | mfil (slot : Nat)
  | mlda (tile : Nat)
  /-- Rows still to write, one an ec. -/
  | mdrn (tile : Nat) (rows : List (List Byte))
  /-- The LCB of LOPN (256 bytes). -/
  | lopn
  /-- LCB bytes 16-255 of LWGT. -/
  | lwgt
  /-- The spill slots of LRD: tile, ladder, the blend so far, and its flags (R232; log entry 23). -/
  | lrd (tile : Nat) (l : Ladder) (acc : List (List (BitVec 32))) (f : BitVec 5)
  /-- The spill slots of LSTP: the ladder before the step, the rung that carries, and the merged rows still to write
  (R231; log entry 23). -/
  | lstp (l : Ladder) (k : Nat) (rows : List (List Byte)) (f : BitVec 5)
  deriving DecidableEq, Repr, Inhabited

/-- A snapshot: intervals known of each rank, and of the outside (R326). Lists stand for vectors of 48, missing
entries 0. -/
structure Snap where
  seen : List Nat := []
  dg : Nat := 0
  deriving DecidableEq, Repr, Inhabited

/-- An M command with beats still to come: beat `next` is due in ec `issue + next` (R61). -/
structure Beat where
  op : BeatOp
  rank : Nat
  off : Nat
  issue : Nat
  next : Nat
  pc : BitVec 14
  icnt : Nat
  /-- Release at the end, and its scope (K = 1). -/
  rel : Bool := false
  /-- K = 1 of a command that only reads. -/
  acq : Bool := false
  sco : BitVec 3 := 0
  seq : Nat := 0
  /-- Replies of the beats, in order, when they come from another rank. -/
  replies : List Nat := []
  /-- The snapshot of a command with K = 1 (R327). -/
  snap : Snap := {}
  deriving DecidableEq, Repr, Inhabited

/-- The matrix registers of a core (R195-R216, R237). -/
structure MUnit where
  tile : Vector Tile 8 := Vector.replicate 8 (Vector.replicate 64 0)
  /-- Rung store, slot 2k + s (R217). -/
  rung : Vector Tile 12 := Vector.replicate 12 (Vector.replicate 64 0)
  tver : Vector (BitVec 16) 8 := Vector.replicate 8 0
  texp : Vector (BitVec 16) 8 := Vector.replicate 8 0
  leasec : BitVec 5 := 0
  /-- The M stream's rounding mode (R126, R210). -/
  rm : BitVec 2 := 0
  ta : BitVec 4 := 0
  tb : BitVec 4 := 0
  sco : BitVec 3 := 0
  mwin : Word := 0
  tagm : BitVec 16 := 0
  /-- First ec after the occupancy of the tile port and of the fill port (R200). -/
  portEnd : Nat := 0
  fillEnd : Nat := 0
  /-- First ec after the occupancy of the last M command naming each tile (R201). -/
  tileEnd : Vector Nat 8 := Vector.replicate 8 0
  /-- Ready ec of each tile, for the view (R26). -/
  ready : Vector Nat 8 := Vector.replicate 8 0
  /-- First ec after the occupancy of the last ladder command (R235). -/
  ladEnd : Nat := 0
  ladder : Option Ladder := none
  close : Option (Word × BitVec 16) := none
  beats : List Beat := []
  deriving DecidableEq, Repr, Inhabited

/-! ## A core's transfer side -/

/-- The shadow parameter set of a T stream (R300). Its acquire and release start as 7, none, as R300's table has it; R20's gives
the whole set 0 (log entry 74). -/
structure TSet where
  src : Word := 0
  dst : Word := 0
  ext : Vector Word 4 := Vector.replicate 4 0
  /-- SS1-SS3 and DS1-DS3. -/
  ss : Vector Word 3 := Vector.replicate 3 0
  ds : Vector Word 3 := Vector.replicate 3 0
  /-- Indirect dimension, table pointer, and whether its entries are n32. -/
  ind : Option (BitVec 2 × Word × Bool) := none
  sty : BitVec 4 := 0
  dty : BitVec 4 := 0
  lvl : BitVec 3 := 0
  flat : Bool := false
  sat : Bool := false
  rm : BitVec 2 := 0
  acq : BitVec 3 := 7
  rel : BitVec 3 := 7
  ben : Bool := false
  bid : BitVec 8 := 0
  tag : BitVec 7 := 0
  deriving DecidableEq, Repr, Inhabited

/-- A TLB entry: VA of the page, its size, its leaf and the address of its frame — a device physical address, or a host
address for an H-format page (R363, R366, R368). Most recently used first. -/
structure TlbEntry where
  va : Nat
  size : Nat
  leaf : Word
  base : Nat
  deriving DecidableEq, Repr, Inhabited

/-! ## Accesses (R261-R264) -/

/-- Whose access it is (R262). -/
inductive Who where
  | agent (a : Agent)
  | cmd (id : Nat)
  | save (gang : Nat)
  /-- The management core and the resident kernel's cores; the host and other outside agents (R267). -/
  | kernel
  | host
  deriving DecidableEq, Repr, Inhabited

/-- A place a checked pointer or a translated address names. -/
inductive Loc where
  | scr (gang rank off : Nat)
  | lpe (die idx ctx off : Nat)
  | dev (pa : Nat)
  | host (addr : Nat)
  | peer (vd off : Nat)
  | sys (reg : Nat)
  deriving DecidableEq, Repr, Inhabited

/-- What a queued access does when it leaves its queue (R264). -/
inductive QOp where
  /-- Bytes of a load into a reply, at an offset of the reply's buffer. -/
  | load (size reply off : Nat)
  /-- A store of bytes at offsets from the location. -/
  | store (data : List (Nat × Byte))
  /-- AMO code of R278 with its operand. -/
  | amo (code : Nat) (b : Word) (reply : Nat)
  /-- CAS of `size` bytes: expected and new (R282). -/
  | cas (size : Nat) (e n : Word) (reply : Nat)
  /-- LDL of a GLB tree page: type, depth, level (R247). -/
  | ldl (ty : BitVec 4) (depth level : Nat) (reply : Nat)
  /-- A spine commit of a tree block: type, depth, level, FLAT, and the level values supplied (R246). -/
  | spine (ty : BitVec 4) (depth level : Nat) (flat : Bool) (vals : List (Nat × Nat))
  /-- A fence of a class set, 0 for all (R269). -/
  | fence
  /-- The release of a barrier arrival at a generation (R289). -/
  | arrive (vd bar : Nat) (gen : BitVec 16)
  /-- The release of an EVNT, with its record (R398). -/
  | event (vd : Nat) (rec : List Byte)
  /-- The release of a launch notify (R102). -/
  | notify (vd : Nat) (ptr : Word)
  /-- The end of an M command's writes: the version it sets, and its release with the snapshot (R213, R234, R327). -/
  | mend (tile : Option (BitVec 3)) (rel : Bool) (snap : Snap)
  deriving DecidableEq, Repr, Inhabited

/-- An access in a class queue (R263). -/
structure QEntry where
  who : Who
  vd : Nat
  cls : BitVec 3
  seq : Nat
  op : QOp
  loc : Loc
  acq : Bool := false
  rel : Bool := false
  sco : Nat := 0
  /-- Issuer, for the checker and for a report (R325, R330). -/
  gang : Nat := 0
  rank : Nat := 0
  strm : Stream := .s
  pc : BitVec 14 := 0
  icnt : Nat := 0
  /-- Bytes of a check unit of its page, 0 where the page is not race-checked (RCHK, R323), and the GLB address for a
  report. -/
  unit : Nat := 0
  va : Word := 0
  /-- A store that a load of its agent in class 0 has taken its bytes from (R265). -/
  seen : Bool := false
  /-- An acquire load that a younger access has passed, as the plain load it is where the scope test fails (R270; log
  entry 9). -/
  passed : Bool := false
  /-- Issue ec of the M command whose beat it is (R392). -/
  word : Nat := 0
  /-- The lines of the mirror region that held its walk (R409). -/
  walk : List Nat := []
  /-- A read of an M command with K = 1, whose acquire the checker merges (R202, R327). -/
  mAcq : Bool := false
  deriving DecidableEq, Repr, Inhabited

/-- What a reported access does when it is executed again (R395): a load whose reply had bytes, by the reported parts of it; a
V load of a scratchpad; a store; a beat of an M command. -/
inductive Redo where
  | load (p : Pend) (buf : List (Nat × Byte)) (parts : List QEntry)
  | row (p : Pend)
  | store (q : QEntry)
  | beat (b : Beat)
  deriving DecidableEq, Repr, Inhabited

/-- A fault record still to be raised: an in-flight record of R320 or a deferred record of R434. -/
structure HeldFault where
  cause : BitVec 8
  addr : Word := 0
  resume : BitVec 32 := 0
  goix : BitVec 16 := 0
  pc : BitVec 14 := 0
  strm : Stream := .s
  race : BitVec 128 := 0
  /-- Master cycle at which the record was made (R320: raised at a T word whose ec begins later). -/
  at_ : Nat := 0
  /-- A fault of a word met at its due slot, or a report of a store or a beat; otherwise an in-flight record of R320. -/
  deferred : Bool := false
  /-- Met in a drain: a deferred record of R434, raised at the first ec after a resume. -/
  drain : Bool := false
  /-- Issue ec of the word (R392), and what a resume executes again (R395). -/
  seq : Nat := 0
  redo : Option Redo := none
  deriving DecidableEq, Repr, Inhabited

/-! ## Tags, checker, memory of a core -/

/-- Tag, pending bit and outstanding count of a 4 KiB granule or an operand slot (R67). -/
structure TagState where
  tag : BitVec 16 := 0
  pending : Bool := false
  count : Nat := 0
  /-- The tag of the commands that have completed since the pending bit was last set (R68). -/
  seen : Option (BitVec 16) := none
  /-- Commands that have completed on it, and the last of them: issuing rank, interval, whether an LHAND (R327). -/
  done : Nat := 0
  src : Option (Nat × Nat × Bool) := none
  deriving DecidableEq, Repr, Inhabited

/-- A shadow entry (R324), field by field. -/
structure Shadow where
  wk : BitVec 2 := 0
  wrk : BitVec 6 := 0
  wst : BitVec 2 := 0
  wgang : BitVec 8 := 0
  wcl : BitVec 3 := 0
  wiv : BitVec 24 := 0
  rk : BitVec 2 := 0
  rrk : BitVec 6 := 0
  rst : BitVec 2 := 0
  rgang : BitVec 8 := 0
  rcl : BitVec 3 := 0
  riv : BitVec 24 := 0
  mr : Bool := false
  wamo : Bool := false
  wrel : Bool := false
  wjob : BitVec 16 := 0
  rjob : BitVec 16 := 0
  /-- VG at the access, which stands as its interval before an accessor of another gang (R325; log entry 21). -/
  wvg : Nat := 0
  rvg : Nat := 0
  /-- By an agent that has no job, so that it stands before the accessors of every job (R325; log entry 21). -/
  wany : Bool := false
  rany : Bool := false
  deriving DecidableEq, Repr, Inhabited

/-- A release record of a cluster (R326). -/
structure RelRec where
  unit : Nat
  rank : Nat
  gang : Nat
  snap : Snap
  deriving DecidableEq, Repr, Inhabited

/-- A gang core (R20): one rank. -/
structure Core where
  seq : Seq := {}
  vec : VUnit := {}
  mat : MUnit := {}
  tset : TSet := {}
  vw : BitVec 32 := 0
  flg : BitVec 5 := 0
  /-- GM0-GM3: the group id, where valid (R54). -/
  gm : Vector (Option (BitVec 8)) 4 := Vector.replicate 4 none
  lens : Vector Word 8 := Vector.replicate 8 0
  scr : Memory := []
  gran : Vector TagState 512 := Vector.replicate 512 {}
  /-- Poisoned 64-byte granules of the scratchpad (R402, R404). -/
  poison : List Nat := []
  /-- Doublewords of the scratchpad whose error cannot be corrected (R404). -/
  worn : List Nat := []
  shadow : Tab Shadow := []
  icnt : Nat := 1
  seen : List Nat := []
  dg : Nat := 0
  unk : BitVec 48 := 0
  /-- Arrival records: job-relative barrier to AG; no entry is AV = 0 (R285). -/
  arr : Tab (BitVec 16) := []
  /-- KV table headers captured (R275). -/
  kv : Tab (List Byte) := []
  tlbS : List TlbEntry := []
  tlbT : List TlbEntry := []
  held : List HeldFault := []
  /-- TCOL words issued on each group or ring (R312). -/
  tcols : Tab Nat := []
  deriving DecidableEq, Repr, Inhabited

/-! ## Quads and gangs -/

/-- An operand slot (R14, R205). `readEnd` and `fillEnd` are the first ec after the array commands reading it and the
MFIL filling it. -/
structure Slot where
  data : SlotData := Vector.replicate 32 0
  claimed : Bool := false
  tag : TagState := {}
  readEnd : Nat := 0
  fillEnd : Nat := 0
  deriving DecidableEq, Repr, Inhabited

/-- What the SRAM of a core holds while no gang has it: scratchpad, tiles, rung store, and the errors in it (log entry 1). -/
structure CoreSram where
  scr : Memory := []
  tile : Vector Tile 8 := Vector.replicate 8 (Vector.replicate 64 0)
  rung : Vector Tile 12 := Vector.replicate 12 (Vector.replicate 64 0)
  poison : List Nat := []
  worn : List Nat := []
  deriving DecidableEq, Repr, Inhabited

/-- A quad of a gang: operand memory, rotation pointer (R203) and the end of the array's occupancy (R200). -/
structure Quad where
  slot : Vector Slot 256 := Vector.replicate 256 {}
  rp : BitVec 2 := 0
  arrayEnd : Nat := 0
  deriving DecidableEq, Repr, Inhabited

/-- Why a gang is frozen (R63, R371, R400, R406). -/
inductive CauseKind where
  /-- A reply or a beat missing at its due ec. -/
  | reply (id : Nat)
  | beat (rank : Nat)
  /-- A wait on a barrier (index in the virtual device's table) until a generation has passed, with its scope and the
  rank's job-relative barrier (R290). -/
  | barrier (bar : Nat) (gen : BitVec 16) (sco : BitVec 3)
  | firstRead
  /-- The pending operand slots of a quad that an array command reads (R69, R198). -/
  | slots (quad : Nat) (l : List Nat)
  /-- A lease freeze: 8 mc, ended by LEASE_TAKEOVER (R204). -/
  | lease (quad pos : Nat) (cnt : BitVec 5)
  | version (tile : BitVec 3)
  | rdv (grp : Nat)
  | yieldHold
  | queueFull
  /-- A TLBI of an address, 0 for every translation (R371). -/
  | tlbi (a : Word)
  /-- The service of a page fault (R370): its number among the walker fault records, address and access. -/
  | pageFault (id : Nat) (va : Word) (write : Bool)
  | checkpoint
  | kernelHold
  deriving DecidableEq, Repr, Inhabited

/-- A cause of a freeze, the word it belongs to and the master cycle it began in (R66). -/
structure Cause where
  kind : CauseKind
  rank : Nat
  strm : Stream
  pc : BitVec 14
  seq : Nat
  began : Nat
  deriving DecidableEq, Repr, Inhabited

/-- A fault met by a word or at an ec, before it is decided which one is reported (R392). -/
structure Exc where
  cause : BitVec 8
  addr : Word := 0
  code : BitVec 12 := 0
  race : BitVec 128 := 0
  /-- A TRAP, whose recorded PC is the word after it (R397), and a HALT, which stops the job's other gangs (R399). -/
  trap : Bool := false
  halt : Bool := false
  /-- Met at an address that has been translated, or walked (R367). -/
  walked : Bool := false
  deriving DecidableEq, Repr, Inhabited

/-- The fault report (R393). -/
structure Report where
  race : BitVec 128 := 0
  addr : Word := 0
  resume : BitVec 32 := 0
  goix : BitVec 16 := 0
  code : BitVec 16 := 0
  pc : BitVec 14 := 0
  strm : BitVec 2 := 0
  rank : BitVec 6 := 0
  gang : BitVec 8 := 0
  kind : BitVec 2 := 0
  cause : BitVec 8 := 0
  time : BitVec 64 := 0
  /-- The stop is that of a HALT, which no field of the report tells from TRAP 0xFFF (R397, R399). -/
  halt : Bool := false
  deriving DecidableEq, Repr, Inhabited

/-- What follows the drain of a gang (R76, R391, R400). -/
inductive After where
  | stop | save | check | checkThenSave
  deriving DecidableEq, Repr, Inhabited

/-- Where a gang stands. -/
inductive RunState where
  /-- Bound, not yet loaded (R110). -/
  | bound
  /-- Loaded, waiting for the start cycle (R53). -/
  | loaded
  | running
  /-- Stopped; waits for the kernel (R391, R394). -/
  | stopped
  /-- Issues nothing; its work in flight is delivered (R76, R391). -/
  | draining (next : After)
  /-- Drained at a yield point that took a request; waits to be saved (R76). -/
  | yielded
  /-- Every stream has ended. -/
  | ended
  deriving DecidableEq, Repr, Inhabited

/-- A bound gang (R108): its bind record and everything held per gang. -/
structure Gang where
  job : Nat
  idx : BitVec 8
  vd : Nat
  die : Nat
  cluster : Nat
  quadMask : BitVec 12
  /-- Its record in the die's slot table (R108), and the save area. -/
  slot : Nat := 0
  save : BitVec 64
  req : BitVec 4 := 15
  resume : Bool := false
  /-- Its job ends and it will not go on (R295, R394). -/
  killed : Bool := false
  run : RunState := .bound
  cyc : Nat := 0
  frz : Nat := 0
  /-- e + 1 for the last yield point e (R75). -/
  mark : Nat := 0
  preempt : Option Nat := none
  pck : Option Word := none
  start : Nat := 0
  causes : List Cause := []
  /-- Master cycles the watchdog has counted of the current freeze (R66), and the master cycle the freeze began in. -/
  frozen : Nat := 0
  frozenAt : Option Nat := none
  report : Option Report := none
  /-- The reported accesses of its stop, each with its rank, which a resume in place executes again (R395). -/
  redo : List (Nat × Redo) := []
  /-- It has issued a PHASE since it was bound (R78). -/
  phased : Bool := false
  /-- Pieces of 512 bytes that the context-save engine has written of its image, while it writes it (R403). -/
  wrote : Option Nat := none
  /-- A remote HALT stops the gang from this master cycle on (R399). -/
  haltAt : Option Nat := none
  pv : Snap := {}
  quads : List Quad := []
  cores : List Core := []
  deriving DecidableEq, Repr, Inhabited

/-! ## Loupe contexts -/

/-- Where a Loupe context stands. -/
inductive LoupeRun where
  | free
  | loaded
  | running
  | waiting (bar : Nat) (gen : BitVec 16) (sco : BitVec 3)
  /-- Its word waits for the service of a page fault (R370). -/
  | service (id : Nat)
  /-- It waits for the end of its TLBI (R371). -/
  | tlbi (a : Word)
  | stopped
  | ended
  | skipped
  deriving DecidableEq, Repr, Inhabited

/-- A context of a Loupe core (R333). -/
structure LoupeCtx where
  vd : Nat
  job : Option Nat := none
  seq : Seq := {}
  mem : Memory := []
  run : LoupeRun := .free
  arr : Tab (BitVec 16) := []
  exit : BitVec 16 := 0
  report : Option Report := none
  /-- GM0-GM3 (R54). -/
  gm : Vector (Option (BitVec 8)) 4 := Vector.replicate 4 none
  tlb : List TlbEntry := []
  nextSeq : Nat := 0
  deriving DecidableEq, Repr, Inhabited

/-! ## Places and releases (R264, R270) -/

/-- A release: one whose value stands at a place, one that an agent's loads have read since it last acquired, or one that
joined a phase of a barrier, which lies in no space and stands as place 0 of device memory, where every scope is admitted
(R268, R270, R274, R297). -/
structure RelVal where
  who : Who
  sco : Nat
  loc : Loc := .dev 0
  size : Nat := 0
  reader : Option Who := none
  deriving DecidableEq, Repr, Inhabited

/-! ## Barriers and joins -/

/-- What a phase of a barrier gathers: its vector, whether a Loupe member or its engine took part, the gangs that did, and
its releases (R274, R326, R327). -/
structure Phase where
  pv : Snap := {}
  loupe : Bool := false
  who : List Nat := []
  rels : List RelVal := []
  deriving DecidableEq, Repr, Inhabited

/-- A barrier entry (R284) with its two phases (R326). -/
structure Barrier where
  pend : Nat := 0
  hpend : Nat := 0
  gen : BitVec 16 := 0
  exp : Nat := 0
  arr : Nat := 0
  harr : Nat := 0
  live : Nat := 0
  group : BitVec 8 := 0
  brk : Bool := false
  orph : Bool := false
  act : Bool := false
  decl : Bool := false
  /-- The current phase, and the horizon. -/
  now : Phase := {}
  next : Phase := {}
  /-- The last phases completed, with their generation (R274, R327). -/
  past : List (BitVec 16 × Phase) := []
  /-- Something reached the entry in this master cycle: completion is tested at its end (R294). -/
  dirty : Bool := false
  deriving DecidableEq, Repr, Inhabited

/-- An open join (R55): the streams that have arrived. -/
structure Join where
  fin : Bool
  arrived : List (Nat × Nat × Stream)
  pv : Snap := {}
  /-- Master cycle of the last arrival, once it is recorded (R56). -/
  closedAt : Option Nat := none
  deriving DecidableEq, Repr, Inhabited

/-- What the closing of a join does to the cores of one gang: its group and form, its phase vector, whether its members lie in
several gangs, and the gang's member ranks (R56, R57, R327). -/
structure Closing where
  grp : Nat
  fin : Bool
  pv : Snap := {}
  wide : Bool := false
  ranks : List Nat := []
  deriving DecidableEq, Repr, Inhabited

/-- A rank of a gang that is off its cores: its streams S, V, M, T and its arrival records (R55, R285). -/
structure AwayRank where
  strm : Vector StreamState 4 := Vector.replicate 4 .unused
  arr : Tab (BitVec 16) := []
  deriving DecidableEq, Repr, Inhabited

/-- A saved gang as joins and barriers see it: its members are members still, and what joins close meanwhile it meets when it is
loaded (R55, R285, R394). -/
structure Away where
  idx : BitVec 8
  ranks : List AwayRank := []
  /-- Fault records that its cores hold (R407). -/
  faults : Nat := 0
  missed : List Closing := []
  deriving DecidableEq, Repr, Inhabited

/-! ## Jobs -/

/-- The job header's fields (R111). -/
structure Header where
  codep : Word := 0
  datap : Word := 0
  grpp : Word := 0
  lensp : Word := 0
  /-- Code sizes of S, V, M, T in words. -/
  csz : Vector Nat 4 := Vector.replicate 4 0
  ysp : Nat := 0
  ngrp : Nat := 0
  nbar : Nat := 0
  nosl : Nat := 0
  ldep : Nat := 0
  nvrg : Nat := 0
  nsrg : Nat := 0
  scrg : Nat := 0
  ngang : Nat := 1
  gsize : Nat := 1
  priv : Bool := false
  deriving DecidableEq, Repr, Inhabited

/-- A group: the ranks of each gang and the Loupe cores in it (R54, R432). -/
structure Group where
  cores : List (Nat × BitVec 48) := []
  loupes : BitVec 16 := 0
  deriving DecidableEq, Repr, Inhabited

/-- The images captured at acceptance (R111, R432). -/
structure Images where
  code : Vector (List Code) 4 := Vector.replicate 4 []
  guards : List (BitVec 4) := []
  data : List (Word × List Byte) := []
  groups : Tab Group := []
  /-- The Loupe cores that the group table names, in whatever entry (R335). -/
  loupes : BitVec 16 := 0
  lens : Vector Word 8 := Vector.replicate 8 0
  args : List Byte := []
  deriving DecidableEq, Repr, Inhabited

/-- Which queue a command came on, and its entry (R387); a launch of a job or of the kernel has none. -/
structure CmdRef where
  queue : CmdQueue
  slot : Nat
  deriving DecidableEq, Repr, Inhabited

/-- Where a launch stands. -/
inductive JobState where
  | queued | bound | running | stopped | saved | ended
  deriving DecidableEq, Repr, Inhabited

/-- The first nonzero exit code, with the order of R93. -/
structure ExitRec where
  ec : Nat
  strm : Nat
  rank : Nat
  gang : Nat
  code : BitVec 16
  deriving DecidableEq, Repr, Inhabited

/-- A launch accepted (R102-R107). -/
structure Job where
  vd : Nat
  num : BitVec 16
  hdr : Header := {}
  img : Images := {}
  compl : Word := 0
  prio : Nat := 0
  graph : BitVec 32 := 0
  gver : BitVec 16 := 0
  conc : Bool := false
  accepted : Nat := 0
  ref : Option CmdRef := none
  /-- Records of one launch of a graph have one number; a later launch has a greater one (R113). -/
  launch : Nat := 0
  /-- Where the captured header and images, and the arguments, were put (R108; log entry 76). -/
  hdrc : Word := 0
  argc : Word := 0
  st : JobState := .queued
  /-- CLASS, CAUSE and CODE of a job that ends once its gangs have stopped (R394). -/
  ending : Option (Nat × Nat × Nat) := none
  effPrio : Nat := 0
  boundAt : Nat := 0
  grpBase : Nat := 0
  barBase : Nat := 0
  /-- Numbers of the gangs bound for it, in gang index order. -/
  gangs : List Nat := []
  loupes : List (Nat × Nat) := []
  /-- The dies it was first bound on (R336). -/
  dies : List Nat := []
  exit : Option ExitRec := none
  /-- The save areas of its saved gangs, by gang number (R402). -/
  saved : Tab Nat := []
  /-- Saved gangs that wait for the kernel, those it lets go on while others of the job are bound, and the cause the last of
  them was reported with (R394). -/
  kept : List Nat := []
  back : List Nat := []
  why : Option (BitVec 8) := none
  /-- Requests that stand against saved gangs, with their master cycle (R74). -/
  asked : Tab Nat := []
  deriving DecidableEq, Repr, Inhabited

/-! ## Virtual devices -/

/-- A counted 2 MiB region (R373). -/
structure Region where
  count : Nat := 0
  pending : Bool := false
  deferred : Bool := false
  tier : BitVec 2 := 0
  deriving DecidableEq, Repr, Inhabited

/-- States of a virtual device (R376). -/
inductive VdState where
  | active | collapsing | dormant | waking
  deriving DecidableEq, Repr, Inhabited

/-- What is held at the entry of a virtual device that sleeps: an access from outside, the capture of a launch record, with
the images to resume, or the completion of a launch (R104, R380, R400). -/
inductive Held where
  | access (a : OutsideAccess)
  | launch (ptr : Word) (kernel : Bool) (ref : Option CmdRef) (areas : List Nat)
  | finish (compl : Word) (ref : Option CmdRef) (w : Word)
  deriving DecidableEq, Repr, Inhabited

/-- A virtual device (R357). -/
structure VDev where
  /-- Owned clusters (die, cluster), stacked regions (die, region), second-tier spans, Loupe contexts (die, Loupe core,
  context). -/
  clusters : List (Nat × Nat) := []
  regions : List (Nat × Nat) := []
  spans : List Nat := []
  loupes : List (Nat × Nat × Nat) := []
  groups : Tab Group := []
  bars : Tab Barrier := []
  joins : Tab Join := []
  launches : List Nat := []
  xbase : Vector Word 8 := Vector.replicate 8 0
  xroot : Vector Word 8 := Vector.replicate 8 0
  wdog : BitVec 5 := 21
  nqbase : Word := 0
  nqhead : BitVec 8 := 0
  nqtail : BitVec 8 := 0
  nthr : BitVec 16 := 0xFFFF
  regionCtr : Tab Region := []
  /-- Table entries that walks have captured, by device address, and translations that walks of host tables have
  delivered: in force until a TLBI (R367). -/
  entries : Tab Word := []
  hostPages : Tab (Option TlbEntry) := []
  barsel : Word := 0
  shsel : Word := 0
  /-- Shadow entries of RCHK pages, by physical unit (R324). -/
  glbShadow : Tab Shadow := []
  vg : Nat := 0
  events : List (List Byte) := []
  lost : BitVec 32 := 0
  graphs : Tab (Nat × List Word) := []
  st : VdState := .active
  wake : Nat := 3
  idleMs : Nat := 0
  idleSince : Nat := 0
  wperm : BitVec 17 := 0
  heldAcc : List Held := []
  /-- Step of the collapse under way (R378), or of the wake: 1 until its clusters are powered, 2 while they ramp (R381); and the
  acceptance of a wake that waits for the end of a collapse's step (R382). -/
  step : Nat := 1
  wakeAt : Option Nat := none
  /-- The VD-DESTROY that tears it down, while its gangs stop (R114). -/
  closing : Option CmdRef := none
  qbase : Nat := 0
  qsize : Nat := 0
  qhead : Nat := 0
  qtail : Nat := 0
  nextJob : BitVec 16 := 0
  /-- The VD-CREATE arguments, for ATTEST (R385). -/
  args : List Byte := []
  /-- The save areas, and the wake image area of each cluster: its address (R357, R377). -/
  saveAreas : List Nat := []
  wakeAreas : List Nat := []
  /-- Exported peer windows: device and bytes; peer rings configured (R312, R358). -/
  windows : List (Nat × Nat) := []
  /-- A ring: its id, its size, and the position of this device in it. -/
  rings : List (Nat × Nat × Nat) := []
  deriving DecidableEq, Repr, Inhabited

/-! ## Dies -/

/-- Power pacing of a cluster (R115-R120). -/
structure Cluster where
  /-- The pattern entries in force in this frame, and as last written (R115). -/
  pat : Vector (BitVec 16) 16
  patNew : Vector (BitVec 16) 16
  cap : BitVec 4 := 15
  /-- A cap recorded and not yet applied, with the master cycle of the die it was recorded in. -/
  capNew : Option (BitVec 4 × Nat) := none
  /-- A cap recorded while the cluster was gated: it waits for the first PHASE after the wake (R382). -/
  capHeld : Option (BitVec 4) := none
  /-- The pattern computed at the last recomputation point, and the one the current frame runs. -/
  applied : BitVec 4 := 15
  cur : BitVec 4 := 15
  /-- First frame of each ramp running. -/
  ramps : List Nat := []
  pulses : Nat := 0
  /-- The ballast line: frame of the loss and the level before it, and the level that ballast supplies in this frame
  (R118). -/
  ballast : Option (Nat × Nat) := none
  fill : Nat := 0
  /-- Release records, oldest first, at most 64 (R326). -/
  recs : List RelRec := []
  powered : Bool := true
  /-- Memories of the cores and quads that no gang holds, by core 4q + j and by quad (R110, R378), and the corrected errors
  counted at each core (R404). -/
  sram : Tab CoreSram := []
  quads : Tab Quad := []
  ecc : Tab Nat := []
  deriving DecidableEq, Repr

/-- A Loupe core: its contexts, the one it serves and the end of its slice (R333, R334). -/
structure LoupeCore where
  ctxs : List LoupeCtx := []
  cur : Nat := 0
  sliceEnd : Nat := 0
  deriving DecidableEq, Repr, Inhabited

/-- A bind record (R108). -/
structure BindRec where
  hdrc : BitVec 64 := 0
  save : BitVec 64 := 0
  argc : BitVec 64 := 0
  job : BitVec 16 := 0
  gang : BitVec 8 := 0
  vd : BitVec 4 := 0
  clu : BitVec 2 := 0
  size : BitVec 6 := 0
  quads : BitVec 12 := 0
  req : BitVec 4 := 0
  resume : Bool := false
  valid : Bool := false
  deriving DecidableEq, Repr, Inhabited

/-- A compute die: clusters and Loupe cores (R12), its slot table (R108) and the routine stores of its walker engines,
none before a boot has loaded them (R367). -/
structure Die where
  clusters : Vector Cluster 4
  loupes : Vector LoupeCore 16 := Vector.replicate 16 {}
  slots : Vector BindRec 64 := Vector.replicate 64 {}
  walkers : Vector (Option (List Byte)) 8 := Vector.replicate 8 none
  /-- The master clock as a ratio of the reference rate (R116). -/
  clkNum : Nat := 1
  clkDen : Nat := 1
  /-- TIME and the master cycles of the die at the last change of its clock (R116). -/
  clkTime : Nat := 0
  clkCyc : Nat := 0
  deriving DecidableEq, Repr

/-! ## The ordering machine (R261-R274) -/

/-- Where a release shows: bytes it wrote, or every later store of its agent, after a release fence (R269, R270). -/
inductive RelAt where
  | bytes (loc : Loc) (size : Nat)
  | fence
  deriving DecidableEq, Repr, Inhabited

/-- A release that did not wait: its class, and the older stores still queued, which an observer within its scope finds
committed (R270; log entry 9). -/
structure EarlyRel where
  who : Who
  sco : Nat
  cls : BitVec 3
  place : RelAt
  deps : List Nat
  /-- The agents whose loads have read the bytes since. -/
  readers : List Who := []
  deriving DecidableEq, Repr, Inhabited

/-- A memory reply on its way (R60). -/
structure Reply where
  who : Who
  /-- Parts not yet performed. -/
  missing : Nat
  buf : List (Nat × Byte) := []
  arrived : Bool := false
  fault : Option (BitVec 8 × Word × BitVec 128) := none
  /-- A page fault whose service has not ended (R370). -/
  page : Option Word := none
  /-- The parts of it that the race checker has reported (R395). -/
  again : List QEntry := []
  deriving DecidableEq, Repr, Inhabited

/-- A copy in a view buffer: agent, granule (physical address ÷ 64), bytes (R261, R265). -/
structure Copy where
  who : Who
  gran : Nat
  /-- The address it was read under, a multiple of 64 (R372). -/
  va : Nat := 0
  data : List Byte
  deriving DecidableEq, Repr, Inhabited

/-! ## Commands of T streams and Loupe cores -/

/-- Who launched a command: a T stream's rank, or a Loupe context. -/
inductive Owner where
  | t (gang rank : Nat)
  | l (die idx ctx : Nat)
  deriving DecidableEq, Repr, Inhabited

/-- The commands (R307, R338). -/
inductive CmdOp where
  | tcpy | tlvl | tenc | tpak | tunp
  | tcol (grp : BitVec 8) (op : BitVec 2)
  | tkvf (hdr : Word) (range : Word) (pk : BitVec 3)
  | tfil (v : Word)
  | tops (slot : BitVec 8)
  | tdrp (hdr : Word) (range : Word) (drop : Bool)
  | lhash (desc key : Word) | lgath (desc : Word) | lpool (desc offs : Word) | lscat (desc src : Word)
  | lhand (src dst ctl : Word)
  deriving DecidableEq, Repr, Inhabited

/-- A target of a tagged command: a tag granule of a rank's scratchpad, or an operand slot (R68). -/
inductive Target where
  | gran (gang rank g : Nat)
  | slot (gang quad n : Nat)
  deriving DecidableEq, Repr, Inhabited

/-- A command from launch to completion (R305, R338). Commands of one owner stand in issue order in the table. -/
structure Cmd where
  owner : Owner
  /-- Its key in the table. -/
  id : Nat := 0
  op : CmdOp
  set : TSet := {}
  vd : Nat
  job : Nat
  /-- Word index of the GO word (R320), or PC of the LOUPE word. -/
  goix : BitVec 14 := 0
  targets : List Target := []
  tag : BitVec 16 := 0
  rel : BitVec 3 := 7
  acq : BitVec 3 := 7
  /-- Counted bytes (R306). -/
  bytes : Nat := 0
  /-- Barrier index in the virtual device's table and the generation it is bound to (R292). -/
  bar : Option (Nat × BitVec 16) := none
  started : Bool := false
  /-- Pulse from which its data may move, and pulse before which it does not complete (R305). -/
  moves : Nat := 0
  bound : Nat := 0
  /-- The page that gives its L has had no mapping so far (R305). -/
  late : Bool := false
  /-- Source and destination in the own scratchpad: it completes at the bound on an idle unit (R305). -/
  exact : Bool := false
  /-- Units in all, and the resume offset: the first unit not yet written (R319). -/
  units : Nat := 0
  pos : Nat := 0
  /-- Halted by a page fault at an address, on a write or a read (R319). -/
  halted : Option (Word × Bool) := none
  /-- Bytes that the first read takes of the own scratchpad, as its bank stood after the GO word's ec, at their offsets
  (R272). -/
  own : List (Nat × List Byte) := []
  /-- An in-flight fault met: cause, address, race record (R320). -/
  err : Option (BitVec 8 × Word × BitVec 128) := none
  snap : Snap := {}
  icnt : Nat := 0
  /-- The ec its GO word issued in (R272). -/
  ec : Nat := 0
  /-- Number of this TCOL among those its core issued on its group (R312). -/
  nth : Nat := 0
  /-- A KV header or a Loupe descriptor as captured (R275, R340). -/
  desc : List Byte := []
  /-- Bytes of the next piece that the last pulse had room for (R305; log entry 73). -/
  carry : Nat := 0
  /-- Working data: the source read, decisions, indices. -/
  acc : List Nat := []
  data : List Byte := []
  /-- Whether `data` is there, for a TCOL whose members read before any writes (R312). -/
  read : Bool := false
  /-- Writes made ready and not yet done, at offsets of the destination, and the bytes of a unit among them. -/
  segs : List (Nat × List Byte) := []
  outUnit : Nat := 1
  /-- Destination register and result of a LOUPE command (R338). -/
  dreg : Nat := 0
  result : Word := 0
  deriving DecidableEq, Repr, Inhabited

/-! ## Package -/

/-- A clock an event waits on: master cycles, pulses of a cluster, ec of a gang. -/
inductive Clock where
  | mc
  | pulse (die cluster : Nat)
  | ec (gang : Nat)
  deriving DecidableEq, Repr, Inhabited

/-- An event that becomes due. -/
structure Due where
  clk : Clock
  at_ : Nat
  ev : Instr
  deriving DecidableEq, Repr

/-- What the management core holds for the kernel until it acknowledges (R370, R393, R407). -/
inductive Notice where
  | stop (gang : Nat)
  | loupeStop (die idx ctx : Nat)
  /-- Walker fault record: its number, VA, access kind, virtual device, agent (R370). -/
  | page (id : Nat) (va : Word) (write : Bool) (vd : Nat) (who : Who) (goix : BitVec 14)
  | bindRefused (job : Nat)
  deriving DecidableEq, Repr, Inhabited

/-- The mirror region (R408): the die and the offset of its primary copy, and its size. The mirror copy stands at the same
offset of die (die + 2) mod 4. -/
structure Mirror where
  die : Nat
  base : Nat
  size : Nat
  deriving DecidableEq, Repr, Inhabited

/-- The management core, the kernel's registers and the logs (R102-R120, R376-R389, R405-R418). -/
structure Mgmt where
  booted : Bool := false
  self : BitVec 64 := 0
  floor : BitVec 16 := 600
  budget : Nat := 600
  capSeq : Option (BitVec 32) := none
  leaseEnd : Option Nat := none
  khbt : Nat := 50
  khbAt : Nat := 0
  hold : Bool := false
  /-- The kernel was started with its WARM flag set (R407). -/
  warm : Bool := false
  warmAt : Nat := 0
  warmFails : Nat := 0
  dead : Bool := false
  notices : List Notice := []
  arrayLog : List (BitVec 128) := []
  arrayLost : BitVec 32 := 0
  linkLog : List (BitVec 128) := []
  linkLost : BitVec 32 := 0
  ignoredWakes : List Nat := []
  /-- Held accesses that a teardown has dropped, reported as errors on the host link (R382). -/
  hostErrors : List OutsideAccess := []
  /-- A cap message recorded in the safe talkative state: sequence number, watts and the end of its lease (R417). -/
  capHeld : Option (BitVec 32 × Nat × Nat) := none
  /-- Lane swaps: die, layer, channel, lane, spare (R412). -/
  swaps : List (Nat × Nat × Nat × Nat × Nat) := []
  /-- Where the configuration image places the mirror region (R408), and its 64 KiB pages remapped to spares (R409). -/
  mirror : Option Mirror := none
  remaps : List (Nat × Nat) := []
  /-- Corrections at each codeword since reset (R413). -/
  corrected : Tab Nat := []
  fuses : Vector Nat 3 := Vector.replicate 3 0
  /-- Flash banks of the three image kinds, and the active one. -/
  flash : Vector (List Byte × List Byte) 3
  active : Vector Bool 3 := Vector.replicate 3 false
  /-- The bank that is active from the next reset on (R386). -/
  nextBank : Vector Bool 3 := Vector.replicate 3 false
  /-- The images held since reset. -/
  images : Vector (Option (List Byte)) 3 := Vector.replicate 3 none
  selfTests : Nat := 0
  /-- Physical function's queue. -/
  qbase : Nat := 0
  qsize : Nat := 0
  qhead : Nat := 0
  qtail : Nat := 0
  mctpIn : List (BitVec 8 × List Byte) := []
  mctpOut : List (List Byte) := []
  deriving DecidableEq, Repr

/-- An error that arises in a memory of the silicon. -/
inductive Strike where
  /-- A symbol of a codeword of DRAM is bad; the controller corrects it (R411). -/
  | symbol (pa sym : Nat)
  /-- Two symbols of a codeword of DRAM are bad; no read of it can be corrected until it is written (R411). -/
  | codeword (pa : Nat)
  /-- A bit of a core's memories or registers is bad; it is corrected (R404). -/
  | bit (gang rank : Nat)
  /-- A doubleword of a scratchpad cannot be corrected (R404). -/
  | scratch (gang rank n : Nat)
  /-- What the next word of a stream reads of operand memory, tiles, rung store or registers cannot be corrected (R404). -/
  | read (a : Agent)
  deriving DecidableEq, Repr, Inhabited

/-- The cores of the I/O die that run the resident kernel, with the lines that their shared cache of 64 MiB holds, whose bytes are those of
memory; the monitor pair,
with the lines whose repair has trapped to it; the peer link ports, each with what has been sent through it: device, offset in
its window, bytes; and what the last read from outside returned (R1, R29, R325, R407, R409; log entries 15, 27). -/
structure IoDie where
  cores : Vector Bool 16 := Vector.replicate 16 false
  cache : List Nat := []
  monitor : List Nat := []
  /-- Lines of the mirror region both of whose copies are bad (R409). -/
  lost : List Nat := []
  ports : Vector (List (Nat × Nat × List (Nat × Byte))) 16 := Vector.replicate 16 []
  answer : List Byte := []
  /-- The error that the last read ended with, 0 none (R411). -/
  answerErr : BitVec 8 := 0
  deriving DecidableEq, Repr, Inhabited

/-- The whole package (R12), the outside it touches, and the model's own bookkeeping of time. -/
structure Mach where
  time : Nat := 0
  dies : Vector Die 4
  vds : Tab VDev := []
  jobs : Tab Job := []
  gangs : Tab Gang := []
  /-- Saved gangs, until they are loaded again. -/
  away : Tab Away := []
  /-- Device physical memory and host memory. -/
  dev : Memory := []
  host : Memory := []
  mgmt : Mgmt
  queue : Tab QEntry := []
  replies : Tab Reply := []
  copies : List Copy := []
  /-- Releases that did not wait; releases whose value stands; those that loads have read; release fences performed, each
  with its widest scope (R270). -/
  early : List EarlyRel := []
  released : List RelVal := []
  heard : List RelVal := []
  fenced : List (Who × Nat) := []
  cmds : Tab Cmd := []
  agenda : List Due := []
  /-- Command queues the management core reads next, each at a master cycle (R387). -/
  polls : List (Nat × CmdQueue) := []
  /-- What the outside world does next, each at a master cycle (log entry 6). -/
  inputs : List (Nat × Instr) := []
  /-- Errors that arise in the silicon, each at a master cycle, and the streams whose next word meets one (R404, R411; log
  entry 17). -/
  strikes : List (Nat × Strike) := []
  hits : List Agent := []
  /-- Gangs and Loupe cores still to be served in this master cycle (log entry 6). -/
  todo : List Nat := []
  ltodo : List (Nat × Nat) := []
  /-- Codewords of DRAM that cannot be corrected, by address ÷ 64 (R411). -/
  faulty : List Nat := []
  /-- Channels whose transfers are retried or whose lanes are tested, each until a master cycle (R412). -/
  links : List (LinkFault × Nat) := []
  /-- The failed channel, while it is decided whose access it ends; else none (R412). -/
  bad : Option LinkFault := none
  io : IoDie := {}
  /-- The granules of counted pages that the commands under way have touched (R373). -/
  touched : List (Nat × Nat) := []
  /-- Number of the next free value, and of the next entry of a table. -/
  freeCtr : Nat := 0
  nextId : Nat := 0
  deriving DecidableEq, Repr

/-- A fault a word met in the ec being issued (R391). -/
structure WordFault where
  agent : Agent
  pc : BitVec 14
  seq : Nat
  exc : Exc
  deriving DecidableEq, Repr, Inhabited

/-- What is done for an access at the end of the ec it was issued in: it reaches the bank; it enters its queue; or a load of
the bank, whose bytes it has, is checked, into its reply or into the result of a V word over units of 64 bytes of a rank, or an M word's LCB
(R271, R329). -/
inductive BankAct where
  | reach
  | queue
  | check (reply : Nat)
  | row (rank : Nat) (units : List Nat)
  /-- A read of an LCB, with the ladder that stands when it is reported, and the snapshot to publish when it is not. -/
  | lcb (old : Option Ladder) (units : List Nat) (snap : Option Snap)
  deriving DecidableEq, Repr, Inhabited

/-- An access to a bank in the ec being issued (R271): stream order, entry. -/
structure BankOp where
  order : Nat
  act : BankAct := .reach
  entry : QEntry
  deriving DecidableEq, Repr, Inhabited

/-- The ec being issued, word by word (log entry 8): the machine before it, the streams still to issue, and what its
words have asked for. -/
structure Issue where
  gang : Nat
  before : Mach
  slots : List Agent
  faults : List WordFault := []
  holds : List Cause := []
  /-- YIELD words, each with its rank, stream and PC. -/
  yields : List (Nat × Stream × BitVec 14) := []
  /-- Streams that used the ec: words, YIELD among them, bubbles and WAITC (R73); and those of them that issued RDV and
  so are exempt. -/
  used : Nat := 0
  exempt : Nat := 0
  bank : List BankOp := []
  /-- LEASE requests: quad, position, count (R204). -/
  leases : List (Nat × Nat × BitVec 5) := []
  /-- View rows and rungs that V words reached: rank, tile (8 for the rungs) and PC; a command of this same ec that
  makes them busy faults the V word (R26, R235). -/
  views : List (Nat × Nat × BitVec 14) := []
  /-- A pattern request, which counts from the end of the ec (R96). -/
  phase : Option (BitVec 4) := none
  /-- T commands issued: rank and command (R272). -/
  gos : List (Nat × Nat) := []
  /-- KV header captures dropped from the next ec on: rank and granule (R372). -/
  dinv : List (Nat × Nat) := []
  deriving DecidableEq, Repr

/-- The state of the model: the package, the ec being issued if one is, and the agent whose word is run. -/
structure State where
  m : Mach
  iss : Option Issue := none
  cur : Agent := .core 0 0 .s
  deriving DecidableEq, Repr

/-- Why a step stops. None of these is reached by a run from `State.reset`; each is safe: the machine stops where the
real one has nothing to do. -/
inductive Fault where
  /-- A word was run for an agent that is not there: raised by every word; `step` issues words of live streams only.
  Safe. -/
  | noAgent
  /-- An event was run in a state in which it does not happen: raised by every event; `step` drops such an event from
  the agenda. Safe. -/
  | notEnabled
  deriving DecidableEq, Repr, Inhabited

/-- Why an instruction has no meaning. -/
inductive Refusal where
  /-- An instruction the model has no meaning for, by name. No meaning answers with it. Safe. -/
  | notModelled (mnemonic : String)
  deriving DecidableEq, Repr, Inhabited

/-- Pattern entry k after reset: slot i passes when ⌊(i+1)(k+1)/16⌋ > ⌊i(k+1)/16⌋ (R115). -/
def patEntry (k : Nat) : BitVec 16 :=
  (List.range 16).foldl (fun b i => if (i + 1) * (k + 1) / 16 > i * (k + 1) / 16 then b ||| (1#16 <<< i) else b) 0

/-- A cluster after reset. -/
def Cluster.reset : Cluster := { pat := Vector.ofFn (fun k => patEntry k.val), patNew := Vector.ofFn (fun k => patEntry k.val) }

/-- A die after reset. -/
def Die.reset : Die := { clusters := Vector.replicate 4 Cluster.reset }

/-- The management core after reset, with the flash the part left manufacture with (log entry 14). -/
def Mgmt.reset : Mgmt :=
  { flash := #v[(Config.flashImage 1 0, Config.flashImage 1 1), (Config.flashImage 2 0, Config.flashImage 2 1),
      (Config.flashImage 3 0, Config.flashImage 3 1)] }

/-- The package after reset: nothing created, nothing bound, and the boot ROM about to run (R383). -/
def Mach.reset : Mach :=
  { dies := Vector.replicate 4 Die.reset, mgmt := Mgmt.reset, agenda := [⟨.mc, 0, .reset⟩] }

/-- The machine right after reset. -/
def State.reset : State := { m := Mach.reset }

end Sys2Proof.Machine
end

