-- ==== Sys2Proof/Machine/Mem.lean ====
section
/-! DEFINITION. Memories and tables as sorted or keyed lists, and little-endian bytes (R3). -/
namespace Sys2Proof.Machine

/-- The byte at an address; an unlisted byte reads 0 (log entry 5). -/
def Memory.get : Memory → Nat → Byte
  | [], _ => 0
  | (k, b) :: r, a => if k = a then b else Memory.get r a

/-- A byte written, the canonical form kept: addresses rising, no zero byte listed. -/
def Memory.set : Memory → Nat → Byte → Memory
  | [], a, b => if b = 0 then [] else [(a, b)]
  | (k, c) :: r, a, b =>
    if a < k then (if b = 0 then (k, c) :: r else (a, b) :: (k, c) :: r)
    else if a = k then (if b = 0 then r else (a, b) :: r)
    else (k, c) :: Memory.set r a b

/-- Every listed address is at least `lo`, rising, and no listed byte is 0. -/
def Memory.wfFrom : Nat → Memory → Bool
  | _, [] => true
  | lo, (k, b) :: r => decide (lo ≤ k) && b != 0 && Memory.wfFrom (k + 1) r

/-- The canonical form of a memory. -/
def Memory.wf (m : Memory) : Bool := Memory.wfFrom 0 m

/-- n bytes from an address. -/
def Memory.read (m : Memory) (a n : Nat) : List Byte := (List.range n).map (fun i => Memory.get m (a + i))

/-- Bytes written from an address on. -/
def Memory.write : Memory → Nat → List Byte → Memory
  | m, _, [] => m
  | m, a, b :: bs => Memory.write (Memory.set m a b) (a + 1) bs

/-- Bytes written at offsets of an address. -/
def Memory.writeAt : Memory → Nat → List (Nat × Byte) → Memory
  | m, _, [] => m
  | m, a, (o, b) :: bs => Memory.writeAt (Memory.set m (a + o) b) a bs

/-- A range of a memory replaced by bytes at offsets in it, those not given 0. -/
def Memory.blit (m : Memory) (a n : Nat) (p : List (Nat × Byte)) : Memory :=
  Memory.writeAt (m.filter (fun c => decide (c.1 < a) || decide (a + n ≤ c.1))) a (p.filter (fun c => c.2 != 0))

/-- The whole 64-byte lines that bytes at offsets of an address cover. -/
def covered (o : Nat) (data : List (Nat × Byte)) : List Nat :=
  (data.map (fun p => (o + p.1) / 64)).eraseDups.filter (fun g =>
    (List.range 64).all (fun i => data.any (fun p => o + p.1 == g * 64 + i)))

/-- The number a byte string holds, low byte first. -/
def leNat : List Byte → Nat
  | [] => 0
  | b :: bs => b.toNat + 256 * leNat bs

/-- The n low bytes of a number, low byte first. -/
def natLE : Nat → Nat → List Byte
  | 0, _ => []
  | n + 1, x => BitVec.ofNat 8 x :: natLE n (x / 256)

/-- Bytes with their offsets from 0. -/
def offs (bs : List Byte) : List (Nat × Byte) := bs.zipIdx.map (fun p => (p.2, p.1))

/-- A row of 256 bytes, byte 0 lowest (R160). -/
def rowOf (bs : List Byte) : Row := BitVec.ofNat 2048 (leNat bs)

/-- The bytes of a row. -/
def rowBytes (r : Row) : List Byte := natLE 256 r.toNat

/-- The entry of a key. -/
def tget {α : Type} : Tab α → Nat → Option α
  | [], _ => none
  | (j, a) :: r, k => if j = k then some a else tget r k

/-- The table with an entry set. -/
def tset {α : Type} : Tab α → Nat → α → Tab α
  | [], k, a => [(k, a)]
  | (j, b) :: r, k, a => if j = k then (k, a) :: r else (j, b) :: tset r k a

/-- The table without a key. -/
def tdel {α : Type} (t : Tab α) (k : Nat) : Tab α := t.filter (fun p => p.1 != k)

/-- An entry changed, if it is there. -/
def tupd {α : Type} (t : Tab α) (k : Nat) (f : α → α) : Tab α :=
  match tget t k with
  | none => t
  | some a => tset t k (f a)

/-- An element of a vector, or a default past its end. -/
def vget {α : Type} {n : Nat} (v : Vector α n) (i : Nat) (d : α) : α := v[i]?.getD d

/-- An element of a vector set; past its end nothing changes. -/
def vset {α : Type} {n : Nat} (v : Vector α n) (i : Nat) (a : α) : Vector α n := v.setIfInBounds i a

/-- An element of a vector changed. -/
def vupd {α : Type} {n : Nat} (v : Vector α n) (i : Nat) (f : α → α) : Vector α n :=
  match v[i]? with
  | none => v
  | some a => v.setIfInBounds i (f a)

/-- A list sorted, equals in the order they stood. -/
def sortBy {α : Type} (lt : α → α → Bool) : List α → List α
  | [] => []
  | a :: r => insertFirst lt a (sortBy lt r)
where
  insertFirst (lt : α → α → Bool) (a : α) : List α → List α
    | [] => [a]
    | b :: r => if lt b a then b :: insertFirst lt a r else a :: b :: r

end Sys2Proof.Machine

namespace Sys2Proof

/-- The number of a stream in the order S, V, M, T (R23); a Loupe stream is its own S. -/
def Stream.idx : Stream → Nat
  | .s | .l => 0
  | .v => 1
  | .m => 2
  | .t => 3

/-- The stream of a number. -/
def streamOf (i : Nat) : Stream := if i = 0 then .s else if i = 1 then .v else if i = 2 then .m else .t

/-- The stream an agent is. -/
def Agent.strm : Agent → Stream
  | .core _ _ st => st
  | .loupe _ _ _ => .l

end Sys2Proof
end

