-- ==== Sys2Proof/Machine/Num.lean ====
section
/-! DEFINITION. Arithmetic of 07_numbers.md: the element formats, one rounding of an exact value, conversions, block
formats and the special functions. Nothing here touches the machine's state. -/
namespace Sys2Proof.Machine

/-- An exact value: NaN, an infinity, or (-1)^neg · man · 2^exp (man = 0 is a signed zero). -/
inductive Val where
  | nan
  | inf (neg : Bool)
  | fin (neg : Bool) (man : Nat) (exp : Int)
  deriving DecidableEq, Repr, Inhabited

/-- Sticky flags NV, DZ, OF, UF, NX from bit 4 down (R131). -/
abbrev Flags := BitVec 5

def flagNV : Flags := 16#5
def flagDZ : Flags := 8#5
def flagOF : Flags := 4#5
def flagUF : Flags := 2#5
def flagNX : Flags := 1#5

/-- A float format: exponent bits, fraction bits, bias, the bits of the largest finite value and of the canonical NaN,
and whether it has infinities (R121). -/
structure Fmt where
  eb : Nat
  fb : Nat
  bias : Nat
  maxBits : Nat
  nanBits : Nat
  hasInf : Bool
  deriving DecidableEq, Repr

def fmtF32 : Fmt := ⟨8, 23, 127, 0x7F7FFFFF, 0x7FC00000, true⟩
def fmtBf16 : Fmt := ⟨8, 7, 127, 0x7F7F, 0x7FC0, true⟩
def fmtF16 : Fmt := ⟨5, 10, 15, 0x7BFF, 0x7E00, true⟩
def fmtE4m3 : Fmt := ⟨4, 3, 7, 0x7E, 0x7F, false⟩

/-- Type codes of R36 that name floats. -/
def fmtOf (ty : Nat) : Option Fmt :=
  match ty with
  | 0 => some fmtF32
  | 1 => some fmtBf16
  | 2 => some fmtF16
  | 3 => some fmtE4m3
  | _ => none

/-- Bits of an element of a dense type (R36). -/
def tyBits (ty : Nat) : Nat :=
  match ty with
  | 0 | 4 | 5 => 32
  | 1 | 2 | 6 | 7 => 16
  | 3 | 8 | 9 => 8
  | 13 => 64
  | _ => 32

/-- Bytes of an element. -/
def tyBytes (ty : Nat) : Nat := tyBits ty / 8

/-- An i type (R36). -/
def tySigned (ty : Nat) : Bool := ty == 4 || ty == 6 || ty == 8 || ty == 13
/-- A float type. -/
def tyFloat (ty : Nat) : Bool := decide (ty < 4)
/-- A dense type 0x0-0x9. -/
def tyDense (ty : Nat) : Bool := decide (ty < 10)
/-- A block type. -/
def tyBlock (ty : Nat) : Bool := ty == 10 || ty == 11 || ty == 12

/-- The value of float bits (R121). -/
def decodeF (f : Fmt) (x : Nat) : Val :=
  let neg := nbits x (f.eb + f.fb) 1 == 1
  let e := nbits x f.fb f.eb
  let m := nbits x 0 f.fb
  if f.hasInf && e == 2 ^ f.eb - 1 then (if m == 0 then .inf neg else .nan)
  else if !f.hasInf && e == 2 ^ f.eb - 1 && m == 2 ^ f.fb - 1 then .nan
  else if e == 0 then .fin neg m (1 - (f.bias : Int) - f.fb)
  else .fin neg (2 ^ f.fb + m) ((e : Int) - f.bias - f.fb)

/-- Sign bit placed over magnitude bits. -/
def withSign (f : Fmt) (neg : Bool) (bits : Nat) : Nat := if neg then 2 ^ (f.eb + f.fb) + bits else bits

/-- Whether a rounding mode rounds a discarded part up, given the kept integer, the discarded part and the half
(R124). -/
def roundUp (rm sig rem half : Nat) : Bool :=
  match rm with
  | 0 => decide (rem > half) || (rem == half && sig % 2 == 1)
  | 1 => decide (rem ≥ half)
  | 2 => false
  | _ => decide (rem > 0) && sig % 2 == 0

/-- man · 2^(-sh) rounded to an integer, and whether that is exact (R124). -/
def roundShift (rm man : Nat) (sh : Int) : Nat × Bool :=
  if sh ≤ 0 then (man * 2 ^ (-sh).toNat, true)
  else
    let s := sh.toNat
    let sig := man / 2 ^ s
    let rem := man % 2 ^ s
    ((if roundUp rm sig rem (2 ^ (s - 1)) then sig + 1 else sig), rem == 0)

/-- An infinite result or operand delivered in a format (R127). With SAT = 1 it is finite, also where R350 speaks of an infinite sum in
a listing that runs so (DEDUCED; log entry 96). -/
def deliverInf (f : Fmt) (sat neg : Bool) : Nat × Flags :=
  if sat then (withSign f neg f.maxBits, flagOF ||| flagNX)
  else if f.hasInf then (withSign f neg ((2 ^ f.eb - 1) * 2 ^ f.fb), 0)
  else (f.nanBits, flagNV)

/-- A finite result too large for a format (R127). -/
def overflow (f : Fmt) (rm : Nat) (sat neg : Bool) : Nat × Flags :=
  (if sat then withSign f neg f.maxBits
   else if !f.hasInf then f.nanBits
   else if rm ≤ 1 then withSign f neg ((2 ^ f.eb - 1) * 2 ^ f.fb)
   else withSign f neg f.maxBits, flagOF ||| flagNX)

/-- `round(x, type, mode)` with overflow settled, and its flags (R124, R127, R131). -/
def roundF (f : Fmt) (rm : Nat) (sat : Bool) (v : Val) : Nat × Flags :=
  match v with
  | .nan => (f.nanBits, 0)
  | .inf neg => deliverInf f sat neg
  | .fin neg man exp =>
    if man = 0 then (withSign f neg 0, 0)
    else
      let e : Int := exp + bitLen man - 1
      let emin : Int := 1 - (f.bias : Int)
      let q : Int := max e emin - f.fb
      let (sig, exact) := roundShift rm man (q - exp)
      let bits := ((q + f.fb + f.bias - 1).toNat) * 2 ^ f.fb + sig
      if bits > f.maxBits then overflow f rm sat neg
      else (withSign f neg bits,
        if exact then 0 else if e < emin then flagUF ||| flagNX else flagNX)

/-- A value that is not exact but lies just above man · 2^exp, for the rounding of irrational and quotient values: one
more bit, set. Exact values pass unchanged. -/
def sticky (neg : Bool) (man : Nat) (exp : Int) (exact : Bool) : Val :=
  if exact then .fin neg man exp else .fin neg (2 * man + 1) (exp - 1)

/-- Sign of a value, of a NaN positive. -/
def Val.neg : Val → Bool
  | .nan => false
  | .inf n => n
  | .fin n _ _ => n

def Val.isNan : Val → Bool
  | .nan => true
  | _ => false

def Val.isZero : Val → Bool
  | .fin _ 0 _ => true
  | _ => false

def Val.isInf : Val → Bool
  | .inf _ => true
  | _ => false

/-- The opposite value. -/
def Val.negate : Val → Val
  | .nan => .nan
  | .inf n => .inf (!n)
  | .fin n m e => .fin (!n) m e

/-- man · 2^exp as a signed integer at a common exponent. -/
def atExp (neg : Bool) (man : Nat) (exp e : Int) : Int :=
  let x : Int := man * 2 ^ (exp - e).toNat
  if neg then -x else x

/-- The exact sum, and whether it is invalid (R122, R169). -/
def addV (a b : Val) : Val × Bool :=
  match a, b with
  | .nan, _ => (.nan, false)
  | _, .nan => (.nan, false)
  | .inf x, .inf y => if x = y then (.inf x, false) else (.nan, true)
  | .inf x, _ => (.inf x, false)
  | _, .inf y => (.inf y, false)
  | .fin na ma ea, .fin nb mb eb =>
    let e := min ea eb
    let x := atExp na ma ea e + atExp nb mb eb e
    if x = 0 then (.fin (na && nb) 0 0, false) else (.fin (decide (x < 0)) x.natAbs e, false)

/-- The exact product, and whether it is invalid. -/
def mulV (a b : Val) : Val × Bool :=
  match a, b with
  | .nan, _ => (.nan, false)
  | _, .nan => (.nan, false)
  | .inf x, .inf y => (.inf (x != y), false)
  | .inf x, .fin y m _ => if m = 0 then (.nan, true) else (.inf (x != y), false)
  | .fin x m _, .inf y => if m = 0 then (.nan, true) else (.inf (x != y), false)
  | .fin x ma ea, .fin y mb eb => (.fin (x != y) (ma * mb) (ea + eb), false)

/-- d + a · b exactly, and whether it is invalid. A NaN operand makes NaN with no flag (R169). -/
def fmaV (d a b : Val) : Val × Bool :=
  if a.isNan || b.isNan || d.isNan then (.nan, false)
  else
    let (p, iv) := mulV a b
    if iv then (.nan, true) else addV d p

/-- a ÷ b with its flags NV and DZ (R153). -/
def divV (a b : Val) : Val × Flags :=
  match a, b with
  | .nan, _ => (.nan, 0)
  | _, .nan => (.nan, 0)
  | .inf _, .inf _ => (.nan, flagNV)
  | .inf x, .fin y _ _ => (.inf (x != y), 0)
  | .fin x _ _, .inf y => (.fin (x != y) 0 0, 0)
  | .fin x ma ea, .fin y mb eb =>
    if mb = 0 then (if ma = 0 then (.nan, flagNV) else (.inf (x != y), flagDZ))
    else
      let k := 64 + bitLen mb
      let n := ma * 2 ^ k
      (sticky (x != y) (n / mb) (ea - eb - k) (n % mb == 0), 0)

/-- Integer square root, from the bit of weight 2^k down. -/
def isqrtFrom : Nat → Nat → Nat → Nat
  | 0, _, r => r
  | k + 1, n, r =>
    let r' := r + 2 ^ k
    isqrtFrom k n (if r' * r' ≤ n then r' else r)

/-- ⌊√n⌋. -/
def isqrt (n : Nat) : Nat := isqrtFrom (bitLen n / 2 + 1) n 0

/-- √a with its flag NV (R153, R171). -/
def sqrtV (a : Val) : Val × Flags :=
  match a with
  | .nan => (.nan, 0)
  | .inf true => (.nan, flagNV)
  | .inf false => (.inf false, 0)
  | .fin neg man exp =>
    if man = 0 then (.fin neg 0 0, 0)
    else if neg then (.nan, flagNV)
    else
      let odd := exp % 2 != 0
      let m := (if odd then 2 * man else man) * 2 ^ 128
      let e := (if odd then exp - 1 else exp) / 2 - 64
      let r := isqrt m
      (sticky false r e (r * r == m), 0)

/-- 1/√a with its flags (R171). -/
def rsqrtV (a : Val) : Val × Flags :=
  match a with
  | .nan => (.nan, 0)
  | .inf true => (.nan, flagNV)
  | .inf false => (.fin false 0 0, 0)
  | .fin neg man exp =>
    if man = 0 then (.inf neg, flagDZ)
    else if neg then (.nan, flagNV)
    else
      let odd := exp % 2 != 0
      let m := if odd then 2 * man else man
      let e := (if odd then exp - 1 else exp) / 2
      let k := 128 + bitLen m
      let n := 2 ^ (2 * k)
      let r := isqrt (n / m)
      (sticky false r (-e - k) (r * r * m == n), 0)

/-- Fraction bits of the fixed-point work of the functions below. -/
def fixBits : Nat := 288
/-- ln 2 in that fixed point, rounded down. -/
def ln2Fix : Nat := 344718199144390748903529588068498589778943173760985251235683909293519817958385383929376

/-- 2^f for a fraction f in fixed point, rounded down: the exponential series of f · ln 2. -/
def exp2Fix (f : Nat) : Nat :=
  let y := f * ln2Fix / 2 ^ fixBits
  ((List.range 80).foldl (fun (acc : Nat × Nat) k =>
    (acc.1 + acc.2, acc.2 * y / 2 ^ fixBits / (k + 1))) (0, 2 ^ fixBits)).1

/-- 2^x for x = man · 2^exp, exact only for an integer x. -/
def exp2V (neg : Bool) (man : Nat) (exp : Int) : Val :=
  let x := atExp neg man (max exp (-fixBits)) (-fixBits)
  let xq := if exp < -fixBits then 0 else x
  let i := xq / 2 ^ fixBits
  let f := (xq % 2 ^ fixBits).toNat
  if f = 0 && exp ≥ -fixBits then .fin false 1 i else sticky false (exp2Fix f) (i - fixBits) false

/-- 2^a (R171). A magnitude of 2^20 or more is cut there: the result overflows or underflows alike. -/
def ex2V (a : Val) : Val × Flags :=
  match a with
  | .nan => (.nan, 0)
  | .inf neg => (if neg then .fin false 0 0 else .inf false, 0)
  | .fin neg man exp =>
    if man = 0 then (.fin false 1 0, 0)
    else if exp + bitLen man > 20 then (exp2V neg 1 20, 0)
    else (exp2V neg man exp, 0)

/-- log2 of m · 2^-fixBits for 1 ≤ it < 2, in fixed point: the inverse hyperbolic tangent series, divided by ln 2. -/
def log2Fix (m : Nat) : Nat :=
  let one := 2 ^ fixBits
  let z := (m - one) * one / (m + one)
  let z2 := z * z / one
  let s := ((List.range 100).foldl (fun (acc : Nat × Nat) k =>
    (acc.1 + acc.2 / (2 * k + 1), acc.2 * z2 / one)) (0, z)).1
  2 * s * one / ln2Fix

/-- log2 a with its flags (R171). -/
def lg2V (a : Val) : Val × Flags :=
  match a with
  | .nan => (.nan, 0)
  | .inf true => (.nan, flagNV)
  | .inf false => (.inf false, 0)
  | .fin neg man exp =>
    if man = 0 then (.inf true, flagDZ)
    else if neg then (.nan, flagNV)
    else
      let e : Int := exp + bitLen man - 1
      let m := man * 2 ^ (fixBits + 1 - bitLen man)
      if m = 2 ^ fixBits then (.fin (decide (e < 0)) e.natAbs 0, 0)
      else
        let x : Int := e * 2 ^ fixBits + log2Fix m
        (if x < 0 then sticky true (x.natAbs - 1) (-fixBits) false else sticky false x.natAbs (-fixBits) false, 0)

/-- tanh a (R171): below 2^-40 just under a in magnitude, from 64 on just under 1. -/
def tanhV (a : Val) : Val × Flags :=
  match a with
  | .nan => (.nan, 0)
  | .inf neg => (.fin neg 1 0, 0)
  | .fin neg man exp =>
    if man = 0 then (.fin neg 0 0, 0)
    else if exp + bitLen man ≤ -40 then (.fin neg (man * 2 ^ 64 - 1) (exp - 64), 0)
    else if exp + bitLen man > 6 then (.fin neg (2 ^ 64 - 1) (-64), 0)
    else
      let one := 2 ^ fixBits
      let t := (atExp false man (exp + 1) (-fixBits)).toNat * one / ln2Fix
      let p := exp2Fix (t % one) * 2 ^ (t / one)
      (sticky neg ((p - one) * one / (p + one)) (-fixBits) false, 0)

/-- Order of two values that are not NaN, −0 equal to +0: negative, zero or positive as a is below, at or above b. -/
def cmpV (a b : Val) : Int :=
  match a, b with
  | .inf x, .inf y => (if x then -1 else 1) - (if y then -1 else 1)
  | .inf x, _ => if x then -1 else 1
  | _, .inf y => if y then 1 else -1
  | .fin na ma ea, .fin nb mb eb =>
    let e := min ea eb
    atExp na ma ea e - atExp nb mb eb e
  | _, _ => 0

/-- Whether a orders below b when −0 lies below +0 (R130). -/
def ltOrd (a b : Val) : Bool :=
  decide (cmpV a b < 0) || (cmpV a b == 0 && a.neg && !b.neg)

/-- A value rounded to an integer in a mode, with whether it was exact (R124). -/
def roundInt (rm : Nat) (neg : Bool) (man : Nat) (exp : Int) : Int × Bool :=
  let (n, exact) := roundShift rm man (-exp)
  (if neg then -(n : Int) else n, exact)

/-- Range of an integer type of width w. -/
def intMin (signed : Bool) (w : Nat) : Int := if signed then -(2 ^ (w - 1)) else 0
def intMax (signed : Bool) (w : Nat) : Int := if signed then 2 ^ (w - 1) - 1 else 2 ^ w - 1

/-- x clamped to a range. -/
def clampInt (lo hi x : Int) : Int := if x < lo then lo else if x > hi then hi else x

/-- Low w bits of an integer. -/
def wrapInt (w : Nat) (x : Int) : Nat := (x % 2 ^ w).toNat

/-- The integer value of w bits. -/
def intOf (signed : Bool) (w x : Nat) : Int :=
  let u := x % 2 ^ w
  if signed && decide (u ≥ 2 ^ (w - 1)) then (u : Int) - 2 ^ w else u

/-- Float to integer (R128): result as low w bits, and flags. -/
def floatToInt (rm : Nat) (signed : Bool) (w : Nat) (v : Val) : Nat × Flags :=
  match v with
  | .nan => (0, flagNV)
  | .inf neg => (wrapInt w (if neg then intMin signed w else intMax signed w), flagNV)
  | .fin neg man exp =>
    let (x, exact) := roundInt rm neg man exp
    if x < intMin signed w || x > intMax signed w then (wrapInt w (clampInt (intMin signed w) (intMax signed w) x), flagNV)
    else (wrapInt w x, if exact then 0 else flagNX)

/-- An integer as an exact value. -/
def intVal (x : Int) : Val := .fin (decide (x < 0)) x.natAbs 0

/-- An element of a dense type as an exact value: floats decoded, integers exact. -/
def elemVal (ty x : Nat) : Val :=
  match fmtOf ty with
  | some f => decodeF f x
  | none => intVal (intOf (tySigned ty) (tyBits ty) x)

/-- Conversion of one element (R127-R129). -/
def convBits (sty dty rm : Nat) (sat : Bool) (x : Nat) : Nat × Flags :=
  match fmtOf sty, fmtOf dty with
  | some f, some g => roundF g rm sat (decodeF f x)
  | some f, none => floatToInt rm (tySigned dty) (tyBits dty) (decodeF f x)
  | none, some g => roundF g rm sat (elemVal sty x)
  | none, none =>
    let v := intOf (tySigned sty) (tyBits sty) x
    (wrapInt (tyBits dty) (if sat then clampInt (intMin (tySigned dty) (tyBits dty)) (intMax (tySigned dty) (tyBits dty)) v
      else v), 0)

/-- Conversion of one element by VCVT (R178): to its own type a value stays as it is, but for a NaN, which becomes
canonical. -/
def convElem (sty dty rm : Nat) (sat : Bool) (x : Nat) : Nat × Flags := convBits sty dty rm (sat && sty != dty) x

/-! ## Block formats -/

/-- Magnitude bits of a block type. -/
def blockM (ty : Nat) : Nat := if ty == 10 then 7 else if ty == 11 then 4 else 2
/-- Bytes of a block: 18, 12, 8 (R133). -/
def blockBytes (ty : Nat) : Nat := (16 + 16 * (blockM ty + 1)) / 8
/-- Elements of a 128-byte line: 112, 160, 256 (R134). -/
def linePer (ty : Nat) : Nat := if ty == 10 then 112 else if ty == 11 then 160 else 256

/-- Byte offset of the block that holds element e of a row, and the element's index in it (R134). -/
def blockPlace (ty e : Nat) : Nat × Nat :=
  let p := linePer ty
  (128 * (e / p) + blockBytes ty * ((e % p) / 16), e % 16)

/-- Bytes of a row of n elements of a block type. -/
def blockRowBytes (ty n : Nat) : Nat := 128 * ((n + linePer ty - 1) / linePer ty)

/-- Element i of a block given as a number (R135). -/
def decodeBlock (m blk i : Nat) : Val :=
  let e := nbits blk 0 8
  if e = 0 then .fin false 0 0
  else if e = 0xFF then .nan
  else
    let mu := nbits blk (8 + i / 2) 1
    let f := nbits blk (16 + (m + 1) * i) (m + 1)
    .fin (nbits f m 1 == 1) (nbits f 0 m) ((e : Int) - 127 - mu - (m - 1))

/-- |x| / 2^s rounded to an integer, for a finite value. -/
def scaleInt (rm : Nat) (v : Val) (s : Int) : Nat :=
  match v with
  | .fin _ man exp => (roundShift rm man (s - exp)).1
  | _ => 0

/-- floor(log2 |x|) of a nonzero finite value. -/
def log2Floor : Val → Int
  | .fin _ man exp => exp + bitLen man - 1
  | _ => 0

/-- The encoder of R136: the block as a number, and its flags. -/
def encodeBlock (m rm : Nat) (sat : Bool) (xs : List Val) : Nat × Flags :=
  let top := 2 ^ m - 1
  let anyInf := xs.any Val.isInf
  if xs.any Val.isNan then (0xFF, 0)
  else if anyInf && !sat then (0xFF, flagNV)
  else
    let ys := xs.map (fun x => match x with | .inf n => Val.fin n top (128 - m) | _ => x)
    let fInf : Flags := if anyInf then flagOF ||| flagNX else 0
    let amax := ys.foldl (fun acc x => if cmpV (.fin false (match x with | .fin _ k _ => k | _ => 0)
        (match x with | .fin _ _ e => e | _ => 0)) acc > 0
      then .fin false (match x with | .fin _ k _ => k | _ => 0) (match x with | .fin _ _ e => e | _ => 0) else acc)
      (Val.fin false 0 0)
    if amax.isZero then (0, fInf)
    else
      let e0 := max (log2Floor amax) (-126)
      let e1 := if scaleInt rm amax (e0 - m + 1) > top then e0 + 1 else e0
      if e1 > 127 && !sat then (0xFF, flagOF ||| flagNX)
      else
        let e := if e1 > 127 then 127 else e1
        let fClamp : Flags := if e1 > 127 then flagOF ||| flagNX else 0
        let mu (j : Nat) : Nat :=
          if (ys.drop (2 * j)).take 2 |>.all (fun x => decide (scaleInt rm x (e - m) ≤ top)) then 1 else 0
        let mags := ys.zipIdx.map (fun (x, i) => min top (scaleInt rm x (e - mu (i / 2) - m + 1)))
        let blk := (e + 127).toNat +
          (List.range 8).foldl (fun acc j => acc + mu j * 2 ^ (8 + j)) 0 +
          (ys.zip mags).zipIdx.foldl (fun acc ((x, mag), i) =>
            acc + (mag + (if x.neg then 2 ^ m else 0)) * 2 ^ (16 + (m + 1) * i)) 0
        let fEl := ys.zipIdx.foldl (fun (acc : Flags) (x, i) =>
          let d := decodeBlock m blk i
          if cmpV d x == 0 then acc
          else if d.isZero || log2Floor x < -126 then acc ||| flagUF ||| flagNX
          else acc ||| flagNX) 0
        (blk, fInf ||| fClamp ||| fEl)

/-! ## f32 in bits -/

/-- f32 bits as a value. -/
def f32V (x : BitVec 32) : Val := decodeF fmtF32 x.toNat

/-- An exact value delivered in f32 under RNE, with NV if it is invalid (R125, R153). -/
def f32Of (r : Val × Bool) : BitVec 32 × Flags :=
  if r.2 then (0x7FC00000#32, flagNV)
  else
    let (b, f) := roundF fmtF32 0 false r.1
    (BitVec.ofNat 32 b, f)

/-- round(a + b, f32, RNE). -/
def f32Add (a b : BitVec 32) : BitVec 32 × Flags := f32Of (addV (f32V a) (f32V b))
/-- round(d + a · b, f32, RNE). -/
def f32Fma (d a b : BitVec 32) : BitVec 32 × Flags := f32Of (fmaV (f32V d) (f32V a) (f32V b))

/-- The exact sum of 16 products of R137: NaN for a NaN operand, NaN with NV for an invalid one. -/
def dot16 (ps : List (Val × Val)) : Val × Bool :=
  if ps.any (fun p => p.1.isNan || p.2.isNan) then (.nan, false)
  else
    match ps.map (fun p => mulV p.1 p.2) with
    | [] => (.fin false 0 0, false)
    | p :: rest => rest.foldl (fun acc q =>
        let (x, iv) := addV acc.1 q.1
        (x, acc.2 || q.2 || iv)) p

/-- acc := round(acc + round(t, f32, RNE), f32, RNE) (R137). -/
def accBlock (acc : BitVec 32) (t : Val × Bool) : BitVec 32 × Flags :=
  let (r, f) := f32Of t
  let (x, g) := f32Add acc r
  (x, f ||| g)

end Sys2Proof.Machine
end

