-- ==== Sys2Proof/Machine/Flags.lean ====
section
/-! DEFINITION. The sticky flags (R131, R132) and the operations on accumulating types whose flags land with a result
(R138, R187). -/
namespace Sys2Proof.Machine

/-- Flags of several sources are ORed into FLG (R132). -/
def Core.orFlags (c : Core) (f : Flags) : Core := { c with flg := c.flg ||| f }

/-- FLG as software reads it (R131). -/
def Core.flgWord (c : Core) : Word := c.flg.zeroExtend 64

/-- FLG as software writes it: reserved bits ignored (R4, R99). -/
def Core.setFlg (c : Core) (v : Word) : Core := { c with flg := v.truncate 5 }

/-- One node or combine of a reduction (R187). What an integer maxabs combines is natural, whatever left it in the element
(log entry 51). -/
def redOp (op : Nat) (acc : AccTy) (sat : Bool) (x y : BitVec 32) : BitVec 32 × Flags :=
  match op, acc with
  | 0, .f32 => f32Add x y
  | 0, .i32 =>
    let v := x.toInt + y.toInt
    (BitVec.ofInt 32 (if sat then clampInt (intMin true 32) (intMax true 32) v else v), 0)
  | 0, .n32 =>
    let v := x.toNat + y.toNat
    (BitVec.ofNat 32 (if sat then min v (2 ^ 32 - 1) else v), 0)
  | 4, _ => (x ||| y, 0)
  | 5, _ => (x &&& y, 0)
  | 2, .f32 =>
    let a := f32V x
    let b := f32V y
    (if a.isNan || b.isNan then 0x7FC00000#32 else if ltOrd b a then y else x, 0)
  | 2, .i32 => (if y.slt x then y else x, 0)
  | 2, .n32 => (if y.ult x then y else x, 0)
  | 3, .f32 =>
    let a := x &&& 0x7FFFFFFF#32
    let b := y &&& 0x7FFFFFFF#32
    (if (f32V a).isNan || (f32V b).isNan then 0x7FC00000#32 else if a.ult b then b else a, 0)
  | _, .f32 =>
    let a := f32V x
    let b := f32V y
    (if a.isNan || b.isNan then 0x7FC00000#32 else if ltOrd a b then y else x, 0)
  | _, .i32 => (if x.slt y then y else x, 0)
  | _, .n32 => (if x.ult y then y else x, 0)

/-- A node with one absent child is the other child; with two it is absent (R187). -/
def redNode (op : Nat) (acc : AccTy) (sat : Bool) (x y : Option (BitVec 32)) : Option (BitVec 32) × Flags :=
  match x, y with
  | none, z => (z, 0)
  | z, none => (z, 0)
  | some a, some b => let (r, f) := redOp op acc sat a b; (some r, f)

/-- One level of the balanced tree: neighbours in pairs (R138). -/
def redLevel (op : Nat) (acc : AccTy) (sat : Bool) : List (Option (BitVec 32)) → List (Option (BitVec 32)) × Flags
  | x :: y :: r =>
    let (z, f) := redNode op acc sat x y
    let (zs, g) := redLevel op acc sat r
    (z :: zs, f ||| g)
  | l => (l, 0)

/-- The root of a balanced tree of 2^n lanes (R138). -/
def redTree (op : Nat) (acc : AccTy) (sat : Bool) : Nat → List (Option (BitVec 32)) → Option (BitVec 32) × Flags
  | 0, l => (l.headD none, 0)
  | n + 1, l =>
    let (l', f) := redLevel op acc sat l
    let (r, g) := redTree op acc sat n l'
    (r, f ||| g)

/-- A VRED landing in its latch: each root combined with its element, an empty element taking the root (R187, R188). -/
def yCombine (y : YLatch) (c : YComb) : YLatch × Flags :=
  if c.op = 15 then (Vector.replicate 64 none, 0)
  else
    c.roots.zipIdx.foldl (fun acc (root, g) =>
      match root with
      | none => acc
      | some r =>
        let (e, f) := redNode c.op.toNat c.acc c.sat (vget acc.1 g none) (some r)
        (vset acc.1 g e, acc.2 ||| f)) (y, 0)

end Sys2Proof.Machine
end

