-- ==== Sys2Proof/Machine/Operands.lean ====
section
/-! DEFINITION. Who is there (gangs, cores, contexts), the operand forms of R33 and R34 — scalar names and latches,
predicates, vector names, latches and view rows, masks — and how a result lands (R21-R25, R70, R164). -/
namespace Sys2Proof.Machine

/-! ## Finding and changing parts of the package -/

def Mach.gang? (m : Mach) (g : Nat) : Option Gang := tget m.gangs g
def Mach.updGang (m : Mach) (g : Nat) (f : Gang → Gang) : Mach := { m with gangs := tupd m.gangs g f }
def Mach.core? (m : Mach) (g r : Nat) : Option Core := (m.gang? g).bind (fun x => x.cores[r]?)
def Gang.updCore (x : Gang) (r : Nat) (f : Core → Core) : Gang := { x with cores := x.cores.modify r f }
def Mach.updCore (m : Mach) (g r : Nat) (f : Core → Core) : Mach := m.updGang g (fun x => x.updCore r f)
def Mach.job? (m : Mach) (j : Nat) : Option Job := tget m.jobs j
def Mach.updJob (m : Mach) (j : Nat) (f : Job → Job) : Mach := { m with jobs := tupd m.jobs j f }
def Mach.vd? (m : Mach) (v : Nat) : Option VDev := tget m.vds v
def Mach.vd (m : Mach) (v : Nat) : VDev := (m.vd? v).getD {}
def Mach.updVd (m : Mach) (v : Nat) (f : VDev → VDev) : Mach := { m with vds := tupd m.vds v f }
def Mach.updDie (m : Mach) (d : Nat) (f : Die → Die) : Mach := { m with dies := vupd m.dies d f }
def Mach.cluster? (m : Mach) (d k : Nat) : Option Cluster := m.dies[d]?.bind (fun x => x.clusters[k]?)
def Mach.updCluster (m : Mach) (d k : Nat) (f : Cluster → Cluster) : Mach :=
  m.updDie d (fun x => { x with clusters := vupd x.clusters k f })
def Mach.loupe? (m : Mach) (d i : Nat) : Option LoupeCore := m.dies[d]?.bind (fun x => x.loupes[i]?)
def Mach.updLoupe (m : Mach) (d i : Nat) (f : LoupeCore → LoupeCore) : Mach :=
  m.updDie d (fun x => { x with loupes := vupd x.loupes i f })
def Mach.ctx? (m : Mach) (d i c : Nat) : Option LoupeCtx := (m.loupe? d i).bind (fun x => x.ctxs[c]?)
def Mach.updCtx (m : Mach) (d i c : Nat) (f : LoupeCtx → LoupeCtx) : Mach :=
  m.updLoupe d i (fun x => { x with ctxs := x.ctxs.modify c f })

/-- The scalar side of an agent. -/
def Mach.seq? (m : Mach) : Agent → Option Seq
  | .core g r _ => (m.core? g r).map (·.seq)
  | .loupe d i c => (m.ctx? d i c).map (·.seq)

def Mach.updSeq (m : Mach) (a : Agent) (f : Seq → Seq) : Mach :=
  match a with
  | .core g r _ => m.updCore g r (fun c => { c with seq := f c.seq })
  | .loupe d i c => m.updCtx d i c (fun x => { x with seq := f x.seq })

/-- The job an agent runs. -/
def Mach.jobOf (m : Mach) : Agent → Option Job
  | .core g _ _ => (m.gang? g).bind (fun x => m.job? x.job)
  | .loupe d i c => (m.ctx? d i c).bind (fun x => x.job.bind m.job?)

/-- The declarations in force for an agent (R111); with no job, none. -/
def Mach.hdr (m : Mach) (a : Agent) : Header := ((m.jobOf a).map (·.hdr)).getD {}

/-- The virtual device an agent belongs to. -/
def Mach.vdOf (m : Mach) : Agent → Nat
  | .core g _ _ => ((m.gang? g).map (·.vd)).getD 0
  | .loupe d i c => ((m.ctx? d i c).map (·.vd)).getD 0

/-- The ec of a gang; the words issued of a Loupe context (log entry 10). -/
def Mach.ecOf (m : Mach) : Agent → Nat
  | .core g _ _ => ((m.gang? g).map (·.cyc)).getD 0
  | .loupe d i c => ((m.ctx? d i c).map (·.nextSeq)).getD 0

/-! ## Names -/

/-- The physical scalar register a name reaches (R21). -/
def physS (rrb : BitVec 5) (k : Nat) : Nat := if k < 40 then k else 40 + (k - 40 + 32 - rrb.toNat) % 16

/-- The physical vector register a name reaches (R21). -/
def physV (rrb : BitVec 5) (k : Nat) : Nat := if k < 32 then k else 32 + (k - 32 + 32 - rrb.toNat) % 32

/-- A counted resource a word names (check 4 of R31). -/
inductive Need where
  | s (n : Nat)
  | v (n : Nat)
  | bar (n : Nat)
  | grp (n : Nat)
  | slot (n : Nat)
  deriving DecidableEq, Repr

/-- Whether a name lies within the declaration: a rotating register both as written and as the register it reaches. A
latch is not counted. -/
def Need.ok (h : Header) (rrb : BitVec 5) : Need → Bool
  | .s n => decide (56 ≤ n) || (decide (n < h.nsrg) && decide (physS rrb n < h.nsrg))
  | .v n => decide (64 ≤ n) || (decide (n < h.nvrg) && decide (physV rrb n < h.nvrg))
  | .bar n => decide (n < h.nbar)
  | .grp n => decide (n < h.ngrp)
  | .slot n => decide (n < h.nosl)

/-- The registers of a stream of a scalar side. -/
def Seq.regs (q : Seq) (st : Stream) : StreamRegs := vget q.strm st.idx {}

/-- The registers of a stream changed. -/
def Seq.updRegs (q : Seq) (st : Stream) (f : StreamRegs → StreamRegs) : Seq := { q with strm := vupd q.strm st.idx f }

/-- Physical scalar register n; s0 reads 0 (R20). -/
def Seq.phys (q : Seq) (n : Nat) : Word := if n = 0 then 0 else vget q.sreg n 0

/-- An S source code: a scalar by name, or a latch, which reads the value `undef` until it is written (R22, R33). -/
def Seq.readS (q : Seq) (st : Stream) (undef : Word) (code : Nat) : Word :=
  if code < 56 then q.phys (physS (q.regs st).rrb code) else (vget q.latch (code - 56) none).getD undef

/-- Predicate n; p0 reads 1 (R20). -/
def Seq.readP (q : Seq) (n : Nat) : Bool := n == 0 || q.preg.getLsbD n

/-- A guard code (R34). -/
def Seq.guard (q : Seq) (st : Stream) (g : BitVec 4) : Bool :=
  if g.toNat < 8 then q.readP g.toNat else (q.regs st).q.getLsbD (g.toNat - 8)

/-! ## Results -/

/-- The bits of the bytes a byte mask enables. -/
def maskBits (k : Mask) : Row :=
  BitVec.ofNat 2048 ((List.range 256).foldl (fun acc j => if k.getLsbD j then acc + 255 * 2 ^ (8 * j) else acc) 0)

/-- Bytes of `new` where the mask enables them, of `old` elsewhere (R164). -/
def blend (k : Mask) (old new : Row) : Row :=
  let b := maskBits k
  (old &&& ~~~b) ||| (new &&& b)

/-- A predicate set; p0 stays 1 (R20). -/
def Seq.setP (q : Seq) (n : Nat) (v : Bool) : Seq :=
  if n = 0 then q else { q with preg := if v then q.preg ||| (1#8 <<< n) else q.preg &&& ~~~(1#8 <<< n) }

/-- A scalar register set; s0 discards (R20). -/
def Seq.setS (q : Seq) (n : Nat) (v : Word) : Seq := if n = 0 then q else { q with sreg := vset q.sreg n v }

/-- A scalar or predicate result in its register. -/
def Seq.write (q : Seq) : Write → Seq
  | .s n v => q.setS n v
  | .p n v => q.setP n v
  | _ => q

/-- A result in its register, with the flags the landing itself sets (R23, R164, R188). -/
def Core.write (c : Core) : Write → Core
  | .s n v => { c with seq := c.seq.setS n v }
  | .p n v => { c with seq := c.seq.setP n v }
  | .v n r => { c with vec := { c.vec with vreg := vset c.vec.vreg n r } }
  | .vm n k r => { c with vec := { c.vec with vreg := vupd c.vec.vreg n (fun o => blend k o r) } }
  | .tile t i k r => { c with mat := { c.mat with tile := vupd c.mat.tile t (fun x => vupd x i (fun o => blend k o r)) } }
  | .m n k => { c with vec := { c.vec with mreg := vset c.vec.mreg n k } }
  | .mm n wr k => { c with vec := { c.vec with mreg := vupd c.vec.mreg n (fun o => (o &&& ~~~wr) ||| (k &&& wr)) } }
  | .y n y =>
    let (l, f) := yCombine (vget c.vec.y n (Vector.replicate 64 none)) y
    { c with vec := { c.vec with y := vset c.vec.y n l }, flg := c.flg ||| f }

/-- A value in a latch of S, unless a group switch came since the word issued (R70, R72). -/
def Seq.setLatch (q : Seq) : Option (Nat × Nat × Word) → Seq
  | none => q
  | some (k, ser, v) => if (q.regs .s).gser = ser then { q with latch := vset q.latch k (some v) } else q

/-- A result that is due lands: registers, latches, flags (R23, R70, R132). -/
def Core.land (c : Core) (p : Pend) : Core :=
  let c := p.writes.foldl Core.write c
  let c := { c with seq := c.seq.setLatch p.latchS, flg := c.flg ||| p.flags }
  match p.latchV with
  | none => c
  | some (k, ser, r) =>
    if (c.seq.regs .v).gser = ser then { c with vec := { c.vec with latch := vset c.vec.latch k (some r) } } else c

/-- A result on a Loupe context lands (R46). -/
def Seq.land (q : Seq) (p : Pend) : Seq := (p.writes.foldl Seq.write q).setLatch p.latchS

/-! ## Vector operands -/

/-- Element width in bits, bytes, and lane count of a shape (R160). -/
def Shape.bits (h : Shape) : Nat := tyBits h.ty.toNat
def Shape.bytes (h : Shape) : Nat := tyBytes h.ty.toNat
def Shape.lanes (h : Shape) : Nat := 256 / h.bytes

/-- lane(v, i) under elements of w bits (R160). -/
def laneOf (w : Nat) (r : Row) (i : Nat) : Nat := r.toNat / 2 ^ (w * i) % 2 ^ w

/-- All lanes of a row, low lane first. -/
def lanesOf (w : Nat) (r : Row) : List Nat := (List.range (2048 / w)).map (laneOf w r)

/-- Lanes packed, low lane first: each below 2^w. -/
def packNat (w : Nat) : List Nat → Nat
  | [] => 0
  | x :: xs => x + 2 ^ w * packNat w xs

/-- A row of lanes. -/
def rowOfLanes (w : Nat) (l : List Nat) : Row := BitVec.ofNat 2048 (packNat w (l.map (· % 2 ^ w)))

/-- The view, when it is on: tile and first row (R24). -/
def viewOf (vw : BitVec 32) : Option (Nat × Nat) :=
  if vw.getLsbD 15 then some ((vw.extractLsb' 8 3).toNat, (vw.extractLsb' 0 6).toNat) else none

/-- Where a V name lives: a tile row under the view, or a register (R21, R25). -/
inductive VPlace where
  | reg (n : Nat)
  | tile (t i : Nat)
  deriving DecidableEq, Repr

def Core.vplace (c : Core) (k : Nat) : VPlace :=
  match viewOf c.vw with
  | some (t, row0) =>
    if 16 ≤ k ∧ k ≤ 31 then .tile t ((row0 + k - 16) % 64) else .reg (physV (c.seq.regs .v).rrb k)
  | none => .reg (physV (c.seq.regs .v).rrb k)

/-- The row a V source code names: register, view row, or latch, which reads `undef` until written (R22, R33). -/
def Core.readV (c : Core) (undef : Row) (code : Nat) : Row :=
  if code < 64 then
    match c.vplace code with
    | .reg n => vget c.vec.vreg n 0
    | .tile t i => vget (vget c.mat.tile t (Vector.replicate 64 0)) i 0
  else (vget c.vec.latch (code - 64) none).getD undef

/-- The tile a V code reaches through the view, if it does (R26). -/
def Core.viewTile (c : Core) (code : Nat) : Option Nat :=
  if code < 64 then (match c.vplace code with | .tile t _ => some t | .reg _ => none) else none

/-- Mask register k. -/
def Core.mask (c : Core) (k : Nat) : Mask := vget c.vec.mreg k 0

/-- The byte mask of a range of lanes of ES bytes. -/
def laneMask (es lo n : Nat) : Mask := BitVec.ofNat 256 ((2 ^ (es * n) - 1) * 2 ^ (es * lo))

/-- Whether lane i is enabled lane-wise by m0 (R179). -/
def laneOn (m0 : Mask) (es i : Nat) : Bool := m0.getLsbD (es * i)

/-- The write of a V result through a name, restricted to WR (R164, R166). -/
def Core.vwrite (c : Core) (code : Nat) (wr : Mask) (r : Row) : Write :=
  match c.vplace code with
  | .reg n => if wr = BitVec.allOnes 256 then .v n r else .vm n wr r
  | .tile t i => .tile t i wr r

/-! ## Pointers -/

/-- SPACE, RANK and OFFSET of a pointer (R17). -/
def ptrSpace (p : Word) : Nat := (p.extractLsb' 60 4).toNat
def ptrRank (p : Word) : Nat := (p.extractLsb' 54 6).toNat
def ptrOff (p : Word) : Nat := (p.extractLsb' 0 54).toNat
/-- A pointer of a space, rank and offset, the offset modulo 2^54. -/
def mkPtr (space rank off : Nat) : Word :=
  (BitVec.ofNat 4 space ++ BitVec.ofNat 6 rank ++ BitVec.ofNat 54 off : BitVec 64)

end Sys2Proof.Machine
end

