-- ==== Sys2Proof/Machine/Trees.lean ====
section
/-! DEFINITION. Coefficient trees (R238-R241, R246): a block as the list of its stored coefficients, its levels, and
spine commits. A level value is held in f32 bits under halving Haar, in the element's own bits under lifting Haar. -/
namespace Sys2Proof.Machine

/-- Types a tree admits (R238). -/
def treeType (ty : Nat) : Bool := ty == 0 || ty == 1 || ty == 2 || ty == 4 || ty == 6

/-- Halving Haar, for the float types (R239). -/
def halving (ty : Nat) : Bool := tyFloat ty

/-- An element's bits as the value levels are held in. -/
def toLevel (ty x : Nat) : Nat :=
  match fmtOf ty with
  | some f => (roundF fmtF32 0 false (decodeF f x)).1
  | none => x % 2 ^ tyBits ty

/-- A level value as element bits (R239, R241). -/
def ofLevel (ty x : Nat) : Nat :=
  match fmtOf ty with
  | some f => (roundF f 0 false (decodeF fmtF32 x)).1
  | none => x % 2 ^ tyBits ty

/-- Half of an exact value. -/
def halfV : Val → Val
  | .fin n m e => .fin n m (e - 1)
  | v => v

/-- d >> 1 of the w-bit value (R240). -/
def sarHalf (w d : Nat) : Nat := wrapInt w (intOf true w d / 2)

/-- A pair of level l − 1 into its average and detail, both as level values (R239, R240). -/
def pairDown (ty x0 x1 : Nat) : Nat × Nat :=
  if halving ty then
    let a := decodeF fmtF32 x0
    let b := decodeF fmtF32 x1
    ((roundF fmtF32 0 false (halfV (addV a b).1)).1, (roundF fmtF32 0 false (halfV (addV a b.negate).1)).1)
  else
    let w := tyBits ty
    let d := wrapInt w ((x0 : Int) - x1)
    (wrapInt w ((x1 : Int) + sarHalf w d), d)

/-- An average and a detail into the pair of the level below (R240, R241). -/
def pairUp (ty a d : Nat) : Nat × Nat :=
  if halving ty then
    let x := decodeF fmtF32 a
    let y := decodeF fmtF32 d
    ((roundF fmtF32 0 false (addV x y).1).1, (roundF fmtF32 0 false (addV x y.negate).1).1)
  else
    let w := tyBits ty
    let x1 := wrapInt w ((a : Int) - sarHalf w d)
    (wrapInt w ((d : Int) + x1), x1)

/-- Stored coefficient at a position. -/
def coeff (cs : List Nat) (i : Nat) : Nat := cs.getD i 0

/-- The averages `steps` levels below level l, from those of level l, of a block of depth L (R241). -/
def levelsDown (ty L : Nat) (cs : List Nat) : (steps l : Nat) → List Nat → List Nat
  | 0, _, as => as
  | n + 1, l, as =>
    levelsDown ty L cs n (l - 1) (as.zipIdx.flatMap (fun (a, i) =>
      let (x0, x1) := pairUp ty a (toLevel ty (coeff cs (2 ^ (L - l) + i)))
      [x0, x1]))

/-- The averages of level j, as level values. -/
def levelVals (ty L : Nat) (cs : List Nat) (j : Nat) : List Nat :=
  levelsDown ty L cs (L - j) L [toLevel ty (coeff cs 0)]

/-- a_j[q] in the element type (R241). -/
def treeAvg (ty L : Nat) (cs : List Nat) (j q : Nat) : Nat := ofLevel ty ((levelVals ty L cs j).getD q 0)

/-- d_j[q] as stored (R241). -/
def treeDetail (L : Nat) (cs : List Nat) (j q : Nat) : Nat := coeff cs (2 ^ (L - j) + q)

/-- Neighbours of a list in pairs. -/
def inPairs : List Nat → List (Nat × Nat)
  | a :: b :: r => (a, b) :: inPairs r
  | _ => []

/-- Levels l + 1 up to L recomputed from the averages of level l into the stored coefficients (R246). -/
def levelsUp (ty L : Nat) : (steps l : Nat) → List Nat → List Nat → List Nat
  | 0, _, as, cs => cs.set 0 (ofLevel ty (as.headD 0))
  | n + 1, l, as, cs =>
    let ps := (inPairs as).map (fun p => pairDown ty p.1 p.2)
    let cs := ps.zipIdx.foldl (fun cs (p, i) => cs.set (2 ^ (L - (l + 1)) + i) (ofLevel ty p.2)) cs
    levelsUp ty L n (l + 1) (ps.map (·.1)) cs

/-- Details of levels 1 to j under a_j[i] set to zero (R246, FLAT). -/
def clearUnder (L j i : Nat) (cs : List Nat) : List Nat :=
  (List.range j).foldl (fun cs k =>
    let l := k + 1
    (List.range (2 ^ (j - l))).foldl (fun cs t => cs.set (2 ^ (L - l) + i * 2 ^ (j - l) + t) 0) cs) cs

/-- A spine commit: level-j averages replaced by element values, KEEP or FLAT (R246). -/
def spineCommit (ty L : Nat) (cs : List Nat) (j : Nat) (flat : Bool) (vals : List (Nat × Nat)) : List Nat :=
  let as := vals.foldl (fun as p => as.set p.1 (toLevel ty p.2)) (levelVals ty L cs j)
  let cs := if flat then vals.foldl (fun cs p => clearUnder L j p.1 cs) cs else cs
  levelsUp ty L (L - j) j as cs

/-- A block's stored coefficients from its bytes, and back. -/
def blockCoeffs (ty L : Nat) (bytes : List Byte) : List Nat :=
  (List.range (2 ^ L)).map (fun k => leNat ((bytes.drop (k * tyBytes ty)).take (tyBytes ty)))
def coeffBytes (ty : Nat) (cs : List Nat) : List Byte := cs.flatMap (natLE (tyBytes ty))

/-! ## Lens entries (R242-R244) -/

def lensSize (l : Word) : Nat := (fld l 29 14).toNat
def lensBase (l : Word) : Nat := (fld l 16 13).toNat
def lensXf (l : Word) : Nat := (fld l 8 2).toNat
def lensDepth (l : Word) : Nat := (fld l 4 3).toNat
def lensType (l : Word) : Nat := (fld l 0 4).toNat

/-- A valid entry (R244). -/
def lensOk (l : Word) : Bool :=
  (fld l 43 21).toNat == 0 && (fld l 10 6).toNat == 0 && !bit l 7 &&
  decide (lensBase l + lensSize l ≤ 8192) && lensType l != 13 && lensType l != 15 &&
  ((lensXf l == 0 && lensDepth l == 0) ||
   (lensXf l == 1 && decide (1 ≤ lensDepth l) && decide (lensDepth l ≤ 6) && treeType (lensType l)))

/-- The lens an own-scratchpad offset passes through: the lowest that covers it (R243). -/
def Core.lensAt (c : Core) (off : Nat) : Option Word :=
  c.lens.toList.find? (fun l => lensSize l != 0 && decide (lensBase l * 256 ≤ off) &&
    decide (off < min ((lensBase l + lensSize l) * 256) (2 ^ 21)))

end Sys2Proof.Machine
end

