-- ==== Sys2Proof/Machine/Rows.lean ====
section
/-! DEFINITION. The rows V loads read of a scratchpad: bytes, rows through a block lens (R193), levels and details of a
tree lens (R248); and the bytes, granules and check units they touch. -/
namespace Sys2Proof.Machine

/-- The first byte at or beyond a lens's end (R243). -/
def lensEnd (l : Word) : Nat := min ((lensBase l + lensSize l) * 256) (2 ^ 21)

/-- Bytes of a tree block of a lens (R238). -/
def lensBlock (l : Word) : Nat := 2 ^ lensDepth l * tyBytes (lensType l)

/-- Lanes of a row of a lens's element type. -/
def lensLanes (l : Word) : Nat := 256 / tyBytes (lensType l)

/-- Addresses of the blocks that row r of level j reads, from the block that holds `off` (R248). -/
def treeBlocks (l : Word) (off j r : Nat) : List Nat :=
  let per := 2 ^ (lensDepth l - j)
  let g0 := (off - lensBase l * 256) / tyBytes (lensType l) / 2 ^ j + r * lensLanes l
  (List.range (lensLanes l / per)).map (fun k => lensBase l * 256 + (g0 / per + k) * lensBlock l)

/-- The lanes of a row of averages or details; a block beyond the lens end gives zeros (R248). -/
def Core.treeLanes (c : Core) (l : Word) (off j r : Nat) (detail : Bool) : List Nat :=
  let ty := lensType l
  let L := lensDepth l
  let per := 2 ^ (L - j)
  (treeBlocks l off j r).flatMap (fun a =>
    if a < lensEnd l then
      let cs := blockCoeffs ty L (Memory.read c.scr a (lensBlock l))
      if detail then (List.range per).map (treeDetail L cs j) else (levelVals ty L cs j).map (ofLevel ty)
    else List.replicate per 0)

/-- An f32 value converted to the shape's type, as a VCVT would (R178, R193). -/
def Shape.conv (h : Shape) (v : Val) : Nat × Flags :=
  match fmtOf h.ty.toNat with
  | some f => roundF f h.rm.toNat h.sat v
  | none => floatToInt h.rm.toNat (tySigned h.ty.toNat) h.bits v

/-- The blocks of 16 elements that a row of L lanes holds through a block lens, from the row at `off`: address of each, if
its line lies within the lens (R134, R193). -/
def blockAddrs (l : Word) (off lanes : Nat) : List (Option Nat) :=
  (List.range (lanes / 16)).map (fun k =>
    if off + 128 * (16 * k / linePer (lensType l)) < lensEnd l then some (off + (blockPlace (lensType l) (16 * k)).1) else none)

/-- The lanes of a row through a block lens, with flags (R193). -/
def Core.blockLanes (c : Core) (l : Word) (off : Nat) (h : Shape) : List (Nat × Flags) :=
  let ty := lensType l
  (blockAddrs l off h.lanes).flatMap (fun a =>
    match a with
    | none => List.replicate 16 (h.conv (.fin false 0 0))
    | some a =>
      let blk := leNat (Memory.read c.scr a (blockBytes ty))
      (List.range 16).map (fun i => h.conv (decodeBlock (blockM ty) blk i)))

/-- The row a V load reads, and its flags. -/
def Core.row (c : Core) (v : RowSpec) : Row × Flags :=
  match v.kind with
  | .bytes => (rowOf (Memory.read c.scr v.off 256), 0)
  | .block =>
    let l := c.blockLanes v.lens v.off v.shp
    (rowOfLanes v.shp.bits (l.map (·.1)), l.foldl (fun f x => f ||| x.2) 0)
  | .averages j r => (rowOfLanes (tyBits (lensType v.lens)) (c.treeLanes v.lens v.off j r false), 0)
  | .details j r => (rowOfLanes (tyBits (lensType v.lens)) (c.treeLanes v.lens v.off j r true), 0)

/-- Bytes of the lines that a row through a block lens touches, from `off`: those that begin within the lens (R193). -/
def blockSpan (l : Word) (off lanes : Nat) : Nat :=
  let per := linePer (lensType l)
  128 * ((List.range ((lanes + per - 1) / per)).filter (fun k => decide (off + 128 * k < lensEnd l))).length

/-- Address ranges a V load touches: start and length. -/
def RowSpec.spans (v : RowSpec) : List (Nat × Nat) :=
  match v.kind with
  | .bytes => [(v.off, 256)]
  | .block => ((blockAddrs v.lens v.off v.shp.lanes).filterMap id).map (fun a => (a, blockBytes (lensType v.lens)))
  | .averages j r | .details j r =>
    ((treeBlocks v.lens v.off j r).filter (fun a => decide (a < lensEnd v.lens))).map (fun a => (a, lensBlock v.lens))

/-- Units of n bytes that ranges meet, ascending, each once. -/
def meets (n : Nat) (l : List (Nat × Nat)) : List Nat :=
  (l.flatMap (fun (a, len) => if len = 0 then [] else
    (List.range ((a + len - 1) / n - a / n + 1)).map (· + a / n))).eraseDups

/-- The 4 KiB tag granules a V load touches (R69); through a block lens, those of the lines it touches (R193). -/
def RowSpec.grans (v : RowSpec) : List Nat := meets 4096 v.spans

/-- The 64-byte granules a V load touches. -/
def RowSpec.units (v : RowSpec) : List Nat := meets 64 v.spans

end Sys2Proof.Machine
end

