-- ==== Sys2Proof/Machine/Walk.lean ====
section
/-! DEFINITION. Page tables, walks, what walkers capture, and TLBs (R359-R369). -/
namespace Sys2Proof.Machine

/-! ## Ranges and leaves -/

def xbStart (x : Word) : Nat := (fld x 28 20).toNat
def xbEnd (x : Word) : Nat := (fld x 8 20).toNat
def xbCnth (x : Word) : Bool := bit x 3
def xbFmt (x : Word) : Nat := (fld x 1 2).toNat
/-- A range in force: enabled, END not below START, format not reserved (R359). -/
def xbOn (x : Word) : Bool := bit x 0 && decide (xbStart x ≤ xbEnd x) && xbFmt x != 3
/-- Root table address (R360). -/
def xrAddr (x : Word) : Nat := (fld x 8 56).toNat * 256

def leafTier (l : Word) : Nat := (fld l 61 2).toNat
def leafHome (l : Word) : Nat := (fld l 59 2).toNat
def leafCnt (l : Word) : Bool := bit l 58
def leafRchk (l : Word) : Bool := bit l 57
def leafDepth (l : Word) : Nat := (fld l 54 3).toNat
def leafType (l : Word) : Nat := (fld l 50 4).toNat
def leafFrame (l : Word) : Nat := (fld l 16 34).toNat * 65536
def leafX (l : Word) : Bool := bit l 3
def leafW (l : Word) : Bool := bit l 2
def leafR (l : Word) : Bool := bit l 1
def leafV (l : Word) : Bool := bit l 0
def leafIs (l : Word) : Bool := bit l 7

/-- A physical address names an existing unit that agrees with a tier (R364). -/
def unitOk (tier pa : Nat) : Bool :=
  let u := pa / 2 ^ 44
  let o := pa % 2 ^ 44
  (tier == 0 && decide (u ≤ 3) && decide (o < 96 * 2 ^ 30)) ||
  (tier == 1 && u == 8 && decide (o < 2 ^ 40)) ||
  (tier == 2 && u == 0x10)

/-- Check 2 of R365 on a leaf of a page size. -/
def leafOk (l : Word) (size : Nat) : Bool :=
  !bit l 63 && fld l 8 8 == 0 && fld l 4 3 == 0 && leafTier l != 3 && leafDepth l != 7 && leafType l != 15 &&
  (leafDepth l == 0 || treeType (leafType l)) && leafFrame l % size == 0 && unitOk (leafTier l) (leafFrame l)

/-- Device memory stands at an address: stacked DRAM of a die, or the second tier (R2, R364). -/
def devUnit (pa : Nat) : Bool := unitOk 0 pa || unitOk 1 pa

/-- A device address lies in memory the virtual device owns (R357, R365). -/
def VDev.owns (v : VDev) (pa : Nat) : Bool :=
  let o := pa % 2 ^ 44
  devUnit pa && (if pa / 2 ^ 44 ≤ 3 then v.regions.contains (pa / 2 ^ 44, o / (6 * 2 ^ 30)) else v.spans.contains (o / 2 ^ 34))

/-! ## Device memory and its mirror region (R408) -/

/-- The address of the mirror copy of a byte of the primary copy. -/
def Mirror.twin (r : Mirror) (pa : Nat) : Option Nat :=
  if pa / 2 ^ 44 = r.die ∧ r.base ≤ pa % 2 ^ 44 ∧ pa % 2 ^ 44 < r.base + r.size
  then some ((r.die + 2) % 4 * 2 ^ 44 + pa % 2 ^ 44) else none

/-- Bytes stored in device memory at offsets of an address: those in the mirror region go to both copies (R408). Reads are
served from the address itself, the primary copy. -/
def Mach.devStore (m : Mach) (pa : Nat) (data : List (Nat × Byte)) : Mach :=
  let twins := match m.mgmt.mirror with
    | none => []
    | some r => data.filterMap (fun (o, b) => (r.twin (pa + o)).map (fun a => (a, b)))
  { m with
    dev := Memory.writeAt (Memory.writeAt m.dev pa data) 0 twins
    faulty := if m.faulty.isEmpty then [] else m.faulty.filter (fun q => !(covered pa data).contains q) }

/-! ## Errors of device memory (R409-R412) -/

/-- A device address lies on a layer's channel (R364, R410). -/
def linkCarries (f : LinkFault) (pa : Nat) : Bool :=
  decide (pa / 2 ^ 44 = f.die.toNat) && decide (pa % 2 ^ 44 / (24 * 2 ^ 30) = f.layer.toNat) && decide (pa / 64 % 32 = f.chan.toNat)

/-- Some bytes of device memory move over a channel. -/
def linkHits (f : LinkFault) (pa n : Nat) : Bool :=
  (List.range ((pa + n - 1) / 64 - pa / 64 + 1)).any (fun i => linkCarries f ((pa / 64 + i) * 64))

/-- A byte lies in the primary copy of the mirror region. -/
def Mach.mirrored (m : Mach) (pa : Nat) : Bool := m.mgmt.mirror.any (fun r => (r.twin pa).isSome)

/-- The lines among some bytes that cannot be corrected (R411). -/
def Mach.badLines (m : Mach) (pa n : Nat) : List Nat :=
  if m.faulty.isEmpty then [] else m.faulty.filter (fun q => decide (q * 64 < pa + n) && decide (pa < q * 64 + 64))

/-- A read of some bytes meets an error: a line that has no good mirror copy (R409, R411). -/
def Mach.lineError (m : Mach) (pa n : Nat) : Bool :=
  (m.badLines pa n).any (fun q => !m.mirrored (q * 64) || m.io.lost.contains q)

/-- The lines of the mirror region for which a read of some bytes is held, until the monitor pair has repaired them (R409). -/
def Mach.heldLines (m : Mach) (pa n : Nat) : List Nat :=
  (m.badLines pa n).filter (fun q => m.mirrored (q * 64) && !m.io.lost.contains q)

/-- Lines trap to the monitor pair (R409). -/
def Mach.trap (m : Mach) (l : List Nat) : Mach :=
  if l.isEmpty then m else { m with io := { m.io with monitor := (m.io.monitor ++ l).eraseDups } }

/-! ## Walks (R359-R367) -/

/-- The host bus window of a virtual function (R364). -/
def hostUnit (pa : Nat) : Bool := pa / 2 ^ 44 == 0x10

/-- Bytes at a device physical address: the unit it names decides which memory they stand in (R364). -/
def Mach.physRead (m : Mach) (pa n : Nat) : List Byte :=
  if hostUnit pa then Memory.read m.host (pa % 2 ^ 44) n else Memory.read m.dev pa n

/-- Bytes stored at a device physical address. One that names no unit stores nothing (log entry 84). -/
def Mach.physStore (m : Mach) (vd pa : Nat) (data : List (Nat × Byte)) : Mach :=
  if devUnit pa then m.devStore pa data
  else if hostUnit pa && Config.iommuAllows vd true (pa % 2 ^ 44) then { m with host := Memory.writeAt m.host (pa % 2 ^ 44) data }
  else m

/-- A table entry as a walk of a virtual device reads it: as captured, or as it stands in memory (R367). -/
def Mach.tableWord (m : Mach) (vd pa : Nat) : Word :=
  (tget (m.vd vd).entries pa).getD (BitVec.ofNat 64 (leNat (m.physRead pa 8)))

/-- Why the entry at an address cannot be read: the address names no unit of R364, the host's IOMMU refuses it (R366), or its
line cannot be corrected (R411). -/
def Mach.tableBad (m : Mach) (vd pa : Nat) : Option (BitVec 8) :=
  if (tget (m.vd vd).entries pa).isSome then none
  else if devUnit pa then (if m.lineError pa 8 then some 0x10 else none)
  else if !hostUnit pa then some 0x13
  else if Config.iommuAllows vd false (pa % 2 ^ 44) then none else some 0x10

/-- The levels of an N-format range below the root: shift, index bits (R361). -/
def lowLevels : List (Nat × Nat) := [(30, 4), (21, 9), (16, 5)]

/-- The address of the entry that a table pointer and a level of a walk name (R361, R362). -/
def nextEntry (e : Word) (va sh n : Nat) : Nat := (fld e 8 42).toNat * 256 + 8 * (va / 2 ^ sh % 2 ^ n)

/-- A walk from the entry at a device address on: the leaf and its page size, or the cause it fails with (R361, R362, R365).
`bad` says a reserved bit was seen on the way, which is judged after every V bit of the path; an address that names no unit
is a descriptor fault (R364). -/
def Mach.walkTable (m : Mach) (vd va : Nat) : List (Nat × Nat) → (size : Nat) → (bad : Bool) → (pa : Nat) →
    Except (BitVec 8) (Word × Nat)
  | levels, size, bad, pa =>
    match m.tableBad vd pa with
    | some c => .error c
    | none =>
      let e := m.tableWord vd pa
      if !leafV e then .error 0x04
      else if leafIs e then (if bad then .error 0x13 else .ok (e, size))
      else
        match levels with
        | [] => .error 0x13
        | (sh, n) :: rest => m.walkTable vd va rest (2 ^ sh) (bad || fld e 50 14 != 0 || fld e 1 6 != 0) (nextEntry e va sh n)

/-- The addresses of the entries such a walk reads. -/
def Mach.tablePath (m : Mach) (vd va : Nat) : List (Nat × Nat) → (pa : Nat) → List Nat
  | levels, pa =>
    if (m.tableBad vd pa).isSome then []
    else
      let e := m.tableWord vd pa
      match levels with
      | (sh, n) :: rest => pa :: (if leafV e && !leafIs e then m.tablePath vd va rest (nextEntry e va sh n) else [])
      | [] => [pa]

/-- The lowest range in force that covers an address: its XBASE and XROOT (R359). -/
def VDev.range (v : VDev) (va : Nat) : Option (Word × Word) :=
  let unit := va / 2 ^ 34
  ((List.range 8).find? (fun i => let x := vget v.xbase i 0; xbOn x && decide (xbStart x ≤ unit) && decide (unit ≤ xbEnd x))).map
    (fun i => (vget v.xbase i 0, vget v.xroot i 0))

/-- The levels below a range's root, and the address of the root's entry (R360, R361). -/
def rangeLevels (x : Word) : List (Nat × Nat) := if xbFmt x = 2 then [] else lowLevels
def rootEntry (x r : Word) (va : Nat) : Nat := xrAddr r % 2 ^ 50 + 8 * (va / 2 ^ 34 - xbStart x)

/-- The routine store of the walker engines: the boot loads every one of them with the same image (R367). -/
def Mach.routine (m : Mach) : Option (List Byte) := (m.dies[0]?).bind (fun d => (d.walkers[0]?).join)

/-- The leaf an H-format walk delivers (R366). -/
def hostLeaf (cnt wr : Bool) (frame : Nat) : Word :=
  (if wr then 0x87#64 else 0x83#64) ||| (2#64 <<< 61) ||| (if cnt then 1#64 <<< 58 else 0) |||
    BitVec.ofNat 64 ((0x10 * 2 ^ 44 + frame % 2 ^ 44) / 65536 * 65536)

/-- A walk of a host's tables (R366). -/
def Mach.hostPage (m : Mach) (x r : Word) (va : Nat) : Option TlbEntry :=
  (Config.hostWalk m.routine m.host (xrAddr r) va).map (fun (wr, frame) =>
    { va := va / 4096 * 4096, size := 4096, leaf := hostLeaf (xbCnth x) wr frame, base := frame })

/-- A walk of the lowest range that covers an address: the page as a TLB entry, or the cause it fails with (R359-R366). -/
def Mach.walk (m : Mach) (vd va : Nat) : Except (BitVec 8) TlbEntry :=
  let v := m.vd vd
  match v.range va with
  | none => .error 0x04
  | some (x, r) =>
    if xbFmt x = 1 then
      match (tget v.hostPages (va / 4096)).getD (m.hostPage x r va) with
      | some e => .ok e
      | none => .error 0x04
    else
      match m.walkTable vd va (rangeLevels x) (2 ^ 34) (fld r 50 14 != 0) (rootEntry x r va) with
      | .error c => .error c
      | .ok (l, size) =>
        if leafOk l size then
          let f := leafFrame l
          .ok { va := va / size * size, size := size, leaf := l, base := if leafTier l = 2 then f % 2 ^ 44 else f }
        else .error 0x13

/-- The lines of the mirror region that hold a walk along some entries: those it does not have captured (R409). -/
def Mach.pathHeld (m : Mach) (vd : Nat) (path : List Nat) : List Nat :=
  if m.faulty.isEmpty then [] else path.flatMap (fun pa => if (tget (m.vd vd).entries pa).isSome then [] else m.heldLines pa 8)

/-- A walk, whatever it comes to, has captured what it read: a rewrite is seen by a walk that begins after a TLBI (R275,
R367). An entry whose line waits for its repair has trapped, and is read then (R409). -/
def Mach.keepWalk (m : Mach) (vd va : Nat) : Mach :=
  match (m.vd vd).range va with
  | none => m
  | some (x, r) =>
    if xbFmt x = 1 then m.updVd vd (fun v =>
      { v with hostPages := tset v.hostPages (va / 4096) ((tget v.hostPages (va / 4096)).getD (m.hostPage x r va)) })
    else
      let path := m.tablePath vd va (rangeLevels x) (rootEntry x r va)
      (m.trap (m.pathHeld vd path)).updVd vd (fun v => { v with
        entries := path.foldl (fun t pa => if (m.pathHeld vd [pa]).isEmpty then tset t pa (m.tableWord vd pa) else t) v.entries })

/-- What the walks of a virtual device have captured and a TLBI of a pointer, or of 0 for all, makes them read anew (R367,
R371). -/
def Mach.dropWalks (m : Mach) (vd : Nat) (a : Word) : Mach :=
  let va := ptrOff a
  let path := match (m.vd vd).range va with
    | some (x, r) => if xbFmt x = 1 then [] else m.tablePath vd va (rangeLevels x) (rootEntry x r va)
    | none => []
  m.updVd vd (fun v => { v with
    entries := if a = 0 then [] else v.entries.filter (fun p => !path.contains p.1)
    hostPages := if a = 0 then [] else tdel v.hostPages (va / 4096) })

/-- The entry of a TLB that covers an address. -/
def tlbFind (t : List TlbEntry) (va : Nat) : Option TlbEntry :=
  t.find? (fun e => decide (e.va ≤ va) && decide (va < e.va + e.size))

/-- A TLB after a use of an entry: most recent first, at most n (R368). -/
def tlbUse (n : Nat) (t : List TlbEntry) (e : TlbEntry) : List TlbEntry := (e :: t.filter (fun x => x != e)).take n

/-- Whose translations are looked up: the S or T stream of a core, a Loupe context, or nobody's (the management core
and dispatch hardware walk afresh). -/
inductive Tlb where
  | s (gang rank : Nat)
  | t (gang rank : Nat)
  | l (die idx ctx : Nat)
  | none
  deriving DecidableEq, Repr

def Mach.tlb (m : Mach) : Tlb → List TlbEntry
  | .s g r => ((m.core? g r).map (·.tlbS)).getD []
  | .t g r => ((m.core? g r).map (·.tlbT)).getD []
  | .l d i c => ((m.ctx? d i c).map (·.tlb)).getD []
  | .none => []

/-- An entry noted in its TLB (R368: 128 entries for S, 64 for T; a Loupe core's is taken as S's, log entry 20). -/
def Mach.tlbNote (m : Mach) (t : Tlb) (e : TlbEntry) : Mach :=
  match t with
  | .s g r => m.updCore g r (fun c => { c with tlbS := tlbUse 128 c.tlbS e })
  | .t g r => m.updCore g r (fun c => { c with tlbT := tlbUse 64 c.tlbT e })
  | .l d i c => m.updCtx d i c (fun x => { x with tlb := tlbUse 128 x.tlb e })
  | .none => m

/-- The lines of the mirror region that hold the walk an access makes; none when its TLB covers the address (R409). -/
def Mach.walkHeld (m : Mach) (t : Tlb) (vd va : Nat) : List Nat :=
  if m.faulty.isEmpty || (tlbFind (m.tlb t) va).isSome then []
  else
    match (m.vd vd).range va with
    | none => []
    | some (x, r) => if xbFmt x = 1 then [] else m.pathHeld vd (m.tablePath vd va (rangeLevels x) (rootEntry x r va))

/-- What an access does (R365): R, W, or both. -/
inductive AccKind where
  | read | write | both
  deriving DecidableEq, Repr

/-- A translation through a TLB, with checks 1 to 4 of R365: the page, and the machine with the TLB updated; a walk that is
held leaves nothing in the TLB (R409). -/
def Mach.translate (m : Mach) (t : Tlb) (vd va : Nat) (k : AccKind) : Except (BitVec 8) (TlbEntry × Mach) :=
  match (match tlbFind (m.tlb t) va with
    | some e => Except.ok (e, m)
    | none => (m.walk vd va).map (fun e => (e, m.keepWalk vd va))) with
  | .error c => .error c
  | .ok (e, m) =>
    let pa := e.base + (va - e.va)
    let m' := if (m.walkHeld t vd va).isEmpty then m.tlbNote t e else m
    if leafTier e.leaf ≤ 1 && !(m.vd vd).owns pa then .error 0x05
    else if (k != .write && !leafR e.leaf) || (k != .read && !leafW e.leaf) then .error 0x05
    else .ok (e, m')

/-- What an access that fails leaves of its translation: the captures of its walk (R367). -/
def Mach.walked (m : Mach) (t : Tlb) (vd va : Nat) : Mach := if (tlbFind (m.tlb t) va).isSome then m else m.keepWalk vd va

/-- The captures of the walks of one machine, and the lines that they have made trap, in another (R367, R409). -/
def Mach.walksOf (m k : Mach) : Mach :=
  { m with
    io := { m.io with monitor := k.io.monitor }
    vds := m.vds.map (fun (v, (d : VDev)) => (v, { d with entries := (k.vd v).entries, hostPages := (k.vd v).hostPages })) }

/-- Whether the page of an address is a tree page, when it translates. -/
def Mach.treePage (m : Mach) (t : Tlb) (vd va : Nat) : Bool :=
  match (match tlbFind (m.tlb t) va with
    | some e => Except.ok e
    | none => m.walk vd va) with
  | .ok e => leafDepth e.leaf != 0
  | .error _ => false

/-- The place an address of a page is. -/
def TlbEntry.loc (e : TlbEntry) (va : Nat) : Loc :=
  if leafTier e.leaf = 2 then .host (e.base + (va - e.va)) else .dev (e.base + (va - e.va))

/-- R47's latency figure for a page, from a die (R369). -/
def pageLatency (die : Nat) (l : Word) : Nat :=
  match leafTier l with
  | 0 => if leafHome l = die then 360 else 720
  | 1 => 2400
  | _ => 7200

end Sys2Proof.Machine
end

