-- ==== Sys2Proof/Machine/Issue.lean ====
section
/-! DEFINITION. Issuing a word: decode checks and guard (R31, R32), its results, its faults and freezes; with the free
values and events to come that a word may need. -/
namespace Sys2Proof.Machine

/-! ## Free values, events to come, notices -/

/-- The k-th free number of the step being made (log entries 2 and 7). -/
def Mach.draw (m : Mach) (k : Nat) : Nat := Config.freeNat (64 * m.freeCtr + k)
/-- The k-th free choice of the step being made (log entry 7). -/
def Mach.flip (m : Mach) (k : Nat) : Bool := Config.freeBool (64 * m.freeCtr + k)
/-- The next step draws fresh values. -/
def Mach.fresh (m : Mach) : Mach := { m with freeCtr := m.freeCtr + 1 }

/-- An event to come on a clock. -/
def Mach.schedule (m : Mach) (clk : Clock) (at_ : Nat) (ev : Instr) : Mach := { m with agenda := m.agenda ++ [⟨clk, at_, ev⟩] }

/-- An event to come a drawn number of master cycles from now (log entry 7). -/
def Mach.scheduleDrawn (m : Mach) (k : Nat) (ev : Instr) : Mach := m.schedule .mc (m.time + m.draw k) ev

/-- An event taken off the agenda. -/
def Mach.unschedule (m : Mach) (ev : Instr) : Mach := { m with agenda := m.agenda.filter (fun d => d.ev != ev) }

/-- A notice posted to the resident kernel (R393, R407). -/
def Mach.notify (m : Mach) (n : Notice) : Mach := { m with mgmt := { m.mgmt with notices := m.mgmt.notices ++ [n] } }

/-- A new key for a table. -/
def Mach.newId (m : Mach) : Nat × Mach := (m.nextId, { m with nextId := m.nextId + 1 })

/-- The cluster a gang is bound in. -/
def Mach.clusterOf (m : Mach) (g : Nat) : Nat × Nat := ((m.gang? g).map (fun x => (x.die, x.cluster))).getD (0, 0)

/-- Pulses a gang's cluster has passed. -/
def Mach.pulses (m : Mach) (d k : Nat) : Nat := ((m.cluster? d k).map (·.pulses)).getD 0

/-! ## The word being run -/

/-- The scalar side of the agent whose word is run. -/
def State.seq (s : State) : Seq := (s.m.seq? s.cur).getD {}
/-- The registers of its stream. -/
def State.regs (s : State) : StreamRegs := s.seq.regs s.cur.strm
/-- The declarations in force for it. -/
def State.hdr (s : State) : Header := s.m.hdr s.cur
/-- The ec the word issues in. -/
def State.ec (s : State) : Nat := s.m.ecOf s.cur
/-- The core the word runs on; for a Loupe core an empty one. -/
def State.core (s : State) : Core :=
  match s.cur with
  | .core g r _ => (s.m.core? g r).getD {}
  | .loupe _ _ _ => {}
/-- The gang the word runs in. -/
def State.gang (s : State) : Gang :=
  match s.cur with
  | .core g _ _ => (s.m.gang? g).getD { job := 0, idx := 0, vd := 0, die := 0, cluster := 0, quadMask := 0, save := 0 }
  | .loupe _ _ _ => { job := 0, idx := 0, vd := 0, die := 0, cluster := 0, quadMask := 0, save := 0 }
/-- Number of the gang, and rank. -/
def State.gno (s : State) : Nat := match s.cur with | .core g _ _ => g | .loupe _ _ _ => 0
def State.rank (s : State) : Nat := match s.cur with | .core _ r _ => r | .loupe _ _ _ => 0
/-- Whether a Loupe core runs the word. -/
def State.onLoupe (s : State) : Bool := match s.cur with | .core _ _ _ => false | .loupe _ _ _ => true
/-- The virtual device. -/
def State.vd (s : State) : Nat := s.m.vdOf s.cur

def State.updSeq (s : State) (f : Seq → Seq) : State := { s with m := s.m.updSeq s.cur f }
def State.updRegs (s : State) (f : StreamRegs → StreamRegs) : State := s.updSeq (fun q => q.updRegs s.cur.strm f)
def State.updCore (s : State) (f : Core → Core) : State :=
  match s.cur with
  | .core g r _ => { s with m := s.m.updCore g r f }
  | .loupe _ _ _ => s
def State.updGang (s : State) (f : Gang → Gang) : State :=
  match s.cur with
  | .core g _ _ => { s with m := s.m.updGang g f }
  | .loupe _ _ _ => s
def State.updIss (s : State) (f : Issue → Issue) : State := { s with iss := s.iss.map f }

/-- A scalar source code read at issue (R23, R33). An unwritten latch reads a free value (log entry 2). -/
def State.rd (s : State) (code : Nat) : Word :=
  s.seq.readS s.cur.strm (Config.freeWord (64 * s.m.freeCtr + code)) code
/-- A vector source code read at issue. -/
def State.rdV (s : State) (code : Nat) : Row := s.core.readV (Config.freeRow (64 * s.m.freeCtr + code)) code
/-- A guard code read at issue (R32, R34), complemented for a control word with N = 1 (R40). -/
def State.guard (s : State) (g : BitVec 4) (n : Bool := false) : Bool := s.seq.guard s.cur.strm g != n

/-! ## Faults and freezes of a word -/

/-- Why a word does not take effect: a fault, or a freeze before its ec (R63). -/
inductive Stop where
  | fault (e : Exc)
  | hold (k : CauseKind)
  deriving DecidableEq, Repr

/-- A test of a word: the fault it raises when it fails. -/
def need (ok : Bool) (cause : BitVec 8) (addr : Word := 0) : Except Stop Unit :=
  if ok then .ok () else .error (.fault { cause := cause, addr := addr })

/-- A test of what a translated address holds: a GLB page has been walked by then (R367). -/
def needThere (ok : Bool) (cause : BitVec 8) (addr : Word) : Except Stop Unit :=
  if ok then .ok () else .error (.fault { cause := cause, addr := addr, walked := ptrSpace addr == 0 })

/-- A test that freezes the gang before the word's ec. -/
def await (ok : Bool) (k : CauseKind) : Except Stop Unit := if ok then .ok () else .error (.hold k)

/-- Stream code of a report (R393). -/
def strCode (st : Stream) : BitVec 2 := BitVec.ofNat 2 st.idx

/-- Causes whose report carries an address (R393). -/
def reportsAddr (cause : BitVec 8) : Bool :=
  cause == 0x03 || cause == 0x04 || cause == 0x05 || cause == 0x06 || cause == 0x10 || cause == 0x13

/-- Causes whose report carries a race record (R393). -/
def reportsRace (cause : BitVec 8) : Bool := cause == 0x09 || cause == 0x0A

/-- A Loupe program stops with its PC at a faulting word, with its report and a notice (R345). -/
def Mach.stopLoupe (m : Mach) (d i c : Nat) (e : Exc) (pc : BitVec 14) (kind : BitVec 2) : Mach :=
  ({ m with hits := m.hits.erase (.loupe d i c) }.updCtx d i c (fun x => { x with
    run := .stopped
    seq := x.seq.updRegs .s (fun r => { r with pc := pc })
    report := some { race := if reportsRace e.cause then e.race else 0, addr := if reportsAddr e.cause then e.addr else 0
                     code := if e.cause = 0x11 then e.code.zeroExtend 16 else 0, pc := pc, strm := 0,
                     rank := BitVec.ofNat 6 i, kind := kind, cause := e.cause, time := BitVec.ofNat 64 m.time, halt := e.halt } })).notify
    (.loupeStop d i c)

/-- The TLB of the S stream, or of the Loupe context. -/
def State.tlb (s : State) : Tlb :=
  match s.cur with
  | .core g r _ => .s g r
  | .loupe d i c => .l d i c

/-- The captures that a word's failing walk leaves (R367). -/
def State.walkedTo (s : State) (p : Word) : State := { s with m := s.m.walked s.tlb s.vd (ptrOff p) }

/-- A word meets a fault. In a gang the ec records it and its report is decided when every word of the ec has issued
(R392); a Loupe program stops there (R345). The word changes nothing. -/
def State.raise (s : State) (e : Exc) : State :=
  let s := if e.walked then s.walkedTo e.addr else s
  match s.cur with
  | .core _ _ _ => s.updIss (fun i => { i with faults := i.faults ++ [⟨s.cur, s.regs.pc, s.ec, e⟩], used := i.used + 1 })
  | .loupe d i c => { s with m := s.m.stopLoupe d i c e s.regs.pc 0 }

/-- The cause of a freeze that a word of the current agent begins (R66). -/
def State.cause (s : State) (k : CauseKind) (began : Nat) : Cause :=
  { kind := k, rank := s.rank, strm := s.cur.strm, pc := s.regs.pc, seq := s.ec, began := began }

/-- A walker fault record posted to the resident kernel (R370), and its number. -/
def Mach.postPage (m : Mach) (va : Word) (write : Bool) (vd : Nat) (who : Who) (goix : BitVec 14) : Nat × Mach :=
  let (id, m) := m.newId
  (id, m.notify (.page id va write vd who goix))

/-- A word asks for a freeze before its ec (R63). A Loupe context, which no word freezes, waits for its page (R370). -/
def State.hold (s : State) (k : CauseKind) : State :=
  match s.cur, k with
  | .loupe d i c, .pageFault _ va write =>
    let (id, m) := s.m.postPage va write s.vd (.agent s.cur) 0
    { s with m := m.updCtx d i c (fun x => { x with run := .service id }) }
  | _, _ => s.updIss (fun i => { i with holds := i.holds ++ [s.cause k s.m.time] })

/-- A word begins a freeze from the next ec on (R63): the freeze counts from the master cycle that follows the one of the word's
ec, as R204 says of a lease freeze (log entry 38). -/
def State.freeze (s : State) (k : CauseKind) : State :=
  s.updGang (fun g => { g with causes := g.causes ++ [s.cause k (s.m.time + 1)] })

/-- What a word that stops leaves. -/
def State.stopped (s : State) : Stop → State
  | .fault e => s.raise e
  | .hold k => match k with
    | .pageFault _ p _ => (s.walkedTo p).hold k
    | _ => s.hold k

/-! ## Issue of a word -/

/-- What a word must pass before its guard counts, in the order of R31: a form allowed by the state it issues in (check
3), resources (check 4), privilege (check 5). -/
inductive Decl where
  | form (ok : Bool)
  | name (n : Need)
  | priv
  deriving DecidableEq, Repr

def Decl.ok (h : Header) (rrb : BitVec 5) : Decl → Bool
  | .form ok => ok
  | .name n => n.ok h rrb
  | .priv => h.priv

/-- The cause of a declaration that fails. -/
def Decl.cause : Decl → BitVec 8
  | .form _ => 0x01
  | .name _ => 0x02
  | .priv => 0x12

/-- The ec of a word has been used: group cycle, count of the streams that used the ec (R73), and fresh free values. -/
def State.issued (s : State) : State :=
  let s := s.updRegs (fun r => { r with gcyc := r.gcyc + 1 })
  let s := s.updIss (fun i => { i with used := i.used + 1 })
  let m := match s.cur with
    | .core _ _ _ => s.m
    | .loupe d i c => s.m.updCtx d i c (fun x => { x with nextSeq := x.nextSeq + 1 })
  { s with m := m.fresh }

/-- The stream goes on at the next word. -/
def State.advance (s : State) : State := s.issued.updRegs (fun r => { r with pc := r.pc + 1 })

/-- Whether the next word lies in the declared section; falling past its end is a resource fault at this word (R13). -/
def State.falls (s : State) : Bool := decide (s.regs.pc.toNat + 1 < vget s.hdr.csz s.cur.strm.idx 0)

/-- The word has passed; the stream falls through. -/
def State.fall (s t : State) : State := if s.falls then t.advance else s.raise { cause := 0x02 }

/-- A word under checks 3 to 5 of R31 that its state decides, and its guard: `body` is its effect when the guard is true, and says why it does
not take effect when it does not. The stream then goes on at the next word (log entry 11). -/
def State.word (s : State) (decls : List Decl) (on : Bool) (body : State → Except Stop State) :
    Host.Outcome State Fault Refusal :=
  match s.m.seq? s.cur with
  | none => .fault .noAgent
  | some _ =>
    match decls.find? (fun d => !d.ok s.hdr s.regs.rrb) with
    | some d => .next (s.raise { cause := d.cause })
    | none =>
      if on then
        match body s with
        | .error e => .next (s.stopped e)
        | .ok t => .next (s.fall t)
      else .next (s.fall s)

/-- A control word whose `body` leaves the PC where the stream goes on, its own cycle counted; nullified, the stream
falls through (R83). -/
def State.jump (s : State) (decls : List Decl) (on : Bool) (body : State → Except Stop State) :
    Host.Outcome State Fault Refusal :=
  match s.m.seq? s.cur with
  | none => .fault .noAgent
  | some _ =>
    match decls.find? (fun d => !d.ok s.hdr s.regs.rrb) with
    | some d => .next (s.raise { cause := d.cause })
    | none =>
      if on then
        match body s.issued with
        | .error e => .next (s.stopped e)
        | .ok t => .next t
      else .next (s.fall s)

/-- Scalar names a word uses, as declarations. -/
def sn (l : List Nat) : List Decl := l.map (fun n => .name (.s n))
/-- Vector names a word uses, as declarations. -/
def vn (l : List Nat) : List Decl := l.map (fun n => .name (.v n))

/-! ## Results of a word -/

/-- A result due `lat` ec after issue (R47, R48); on a Loupe core it lands at once, or with its reply (R46, log
entry 10). -/
def State.emit (s : State) (lat : Nat) (p : Pend) : State :=
  match s.cur with
  | .core g r st =>
    let p := { p with due := s.ec + lat, strm := st, seq := s.ec, pc := s.regs.pc }
    { s with m := s.m.updCore g r (fun c => { c with seq := { c.seq with pend := c.seq.pend ++ [p] } }) }
  | .loupe _ _ _ => s.updSeq (fun q => if p.reply.isSome then { q with pend := q.pend ++ [{ p with seq := s.ec, pc := s.regs.pc }] } else q.land p)

/-- An empty result to be filled in by `emit`. -/
def pend0 : Pend := { due := 0, strm := .s, seq := 0, pc := 0 }

/-- The latch a result of an S word also reaches (R70). -/
def State.latchOf {α : Type} (s : State) (v : α) : Option (Nat × Nat × α) := some (s.regs.gcyc % 8, s.regs.gser, v)

/-- A scalar result: into s[d], unless W = 1, and into the latch (R34, R70). -/
def State.resS (s : State) (lat : Nat) (d : BitVec 6) (w : Bool) (v : Word) (f : Flags := 0) : State :=
  s.emit lat { pend0 with
    writes := if w then [] else [.s (physS s.regs.rrb d.toNat) v]
    latchS := s.latchOf v, flags := f }

/-- A predicate result (R70: no latch). -/
def State.resP (s : State) (lat : Nat) (d : Nat) (v : Bool) : State := s.emit lat { pend0 with writes := [.p d v] }

/-- A group switch of the current stream: its latches become undefined and its next word is cycle 0 (R71). -/
def Seq.groupSwitch (q : Seq) (st : Stream) : Seq :=
  let q := q.updRegs st (fun r => { r with gcyc := 0, gser := r.gser + 1 })
  if st.idx = 0 then { q with latch := Vector.replicate 8 none } else q

/-- A group switch of a stream of a core. -/
def Core.groupSwitch (c : Core) (st : Stream) : Core :=
  let c := { c with seq := c.seq.groupSwitch st }
  if st = .v then { c with vec := { c.vec with latch := Vector.replicate 8 none } } else c

/-- A group switch of the current stream. -/
def State.groupSwitch (s : State) : State :=
  match s.cur with
  | .core _ _ st => s.updCore (fun c => c.groupSwitch st)
  | .loupe _ _ _ => s.updSeq (fun q => q.groupSwitch .s)

end Sys2Proof.Machine
end

