-- ==== Sys2Proof/Machine/Mirror.lean ====
section
/-! DEFINITION. The error logs (R413-R415), the crash of the resident kernel (R405-R407), and the repair of a line of the mirror
region by the monitor pair (R408, R409). -/
namespace Sys2Proof.Machine

/-! ## Logs (R413-R415) -/

/-- A ring of 1024 log entries (R415). -/
def logPush (l : List (BitVec 128)) (lost : BitVec 32) (e : BitVec 128) : List (BitVec 128) × BitVec 32 :=
  if l.length ≥ 1024 then (l.drop 1 ++ [e], lost + 1) else (l ++ [e], lost)

/-- Codeword address of an array log entry. -/
def logCw (e : BitVec 128) : Nat := (e.extractLsb' 84 44).toNat

/-- An array log entry: its symbol is one of the 68 of a codeword; that of an uncorrectable codeword is free (R413). -/
def Mach.logArray (m : Mach) (pa sym : Nat) (ue mirr : Bool) : Mach :=
  let count := min 255 ((tget m.mgmt.corrected (pa / 64)).getD 0)
  let e := BitVec.ofNat 128 (pa / 64 % 2 ^ 44 * 2 ^ 84 + sym % 68 * 2 ^ 77 + (if ue then 2 ^ 76 else 0) + (if mirr then 2 ^ 75 else 0) +
    count * 2 ^ 64 + m.time % 2 ^ 64)
  let (l, lost) := logPush m.mgmt.arrayLog m.mgmt.arrayLost e
  { m with mgmt := { m.mgmt with arrayLog := l, arrayLost := lost } }

/-- A link log entry (R414). -/
def Mach.logLink (m : Mach) (f : LinkFault) (lane : BitVec 8) (act : BitVec 2) (spare : Bool) (time : Nat) : Mach :=
  let e := f.die ++ f.layer ++ f.chan ++ f.group ++ f.beat ++ f.retry ++ lane ++ act ++ BitVec.ofBool spare ++ 0#37 ++ BitVec.ofNat 64 time
  let (l, lost) := logPush m.mgmt.linkLog m.mgmt.linkLost e
  { m with mgmt := { m.mgmt with linkLog := l, linkLost := lost } }

/-- A read has met lines that cannot be corrected: they are logged (R411). -/
def Mach.logBad (m : Mach) (l : Loc) (n : Nat) : Mach :=
  match l with
  | .dev pa => ((m.badLines pa n).filter (fun q => !m.mirrored (q * 64) || m.io.lost.contains q)).foldl
      (fun m q => m.fresh.logArray (q * 64) (m.draw 49) true false) m
  | _ => m

/-! ## The crash (R405-R407) -/

/-- Master cycles of a millisecond (R105). -/
def mcPerMs : Nat := 3600000

/-- The resident kernel has crashed: kernel hold begins, and the first warm start, which resets the general-purpose cores, drops their
shared cache and starts the kernel with its WARM flag set (R405-R407). -/
def Mach.crash (m : Mach) : Mach :=
  if m.mgmt.hold || m.mgmt.dead then m
  else
    let m := m.unschedule .heartbeatTimeout
    { m with
      mgmt := { m.mgmt with hold := true, warm := true, warmAt := m.time, warmFails := 0 }
      io := { m.io with cores := Vector.replicate 16 false, cache := [] } }.schedule .mc (m.time + 2000 * mcPerMs) .warmStartRetry

/-! ## The monitor pair (R409) -/

/-- The primary bytes of a 64-byte line, or of its 64 KiB page, copied from the mirror (R409). -/
def Mach.fromMirror (m : Mach) (r : Mirror) (pa n : Nat) : Mach :=
  let a := max (pa / n * n) (r.die * 2 ^ 44 + r.base)
  match r.twin a with
  | none => m
  | some t =>
    let k := min n (r.die * 2 ^ 44 + r.base + r.size - a)
    { m with
      dev := Memory.blit m.dev a k ((m.dev.filter (fun c => decide (t ≤ c.1) && decide (c.1 < t + k))).map (fun c => (c.1 - t, c.2)))
      faulty := m.faulty.filter (fun q => !(decide (a ≤ q * 64) && decide (q * 64 < a + k))) }

/-- The repair of a line that has trapped: written from its mirror to the primary, and where the readback fails its page remapped
to a spare one copied from the mirror; with the mirror bad too, of which `mirrorGood` says whether it shows now, the kernel has
crashed, and reads of the line return 0x10 (R409). -/
def Mach.repair (m : Mach) (q : Nat) (mirrorGood readback : Bool) : Mach :=
  let pa := q * 64
  let m := m.fresh
  let sym := m.draw 49
  let m := { m with io := { m.io with monitor := m.io.monitor.filter (· != q) } }
  match m.mgmt.mirror.filter (fun r => (r.twin pa).isSome) with
  | none => m
  | some r =>
    if !mirrorGood || (r.twin pa).any (fun t => m.faulty.contains (t / 64)) then Mach.crash { m.logArray pa sym true false with io := { m.io with lost := m.io.lost ++ [q] } }
    else
      let m := (m.logArray pa sym true true).fromMirror r pa 64
      if readback || m.mgmt.remaps.length ≥ 64 || m.mgmt.remaps.any (fun r => r.1 == pa / 65536) then m
      else { m with mgmt := { m.mgmt with remaps := m.mgmt.remaps ++ [(pa / 65536, m.mgmt.remaps.length)] } }.fromMirror r pa 65536

/-- The lines of the mirror region that a read meets are repaired before it; the choices are the step's. -/
def Mach.mend (m : Mach) (l : Loc) (n : Nat) : Mach :=
  match l with
  | .dev pa => (m.heldLines pa n).foldl (fun m q => m.fresh.repair q (m.flip 20) (m.flip 21)) m
  | _ => m

/-- The lines of the mirror region that hold a walk are repaired before it (R409). -/
def Mach.mendWalk (m : Mach) (t : Tlb) (vd va : Nat) : Mach := (m.walkHeld t vd va).foldl (fun m q => m.mend (.dev (64 * q)) 64) m

/-- An access waits: for the repair of a line that it reads or that its walk reads, `walk` being the lines that held the walk, or
for a channel whose transfer is tried again (R409, R412). -/
def Mach.stalled (m : Mach) (l : Loc) (n : Nat) (write : Bool) (walk : List Nat := []) : Bool :=
  (match l with
   | .dev pa => (!write && !(m.heldLines pa n).isEmpty) || m.links.any (fun (f, t) => decide (m.time < t) && linkHits f pa n)
   | _ => false) || walk.any (fun q => !(m.heldLines (64 * q) 64).isEmpty)

/-- The walk of an access has met a line that could not be repaired: the access returns 0x10 (R409). -/
def Mach.walkLost (m : Mach) (walk : List Nat) : Bool := walk.any (fun q => m.lineError (64 * q) 64)

/-- The lines that an access waits for have trapped to the monitor pair. -/
def Mach.trapFor (m : Mach) (l : Loc) (n : Nat) : Mach := match l with | .dev pa => m.trap (m.heldLines pa n) | _ => m

/-- The pair takes up what has trapped to it, each line at a drawn time (R409). -/
def Mach.serveMonitor (m : Mach) : Mach :=
  m.io.monitor.foldl (fun m q => if m.agenda.any (fun d => match d.ev with | .mirrorRepair pa _ _ => pa == q * 64 | _ => false) then m
    else let m := m.fresh; m.scheduleDrawn 55 (.mirrorRepair (q * 64) (m.flip 20) (m.flip 21))) m

end Sys2Proof.Machine
end

