-- ==== Sys2Proof/Machine/Scalar.lean ====
section
/-! DEFINITION. The S words of 08_scalar_ops.md that touch no memory: integer groups, compares, predicate logic,
immediates, pointer words, scalar f32 and its conversions (R142-R154). -/
namespace Sys2Proof.Machine

/-- The destination a word names: none when W = 1 (R34). -/
def dst (d : BitVec 6) (w : Bool) : List Nat := if w then [] else [d.toNat]

/-- An SR word of two sources with a scalar result (R142). -/
def sr2 (lat : Nat) (f : Word → Word → Word) (d a b : BitVec 6) (w : Bool) (g : BitVec 4) (s : State) :
    Host.Outcome State Fault Refusal :=
  s.word (sn (dst d w ++ [a.toNat, b.toNat])) (s.guard g)
    (fun s => .ok (s.resS lat d w (f (s.rd a.toNat) (s.rd b.toNat))))

/-- An SR word of one source with a scalar result (R142). -/
def sr1 (lat : Nat) (f : Word → Word) (d a : BitVec 6) (w : Bool) (g : BitVec 4) (s : State) :
    Host.Outcome State Fault Refusal :=
  s.word (sn (dst d w ++ [a.toNat])) (s.guard g) (fun s => .ok (s.resS lat d w (f (s.rd a.toNat))))

/-- An SI word: one source and an immediate already extended (R145). -/
def si1 (f : Word → Word) (d a : BitVec 6) (g : BitVec 4) (s : State) : Host.Outcome State Fault Refusal :=
  s.word (sn [d.toNat, a.toNat]) (s.guard g) (fun s => .ok (s.resS 1 d false (f (s.rd a.toNat))))

/-- Signed minimum and maximum, natural minimum and maximum (R143). -/
def sminW (a b : Word) : Word := if b.slt a then b else a
def smaxW (a b : Word) : Word := if a.slt b then b else a
def nminW (a b : Word) : Word := if b.ult a then b else a
def nmaxW (a b : Word) : Word := if a.ult b then b else a

/-- The shift amount: bits [5:0] (R143). -/
def amount (b : Word) : Nat := (b.extractLsb' 0 6).toNat

/-- Leading zero bits; 64 for 0 (R143). -/
def clzW (a : Word) : Word := BitVec.ofNat 64 (64 - bitLen a.toNat)
/-- One bits of a number below 2^n. -/
def popN (n x : Nat) : Nat := ((List.range n).filter (fun i => x.testBit i)).length
/-- One bits (R143). -/
def popW (a : Word) : Word := BitVec.ofNat 64 (popN 64 a.toNat)

/-- High half of the signed and of the natural product (R144). -/
def mulhW (a b : Word) : Word := BitVec.ofInt 64 (a.toInt * b.toInt / 2 ^ 64)
def mulhnW (a b : Word) : Word := BitVec.ofNat 64 (a.toNat * b.toNat / 2 ^ 64)

/-- Division with the corners of R123: a zero divisor gives all ones and the dividend. -/
def divW (a b : Word) : Word := if b = 0 then BitVec.allOnes 64 else BitVec.ofInt 64 (a.toInt.tdiv b.toInt)
def remW (a b : Word) : Word := if b = 0 then a else BitVec.ofInt 64 (a.toInt.tmod b.toInt)
def divnW (a b : Word) : Word := if b = 0 then BitVec.allOnes 64 else BitVec.ofNat 64 (a.toNat / b.toNat)
def remnW (a b : Word) : Word := if b = 0 then a else BitVec.ofNat 64 (a.toNat % b.toNat)

/-- The conditions of R147. -/
def condW (cc : BitVec 3) (a b : Word) : Bool :=
  match cc.toNat with
  | 0 => a == b
  | 1 => a != b
  | 2 => a.slt b
  | 3 => a.sle b
  | 4 => a.ult b
  | 5 => a.ule b
  | _ => (a &&& b) != 0

/-- ADD: a + b modulo 2^64 (R143). -/
def execAdd (d a b : BitVec 6) (w : Bool) (g : BitVec 4) (s : State) : Host.Outcome State Fault Refusal :=
  sr2 1 (fun a b => a + b) d a b w g s

/-- SUB: a − b modulo 2^64 (R143). -/
def execSub (d a b : BitVec 6) (w : Bool) (g : BitVec 4) (s : State) : Host.Outcome State Fault Refusal :=
  sr2 1 (fun a b => a - b) d a b w g s

/-- AND (R143). -/
def execAnd (d a b : BitVec 6) (w : Bool) (g : BitVec 4) (s : State) : Host.Outcome State Fault Refusal :=
  sr2 1 (fun a b => a &&& b) d a b w g s

/-- OR (R143). -/
def execOr (d a b : BitVec 6) (w : Bool) (g : BitVec 4) (s : State) : Host.Outcome State Fault Refusal :=
  sr2 1 (fun a b => a ||| b) d a b w g s

/-- XOR (R143). -/
def execXor (d a b : BitVec 6) (w : Bool) (g : BitVec 4) (s : State) : Host.Outcome State Fault Refusal :=
  sr2 1 (fun a b => a ^^^ b) d a b w g s

/-- ANDN: a AND NOT b (R143). -/
def execAndn (d a b : BitVec 6) (w : Bool) (g : BitVec 4) (s : State) : Host.Outcome State Fault Refusal :=
  sr2 1 (fun a b => a &&& ~~~b) d a b w g s

/-- MIN: signed minimum (R143). -/
def execMin (d a b : BitVec 6) (w : Bool) (g : BitVec 4) (s : State) : Host.Outcome State Fault Refusal :=
  sr2 1 sminW d a b w g s

/-- MAX: signed maximum (R143). -/
def execMax (d a b : BitVec 6) (w : Bool) (g : BitVec 4) (s : State) : Host.Outcome State Fault Refusal :=
  sr2 1 smaxW d a b w g s

/-- MINN: natural minimum (R143). -/
def execMinn (d a b : BitVec 6) (w : Bool) (g : BitVec 4) (s : State) : Host.Outcome State Fault Refusal :=
  sr2 1 nminW d a b w g s

/-- MAXN: natural maximum (R143). -/
def execMaxn (d a b : BitVec 6) (w : Bool) (g : BitVec 4) (s : State) : Host.Outcome State Fault Refusal :=
  sr2 1 nmaxW d a b w g s

/-- SHL (R143). -/
def execShl (d a b : BitVec 6) (w : Bool) (g : BitVec 4) (s : State) : Host.Outcome State Fault Refusal :=
  sr2 1 (fun a b => a <<< amount b) d a b w g s

/-- SHR: zeros shifted in (R143). -/
def execShr (d a b : BitVec 6) (w : Bool) (g : BitVec 4) (s : State) : Host.Outcome State Fault Refusal :=
  sr2 1 (fun a b => a >>> amount b) d a b w g s

/-- SAR: copies of the sign shifted in (R143). -/
def execSar (d a b : BitVec 6) (w : Bool) (g : BitVec 4) (s : State) : Host.Outcome State Fault Refusal :=
  sr2 1 (fun a b => a.sshiftRight (amount b)) d a b w g s

/-- ROTR (R143). -/
def execRotr (d a b : BitVec 6) (w : Bool) (g : BitVec 4) (s : State) : Host.Outcome State Fault Refusal :=
  sr2 1 (fun a b => a.rotateRight (amount b)) d a b w g s

/-- CLZ (R143). -/
def execClz (d a : BitVec 6) (w : Bool) (g : BitVec 4) (s : State) : Host.Outcome State Fault Refusal :=
  sr1 1 clzW d a w g s

/-- POPC (R143). -/
def execPopc (d a : BitVec 6) (w : Bool) (g : BitVec 4) (s : State) : Host.Outcome State Fault Refusal :=
  sr1 1 popW d a w g s

/-- MUL: low half of the product (R144). -/
def execMul (d a b : BitVec 6) (w : Bool) (g : BitVec 4) (s : State) : Host.Outcome State Fault Refusal :=
  sr2 3 (fun a b => a * b) d a b w g s

/-- MULH (R144). -/
def execMulh (d a b : BitVec 6) (w : Bool) (g : BitVec 4) (s : State) : Host.Outcome State Fault Refusal :=
  sr2 3 mulhW d a b w g s

/-- MULHN (R144). -/
def execMulhn (d a b : BitVec 6) (w : Bool) (g : BitVec 4) (s : State) : Host.Outcome State Fault Refusal :=
  sr2 3 mulhnW d a b w g s

/-- DIV: quotient toward zero (R123, R144). -/
def execDiv (d a b : BitVec 6) (w : Bool) (g : BitVec 4) (s : State) : Host.Outcome State Fault Refusal :=
  sr2 20 divW d a b w g s

/-- DIVN (R123, R144). -/
def execDivn (d a b : BitVec 6) (w : Bool) (g : BitVec 4) (s : State) : Host.Outcome State Fault Refusal :=
  sr2 20 divnW d a b w g s

/-- REM: sign of the dividend (R123, R144). -/
def execRem (d a b : BitVec 6) (w : Bool) (g : BitVec 4) (s : State) : Host.Outcome State Fault Refusal :=
  sr2 20 remW d a b w g s

/-- REMN (R123, R144). -/
def execRemn (d a b : BitVec 6) (w : Bool) (g : BitVec 4) (s : State) : Host.Outcome State Fault Refusal :=
  sr2 20 remnW d a b w g s

/-- CMP.cc: a predicate from a condition (R147). -/
def execCmp (d a b : BitVec 6) (cc : BitVec 3) (g : BitVec 4) (s : State) : Host.Outcome State Fault Refusal :=
  s.word (sn [a.toNat, b.toNat]) (s.guard g)
    (fun s => .ok (s.resP 1 d.toNat (condW cc (s.rd a.toNat) (s.rd b.toNat))))

/-- A word of two predicates (R148). -/
def pp2 (f : Bool → Bool → Bool) (d a b : BitVec 6) (g : BitVec 4) (s : State) : Host.Outcome State Fault Refusal :=
  s.word [] (s.guard g) (fun s => .ok (s.resP 1 d.toNat (f (s.seq.readP a.toNat) (s.seq.readP b.toNat))))

/-- PAND (R148). -/
def execPand (d a b : BitVec 6) (g : BitVec 4) (s : State) : Host.Outcome State Fault Refusal := pp2 (· && ·) d a b g s
/-- POR (R148). -/
def execPor (d a b : BitVec 6) (g : BitVec 4) (s : State) : Host.Outcome State Fault Refusal := pp2 (· || ·) d a b g s
/-- PXOR (R148). -/
def execPxor (d a b : BitVec 6) (g : BitVec 4) (s : State) : Host.Outcome State Fault Refusal := pp2 (· != ·) d a b g s
/-- PNOT (R148). -/
def execPnot (d a : BitVec 6) (g : BitVec 4) (s : State) : Host.Outcome State Fault Refusal :=
  s.word [] (s.guard g) (fun s => .ok (s.resP 1 d.toNat (!s.seq.readP a.toNat)))
/-- PTOS: p0-p7 packed, bit 0 always 1 (R148). -/
def execPtos (d : BitVec 6) (w : Bool) (g : BitVec 4) (s : State) : Host.Outcome State Fault Refusal :=
  s.word (sn (dst d w)) (s.guard g) (fun s => .ok (s.resS 1 d w ((s.seq.preg ||| 1#8).zeroExtend 64)))
/-- STOP: bits 1-7 of a scalar into p1-p7 (R148). -/
def execStop (a : BitVec 6) (g : BitVec 4) (s : State) : Host.Outcome State Fault Refusal :=
  s.word (sn [a.toNat]) (s.guard g) (fun s => .ok (s.emit 1 { pend0 with
    writes := (List.range 7).map (fun i => Write.p (i + 1) ((s.rd a.toNat).getLsbD (i + 1))) }))

/-! ## Immediates (R145-R147) -/

/-- ADDI (R145). -/
def execAddi (d a : BitVec 6) (imm : BitVec 14) (g : BitVec 4) (s : State) : Host.Outcome State Fault Refusal :=
  si1 (fun a => a + imm.signExtend 64) d a g s

/-- ANDI (R145). -/
def execAndi (d a : BitVec 6) (imm : BitVec 14) (g : BitVec 4) (s : State) : Host.Outcome State Fault Refusal :=
  si1 (fun a => a &&& imm.signExtend 64) d a g s

/-- ORI (R145). -/
def execOri (d a : BitVec 6) (imm : BitVec 14) (g : BitVec 4) (s : State) : Host.Outcome State Fault Refusal :=
  si1 (fun a => a ||| imm.signExtend 64) d a g s

/-- XORI (R145). -/
def execXori (d a : BitVec 6) (imm : BitVec 14) (g : BitVec 4) (s : State) : Host.Outcome State Fault Refusal :=
  si1 (fun a => a ^^^ imm.signExtend 64) d a g s

/-- SHLI: 0 to 63 (R145). -/
def execShli (d a : BitVec 6) (imm : BitVec 14) (g : BitVec 4) (s : State) : Host.Outcome State Fault Refusal :=
  si1 (fun a => a <<< imm.toNat) d a g s

/-- SHRI (R145). -/
def execShri (d a : BitVec 6) (imm : BitVec 14) (g : BitVec 4) (s : State) : Host.Outcome State Fault Refusal :=
  si1 (fun a => a >>> imm.toNat) d a g s

/-- SARI (R145). -/
def execSari (d a : BitVec 6) (imm : BitVec 14) (g : BitVec 4) (s : State) : Host.Outcome State Fault Refusal :=
  si1 (fun a => a.sshiftRight imm.toNat) d a g s

/-- CMPI.cc: against a sign-extended 11-bit immediate (R147). -/
def execCmpi (d a : BitVec 6) (cc : BitVec 3) (imm : BitVec 11) (g : BitVec 4) (s : State) :
    Host.Outcome State Fault Refusal :=
  s.word (sn [a.toNat]) (s.guard g) (fun s => .ok (s.resP 1 d.toNat (condW cc (s.rd a.toNat) (imm.signExtend 64))))

/-- LIM: sext(IMM20) << 12 (R146). -/
def execLim (d : BitVec 6) (imm : BitVec 20) (g : BitVec 4) (s : State) : Host.Outcome State Fault Refusal :=
  s.word (sn [d.toNat]) (s.guard g) (fun s => .ok (s.resS 1 d false (imm.signExtend 64 <<< 12)))

/-- Bits [51:32] replaced (R146). -/
def lihW (old : Word) (imm : BitVec 20) : Word := (old &&& ~~~(0xFFFFF#64 <<< 32)) ||| (imm.zeroExtend 64 <<< 32)

/-- LIH: bits [51:32] of the destination set, the others kept (R146). -/
def execLih (d : BitVec 6) (imm : BitVec 20) (g : BitVec 4) (s : State) : Host.Outcome State Fault Refusal :=
  s.word (sn [d.toNat]) (s.guard g) (fun s => .ok (s.resS 1 d false (lihW (s.rd d.toNat) imm)))

/-! ## Pointer words (R149-R152) -/

/-- The size of the gang an agent runs in. -/
def Mach.gangSize (m : Mach) : Agent → Nat
  | .core g _ _ => ((m.gang? g).map (fun x => x.cores.length)).getD 0
  | .loupe _ _ _ => 0

/-- RANK within R18; on a Loupe core the rank of an SCR pointer is left to LHAND (R149). -/
def rankOk (m : Mach) (a : Agent) (space rank : Nat) : Bool :=
  match space with
  | 1 => match a with | .loupe _ _ _ => true | .core _ _ _ => decide (rank < m.gangSize a)
  | 2 => decide (rank < 16)
  | _ => rank == 0

/-- The checks of R149 on a pointer whose OFFSET is the exact sum `base + add`. -/
def checkMade (s : State) (space rank base : Nat) (add : Int) : Except Stop Word :=
  let off : Int := base + add
  let p := mkPtr space rank (wrapInt 54 off)
  let inRange : Bool := match space with
    | 1 => decide (0 ≤ off) && decide (off ≤ 2 ^ 21)
    | 2 => decide (0 ≤ off) && decide (off ≤ 2 ^ 18)
    | 3 => decide (0 ≤ (base % 2 ^ 48 : Nat) + add) && decide ((base % 2 ^ 48 : Nat) + add < 2 ^ 48)
    | _ => decide (0 ≤ off) && decide (off < 2 ^ 54)
  do
    need (space ≤ 3 || space == 15) 0x03 p
    need (space != 15 || s.hdr.priv) 0x12 p
    need (rankOk s.m s.cur space rank) 0x03 p
    need inRange 0x03 p
    return p

/-- PTRMK: a pointer from space and rank in a and offset in b (R150). -/
def execPtrmk (d a b : BitVec 6) (w : Bool) (g : BitVec 4) (s : State) : Host.Outcome State Fault Refusal :=
  s.word (sn (dst d w ++ [a.toNat, b.toNat])) (s.guard g) (fun s => do
    let x := s.rd a.toNat
    let p ← checkMade s (fld x 6 4).toNat (fld x 0 6).toNat (ptrOff (s.rd b.toNat)) 0
    return s.resS 1 d w p)

/-- PTRSP (R150). -/
def execPtrsp (d a : BitVec 6) (w : Bool) (g : BitVec 4) (s : State) : Host.Outcome State Fault Refusal :=
  sr1 1 (fun a => BitVec.ofNat 64 (ptrSpace a)) d a w g s

/-- PTRRK (R150). -/
def execPtrrk (d a : BitVec 6) (w : Bool) (g : BitVec 4) (s : State) : Host.Outcome State Fault Refusal :=
  sr1 1 (fun a => BitVec.ofNat 64 (ptrRank a)) d a w g s

/-- PTROF (R150). -/
def execPtrof (d a : BitVec 6) (w : Bool) (g : BitVec 4) (s : State) : Host.Outcome State Fault Refusal :=
  sr1 1 (fun a => BitVec.ofNat 64 (ptrOff a)) d a w g s

/-- PTRADD: OFFSET + b, b signed, checked (R150). A sum past the space's limit faults here, as R149 says, also where the text
of R256 has the first store meet the fault (log entry 75). -/
def execPtradd (d a b : BitVec 6) (w : Bool) (g : BitVec 4) (s : State) : Host.Outcome State Fault Refusal :=
  s.word (sn (dst d w ++ [a.toNat, b.toNat])) (s.guard g) (fun s => do
    let x := s.rd a.toNat
    let p ← checkMade s (ptrSpace x) (ptrRank x) (ptrOff x) (s.rd b.toNat).toInt
    return s.resS 1 d w p)

/-- PTRI: OFFSET + sext(IMM14), checked (R151). -/
def execPtri (d a : BitVec 6) (imm : BitVec 14) (g : BitVec 4) (s : State) : Host.Outcome State Fault Refusal :=
  s.word (sn [d.toNat, a.toNat]) (s.guard g) (fun s => do
    let x := s.rd a.toNat
    let p ← checkMade s (ptrSpace x) (ptrRank x) (ptrOff x) imm.toInt
    return s.resS 1 d false p)

/-- LSCR: a pointer into the own scratchpad, or on a Loupe core into its own partition, at IMM14 · 16 (R152). -/
def execLscr (d : BitVec 6) (imm : BitVec 14) (g : BitVec 4) (s : State) : Host.Outcome State Fault Refusal :=
  s.word (sn [d.toNat]) (s.guard g) (fun s => .ok (s.resS 1 d false (match s.cur with
    | .core _ r _ => mkPtr 1 r (imm.toNat * 16)
    | .loupe _ i _ => mkPtr 2 i (imm.toNat * 16))))

/-! ## Scalar f32 (R153, R154) -/

/-- The f32 value in the low half of a scalar. -/
def f32W (a : Word) : BitVec 32 := a.truncate 32

/-- A scalar f32 word of two sources: an f32 result with flags, zero-extended (R153). -/
def sf2 (lat : Nat) (f : BitVec 32 → BitVec 32 → BitVec 32 × Flags) (d a b : BitVec 6) (w : Bool) (g : BitVec 4)
    (s : State) : Host.Outcome State Fault Refusal :=
  s.word (sn (dst d w ++ [a.toNat, b.toNat])) (s.guard g) (fun s =>
    let r := f (f32W (s.rd a.toNat)) (f32W (s.rd b.toNat))
    .ok (s.resS lat d w (r.1.zeroExtend 64) r.2))

/-- f32 minimum or maximum (R130). -/
def f32MinMax (hi : Bool) (a b : BitVec 32) : BitVec 32 × Flags :=
  let x := f32V a
  let y := f32V b
  (if x.isNan || y.isNan then 0x7FC00000#32 else if ltOrd x y != hi then a else b, 0)

/-- An exact value with flags of its own, delivered in f32 under RNE. -/
def f32Val (r : Val × Flags) : BitVec 32 × Flags :=
  let (b, f) := roundF fmtF32 0 false r.1
  (BitVec.ofNat 32 b, f ||| r.2)


/-- FADD (R153). -/
def execFadd (d a b : BitVec 6) (w : Bool) (g : BitVec 4) (s : State) : Host.Outcome State Fault Refusal :=
  sf2 4 f32Add d a b w g s

/-- FSUB (R153). -/
def execFsub (d a b : BitVec 6) (w : Bool) (g : BitVec 4) (s : State) : Host.Outcome State Fault Refusal :=
  sf2 4 (fun a b => f32Of (addV (f32V a) (f32V b).negate)) d a b w g s

/-- FMUL (R153). -/
def execFmul (d a b : BitVec 6) (w : Bool) (g : BitVec 4) (s : State) : Host.Outcome State Fault Refusal :=
  sf2 4 (fun a b => f32Of (mulV (f32V a) (f32V b))) d a b w g s

/-- FFMA: round(d + a · b), d read from sD at issue (R153). -/
def execFfma (d a b : BitVec 6) (w : Bool) (g : BitVec 4) (s : State) : Host.Outcome State Fault Refusal :=
  s.word (sn [d.toNat, a.toNat, b.toNat]) (s.guard g) (fun s =>
    let r := f32Fma (f32W (s.rd d.toNat)) (f32W (s.rd a.toNat)) (f32W (s.rd b.toNat))
    .ok (s.resS 4 d w (r.1.zeroExtend 64) r.2))

/-- FMIN (R130, R153). -/
def execFmin (d a b : BitVec 6) (w : Bool) (g : BitVec 4) (s : State) : Host.Outcome State Fault Refusal :=
  sf2 4 (f32MinMax false) d a b w g s

/-- FMAX (R130, R153). -/
def execFmax (d a b : BitVec 6) (w : Bool) (g : BitVec 4) (s : State) : Host.Outcome State Fault Refusal :=
  sf2 4 (f32MinMax true) d a b w g s

/-- FDIV (R153). -/
def execFdiv (d a b : BitVec 6) (w : Bool) (g : BitVec 4) (s : State) : Host.Outcome State Fault Refusal :=
  sf2 14 (fun a b => f32Val (divV (f32V a) (f32V b))) d a b w g s

/-- FSQRT (R153). -/
def execFsqrt (d a : BitVec 6) (w : Bool) (g : BitVec 4) (s : State) : Host.Outcome State Fault Refusal :=
  s.word (sn (dst d w ++ [a.toNat])) (s.guard g) (fun s =>
    let r := f32Val (sqrtV (f32V (f32W (s.rd a.toNat))))
    .ok (s.resS 14 d w (r.1.zeroExtend 64) r.2))

/-- A conversion word: one source, a 64-bit result with flags, latency 3 (R154). -/
def cvt1 (f : Word → Word × Flags) (d a : BitVec 6) (w : Bool) (g : BitVec 4) (s : State) :
    Host.Outcome State Fault Refusal :=
  s.word (sn (dst d w ++ [a.toNat])) (s.guard g) (fun s =>
    let r := f (s.rd a.toNat)
    .ok (s.resS 3 d w r.1 r.2))

/-- An integer as f32 under RNE, zero-extended (R154). -/
def intToF32 (x : Int) : Word × Flags :=
  let r := f32Val (intVal x, 0)
  (r.1.zeroExtend 64, r.2)

/-- An f32 as i64 (R128, R154). -/
def f32ToI64 (rm : Nat) (a : Word) : Word × Flags :=
  let r := floatToInt rm true 64 (f32V (f32W a))
  (BitVec.ofNat 64 r.1, r.2)

/-- CVTIF (R154). -/
def execCvtif (d a : BitVec 6) (w : Bool) (g : BitVec 4) (s : State) : Host.Outcome State Fault Refusal :=
  cvt1 (fun a => intToF32 a.toInt) d a w g s
/-- CVTNF (R154). -/
def execCvtnf (d a : BitVec 6) (w : Bool) (g : BitVec 4) (s : State) : Host.Outcome State Fault Refusal :=
  cvt1 (fun a => intToF32 a.toNat) d a w g s
/-- CVTFI: mode RNE (R154). -/
def execCvtfi (d a : BitVec 6) (w : Bool) (g : BitVec 4) (s : State) : Host.Outcome State Fault Refusal :=
  cvt1 (f32ToI64 0) d a w g s
/-- CVTFIZ: mode RTZ (R154). -/
def execCvtfiz (d a : BitVec 6) (w : Bool) (g : BitVec 4) (s : State) : Host.Outcome State Fault Refusal :=
  cvt1 (f32ToI64 2) d a w g s

/-- A float compare: false when either operand is NaN, no flag (R154). -/
def fcmp (f : Int → Bool) (d a b : BitVec 6) (g : BitVec 4) (s : State) : Host.Outcome State Fault Refusal :=
  s.word (sn [a.toNat, b.toNat]) (s.guard g) (fun s =>
    let x := f32V (f32W (s.rd a.toNat))
    let y := f32V (f32W (s.rd b.toNat))
    .ok (s.resP 4 d.toNat (!x.isNan && !y.isNan && f (cmpV x y))))

/-- FCMP.lt (R154). -/
def execFcmpLt (d a b : BitVec 6) (g : BitVec 4) (s : State) : Host.Outcome State Fault Refusal :=
  fcmp (fun c => decide (c < 0)) d a b g s
/-- FCMP.le (R154). -/
def execFcmpLe (d a b : BitVec 6) (g : BitVec 4) (s : State) : Host.Outcome State Fault Refusal :=
  fcmp (fun c => decide (c ≤ 0)) d a b g s
/-- FCMP.eq (R154). -/
def execFcmpEq (d a b : BitVec 6) (g : BitVec 4) (s : State) : Host.Outcome State Fault Refusal :=
  fcmp (fun c => decide (c = 0)) d a b g s

end Sys2Proof.Machine
end

