-- ==== Sys2Proof/Machine/Translate.lean ====
section
/-! DEFINITION. Access counters and notifications (R373-R375), and the pointer checks of R19 with the declared scratchpad
limit of R112. -/
namespace Sys2Proof.Machine

/-! ## Access counters (R373-R375) -/

/-- A notification entry (R374). -/
def noticeBytes (region : Nat) (r : Region) : List Byte :=
  natLE 16 (region * 2 ^ 64 + r.count * 2 ^ 48 + r.tier.toNat * 2 ^ 46)

/-- A region's counter as the table in the mirror region holds it. -/
def Region.bytes (r : Region) : List Byte :=
  natLE 2 r.count ++ [if r.pending then 1 else 0, if r.deferred then 1 else 0] ++ natLE 4 r.tier.toNat

/-- A region's counter set, in the kernel's table too, which both copies of the mirror region hold (R373, R408; log entry 81). -/
def Mach.setRegion (m : Mach) (vd region : Nat) (r : Region) : Mach :=
  let m := m.updVd vd (fun v => { v with regionCtr := tset v.regionCtr region r })
  match m.mgmt.mirror with
  | none => m
  | some x => m.devStore (x.die * 2 ^ 44 + x.base + Config.counterPlace vd region % x.size) (offs r.bytes)

/-- A notification written at the tail, the pending bit set and the deferred bit clear: where NQBASE names no unit of R364 it
is written nowhere (log entry 84). -/
def Mach.queueNotice (m : Mach) (vd region : Nat) (r : Region) : Mach :=
  let v := m.vd vd
  let m := m.physStore vd (v.nqbase.toNat + 16 * v.nqtail.toNat) (offs (noticeBytes region r))
  (m.updVd vd (fun v => { v with nqtail := v.nqtail + 1 })).setRegion vd region { r with pending := true, deferred := false }

/-- The ring is full when NQTAIL + 1 equals NQHEAD modulo 256 (R374). -/
def VDev.nqFull (v : VDev) : Bool := v.nqtail + 1 == v.nqhead

/-- One granule touched on a counted page of tier 1 or 2 (R373, R374). -/
def Mach.countTouch (m : Mach) (vd va : Nat) (leaf : Word) : Mach :=
  if !leafCnt leaf || leafTier leaf = 0 then m
  else
    let v := m.vd vd
    let region := va / 2 ^ 21 * 2 ^ 21
    let r := (tget v.regionCtr region).getD {}
    let r := { r with count := min 0xFFFF (r.count + 1) }
    let m := m.setRegion vd region r
    if r.count ≥ v.nthr.toNat && !r.pending && !r.deferred then
      let r := { r with tier := BitVec.ofNat 2 (leafTier leaf) }
      if v.nqFull then m.setRegion vd region { r with deferred := true }
      else m.queueNotice vd region r
    else m

/-- The granules that an access of some bytes of a page touches, by their addresses: on a tree page those of the block
(R245, R373). -/
def touchedBy (leaf : Word) (va n : Nat) : List Nat :=
  let bs := if leafDepth leaf = 0 then 1 else 2 ^ leafDepth leaf * tyBytes (leafType leaf)
  let lo := va / bs * bs
  let hi := if leafDepth leaf = 0 then va + n else lo + bs
  (List.range ((hi + 63) / 64 - lo / 64)).map (fun i => (lo / 64 + i) * 64)

/-- Granules touched by a word (R373). -/
def Mach.countTouches (m : Mach) (vd : Nat) (l : List Nat) (leaf : Word) : Mach :=
  if !leafCnt leaf || leafTier leaf = 0 then m else l.foldl (fun m va => m.countTouch vd va leaf) m

/-- Granules touched by a command: each counts once (R373). -/
def Mach.countCmd (m : Mach) (id vd : Nat) (l : List Nat) (leaf : Word) : Mach :=
  if !leafCnt leaf || leafTier leaf = 0 then m
  else l.foldl (fun m va => if m.touched.contains (id, va) then m
    else { m.countTouch vd va leaf with touched := (id, va) :: m.touched }) m

/-- Deferred regions moved into free entries in ascending order (R375). -/
def Mach.moveDeferred (m : Mach) (vd : Nat) : Mach :=
  let l := sortBy (fun a b => decide (a.1 < b.1)) ((m.vd vd).regionCtr.filter (fun p => p.2.deferred))
  l.foldl (fun m p => if (m.vd vd).nqFull then m else m.queueNotice vd p.1 p.2) m

/-! ## Pointers used (R19, R112) -/

/-- The engines that use a pointer (R18). -/
inductive Engine where
  | s | v | m | t | l
  deriving DecidableEq, Repr

/-- The engine an agent is. -/
def engineOf : Stream → Engine
  | .s => .s
  | .v => .v
  | .m => .m
  | .t => .t
  | .l => .l

/-- The space is assigned and the engine may use it (R18, step 1 of R19). -/
def spaceOk (e : Engine) (space : Nat) : Bool :=
  match space, e with
  | 0, .s | 0, .t | 0, .l => true
  | 1, .l => false
  | 1, _ => true
  | 2, .s | 2, .t | 2, .l => true
  | 3, .t => true
  | 15, .s => true
  | _, _ => false

/-- The declared scratchpad limit (R112). -/
def scrLimit (h : Header) : Nat := if h.scrg = 0 then 2 ^ 21 else h.scrg * 4096

/-- An access goes beyond the declaration: some byte at or beyond the limit and outside the argument region (R112). -/
def beyond (h : Header) (off size : Nat) : Bool :=
  let hi := if 0 < size ∧ off < 0x1F0000 then min (off + size) 0x1F0000 else 0
  decide (hi > scrLimit h)

/-- The Loupe partition a virtual device has on a Loupe core: context number and bytes (R333). -/
def Mach.partition (m : Mach) (vd die idx : Nat) : Option (Nat × Nat) :=
  match (m.vd vd).loupes.find? (fun l => l.1 == die && l.2.1 == idx) with
  | none => none
  | some (_, _, c) =>
    let n := ((m.loupe? die idx).map (fun x => x.ctxs.length)).getD 1
    some (c, if n ≤ 1 then 2 ^ 18 else if n = 2 then 2 ^ 17 else 2 ^ 16)

/-- The die an agent lies on. -/
def Mach.dieOf (m : Mach) : Agent → Nat
  | .core g _ _ => (m.clusterOf g).1
  | .loupe d _ _ => d

/-- The OFFSET limit of a space (R18). -/
def offLimit (space : Nat) : Nat :=
  match space with
  | 1 => 2 ^ 21
  | 2 => 2 ^ 18
  | 15 => 0x8000
  | _ => 2 ^ 54

/-- Steps 1 to 4 of R19 for an access of `size` bytes at an exact offset, with the partition limit of R333. `p` is the
pointer a report shows. -/
def checkUse (m : Mach) (a : Agent) (e : Engine) (p : Word) (off : Int) (size : Nat) : Except Stop Unit := do
  let space := ptrSpace p
  let rank := ptrRank p
  if space == 15 && e == .s then need ((m.hdr a).priv) 0x12 p
  need (spaceOk e space) 0x03 p
  need (match space with
    | 1 => decide (rank < m.gangSize a)
    | 2 => decide (rank < 16)
    | _ => rank == 0) 0x03 p
  if space == 2 then need ((m.partition (m.vdOf a) (m.dieOf a) rank).isSome) 0x05 p
  need (decide (0 ≤ off) && (if space == 15 then decide (off ≤ 0x7FF8) else decide (off + size ≤ offLimit space))) 0x03 p
  if space == 2 then
    need (match m.partition (m.vdOf a) (m.dieOf a) rank with | none => false | some (_, n) => decide (off + size ≤ n)) 0x05 p

/-- The place an SCR or LPE pointer names. -/
def Mach.place (m : Mach) (a : Agent) (space rank off : Nat) : Loc :=
  match space with
  | 2 => .lpe (m.dieOf a) rank (((m.partition (m.vdOf a) (m.dieOf a) rank).map (·.1)).getD 0) off
  | _ => .scr (match a with | .core g _ _ => g | .loupe _ _ _ => 0) rank off

end Sys2Proof.Machine
end

