-- ==== Sys2Proof/Machine/Race.lean ====
section
/-! DEFINITION. The race checker (R323-R332): snapshots, the effects of synchronisation, the check at a commit point. -/
namespace Sys2Proof.Machine

/-- Intervals stop at 0xFF_FFFF (R326). -/
def sat24 (n : Nat) : Nat := min n 0xFFFFFF

/-- Element-wise maximum of two vectors of intervals. -/
def seenMax : List Nat → List Nat → List Nat
  | [], b => b
  | a, [] => a
  | x :: a, y :: b => max x y :: seenMax a b

def Snap.merge (a b : Snap) : Snap := { seen := seenMax a.seen b.seen, dg := max a.dg b.dg }

/-- A vector of intervals with one entry set. -/
def seenSet (l : List Nat) (r v : Nat) : List Nat := (l ++ List.replicate (r + 1 - l.length) 0).set r v

/-- The snapshot of a core in an interval of its own (R326). -/
def Core.snap (c : Core) (rank iv : Nat) : Snap := { seen := seenSet c.seen rank iv, dg := c.dg }

/-- A snapshot merged into a core's knowledge. -/
def Core.learn (c : Core) (p : Snap) : Core := { c with seen := seenMax c.seen p.seen, dg := max c.dg p.dg }

/-- The core's interval ends. -/
def Core.bump (c : Core) : Core := { c with icnt := sat24 (c.icnt + 1) }

/-- VG of a virtual device rises (R326). -/
def Mach.bumpVg (m : Mach) (vd : Nat) : Mach := m.updVd vd (fun v => { v with vg := sat24 (v.vg + 1) })

/-- DG := VG after VG += 1 (R327). -/
def Mach.learnOutside (m : Mach) (g r : Nat) : Mach :=
  match m.gang? g with
  | none => m
  | some x =>
    let m := m.bumpVg x.vd
    m.updCore g r (fun c => { c with dg := (m.vd x.vd).vg })

/-- PV and PDG merged into a core (R327). -/
def Mach.learnPv (m : Mach) (g r : Nat) : Mach :=
  match m.gang? g with
  | none => m
  | some x => m.updCore g r (fun c => c.learn x.pv)

/-- A snapshot published into PV. -/
def Mach.publish (m : Mach) (g : Nat) (p : Snap) : Mach := m.updGang g (fun x => { x with pv := x.pv.merge p })

/-- A release that a core issued in an interval: its snapshot, its interval's end, the record of the unit when a location is
written, PV and VG at cluster scope or wider (R326, R327). -/
def Mach.raceRelease (m : Mach) (g r sco iv : Nat) (unit : Option Nat) : Mach :=
  match m.gang? g, m.core? g r with
  | some x, some c =>
    let p := c.snap r iv
    let m := m.updCore g r Core.bump
    let m := match unit with
      | none => m
      | some u => m.updCluster x.die x.cluster (fun k =>
          let recs := k.recs.filter (fun q => q.unit != u)
          let recs := if recs.length ≥ 64 then recs.drop 1 else recs
          { k with recs := recs ++ [{ unit := u, rank := r, gang := g, snap := p }] })
    if sco ≥ 2 then (m.publish g p).bumpVg x.vd else m
  | _, _ => m

/-- An acquire fence at a core (R327). -/
def Mach.raceAcquireFence (m : Mach) (g r : Nat) : Mach := ((m.learnPv g r).learnOutside g r).updCore g r Core.bump

/-- Where a unit's shadow entry is held: a rank's scratchpad, or a RCHK page of a virtual device (R323). The key of a
scratchpad unit is its first granule; that of a page's unit its first physical granule. -/
inductive UnitRef where
  | scr (gang rank key : Nat)
  | glb (vd key : Nat)
  deriving DecidableEq, Repr

/-- A number for the release records, one a unit. -/
def UnitRef.num : UnitRef → Nat
  | .scr g r k => 2 * ((g * 64 + r) * 32768 + k)
  | .glb _ k => 2 * k + 1

/-- The check unit of an offset of a core's scratchpad: the granule, or the whole tree block under a tree lens (R323). -/
def Core.unitAt (c : Core) (off : Nat) : Nat :=
  match c.lensAt off with
  | some l =>
    let bs := 2 ^ lensDepth l * tyBytes (lensType l)
    if lensOk l && lensXf l == 1 && decide (bs ≥ 64) then (lensBase l * 256 + (off - lensBase l * 256) / bs * bs) / 64
    else off / 64
  | none => off / 64

/-- Bytes of the tree block of a page, when it has one of 64 bytes or more; else 64. -/
def pageUnit (leaf : Word) : Nat :=
  if leafDepth leaf = 0 then 64 else max 64 (2 ^ leafDepth leaf * tyBytes (leafType leaf))

/-- Bytes of a check unit of a page, 0 where it is not checked (R323). -/
def checkUnit (leaf : Word) : Nat := if leafRchk leaf then pageUnit leaf else 0

def Mach.shadowAt (m : Mach) : UnitRef → Shadow
  | .scr g r k => (((m.core? g r).bind (fun c => tget c.shadow k))).getD {}
  | .glb v k => (tget (m.vd v).glbShadow k).getD {}

def Mach.setShadow (m : Mach) (u : UnitRef) (e : Shadow) : Mach :=
  match u with
  | .scr g r k => m.updCore g r (fun c => { c with shadow := tset c.shadow k e })
  | .glb v k => m.updVd v (fun x => { x with glbShadow := tset x.glbShadow k e })

/-- An access as the checker sees it (R325). -/
structure RaceAcc where
  gang : Nat
  rank : Nat
  strm : Stream
  cls : Nat
  /-- 1 for a word of a stream, 2 for a beat or a command. -/
  kind : Nat
  iv : Nat
  rd : Bool
  wr : Bool
  amo : Bool := false
  rel : Bool := false
  acq : Bool := false
  sco : Nat := 0
  deriving DecidableEq, Repr

/-- The race record of a report (R330). -/
def raceRecord (pair kind rank strm gang cls iv scl : Nat) (ptr : Word) : BitVec 128 :=
  BitVec.ofNat 128 (pair * 2 ^ 126 + kind * 2 ^ 124 + rank * 2 ^ 118 + strm * 2 ^ 116 + gang * 2 ^ 108 + cls * 2 ^ 105 +
    iv * 2 ^ 81 + scl * 2 ^ 78 + ptr.toNat)

/-- The last writer of an entry as an accessor sees it: kind, rank, stream, gang, class, interval. One of another job
counts as none (R324), one of another gang as kind 3 and one of an agent without a job as every job's (R325; log entry 21). -/
def Shadow.writer (e : Shadow) (job : BitVec 16) (gang : BitVec 8) : Nat × Nat × Nat × Nat × Nat × Nat :=
  if e.wk == 0 || !(e.wany || e.wjob == job) then (0, 0, 0, 0, 0, 0)
  else if e.wk == 3 then (3, 0, 0, 0, 0, e.wiv.toNat)
  else if e.wgang != gang then (3, 0, 0, 0, 0, e.wvg)
  else (e.wk.toNat, e.wrk.toNat, e.wst.toNat, e.wgang.toNat, e.wcl.toNat, e.wiv.toNat)

/-- The recorded reader of an entry as an accessor sees it. -/
def Shadow.reader (e : Shadow) (job : BitVec 16) (gang : BitVec 8) : Nat × Nat × Nat × Nat × Nat × Nat :=
  if e.rk == 0 || !(e.rany || e.rjob == job) then (0, 0, 0, 0, 0, 0)
  else if e.rk == 3 then (3, 0, 0, 0, 0, e.riv.toNat)
  else if e.rgang != gang then (3, 0, 0, 0, 0, e.rvg)
  else (e.rk.toNat, e.rrk.toNat, e.rst.toNat, e.rgang.toNat, e.rcl.toNat, e.riv.toNat)

/-- The job number of a gang. -/
def Mach.jobNum (m : Mach) (g : Gang) : BitVec 16 := ((m.job? g.job).map (·.num)).getD 0

/-- An acquire merges before its access is checked (R327). -/
def Mach.raceAcquire (m : Mach) (x : RaceAcc) (u : UnitRef) (e : Shadow) : Mach :=
  match m.gang? x.gang with
  | none => m
  | some g =>
    let kind := (e.writer (m.jobNum g) g.idx).1
    if kind = 3 then ((m.learnPv x.gang x.rank).learnOutside x.gang x.rank).updCore x.gang x.rank Core.bump
    else if e.wrel && kind != 0 then
      let recs := ((m.cluster? g.die g.cluster).map (·.recs)).getD []
      match recs.find? (fun q => q.unit == u.num) with
      | some q => m.updCore x.gang x.rank (fun c => (c.learn q.snap).bump)
      | none => (m.learnPv x.gang x.rank).updCore x.gang x.rank (fun c =>
          { c with unk := c.unk ||| (1#48 <<< e.wrk.toNat) })
    else m

/-- The report of R328, if there is one: cause and race record. -/
def Mach.raceCheck (m : Mach) (x : RaceAcc) (e : Shadow) (ptr : Word) : Option (BitVec 8 × BitVec 128) :=
  match m.gang? x.gang, m.core? x.gang x.rank with
  | some g, some c =>
    let job := m.jobNum g
    let unordered (kind rank iv : Nat) : Bool :=
      if kind = 3 then decide (c.dg ≤ iv)
      else rank != x.rank && !c.unk.getLsbD rank && decide (c.seen.getD rank 0 < iv)
    let samephase (kind rank strm gang cls iv : Nat) : Bool :=
      x.kind == 1 && kind == 1 && rank == x.rank && strm == x.strm.idx && gang == g.idx.toNat && iv == max x.iv c.icnt &&
      cls != 0 && x.cls != 0 && cls != x.cls
    let (wk, wrk, wst, wgang, wcl, wiv) := e.writer job g.idx
    let (rk, rrk, rst, rgang, rcl, riv) := e.reader job g.idx
    let wOn := wk != 0 && !(x.amo && e.wamo)
    let rOn := rk != 0 && !e.mr
    if wOn && samephase wk wrk wst wgang wcl wiv then some (0x0A, raceRecord 3 wk wrk wst wgang wcl wiv x.cls ptr)
    else if wOn && unordered wk wrk wiv then
      some (0x09, raceRecord (if x.wr then 1 else 0) wk wrk wst wgang wcl wiv x.cls ptr)
    else if rOn && samephase rk rrk rst rgang rcl riv then some (0x0A, raceRecord 3 rk rrk rst rgang rcl riv x.cls ptr)
    else if rOn && x.wr && unordered rk rrk riv then some (0x09, raceRecord 2 rk rrk rst rgang rcl riv x.cls ptr)
    else none
  | _, _ => none

/-- The entry after a read, made at a VG (R329). -/
def Shadow.afterRead (e : Shadow) (kind rank strm gang cls iv vg : Nat) (job : Option (BitVec 16)) : Shadow :=
  if e.rk == 0 || !(e.rany || job == none || job == some e.rjob) || (e.rk.toNat == kind && e.rrk.toNat == rank && e.rst.toNat == strm &&
      e.rgang.toNat == gang) then
    { e with rk := BitVec.ofNat 2 kind, rrk := BitVec.ofNat 6 rank, rst := BitVec.ofNat 2 strm,
             rgang := BitVec.ofNat 8 gang, rcl := BitVec.ofNat 3 cls, riv := BitVec.ofNat 24 iv, rvg := vg,
             rjob := job.getD 0, rany := job.isNone }
  else { e with mr := true }

/-- The entry after a write, made at a VG (R329). -/
def Shadow.afterWrite (e : Shadow) (kind rank strm gang cls iv vg : Nat) (amo rel : Bool)
    (job : Option (BitVec 16)) : Shadow :=
  { e with wk := BitVec.ofNat 2 kind, wrk := BitVec.ofNat 6 rank, wst := BitVec.ofNat 2 strm,
           wgang := BitVec.ofNat 8 gang, wcl := BitVec.ofNat 3 cls, wiv := BitVec.ofNat 24 iv, wvg := vg, wamo := amo,
           wrel := rel, wjob := job.getD 0, wany := job.isNone, rk := 0, mr := false, rany := false }

/-- An access at its commit point: an acquire's merge, the check, and the entry's update. With a report the access has
no effect and the entry stands (R328-R330). -/
def Mach.raceAccess (m : Mach) (x : RaceAcc) (u : UnitRef) (ptr : Word) : Mach × Option (BitVec 8 × BitVec 128) :=
  match m.gang? x.gang with
  | none => (m, none)
  | some g =>
    let job := m.jobNum g
    let vg := (m.vd g.vd).vg
    let e := m.shadowAt u
    let m := if x.acq then m.raceAcquire x u e else m
    match m.raceCheck x e ptr with
    | some r => (m, some r)
    | none =>
      let e := if x.rd then e.afterRead x.kind x.rank x.strm.idx g.idx.toNat x.cls x.iv vg (some job) else e
      let e := if x.wr then e.afterWrite x.kind x.rank x.strm.idx g.idx.toNat x.cls x.iv vg x.amo x.rel (some job) else e
      let m := m.setShadow u e
      (if x.rel then m.raceRelease x.gang x.rank x.sco x.iv (if x.wr then some u.num else none) else m, none)

/-- Check units of a rank's scratchpad accessed in turn; the first report ends it (R325, R328). -/
def Mach.raceUnits (m : Mach) (x : RaceAcc) (rank : Nat) : List Nat → Mach × Option (BitVec 8 × Word × BitVec 128)
  | [] => (m, none)
  | u :: us =>
    let key := ((m.core? x.gang rank).map (fun c => c.unitAt (64 * u))).getD u
    let p := mkPtr 1 rank (64 * key)
    match m.raceAccess x (.scr x.gang rank key) p with
    | (m, some r) => (m, some (r.1, p, r.2))
    | (m, none) => m.raceUnits x rank us

/-- What a first read that checks a tag learns of the command that stamped it (R327). -/
def Mach.learnStamp (m : Mach) (g r : Nat) (t : TagState) : Mach :=
  let m := m.learnPv g r
  match t.src with
  | none => m
  | some (issuer, iv, hand) =>
    if hand then m.learnOutside g r
    else m.updCore g r (fun c => { c with seen := seenMax c.seen (seenSet [] issuer iv) })

/-- An access of an outside agent: entries updated as kind 3, nothing checked; `job` is none for an
agent that has none (R325, R329). -/
def Mach.outsideAccess (m : Mach) (vd : Nat) (wr : Bool) (u : UnitRef) (job : Option (BitVec 16)) (amo rel : Bool := false) : Mach :=
  let iv := (m.vd vd).vg
  let e := m.shadowAt u
  m.setShadow u (if wr then e.afterWrite 3 0 0 0 0 iv iv amo rel job else e.afterRead 3 0 0 0 0 iv iv job)

end Sys2Proof.Machine
end

