-- ==== Sys2Proof/Machine/Order.lean ====
section
/-! DEFINITION. The ordering machine (R261-R274): class queues, view buffers, commit points, replies. The moves it may
choose are made at drawn times (log entry 7) and sooner where a rule forces them. -/
namespace Sys2Proof.Machine

/-! ## Places -/

/-- The 64-byte granule of a place, as a place. -/
def Loc.gran : Loc → Loc
  | .scr g r o => .scr g r (o / 64 * 64)
  | .lpe d i c o => .lpe d i c (o / 64 * 64)
  | .dev pa => .dev (pa / 64 * 64)
  | .host a => .host (a / 64 * 64)
  | l => l

/-- The block of n bytes, a power of two of at most 256, that a place lies in. -/
def Loc.block (n : Nat) : Loc → Loc
  | .scr g r o => .scr g r (o / n * n)
  | .lpe d i c o => .lpe d i c (o / n * n)
  | .dev pa => .dev (pa / n * n)
  | .host a => .host (a / n * n)
  | l => l

/-- A place some bytes on. -/
def Loc.plus (l : Loc) (n : Nat) : Loc :=
  match l with
  | .scr g r o => .scr g r (o + n)
  | .lpe d i c o => .lpe d i c (o + n)
  | .dev pa => .dev (pa + n)
  | .host a => .host (a + n)
  | .peer v o => .peer v (o + n)
  | .sys r => .sys r

/-- The offset of a place within its granule. -/
def Loc.low : Loc → Nat
  | .scr _ _ o => o % 64
  | .lpe _ _ _ o => o % 64
  | .dev pa => pa % 64
  | .host a => a % 64
  | .peer _ o => o % 64
  | .sys _ => 0

/-- The space code of a place (R17). -/
def Loc.space : Loc → Nat
  | .scr _ _ _ => 1
  | .lpe _ _ _ _ => 2
  | .dev _ | .host _ => 0
  | .peer _ _ => 3
  | .sys _ => 15

/-- The physical address a place has by the units of R364: that of a page of tier 2 lies in the host bus window. -/
def Loc.phys : Loc → Option Nat
  | .dev pa => some pa
  | .host a => some (0x10 * 2 ^ 44 + a)
  | _ => none

/-- The check unit that a GLB place lies in, `unit` bytes long, none where it is not checked (R323). -/
def Loc.glbUnit (l : Loc) (vd unit : Nat) : Option UnitRef :=
  if unit = 0 then none else l.phys.map (fun pa => .glb vd (pa / unit * unit / 64))

/-- Whether two runs of bytes share one. -/
def Loc.meets (l : Loc) (n : Nat) (k : Loc) (j : Nat) : Bool :=
  let on (a b : Nat) : Bool := decide (a < b + j) && decide (b < a + n)
  match l, k with
  | .scr g r a, .scr h q b => g == h && r == q && on a b
  | .lpe d i c a, .lpe e k f b => d == e && i == k && c == f && on a b
  | .dev a, .dev b | .host a, .host b => on a b
  | .peer v a, .peer w b => v == w && on a b
  | _, _ => false

/-- A number for a GLB granule, for view buffers: device granules even, host granules odd. -/
def Loc.granNo : Loc → Option Nat
  | .dev pa => some (2 * (pa / 64))
  | .host a => some (2 * (a / 64) + 1)
  | _ => none

/-- Bytes at a commit point. A peer's window gives free bytes (log entry 15). -/
def Mach.readLoc (m : Mach) (l : Loc) (n : Nat) : List Byte :=
  match l with
  | .scr g r o => ((m.core? g r).map (fun c => Memory.read c.scr o n)).getD (List.replicate n 0)
  | .lpe d i c o => ((m.ctx? d i c).map (fun x => Memory.read x.mem o n)).getD (List.replicate n 0)
  | .dev pa => Memory.read m.dev pa n
  | .host a => Memory.read m.host a n
  | .peer _ o => (List.range n).map (fun i => Config.freeByte (64 * m.freeCtr + o + i))
  | .sys _ => List.replicate n 0

/-- Bytes written at a commit point; those of a peer's window leave through a link port (R29; log entry 15). A whole granule
written is poisoned no longer (R404). -/
def Mach.writeLoc (m : Mach) (l : Loc) (data : List (Nat × Byte)) : Mach :=
  match l with
  | .scr g r o => m.updCore g r (fun c => { c with
      scr := Memory.writeAt c.scr o data
      worn := if c.worn.isEmpty then [] else c.worn.filter (fun w =>
        !((List.range 8).all (fun i => data.any (fun p => o + p.1 == 8 * w + i))))
      poison := if c.poison.isEmpty then [] else c.poison.filter (fun x => !(covered o data).contains x) })
  | .lpe d i c o => m.updCtx d i c (fun x => { x with mem := Memory.writeAt x.mem o data })
  | .dev pa => m.devStore pa data
  | .host a => { m with host := Memory.writeAt m.host a data }
  | .peer v o => { m with io := { m.io with ports := vupd m.io.ports (v % 16) (fun l => l ++ [(v, o, data)]) } }
  | .sys _ => m

/-- A read of bytes of a scratchpad meets an error that cannot be corrected (R404). -/
def Mach.wornAt (m : Mach) (l : Loc) (n : Nat) : Bool :=
  match l with
  | .scr g r o => (m.core? g r).any (fun c => c.worn.any (fun w => decide (o < 8 * w + 8) && decide (8 * w < o + n)))
  | _ => false

/-- An uncorrectable error at an access: a poisoned granule or, read, a worn one (R404); a host address its IOMMU refuses
(R366); a codeword of device memory that cannot be corrected, or a failed transfer (R411, R412). A load of LPE meets none: R404 names
no Loupe partition (log entry 17). -/
def Mach.locError (m : Mach) (vd : Nat) (l : Loc) (n : Nat) (write : Bool) : Bool :=
  match l with
  | .scr g r o => ((m.core? g r).map (fun c => c.poison.any (fun p => decide (o < p * 64 + 64) && decide (p * 64 < o + n) &&
      !(write && decide (o ≤ p * 64) && decide (p * 64 + 64 ≤ o + n))))).getD false ||
      (!write && m.wornAt l n)
  | .host a => !Config.iommuAllows vd write a
  | .dev pa => (!write && m.lineError pa n) || m.bad.any (fun f => linkHits f pa n)
  | _ => false

/-! ## Queues -/

def QOp.isLoad : QOp → Bool
  | .load _ _ _ | .ldl _ _ _ _ => true
  | _ => false
def QOp.isStore : QOp → Bool
  | .store _ | .spine _ _ _ _ _ => true
  | _ => false
/-- Actions that read what they write to (R246, R278, R282). -/
def QOp.modifies : QOp → Bool
  | .amo _ _ _ | .cas _ _ _ _ | .spine _ _ _ _ _ => true
  | _ => false
def QOp.isFence : QOp → Bool
  | .fence => true
  | _ => false
/-- Actions that only release: they wait for every older access and hold nothing back themselves. -/
def QOp.isRelease : QOp → Bool
  | .arrive _ _ _ | .event _ _ | .notify _ _ | .mend _ _ _ => true
  | _ => false

/-- A barrier arrival, whose release the checker has seen at its word (R327). -/
def QOp.isArrival : QOp → Bool
  | .arrive _ _ _ => true
  | _ => false

/-- Two classes that are ordered: the same, or either is 0 (R264). -/
def sameClass (a b : BitVec 3) : Bool := a == b || a == 0 || b == 0

/-- Bytes an access touches. -/
def QOp.size : QOp → Nat
  | .load n _ _ => n
  | .store data => (data.map (·.1)).foldl max 0 + 1
  | .amo _ _ _ => 8
  | .cas n _ _ _ => n
  | .ldl ty d _ _ | .spine ty d _ _ _ => 2 ^ d * tyBytes ty.toNat
  | _ => 0

/-- Whether a place is the scratchpad of the agent's own core. -/
def ownBank (w : Who) (l : Loc) : Bool :=
  match w, l with
  | .agent (.core g r _), .scr g' r' _ => g == g' && r == r'
  | _, _ => false

/-- Two accesses touch a byte both. -/
def QEntry.meets (a b : QEntry) : Bool := a.loc.meets a.op.size b.loc b.op.size

/-- Whether an access of one stream to its own core's bank reaches it before one of another stream of the core: in an
earlier ec, when the classes are ordered; in the same ec, for a store in stream order (R271). -/
def laneOrder (old new : QEntry) : Bool :=
  match old.who, new.who with
  | .agent (.core g r a), .agent (.core h q b) =>
    g == h && r == q && ownBank old.who old.loc && ownBank new.who new.loc && !old.op.isRelease && !new.op.isRelease &&
    ((decide (old.seq < new.seq) && sameClass old.cls new.cls) || (old.seq == new.seq && decide (a.idx < b.idx) && old.meets new))
  | _, _ => false

/-- Whether both are stores of one V stream, which reach memory in issue order whatever their classes (R192, R194). -/
def rowOrder (old new : QEntry) : Bool :=
  (match new.who with | .agent (.core _ _ .v) => true | _ => false) && old.op.isStore && new.op.isStore

/-- Whether a fence's class set holds a class (R269). -/
def inSet (f c : BitVec 3) : Bool := f == 0 || f == c

/-- Whether an older entry keeps a younger one in its queue (R264, R269, R271; log entry 9). A load passes older stores,
but not one whose bytes its agent has read and that it could not take its own from (R265). -/
def blocks (old new : QEntry) : Bool :=
  if old.who != new.who then laneOrder old new
  else if rowOrder old new then true
  else if new.op.isRelease || (new.rel && !new.op.isFence) then true
  else if old.op.isRelease then false
  else if new.op.isFence then
    if old.op.isFence then true
    else inSet new.cls old.cls && (new.rel || !old.op.isStore)
  else if old.op.isFence then
    inSet old.cls new.cls && (old.acq || !new.op.isLoad)
  else if old.acq then true
  else if old.op.isStore && new.op.isLoad then old.seen && !sameClass old.cls new.cls && old.meets new
  else sameClass old.cls new.cls

/-- An entry put into its queue, its move drawn. -/
def Mach.enqueue (m : Mach) (q : QEntry) (k : Nat) : Mach :=
  let (id, m) := m.newId
  { m with queue := m.queue ++ [(id, q)] }.scheduleDrawn k (.accessCommit id)

/-! ## Replies -/

/-- A reply still to come. -/
def Mach.newReply (m : Mach) (who : Who) (parts : Nat) : Nat × Mach :=
  let (id, m) := m.newId
  (id, { m with replies := tset m.replies id { who := who, missing := parts } })

/-- A part of a reply performed: bytes at offsets, or its fault. The last part sends the reply; from the own scratchpad
it is there at once, from elsewhere after a drawn time (R60). -/
def Mach.fillReply (m : Mach) (id : Nat) (bytes : List (Nat × Byte)) (fault : Option (BitVec 8 × Word × BitVec 128))
    (own : Bool) (k : Nat) : Mach :=
  match tget m.replies id with
  | none => m
  | some r =>
    let r := { r with missing := r.missing - 1, buf := r.buf ++ bytes, fault := r.fault <|> fault }
    let last := r.missing == 0
    let m := { m with replies := tset m.replies id { r with arrived := last && own } }
    if last && !own then m.scheduleDrawn k (.replyArrival id) else m

/-! ## View buffers -/

def Mach.copyOf (m : Mach) (w : Who) (g : Nat) : Option Copy := m.copies.find? (fun c => c.who == w && c.gran == g)
def Mach.dropCopy (m : Mach) (w : Who) (g : Nat) : Mach :=
  { m with copies := m.copies.filter (fun c => !(c.who == w && c.gran == g)) }
def Mach.dropCopies (m : Mach) (w : Who) : Mach := { m with copies := m.copies.filter (fun c => c.who != w) }

/-- Agents that hold copies: an S stream, and commands (R265). -/
def holdsCopies : Who → Bool
  | .agent (.core _ _ .s) => true
  | .cmd _ => true
  | _ => false

/-- A copy placed in a view buffer; the scalar data cache of an S stream holds 128 of them, the oldest giving way (R1,
R14). -/
def Mach.addCopy (m : Mach) (c : Copy) : Mach :=
  let mine := m.copies.filter (fun x => x.who == c.who)
  let l := match c.who with
    | .agent _ => if mine.length ≥ 128 then (match mine.head? with | some o => m.copies.erase o | none => m.copies) else m.copies
    | _ => m.copies
  { m with copies := l ++ [c] }

/-- The bytes an agent's load takes from copies or the commit point (R265, steps 2 and 3), and the machine with a copy
placed where it chooses to. -/
def Mach.readView (m : Mach) (w : Who) (l : Loc) (n : Nat) (k : Nat) (va : Nat) : List Byte × Mach :=
  match l.granNo with
  | none => (m.readLoc l n, m)
  | some g =>
    if !holdsCopies w then (m.readLoc l n, m)
    else
      match m.copyOf w g with
      | some c => ((c.data.drop l.low).take n, m)
      | none =>
        (m.readLoc l n, if m.flip k then m.addCopy ⟨w, g, va / 64 * 64, m.readLoc l.gran 64⟩ else m)

/-- A store or read-modify-write of an agent replaces its copy (R265). -/
def Mach.renewCopy (m : Mach) (w : Who) (l : Loc) : Mach :=
  match l.granNo with
  | none => m
  | some g =>
    match m.copyOf w g with
    | none => m
    | some c => let m := m.dropCopy w g
                { m with copies := m.copies ++ [⟨w, g, c.va, m.readLoc l.gran 64⟩] }

/-- The byte of an own store still queued that a load takes, at an offset of its place (R265, step 1): the youngest older
one, in the load's class or either in class 0. -/
def Mach.forwarded (m : Mach) (id : Nat) (q : QEntry) (l : Loc) : Option Byte :=
  m.queue.foldl (fun acc (j, o) =>
    if decide (j < id) && o.who == q.who && sameClass o.cls q.cls then
      match o.op with
      | .store data => match data.find? (fun p => o.loc.plus p.1 == l) with
        | some p => some p.2
        | none => acc
      | _ => acc
    else acc) none

/-- A load in class 0 has read the bytes of its agent's queued stores (R265). -/
def Mach.markSeen (m : Mach) (id : Nat) (q : QEntry) : Mach :=
  if q.cls != 0 then m
  else { m with queue := m.queue.map (fun (j, (o : QEntry)) =>
    (j, if decide (j < id) && o.who == q.who && o.op.isStore && o.cls != 0 && o.meets q then { o with seen := true } else o)) }

/-! ## Scopes (R267, R270) -/

/-- The core or Loupe core that an agent lies at, as an agent; an engine's is its issuing core's, none for the management
core and the host. -/
def Mach.lies (m : Mach) : Who → Option Agent
  | .agent a => some a
  | .cmd id => (tget m.cmds id).map (fun c => match c.owner with | .t g r => .core g r .t | .l d i k => .loupe d i k)
  | .save g => some (.core g 0 .s)
  | .kernel | .host => none

/-- Whether agent b lies within a scope of agent a (R267). -/
def Mach.within (m : Mach) (sco : Nat) (a b : Who) : Bool :=
  a == b || decide (5 ≤ sco) ||
  (match m.lies a, m.lies b with
   | some (.core g r _), some (.core h q _) =>
     (g == h && r == q) || (decide (1 ≤ sco) && g == h && r / 4 == q / 4) ||
     (decide (2 ≤ sco) && m.clusterOf g == m.clusterOf h) || (decide (3 ≤ sco) && (m.clusterOf g).1 == (m.clusterOf h).1) ||
     (decide (4 ≤ sco) && m.vdOf (.core g r .s) == m.vdOf (.core h q .s))
   | some x, some y =>
     (decide (3 ≤ sco) && m.dieOf x == m.dieOf y) || (decide (4 ≤ sco) && m.vdOf x == m.vdOf y)
   | _, _ => decide (4 ≤ sco) && a != .host && b != .host)

/-- The scope a synchronisation is performed at, by its space and agent (R267, R268). -/
def scopeAt (onLoupe : Bool) (space sco : Nat) : Nat :=
  match space with
  | 1 => min sco 2
  | 2 => max sco 3
  | 0 => if onLoupe then max sco 3 else sco
  | _ => max sco 4

/-- An agent lies at a Loupe core. -/
def Mach.atLoupe (m : Mach) (w : Who) : Bool := match m.lies w with | some (.loupe _ _ _) => true | _ => false

/-- An agent can reach the scratchpads of a gang: it lies in the gang's cluster, or at a Loupe core (R268). -/
def Mach.reachesScr (m : Mach) (g : Nat) (w : Who) : Bool :=
  match m.lies w with
  | some (.core h _ _) => m.clusterOf h == m.clusterOf g
  | some (.loupe _ _ _) => true
  | none => false

/-- The same for a synchronisation at a place, at the scope its space makes of it: one at cluster scope on a scratchpad
includes every agent that can reach it (R268). -/
def Mach.inScope (m : Mach) (sco : Nat) (l : Loc) (a b : Who) : Bool :=
  let s := scopeAt (m.atLoupe a) l.space sco
  m.within s a b || (decide (2 ≤ s) && (match l with | .scr g _ _ => m.reachesScr g b | _ => false))

/-- A release of a at a scope synchronises with an acquire of b at another (R270). -/
def Mach.pairs (m : Mach) (l : Loc) (a : Who) (sa : Nat) (b : Who) (sb : Nat) : Bool := m.inScope sa l a b && m.inScope sb l b a

/-- The older stores that an access of bytes by an agent finds committed: those of the releases there that did not wait and
have it in their scope. An acquire names its own scope (R269, R270). -/
def Mach.owed (m : Mach) (w : Who) (acq : Option Nat) (l : Loc) (n : Nat) : List Nat :=
  m.early.flatMap (fun e => match e.place with
    | .bytes k j => if e.who != w && k.meets j l n && m.inScope e.sco l e.who w && acq.all (fun s => m.inScope s l w e.who) then e.deps
      else []
    | _ => [])

/-- The older stores that an acquire fence finds committed: those of the early releases that its agent's loads have read and that
it pairs with (R270). -/
def Mach.owedFence (m : Mach) (w : Who) (sco : Nat) : List Nat :=
  m.early.flatMap (fun e => match e.place with
    | .bytes l _ => if e.readers.contains w && m.pairs l e.who e.sco w sco then e.deps else []
    | .fence => [])

/-- An entry has left its queue: no release waits to be waited for on its account. -/
def Mach.prune (m : Mach) (id : Nat) : Mach :=
  if m.early.isEmpty then m
  else { m with early := (m.early.map (fun e => { e with deps := e.deps.filter (· != id) })).filter (fun e => !e.deps.isEmpty) }

/-- The releases whose value stands in some bytes. -/
def Mach.releasesAt (m : Mach) (l : Loc) (n : Nat) : List RelVal := m.released.filter (fun v => v.loc.meets v.size l n)

/-- The scope of the release that a store is, of itself or by an earlier release fence of its agent, at the scope its space
makes of the fence's (R268, R270, R283). -/
def Mach.releaseScope (m : Mach) (q : QEntry) : Option Nat :=
  match (m.fenced.find? (fun p => p.1 == q.who)).map (·.2) with
  | none => if q.rel then some q.sco else none
  | some f => let f := scopeAt (m.atLoupe q.who) q.loc.space f; some (if q.rel then max f q.sco else f)

/-- A store or read-modify-write is committed: the releases it overwrites stand no longer, unless it is a
read-modify-write; it may be a release, and shows the early releases that it comes after, those of an ordered class or of a
fence (R264, R269, R270). -/
def Mach.noteWrite (m : Mach) (q : QEntry) : Mach :=
  let n := q.op.size
  let sco := m.releaseScope q
  let keep := if q.op.isStore then m.released.filter (fun v => !v.loc.meets v.size q.loc n) else m.released
  let waits := m.early.filter (fun e => e.who == q.who && (e.place == .fence || sameClass e.cls q.cls))
  { m with
    released := match sco with | none => keep | some s => keep ++ [{ who := q.who, sco := s, loc := q.loc, size := n }]
    early := m.early ++ waits.map (fun e => { e with place := .bytes q.loc n, readers := [] }) }

/-- A release fence is performed: later stores of its agent act as releases at its scope (R270). -/
def Mach.noteFence (m : Mach) (q : QEntry) : Mach :=
  let old := ((m.fenced.find? (fun p => p.1 == q.who)).map (·.2)).getD 0
  { m with fenced := (q.who, max q.sco old) :: m.fenced.filter (fun p => p.1 != q.who) }

/-! ## Commit -/

/-- Whether an access writes when it is performed: a CAS that does not find its expected value only reads (R282, R329). -/
def QEntry.writes (m : Mach) (q : QEntry) : Bool :=
  match q.op with
  | .cas size e _ _ => leNat (m.readLoc q.loc size) == e.toNat % 2 ^ (8 * size)
  | _ => true

/-- The checker's view of a queued access of a gang core, when its place is checked (R323, R325). -/
def QEntry.raceOf (m : Mach) (q : QEntry) : Option (RaceAcc × UnitRef × Word) :=
  match q.who with
  | .agent (.core g r st) =>
    let acc : RaceAcc := { gang := g, rank := r, strm := st, cls := q.cls.toNat, kind := if st = .m then 2 else 1, iv := q.icnt,
                           rd := !q.op.isStore, wr := !q.op.isLoad && q.writes m, amo := !q.op.isStore && !q.op.isLoad,
                           rel := q.rel, acq := q.acq || q.mAcq, sco := q.sco }
    match q.loc with
    | .scr g' r' o =>
      match m.core? g' r' with
      | none => none
      | some c => let u := c.unitAt o; some (acc, .scr g' r' u, mkPtr 1 r' (u * 64))
    | l => (l.glbUnit q.vd q.unit).map (fun u => (acc, u, mkPtr 0 0 (ptrOff q.va / q.unit * q.unit)))
  | _ => none

/-- An access of someone else notes itself in a checked unit (R325). -/
def QEntry.noteOutside (m : Mach) (q : QEntry) : Mach :=
  match q.who, q.loc with
  | .agent (.core _ _ _), _ => m
  | _, .scr g r o =>
    match m.core? g r with
    | none => m
    | some c =>
      let job := ((m.gang? g).bind (fun x => m.job? x.job)).map (·.num)
      m.outsideAccess q.vd (!q.op.isLoad && q.writes m) (.scr g r (c.unitAt o)) job q.op.modifies q.rel
  | w, l =>
    match l.glbUnit q.vd q.unit with
    | none => m
    | some u =>
      let job := match w with | .agent a => (m.jobOf a).map (·.num) | _ => none
      m.outsideAccess q.vd (!q.op.isLoad && q.writes m) u job q.op.modifies q.rel

/-- The checker's part of an access of a gang core to memory that has no units: a release ends its interval and publishes as
any does, without a record; an acquire merges what an acquire fence does, since no report may name an ordered pair (R326,
R327, R331; log entry 82). -/
def QEntry.noteUnchecked (m : Mach) (q : QEntry) : Mach :=
  match q.who with
  | .agent (.core g r _) =>
    let m := if q.acq then m.raceAcquireFence g r else m
    if q.rel then m.raceRelease g r q.sco q.icnt none else m
  | _ => q.noteOutside m

/-- Whether an action ends its core's interval when it is performed (R327). -/
def QEntry.endsInterval (q : QEntry) : Bool :=
  match q.op with
  | .event _ _ | .notify _ _ => true
  | .store _ | .amo _ _ _ | .cas _ _ _ _ | .fence => q.rel
  | _ => false

/-- The interval that a core's words of an ec are issued in: releases of earlier ec that are still queued end theirs before
(R325, R326). -/
def Mach.interval (m : Mach) (g r ec : Nat) : Nat :=
  let queued := m.queue.filter (fun p => p.2.endsInterval && decide (p.2.seq < ec) &&
    (match p.2.who with | .agent (.core h q _) => h == g && q == r | _ => false))
  sat24 (((m.core? g r).map (·.icnt)).getD 0 + queued.length)

/-- The interval that a word of the current agent is issued in. -/
def State.interval (s : State) : Nat := s.m.interval s.gno s.rank s.ec

/-- The snapshot that a word of the current agent takes (R326, R327). -/
def State.snap (s : State) : Snap := s.core.snap s.rank s.interval

/-- A gang issues no ec, so that a fault met in its work in flight is a deferred record (R434). -/
def Mach.isDraining (m : Mach) (g : Nat) : Bool := (m.gang? g).any (fun x => x.run != .running)

/-- A store or beat whose access is reported or meets an error: the gang stops before its next ec (R330). `redo` is what a
resume executes again of a reported access (R395). -/
def Mach.lateFault (m : Mach) (q : QEntry) (cause : BitVec 8) (addr : Word) (race : BitVec 128) (redo : Redo) : Mach :=
  match q.who with
  | .agent (.core g r st) => m.updCore g r (fun c => { c with held := c.held ++
      [{ cause := cause, addr := addr, pc := q.pc, strm := st, race := race, at_ := m.time, deferred := true, drain := m.isDraining g
         seq := if st = .m then q.word else q.seq, redo := if reportsRace cause then some redo else none }] })
  | .agent (.loupe d i c) => m.stopLoupe d i c { cause := cause, addr := addr, race := race } q.pc 0
  | _ => m

/-- An AMO's new value (R278). -/
def amoNew (code : Nat) (old b : Word) : Word :=
  match code with
  | 0 => old + b
  | 1 => sminW old b
  | 2 => smaxW old b
  | 3 => nminW old b
  | 4 => nmaxW old b
  | 5 => old &&& b
  | 6 => old ||| b
  | _ => b

/-- Bits of a sign- or zero-extended reply (R155). -/
def extend (size : Nat) (sext : Bool) (x : Nat) : Word :=
  if sext then BitVec.ofInt 64 (intOf true (8 * size) x) else BitVec.ofNat 64 x

/-- The result of a level read of a block, extended (R247). -/
def ldlBytes (ty depth level q : Nat) (block : List Byte) : List (Nat × Byte) :=
  let x := treeAvg ty depth (blockCoeffs ty depth block) level q
  offs (natLE 8 (if tyFloat ty then BitVec.ofNat 64 x else extend (tyBytes ty) true x).toNat)

/-- An acquire is performed in full: the agent's view buffer is emptied (R269). -/
def Mach.acquired (m : Mach) (w : Who) : Mach :=
  let m := m.dropCopies w
  { m with heard := m.heard.filter (fun v => v.reader != some w) }

/-- What a load leaves to a later acquire fence (R270). -/
def Mach.hear (m : Mach) (w : Who) (l : List RelVal) : Mach :=
  if !holdsCopies w then m
  else { m with heard := (l.map (fun v => { v with reader := some w })).foldl (fun h v => if h.contains v then h else h ++ [v]) m.heard }

/-- An acquire that reads some releases' values: where the scope test fails for all of them, it may be performed as the
plain access, and the view buffer stays, until a wider acquire fence (R270; log entry 9). -/
def Mach.acquireOf (m : Mach) (w : Who) (sco : Nat) (l : List RelVal) : Mach :=
  if l.isEmpty || l.any (fun v => m.pairs v.loc v.who v.sco w sco) || m.flip 11 then m.acquired w else m.hear w l

/-- A load has read bytes of releases that did not wait: an acquire fence after it may pair with them (R270). -/
def Mach.readEarly (m : Mach) (q : QEntry) : Mach :=
  if m.early.isEmpty || q.op.isStore || q.op.isFence || q.op.isRelease then m
  else { m with early := m.early.map (fun e => match e.place with
    | .bytes l n => if e.who != q.who && l.meets n q.loc q.op.size && !e.readers.contains q.who then { e with readers := q.who :: e.readers } else e
    | .fence => e) }

/-- A reported part of a reply is kept for the resume that executes it again (R395). -/
def Mach.noteAgain (m : Mach) (q : QEntry) : Mach :=
  match q.op with
  | .load _ r _ | .ldl _ _ _ r | .amo _ _ r | .cas _ _ _ r => { m with replies := tupd m.replies r (fun y => { y with again := y.again ++ [q] }) }
  | _ => m

/-- A release that a fault leaves without effect ends its interval all the same: the words behind it have been issued in the
next. -/
def QEntry.bumpOf (q : QEntry) (m : Mach) : Mach :=
  match q.who with
  | .agent (.core g r _) => m.updCore g r Core.bump
  | _ => m

/-- One access leaves its queue: a load is performed, a store or read-modify-write commits, a release or acquire acts
(R264, R265, R269). `chk` says whether the race checker sees it now (R329). An acquire load empties the view buffer before it takes
its value, of which it may place a new copy (DESIGN CHOICE, log entry 94). -/
def Mach.perform (m : Mach) (id : Nat) (q : QEntry) (chk : Bool) : Mach :=
  let m0 := m
  let m := ({ m with queue := tdel m.queue id }.unschedule (.accessCommit id)).prune id
  let own := ownBank q.who q.loc
  let m := if q.op.isLoad || q.op.modifies then m.mend q.loc q.op.size else m
  let m := q.walk.foldl (fun m l => m.mend (.dev (64 * l)) 64) m
  let err := m.walkLost q.walk || m.locError q.vd q.loc q.op.size (!q.op.isLoad) ||
    (q.op.modifies && (m.wornAt q.loc q.op.size || m.locError q.vd q.loc q.op.size false))
  let m := if err then m.logBad q.loc q.op.size else m
  let (m, rep) : Mach × Option (BitVec 8 × BitVec 128) :=
    if err || !chk || q.op.isFence || q.op.isRelease then (if err && q.endsInterval then q.bumpOf m else m, none)
    else match q.raceOf m with
      | some (x, u, ptr) => m.raceAccess x u ptr
      | none => (q.noteUnchecked m, none)
  let fault : Option (BitVec 8 × Word × BitVec 128) :=
    if err then some (0x10, q.va, 0) else rep.map (fun r => (r.1, q.va, r.2))
  let m := if rep.isSome then m.noteAgain q else m
  let vals := if m.released.isEmpty || q.op.isStore then [] else m.releasesAt q.loc q.op.size
  let m := m.readEarly q
  let m := if q.op.isFence then m else if q.acq then m.acquireOf q.who q.sco vals else if q.op.isStore then m else m.hear q.who vals
  let m := match q.who with
    | .agent (.loupe _ _ _) => if q.rel && !q.op.isArrival then m.bumpVg q.vd else m
    | _ => m
  match q.op with
  | .load size reply off =>
    let (bytes, m) := m.readView q.who q.loc size 8 (ptrOff q.va)
    let bytes := bytes.zipIdx.map (fun (b, i) => (off + i, (m0.forwarded id q (q.loc.plus i)).getD b))
    (m.markSeen id q).fillReply reply (if fault.isSome then [] else bytes) fault own 9
  | .ldl ty depth level reply =>
    let bs := 2 ^ depth * tyBytes ty.toNat
    let e := ptrOff q.va % bs / tyBytes ty.toNat
    let bytes := ldlBytes ty.toNat depth level (e / 2 ^ level) (m.readLoc q.loc bs)
    m.fillReply reply (if fault.isSome then [] else bytes) fault own 9
  | .store data =>
    match fault with
    | some (c, a, r) => m.lateFault q c a r (.store q)
    | none => ((m.writeLoc q.loc data).renewCopy q.who q.loc).noteWrite q
  | .spine ty depth level flat vals =>
    match fault with
    | some (c, a, r) => m.lateFault q c a r (.store q)
    | none =>
      let cs := blockCoeffs ty.toNat depth (m.readLoc q.loc (2 ^ depth * tyBytes ty.toNat))
      m.writeLoc q.loc (offs (coeffBytes ty.toNat (spineCommit ty.toNat depth cs level flat vals)))
  | .amo code b reply =>
    let old := BitVec.ofNat 64 (leNat (m.readLoc q.loc 8))
    let m := if fault.isSome then m
      else ((m.writeLoc q.loc (offs (natLE 8 (amoNew code old b).toNat))).renewCopy q.who q.loc).noteWrite q
    m.fillReply reply (offs (natLE 8 old.toNat)) fault own 9
  | .cas size e n reply =>
    let old := leNat (m.readLoc q.loc size)
    let m := if fault.isSome then m
      else if old = e.toNat % 2 ^ (8 * size) then ((m.writeLoc q.loc (offs (natLE size n.toNat))).renewCopy q.who q.loc).noteWrite q
      else match q.loc.granNo with | some g => m.dropCopy q.who g | none => m
    m.fillReply reply (offs (natLE size old)) fault own 9
  | .fence =>
    let m := if q.rel then m.noteFence q else m
    let m := match q.who with
      | .agent (.core g r _) =>
        let m := if q.rel then m.raceRelease g r q.sco q.icnt none else m
        if q.acq then m.raceAcquireFence g r else m
      | _ => m
    if q.acq then m.acquireOf q.who q.sco (m.heard.filter (fun v => v.reader == some q.who)) else m
  | .arrive vd bar gen => m.schedule .mc m.time (.barrierArrivalCount vd bar gen)
  | .event vd rec_ =>
    let m := match q.who with | .agent (.core g r _) => m.raceRelease g r 4 q.icnt none | _ => m
    m.updVd vd (fun v => if v.events.length ≥ 4096 then { v with lost := v.lost + 1 } else { v with events := v.events ++ [rec_] })
  | .notify vd ptr =>
    let m := match q.who with | .agent (.core g r _) => m.raceRelease g r 4 q.icnt none | _ => m
    m.schedule .mc m.time (.lnotify vd ptr)
  | .mend tile rel snap =>
    let m := if rel then m.publish q.gang snap else m
    let m := if rel && decide (q.sco ≥ 2) then m.bumpVg q.vd else m
    match tile with
    | some t => m.schedule .mc m.time (.mdrnComplete q.gang q.rank t rel (BitVec.ofNat 3 q.sco))
    | none => m

/-- An acquire of some bytes, passed by a younger access, that would read a release of a store and pair with it (R270). -/
def Mach.cutOff (m : Mach) (q p : QEntry) : Bool :=
  p.passed && p.who != q.who && !q.op.isLoad && p.meets q && (m.releaseScope q).any (fun s => m.pairs q.loc q.who s p.who p.sco)

/-- The entries that keep an entry in its queue: older ones; those that a release whose bytes it reads or writes has not
waited for; and acquires that younger accesses have passed, which are performed before a release they would pair with. -/
def Mach.blockers (m : Mach) (id : Nat) (q : QEntry) : List (Nat × QEntry) :=
  let owed := if m.early.isEmpty || q.op.isRelease then []
    else if q.op.isFence then (if q.acq then m.owedFence q.who q.sco else [])
    else m.owed q.who (if q.acq then some q.sco else none) q.loc q.op.size
  m.queue.filter (fun p => (decide (p.1 < id) && blocks p.2 q) || owed.contains p.1 || (p.2.passed && m.cutOff q p.2))

/-- An entry leaves its queue after every entry that keeps it there, oldest first (R264). The first argument bounds the
depth; the length of the queue is enough. -/
def Mach.force : Nat → Mach → Nat → Mach
  | 0, m, _ => m
  | n + 1, m, id =>
    match tget m.queue id with
    | none => m
    | some q =>
      let m := (m.blockers id q).foldl (fun m p => Mach.force n m p.1) m
      if (tget m.queue id).isSome then m.fresh.perform id q true else m

/-- Entries leave their queues. -/
def Mach.forceAll (m : Mach) (ids : List Nat) : Mach := ids.foldl (fun m id => Mach.force (m.queue.length + 1) m id) m

/-- What a read of bytes outside the queues finds committed (R270). -/
def Mach.observe (m : Mach) (w : Who) (acq : Option Nat) (l : Loc) (n : Nat) : Mach :=
  if m.early.isEmpty then m else m.forceAll (m.owed w acq l n)

/-- An access that reaches its commit point now. -/
def Mach.commitNow (m : Mach) (q : QEntry) : Mach :=
  let (id, m) := m.newId
  Mach.force (m.queue.length + 1) { m with queue := m.queue ++ [(id, q)] } id

/-- A load of the own bank performed now, to be checked at the end of the ec (R271, R329). -/
def Mach.loadNow (m : Mach) (q : QEntry) : Mach :=
  let (id, m) := m.newId
  let m := m.forceAll ((m.blockers id q).map (·.1))
  m.perform id q false

/-- The queued accesses of a core's streams to its own bank, in a class that is ordered with `cls`, reach it before an
access of the core in a later ec (R271). -/
def Mach.settleBank (m : Mach) (g r : Nat) (cls : BitVec 3) : Mach :=
  m.forceAll ((m.queue.filter (fun p => sameClass p.2.cls cls && !p.2.op.isRelease &&
    (match p.2.who, p.2.loc with
     | .agent (.core g' r' _), .scr g'' r'' _ => g' == g && r' == r && g'' == g && r'' == r
     | _, _ => false))).map (·.1))

/-- Every queued access of one agent leaves its queue. -/
def Mach.flushWho (m : Mach) (w : Who) : Mach := m.forceAll ((m.queue.filter (fun p => p.2.who == w)).map (·.1))

/-- The queued accesses of a core's streams whose words issued before an ec leave their queues (R272). -/
def Mach.flushCore (m : Mach) (g r ec : Nat) : Mach :=
  m.forceAll ((m.queue.filter (fun p => decide ((if p.2.strm = .m then p.2.word else p.2.seq) < ec) &&
    (match p.2.who with | .agent (.core h q _) => h == g && q == r | _ => false))).map (·.1))

/-- Every queued access of a gang's streams leaves its queue (R76, R391). -/
def Mach.flushGang (m : Mach) (g : Nat) : Mach :=
  m.forceAll ((m.queue.filter (fun p => match p.2.who with | .agent (.core g' _ _) => g' == g | _ => false)).map (·.1))

/-- The releases that can be performed without waiting: one narrower than system scope that carries a store, or a release
fence (R270). An arrival counts only when every older access has left its queue (R289). -/
def QEntry.mayHurry (q : QEntry) : Bool :=
  q.rel && decide (q.sco < 5) && (match q.op with
    | .store _ | .amo _ _ _ | .cas _ _ _ _ => true
    | .fence => !q.acq
    | _ => false)

/-- A release leaves its queue before older stores in other nonzero classes, which an observer within its scope finds
committed all the same: outside its scope it is the plain access it carries (R264, R270; log entry 9). -/
def Mach.hurry (m : Mach) (id : Nat) (q : QEntry) : Mach :=
  let late (p : Nat × QEntry) : Bool := p.2.who == q.who && p.2.op.isStore &&
    (match q.op with | .store _ | .amo _ _ _ | .cas _ _ _ _ => p.2.cls != 0 && p.2.cls != q.cls && !p.2.meets q | _ => true)
  let m := m.forceAll (((m.blockers id q).filter (fun p => !late p)).map (·.1))
  let deps := ((m.blockers id q).filter late).map (·.1)
  let place : RelAt := match q.op with | .fence => .fence | _ => .bytes q.loc q.op.size
  let m := m.fresh.perform id q true
  if deps.isEmpty then m
  else { m with early := m.early ++ [{ who := q.who, sco := q.sco, cls := q.cls, place := place, deps := deps }] }

/-- An older acquire load of another class, which a younger access that is no release or fence may pass while no release
stands there that pairs with it: the acquire is then the plain load (R264, R270). -/
def Mach.mayPass (m : Mach) (old new : QEntry) : Bool :=
  old.acq && old.op.isLoad && old.who == new.who && !sameClass old.cls new.cls && !new.rel && !new.op.isFence && !new.op.isRelease &&
  !(m.releasesAt old.loc old.op.size).any (fun v => m.pairs v.loc v.who v.sco old.who old.sco)

/-- An entry leaves its queue past older acquires: they will read no release that pairs with them (R270; log entry 9). -/
def Mach.pass (m : Mach) (id : Nat) (q : QEntry) (past : List Nat) : Mach :=
  let m := { m with queue := m.queue.map (fun (j, (o : QEntry)) => (j, if past.contains j then { o with passed := true } else o)) }
  let m := m.forceAll (((m.blockers id q).filter (fun p => !past.contains p.1)).map (·.1))
  m.fresh.perform id q true

/-! ## Events of the ordering machine -/

/-- An event that happens only in some states. -/
def event (enabled : Bool) (m' : Mach) (s : State) : Host.Outcome State Fault Refusal :=
  if enabled then .next { s with m := m' } else .fault .notEnabled

/-- ACCESS_COMMIT: a queued access leaves its queue (R264). One that waits for a repair or for a channel does so later, in a later
master cycle (R409, R412). -/
def execAccessCommit (id : Nat) (s : State) : Host.Outcome State Fault Refusal :=
  match tget s.m.queue id with
  | none => .fault .notEnabled
  | some q =>
    let m := s.m.fresh
    let past := ((m.blockers id q).filter (fun p => m.mayPass p.2 q)).map (·.1)
    let wait := m.stalled q.loc q.op.size q.op.isStore q.walk
    .next { s with m :=
      if wait then (m.trapFor q.loc q.op.size).schedule .mc (m.time + 1) (.accessCommit id)
      else if q.mayHurry && m.flip 12 then m.hurry id q
      else if !past.isEmpty && m.flip 14 then m.pass id q past
      else Mach.force (m.queue.length + 1) m id }

/-- The copies of a granule that an agent holds, or the commands that it issued. -/
def Mach.copiesOf (m : Mach) (a : Agent) (granule : Nat) : List Copy :=
  m.copies.filter (fun c => c.gran == granule && (c.who == .agent a || (match c.who with
    | .cmd id => (tget m.cmds id).any (fun k => match k.owner with | .t g r => a == .core g r .t | .l d i x => a == .loupe d i x)
    | _ => false)))

/-- VIEW_BUFFER_DROP: the machine drops a copy of a granule, of an agent's or of one of its commands (R265). -/
def execViewBufferDrop (a : Agent) (granule : Nat) (s : State) : Host.Outcome State Fault Refusal :=
  let m := s.m.fresh
  match m.copiesOf a granule with
  | [] => .fault .notEnabled
  | c :: cs => .next { s with m := { m with copies := m.copies.erase (cs.getD (m.draw 13 % (cs.length + 1)) c) } }

/-- REPLY_ARRIVAL: the reply is there; it is held to its due slot, or lets the gang go on (R60). -/
def execReplyArrival (id : Nat) (s : State) : Host.Outcome State Fault Refusal :=
  match tget s.m.replies id with
  | some r => event (r.missing == 0 && !r.arrived && r.page.isNone)
      { s.m with replies := tset s.m.replies id { r with arrived := true } } s
  | none => .fault .notEnabled

end Sys2Proof.Machine
end

