-- ==== Sys2Proof/Machine/Ops.lean ====
section
/-! DEFINITION. The named operations of the machine on results in flight, and TAKING AN EXCEPTION: the precise stop of
R391 with its report (R393), and the resume of R395. -/
namespace Sys2Proof.Machine

/-! ## Results in flight -/

/-- Tag state of a granule of a core. -/
def Core.granTag (c : Core) (g : Nat) : TagState := vget c.gran g {}

/-- Whether the granules of a first read are pending, and whether some tag differs from the one expected; an expected
0xFFFF always differs (R67, R69). -/
def Gang.firstPending (x : Gang) (f : FirstRead) : Bool :=
  match x.cores[f.rank]? with
  | none => false
  | some c => f.grans.any (fun g => (c.granTag g).pending)

def Gang.firstWrong (x : Gang) (f : FirstRead) : Bool :=
  match x.cores[f.rank]? with
  | none => false
  | some c => f.tag == 0xFFFF || f.grans.any (fun g => (c.granTag g).tag != f.tag)

/-- A result that could not land yet: its reply is missing, or a first read is pending. -/
def Mach.waiting (m : Mach) (x : Gang) (p : Pend) : Bool :=
  (match p.reply with
   | none => false
   | some id => match tget m.replies id with | none => false | some r => !r.arrived) ||
  (match p.first with
   | none => false
   | some f => x.firstPending f)

/-- The fault a result meets at its due slot (R69, R159, R330). -/
def Mach.landFault (m : Mach) (x : Gang) (p : Pend) : Option (BitVec 8 × Word × BitVec 128) :=
  match p.fault with
  | some e => some e
  | none =>
    match p.reply.bind (fun id => (tget m.replies id).bind (·.fault)) with
    | some e => some e
    | none =>
      match p.first with
      | some f => if x.firstWrong f then some (0x07, 0, 0) else none
      | none => none

/-- The bytes of a reply, low offset first. -/
def Reply.bytes (r : Reply) (n : Nat) : List Byte :=
  (List.range n).map (fun i => ((r.buf.find? (fun p => p.1 == i)).map (·.2)).getD 0)

/-- A scalar write given its value. -/
def Write.withWord (v : Word) : Write → Write
  | .s n _ => .s n v
  | w => w

/-- A row write given its value. -/
def Write.withRow (v : Row) : Write → Write
  | .v n _ => .v n v
  | .vm n k _ => .vm n k v
  | .tile t i k _ => .tile t i k v
  | w => w

/-- A result completed from its reply's bytes (R156, R192). -/
def Mach.complete (m : Mach) (p : Pend) : Pend :=
  match p.reply.bind (tget m.replies), p.form with
  | some r, some (.scalar size sx) =>
    let v := extend size sx (leNat (r.bytes size))
    { p with writes := p.writes.map (Write.withWord v), latchS := p.latchS.map (fun l => (l.1, l.2.1, v)) }
  | some r, some .row =>
    let v := rowOf (r.bytes 256)
    { p with writes := p.writes.map (Write.withRow v), latchV := p.latchV.map (fun l => (l.1, l.2.1, v)) }
  | _, _ => p

/-- A result taken off the list of those in flight. -/
def Core.dropPend (c : Core) (p : Pend) : Core := { c with seq := { c.seq with pend := c.seq.pend.filter (fun q => q != p) } }

/-- Results in the order they land: the ec they are due, then S, V, M, T, then age (R23). -/
def landOrder (l : List Pend) : List Pend :=
  sortBy (fun a b => decide (a.due < b.due) || (a.due == b.due &&
    (decide (a.strm.idx < b.strm.idx) || (a.strm.idx == b.strm.idx && decide (a.seq < b.seq))))) l

/-- The scratchpad of a core as a V load of a rank finds it: older stores of its own that are still queued, in its class or
either in class 0, lie above it (R194, R265). -/
def Mach.withOwn (m : Mach) (g r : Nat) (p : Pend) (v : RowSpec) (c : Core) : Core :=
  { c with scr := m.queue.foldl (fun t (_, q) =>
      match q.op, q.loc with
      | .store data, .scr h k o => if q.who == .agent (.core g r .v) && h == g && k == v.rank && decide (q.seq < p.seq) && sameClass q.cls v.cls
          then Memory.writeAt t o data else t
      | _, _ => t) c.scr }

/-- The row of a V load of a rank taken at its due slot, into the write and the latch of its result. -/
def Mach.reread (m : Mach) (g r : Nat) (p : Pend) : Pend :=
  match p.row with
  | none => p
  | some v =>
    match m.core? g v.rank with
    | none => p
    | some c =>
      let (row, f) := (m.withOwn g r p v c).row v
      { p with writes := p.writes.map (Write.withRow row), latchV := p.latchV.map (fun l => (l.1, l.2.1, row)), flags := f }

/-- A first read whose tags agree: it learns of the stamping commands, takes its bytes anew where a command completed
since it issued, and its access is checked then (R69, R273, R327). -/
def Mach.readFirst (m : Mach) (g r : Nat) (p : Pend) (f : FirstRead) : Mach × Pend × Option (BitVec 8 × Word × BitVec 128) :=
  match m.core? g f.rank with
  | none => (m, p, none)
  | some c =>
    let tags := f.grans.map c.granTag
    let m := tags.foldl (fun m t => m.learnStamp g r t) m
    let p := if tags.map (·.done) == f.done then p else m.reread g r p
    let units := match p.row with | none => [] | some v => v.units
    let (m, rep) := m.raceUnits
      { gang := g, rank := r, strm := .v, cls := f.cls.toNat, kind := 1, iv := f.icnt, rd := true, wr := false } f.rank units
    (m, p, rep)

/-- What a resume executes again of a result whose access was reported (R395). -/
def Mach.redoOf (m : Mach) (p : Pend) : Redo :=
  match p.reply.bind (tget m.replies) with
  | some r => .load p r.buf r.again
  | none => .row p

/-- A fault kept as a record to be raised: before the next ec, or where the gang drains after a resume (R392, R434). -/
def Mach.defer (m : Mach) (g r : Nat) (p : Pend) (e : BitVec 8 × Word × BitVec 128) (redo : Redo) : Mach :=
  m.updCore g r (fun c => { c with held := c.held ++
    [{ cause := e.1, addr := e.2.1, pc := p.pc, strm := p.strm, race := e.2.2, at_ := m.time, deferred := true, drain := m.isDraining g
       seq := p.seq, redo := if reportsRace e.1 then some redo else none }] })

/-- One result of a rank lands, or meets its fault, which is kept as a deferred record (R434). -/
def Mach.deliver (m : Mach) (g r : Nat) (p : Pend) : Mach :=
  match m.gang? g with
  | none => m
  | some x =>
    let m' := m.updCore g r (fun c => c.dropPend p)
    let q := m.complete p
    let m' := { m' with replies := match p.reply with | none => m'.replies | some id => tdel m'.replies id }
    match m.landFault x p with
    | some e => m'.defer g r p e (m.redoOf p)
    | none =>
      match p.first with
      | none => m'.updCore g r (fun c => c.land q)
      | some f =>
        match m'.readFirst g r q f with
        | (m', _, some e) => m'.defer g r p e (.row p)
        | (m', q, none) => m'.updCore g r (fun c => c.land q)

/-- The results of a rank are delivered in their order, up to the first that must wait (R23, R76, R391). -/
def Mach.deliverRank (m : Mach) (g r : Nat) : Mach :=
  match m.gang? g, m.core? g r with
  | some x, some c => ((landOrder c.seq.pend).takeWhile (fun p => !m.waiting x p)).foldl (fun m p => m.deliver g r p) m
  | _, _ => m

/-- The results of a gang are delivered, as far as they need not wait. -/
def Mach.deliverAll (m : Mach) (g : Nat) : Mach :=
  match m.gang? g with
  | none => m
  | some x => (List.range x.cores.length).foldl (fun m r => m.deliverRank g r) m

/-- Whether every result, M command and T command of a gang has been delivered (R76, R391). -/
def Mach.drained (m : Mach) (g : Nat) : Bool :=
  match m.gang? g with
  | none => true
  | some x =>
    x.cores.all (fun c => c.seq.pend.isEmpty && c.mat.beats.isEmpty) &&
    !(m.cmds.any (fun p => match p.2.owner with | .t h _ => h == g | .l _ _ _ => false)) &&
    !(m.agenda.any (fun d => d.clk == .ec g)) &&
    !(m.queue.any (fun p => match p.2.who with | .agent (.core h _ _) => h == g | _ => false))

/-! ## Taking an exception (R391-R393) and resuming (R395) -/

/-- The 384 bits of a report (R393). -/
def Report.bits (r : Report) : Nat :=
  1 + r.time.toNat * 2 ^ 8 + r.cause.toNat * 2 ^ 72 + r.kind.toNat * 2 ^ 80 + r.gang.toNat * 2 ^ 82 +
  r.rank.toNat * 2 ^ 90 + r.strm.toNat * 2 ^ 96 + r.pc.toNat * 2 ^ 98 + r.code.toNat * 2 ^ 128 +
  r.goix.toNat * 2 ^ 144 + r.resume.toNat * 2 ^ 160 + r.addr.toNat * 2 ^ 192 + r.race.toNat * 2 ^ 256

/-- The report of a fault of a word of a gang (R393). -/
def Gang.mkReport (x : Gang) (time : Nat) (rank : Nat) (st : Stream) (pc : BitVec 14) (kind : BitVec 2) (e : Exc) : Report :=
  { race := if reportsRace e.cause then e.race else 0
    addr := if reportsAddr e.cause then e.addr else 0
    code := if e.cause = 0x11 then e.code.zeroExtend 16 else 0
    pc := pc, strm := strCode st, rank := BitVec.ofNat 6 rank, gang := x.idx, kind := kind, cause := e.cause
    time := BitVec.ofNat 64 time, halt := e.halt }

/-- TAKING AN EXCEPTION: the gang stops at the ec that stands in `m`, the words of that ec not having taken effect. It
issues nothing more; its results land, whatever their due ec, and its M and T commands drain, while the gang is draining,
and the stop then ends with the report (R391, R393). The recorded PC of each stream is its PC. -/
def Mach.takeStop (m : Mach) (g : Nat) (rep : Report) : Mach :=
  m.updGang g (fun x => { x with run := .draining .stop, report := some rep, causes := [], frozen := 0, frozenAt := none, redo := [], wrote := none })

/-- The end of a stop: the report goes into bytes 64-111 of the save area header, a release at device scope follows, and a
notice goes to the kernel (R326, R393); of a gang of an ending job nothing is left to tell. -/
def Mach.postStop (m : Mach) (g : Nat) : Mach :=
  match m.gang? g with
  | none => m
  | some x =>
    if x.killed then m.updGang g (fun x => { x with run := .stopped })
    else
    let bytes := match x.report with | none => List.replicate 48 0 | some r => natLE 48 r.bits
    let m := { m with dev := Memory.write m.dev (x.save.toNat + 64) bytes }
    ((m.updGang g (fun x => { x with run := .stopped })).bumpVg x.vd).notify (.stop g)

/-- A resume of a core: a group switch for every stream, every stream at its recorded PC (R395). -/
def Core.resume (c : Core) : Core :=
  let c := [Stream.s, .v, .m, .t].foldl Core.groupSwitch c
  { c with seq := { c.seq with strm := c.seq.strm.map (fun r => { r with wait := 0, bub := 0 }) } }

/-- The fault records that a core holds are raised one per resume from now on (R434). -/
def Core.drainHeld (c : Core) : Core := { c with held := c.held.map (fun h => if h.deferred then { h with drain := true } else h) }

/-- RETURNING FROM AN EXCEPTION: the gang goes on at its recorded PCs; its spacing count starts at its first ec (R75,
R394, R395). -/
def Gang.resumed (x : Gang) : Gang :=
  { x with
    run := .running, report := none, mark := x.cyc, causes := [], frozen := 0, frozenAt := none, redo := []
    cores := x.cores.map (fun c => c.resume.drainHeld) }

end Sys2Proof.Machine
end

