-- ==== Sys2Proof/Machine/Barrier.lean ====
section
/-! DEFINITION. Groups, sequence tags (R67, R68), the barrier table (R284-R296) and joins (R55-R58). -/
namespace Sys2Proof.Machine

/-! ## Groups (R54, R107) -/

/-- The job number an agent's words belong to. -/
def Mach.jobNo (m : Mach) : Agent → Nat
  | .core g _ _ => ((m.gang? g).map (·.job)).getD 0
  | .loupe d i c => ((m.ctx? d i c).bind (·.job)).getD 0

/-- An entry of the job's window of the group table. -/
def Mach.group (m : Mach) (a : Agent) (g : Nat) : Group :=
  let base := ((m.jobOf a).map (·.grpBase)).getD 0
  (tget (m.vd (m.vdOf a)).groups (base + g)).getD {}

/-- The index of a gang in its job and the number of its ranks, on its cores or saved. -/
def Mach.gangShape (m : Mach) (g : Nat) : Option (Nat × Nat) :=
  match tget m.away g with
  | some a => some (a.idx.toNat, a.ranks.length)
  | none => (m.gang? g).map (fun x => (x.idx.toNat, x.cores.length))

/-- The state of each stream of a rank, on its core or saved. -/
def Mach.streams (m : Mach) (g r : Nat) : Option (Stream → StreamState) :=
  match tget m.away g with
  | some a => (a.ranks[r]?).map (fun c st => vget c.strm st.idx .unused)
  | none => (m.core? g r).map (fun c st => (c.seq.regs st).st)

/-- A saved rank changed. -/
def Mach.updAway (m : Mach) (g r : Nat) (f : AwayRank → AwayRank) : Mach :=
  { m with away := tupd m.away g (fun a => { a with ranks := a.ranks.modify r f }) }

/-- The gang cores of a group of a job: gang number and rank. -/
def Mach.groupCores (m : Mach) (j : Job) (grp : Group) : List (Nat × Nat) :=
  j.gangs.flatMap (fun g =>
    match m.gangShape g with
    | none => []
    | some (idx, n) =>
      match grp.cores.find? (fun p => p.1 == idx) with
      | none => []
      | some (_, mask) => ((List.range n).filter (fun r => mask.getLsbD r)).map (fun r => (g, r)))

/-- The Loupe cores of a group: die, index, context. -/
def Mach.groupLoupes (m : Mach) (j : Job) (grp : Group) : List (Nat × Nat × Nat) :=
  j.loupes.filterMap (fun (d, i) =>
    if grp.loupes.getLsbD i then (m.partition j.vd d i).map (fun p => (d, i, p.1)) else none)

/-- Whether an agent's core, or Loupe core, is in a group. -/
def Mach.inGroup (m : Mach) (a : Agent) (grp : Group) : Bool :=
  match a with
  | .core g r _ => (m.gangShape g).any (fun s => grp.cores.any (fun p => p.1 == s.1 && p.2.getLsbD r))
  | .loupe _ i _ => grp.loupes.getLsbD i

/-- Every member of a group as an agent: cores by their S stream, then Loupe contexts. -/
def Mach.members (m : Mach) (j : Job) (grp : Group) : List Agent :=
  (m.groupCores j grp).map (fun p => .core p.1 p.2 .s) ++ (m.groupLoupes j grp).map (fun p => .loupe p.1 p.2.1 p.2.2)

/-- A member still able to arrive: its S stream, or its Loupe program, has not ended (R284, R287). -/
def Mach.memberLive (m : Mach) : Agent → Bool
  | .core g r _ =>
    match m.streams g r with
    | none => false
    | some f => !(m.gang? g).any (·.killed) && (match f .s with | .live | .arrived _ _ => true | .unused | .ended => false)
  | .loupe d i c =>
    match m.ctx? d i c with
    | none => false
    | some x => match x.run with
      | .loaded | .running | .waiting _ _ _ | .service _ | .tlbi _ | .stopped => true
      | .free | .ended | .skipped => false

/-! ## Tags (R67, R68) -/

/-- A command is issued on a target: pending, one more outstanding. -/
def TagState.issue (t : TagState) : TagState :=
  { t with pending := true, count := t.count + 1, seen := if t.pending then t.seen else none }

/-- A command completes on a target: the tag it leaves, one less outstanding, and who it was. -/
def TagState.complete (t : TagState) (tag : BitVec 16) (src : Nat × Nat × Bool) : TagState :=
  let v := match t.seen with | none => tag | some u => if u = tag then tag else 0xFFFF
  { t with tag := v, seen := some v, count := t.count - 1, pending := decide (1 < t.count),
           done := t.done + 1, src := some src }

def Mach.updTarget (m : Mach) (t : Target) (f : TagState → TagState) : Mach :=
  match t with
  | .gran g r k => m.updCore g r (fun c => { c with gran := vupd c.gran k f })
  | .slot g q n => m.updGang g (fun x => { x with quads := x.quads.modify q (fun y =>
      { y with slot := vupd y.slot n (fun s => { s with tag := f s.tag }) }) })

def Mach.targetTag (m : Mach) (t : Target) : TagState :=
  match t with
  | .gran g r k => ((m.core? g r).map (fun c => c.granTag k)).getD {}
  | .slot g q n => (((m.gang? g).bind (fun x => x.quads[q]?)).map (fun y => (vget y.slot n {}).tag)).getD {}

/-- The granules of 4 KiB that bytes of a scratchpad meet. -/
def granules (off n : Nat) : List Nat :=
  if n = 0 then [] else (List.range ((off + n - 1) / 4096 - off / 4096 + 1)).map (· + off / 4096)

/-! ## Arrival records (R285) -/

/-- The index of a job's barrier in the table (R107). -/
def Mach.barIdx (m : Mach) (a : Agent) (bid : Nat) : Nat := ((m.jobOf a).map (·.barBase)).getD 0 + bid

def Mach.bar (m : Mach) (vd k : Nat) : Barrier := (tget (m.vd vd).bars k).getD {}
def Mach.updBar (m : Mach) (vd k : Nat) (f : Barrier → Barrier) : Mach :=
  m.updVd vd (fun v => { v with bars := tset v.bars k (f ((tget v.bars k).getD {})) })

/-- What is kept of a saved rank. -/
def Mach.awayRank (m : Mach) (g r : Nat) : Option AwayRank := (tget m.away g).bind (fun a => a.ranks[r]?)

/-- The arrival record of an agent for a barrier id of its job. -/
def Mach.arrRec (m : Mach) (a : Agent) (bid : Nat) : Option (BitVec 16) :=
  match a with
  | .core g r _ => match m.awayRank g r with
    | some c => tget c.arr bid
    | none => (m.core? g r).bind (fun c => tget c.arr bid)
  | .loupe d i c => (m.ctx? d i c).bind (fun x => tget x.arr bid)

def Mach.setArr (m : Mach) (a : Agent) (bid : Nat) (v : Option (BitVec 16)) : Mach :=
  let f (t : Tab (BitVec 16)) := match v with | none => tdel t bid | some g => tset t bid g
  match a with
  | .core g r _ => if (m.awayRank g r).isSome then m.updAway g r (fun c => { c with arr := f c.arr })
    else m.updCore g r (fun c => { c with arr := f c.arr })
  | .loupe d i c => m.updCtx d i c (fun x => { x with arr := f x.arr })

/-- A generation has passed (R285). -/
def Barrier.passed (b : Barrier) (g : BitVec 16) : Bool :=
  decide (1 ≤ (b.gen - g).toNat) && decide ((b.gen - g).toNat ≤ 2 ^ 15)

/-- The window base, virtual device and job number of the job whose window holds a barrier. -/
def Mach.barJob (m : Mach) (vd k : Nat) : Option (Nat × Job) :=
  (m.jobs.find? (fun p => p.2.vd == vd && (p.2.st == .running || p.2.st == .bound || p.2.st == .stopped) &&
    decide (p.2.barBase ≤ k) && decide (k < p.2.barBase + p.2.hdr.nbar)))

/-- Members of a barrier (R285). -/
def Mach.barMembers (m : Mach) (vd k : Nat) : List Agent :=
  match m.barJob vd k with
  | none => []
  | some (_, j) => m.members j ((tget (m.vd vd).groups (j.grpBase + (m.bar vd k).group.toNat)).getD {})

/-! ## Completion (R294), orphans (R296) -/

/-- One test for completion, with the merge of the horizon. -/
def Mach.testBar (m : Mach) (vd k : Nat) : Mach :=
  let b := m.bar vd k
  if b.act && !b.orph && !b.brk && b.arr == b.exp && b.pend == 0 then
    let again := decide (b.harr > 0) || decide (b.hpend > 0)
    (m.updBar vd k (fun b => { b with
      gen := b.gen + 1, arr := b.harr, pend := b.hpend, harr := 0, hpend := 0, exp := b.live
      past := ((b.gen, b.now) :: b.past).take 4, now := b.next, next := {}, dirty := again })).bumpVg vd
  else m.updBar vd k (fun b => { b with dirty := false })

/-- The tests of a master cycle, after every event of it: at most two phases complete, since a merge empties the
horizon. -/
def Mach.testBars (m : Mach) : Mach :=
  m.vds.foldl (fun m (v, d) => (d.bars.filter (fun p => p.2.dirty)).foldl (fun m (k, _) =>
    let m := m.testBar v k
    if (m.bar v k).dirty then m.testBar v k else m) m) m

/-- Arrivals of a phase whose release has not been performed yet. -/
def Mach.uncounted (m : Mach) (vd k : Nat) (gen : BitVec 16) : Nat :=
  (m.queue.filter (fun p => p.2.op == .arrive vd k gen)).length +
  (m.agenda.filter (fun d => d.ev == .barrierArrivalCount vd k gen)).length

/-- The barrier is orphaned when more arrivals are missing than live members can make (R296; log entry 25). -/
def Mach.orphanTest (m : Mach) (vd k : Nat) : Mach :=
  let b := m.bar vd k
  match m.barJob vd k with
  | none => m
  | some (_, j) =>
    let able := ((m.barMembers vd k).filter (fun a => m.memberLive a && m.arrRec a (k - j.barBase) != some b.gen)).length
    if b.act && decide (b.exp - b.arr - m.uncounted vd k b.gen > able) then m.updBar vd k (fun b => { b with orph := true }) else m

/-- A barrier orphaned by a cancelled command (R296, R320). -/
def Mach.orphan (m : Mach) (vd k : Nat) : Mach := m.updBar vd k (fun b => { b with orph := true })

/-- A completed command subtracts its bytes from the phase it was bound to (R293). -/
def Mach.subBytes (m : Mach) (vd k : Nat) (gen : BitVec 16) (n : Nat) : Mach :=
  m.updBar vd k (fun b =>
    let b := { b with dirty := true }
    if n = 0 then b
    else if gen = b.gen then { b with pend := b.pend - n, brk := b.brk || decide (b.pend < n) }
    else if gen = b.gen + 1 then { b with hpend := b.hpend - n, brk := b.brk || decide (b.hpend < n) }
    else { b with brk := true })

/-- A member leaves a barrier: withdrawn, or killed. Its arrival in the horizon is taken back: still queued, on its way to
the count, where the arrivals of a phase are all alike, or counted (R295). -/
def Mach.leaveBar (m : Mach) (vd k : Nat) (a : Agent) (bid : Nat) (killed : Bool) : Mach :=
  let b := m.bar vd k
  let ag := m.arrRec a bid
  let m := m.updBar vd k (fun b => { b with
    live := b.live - 1
    exp := if killed || ag == some b.gen then b.exp else b.exp - 1
    dirty := true })
  if ag == some (b.gen + 1) then
    match m.queue.find? (fun p => p.2.who == .agent a && p.2.op == .arrive vd k (b.gen + 1)),
        m.agenda.find? (fun d => d.ev == .barrierArrivalCount vd k (b.gen + 1)) with
    | some (id, _), _ => { m with queue := tdel m.queue id }.unschedule (.accessCommit id)
    | none, some d => { m with agenda := m.agenda.erase d }
    | none, none => m.updBar vd k (fun b => { b with harr := b.harr - 1 })
  else m

/-- A core or Loupe core leaves every initialised barrier of its job it is a live member of (R295). -/
def Mach.leaveBars (m : Mach) (j : Job) (a : Agent) (killed : Bool) : Mach :=
  (List.range j.hdr.nbar).foldl (fun m bid =>
    let k := j.barBase + bid
    let b := m.bar j.vd k
    let grp := (tget (m.vd j.vd).groups (j.grpBase + b.group.toNat)).getD {}
    if b.act && m.inGroup a grp then m.leaveBar j.vd k a bid killed else m) m

/-- The orphan test of every barrier of a job, after its members were killed. -/
def Mach.orphanTests (m : Mach) (j : Job) : Mach :=
  (List.range j.hdr.nbar).foldl (fun m bid => m.orphanTest j.vd (j.barBase + bid)) m

/-- Members of a job are killed, those still live: they leave its barriers, are dead from then on, and the barriers left may be
orphaned (R295, R296). -/
def Mach.killMembers (m : Mach) (j : Job) (l : List Agent) (dead : Mach → Mach) : Mach :=
  (dead ((l.filter (fun a => m.memberLive a)).foldl (fun m a => m.leaveBars j a true) m)).orphanTests j

/-- The members of a gang. -/
def Mach.gangMembers (m : Mach) (g : Nat) : List Agent :=
  (List.range (((m.gangShape g).map (·.2)).getD 0)).map (fun r => Agent.core g r .s)

/-- A gang issues no further word and will not resume. -/
def Mach.deadGang (m : Mach) (g : Nat) : Mach :=
  { m with away := tdel m.away g }.updGang g (fun x => { x with killed := true, causes := [] })

/-- A gang of an ending job is killed, and its members with it (R295, R394). -/
def Mach.killGang (m : Mach) (j : Job) (g : Nat) : Mach := m.killMembers j (m.gangMembers g) (fun m => m.deadGang g)

/-! ## The checks and effects of BAR words (R435, R287-R291) -/

/-- Checks 1 to 3 of R435. -/
def Mach.barOpen (m : Mach) (vd k : Nat) : Except Stop Unit := do
  let b := m.bar vd k
  need b.act 0x07
  need (!b.orph) 0x0B
  need (!b.brk) 0x0C

/-- Check 4 of R435: a live member that has not arrived in the horizon. -/
def Mach.barMayArrive (m : Mach) (a : Agent) (vd k bid : Nat) : Except Stop Unit :=
  let b := m.bar vd k
  need (m.memberLive a && m.inGroup a (m.group a b.group.toNat) && m.arrRec a bid != some (b.gen + 1)) 0x07

/-- INIT's idle test (R287). -/
def Mach.barIdle (m : Mach) (vd k : Nat) : Bool :=
  let b := m.bar vd k
  b.arr == 0 && b.harr == 0 && b.pend == 0 && b.hpend == 0 &&
  !(m.cmds.any (fun p => p.2.vd == vd && (p.2.bar.map (·.1)) == some k)) &&
  !(m.gangs.any (fun p => p.2.vd == vd && p.2.causes.any (fun c => match c.kind with | .barrier i _ _ => i == k | _ => false)))

/-- INIT's effect (R287). -/
def Mach.barInit (m : Mach) (a : Agent) (vd k bid g : Nat) : Mach :=
  match m.jobOf a with
  | none => m
  | some j =>
    let ms := m.members j (m.group a g)
    let live := (ms.filter (fun a => m.memberLive a)).length
    let m := m.updBar vd k (fun b => { b with
      group := BitVec.ofNat 8 g, live := live, exp := live, orph := false, brk := false, act := true
      now := {}, next := {}, dirty := false })
    ms.foldl (fun m a => m.setArr a bid none) m

/-- Whether the issuer has arrived in the current phase (R285): what it adds or attaches then goes to the horizon. -/
def Mach.inPhase (m : Mach) (a : Agent) (vd k bid : Nat) : Bool := m.arrRec a bid == some (m.bar vd k).gen

/-- EXPB's effect, with its overflow check (R288). -/
def Mach.barExpect (m : Mach) (a : Agent) (vd k bid n : Nat) : Except Stop Mach :=
  let b := m.bar vd k
  if m.inPhase a vd k bid then
    if b.hpend + n < 2 ^ 56 then .ok (m.updBar vd k (fun b => { b with hpend := b.hpend + n }))
    else .error (.fault { cause := 0x0C })
  else
    if b.pend + n < 2 ^ 56 then .ok (m.updBar vd k (fun b => { b with pend := b.pend + n }))
    else .error (.fault { cause := 0x0C })

/-- The phase of a barrier that a generation names, the current one or the horizon, changed. -/
def Barrier.updPhase (b : Barrier) (gen : BitVec 16) (f : Phase → Phase) : Barrier :=
  if gen = b.gen then { b with now := f b.now } else if gen = b.gen + 1 then { b with next := f b.next } else b

/-- The snapshot of an arrival or of a command merged into a phase vector (R327); `gang` none for a Loupe member. -/
def Mach.phaseMerge (m : Mach) (vd k : Nat) (gen : BitVec 16) (gang : Option Nat) (p : Snap) : Mach :=
  m.updBar vd k (fun b => b.updPhase gen (fun x =>
    let x := { x with pv := x.pv.merge p }
    match gang with
    | none => { x with loupe := true }
    | some g => if x.who.contains g then x else { x with who := g :: x.who }))

/-- A release of an arrival, or of a command, joins its phase (R274). -/
def Mach.phaseRel (m : Mach) (vd k : Nat) (gen : BitVec 16) (v : RelVal) : Mach :=
  m.updBar vd k (fun b => b.updPhase gen (fun x => { x with rels := x.rels ++ [v] }))

/-- A Loupe member, or a member of another gang than this, took part in a phase (R327). -/
def Phase.wide (x : Phase) (g : Nat) : Bool := x.loupe || x.who.any (· != g)

/-- The scope of a BAR word: a Loupe core's is die or wider (R267). -/
def barSco : Agent → BitVec 3 → Nat
  | .core _ _ _, sco => sco.toNat
  | .loupe _ _ _, sco => max sco.toNat 3

/-- An arrival: record, snapshot, and the release that counts it (R289). `n` numbers the draw of its move. -/
def Mach.barArrive (m : Mach) (a : Agent) (vd k bid : Nat) (sco : BitVec 3) (seq : Nat) (pc : BitVec 14) (n : Nat) : Mach :=
  let b := m.bar vd k
  let gen := if m.inPhase a vd k bid then b.gen + 1 else b.gen
  let m := (m.setArr a bid (some gen)).phaseRel vd k gen { who := .agent a, sco := barSco a sco }
  let m := match a with
    | .core g r _ =>
      let m := match m.core? g r with
        | some c => (m.phaseMerge vd k gen (some g) (c.snap r (m.interval g r seq))).updCore g r Core.bump
        | none => m
      if sco.toNat ≥ 2 then m.bumpVg vd else m
    | .loupe _ _ _ => (m.phaseMerge vd k gen none {}).bumpVg vd
  m.enqueue { who := .agent a, vd := vd, cls := 0, seq := seq, op := .arrive vd k gen, loc := .sys 0, rel := true,
              sco := barSco a sco, pc := pc } n

/-- The generation a wait waits for, none when it has ended already; a core that is no member waits for the current one
(R290, R298). -/
def Mach.barTarget (m : Mach) (a : Agent) (vd k bid : Nat) : Option (BitVec 16) :=
  let b := m.bar vd k
  match if m.inGroup a (m.group a b.group.toNat) then m.arrRec a bid else none with
  | none => some b.gen
  | some ag => if b.passed ag then none else some ag

/-- What a wait that ends on a phase, or a join that closes, teaches a core (R327). -/
def Mach.learnPhase (m : Mach) (g r : Nat) (p : Snap) (wide : Bool) : Mach :=
  let m := m.updCore g r (fun c => (c.learn p).bump)
  if wide then m.learnOutside g r else m

/-- A wait ends: an acquire at its scope of the releases of the phase it waited for (R270, R274, R290), and the phase vector
of that phase (R327). -/
def Mach.barAcquire (m : Mach) (a : Agent) (vd k : Nat) (gen : BitVec 16) (sco : BitVec 3) : Mach :=
  let w : Who := .agent a
  let s := barSco a sco
  let x : Phase := (((m.bar vd k).past.find? (fun p => p.1 == gen)).map (·.2)).getD {}
  let m := m.acquireOf w s x.rels
  match a with
  | .core g r _ => m.learnPhase g r x.pv (x.wide g)
  | .loupe _ _ _ => m

/-- BARRIER_ARRIVAL_COUNT: an arrival's release has been performed; it counts in the phase it named (R289). -/
def execBarrierArrivalCount (vd bar : Nat) (gen : BitVec 16) (s : State) : Host.Outcome State Fault Refusal :=
  event ((tget (s.m.vd vd).bars bar).isSome)
    (s.m.updBar vd bar (fun b =>
      if gen = b.gen then { b with arr := b.arr + 1, dirty := true } else { b with harr := b.harr + 1, dirty := true })) s

/-! ## Joins (R55-R58) -/

/-- Whether a stream counts as arrived at a join (R55). -/
def StreamState.atJoin (s : StreamState) (grp : Nat) (fin : Bool) : Bool :=
  match s with
  | .unused | .ended => true
  | .live => false
  | .arrived g f => g == grp && f == fin

/-- Every stream of a rank has arrived at a join. -/
def Mach.rankAtJoin (m : Mach) (g : Nat) (fin : Bool) (p : Nat × Nat) : Bool :=
  (m.streams p.1 p.2).all (fun f => [Stream.s, .v, .m, .t].all (fun st => (f st).atJoin g fin))

/-- Every member stream of the group has arrived. -/
def Mach.joinFull (m : Mach) (j : Job) (g : Nat) (grp : Group) (fin : Bool) : Bool :=
  (m.groupCores j grp).all (m.rankAtJoin g fin)

/-- Every member stream of one gang has arrived. -/
def Mach.joinFullGang (m : Mach) (j : Job) (g : Nat) (grp : Group) (fin : Bool) (gang : Nat) : Bool :=
  ((m.groupCores j grp).filter (fun p => p.1 == gang)).all (m.rankAtJoin g fin)

/-- A stream ends (R93, R58). The M stream's end gives up its lease (R204) and abandons an open ladder (R228). -/
def Core.endStream (c : Core) (st : Stream) : Core :=
  let c := { c with seq := c.seq.updRegs st (fun x => { x with st := .ended }) }
  if st = .m then
    { c with mat := { c.mat with
      leasec := 0, close := if c.mat.ladder.isSome then none else c.mat.close, ladder := none } }
  else c

/-- A stream leaves a join that closed: `.mid` resumes it at cycle 0 of a new group, `.fin` ends it (R56, R58). -/
def Core.leaveJoin (c : Core) (g : Nat) (fin : Bool) : Core :=
  [Stream.s, .v, .m, .t].foldl (fun c st =>
    match (c.seq.regs st).st with
    | .arrived h f =>
      if h == g && f == fin then
        let c := c.groupSwitch st
        if fin then c.endStream st else { c with seq := c.seq.updRegs st (fun x => { x with st := .live }) }
      else c
    | _ => c) c

/-- The acquire of the streams that a join resumes, on one core: what it learns, and the member ranks of its gang, which it
need no longer pass over (R57, R327). -/
def Mach.joinLearn (m : Mach) (g r : Nat) (n : Closing) : Mach :=
  match m.core? g r with
  | none => m
  | some c =>
    let m := if [Stream.s, .v, .m, .t].any (fun st => (c.seq.regs st).st == .arrived n.grp n.fin) then m.learnPhase g r n.pv n.wide else m
    let m := m.acquired (.agent (.core g r .s))
    m.updCore g r (fun c => { c with unk := n.ranks.foldl (fun u q => u &&& ~~~(1#48 <<< q)) c.unk })

/-- A rank leaves a join that closed: at once, or a saved one when it is loaded. -/
def Mach.joinLeave (m : Mach) (g r : Nat) (n : Closing) : Mach :=
  if (tget m.away g).isSome then
    m.updAway g r (fun c => { c with strm := c.strm.map (fun s => if s == .arrived n.grp n.fin then (if n.fin then .ended else .live) else s) })
  else (m.joinLearn g r n).updCore g r (fun c => c.leaveJoin n.grp n.fin)

/-- A saved gang has a closing to meet. -/
def Mach.missJoin (m : Mach) (g : Nat) (n : Closing) : Mach :=
  { m with away := tupd m.away g (fun a => { a with missed := a.missed ++ [n] }) }

/-- A saved gang is loaded: its ranks have the arrival records that stand, and leave the joins that have closed meanwhile. -/
def Mach.comeBack (m : Mach) (g : Nat) : Mach :=
  match tget m.away g with
  | none => m
  | some a =>
    let m := { m with away := tdel m.away g }
    let m := a.ranks.zipIdx.foldl (fun m (b, r) => m.updCore g r (fun c => { c with arr := b.arr })) m
    a.missed.foldl (fun m n => n.ranks.foldl (fun m r => m.joinLeave g r n) m) m

/-- A gang leaves its cores for its save area (R55, R285). -/
def Mach.goAway (m : Mach) (g : Nat) : Mach :=
  match m.gang? g with
  | none => m
  | some x =>
    let a : Away :=
      { idx := x.idx, faults := (x.cores.map (fun c => c.held.length)).foldl (· + ·) 0
        ranks := x.cores.map (fun c => { strm := c.seq.strm.map (·.st), arr := c.arr }) }
    { m with away := tset m.away g a }

/-- The release of the streams that have arrived on a core: their accesses leave their queues, those that later beats of an
M command make aside (R57, R271; log entry 80). -/
def Mach.joinFlush (m : Mach) (g r : Nat) (k : Nat) (fin : Bool) : Mach :=
  match m.core? g r with
  | none => m
  | some c => ([Stream.s, .v, .m, .t].filter (fun st => (c.seq.regs st).st == .arrived k fin)).foldl
      (fun m st => m.flushWho (.agent (.core g r st))) m

/-- A join closes for the member cores given (R56). Members withdrawn from barriers by RDV.fin leave them (R295). -/
def Mach.joinRelease (m : Mach) (j : Job) (k : Nat) (g : Nat) : Mach :=
  match tget (m.vd j.vd).joins k with
  | none => m
  | some jn =>
    let cores := m.groupCores j ((tget (m.vd j.vd).groups k).getD {})
    let wide := decide ((cores.map (·.1)).eraseDups.length > 1)
    let of (x : Nat) : Closing := { grp := g, fin := jn.fin, pv := jn.pv, wide := wide, ranks := (cores.filter (fun p => p.1 == x)).map (·.2) }
    let m := cores.foldl (fun m (x, r) => m.joinFlush x r g jn.fin) m
    let m := cores.foldl (fun m (x, r) =>
      let sEnds := jn.fin && (m.streams x r).any (fun f => f .s == .arrived g true)
      let m := if sEnds then m.leaveBars j (.core x r .s) false else m
      m.joinLeave x r (of x)) m
    let m := (cores.map (·.1)).eraseDups.foldl (fun m x => m.missJoin x (of x)) m
    let m := m.updVd j.vd (fun v => { v with joins := tdel v.joins k })
    let m := { m with gangs := m.gangs.map (fun (p : Nat × Gang) =>
      let x := p.2
      (p.1, if x.vd == j.vd then { x with causes := x.causes.filter (fun (c : Cause) => c.kind != CauseKind.rdv k) } else x)) }
    m.bumpVg j.vd

/-- JOIN_RELEASE: 16 mc after the last arrival the join hardware ends the skew freeze of every member gang (R56). `grp`
is the entry of the group table. -/
def execJoinRelease (vd grp : Nat) (s : State) : Host.Outcome State Fault Refusal :=
  match tget (s.m.vd vd).joins grp with
  | none => .fault .notEnabled
  | some jn =>
    match s.m.jobs.find? (fun p => p.2.vd == vd && decide (p.2.grpBase ≤ grp) && decide (grp < p.2.grpBase + p.2.hdr.ngrp) &&
        (p.2.st == .running || p.2.st == .stopped || p.2.st == .bound)) with
    | none => .fault .notEnabled
    | some (_, j) => event jn.closedAt.isSome (s.m.joinRelease j grp (grp - j.grpBase)) s

/-- The gangs of the members of a group. -/
def Mach.groupGangs (m : Mach) (j : Job) (grp : Group) : List Nat := ((m.groupCores j grp).map (·.1)).eraseDups

/-- The skew freeze of a gang whose own member streams have all arrived at a join of several gangs (R56). `began` is its first
master cycle. -/
def Mach.skewOf (m : Mach) (j : Job) (k : Nat) (fin : Bool) (gang : Nat) (x : Gang) (began : Nat) : Option Cause :=
  let g := k - j.grpBase
  let grp := (tget (m.vd j.vd).groups k).getD {}
  let here (c : Core) (st : Stream) : Bool := (c.seq.regs st).st == .arrived g fin
  let members := (m.groupCores j grp).filterMap (fun p => if p.1 == gang then (m.core? gang p.2).map (fun c => (p.2, c)) else none)
  match members.find? (fun p => [Stream.s, .v, .m, .t].any (here p.2)) with
  | none => none
  | some (r, c) =>
    if decide ((m.groupGangs j grp).length > 1) && m.joinFullGang j g grp fin gang && !(x.causes.any (fun c => c.kind == .rdv k)) then
      let st := ([Stream.s, .v, .m, .t].find? (here c)).getD .s
      let pc := (c.seq.regs st).pc
      some { kind := .rdv k, rank := r, strm := st, pc := if fin then pc else pc - 1, seq := x.cyc, began := began }
    else none

/-- The open joins of a job, each with its entry of the group table. -/
def Mach.openJoins (m : Mach) (j : Job) : List (Nat × Join) :=
  (m.vd j.vd).joins.filter (fun p => decide (j.grpBase ≤ p.1) && decide (p.1 < j.grpBase + j.hdr.ngrp))

/-- The skew freezes of a gang: at an open join, whatever freeze, checkpoint or resume lies between (R56, R63). -/
def Mach.skews (m : Mach) (gang : Nat) (x : Gang) (began : Nat) : List Cause :=
  match m.job? x.job with
  | none => []
  | some j => (m.openJoins j).filterMap (fun (k, jn) => m.skewOf j k jn.fin gang x began)

/-- After an ec: every open join of a gang's job that is full closes, or freezes the gangs whose members have all
arrived (R55, R56). -/
def Mach.joinsAfter (m : Mach) (gang : Nat) : Mach :=
  match (m.gang? gang).bind (fun x => (m.job? x.job).map (fun j => (x, j))) with
  | none => m
  | some (_, j) =>
    let m := (m.openJoins j).foldl (fun m (k, jn) =>
      let g := k - j.grpBase
      let grp := (tget (m.vd j.vd).groups k).getD {}
      if m.joinFull j g grp jn.fin && jn.closedAt.isNone then
        if (m.groupGangs j grp).length ≤ 1 then m.joinRelease j k g
        else
          (m.updVd j.vd (fun v => { v with joins := tset v.joins k { jn with closedAt := some m.time } })).schedule .mc (m.time + 16)
            (.joinRelease j.vd k)
      else m) m
    m.updGang gang (fun x => { x with causes := x.causes ++ m.skews gang x (m.time + 1) })

end Sys2Proof.Machine
end

