-- ==== Sys2Proof/Machine/System.lean ====
section
/-! DEFINITION. System registers (R98-R101, R433): what a read returns, what a write does, and the register events. -/
namespace Sys2Proof.Machine

/-! ## Pulse patterns (R96, R117) -/

/-- The cap that a recomputation point applies, and the cap last set for a cluster (R97, R382). -/
def Cluster.capDue (k : Cluster) : BitVec 4 := match k.capNew with | some (c, _) => c | none => k.cap
def Cluster.capNow (k : Cluster) : BitVec 4 := k.capHeld.getD k.capDue

/-- A PHASE applies the cap that was recorded while the cluster was gated (R382). -/
def Cluster.takeHeld (k : Cluster) : Cluster :=
  match k.capHeld with
  | some c => { k with capNew := some (c, 0), capHeld := none }
  | none => k

/-- Master cycles of a die up to a reading of TIME: those at the last change of its clock, and those since (R116; log entry 28). -/
def Die.cycles (d : Die) (t : Nat) : Nat := d.clkCyc + (t - d.clkTime) * d.clkNum / d.clkDen

/-- The first reading of TIME at which a die has counted n master cycles. -/
def Die.timeOf (d : Die) (n : Nat) : Nat :=
  if d.clkNum = 0 then n else d.clkTime + ((n - d.clkCyc) * d.clkDen + d.clkNum - 1) / d.clkNum

/-- Master cycles that a die has counted, and the 16-mc frame it is in (R115). -/
def Mach.dieCycles (m : Mach) (d : Nat) : Nat := ((m.dies[d]?).map (fun x => x.cycles m.time)).getD m.time
def Mach.frameNo (m : Mach) (d : Nat) : Nat := m.dieCycles d / 16

/-- The first reading of TIME at which a die has counted n master cycles, or n more than now. -/
def Mach.timeAt (m : Mach) (d n : Nat) : Nat := ((m.dies[d]?).map (fun x => x.timeOf n)).getD n
def Mach.timeIn (m : Mach) (d n : Nat) : Nat := m.timeAt d (m.dieCycles d + n)

/-- Master cycles of its own that a die has passed since a reading of TIME. -/
def Mach.cyclesSince (m : Mach) (d t : Nat) : Nat := ((m.dies[d]?).map (fun x => x.cycles m.time - x.cycles t)).getD (m.time - t)

/-- Whether a die passes a master cycle of its own in this reading of TIME. -/
def Mach.dieTicks (m : Mach) (d : Nat) : Bool := ((m.dies[d]?).map (fun x => x.cycles (m.time + 1) != x.cycles m.time)).getD true

/-- The first reading of TIME in a frame of a die. -/
def Mach.frameTime (m : Mach) (d n : Nat) : Nat := m.timeAt d (16 * n)

/-- What a gang asks for: until its first PHASE after a resume the REQ of its bind record (R78, R117). -/
def Mach.request (m : Mach) (x : Gang) : Nat :=
  if x.resume && !x.phased then ((m.dies[x.die]?).map (fun d => (vget d.slots x.slot {}).req.toNat)).getD 15 else x.req.toNat

/-- The requests of the gangs bound in a cluster (R117). -/
def Mach.requests (m : Mach) (d k : Nat) : List Nat :=
  (m.gangs.filter (fun p => p.2.die == d && p.2.cluster == k && p.2.run != .ended)).map (fun p => m.request p.2)

/-- The next pattern frame of a cluster to come, unless it is awaited already (R115, R117). -/
def Mach.wantFrame (m : Mach) (d k : Nat) : Mach :=
  let at_ := m.frameTime d (m.frameNo d + 1)
  if m.agenda.any (fun e => e.ev == .patternFrame d k && e.at_ == at_) then m else m.schedule .mc at_ (.patternFrame d k)

/-- A recomputation point of a cluster, applied from the next frame on (R96, R117). -/
def Mach.recompute (m : Mach) (d k : Nat) : Mach :=
  let reqs := m.requests d k
  (m.updCluster d k (fun c =>
    let cap := c.capDue
    { c with
      cap := cap, capNew := none
      applied := match reqs with | [] => cap | _ => if reqs.foldl max 0 ≤ cap.toNat then BitVec.ofNat 4 (reqs.foldl max 0) else cap })).wantFrame
    d k

/-! ## Shadow entries read by the kernel (R324, R433) -/

/-- The 128 bits of a shadow entry (R324). -/
def Shadow.bits (e : Shadow) : BitVec 128 :=
  e.wk ++ e.wrk ++ e.wst ++ e.wgang ++ e.wcl ++ e.wiv ++ e.rk ++ e.rrk ++ e.rst ++ e.rgang ++ e.rcl ++ e.riv ++
  BitVec.ofBool e.mr ++ BitVec.ofBool e.wamo ++ BitVec.ofBool e.wrel ++ e.wjob ++ e.rjob ++ 0#3

/-- The entry SHSEL names; memory outside R323 reads zero. -/
def Mach.selShadow (m : Mach) (a : Agent) : BitVec 128 :=
  let p := (m.vd (m.vdOf a)).shsel
  match ptrSpace p with
  | 1 =>
    match a with
    | .core g _ _ =>
      match m.core? g (ptrRank p) with
      | none => 0
      | some c => if ptrOff p < 2 ^ 21 then (m.shadowAt (.scr g (ptrRank p) (c.unitAt (ptrOff p)))).bits else 0
    | .loupe _ _ _ => 0
  | 0 =>
    match m.walk (m.vdOf a) (ptrOff p) with
    | .error _ => 0
    | .ok e =>
      if leafRchk e.leaf then
        let pa := e.base + (ptrOff p - e.va)
        (m.shadowAt (.glb (m.vdOf a) (pa / pageUnit e.leaf * pageUnit e.leaf / 64))).bits
      else 0
  | _ => 0

/-- The 256 bits of a barrier entry (R284). -/
def Barrier.bits (b : Barrier) (decl : Bool) : BitVec 256 :=
  BitVec.ofNat 256 (b.pend * 2 ^ 200 + b.hpend * 2 ^ 144 + b.gen.toNat * 2 ^ 128 + b.exp * 2 ^ 118 + b.arr * 2 ^ 108 +
    b.harr * 2 ^ 98 + b.live * 2 ^ 88 + b.group.toNat * 2 ^ 80 + (if b.brk then 8 else 0) + (if b.orph then 4 else 0) +
    (if b.act then 2 else 0) + (if decl then 1 else 0))

/-! ## Reading (R98, R100) -/

/-- The registers of stream t named by R100. PC of a stream that is ended, unused or arrived at a join is the PC it stands
with, which the rule does not say (log entry 71). -/
def StreamRegs.sys (r : StreamRegs) (field : Nat) : Word :=
  match field with
  | 0 => r.pc.zeroExtend 64
  | 1 => r.lc.zeroExtend 64
  | 2 => r.es.zeroExtend 64
  | 3 => r.rrb.zeroExtend 64
  | 4 => r.q.zeroExtend 64
  | _ => r.lnk.zeroExtend 64

/-- GM0-GM3 of the agent: of its core, or of its Loupe context (R54). -/
def State.gm (s : State) (k : Nat) : Option (BitVec 8) :=
  match s.cur with
  | .core _ _ _ => vget s.core.gm k none
  | .loupe d i c => (s.m.ctx? d i c).bind (fun x => vget x.gm k none)

/-- A system register as it stands in the issue ec. What a Loupe context does not have reads 0 (log entry 24). Every copy of
TIME reads the reference itself, of the values within 4 mc of it that R79 allows (log entry 70). -/
def State.sysRead (s : State) (reg : Nat) : Word :=
  let c := s.core
  let v := s.m.vd s.vd
  if reg = 0 then BitVec.ofNat 64 s.m.time
  else if reg = 1 then BitVec.ofNat 64 s.gang.cyc
  else if reg = 2 then BitVec.ofNat 64 s.gang.frz
  else if reg = 8 then c.flgWord
  else if reg = 9 then c.vw.zeroExtend 64
  else if reg = 0xA then c.mat.leasec.zeroExtend 64
  else if reg = 0xB then
    if s.onLoupe then 0
    else match s.m.cluster? s.gang.die s.gang.cluster with
      | none => 0
      | some k => (k.capNow.zeroExtend 64 <<< 8) ||| (k.cur.zeroExtend 64 <<< 4) ||| s.gang.req.zeroExtend 64
  else if 0x10 ≤ reg ∧ reg < 0x14 then
    match s.gm (reg - 0x10) with
    | none => 0
    | some g => 0x100 ||| g.zeroExtend 64
  else if 0x100 ≤ reg ∧ reg < 0x140 then
    if s.onLoupe && decide (0x110 ≤ reg) then 0
    else (vget s.seq.strm ((reg - 0x100) / 16) {}).sys (reg % 16)
  else if 0x200 ≤ reg ∧ reg < 0x208 then (vget c.mat.tver (reg - 0x200) 0).zeroExtend 64
  else if reg = 0x800 then v.wdog.zeroExtend 64
  else if 0x810 ≤ reg ∧ reg < 0x818 then vget v.xbase (reg - 0x810) 0
  else if 0x818 ≤ reg ∧ reg < 0x820 then vget v.xroot (reg - 0x818) 0
  else if reg = 0x820 then v.nqbase
  else if reg = 0x821 then v.nqhead.zeroExtend 64
  else if reg = 0x822 then v.nqtail.zeroExtend 64
  else if reg = 0x823 then v.nthr.zeroExtend 64
  else if reg = 0x825 then s.m.mgmt.floor.zeroExtend 64
  else if 0x840 ≤ reg ∧ reg < 0x850 then
    if s.onLoupe then 0
    else match s.m.cluster? s.gang.die s.gang.cluster with
      | none => 0
      | some k => (vget k.patNew (reg - 0x840) 0).zeroExtend 64
  else if reg = 0x880 then v.barsel
  else if reg = 0x881 then
    let bid := (fld v.barsel 2 8).toNat
    let w := (fld v.barsel 0 2).toNat
    match tget v.bars bid with
    | none => 0
    | some b => fld (b.bits b.decl) (64 * w) 64
  else if reg = 0x882 then v.shsel
  else if reg = 0x883 then fld (s.m.selShadow s.cur) 0 64
  else if reg = 0x884 then fld (s.m.selShadow s.cur) 64 64
  else 0

/-! ## Writing (R98-R100, R433) -/

/-- The event of a write, from the next ec on (R47, R99). On a Loupe core it is the next master cycle. -/
def State.later (s : State) (ev : Instr) : State :=
  match s.cur with
  | .core g _ _ => { s with m := s.m.schedule (.ec g) (s.ec + 1) ev }
  | .loupe _ _ _ => { s with m := s.m.schedule .mc (s.m.time + 1) ev }

/-- A launch notify: a release at device scope, then the record is submitted (R102). -/
def State.notifyLaunch (s : State) (v : Word) : State :=
  { s with m := s.m.enqueue { who := .agent s.cur, vd := s.vd, cls := 0, seq := s.ec, op := .notify s.vd v, loc := .sys 0,
                              rel := true, sco := 4, gang := s.gno, rank := s.rank, pc := s.regs.pc, icnt := s.interval } 10 }

/-- A write of a system register: S's own loop registers at once, the others by the event of the register. -/
def State.sysWrite (s : State) (reg : Nat) (v : Word) : State :=
  let g := s.gno
  let r := s.rank
  if reg = 0x101 then s.updRegs (fun q => { q with lc := v.truncate 32 })
  else if reg = 0x102 then s.updRegs (fun q => { q with es := v.truncate 3 })
  else if reg = 0x103 then s.updRegs (fun q => { q with rrb := v.truncate 5 })
  else if reg = 0x104 then s.updRegs (fun q => { q with q := v.truncate 8 })
  else if reg = 8 then if s.onLoupe then s else s.later (.flgWrite g r v)
  else if reg = 9 then if s.onLoupe then s else s.later (.vwWrite g r v)
  else if reg = 0x20 then s.notifyLaunch v
  else if reg = 0x800 then s.later (.wdogWrite s.vd v)
  else if reg = 0x821 then s.later (.nqheadWrite s.vd v)
  else if reg = 0x824 then s.later (.nackWrite s.vd v)
  else if reg = 0x830 then s.later .khbWrite
  else if reg = 0x831 then s.later .kpanicWrite
  else if reg = 0x832 then s.later .kreadyWrite
  else if 0x840 ≤ reg ∧ reg < 0x850 then
    if s.onLoupe then s else s.later (.patWrite s.gang.die s.gang.cluster (BitVec.ofNat 4 reg) v)
  else s.later (.registerWrite s.vd (BitVec.ofNat 12 reg) v)

/-! ## The register events -/

/-- FLG_WRITE: the written value replaces FLG (R99). -/
def execFlgWrite (gang rank : Nat) (v : Word) (s : State) : Host.Outcome State Fault Refusal :=
  event ((s.m.core? gang rank).isSome) (s.m.updCore gang rank (fun c => c.setFlg v)) s

/-- VW_WRITE: the view of the V words from now on; bits [10:8], [15] and [5:0] count (R24, R25). -/
def execVwWrite (gang rank : Nat) (v : Word) (s : State) : Host.Outcome State Fault Refusal :=
  event ((s.m.core? gang rank).isSome) (s.m.updCore gang rank (fun c => { c with vw := v.truncate 32 &&& 0x873F#32 })) s

/-- WDOG_WRITE: LOG2 set, unless it lies outside 16-26 (R65). -/
def execWdogWrite (vd : Nat) (v : Word) (s : State) : Host.Outcome State Fault Refusal :=
  event ((s.m.vd? vd).isSome)
    (s.m.updVd vd (fun d =>
      let l := (fld v 0 5).toNat
      if 16 ≤ l ∧ l ≤ 26 then { d with wdog := BitVec.ofNat 5 l } else d)) s

/-- The pulses an entry of a pattern table passes. -/
def patCount (w : BitVec 16) : Nat := popN 16 w.toNat

/-- No entry of a pattern table is empty, or has fewer pulses than the entry below it (R115). -/
def patOk (p : Vector (BitVec 16) 16) : Bool :=
  (List.range 16).all (fun k => vget p k 0 != 0 && (k == 0 || decide (patCount (vget p (k - 1) 0) ≤ patCount (vget p k 0))))

/-- PAT_WRITE: entry k rewritten; ignored when it leaves an entry empty, or one with fewer pulses than the entry below it
(R115). It takes effect at the next frame boundary. -/
def execPatWrite (die cluster : Nat) (k : BitVec 4) (v : Word) (s : State) : Host.Outcome State Fault Refusal :=
  event ((s.m.cluster? die cluster).isSome)
    ((s.m.updCluster die cluster (fun c =>
      let p := vset c.patNew k.toNat (v.truncate 16)
      if patOk p then { c with patNew := p } else c)).wantFrame die cluster) s

/-- NQHEAD_WRITE: the kernel advances the head; deferred regions move into freed entries (R375). -/
def execNqheadWrite (vd : Nat) (v : Word) (s : State) : Host.Outcome State Fault Refusal :=
  event ((s.m.vd? vd).isSome) ((s.m.updVd vd (fun d => { d with nqhead := v.truncate 8 })).moveDeferred vd) s

/-- NACK_WRITE: the region's counter, pending and deferred bits are cleared together (R375). -/
def execNackWrite (vd : Nat) (v : Word) (s : State) : Host.Outcome State Fault Refusal :=
  event ((s.m.vd? vd).isSome)
    ((s.m.setRegion vd (ptrOff v / 2 ^ 21 * 2 ^ 21) {}).updVd vd (fun d => { d with regionCtr := tdel d.regionCtr (ptrOff v / 2 ^ 21 * 2 ^ 21) })) s

/-- REGISTER_WRITE: XBASE, XROOT, NQBASE, NTHR, FLOOR, BARSEL and SHSEL hold what was written, reserved bits aside
(R359, R360, R374, R433). -/
def execRegisterWrite (vd : Nat) (reg : BitVec 12) (v : Word) (s : State) : Host.Outcome State Fault Refusal :=
  let n := reg.toNat
  if n = 0x825 then event ((s.m.vd? vd).isSome) { s.m with mgmt := { s.m.mgmt with floor := v.truncate 16 } } s
  else event ((s.m.vd? vd).isSome)
    (s.m.updVd vd (fun d =>
      if 0x810 ≤ n ∧ n < 0x818 then { d with xbase := vset d.xbase (n - 0x810) (v &&& 0x0000FFFFFFFFFF0F#64) }
      else if 0x818 ≤ n ∧ n < 0x820 then { d with xroot := vset d.xroot (n - 0x818) (v &&& 0xFFFFFFFFFFFFFF00#64) }
      else if n = 0x820 then { d with nqbase := v }
      else if n = 0x823 then { d with nthr := v.truncate 16 }
      else if n = 0x880 then { d with barsel := v &&& 0x3FF }
      else if n = 0x882 then { d with shsel := v }
      else d)) s

end Sys2Proof.Machine
end

