-- ==== Sys2Proof/Machine/Control.lean ====
section
/-! DEFINITION. The control words of 05_control_ops.md, 17_sync_ops.md (BAR), 11_matrix.md (LEASE), 23_isolation.md
(TLBI, DINV) and 24_recovery.md (TRAP, EVNT, HALT, CSAVE). -/
namespace Sys2Proof.Machine

/-! ## Branches (R84-R88) -/

/-- The target of a signed word offset, when it lies in the declared section (R84). -/
def State.target (s : State) (t : Int) : Except Stop (BitVec 14) := do
  need (decide (0 ≤ t) && decide (t < vget s.hdr.csz s.cur.strm.idx 0)) 0x02
  pure (BitVec.ofInt 14 t)

/-- The word an offset names, from the word's own index. -/
def State.relative (s : State) (off : BitVec 18) : Int := s.regs.pc.toNat + off.toInt

/-- A taken branch: the stream goes on at a target after some bubbles, in a new group (R71, R85). -/
def State.branch (s : State) (t : BitVec 14) (bubbles : Nat) : State :=
  s.groupSwitch.updRegs (fun r => { r with pc := t, bub := bubbles })

/-- The link of CALL: s1 of S, usable from the next ec and in no latch; LNK of V, M and T, where the link of word 16383, which does
not fit its 14 bits, stands as 0 (R87; log entry 49). -/
def State.link (s : State) (l : Nat) : State :=
  match s.cur.strm with
  | .s | .l => s.emit 1 { pend0 with writes := [.s (physS s.regs.rrb l) (BitVec.ofNat 64 (s.regs.pc.toNat + 1))] }
  | _ => s.updRegs (fun r => { r with lnk := r.pc + 1 })

/-- BR (R86). -/
def execBr (g : BitVec 4) (n : Bool) (off : BitVec 18) (s : State) : Host.Outcome State Fault Refusal :=
  s.jump [] (s.guard g n) (fun s => do
    let t ← s.target (s.relative off)
    pure (s.branch t 1))

/-- The scalar a link is written to, as a declaration: CALL in S names s1 so, which R87 does not say of check 4 of R31 (DESIGN CHOICE;
log entry 49). -/
def linkNeed (s : State) (l : Nat) : List Decl :=
  match s.cur.strm with
  | .s | .l => sn [l]
  | _ => []

/-- CALL (R87). -/
def execCall (g : BitVec 4) (n : Bool) (off : BitVec 18) (s : State) : Host.Outcome State Fault Refusal :=
  s.jump (linkNeed s 1) (s.guard g n) (fun s => do
    let t ← s.target (s.relative off)
    pure ((s.link 1).branch t 2))

/-- JMPR: to a scalar's value, or to LNK by code 0 in V, M and T, where check 4 of R31 counts that code as naming s0 all the same;
the link, if one is named, in S (R88; log entry 49). -/
def execJmpr (g : BitVec 4) (n : Bool) (t l : BitVec 6) (s : State) : Host.Outcome State Fault Refusal :=
  s.jump (sn ([t.toNat] ++ (if l = 0 then [] else [l.toNat]))) (s.guard g n) (fun s => do
    let onS := match s.cur.strm with | .s | .l => true | _ => false
    let v := if t = 0 && !onS then s.regs.lnk.toNat else (s.rd t.toNat).toNat
    let t ← s.target v
    pure ((if onS && l != 0 then s.link l.toNat else s).branch t 2))

/-! ## Loops (R89, R90) -/

/-- One shift of the stage predicates, the rotation and the back-edge of LOOP. -/
def State.loopBack (s : State) (t : BitVec 14) (q0 : Bool) (lc : BitVec 32) (es : BitVec 3) : State :=
  s.updRegs (fun r => { r with
    lc := lc, es := es, q := (r.q <<< 1) ||| (if q0 then 1 else 0), rrb := r.rrb + 1, pc := t })

/-- LOOP (R90). -/
def execLoop (g : BitVec 4) (n : Bool) (off : BitVec 18) (s : State) : Host.Outcome State Fault Refusal :=
  s.jump [] (s.guard g n) (fun s =>
    let r := s.regs
    if r.lc != 0 then do
      let t ← s.target (s.relative off)
      pure (s.loopBack t true (r.lc - 1) r.es)
    else if r.es != 0 then do
      let t ← s.target (s.relative off)
      pure (s.loopBack t false 0 (r.es - 1))
    else do
      need s.falls 0x02
      pure (s.updRegs (fun r => { r with pc := r.pc + 1 })))

/-- LSET (R89). -/
def execLset (g : BitVec 4) (n : Bool) (c : BitVec 6) (stages : BitVec 4) (imm : BitVec 8) (s : State) :
    Host.Outcome State Fault Refusal :=
  s.word (sn [c.toNat]) (s.guard g n) (fun s => do
    let count := (s.rd c.toNat).toNat + imm.toNat
    need (decide (count ≤ 2 ^ 32)) 0x07
    pure (s.updRegs (fun r => { r with
      lc := BitVec.ofNat 32 (count - 1), es := BitVec.ofNat 3 (stages.toNat - 1), q := if count = 0 then 0 else 1 })))

/-! ## Joins and the end of a stream (R92-R95) -/

/-- An RDV: the stream stands arrived at the join, which it opens if it is the first; it releases (R55, R57). Of RDVs of different
groups or forms in one ec the one served later meets the join that the earlier one has opened, and faults: the spec gives no order
among them (log entry 48). -/
def State.rendezvous (s : State) (grp : Nat) (fin : Bool) : Except Stop State := do
  let a := s.cur
  let base := ((s.m.jobOf a).map (·.grpBase)).getD 0
  let joins := (s.m.vd s.vd).joins
  need (s.m.inGroup a (s.m.group a grp)) 0x07
  need (joins.all (fun p => (p.1 == base + grp && p.2.fin == fin) ||
    !(decide (base ≤ p.1) && decide (p.1 < base + s.hdr.ngrp) && s.m.inGroup a (s.m.group a (p.1 - base))))) 0x07
  need (fin || s.falls) 0x02
  let j := (tget joins (base + grp)).getD { fin := fin, arrived := [] }
  let snap := s.snap
  let j := { j with arrived := j.arrived ++ [(s.gno, s.rank, a.strm)], pv := j.pv.merge snap }
  let m := s.m.updVd s.vd (fun v => { v with joins := tset joins (base + grp) j })
  let s := State.updCore { s with m := m.bumpVg s.vd } Core.bump
  pure ((s.updRegs (fun r => { r with st := .arrived grp fin, pc := if fin then r.pc else r.pc + 1 })).updIss
    (fun i => { i with exempt := i.exempt + 1 }))

/-- RDV.fin (R92). -/
def execRdvFin (grp : BitVec 8) (s : State) : Host.Outcome State Fault Refusal :=
  s.jump [.name (.grp grp.toNat)] true (fun s => s.rendezvous grp.toNat true)

/-- RDV.mid (R92). -/
def execRdvMid (grp : BitVec 8) (s : State) : Host.Outcome State Fault Refusal :=
  s.jump [.name (.grp grp.toNat)] true (fun s => s.rendezvous grp.toNat false)

/-- The earlier of two exit codes in the order of R93. -/
def ExitRec.first (a b : ExitRec) : ExitRec :=
  if a.ec < b.ec ∨ (a.ec = b.ec ∧ (a.strm < b.strm ∨ (a.strm = b.strm ∧ (a.rank < b.rank ∨ (a.rank = b.rank ∧ a.gang ≤ b.gang)))))
  then a else b

/-- The exit code of a gang's stream noted in its job (R93). -/
def Mach.noteExit (m : Mach) (g : Nat) (x : ExitRec) : Mach :=
  match m.gang? g with
  | none => m
  | some y => if x.code = 0 then m else m.updJob y.job (fun j => { j with exit := some (match j.exit with | none => x | some o => o.first x) })

/-- EXIT: the stream ends in this ec and leaves barriers and open joins (R93, R295, R336). -/
def execExit (g : BitVec 4) (n : Bool) (code : BitVec 16) (s : State) : Host.Outcome State Fault Refusal :=
  s.jump [] (s.guard g n) (fun s =>
    match s.cur with
    | .core k r st =>
      let m := match st, s.m.jobOf s.cur with | .s, some j => s.m.leaveBars j s.cur false | _, _ => s.m
      let m := m.updCore k r (fun c => c.endStream st)
      .ok { s with m := m.noteExit k { ec := s.ec, strm := st.idx, rank := r, gang := s.gang.idx.toNat, code := code } }
    | .loupe d i c =>
      let m := match s.m.jobOf s.cur with | some j => s.m.leaveBars j s.cur false | none => s.m
      .ok { s with m := m.updCtx d i c (fun x => { x with run := .ended, exit := code }) })

/-- WAITC: n ec in all (R94). -/
def execWaitc (g : BitVec 4) (n : Bool) (cnt : BitVec 18) (s : State) : Host.Outcome State Fault Refusal :=
  s.word [] (s.guard g n) (fun s => .ok (s.updRegs (fun r => { r with wait := cnt.toNat - 1 })))

/-- YIELD: what the ec is, the other streams of the gang decide (R73, R95). -/
def execYield (s : State) : Host.Outcome State Fault Refusal :=
  s.word [] true (fun s => .ok (s.updIss (fun i => { i with yields := i.yields ++ [(s.rank, s.cur.strm, s.regs.pc)] })))

/-! ## Pacing and leases -/

/-- PHASE: the gang's request, from the end of this ec (R96). Where ranks of a gang ask for different patterns in one ec, the
one of the highest rank stands, which the rule does not say (log entry 72). -/
def execPhase (g : BitVec 4) (n : Bool) (k : BitVec 4) (s : State) : Host.Outcome State Fault Refusal :=
  s.word [] (s.guard g n) (fun s => .ok (s.updIss (fun i => { i with phase := some k })))

/-- LEASE: a request to the quad's arbiter, which decides at the end of the ec (R204). -/
def execLease (g : BitVec 4) (n : Bool) (cnt : BitVec 5) (s : State) : Host.Outcome State Fault Refusal :=
  s.word [] (s.guard g n) (fun s =>
    .ok (s.updIss (fun i => { i with leases := i.leases ++ [(s.rank / 4, s.rank % 4, cnt)] })))

/-- The position that holds a quad's array, if one does (R203). -/
def Gang.holder (x : Gang) (quad : Nat) : Option Nat :=
  (List.range 4).find? (fun p => match x.cores[4 * quad + p]? with | none => false | some c => c.mat.leasec != 0)

def Gang.setLease (x : Gang) (quad pos : Nat) (n : BitVec 5) : Gang :=
  x.updCore (4 * quad + pos) (fun c => { c with mat := { c.mat with leasec := n } })

/-- A grant: LEASEC of the position, and the rotation pointer past it (R204). -/
def Gang.grant (x : Gang) (quad pos : Nat) (n : BitVec 5) : Gang :=
  let x := x.setLease quad pos n
  { x with quads := x.quads.modify quad (fun q => { q with rp := BitVec.ofNat 2 (pos + 1) }) }

/-- One quad's requests of an ec, by the hold that stood in it, `held`: one that a LEASE 0, the last spend or the end of the M stream
ends in the ec stands until the next (R204; log entry 47). A freeze begins in the next ec and its 8 mc are those after this one. -/
def Mach.arbitrate (m : Mach) (g quad : Nat) (held : Option Nat) (reqs : List (Nat × BitVec 5)) : Mach :=
  let m := (reqs.filter (fun r => r.2 == 0)).foldl (fun m r => m.updGang g (fun x => x.setLease quad r.1 0)) m
  match m.gang? g with
  | none => m
  | some x =>
    let rp := ((x.quads[quad]?).map (·.rp.toNat)).getD 0
    match [rp, rp + 1, rp + 2, rp + 3].findSome? (fun p => reqs.find? (fun r => r.1 == p % 4 && r.2 != 0)) with
    | none => m
    | some first =>
      match held with
      | none => m.updGang g (fun x => x.grant quad first.1 first.2)
      | some h =>
        let own := reqs.find? (fun r => r.1 == h && r.2 != 0)
        let m := match own with
          | some r => m.updGang g (fun x => x.grant quad h r.2)
          | none => m
        match [rp, rp + 1, rp + 2, rp + 3].findSome? (fun p => reqs.find? (fun r => r.1 == p % 4 && r.2 != 0 && r.1 != h)) with
        | none => m
        | some (q, n) =>
          let r := 4 * quad + q
          let pc := (((m.core? g r).map (fun c => (c.seq.regs .s).pc)).getD 0) - 1
          (m.updGang g (fun x => { x with causes := x.causes ++
            [{ kind := .lease quad q n, rank := r, strm := .s, pc := pc, seq := x.cyc, began := m.time + 1 }] })).schedule
            .mc (m.timeIn x.die 8) (.leaseTakeover g quad q n)

/-- The arbiters of a gang at the end of an ec; `before` is the gang as the ec found it. -/
def Mach.arbiters (m : Mach) (g : Nat) (before : Option Gang) (leases : List (Nat × Nat × BitVec 5)) : Mach :=
  ((leases.map (·.1)).eraseDups).foldl (fun m q =>
    m.arbitrate g q (before.bind (fun x => x.holder q)) ((leases.filter (fun l => l.1 == q)).map (fun l => l.2))) m

/-- LEASE_TAKEOVER: the holder's count is revoked and the requester granted (R204). -/
def execLeaseTakeover (gang quad pos : Nat) (cnt : BitVec 5) (s : State) : Host.Outcome State Fault Refusal :=
  event (((s.m.gang? gang).map (fun x => x.causes.any (fun c => c.kind == .lease quad pos cnt))).getD false)
    (s.m.updGang gang (fun x =>
      let x := { x with causes := x.causes.filter (fun (c : Cause) => c.kind != CauseKind.lease quad pos cnt) }
      let x := match x.holder quad with | some h => x.setLease quad h 0 | none => x
      x.grant quad pos cnt)) s

/-! ## Barriers (R286-R291) -/

/-- The barrier a BAR word names, in the virtual device's table. -/
def State.barIdx (s : State) (bid : BitVec 8) : Nat := s.m.barIdx s.cur bid.toNat

/-- BAR.INIT (R287). -/
def execBarInit (g : BitVec 4) (n : Bool) (bid : BitVec 8) (sc : BitVec 6) (s : State) : Host.Outcome State Fault Refusal :=
  s.word ([.name (.bar bid.toNat)] ++ sn [sc.toNat]) (s.guard g n) (fun s => do
    let v := (s.rd sc.toNat).toNat
    let k := s.barIdx bid
    need (decide (v < s.hdr.ngrp)) 0x02
    need (s.m.barIdle s.vd k) 0x07
    pure { s with m := s.m.barInit s.cur s.vd k bid.toNat v })

/-- BAR.EXPB (R288). -/
def execBarExpb (g : BitVec 4) (n : Bool) (bid : BitVec 8) (sc : BitVec 6) (s : State) : Host.Outcome State Fault Refusal :=
  s.word ([.name (.bar bid.toNat)] ++ sn [sc.toNat]) (s.guard g n) (fun s => do
    let k := s.barIdx bid
    s.m.barOpen s.vd k
    let m ← s.m.barExpect s.cur s.vd k bid.toNat (s.rd sc.toNat).toNat
    pure { s with m := m })

/-- The arrival of ARV and AW, with its checks (R289, R435). -/
def State.arrive (s : State) (bid : BitVec 8) (sco : BitVec 3) : Except Stop State := do
  let k := s.barIdx bid
  s.m.barOpen s.vd k
  s.m.barMayArrive s.cur s.vd k bid.toNat
  pure { s with m := s.m.barArrive s.cur s.vd k bid.toNat sco s.ec s.regs.pc 11 }

/-- The wait of WAIT and AW: it ends at once, or freezes the gang, or holds the Loupe program (R290). -/
def State.barWait (s : State) (bid : BitVec 8) (sco : BitVec 3) : State :=
  let k := s.barIdx bid
  match s.m.barTarget s.cur s.vd k bid.toNat with
  | none => { s with m := s.m.barAcquire s.cur s.vd k ((s.m.arrRec s.cur bid.toNat).getD 0) sco }
  | some gen =>
    match s.cur with
    | .core _ _ _ => s.freeze (.barrier k gen sco)
    | .loupe d i c => { s with m := s.m.updCtx d i c (fun x => { x with run := .waiting k gen sco }) }

/-- BAR.ARV (R289). -/
def execBarArv (g : BitVec 4) (n : Bool) (bid : BitVec 8) (sco : BitVec 3) (s : State) : Host.Outcome State Fault Refusal :=
  s.word [.name (.bar bid.toNat)] (s.guard g n) (fun s => s.arrive bid sco)

/-- BAR.WAIT (R290). -/
def execBarWait (g : BitVec 4) (n : Bool) (bid : BitVec 8) (sco : BitVec 3) (s : State) : Host.Outcome State Fault Refusal :=
  s.word [.name (.bar bid.toNat)] (s.guard g n) (fun s => do
    s.m.barOpen s.vd (s.barIdx bid)
    pure (s.barWait bid sco))

/-- BAR.AW (R291). -/
def execBarAw (g : BitVec 4) (n : Bool) (bid : BitVec 8) (sco : BitVec 3) (s : State) : Host.Outcome State Fault Refusal :=
  s.word [.name (.bar bid.toNat)] (s.guard g n) (fun s => do
    let s ← s.arrive bid sco
    pure (s.barWait bid sco))

/-! ## System registers (R98) -/

/-- The privilege declaration of a register number (check 5 of R31). -/
def sysDecl (reg : BitVec 12) : List Decl := if 0x800 ≤ reg.toNat then [.priv] else []

/-- MFSR (R98). -/
def execMfsr (g : BitVec 4) (n : Bool) (d : BitVec 6) (reg : BitVec 12) (s : State) : Host.Outcome State Fault Refusal :=
  s.word (sn [d.toNat] ++ sysDecl reg) (s.guard g n) (fun s => .ok (s.resS 2 d false (s.sysRead reg.toNat)))

/-- MTSR (R98). -/
def execMtsr (g : BitVec 4) (n : Bool) (a : BitVec 6) (reg : BitVec 12) (s : State) : Host.Outcome State Fault Refusal :=
  s.word (sn [a.toNat] ++ sysDecl reg) (s.guard g n) (fun s => .ok (s.sysWrite reg.toNat (s.rd a.toNat)))

/-! ## TRAP, EVNT, HALT, CSAVE (R396-R400) -/

/-- TRAP (R397). -/
def execTrap (g : BitVec 4) (n : Bool) (code : BitVec 12) (s : State) : Host.Outcome State Fault Refusal :=
  s.word [] (s.guard g n) (fun _ => .error (.fault { cause := 0x11, code := code, trap := true }))

/-- An event record: virtual device, JOB, GANG, rank (or 0x40 + the Loupe index), code, TIME, CYC (R398; log entry 26). -/
def eventRecord (vd job gang rank code time cyc : Nat) : List Byte :=
  natLE 1 vd ++ natLE 1 gang ++ natLE 2 job ++ natLE 1 rank ++ natLE 1 0 ++ natLE 2 code ++ natLE 8 time ++ natLE 8 cyc ++
  natLE 8 0

/-- EVNT: a release at device scope, and the record once it is performed (R398). -/
def execEvnt (g : BitVec 4) (n : Bool) (code : BitVec 12) (s : State) : Host.Outcome State Fault Refusal :=
  s.word [] (s.guard g n) (fun s =>
    let rank := match s.cur with | .core _ r _ => r | .loupe _ i _ => 0x40 + i
    let rec_ := eventRecord s.vd ((s.m.jobOf s.cur).map (·.num.toNat) |>.getD 0) s.gang.idx.toNat rank code.toNat s.m.time s.gang.cyc
    .ok { s with m := s.m.enqueue { who := .agent s.cur, vd := s.vd, cls := 0, seq := s.ec, op := .event s.vd rec_, loc := .sys 0,
                                    rel := true, sco := 4, gang := s.gno, rank := s.rank, pc := s.regs.pc, icnt := s.interval } 12 })

/-- TLBI: a release at device scope, then a freeze until the invalidations have completed, at most 1024 mc; a Loupe program,
which nothing freezes, issues no further word until then (R371). -/
def execTlbi (g : BitVec 4) (n : Bool) (a : BitVec 6) (s : State) : Host.Outcome State Fault Refusal :=
  s.word (sn [a.toNat] ++ [.priv]) (s.guard g n) (fun s => do
    let p := s.rd a.toNat
    need (p == 0 || ptrSpace p == 0) 0x03 p
    let m := s.m.enqueue { who := .agent s.cur, vd := s.vd, cls := 0, seq := s.ec, op := .fence, loc := .sys 0, rel := true,
                           sco := 4, gang := s.gno, rank := s.rank, pc := s.regs.pc } 13
    let s := { s with m := m.schedule .mc (m.time + 1 + m.draw 14 % 1024) (.tlbiComplete s.cur) }
    match s.cur with
    | .core _ _ _ => pure (s.freeze (.tlbi p))
    | .loupe d i c => pure { s with m := s.m.updCtx d i c (fun x => { x with run := .tlbi p }) })

/-- The translations a TLBI of `a` leaves (R371). -/
def tlbKeep (a : Word) (t : List TlbEntry) : List TlbEntry :=
  if a = 0 then [] else t.filter (fun e => !(decide (e.va ≤ ptrOff a) && decide (ptrOff a < e.va + e.size)))

/-- The translations of a gang's cores dropped. -/
def Gang.tlbDrop (x : Gang) (a : Word) : Gang :=
  { x with cores := x.cores.map (fun (k : Core) => { k with tlbS := tlbKeep a k.tlbS, tlbT := tlbKeep a k.tlbT }) }

/-- The translations of a virtual device's contexts on a die dropped. -/
def Die.tlbDrop (vd : Nat) (a : Word) (d : Die) : Die :=
  { d with loupes := d.loupes.map (fun (l : LoupeCore) => { l with
      ctxs := l.ctxs.map (fun (k : LoupeCtx) => if k.vd == vd then { k with tlb := tlbKeep a k.tlb } else k) }) }

/-- The pointer of a TLBI that holds its gang. -/
def CauseKind.tlbi? : CauseKind → Option Word
  | .tlbi a => some a
  | _ => none

/-- Every agent of a virtual device, and its walkers, drop the translations that a TLBI of `a` names (R371). -/
def Mach.tlbDrop (m : Mach) (vd : Nat) (a : Word) : Mach :=
  Mach.dropWalks { m with
    gangs := m.gangs.map (fun (p : Nat × Gang) => (p.1, if p.2.vd == vd then p.2.tlbDrop a else p.2))
    dies := m.dies.map (Die.tlbDrop vd a) } vd a

/-- TLBI_COMPLETE: the issuer's release is performed, every agent of the virtual device has dropped the translations,
and the issuer goes on (R371). -/
def execTlbiComplete (agent : Agent) (s : State) : Host.Outcome State Fault Refusal :=
  match agent with
  | .core gang r _ =>
    match (s.m.gang? gang).bind (fun x => (x.causes.find? (fun c => c.rank == r && (c.kind.tlbi?).isSome)).map (fun c => (x, c))) with
    | none => .fault .notEnabled
    | some (x, c) =>
      let m := (s.m.flushWho (.agent (.core gang r .s))).tlbDrop x.vd ((c.kind.tlbi?).getD 0)
      .next { s with m := m.updGang gang (fun x => { x with causes := x.causes.filter (fun k => k != c) }) }
  | .loupe d i c =>
    match s.m.ctx? d i c with
    | none => .fault .notEnabled
    | some x =>
      match x.run with
      | .tlbi a =>
        let m := (s.m.flushWho (.agent agent)).tlbDrop x.vd a
        .next { s with m := m.updCtx d i c (fun y => { y with run := .running }) }
      | _ => .fault .notEnabled

/-- DINV: the copy and the KV header capture of one granule are dropped; nothing is translated (R372). -/
def execDinv (g : BitVec 4) (n : Bool) (a : BitVec 6) (s : State) : Host.Outcome State Fault Refusal :=
  s.word (sn [a.toNat]) (s.guard g n) (fun s => do
    let p := s.rd a.toNat
    need (ptrSpace p == 0) 0x03 p
    let va := ptrOff p / 64 * 64
    let m := { s.m with copies := s.m.copies.filter (fun c => !(c.who == .agent s.cur && c.va == va)) }
    pure ({ s with m := m }.updIss (fun i => { i with dinv := i.dinv ++ [(s.rank, va)] })))

/-- Remote gangs of a halted job stop from 16 mc on; the job stands stopped, so that its Loupe members issue no further
word (R399). -/
def Mach.haltOthers (m : Mach) (a : Agent) : Mach :=
  match m.jobOf a with
  | none => m
  | some j =>
    let self := match a with | .core g _ _ => some g | .loupe _ _ _ => none
    let m := j.gangs.foldl (fun m g =>
      if some g == self then m
      else m.updGang g (fun x => { x with haltAt := some (m.time + 16) })) m
    m.updJob (m.jobNo a) (fun j => { j with st := .stopped })

/-- HALT: the gang stops here with cause 0x11 and CODE 0xFFF, and the job's other gangs after it (R399). -/
def execHalt (g : BitVec 4) (n : Bool) (s : State) : Host.Outcome State Fault Refusal :=
  match s.cur with
  | .core _ _ _ => s.word [.priv] (s.guard g n) (fun _ => .error (.fault { cause := 0x11, code := 0xFFF, halt := true }))
  | .loupe _ _ _ =>
    match s.word [.priv] (s.guard g n) (fun _ => .error (.fault { cause := 0x11, code := 0xFFF, halt := true })) with
    | .next t => .next (if s.guard g n && s.hdr.priv then { t with m := t.m.haltOthers s.cur } else t)
    | o => o

/-- HALT_REMOTE_STOP: the gang stops at its first ec from now on, with a report of cause 0 (R399). A gang that is frozen
or between ec stops when that ec would begin; the stop is made by the step that would begin it. -/
def execHaltRemoteStop (gang : Nat) (s : State) : Host.Outcome State Fault Refusal :=
  match s.m.gang? gang with
  | none => .fault .notEnabled
  | some x =>
    let due := (x.haltAt.map (fun t => decide (t ≤ s.m.time))).getD false
    let rep : Report := { gang := x.idx, time := BitVec.ofNat 64 s.m.time, halt := true }
    event (due && x.run == .running)
      ((s.m.updGang gang (fun x => { x with haltAt := none })).takeStop gang rep) s

/-- CSAVE: the pointer of a checkpoint at the next yield point (R400). -/
def execCsave (g : BitVec 4) (n : Bool) (a : BitVec 6) (s : State) : Host.Outcome State Fault Refusal :=
  s.word (sn [a.toNat]) (s.guard g n) (fun s => do
    let p := s.rd a.toNat
    need (ptrSpace p == 0 && ptrRank p == 0) 0x03 p
    need (ptrOff p % 65536 == 0) 0x06 p
    pure (s.updGang (fun x => { x with pck := some p })))

end Sys2Proof.Machine
end

