-- ==== Sys2Proof/Machine/ScalarMem.lean ====
section
/-! DEFINITION. How a word reaches memory — checks, translation, bank, queue, reply — and the S words that do: loads and
stores (R155-R159), LDL (R247), AMO and CAS (R278-R282), FENCE (R283). -/
namespace Sys2Proof.Machine

/-! ## Reaching a place -/

/-- A place a word reaches: where, the bytes of its page's check unit, 0 where it is not race-checked, the R47 latency figure of a load of it, the page's
attributes (0 outside GLB), and the machine with translation noted. -/
structure Reach where
  loc : Loc
  unit : Nat := 0
  lat : Nat
  leaf : Word := 0
  /-- The lines of the mirror region that hold its walk (R409). -/
  walk : List Nat := []
  m : Mach

/-- Steps 1 to 4 of R19, `align` its alignment, then the declared limit (R112) and, for GLB, translation, permissions
and the counters (R365, R373). `p` is the pointer a report shows, at an exact offset. -/
def State.reach (s : State) (e : Engine) (tlb : Tlb) (p : Word) (off : Int) (size align : Nat) (k : AccKind) :
    Except Stop Reach := do
  let a := s.cur
  checkUse s.m a e p off size
  let o := off.toNat
  need (o % align == 0) 0x06 p
  match ptrSpace p with
  | 0 =>
    match s.m.translate tlb s.vd o k with
    | .error c => if c = 0x04 then .error (.hold (.pageFault 0 p (k != .read))) else .error (.fault { cause := c, addr := p, walked := true })
    | .ok (t, m) =>
      let walk := m.walkHeld tlb s.vd o
      let m := m.countTouches s.vd (touchedBy t.leaf o size) t.leaf
      pure { loc := t.loc o, unit := checkUnit t.leaf, lat := pageLatency (s.m.dieOf a) t.leaf, leaf := t.leaf, walk := walk, m := m }
  | 2 => pure { loc := s.m.place a 2 (ptrRank p) o, lat := 96, m := s.m }
  | _ => do
    need (!beyond s.hdr o size) 0x02 p
    let own := match a with | .core _ r _ => r == ptrRank p | .loupe _ _ _ => false
    pure { loc := s.m.place a 1 (ptrRank p) o, lat := if own then 4 else 28, m := s.m }

/-- A queue entry for an access of the current agent; those of a Loupe core are class 0 (R337). -/
def State.entry (s : State) (r : Reach) (p : Word) (cls : BitVec 3) (sem : BitVec 2) (sco : BitVec 3) (op : QOp) : QEntry :=
  { who := .agent s.cur, vd := s.vd, cls := if s.onLoupe then 0 else cls, seq := s.ec, op := op, loc := r.loc, acq := bit sem 0, rel := bit sem 1
    sco := scopeAt s.onLoupe (ptrSpace p) sco.toNat, gang := s.gno, rank := s.rank, strm := s.cur.strm, pc := s.regs.pc
    icnt := s.interval, unit := r.unit, va := p, walk := r.walk }

/-- A read that needs a reply: on the own bank it is performed in the issue ec, and checked with the other accesses of that
ec at its end (R271, R329); elsewhere it is queued. -/
def State.startRead (s : State) (q : QEntry) (k reply : Nat) : State :=
  match q.who with
  | .agent (.core g r _) =>
    if ownBank q.who q.loc then
      State.updIss { s with m := (s.m.settleBank g r q.cls).loadNow q } (fun i => { i with
        bank := i.bank ++ [{ order := q.strm.idx, act := .check reply, entry := q }] })
    else { s with m := s.m.enqueue q k }
  | _ => { s with m := s.m.enqueue q k }

/-- A write: to the own bank it goes at the end of the ec (R271), in class 0 and plain into the bank, otherwise into its
queue; to any other place it is queued. -/
def State.startWrite (s : State) (q : QEntry) (k : Nat) : State :=
  if ownBank q.who q.loc then
    s.updIss (fun i => { i with
      bank := i.bank ++ [{ order := q.strm.idx, act := if q.cls != 0 || q.rel then .queue else .reach, entry := q }] })
  else { s with m := s.m.enqueue q k }

/-- A read-modify-write: on a scratchpad of the gang at the end of the ec, in rank order (R281); elsewhere queued. -/
def State.startAmo (s : State) (q : QEntry) (k : Nat) : State :=
  match q.loc, s.cur with
  | .scr _ _ _, .core _ _ _ => s.updIss (fun i => { i with bank := i.bank ++ [{ order := q.strm.idx, entry := q }] })
  | _, _ => { s with m := s.m.enqueue q k }

/-- The checker sees a load of the own bank: a report takes the place of its reply's bytes (R330). -/
def Mach.checkLoad (m : Mach) (q : QEntry) (reply : Nat) : Mach :=
  match q.raceOf m with
  | none => m
  | some (x, u, ptr) =>
    match m.raceAccess x u ptr with
    | (m, none) => m
    | (m, some (c, r)) => { m with replies := tupd m.replies reply (fun y => { y with
        buf := [], fault := y.fault <|> some (c, q.va, r), again := y.again ++ [q] }) }

/-- The checker sees a V load of the own bank: a report is raised at the due slot of its result (R330). -/
def Mach.checkRow (m : Mach) (q : QEntry) (rank : Nat) (units : List Nat) : Mach :=
  let x : RaceAcc := { gang := q.gang, rank := q.rank, strm := .v, cls := q.cls.toNat, kind := 1, iv := q.icnt, rd := true, wr := false }
  match m.raceUnits x rank units with
  | (m, none) => m
  | (m, some e) => m.updCore q.gang q.rank (fun c => { c with seq := { c.seq with
      pend := c.seq.pend.map (fun p => if p.strm == .v && p.seq == q.seq then { p with fault := p.fault <|> some e } else p) } })

/-- The command whose read of an LCB an entry is: LWGT where a ladder was open, else LOPN (R230, R233). -/
def QEntry.lcbBeat (q : QEntry) (old : Option Ladder) (snap : Option Snap) : Beat :=
  { op := if old.isSome then .lwgt else .lopn, rank := q.rank, off := (old.map (fun l => ptrOff l.ptr)).getD (ptrOff q.va)
    issue := q.seq, next := 0, pc := q.pc, icnt := q.icnt, acq := snap.isSome, snap := snap.getD {} }

/-- The checker sees the read of an LCB: with a report the command has no effect, else its snapshot is published (R327,
R330; log entry 21). -/
def Mach.checkLcb (m : Mach) (q : QEntry) (old : Option Ladder) (units : List Nat) (snap : Option Snap) : Mach :=
  let x : RaceAcc := { gang := q.gang, rank := q.rank, strm := .m, cls := 0, kind := 2, iv := q.icnt, rd := true, wr := false, acq := snap.isSome }
  match m.raceUnits x q.rank units with
  | (m, none) => match snap with | some p => m.publish q.gang p | none => m
  | (m, some e) => (m.lateFault q e.1 e.2.1 e.2.2 (.beat (q.lcbBeat old snap))).updCore q.gang q.rank (fun c => { c with
      mat := { c.mat with ladder := old } })

/-- The accesses of an ec to the banks at its end: stream order, then rank (R271, R281, R329). -/
def Mach.settleOps (m : Mach) (ops : List BankOp) : Mach :=
  (sortBy (fun a b => decide (a.order < b.order) || (a.order == b.order && decide (a.entry.rank < b.entry.rank))) ops).zipIdx.foldl
    (fun m (o, i) => match o.act with
      | .reach => m.commitNow o.entry
      | .queue => m.enqueue o.entry (32 + i % 32)
      | .check reply => m.checkLoad o.entry reply
      | .row rank units => m.checkRow o.entry rank units
      | .lcb old units snap => m.checkLcb o.entry old units snap) m

/-- A scalar result from a reply (R155, R279, R282). -/
def State.resReply (s : State) (lat : Nat) (d : BitVec 6) (id size : Nat) (sx : Bool) : State :=
  s.emit lat { pend0 with
    writes := [.s (physS s.regs.rrb d.toNat) 0], latchS := s.latchOf 0, reply := some id, form := some (.scalar size sx) }

/-! ## Loads and stores (R155-R159) -/

/-- Checks 1 to 5 of R156 for SYS, in their order. -/
def State.sysReach (s : State) (p : Word) (off : Int) (size : Nat) (load : Bool) : Except Stop Nat := do
  checkUse s.m s.cur .s p off size
  let o := off.toNat
  need (size == 8 && o % 8 == 0) 0x06 p
  need ((sysAccess (o / 8)).isSome) 0x03 p
  need (if load then sysReadable (o / 8) else sysWritable (o / 8)) 0x05 p
  pure (o / 8)

/-- The engine of the agent whose word is run. -/
def State.engine (s : State) : Engine := engineOf s.cur.strm

/-- A load or store of SYS is performed in its issue ec, once the older accesses that would keep it in its queue have left
theirs (R264, R269; log entry 83). -/
def State.sysOrder (s : State) (reg : Nat) (cls : BitVec 3) (sem : BitVec 2) (op : QOp) : State :=
  let q : QEntry := { who := .agent s.cur, vd := s.vd, cls := cls, seq := s.ec, op := op, loc := .sys reg, acq := bit sem 0, rel := bit sem 1 }
  { s with m := s.m.forceAll ((s.m.queue.filter (fun p => blocks p.2 q)).map (·.1)) }

/-- The release of a store to SYS (R156, R327). -/
def State.sysRelease (s : State) (sco : Nat) : State :=
  match s.cur with
  | .core g r _ => { s with m := s.m.raceRelease g r sco s.interval none }
  | .loupe _ _ _ => { s with m := s.m.bumpVg s.vd }

/-- The acquire of a load of SYS (R156, R269; log entry 82). -/
def State.sysAcquire (s : State) : State :=
  match s.cur with
  | .core g r _ => { s with m := (s.m.raceAcquireFence g r).acquired (.agent s.cur) }
  | .loupe _ _ _ => { s with m := s.m.acquired (.agent s.cur) }

/-- A pointer with another offset, as a report shows it. -/
def ptrAt (p : Word) (off : Int) : Word := mkPtr (ptrSpace p) (ptrRank p) (wrapInt 54 off)

/-- A plain access to a page with a tree depth is a descriptor fault (R245). -/
def noTree (r : Reach) (p : Word) : Except Stop Unit := needThere (leafDepth r.leaf == 0) 0x13 p

/-- A load of `size` bytes (R156, R157). -/
def load (size : Nat) (sx : Bool) (d a : BitVec 6) (cls : BitVec 3) (sem : BitVec 2) (sco : BitVec 3) (off : BitVec 6)
    (g : BitVec 4) (s : State) : Host.Outcome State Fault Refusal :=
  s.word (sn [d.toNat, a.toNat]) (s.guard g) (fun s => do
    let p0 := s.rd a.toNat
    let o : Int := ptrOff p0 + off.toNat * size
    let p := ptrAt p0 o
    if ptrSpace p0 = 15 && !s.onLoupe then
      let reg ← s.sysReach p o size true
      let t := s.sysOrder reg cls sem (.load 8 0 0)
      let t := if bit sem 0 then t.sysAcquire else t
      pure (t.resS 8 d false (t.sysRead reg))
    else
      let r ← s.reach s.engine s.tlb p o size size .read
      noTree r p
      let (id, m) := r.m.newReply (.agent s.cur) 1
      let t := State.startRead { s with m := m } (s.entry r p cls sem sco (.load size id 0)) 16 id
      pure (t.resReply r.lat d id size sx))

/-- A store of the low `size` bytes of s[D] (R156, R157). -/
def store (size : Nat) (d a : BitVec 6) (cls : BitVec 3) (sem : BitVec 2) (sco : BitVec 3) (off : BitVec 6)
    (g : BitVec 4) (s : State) : Host.Outcome State Fault Refusal :=
  s.word (sn [d.toNat, a.toNat]) (s.guard g) (fun s => do
    let p0 := s.rd a.toNat
    let o : Int := ptrOff p0 + off.toNat * size
    let p := ptrAt p0 o
    let v := s.rd d.toNat
    if ptrSpace p0 = 15 && !s.onLoupe then
      let reg ← s.sysReach p o size false
      let t := s.sysOrder reg cls sem (.store [])
      let t := if bit sem 1 then t.sysRelease (scopeAt false 15 sco.toNat) else t
      pure (t.sysWrite reg v)
    else
      let r ← s.reach s.engine s.tlb p o size size .write
      noTree r p
      pure (State.startWrite { s with m := r.m } (s.entry r p cls sem sco (.store (offs (natLE size v.toNat)))) 16))

/-- LDB: a sign-extended byte. -/
def execLdb (d a : BitVec 6) (cls : BitVec 3) (sem : BitVec 2) (sco : BitVec 3) (off : BitVec 6) (g : BitVec 4) (s : State) :
    Host.Outcome State Fault Refusal := load 1 true d a cls sem sco off g s
/-- LDBN: a zero-extended byte. -/
def execLdbn (d a : BitVec 6) (cls : BitVec 3) (sem : BitVec 2) (sco : BitVec 3) (off : BitVec 6) (g : BitVec 4) (s : State) :
    Host.Outcome State Fault Refusal := load 1 false d a cls sem sco off g s
/-- LDH. -/
def execLdh (d a : BitVec 6) (cls : BitVec 3) (sem : BitVec 2) (sco : BitVec 3) (off : BitVec 6) (g : BitVec 4) (s : State) :
    Host.Outcome State Fault Refusal := load 2 true d a cls sem sco off g s
/-- LDHN. -/
def execLdhn (d a : BitVec 6) (cls : BitVec 3) (sem : BitVec 2) (sco : BitVec 3) (off : BitVec 6) (g : BitVec 4) (s : State) :
    Host.Outcome State Fault Refusal := load 2 false d a cls sem sco off g s
/-- LDW. -/
def execLdw (d a : BitVec 6) (cls : BitVec 3) (sem : BitVec 2) (sco : BitVec 3) (off : BitVec 6) (g : BitVec 4) (s : State) :
    Host.Outcome State Fault Refusal := load 4 true d a cls sem sco off g s
/-- LDWN. -/
def execLdwn (d a : BitVec 6) (cls : BitVec 3) (sem : BitVec 2) (sco : BitVec 3) (off : BitVec 6) (g : BitVec 4) (s : State) :
    Host.Outcome State Fault Refusal := load 4 false d a cls sem sco off g s
/-- LDD. -/
def execLdd (d a : BitVec 6) (cls : BitVec 3) (sem : BitVec 2) (sco : BitVec 3) (off : BitVec 6) (g : BitVec 4) (s : State) :
    Host.Outcome State Fault Refusal := load 8 false d a cls sem sco off g s
/-- STB. -/
def execStb (d a : BitVec 6) (cls : BitVec 3) (sem : BitVec 2) (sco : BitVec 3) (off : BitVec 6) (g : BitVec 4) (s : State) :
    Host.Outcome State Fault Refusal := store 1 d a cls sem sco off g s
/-- STH. -/
def execSth (d a : BitVec 6) (cls : BitVec 3) (sem : BitVec 2) (sco : BitVec 3) (off : BitVec 6) (g : BitVec 4) (s : State) :
    Host.Outcome State Fault Refusal := store 2 d a cls sem sco off g s
/-- STW. -/
def execStw (d a : BitVec 6) (cls : BitVec 3) (sem : BitVec 2) (sco : BitVec 3) (off : BitVec 6) (g : BitVec 4) (s : State) :
    Host.Outcome State Fault Refusal := store 4 d a cls sem sco off g s
/-- STD. -/
def execStd (d a : BitVec 6) (cls : BitVec 3) (sem : BitVec 2) (sco : BitVec 3) (off : BitVec 6) (g : BitVec 4) (s : State) :
    Host.Outcome State Fault Refusal := store 8 d a cls sem sco off g s

/-! ## LDL (R247) -/

/-- The tree an LDL reaches: type and depth, by the lens of the own scratchpad or the page (R243, R244, R247). -/
def State.ldlTree (s : State) (p : Word) (leaf : Word) : Option (BitVec 4 × Nat) :=
  match ptrSpace p with
  | 1 =>
    if ptrRank p = s.rank then
      match s.core.lensAt (ptrOff p) with
      | some l => if lensOk l && lensXf l == 1 then some (BitVec.ofNat 4 (lensType l), lensDepth l) else none
      | none => none
    else none
  | _ => if leafDepth leaf = 0 then none else some (BitVec.ofNat 4 (leafType leaf), leafDepth leaf)

/-- LDL: the level-j average of an element's block, from one snapshot (R247). -/
def execLdl (d a : BitVec 6) (cls : BitVec 3) (sem : BitVec 2) (sco : BitVec 3) (j : BitVec 3) (g : BitVec 4) (s : State) :
    Host.Outcome State Fault Refusal :=
  s.word (sn [d.toNat, a.toNat]) (s.guard g) (fun s => do
    let p := s.rd a.toNat
    let o := ptrOff p
    need (ptrSpace p ≤ 1 || decide (4 ≤ ptrSpace p)) 0x03 p
    checkUse s.m s.cur s.engine p o 1
    need (ptrSpace p ≤ 1) 0x03 p
    let r ← if ptrSpace p = 0 then s.reach s.engine s.tlb p o 1 1 .read
      else pure { loc := s.m.place s.cur 1 (ptrRank p) o, lat := 4, m := s.m }
    match s.ldlTree p r.leaf with
    | none => .error (.fault { cause := 0x13, addr := p, walked := ptrSpace p == 0 })
    | some (ty, L) =>
      needThere (decide (j.toNat ≤ L)) 0x13 p
      needThere (o % tyBytes ty.toNat == 0) 0x06 p
      need (ptrSpace p == 0 || !beyond s.hdr o (tyBytes ty.toNat)) 0x02 p
      let (id, m) := r.m.newReply (.agent s.cur) 1
      let r := { r with loc := r.loc.block (2 ^ L * tyBytes ty.toNat) }
      let t := State.startRead { s with m := m } (s.entry r p cls sem sco (.ldl ty L j.toNat id)) 16 id
      pure (t.resReply (r.lat + 6) d id 8 false))

/-! ## Atomics (R278-R282) -/

/-- The checks of R279 and the place, and the latency of R280. -/
def State.atomic (s : State) (p : Word) (size : Nat) : Except Stop (Reach × Nat) := do
  let o := ptrOff p
  checkUse s.m s.cur s.engine p o size
  need (ptrSpace p ≤ 2) 0x03 p
  need (o % size == 0) 0x06 p
  if ptrSpace p = 0 then do
    needThere (s.m.treePage s.tlb s.vd o == false) 0x13 p
  let r ← s.reach s.engine s.tlb p o size 1 .both
  noTree r p
  let lat := match ptrSpace p with
    | 1 => if r.lat = 4 then 8 else 36
    | 2 => 136
    | _ => r.lat + 40
  pure (r, lat)

/-- An AMO (R278-R281). -/
def amo (code : Nat) (d a b : BitVec 6) (sem : BitVec 2) (sco : BitVec 3) (g : BitVec 4) (s : State) :
    Host.Outcome State Fault Refusal :=
  s.word (sn [d.toNat, a.toNat, b.toNat]) (s.guard g) (fun s => do
    let p := s.rd a.toNat
    let (r, lat) ← s.atomic p 8
    let (id, m) := r.m.newReply (.agent s.cur) 1
    let s := State.startAmo { s with m := m } (s.entry r p 0 sem sco (.amo code (s.rd b.toNat) id)) 16
    pure (s.resReply lat d id 8 false))

/-- AADD. -/
def execAadd (d a b : BitVec 6) (sem : BitVec 2) (sco : BitVec 3) (g : BitVec 4) (s : State) : Host.Outcome State Fault Refusal :=
  amo 0 d a b sem sco g s
/-- AMIN: signed minimum. -/
def execAmin (d a b : BitVec 6) (sem : BitVec 2) (sco : BitVec 3) (g : BitVec 4) (s : State) : Host.Outcome State Fault Refusal :=
  amo 1 d a b sem sco g s
/-- AMAX. -/
def execAmax (d a b : BitVec 6) (sem : BitVec 2) (sco : BitVec 3) (g : BitVec 4) (s : State) : Host.Outcome State Fault Refusal :=
  amo 2 d a b sem sco g s
/-- AMINN: natural minimum. -/
def execAminn (d a b : BitVec 6) (sem : BitVec 2) (sco : BitVec 3) (g : BitVec 4) (s : State) : Host.Outcome State Fault Refusal :=
  amo 3 d a b sem sco g s
/-- AMAXN. -/
def execAmaxn (d a b : BitVec 6) (sem : BitVec 2) (sco : BitVec 3) (g : BitVec 4) (s : State) : Host.Outcome State Fault Refusal :=
  amo 4 d a b sem sco g s
/-- AAND. -/
def execAand (d a b : BitVec 6) (sem : BitVec 2) (sco : BitVec 3) (g : BitVec 4) (s : State) : Host.Outcome State Fault Refusal :=
  amo 5 d a b sem sco g s
/-- AOR. -/
def execAor (d a b : BitVec 6) (sem : BitVec 2) (sco : BitVec 3) (g : BitVec 4) (s : State) : Host.Outcome State Fault Refusal :=
  amo 6 d a b sem sco g s
/-- ASWAP. -/
def execAswap (d a b : BitVec 6) (sem : BitVec 2) (sco : BitVec 3) (g : BitVec 4) (s : State) : Host.Outcome State Fault Refusal :=
  amo 7 d a b sem sco g s

/-- A CAS of `size` bytes: s[D] is expected value and destination (R282). -/
def cas (size : Nat) (d a b : BitVec 6) (sem : BitVec 2) (sco : BitVec 3) (g : BitVec 4) (s : State) :
    Host.Outcome State Fault Refusal :=
  s.word (sn [d.toNat, a.toNat, b.toNat]) (s.guard g) (fun s => do
    let p := s.rd a.toNat
    let (r, lat) ← s.atomic p size
    let (id, m) := r.m.newReply (.agent s.cur) 1
    let s := State.startAmo { s with m := m } (s.entry r p 0 sem sco (.cas size (s.rd d.toNat) (s.rd b.toNat) id)) 16
    pure (s.resReply lat d id size false))

/-- CAS.w: the old word comes back zero-extended. -/
def execCasW (d a b : BitVec 6) (sem : BitVec 2) (sco : BitVec 3) (g : BitVec 4) (s : State) : Host.Outcome State Fault Refusal :=
  cas 4 d a b sem sco g s
/-- CAS.d. -/
def execCasD (d a b : BitVec 6) (sem : BitVec 2) (sco : BitVec 3) (g : BitVec 4) (s : State) : Host.Outcome State Fault Refusal :=
  cas 8 d a b sem sco g s

/-- FENCE: it takes its place in the S stream's queues and never stops issue by itself (R283). -/
def execFence (cls : BitVec 3) (sem : BitVec 2) (sco : BitVec 3) (g : BitVec 4) (s : State) : Host.Outcome State Fault Refusal :=
  s.word [] (s.guard g) (fun s =>
    let q : QEntry := { who := .agent s.cur, vd := s.vd, cls := cls, seq := s.ec, op := .fence, loc := .sys 0, acq := bit sem 0,
                        rel := bit sem 1, sco := if s.onLoupe then max sco.toNat 3 else sco.toNat, gang := s.gno,
                        rank := s.rank, strm := s.cur.strm, pc := s.regs.pc, icnt := s.interval }
    .ok { s with m := s.m.enqueue q 16 })

end Sys2Proof.Machine
end

