-- ==== Sys2Proof/Machine/Vector.lean ====
section
/-! DEFINITION. The V words of 09_vector_compute.md, 10_vector_motion.md and 13_trees.md that touch no memory. -/
namespace Sys2Proof.Machine

/-! ## Results and sources of a V word -/

/-- A lane's bits and the flags its element sets. -/
abbrev Lane := Nat × Flags

/-- The bytes a V word writes: those of the lanes it produces, restricted by m0 when X = 1 (R164). -/
def State.wr (s : State) (prod : Mask) (x : Bool) : Mask := if x then prod &&& s.core.mask 0 else prod

/-- A view row a V word reaches is noted, so that a tile busy in this ec faults it (R26). -/
def State.view (s : State) (code : Nat) : State :=
  match s.core.viewTile code with
  | none => s
  | some t => s.updIss (fun i => { i with views := i.views ++ [(s.rank, t, s.regs.pc)] })

/-- The latch a result of a V word reaches: the written bytes, zero elsewhere (R70, R164). -/
def State.latchV (s : State) (wr : Mask) (r : Row) : Option (Nat × Nat × Row) := s.latchOf (r &&& maskBits wr)

/-- A row result: into the written bytes of D, unless W = 1, and into the latch (R164). -/
def State.resV (s : State) (lat : Nat) (d : BitVec 6) (w : Bool) (wr : Mask) (r : Row) (f : Flags) : State :=
  let s := if w then s else s.view d.toNat
  s.emit lat { pend0 with
    writes := if w then [] else [s.core.vwrite d.toNat wr r]
    latchV := s.latchV wr r, flags := f }

/-- The flags of the written lanes: lanes with a byte in WR (R132, R164). -/
def laneFlags (es : Nat) (wr : Mask) (l : List Lane) : Flags :=
  l.zipIdx.foldl (fun f (x, i) => if (wr >>> (es * i)).toNat % 2 ^ es != 0 then f ||| x.2 else f) 0

/-- A row of lanes of the shape's type as a result, every lane produced. -/
def State.resLanes (s : State) (lat : Nat) (d : BitVec 6) (x w : Bool) (l : List Lane) : State :=
  let h := s.core.vec.shp
  let wr := s.wr (BitVec.allOnes 256) x
  s.resV lat d w wr (rowOfLanes h.bits (l.map (·.1))) (laneFlags h.bytes wr l)

/-- The shape in force, and the lanes of a V source under it. -/
def State.shp (s : State) : Shape := s.core.vec.shp
def State.lanes (s : State) (code : Nat) : List Nat := lanesOf s.shp.bits (s.rdV code)

/-- Declarations of a V word: D when it is written or read, and its sources. -/
def vd (d : BitVec 6) (w : Bool) : List Nat := if w then [] else [d.toNat]

/-- The type check of a word that is not nullified: check 3 of R31 (R161). -/
def State.typed (s : State) (g : BitVec 4) (ok : Bool) : Decl := .form (!s.guard g || ok)

/-- A lane-wise word of two sources; `f` maps the lanes of A and B. -/
def vr2 (lat : Shape → Nat) (ok : Nat → Bool) (f : Shape → Nat → Nat → Lane) (d : BitVec 6) (a b : BitVec 7) (x w : Bool)
    (g : BitVec 4) (s : State) : Host.Outcome State Fault Refusal :=
  s.word (s.typed g (ok s.shp.ty.toNat) :: vn (vd d w ++ [a.toNat, b.toNat])) (s.guard g) (fun s =>
    let l := List.zipWith (f s.shp) (s.lanes a.toNat) (s.lanes b.toNat)
    .ok (((s.view a.toNat).view b.toNat).resLanes (lat s.shp) d x w l))

/-- The same with D as a third source. -/
def vr3 (lat : Shape → Nat) (f : Shape → Nat → Nat → Nat → Lane) (d : BitVec 6) (a b : BitVec 7) (x w : Bool) (g : BitVec 4)
    (s : State) : Host.Outcome State Fault Refusal :=
  s.word (vn [d.toNat, a.toNat, b.toNat]) (s.guard g) (fun s =>
    let l := List.zipWith (fun d (p : Nat × Nat) => f s.shp d p.1 p.2) (s.lanes d.toNat) (List.zip (s.lanes a.toNat) (s.lanes b.toNat))
    .ok ((((s.view d.toNat).view a.toNat).view b.toNat).resLanes (lat s.shp) d x w l))

/-- A lane-wise word of one source. -/
def vr1 (lat : Nat) (ok : Nat → Bool) (f : Shape → Nat → Lane) (d : BitVec 6) (a : BitVec 7) (x w : Bool) (g : BitVec 4)
    (s : State) : Host.Outcome State Fault Refusal :=
  s.word (s.typed g (ok s.shp.ty.toNat) :: vn (vd d w ++ [a.toNat])) (s.guard g) (fun s =>
    .ok ((s.view a.toNat).resLanes lat d x w ((s.lanes a.toNat).map (f s.shp))))

/-! ## Element arithmetic (R168-R170) -/

/-- An exact float result delivered in a format: invalid, infinite, zero or rounded (R169). -/
def deliver (f : Fmt) (h : Shape) (r : Val × Bool) : Lane :=
  if r.2 then (f.nanBits, flagNV) else roundF f h.rm.toNat h.sat r.1

/-- An integer result wrapped, or clamped under SAT (R170). -/
def deliverInt (h : Shape) (sat : Bool) (v : Int) : Lane :=
  let sg := tySigned h.ty.toNat
  (wrapInt h.bits (if sat then clampInt (intMin sg h.bits) (intMax sg h.bits) v else v), 0)

/-- The integer a lane holds. -/
def laneInt (h : Shape) (x : Nat) : Int := intOf (tySigned h.ty.toNat) h.bits x

/-- A binary operation on floats by its exact value, on integers by theirs. -/
def arith2 (fv : Val → Val → Val × Bool) (fi : Int → Int → Int) (h : Shape) (a b : Nat) : Lane :=
  match fmtOf h.ty.toNat with
  | some f => deliver f h (fv (decodeF f a) (decodeF f b))
  | none => deliverInt h h.sat (fi (laneInt h a) (laneInt h b))

/-- A fused operation d ± a · b. -/
def arith3 (sub : Bool) (h : Shape) (d a b : Nat) : Lane :=
  match fmtOf h.ty.toNat with
  | some f =>
    let x := decodeF f a
    deliver f h (fmaV (decodeF f d) (if sub then x.negate else x) (decodeF f b))
  | none =>
    let p := laneInt h a * laneInt h b
    deliverInt h false (laneInt h d + (if sub then -p else p))

/-- VMIN and VMAX: one of the operands, −0 below +0; a NaN operand gives the canonical NaN (R169, R170). -/
def pick (mx : Bool) (h : Shape) (a b : Nat) : Lane :=
  match fmtOf h.ty.toNat with
  | some f =>
    let x := decodeF f a
    let y := decodeF f b
    if x.isNan || y.isNan then (f.nanBits, 0)
    else (if (if mx then ltOrd x y else ltOrd y x) then b else a, 0)
  | none =>
    let x := laneInt h a
    let y := laneInt h b
    (if (if mx then decide (x < y) else decide (y < x)) then b else a, 0)

/-- Latency of the arithmetic words: 4 on float types, 2 on integer types (R48). -/
def latArith (h : Shape) : Nat := if tyFloat h.ty.toNat then 4 else 2

/-- Every type of R160. -/
def anyType (_ : Nat) : Bool := true

/-- VADD (R168). -/
def execVadd (d : BitVec 6) (a b : BitVec 7) (x w : Bool) (g : BitVec 4) (s : State) : Host.Outcome State Fault Refusal :=
  vr2 latArith anyType (arith2 addV (· + ·)) d a b x w g s
/-- VSUB (R168). -/
def execVsub (d : BitVec 6) (a b : BitVec 7) (x w : Bool) (g : BitVec 4) (s : State) : Host.Outcome State Fault Refusal :=
  vr2 latArith anyType (arith2 (fun a b => addV a b.negate) (· - ·)) d a b x w g s
/-- VMUL (R168). -/
def execVmul (d : BitVec 6) (a b : BitVec 7) (x w : Bool) (g : BitVec 4) (s : State) : Host.Outcome State Fault Refusal :=
  vr2 latArith anyType (arith2 mulV (· * ·)) d a b x w g s
/-- VFMA: d + a · b (R168). -/
def execVfma (d : BitVec 6) (a b : BitVec 7) (x w : Bool) (g : BitVec 4) (s : State) : Host.Outcome State Fault Refusal :=
  vr3 latArith (arith3 false) d a b x w g s
/-- VFMS: d − a · b (R168). -/
def execVfms (d : BitVec 6) (a b : BitVec 7) (x w : Bool) (g : BitVec 4) (s : State) : Host.Outcome State Fault Refusal :=
  vr3 latArith (arith3 true) d a b x w g s
/-- VMIN (R168). -/
def execVmin (d : BitVec 6) (a b : BitVec 7) (x w : Bool) (g : BitVec 4) (s : State) : Host.Outcome State Fault Refusal :=
  vr2 latArith anyType (pick false) d a b x w g s
/-- VMAX (R168). -/
def execVmax (d : BitVec 6) (a b : BitVec 7) (x w : Bool) (g : BitVec 4) (s : State) : Host.Outcome State Fault Refusal :=
  vr2 latArith anyType (pick true) d a b x w g s

/-! ## Unary functions (R171) -/

/-- The sign bit of a float lane cleared or flipped, a NaN made canonical. -/
def signOp (flip : Bool) (f : Fmt) (a : Nat) : Nat :=
  if (decodeF f a).isNan then f.nanBits
  else
    let s := 2 ^ (f.eb + f.fb)
    if flip then (if a / s % 2 = 1 then a - s else a + s) else a % s

/-- Functions 2 to 7: value and flags (R171). -/
def specialV (fn : Nat) (v : Val) : Val × Flags :=
  match fn with
  | 2 => divV (.fin false 1 0) v
  | 3 => rsqrtV v
  | 4 => ex2V v
  | 5 => lg2V v
  | 6 => tanhV v
  | _ => sqrtV v

/-- A special function delivered under RNE with SAT = 0; an infinite result in e4m3 is NaN with NV as well (R171). -/
def special (fn : Nat) (f : Fmt) (a : Nat) : Lane :=
  let (v, fl) := specialV fn (decodeF f a)
  let (r, g) := roundF f 0 false v
  (r, fl ||| g)

/-- VUN on one lane (R171). -/
def unary (fn : Nat) (h : Shape) (a : Nat) : Lane :=
  let w := h.bits
  match fn with
  | 0 =>
    match fmtOf h.ty.toNat with
    | some f => (signOp false f a, 0)
    | none => if tySigned h.ty.toNat then deliverInt h h.sat (laneInt h a).natAbs else (a, 0)
  | 1 =>
    match fmtOf h.ty.toNat with
    | some f => (signOp true f a, 0)
    | none => deliverInt h h.sat (-(laneInt h a))
  | 8 => (w - bitLen a, 0)
  | 9 => (popN w a, 0)
  | _ =>
    match fmtOf h.ty.toNat with
    | some f => special fn f a
    | none => (0, 0)

/-- VUN: functions 2 to 7 take float types only; latency 2 for ABS, NEG, CLZ and POPC, 12 for the others (R48, R171). -/
def execVun (d : BitVec 6) (a fn : BitVec 7) (x w : Bool) (g : BitVec 4) (s : State) : Host.Outcome State Fault Refusal :=
  let n := fn.toNat
  let simple := decide (n < 2) || n == 8 || n == 9
  vr1 (if simple then 2 else 12) (fun ty => simple || tyFloat ty) (unary n) d a x w g s

/-! ## Bitwise words, shifts, funnels (R172, R173) -/

/-- A word on bit patterns, latency 2, no flags. -/
def bitwise (f : Nat → Nat → Nat → Nat) (d : BitVec 6) (a b : BitVec 7) (x w : Bool) (g : BitVec 4) (s : State) :
    Host.Outcome State Fault Refusal :=
  vr2 (fun _ => 2) anyType (fun h a b => (f h.bits a b % 2 ^ h.bits, 0)) d a b x w g s

/-- VAND (R172). -/
def execVand (d : BitVec 6) (a b : BitVec 7) (x w : Bool) (g : BitVec 4) (s : State) : Host.Outcome State Fault Refusal :=
  bitwise (fun _ a b => a &&& b) d a b x w g s
/-- VOR (R172). -/
def execVor (d : BitVec 6) (a b : BitVec 7) (x w : Bool) (g : BitVec 4) (s : State) : Host.Outcome State Fault Refusal :=
  bitwise (fun _ a b => a ||| b) d a b x w g s
/-- VXOR (R172). -/
def execVxor (d : BitVec 6) (a b : BitVec 7) (x w : Bool) (g : BitVec 4) (s : State) : Host.Outcome State Fault Refusal :=
  bitwise (fun _ a b => a ^^^ b) d a b x w g s
/-- VSHL (R172). -/
def execVshl (d : BitVec 6) (a b : BitVec 7) (x w : Bool) (g : BitVec 4) (s : State) : Host.Outcome State Fault Refusal :=
  bitwise (fun n a b => a <<< (b % n)) d a b x w g s
/-- VSHR (R172). -/
def execVshr (d : BitVec 6) (a b : BitVec 7) (x w : Bool) (g : BitVec 4) (s : State) : Host.Outcome State Fault Refusal :=
  bitwise (fun n a b => a >>> (b % n)) d a b x w g s
/-- VSAR: copies of the top bit shifted in, under any type (R172). -/
def execVsar (d : BitVec 6) (a b : BitVec 7) (x w : Bool) (g : BitVec 4) (s : State) : Host.Outcome State Fault Refusal :=
  bitwise (fun n a b => wrapInt n (intOf true n a / 2 ^ (b % n))) d a b x w g s

/-- VFSL: the high half of the pair shifted left by D's lane, modulo 2w (R173). -/
def execVfsl (d : BitVec 6) (a b : BitVec 7) (x w : Bool) (g : BitVec 4) (s : State) : Host.Outcome State Fault Refusal :=
  vr3 (fun _ => 2) (fun h d a b => ((((a * 2 ^ h.bits + b) <<< (d % (2 * h.bits))) / 2 ^ h.bits) % 2 ^ h.bits, 0)) d a b x w g s
/-- VFSR: the low half of the pair shifted right (R173). -/
def execVfsr (d : BitVec 6) (a b : BitVec 7) (x w : Bool) (g : BitVec 4) (s : State) : Host.Outcome State Fault Refusal :=
  vr3 (fun _ => 2) (fun h d a b => (((a * 2 ^ h.bits + b) >>> (d % (2 * h.bits))) % 2 ^ h.bits, 0)) d a b x w g s

/-! ## One Haar level (R251) -/

/-- round(round(v, f32, RNE), TYPE, RNE) with the flags of both roundings. -/
def haarLane (f : Fmt) (v : Val × Bool) : Lane :=
  if v.2 then (f.nanBits, flagNV)
  else
    let (x, p) := roundF fmtF32 0 false v.1
    let (y, q) := roundF f 0 false (decodeF fmtF32 x)
    (y, p ||| q)

/-- Average and detail of a pair (VHAR). -/
def haarDown (h : Shape) (a b : Nat) : Lane × Lane :=
  match fmtOf h.ty.toNat with
  | some f =>
    let x := decodeF f a
    let y := decodeF f b
    let half (v : Val × Bool) := (halfV v.1, v.2)
    (haarLane f (half (addV x y)), haarLane f (half (addV x y.negate)))
  | none => let (p, q) := pairDown h.ty.toNat a b; ((p, 0), (q, 0))

/-- A pair from its average and detail (VIHR). -/
def haarUp (h : Shape) (a d : Nat) : Lane × Lane :=
  match fmtOf h.ty.toNat with
  | some f =>
    let x := decodeF f a
    let y := decodeF f d
    (haarLane f (addV x y), haarLane f (addV x y.negate))
  | none => let (p, q) := pairUp h.ty.toNat a d; ((p, 0), (q, 0))

/-- VHAR: averages in the low half, details in the high half (R251). -/
def execVhar (d : BitVec 6) (a : BitVec 7) (x w : Bool) (g : BitVec 4) (s : State) : Host.Outcome State Fault Refusal :=
  s.word (s.typed g (treeType s.shp.ty.toNat) :: vn (vd d w ++ [a.toNat])) (s.guard g) (fun s =>
    let l := (inPairs (s.lanes a.toNat)).map (fun p => haarDown s.shp p.1 p.2)
    .ok ((s.view a.toNat).resLanes 4 d x w (l.map (·.1) ++ l.map (·.2))))

/-- VIHR: the inverse (R251). -/
def execVihr (d : BitVec 6) (a : BitVec 7) (x w : Bool) (g : BitVec 4) (s : State) : Host.Outcome State Fault Refusal :=
  s.word (s.typed g (treeType s.shp.ty.toNat) :: vn (vd d w ++ [a.toNat])) (s.guard g) (fun s =>
    let l := s.lanes a.toNat
    let hn := l.length / 2
    let r := (List.zip (l.take hn) (l.drop hn)).flatMap (fun p => let (y, z) := haarUp s.shp p.1 p.2; [y, z])
    .ok ((s.view a.toNat).resLanes 4 d x w r))

/-! ## Compare, select, masks (R174-R176, R250) -/

/-- A mask result: all bits, or with X = 1 those of the bytes m0 enables (R165). -/
def State.resM (s : State) (lat : Nat) (mk : BitVec 3) (x : Bool) (k : Mask) : State :=
  s.emit lat { pend0 with writes := [if x then .mm mk.toNat (s.core.mask 0) k else .m mk.toNat k] }

/-- A mask that gives every bit of a lane one truth value. -/
def maskOfLanes (es : Nat) (l : List Bool) : Mask :=
  BitVec.ofNat 256 (packNat es (l.map (fun t => if t then 2 ^ es - 1 else 0)))

/-- The condition of a compare on two lanes (R174). -/
def vcond (cc : Nat) (h : Shape) (a b : Nat) : Bool :=
  let (nan, c) : Bool × Int := match fmtOf h.ty.toNat with
    | some f =>
      let x := decodeF f a
      let y := decodeF f b
      (x.isNan || y.isNan, cmpV x y)
    | none => (false, laneInt h a - laneInt h b)
  match cc with
  | 0 => !nan && c == 0
  | 1 => nan || c != 0
  | 2 => !nan && decide (c < 0)
  | 3 => !nan && decide (c ≤ 0)
  | 4 => !nan && decide (c > 0)
  | 5 => !nan && decide (c ≥ 0)
  | _ => !nan

/-- VCMP (R174). -/
def execVcmp (cc mk : BitVec 3) (a b : BitVec 7) (x : Bool) (g : BitVec 4) (s : State) : Host.Outcome State Fault Refusal :=
  s.word (vn [a.toNat, b.toNat]) (s.guard g) (fun s =>
    let l := List.zipWith (vcond cc.toNat s.shp) (s.lanes a.toNat) (s.lanes b.toNat)
    .ok (((s.view a.toNat).view b.toNat).resM 2 mk x (maskOfLanes s.shp.bytes l)))

/-- VSEL: bytes of A where m0 is set, of B elsewhere; all bytes written (R175). -/
def execVsel (d : BitVec 6) (a b : BitVec 7) (w : Bool) (g : BitVec 4) (s : State) : Host.Outcome State Fault Refusal :=
  s.word (vn (vd d w ++ [a.toNat, b.toNat])) (s.guard g) (fun s =>
    .ok (((s.view a.toNat).view b.toNat).resV 2 d w (BitVec.allOnes 256)
      (blend (s.core.mask 0) (s.rdV b.toNat) (s.rdV a.toNat)) 0))

/-- The low L bits of a mask spread one to a lane (.l2b, R176). -/
def spread (h : Shape) (a : Mask) : Mask := maskOfLanes h.bytes ((List.range h.lanes).map (fun i => a.getLsbD i))

/-- VMSK (R176). -/
def execVmsk (op mk ma mb : BitVec 3) (g : BitVec 4) (s : State) : Host.Outcome State Fault Refusal :=
  s.word [] (s.guard g) (fun s =>
    let a := s.core.mask ma.toNat
    let b := s.core.mask mb.toNat
    let r := match op.toNat with
      | 0 => a &&& b
      | 1 => a ||| b
      | 2 => a ^^^ b
      | 3 => ~~~a
      | 4 => a
      | _ => spread s.shp a
    .ok (s.resM 1 mk false r))

/-- The threshold test on one lane (R250). -/
def overTh (h : Shape) (th a : Nat) : Bool :=
  match fmtOf h.ty.toNat with
  | some f =>
    let x := decodeF f (a % 2 ^ (f.eb + f.fb))
    let t := decodeF f th
    x.isNan || (!t.isNan && decide (cmpV x t > 0))
  | none =>
    if tySigned h.ty.toNat then decide (((laneInt h a).natAbs : Int) > laneInt h th) else decide (a > th)

/-- VTHR: only the mask, latency 2, no flag (R250). -/
def execVthr (th : BitVec 2) (mk : BitVec 3) (a : BitVec 7) (g : BitVec 4) (s : State) : Host.Outcome State Fault Refusal :=
  s.word (vn [a.toNat]) (s.guard g) (fun s =>
    let t := (vget s.core.vec.th th.toNat 0).toNat % 2 ^ s.shp.bits
    .ok ((s.view a.toNat).resM 2 mk false (maskOfLanes s.shp.bytes ((s.lanes a.toNat).map (overTh s.shp t)))))

/-! ## Rearrangement (R180-R185) -/

/-- The lanes enabled lane-wise (R179). -/
def State.enabled (s : State) : List Bool := (List.range s.shp.lanes).map (laneOn (s.core.mask 0) s.shp.bytes)

/-- A word that moves the lanes of A as a list. -/
def vmove (lat : Nat) (f : State → List Nat → List Nat) (d : BitVec 6) (a : BitVec 7) (x w : Bool) (g : BitVec 4) (s : State) :
    Host.Outcome State Fault Refusal :=
  s.word (vn (vd d w ++ [a.toNat])) (s.guard g) (fun s =>
    .ok ((s.view a.toNat).resLanes lat d x w ((f s (s.lanes a.toNat)).map (fun v => (v, 0)))))

/-- VSLU: lanes up by n, zeros below (R180). -/
def execVslu (d : BitVec 6) (a n : BitVec 7) (x w : Bool) (g : BitVec 4) (s : State) : Host.Outcome State Fault Refusal :=
  vmove 3 (fun s l => (List.replicate n.toNat 0 ++ l).take s.shp.lanes) d a x w g s
/-- VSLD: lanes down by n, zeros above (R180). -/
def execVsld (d : BitVec 6) (a n : BitVec 7) (x w : Bool) (g : BitVec 4) (s : State) : Host.Outcome State Fault Refusal :=
  vmove 3 (fun s l => (l ++ List.replicate n.toNat 0).drop n.toNat |>.take s.shp.lanes) d a x w g s

/-- Enabled lanes packed low, zeros after them (R183). -/
def compress (on : List Bool) (l : List Nat) : List Nat :=
  let k := (List.zip on l).filterMap (fun p => if p.1 then some p.2 else none)
  k ++ List.replicate (l.length - k.length) 0

/-- Lanes of a list given in turn to the enabled places, zeros elsewhere (R183). -/
def expand : List Bool → List Nat → List Nat
  | [], _ => []
  | true :: on, v :: l => v :: expand on l
  | true :: on, [] => 0 :: expand on []
  | false :: on, l => 0 :: expand on l

/-- VCOMP (R183). -/
def execVcomp (d : BitVec 6) (a : BitVec 7) (w : Bool) (g : BitVec 4) (s : State) : Host.Outcome State Fault Refusal :=
  vmove 4 (fun s l => compress s.enabled l) d a false w g s
/-- VEXPD (R183). -/
def execVexpd (d : BitVec 6) (a : BitVec 7) (w : Bool) (g : BitVec 4) (s : State) : Host.Outcome State Fault Refusal :=
  vmove 4 (fun s l => expand s.enabled l) d a false w g s

/-- VBRD: the low ES bytes of a scalar in every lane (R181). -/
def execVbrd (d : BitVec 6) (a : BitVec 7) (x w : Bool) (g : BitVec 4) (s : State) : Host.Outcome State Fault Refusal :=
  s.word (vn (vd d w) ++ sn [a.toNat]) (s.guard g) (fun s =>
    .ok (s.resLanes 2 d x w (List.replicate s.shp.lanes ((s.rd a.toNat).toNat % 2 ^ s.shp.bits, 0))))

/-- An integer converted to the shape's type (R178, R182). -/
def Shape.convInt (h : Shape) (v : Int) : Lane :=
  match fmtOf h.ty.toNat with
  | some f => roundF f h.rm.toNat h.sat (intVal v)
  | none => deliverInt h h.sat v

/-- VIOTA (R182). -/
def execViota (d : BitVec 6) (x w : Bool) (g : BitVec 4) (s : State) : Host.Outcome State Fault Refusal :=
  s.word (vn (vd d w)) (s.guard g) (fun s =>
    .ok (s.resLanes 1 d x w ((List.range s.shp.lanes).map (fun (i : Nat) => s.shp.convInt (i : Int)))))

/-- VMVS: one lane to a scalar, extended as its type; no latch (R184). -/
def execVmvs (d : BitVec 6) (a idx : BitVec 7) (g : BitVec 4) (s : State) : Host.Outcome State Fault Refusal :=
  s.word (sn [d.toNat] ++ vn [a.toNat]) (s.guard g) (fun s =>
    let h := s.shp
    let v := laneOf h.bits (s.rdV a.toNat) (idx.toNat % h.lanes)
    let r := BitVec.ofInt 64 (intOf (tySigned h.ty.toNat) h.bits v)
    .ok ((s.view a.toNat).emit 3 { pend0 with writes := [.s (physS s.regs.rrb d.toNat) r] }))

/-- VMSV: a scalar into one lane; the others are kept (R185). -/
def execVmsv (d : BitVec 6) (a : BitVec 7) (idx : BitVec 7) (x w : Bool) (g : BitVec 4) (s : State) : Host.Outcome State Fault Refusal :=
  s.word (vn (vd d w) ++ sn [a.toNat]) (s.guard g) (fun s =>
    let h := s.shp
    let i := idx.toNat % h.lanes
    let r := rowOfLanes h.bits (List.replicate i 0 ++ [(s.rd a.toNat).toNat % 2 ^ h.bits])
    .ok (s.resV 2 d w (s.wr (laneMask h.bytes i 1) x) r 0))

/-! ## Conversion (R177, R178) -/

/-- The ratio of two widths (R177). -/
def widthRatio (sw tw : Nat) : Nat := max sw tw / min sw tw

/-- VCVT: the part of the lanes that the two widths call for (R177). -/
def execVcvt (d : BitVec 6) (a : BitVec 7) (ty : BitVec 4) (part : BitVec 3) (x w : Bool) (g : BitVec 4) (s : State) :
    Host.Outcome State Fault Refusal :=
  s.word (s.typed g (decide (part.toNat < widthRatio s.shp.bits (tyBits ty.toNat))) :: vn (vd d w ++ [a.toNat])) (s.guard g) (fun s =>
    let h := s.shp
    let sw := h.bits
    let tw := tyBits ty.toNat
    let r := widthRatio sw tw
    let p := part.toNat
    let src := s.lanes a.toNat
    let n := if tw > sw then src.length / r else src.length
    let l := ((if tw > sw then (src.drop (p * n)).take n else src)).map
      (convElem h.ty.toNat ty.toNat h.rm.toNat h.sat)
    let at_ := if tw < sw then p * n else 0
    let es := tw / 8
    let wr := s.wr (laneMask es at_ n) x
    let row := rowOfLanes tw (List.replicate at_ 0 ++ l.map (·.1))
    .ok ((s.view a.toNat).resV 4 d w wr row (laneFlags es wr (List.replicate at_ (0, 0) ++ l))))

/-! ## Reduction (R186-R189) -/

/-- The accumulating type of the lanes (R186). -/
def accOf (op : Nat) (ty : Nat) : AccTy :=
  if tyFloat ty then .f32 else if tySigned ty && op != 3 then .i32 else .n32

/-- A lane as it enters the tree (R186, R187). -/
def redEnter (op : Nat) (h : Shape) (x : Nat) : BitVec 32 :=
  let ty := h.ty.toNat
  if op = 4 ∨ op = 5 then BitVec.ofNat 32 x
  else
    match fmtOf ty with
    | some f =>
      let v := decodeF f x
      BitVec.ofNat 32 ((roundF fmtF32 0 false v).1 % (if op = 3 && !v.isNan then 2 ^ 31 else 2 ^ 32))
    | none =>
      let v := laneInt h x
      if op = 3 then BitVec.ofNat 32 v.natAbs else BitVec.ofInt 32 v

/-- VRED: each group's tree; the roots are combined into the latch six ec later, with the flags (R187, R188). -/
def execVred (y : BitVec 2) (op : BitVec 4) (a : BitVec 7) (x : Bool) (g : BitVec 4) (s : State) :
    Host.Outcome State Fault Refusal :=
  s.word (if op = 15 then [] else s.typed g (decide (s.shp.lanes / 2 ^ s.shp.gsl.toNat ≤ 64)) :: vn [a.toNat]) (s.guard g) (fun s =>
    let h := s.shp
    let n := op.toNat
    let acc := accOf n h.ty.toNat
    if op = 15 then
      .ok (s.emit 6 { pend0 with writes := [.y y.toNat { op := op, acc := acc, sat := h.sat, roots := [] }] })
    else
      let gs := 2 ^ h.gsl.toNat
      let ls := (List.zip (s.lanes a.toNat) s.enabled).map (fun (v, on) => if x && !on then none else some (redEnter n h v))
      let rs := (List.range (h.lanes / gs)).map (fun k => redTree n acc h.sat h.gsl.toNat ((ls.drop (k * gs)).take gs))
      .ok ((s.view a.toNat).emit 6 { pend0 with
        writes := [.y y.toNat { op := op, acc := acc, sat := h.sat, roots := rs.map (·.1) }]
        flags := rs.foldl (fun f r => f ||| r.2) 0 }))

/-- VMVY: the latch's bytes, an empty element zero (R189). -/
def execVmvy (d : BitVec 6) (y : BitVec 2) (x w : Bool) (g : BitVec 4) (s : State) : Host.Outcome State Fault Refusal :=
  s.word (vn (vd d w)) (s.guard g) (fun s =>
    let l := (vget s.core.vec.y y.toNat (Vector.replicate 64 none)).toList
    let r := rowOfLanes 32 (l.map (fun e => (e.getD 0).toNat))
    .ok (s.resV 2 d w (s.wr (BitVec.allOnes 256) x) r 0))

/-! ## VSET (R163) -/

/-- VSET.shape: a group switch of V (R163, R71). The switch comes with the word: its next word is cycle 0. -/
def execVsetShape (ty : BitVec 4) (rm : BitVec 2) (sat : Bool) (gsl : BitVec 4) (g : BitVec 4) (s : State) :
    Host.Outcome State Fault Refusal :=
  s.jump [] (s.guard g) (fun s => do
    need s.falls 0x02
    let s := s.updCore (fun c => { c with vec := { c.vec with shp := { ty := ty, rm := rm, sat := sat, gsl := gsl } } })
    pure (s.groupSwitch.updRegs (fun r => { r with pc := r.pc + 1 })))

/-- VSET.th: the low 32 bits of a scalar (R163). -/
def execVsetTh (th : BitVec 2) (a : BitVec 6) (g : BitVec 4) (s : State) : Host.Outcome State Fault Refusal :=
  s.word (sn [a.toNat]) (s.guard g) (fun s =>
    .ok (s.updCore (fun c => { c with vec := { c.vec with th := vset c.vec.th th.toNat ((s.rd a.toNat).truncate 32) } })))

/-- VSET.tag (R163). -/
def execVsetTag (tag : BitVec 16) (g : BitVec 4) (s : State) : Host.Outcome State Fault Refusal :=
  s.word [] (s.guard g) (fun s => .ok (s.updCore (fun c => { c with vec := { c.vec with tagv := tag } })))

/-! ## VLRG (R235) -/

/-- VLRG: a rung row as it stands, of a slot that its digit fills (R218); zeros for an empty slot, a rung beyond the depth, or no ladder. A ladder command still
occupying the core faults it, at the end of the ec (R235). -/
def execVlrg (d : BitVec 6) (k : BitVec 3) (sl : Bool) (i : BitVec 6) (w : Bool) (g : BitVec 4) (s : State) :
    Host.Outcome State Fault Refusal :=
  s.word (vn (vd d w)) (s.guard g) (fun s =>
    let m := s.core.mat
    let slot := 2 * k.toNat + (if sl then 1 else 0)
    let r := match m.ladder with
      | none => 0
      | some l =>
        let occupied := bit l.two k.toNat || (!sl && bit l.one k.toNat)
        if decide (k.toNat < l.depth.toNat) && occupied then
          vget (vget m.rung slot (Vector.replicate 64 0)) i.toNat 0
        else 0
    let s := s.updIss (fun x => { x with views := x.views ++ [(s.rank, 8, s.regs.pc)] })
    .ok (s.resV 8 d w (BitVec.allOnes 256) r 0))

end Sys2Proof.Machine
end

