-- ==== Sys2Proof/Machine/VectorMem.lean ====
section
/-! DEFINITION. The V words that reach scratchpad: VLD and VST (R190-R194), VLDL, VLDD and VSTL through a tree lens (R248,
R249). -/
namespace Sys2Proof.Machine

/-- Whether a pointer names the own rank's scratchpad. -/
def State.ownPtr (s : State) (p : Word) : Bool := ptrSpace p == 1 && ptrRank p == s.rank

/-- The lens a V access passes through, when its pointer is the own rank's (R243). -/
def State.lensOf (s : State) (p : Word) (off : Int) : Option Word :=
  if s.ownPtr p && decide (0 ≤ off) then s.core.lensAt off.toNat else none

/-- What a lens makes of a VLD or VST (R193): none passes the bytes unchanged. -/
inductive LensUse where
  | plain
  | block (l : Word)
  | tree (l : Word)
  | bad
  deriving DecidableEq, Repr

/-- A lens's use; an entry against R244 and an srl lens are bad. -/
def lensUse : Option Word → LensUse
  | none => .plain
  | some l =>
    if !lensOk l || lensType l == 14 then .bad
    else if lensXf l == 1 then .tree l
    else if tyBlock (lensType l) then .block l
    else .plain

/-- The checks shared by VLD and VST, in the order of R193: pointer, alignment, lens, declaration. `span` is how many
bytes from P the checks cover. U = 1 through an entry that R244 calls invalid is a descriptor fault, whatever type and
depth it names (log entry 68). -/
def State.rowCheck (s : State) (p : Word) (off : Int) (u : Bool) (use : LensUse) (span : Nat) : Except Stop Unit := do
  checkUse s.m s.cur .v p off span
  need ((u && (match use with | .block _ | .tree _ => false | _ => true)) || off.toNat % 256 == 0) 0x06 p
  need (!u || (match use with | .block _ | .tree _ => false | _ => true)) 0x06 p
  need (use != .bad) 0x13 p
  need (!beyond s.hdr off.toNat span) 0x02 p

/-- Bytes from P that the checks of a VLD or VST cover: through a block lens, those of the lines it touches (R193). -/
def State.rowSpan (s : State) (off : Nat) (use : LensUse) : Nat :=
  match use with
  | .block l => blockSpan l off s.shp.lanes
  | _ => 256

/-- The first read a V load with T = 1 makes, against TAGV at issue (R69). -/
def State.firstOf (s : State) (cls : BitVec 3) (v : RowSpec) : FirstRead :=
  { rank := v.rank, grans := v.grans, tag := s.core.vec.tagv, cls := cls, icnt := s.interval
    done := match s.m.core? s.gno v.rank with
      | none => []
      | some c => v.grans.map (fun g => (c.granTag g).done) }

/-- The checker's view of a V access at issue (R325). -/
def State.vacc (s : State) (cls : BitVec 3) (wr : Bool) : RaceAcc :=
  { gang := s.gno, rank := s.rank, strm := .v, cls := cls.toNat, kind := 1, iv := s.interval, rd := !wr, wr := wr }

/-- A V load of the own bank, in the issue ec (R271): earlier queued stores of its class reach the bank first. Without T
the row is taken now and the access checked at the end of the ec (R329); with T both wait for the tag (R69). -/
def State.ownRow (s : State) (lat : Nat) (d : BitVec 6) (cls : BitVec 3) (t : Bool) (v : RowSpec) : State :=
  let s := { s with m := v.spans.foldl (fun m (a, n) => m.observe (.agent s.cur) none (.scr s.gno v.rank a) n)
                      (s.m.settleBank s.gno s.rank cls) }
  let err := v.spans.any (fun (a, n) => s.m.locError s.vd (.scr s.gno v.rank a) n false)
  let (r, f) := s.core.row v
  let q := s.entry { loc := .scr s.gno v.rank v.off, lat := 0, m := s.m } (mkPtr 1 v.rank v.off) cls 0 0 (.load 256 0 0)
  let s := if t || err then s else s.updIss (fun i => { i with
    bank := i.bank ++ [{ order := Stream.v.idx, act := .row v.rank v.units, entry := q }] })
  let s := s.view d.toNat
  s.emit lat { pend0 with
    writes := [s.core.vwrite d.toNat (BitVec.allOnes 256) r]
    latchV := s.latchOf r, flags := f, row := some { v with cls := cls }
    first := if t then some (s.firstOf cls v) else none
    fault := if err then some (0x10, mkPtr 1 v.rank v.off, 0) else none }

/-- A V load of another rank's scratchpad: one queued part for each 64-byte granule, and a reply (R192). -/
def State.farRow (s : State) (d : BitVec 6) (cls : BitVec 3) (t : Bool) (p : Word) (v : RowSpec) : State :=
  let parts := v.units.map (fun u => (max v.off (64 * u), min (v.off + 256) (64 * u + 64)))
  let (id, m) := s.m.newReply (.agent s.cur) parts.length
  let m := parts.zipIdx.foldl (fun m ((lo, hi), i) =>
    m.enqueue (s.entry { loc := .scr s.gno v.rank lo, lat := 28, m := m } p cls 0 0 (.load (hi - lo) id (lo - v.off))) (16 + i)) m
  let s := ({ s with m := m } : State).view d.toNat
  s.emit 28 { pend0 with
    writes := [s.core.vwrite d.toNat (BitVec.allOnes 256) 0]
    latchV := s.latchOf 0, reply := some id, form := some .row, row := some { v with cls := cls }
    first := if t then some (s.firstOf cls v) else none }

/-- VLD (R190-R193). -/
def execVld (d a : BitVec 6) (cls : BitVec 3) (t u : Bool) (off : BitVec 5) (g : BitVec 4) (s : State) :
    Host.Outcome State Fault Refusal :=
  s.word (vn [d.toNat] ++ sn [a.toNat]) (s.guard g) (fun s => do
    let p0 := s.rd a.toNat
    let o : Int := ptrOff p0 + 256 * off.toNat
    let p := ptrAt p0 o
    let use := lensUse (s.lensOf p0 o)
    s.rowCheck p o u use (s.rowSpan o.toNat use)
    let base : RowSpec := { rank := ptrRank p, off := o.toNat, kind := .bytes, shp := s.shp }
    match use with
    | .block l => pure (s.ownRow 8 d cls t { base with kind := .block, lens := l })
    | .tree l => pure (s.ownRow 6 d cls t { base with kind := .averages 0 0, lens := l })
    | _ => pure (if s.ownPtr p then s.ownRow 6 d cls t base else s.farRow d cls t p base))

/-- A write of a V word, granule by granule in ascending order (R192, R266). -/
def State.rowStore (s : State) (p : Word) (cls : BitVec 3) (rank off : Nat) (data : List (Nat × Byte)) : State :=
  let grans := (data.map (fun x => (off + x.1) / 64)).eraseDups
  grans.zipIdx.foldl (fun s (u, i) =>
    let part := data.filter (fun x => (off + x.1) / 64 == u)
    let lo := ((part.head?).map (·.1)).getD 0
    s.startWrite (s.entry { loc := .scr s.gno rank (off + lo), lat := 0, m := s.m } p cls 0 0
      (.store (part.map (fun x => (x.1 - lo, x.2))))) (16 + i)) s

/-- Spine commits of a V word, in ascending block order (R249): the values each block is given. -/
def State.rowSpine (s : State) (p : Word) (cls : BitVec 3) (l : Word) (level : Nat) (flat : Bool)
    (blocks : List (Nat × List (Nat × Nat))) : State :=
  (blocks.filter (fun b => decide (b.1 < lensEnd l) && !b.2.isEmpty)).zipIdx.foldl (fun s ((a, vals), i) =>
    s.startWrite (s.entry { loc := .scr s.gno s.rank a, lat := 0, m := s.m } p cls 0 0
      (.spine (BitVec.ofNat 4 (lensType l)) (lensDepth l) level flat vals)) (16 + i)) s

/-- No store may issue while a VSTL occupies the store path (R48). -/
def State.storePath (s : State) : Except Stop Unit := need (decide (s.core.vec.vstlEnd ≤ s.ec)) 0x07

/-- The blocks of a row of lanes encoded through a block lens: bytes at offsets of P, and flags (R136, R193). Pad bytes are not among
them: R134 has an encoder write them as zero, R193 has a store leave those of its lines as they lie (log entry 88). -/
def encodeRow (l : Word) (off : Nat) (h : Shape) (lanes : List Nat) : List (Nat × Byte) × Flags :=
  let ty := lensType l
  (blockAddrs l off h.lanes).zipIdx.foldl (fun acc (a, k) =>
    match a with
    | none => acc
    | some a =>
      let (blk, f) := encodeBlock (blockM ty) h.rm.toNat h.sat (((lanes.drop (16 * k)).take 16).map (elemVal h.ty.toNat))
      (acc.1 ++ (natLE (blockBytes ty) blk).zipIdx.map (fun (b, i) => (a - off + i, b)), acc.2 ||| f)) ([], 0)

/-- Level values of lanes given to the blocks of a row, lane by lane where `on` says so (R249). -/
def shareOut (l : Word) (off j r : Nat) (on : List Bool) (lanes : List Nat) : List (Nat × List (Nat × Nat)) :=
  let per := 2 ^ (lensDepth l - j)
  (treeBlocks l off j r).zipIdx.map (fun (a, k) =>
    (a, (List.range per).filterMap (fun q =>
      if (on.drop (k * per + q)).headD false then some (q, (lanes.drop (k * per + q)).headD 0) else none)))

/-- VST (R190-R193). -/
def execVst (d a : BitVec 6) (cls : BitVec 3) (u : Bool) (off : BitVec 5) (g : BitVec 4) (s : State) :
    Host.Outcome State Fault Refusal :=
  s.word (vn [d.toNat] ++ sn [a.toNat]) (s.guard g) (fun s => do
    let p0 := s.rd a.toNat
    let o : Int := ptrOff p0 + 256 * off.toNat
    let p := ptrAt p0 o
    let use := lensUse (s.lensOf p0 o)
    s.rowCheck p o u use (s.rowSpan o.toNat use)
    s.storePath
    let row := s.rdV d.toNat
    let s := s.view d.toNat
    match use with
    | .block l =>
      let (data, f) := encodeRow l o.toNat s.shp (lanesOf s.shp.bits row)
      pure ((s.rowStore p cls s.rank o.toNat data).emit 1 { pend0 with flags := f })
    | .tree l =>
      let es := tyBytes (lensType l)
      let lanes := lanesOf (8 * es) row
      pure (s.rowSpine p cls l 0 false (shareOut l o.toNat 0 0 (lanes.map (fun _ => true)) lanes))
    | _ =>
      let m0 := s.core.mask 0
      let data := (offs (rowBytes row)).filter (fun x => !u || m0.getLsbD x.1)
      pure (s.rowStore p cls (ptrRank p) o.toNat data))

/-- The checks of R248 and the lens: a tree lens that covers P, level within its depth, alignment, declaration of the
blocks that `used` gives, those within the lens (R248, R249). -/
def State.levelCheck (s : State) (p : Word) (j : Nat) (used : Word → List Nat) : Except Stop Word := do
  let o := ptrOff p
  checkUse s.m s.cur .v p o 256
  match s.lensOf p o with
  | none => .error (.fault { cause := 0x13, addr := p })
  | some l =>
    need (lensOk l && lensXf l == 1 && decide (j ≤ lensDepth l)) 0x13 p
    need (o % 256 == 0) 0x06 p
    let spans := (used l).filter (fun a => decide (a < lensEnd l))
    need (spans.all (fun a => !beyond s.hdr a (lensBlock l))) 0x02 p
    pure l

/-- VLDL: a row of level-j averages (R248). -/
def execVldl (d a : BitVec 6) (cls : BitVec 3) (t : Bool) (j : BitVec 3) (r : BitVec 2) (g : BitVec 4) (s : State) :
    Host.Outcome State Fault Refusal :=
  s.word (vn [d.toNat] ++ sn [a.toNat]) (s.guard g) (fun s => do
    let p := s.rd a.toNat
    let l ← s.levelCheck p j.toNat (fun l => treeBlocks l (ptrOff p) j.toNat r.toNat)
    pure (s.ownRow (6 + 2 * (lensDepth l - j.toNat)) d cls t
      { rank := s.rank, off := ptrOff p, kind := .averages j.toNat r.toNat, lens := l, shp := s.shp }))

/-- VLDD: a row of level-j details (R248). -/
def execVldd (d a : BitVec 6) (cls : BitVec 3) (t : Bool) (j : BitVec 3) (r : BitVec 2) (g : BitVec 4) (s : State) :
    Host.Outcome State Fault Refusal :=
  s.word (vn [d.toNat] ++ sn [a.toNat]) (s.guard g) (fun s => do
    let p := s.rd a.toNat
    let l ← s.levelCheck p j.toNat (fun l => treeBlocks l (ptrOff p) j.toNat r.toNat)
    pure (s.ownRow 6 d cls t
      { rank := s.rank, off := ptrOff p, kind := .details j.toNat r.toNat, lens := l, shp := s.shp }))

/-- The level-j averages that VSTL's row supplies to each block: those of the lanes that m0 enables (R249). -/
def State.levelShare (s : State) (d : BitVec 6) (p : Word) (j r : Nat) (l : Word) : List (Nat × List (Nat × Nat)) :=
  let es := tyBytes (lensType l)
  shareOut l (ptrOff p) j r ((List.range (256 / es)).map (laneOn (s.core.mask 0) es)) (lanesOf (8 * es) (s.rdV d.toNat))

/-- VSTL: level-j averages of the m0-enabled lanes as spine commits, in the issue ec; 12 ec of the store path (R249). -/
def execVstl (d a : BitVec 6) (cls : BitVec 3) (flat : Bool) (j : BitVec 3) (r : BitVec 2) (g : BitVec 4) (s : State) :
    Host.Outcome State Fault Refusal :=
  s.word (vn [d.toNat] ++ sn [a.toNat]) (s.guard g) (fun s => do
    let p := s.rd a.toNat
    let l ← s.levelCheck p j.toNat (fun l => ((s.levelShare d p j.toNat r.toNat l).filter (fun b => !b.2.isEmpty)).map (·.1))
    s.storePath
    let share := s.levelShare d p j.toNat r.toNat l
    let s := (s.view d.toNat).updCore (fun c => { c with vec := { c.vec with vstlEnd := s.ec + 12 } })
    pure (s.rowSpine p cls l j.toNat flat share))

end Sys2Proof.Machine
end

