-- ==== Sys2Proof/Machine/Matrix.lean ====
section
/-! DEFINITION. The M words of 11_matrix.md: operand types, array commands (R195-R198, R209), configuration (R199, R208,
R210, R215), operand slots (R205-R207), tile commands (R211-R214), and the beats by which M commands reach scratchpad
(R61, R271). -/
namespace Sys2Proof.Machine

/-! ## Elements of slots and tiles -/

/-- n bytes of a slot from an offset within one of its 256-byte rows, as a number (R14). -/
def slotBits (d : SlotData) (off n : Nat) : Nat := ((vget d (off / 256) 0).toNat >>> (8 * (off % 256))) % 2 ^ (8 * n)

/-- Row size RB of an operand type, and rows per slot (R196). -/
def operandRb (ty : Nat) : Nat := if ty = 3 then 64 else 128
def operandRps (ty : Nat) : Nat := 8192 / operandRb ty

/-- The 64 elements of row u of a slot (R196). -/
def operandRow (ty : Nat) (d : SlotData) (u : Nat) : List Val :=
  let x := slotBits d (u * operandRb ty) (operandRb ty)
  (List.range 64).map (fun k =>
    match fmtOf ty with
    | some f => decodeF f (nbits x (tyBits ty * k) (tyBits ty))
    | none => decodeBlock (blockM ty) (nbits x (8 * blockBytes ty * (k / 16)) (8 * blockBytes ty)) (k % 16))

/-- The element (i, j) of a tile (R15). -/
def tileElem (t : Tile) (i j : Nat) : BitVec 32 := (vget t i 0).extractLsb' (32 * j) 32

/-- A row of a tile from its elements. -/
def tileRow (l : List (BitVec 32)) : Row := rowOfLanes 32 (l.map (·.toNat))

/-- The elements of a row of a tile. -/
def tileElems (t : Tile) (i : Nat) : List (BitVec 32) := (List.range 64).map (tileElem t i)

/-- A tile from its rows of elements. -/
def mkTile (rows : List (List (BitVec 32))) : Tile := Vector.ofFn (fun i : Fin 64 => tileRow (rows.getD i.val []))

/-- An empty tile. -/
def zeroTile : Tile := Vector.replicate 64 0

/-- A row of elements in its four k-blocks of 16 (R137). -/
def kBlocks (l : List Val) : List (List Val) := (List.range 4).map (fun b => (l.drop (16 * b)).take 16)

/-- One row of a pass: every element accumulates its four k-blocks (R137, R197). -/
def passRow (acc : List (BitVec 32)) (a : List (List Val)) (bs : List (List (List Val))) : List (BitVec 32) × Flags :=
  (List.zip acc bs).foldr (fun (x, b) (out : List (BitVec 32) × Flags) =>
    let r := (List.zip a b).foldl (fun (y : BitVec 32 × Flags) (p, q) =>
      let z := accBlock y.1 (dot16 (List.zip p q))
      (z.1, y.2 ||| z.2)) (x, 0)
    (r.1 :: out.1, out.2 ||| r.2)) ([], 0)

/-- A pass over a tile: rows of A against columns of B, both in k-blocks. -/
def passTile (acc : List (List (BitVec 32))) (as bs : List (List (List Val))) : List (List (BitVec 32)) × Flags :=
  (List.zip acc as).foldr (fun (x, a) (out : List (List (BitVec 32)) × Flags) =>
    let r := passRow x a bs
    (r.1 :: out.1, out.2 ||| r.2)) ([], 0)

/-- The columns of B: row j of the slot, or element j of every row when it is transposed (R197). -/
def columns (ty : Nat) (d : SlotData) (trans : Bool) : List (List (List Val)) :=
  let rows := (List.range 64).map (operandRow ty d)
  if trans then (List.range 64).map (fun j => kBlocks (rows.map (fun r => r.getD j .nan)))
  else rows.map kBlocks

/-! ## Units and tiles in use (R200, R201) -/

/-- The quad of the core as it is now, and as it stood when the ec began (log entry 19). -/
def State.quad (s : State) : Quad := (s.gang.quads[s.rank / 4]?).getD {}
def State.quadThen (s : State) : Quad :=
  ((((s.iss.map (·.before)).getD s.m).gang? s.gno).bind (fun x => x.quads[s.rank / 4]?)).getD {}

def State.updQuad (s : State) (f : Quad → Quad) : State :=
  s.updGang (fun x => { x with quads := x.quads.modify (s.rank / 4) f })
def State.updSlot (s : State) (n : Nat) (f : Slot → Slot) : State := s.updQuad (fun q => { q with slot := vupd q.slot n f })
def State.updMat (s : State) (f : MUnit → MUnit) : State := s.updCore (fun c => { c with mat := f c.mat })
def State.mat (s : State) : MUnit := s.core.mat

/-- Whether a V result still to land goes to a tile (R167). -/
def Core.viewWrite (c : Core) (ec t : Nat) : Bool :=
  c.seq.pend.any (fun p => p.strm == .v && decide (p.seq < ec) && p.writes.any (fun w => match w with | .tile k _ _ _ => k == t | _ => false))

/-- A tile free of the occupancy of earlier M commands and of V results to land (R167, R201). -/
def State.tileFree (s : State) (t : BitVec 3) : Except Stop Unit :=
  need (decide (vget s.mat.tileEnd t.toNat 0 ≤ s.ec) && !s.core.viewWrite s.ec t.toNat) 0x07

/-- The tile port is free (R200). -/
def State.portFree (s : State) : Except Stop Unit := need (decide (s.mat.portEnd ≤ s.ec)) 0x07

/-- An M command names a tile for its occupancy; the view may reach it again at its ready ec, when its flags are set (R26,
R132, R201). -/
def State.occupy (s : State) (t : BitVec 3) (occ ready : Nat) (f : Flags) : State :=
  let s := s.updMat (fun m => { m with tileEnd := vset m.tileEnd t.toNat (s.ec + occ), ready := vset m.ready t.toNat (s.ec + ready) })
  { s with m := s.m.schedule (.ec s.gno) (s.ec + ready) (.tileReady s.gno s.rank f) }

/-- A command holds the tile port. -/
def State.holdPort (s : State) (occ : Nat) : State := s.updMat (fun m => { m with portEnd := s.ec + occ })

def State.setTile (s : State) (t : BitVec 3) (x : Tile) : State := s.updMat (fun m => { m with tile := vset m.tile t.toNat x })
def State.tile (s : State) (t : BitVec 3) : Tile := vget s.mat.tile t.toNat zeroTile

/-- The wait of V = 1 (R214). -/
def State.version (s : State) (v : Bool) (t : BitVec 3) : Except Stop Unit :=
  await (!v || vget s.mat.tver t.toNat 0 == vget s.mat.texp t.toNat 0) (.version t)

/-! ## Array commands (R195-R198, R209) -/

/-- Occupancy of one pass (R195). -/
def passOcc (ta tb : BitVec 4) : Nat :=
  if ta.toNat ≤ 2 then 128 else if ta == 3 || ta == 0xA then 64 else if ta == 0xC && tb == 0xC then 16 else 32

/-- The checks of R198. Of two array commands of one quad in one ec the later rank finds the array held by the lower one's, 0x07: R201
speaks of an earlier command only (DESIGN CHOICE; log entry 91). -/
def State.arrayCheck (s : State) (t : BitVec 3) (trans : Bool) (slots : List Nat) : Except Stop Unit := do
  let m := s.mat
  let q := s.quadThen
  let sl := slots.map (fun n => vget q.slot n {})
  need (okPair m.ta m.tb && !(trans && tyBlock m.tb.toNat)) 0x01
  need (decide (s.quad.arrayEnd ≤ s.ec)) 0x07
  s.tileFree t
  need (slots.all (fun n => decide ((vget s.quad.slot n {}).fillEnd ≤ s.ec))) 0x07
  need (m.leasec != 0) 0x08
  need (sl.all (·.claimed)) 0x0E
  await (!sl.any (·.tag.pending)) (.slots (s.rank / 4) slots)
  need (m.tagm != 0xFFFF && sl.all (fun x => x.tag.tag == m.tagm)) 0x07

/-- An array command takes effect: the slots are first read, the lease is spent, array and tile are occupied (R198). -/
def State.arrayRun (s : State) (t : BitVec 3) (slots : List Nat) (occ : Nat) (x : Tile) (f : Flags) : State :=
  let q := s.quadThen
  let m := (slots.map (fun n => (vget q.slot n {}).tag)).foldl (fun m g => m.learnStamp s.gno s.rank g) s.m
  let s := State.updMat { s with m := m } (fun m => { m with leasec := m.leasec - 1 })
  let s := s.updQuad (fun q => { q with arrayEnd := s.ec + occ })
  let s := slots.foldl (fun s n => s.updSlot n (fun x => { x with readEnd := max x.readEnd (s.ec + occ) })) s
  (s.setTile t x).occupy t occ (occ + 12) f

/-- The rows of a tile an array command accumulates into (R197). -/
def State.accRows (s : State) (t : BitVec 3) (z : Bool) : List (List (BitVec 32)) :=
  if z then List.replicate 64 (List.replicate 64 0) else (List.range 64).map (tileElems (s.tile t))

/-- MMA and MMAT (R197). -/
def multiply (trans : Bool) (t : BitVec 3) (a b : BitVec 8) (z : Bool) (g : BitVec 4) (s : State) :
    Host.Outcome State Fault Refusal :=
  s.word [.name (.slot a.toNat), .name (.slot b.toNat)] (s.guard g) (fun s => do
    let slots := [a.toNat, b.toNat]
    s.arrayCheck t trans slots
    let m := s.mat
    let da := (vget s.quadThen.slot a.toNat {}).data
    let db := (vget s.quadThen.slot b.toNat {}).data
    let r := passTile (s.accRows t z) ((List.range 64).map (fun i => kBlocks (operandRow m.ta.toNat da i)))
      (columns m.tb.toNat db trans)
    pure (s.arrayRun t slots (passOcc m.ta m.tb) (mkTile r.1) r.2))

/-- MMA. -/
def execMma (ac : BitVec 3) (sa sb : BitVec 8) (z : Bool) (g : BitVec 4) (s : State) : Host.Outcome State Fault Refusal :=
  multiply false ac sa sb z g s
/-- MMAT. -/
def execMmat (ac : BitVec 3) (sa sb : BitVec 8) (z : Bool) (g : BitVec 4) (s : State) : Host.Outcome State Fault Refusal :=
  multiply true ac sa sb z g s

/-! The window descriptor (R208). -/
def winKx (w : Word) : Nat := (fld w 0 3).toNat
def winKy (w : Word) : Nat := (fld w 3 3).toNat
def winDx (w : Word) : Nat := (fld w 10 6).toNat
def winDy (w : Word) : Nat := (fld w 16 6).toNat
def winBstep (w : Word) : Nat := (fld w 22 8).toNat

/-- The passes of a window in order: first row of A and slot of B (R209). -/
def windowPasses (w : Word) (ob : Nat) : List (Nat × Nat) :=
  (List.range (winKy w + 1)).flatMap (fun y => (List.range (winKx w + 1)).map (fun x =>
    (y * winDy w + x * winDx w, ob + (y * (winKx w + 1) + x) * winBstep w)))

/-- MCNV: the window's passes as one command (R209). Its slot numbers are checked after the types, which R198 checks
first, and before the rest (log entry 69). -/
def execMcnv (ac : BitVec 3) (sa sb : BitVec 8) (z : Bool) (g : BitVec 4) (s : State) : Host.Outcome State Fault Refusal :=
  s.word [.name (.slot sa.toNat), .name (.slot sb.toNat)] (s.guard g) (fun s => do
    let m := s.mat
    let ps := windowPasses m.mwin sb.toNat
    let rps := operandRps m.ta.toNat
    let last := (ps.map (·.1)).foldl max 0
    let as_ := (List.range ((last + 63) / rps + 1)).map (· + sa.toNat)
    let slots := (as_ ++ ps.map (·.2)).eraseDups
    need (!okPair m.ta m.tb || slots.all (fun n => decide (n < 256) && decide (n < s.hdr.nosl))) 0x02
    s.arrayCheck ac false slots
    let q := s.quadThen
    let rowA (u : Nat) := kBlocks (operandRow m.ta.toNat (vget q.slot (sa.toNat + u / rps) {}).data (u % rps))
    let r := ps.foldl (fun (acc : List (List (BitVec 32)) × Flags) (u0, ob) =>
      let r := passTile acc.1 ((List.range 64).map (fun i => rowA (u0 + i))) (columns m.tb.toNat (vget q.slot ob {}).data false)
      (r.1, acc.2 ||| r.2)) (s.accRows ac z, 0)
    pure (s.arrayRun ac slots (ps.length * passOcc m.ta m.tb) (mkTile r.1) r.2))

/-! ## Configuration (R199, R208, R210, R215) -/

/-- MCFG (R199). -/
def execMcfg (ta tb : BitVec 4) (sco : BitVec 3) (g : BitVec 4) (s : State) : Host.Outcome State Fault Refusal :=
  s.word [] (s.guard g) (fun s => .ok (s.updMat (fun m => { m with ta := ta, tb := tb, sco := sco })))

/-- MRND (R210). -/
def execMrnd (rm : BitVec 2) (g : BitVec 4) (s : State) : Host.Outcome State Fault Refusal :=
  s.word [] (s.guard g) (fun s => .ok (s.updMat (fun m => { m with rm := rm })))

/-- MWIN (R208). -/
def execMwin (p : BitVec 8) (g : BitVec 4) (s : State) : Host.Outcome State Fault Refusal :=
  s.word (sn [p.toNat]) (s.guard g) (fun s => do
    let w := s.rd p.toNat
    need (fld w 30 34 == 0 && fld w 6 4 == 0) 0x13 w
    pure (s.updMat (fun m => { m with mwin := w })))

/-- MVER: the expected version of a tile (R215). It names the tile, for its one ec (R26, R44, R201). -/
def execMver (ac : BitVec 3) (p : BitVec 8) (g : BitVec 4) (s : State) : Host.Outcome State Fault Refusal :=
  s.word (sn [p.toNat]) (s.guard g) (fun s => do
    s.tileFree ac
    let v : BitVec 16 := (s.rd p.toNat).truncate 16
    pure (s.updMat (fun m => { m with
      texp := vset m.texp ac.toNat v, ready := vupd m.ready ac.toNat (fun e => max e (s.ec + 1)) })))

/-- MVER.tag: TAGM (R215). -/
def execMverTag (p : BitVec 8) (g : BitVec 4) (s : State) : Host.Outcome State Fault Refusal :=
  s.word (sn [p.toNat]) (s.guard g) (fun s => .ok (s.updMat (fun m => { m with tagm := (s.rd p.toNat).truncate 16 })))

/-! ## Operand slots (R205) -/

/-- MCLM: a free slot claimed, its tag 0. -/
def execMclm (sa : BitVec 8) (g : BitVec 4) (s : State) : Host.Outcome State Fault Refusal :=
  s.word [.name (.slot sa.toNat)] (s.guard g) (fun s => do
    need (!(vget s.quadThen.slot sa.toNat {}).claimed) 0x0E
    pure (s.updSlot sa.toNat (fun x => { x with claimed := true, tag := { x.tag with tag := 0, pending := false, seen := none, src := none } })))

/-- MREL: a claimed slot that nothing uses any longer becomes free. -/
def execMrel (sa : BitVec 8) (g : BitVec 4) (s : State) : Host.Outcome State Fault Refusal :=
  s.word [.name (.slot sa.toNat)] (s.guard g) (fun s => do
    let x := vget s.quadThen.slot sa.toNat {}
    need x.claimed 0x0E
    need (decide (x.readEnd ≤ s.ec) && decide (x.fillEnd ≤ s.ec) && x.tag.count == 0) 0x07
    pure (s.updSlot sa.toNat (fun x => { x with claimed := false })))

/-! ## Pointers and beats (R61, R202, R271) -/

/-- The checks of an M pointer for `size` bytes: R19, alignment to 256, the declared limit. -/
def State.mPtr (s : State) (p : Word) (size : Nat) : Except Stop Unit := do
  checkUse s.m s.cur .m p (ptrOff p) size
  need (ptrOff p % 256 == 0) 0x06 p
  need (!beyond s.hdr (ptrOff p) size) 0x02 p

/-- An access of an M command of a rank, at an offset of a rank's scratchpad. -/
def mEntry (m : Mach) (g r : Nat) (b : Beat) (off : Nat) (op : QOp) : QEntry :=
  { who := .agent (.core g r .m), vd := ((m.gang? g).map (·.vd)).getD 0, cls := 0, seq := b.issue + b.next, op := op
    loc := .scr g b.rank off, gang := g, rank := r, strm := .m, pc := b.pc, icnt := b.icnt, va := mkPtr 1 b.rank off, word := b.issue
    sco := scopeAt false 1 b.sco.toNat }

/-- The 64-byte parts of n bytes at an offset: offset and length. -/
def parts (off n : Nat) : List (Nat × Nat) :=
  if n = 0 then [] else
    (List.range ((off + n - 1) / 64 - off / 64 + 1)).map (fun i =>
      let lo := max off (64 * (off / 64 + i))
      (lo, min (off + n) (64 * (off / 64 + i) + 64) - lo))

/-- What stands before an M command's read of its own scratchpad (R271). -/
def Mach.mReady (m : Mach) (g r off n : Nat) : Mach :=
  (m.settleBank g r 0).observe (.agent (.core g r .m)) none (.scr g r off) n

/-- The checker's view of an M command's beats (R325). -/
def Beat.racc (b : Beat) (g r : Nat) : RaceAcc :=
  { gang := g, rank := r, strm := .m, cls := 0, kind := 2, iv := b.icnt, rd := true, wr := false, acq := b.acq }

/-- The 64-byte units that n bytes at an offset meet. -/
def unitsOf (off n : Nat) : List Nat := (parts off n).map (fun p => p.1 / 64)

/-- Bytes that an M command reads of its own scratchpad, as the bank stood in `bank` before the stores of the ec, checked
part by part; none when an access is reported or meets an error (R271, R325, R330). Where an earlier MDRN of the core still owes a
row that an MFIL without K reads, the ec of R271 decide, not the program order of the M stream (DESIGN CHOICE, log entry 94). -/
def Mach.mRead (m bank : Mach) (g r : Nat) (b : Beat) (off n : Nat) : Mach × Option (List Byte) :=
  let q := mEntry m g r b off (.load n 0 0)
  if m.locError q.vd q.loc n false then (m.lateFault q 0x10 q.va 0 (.beat b), none)
  else
    match m.raceUnits (b.racc g r) r (unitsOf off n) with
    | (m, some e) => (m.lateFault q e.1 e.2.1 e.2.2 (.beat b), none)
    | (m, none) => (m, some (bank.readLoc (.scr g r off) n))

/-- Bytes that an M command writes to a rank's scratchpad: into the own bank now, posted to another rank (R213). -/
def Mach.mWrite (m : Mach) (g r : Nat) (b : Beat) (off : Nat) (bytes : List Byte) : Mach :=
  (parts off bytes.length).zipIdx.foldl (fun m ((lo, n), i) =>
    let q := mEntry m g r b lo (.store (offs ((bytes.drop (lo - off)).take n)))
    if b.rank == r then m.commitNow q else m.enqueue q (16 + i)) m.fresh

/-- A read of another rank's scratchpad put into its queue: it is never there in the ec it was asked for (R61). -/
def Mach.enqueueFar (m : Mach) (q : QEntry) (k : Nat) : Mach :=
  let (id, m) := m.newId
  { m with queue := m.queue ++ [(id, q)] }.schedule .mc (m.time + 1 + m.draw k) (.accessCommit id)

/-- Beats of 256 bytes requested of another rank, one reply each (R61); LWGT reads none of the first 16 bytes (R233). -/
def Mach.mRequest (m : Mach) (g r : Nat) (b : Beat) (n : Nat) : Mach × Beat :=
  let skip := if b.op == .lwgt then 16 else 0
  (List.range n).foldl (fun (m, b) i =>
    let (id, m) := m.newReply (.agent (.core g r .m)) 4
    let m := (parts (b.off + 256 * i + skip) (256 - skip)).zipIdx.foldl (fun m ((lo, len), j) =>
      m.enqueueFar { mEntry m g r b lo (.load len id (lo - b.off - 256 * i)) with mAcq := b.acq } (16 + j)) m.fresh
    (m, { b with replies := b.replies ++ [id] })) (m, b)

/-- The last write of an M command is out: once it has committed, its release and its version (R213, R234). -/
def Mach.mEnd (m : Mach) (g r : Nat) (b : Beat) (tile : Option (BitVec 3)) : Mach :=
  let q := { mEntry m g r b b.off (.mend tile b.rel b.snap) with rel := b.rel }
  if b.rank == r then
    if b.rel then m.commitNow q
    else match tile with
      | some t => m.schedule .mc m.time (.mdrnComplete g r t false b.sco)
      | none => m
  else m.enqueue q 20

/-- The number of beats of a command. -/
def Beat.total (b : Beat) : Nat :=
  match b.op with
  | .mfil _ => 32
  | .mlda _ | .mdrn _ _ => 64
  | .lopn | .lwgt => 1
  | .lrd _ l _ _ => 32 * (l.depth.toNat - 6)
  | .lstp _ _ _ _ => 192

/-- Whether the next beat of the command reads. -/
def Beat.reads (b : Beat) : Bool :=
  match b.op with
  | .mdrn _ _ => false
  | .lstp _ _ _ _ => decide (b.next < 128)
  | _ => true

/-- The digit of rung k. -/
def Ladder.digit (l : Ladder) (k : Nat) : Nat := if l.two.getLsbD k then 2 else if l.one.getLsbD k then 1 else 0

/-- Byte offset of spill slot k.s. -/
def Ladder.spill (l : Ladder) (k s : Nat) : Nat := l.spb.toNat * 256 + ((k - 6) * 2 + s) * 16384

/-- The command list of a core with one command replaced, or taken off when it is done. -/
def Core.setBeat (c : Core) (issue : Nat) (b : Beat) : Core :=
  let l := if b.next < b.total then c.mat.beats.map (fun x => if x.issue == issue then b else x)
    else c.mat.beats.filter (fun x => x.issue != issue)
  { c with mat := { c.mat with beats := l } }

/-- A drain writes its next row; after the last the command ends (R213). -/
def Mach.beatWrite (m : Mach) (g r : Nat) (b : Beat) : Mach :=
  match b.op with
  | .mdrn tile rows =>
    let row := rows.headD []
    let m := m.mWrite g r b (b.off + row.length * b.next) row
    let m := if b.next + 1 = 64 then m.mEnd g r b (some (BitVec.ofNat 3 tile)) else m
    m.updCore g r (fun c => c.setBeat b.issue { b with op := .mdrn tile (rows.drop 1), next := b.next + 1 })
  | .lstp l k rows f =>
    let m := m.mWrite g r b (l.spill (k + 1) (l.digit (k + 1)) + 256 * (b.next - 128)) (rows.headD [])
    m.updCore g r (fun c => c.setBeat b.issue { b with op := .lstp l k (rows.drop 1) f, next := b.next + 1 })
  | _ => m

/-- The commands of a core with beats to come. -/
def Mach.beatsOf (m : Mach) (g r : Nat) : List Beat := ((m.core? g r).map (fun c => c.mat.beats)).getD []

/-- A command of an ec before owes stores that it has the data of (R213, R271). -/
def Beat.owes (b : Beat) (ec : Nat) : Bool := !b.reads && decide (b.issue < ec)

/-- The stores that M commands of earlier ec owe are made now. The bound is above the rows left of any. -/
def Mach.payRows (m : Mach) (g r ec : Nat) : Mach :=
  (List.range 64).foldl (fun m _ => (m.beatsOf g r).foldl (fun m b => if b.owes ec then m.beatWrite g r b else m) m) m

/-- The acquire of a command comes after every access of its core's streams that words of earlier ec made, stores that M commands
owe among them (R202, R272; log entry 80). -/
def Mach.acquireAt (m : Mach) (g r ec : Nat) : Mach := (m.payRows g r ec).flushCore g r ec

/-- K = 1 before the first read: the M stream's acquire, which comes after every access of the core's streams that issued
in an earlier ec (R202, R272; log entry 80). -/
def State.mAcquire (s : State) (k : Bool) : State :=
  if k then { s with m := (s.m.acquireAt s.gno s.rank s.ec).acquired (.agent s.cur) } else s

/-- The beats of an M command of the current agent begin; `k` is its K field. -/
def State.startBeats (s : State) (op : BeatOp) (p : Word) (n : Nat) (read k : Bool) : State :=
  let b : Beat := { op := op, rank := ptrRank p, off := ptrOff p, issue := s.ec, next := 0, pc := s.regs.pc, icnt := s.interval
                    rel := k && !read, acq := k && read, sco := s.mat.sco, seq := s.ec, snap := s.snap }
  let (m, b) := if read && ptrRank p != s.rank then s.m.mRequest s.gno s.rank b n else (s.m, b)
  State.updMat { s with m := m } (fun u => { u with beats := u.beats ++ [b] })

/-- MFIL (R207). The pointer is checked first, then the claim and the use of the slot, then the fill port
(log entry 86). Of an MFIL and an array command of one slot in one ec the later rank's word finds the slot in use, 0x07: R207 gives
no order there (DESIGN CHOICE; log entry 91). -/
def execMfil (sa p : BitVec 8) (k : Bool) (g : BitVec 4) (s : State) : Host.Outcome State Fault Refusal :=
  s.word ([.name (.slot sa.toNat)] ++ sn [p.toNat]) (s.guard g) (fun s => do
    let ptr := s.rd p.toNat
    s.mPtr ptr 8192
    let x := vget s.quadThen.slot sa.toNat {}
    let now := vget s.quad.slot sa.toNat {}
    need x.claimed 0x0E
    need (!x.tag.pending && decide (now.readEnd ≤ s.ec)) 0x07
    need (decide (s.mat.fillEnd ≤ s.ec)) 0x07
    let s := (s.mAcquire k).startBeats (.mfil sa.toNat) ptr 32 true k
    let s := (s.updMat (fun m => { m with fillEnd := s.ec + 32 })).updSlot sa.toNat (fun x => { x with fillEnd := s.ec + 32 })
    pure { s with m := s.m.schedule (.ec s.gno) (s.ec + 32) (.mfilStamp s.gno (s.rank / 4) sa.toNat s.mat.tagm) })

/-- MFIL_STAMP: the tag of the fill stands from the first ec after its occupancy (R68, R207). -/
def execMfilStamp (gang quad slot : Nat) (tag : BitVec 16) (s : State) : Host.Outcome State Fault Refusal :=
  event ((((s.m.gang? gang).bind (fun x => x.quads[quad]?)).map (fun _ => true)).getD false)
    (s.m.updTarget (.slot gang quad slot) (fun t => { t with tag := tag, src := none })) s

/-! ## Tile commands (R211-R213) -/

/-- MZER (R211). -/
def execMzer (ac : BitVec 3) (g : BitVec 4) (s : State) : Host.Outcome State Fault Refusal :=
  s.word [] (s.guard g) (fun s => do
    s.portFree
    s.tileFree ac
    pure (((s.setTile ac zeroTile).holdPort 16).occupy ac 16 28 0))

/-- MLDA (R212). The pointer is checked before the port and the tile (log entry 86). -/
def execMlda (ac : BitVec 3) (p : BitVec 8) (k : Bool) (g : BitVec 4) (s : State) : Host.Outcome State Fault Refusal :=
  s.word (sn [p.toNat]) (s.guard g) (fun s => do
    let ptr := s.rd p.toNat
    s.mPtr ptr 16384
    s.portFree
    s.tileFree ac
    pure ((((s.mAcquire k).startBeats (.mlda ac.toNat) ptr 64 true k).holdPort 64).occupy ac 64 76 0))

/-- An element as MDRN stores it (R213). -/
def drainElem (ty rm : Nat) (x : BitVec 32) : Nat × Flags :=
  match ty with
  | 0 => if (f32V x).isNan then (0x7FC00000, 0) else (x.toNat, 0)
  | 1 => roundF fmtBf16 rm false (f32V x)
  | _ => roundF fmtF16 rm false (f32V x)

/-- MDRN: its rows are taken when it issues, and written one an ec (R201, R213). The pointer is checked before
the port and the tile (log entry 86). -/
def execMdrn (ac : BitVec 3) (ty : BitVec 4) (p : BitVec 8) (v k : Bool) (g : BitVec 4) (s : State) :
    Host.Outcome State Fault Refusal :=
  s.word (sn [p.toNat]) (s.guard g) (fun s => do
    let ptr := s.rd p.toNat
    let es := if ty = 0 then 4 else 2
    s.mPtr ptr (64 * 64 * es)
    s.portFree
    s.tileFree ac
    s.version v ac
    let rows := (List.range 64).map (fun i => (tileElems (s.tile ac) i).map (drainElem ty.toNat s.mat.rm.toNat))
    let f := rows.foldl (fun f r => r.foldl (fun f x => f ||| x.2) f) 0
    let bytes := rows.map (fun r => r.flatMap (fun x => natLE es x.1))
    pure (((s.startBeats (.mdrn ac.toNat bytes) ptr 64 false k).holdPort 64).occupy ac 64 64 f))

/-- TILE_READY: the flags of an M command, in the ec its tile is ready (R132). -/
def execTileReady (gang rank : Nat) (flags : BitVec 5) (s : State) : Host.Outcome State Fault Refusal :=
  event ((s.m.core? gang rank).isSome) (s.m.updCore gang rank (fun c => c.orFlags flags)) s

/-- MDRN_COMPLETE: the last byte has committed and the release is performed; the version rises (R213, R214). -/
def execMdrnComplete (gang rank : Nat) (tile : BitVec 3) (_rel : Bool) (_sco : BitVec 3) (s : State) :
    Host.Outcome State Fault Refusal :=
  event ((s.m.core? gang rank).isSome)
    (s.m.updCore gang rank (fun c => { c with mat := { c.mat with tver := vupd c.mat.tver tile.toNat (· + 1) } })) s

end Sys2Proof.Machine
end

