-- ==== Sys2Proof/Machine/Ladder.lean ====
section
/-! DEFINITION. The ladder accumulator (R217-R237) and how the beats of M commands go on from ec to ec (R61, R271). -/
namespace Sys2Proof.Machine

/-! ## Digits (R218-R222) -/

/-- The ladder with a digit set. -/
def Ladder.setDigit (l : Ladder) (k d : Nat) : Ladder :=
  let b : BitVec 20 := 1#20 <<< k
  { l with one := if d = 1 then l.one ||| b else l.one &&& ~~~b, two := if d = 2 then l.two ||| b else l.two &&& ~~~b }

def Ladder.d (l : Ladder) : Nat := l.depth.toNat

/-- Condition 3 of R220 at a rung: below a digit 2 the digits go down by ones to a 0. -/
def Ladder.backed (l : Ladder) : Nat → Bool
  | 0 => false
  | k + 1 => l.digit k == 0 || (l.digit k == 1 && l.backed k)

/-- The conditions of R220. -/
def Ladder.ok (l : Ladder) : Bool :=
  l.one &&& l.two == 0 && (l.one ||| l.two).toNat < 2 ^ l.d &&
  (List.range 20).foldl (fun s k => s + l.digit k * 2 ^ k) 0 == l.n.toNat &&
  (List.range 20).all (fun k => l.digit k != 2 || l.backed k)

/-- The rung that carries in the next step: the lowest of digit 2 once the contribution is placed (R219). -/
def Ladder.carry (l : Ladder) : Option Nat :=
  let l' := l.setDigit 0 (l.digit 0 + 1)
  (List.range l.d).find? (fun k => l'.digit k == 2)

/-- A step's carry stays below the depth (R222). -/
def Ladder.stepOk (l : Ladder) : Bool := match l.carry with | none => true | some k => decide (k + 1 < l.d)

/-- The digits after a step (R219). -/
def Ladder.stepped (l : Ladder) : Ladder :=
  let c := l.carry
  let l := l.setDigit 0 (l.digit 0 + 1)
  let l := match c with
    | none => l
    | some k => (l.setDigit k 0).setDigit (k + 1) (l.digit (k + 1) + 1)
  { l with n := l.n + 1 }

/-! ## Slots (R217) -/

/-- A tile from its 16 KiB. -/
def tileOf (bytes : List Byte) : Tile := Vector.ofFn (fun i : Fin 64 => rowOf ((bytes.drop (256 * i.val)).take 256))

/-- The bytes of a tile. -/
def tileBytes (t : Tile) : List Byte := t.toList.flatMap rowBytes

/-- The beat a ladder command's accesses to its own scratchpad are described by. -/
def State.ladBeat (s : State) : Beat :=
  { op := .lopn, rank := s.rank, off := 0, issue := s.ec, next := 0, pc := s.regs.pc, icnt := s.interval, sco := s.mat.sco
    seq := s.ec, snap := s.snap }

/-- Bytes that a ladder command stores in its own scratchpad at the end of its issue ec (R271). -/
def State.mStore (s : State) (b : Beat) (off : Nat) (bytes : List Byte) : State :=
  (parts off bytes.length).foldl (fun s (lo, n) =>
    let q := mEntry s.m s.gno s.rank b lo (.store (offs ((bytes.drop (lo - off)).take n)))
    s.updIss (fun i => { i with bank := i.bank ++ [{ order := Stream.m.idx, entry := q }] })) s

/-- An LCB of the own rank holds no error that cannot be corrected (R404). -/
def State.lcbSound (s : State) (off n : Nat) : Bool :=
  !((s.m.mReady s.gno s.rank off n).locError s.vd (.scr s.gno s.rank off) n false)

/-- The LCB read by a word of the own rank now, to be checked at the end of the ec; a command with K = 1 publishes its
snapshot then (R229, R327, R329). -/
def State.lcbRead (s : State) (off n : Nat) (k : Bool) : State × List Byte :=
  let m := s.m.mReady s.gno s.rank off n
  let q := mEntry m s.gno s.rank s.ladBeat off (.load n 0 0)
  (State.updIss { s with m := m } (fun i => { i with
    bank := i.bank ++ [{ order := Stream.m.idx, act := .lcb s.mat.ladder (unitsOf off n) (if k then some s.ladBeat.snap else none), entry := q }] }),
   m.readLoc q.loc n)

/-- A slot of the rung store. -/
def MUnit.slot (u : MUnit) (k j : Nat) : Tile := vget u.rung (2 * k + j) zeroTile
/-- A slot of the rung store written. -/
def State.slotWrite (s : State) (k j : Nat) (x : Tile) : State := s.updMat (fun m => { m with rung := vset m.rung (2 * k + j) x })

/-- Element-wise x0 · δ + x1 of two rows, rounded once (R219, R223). -/
def mergeRow (delta : BitVec 32) (x0 x1 : List (BitVec 32)) : List (BitVec 32) × Flags :=
  let r := List.zipWith (fun a b => f32Fma b delta a) x0 x1
  (r.map (·.1), r.foldl (fun f x => f ||| x.2) 0)

/-- The same of two tiles. -/
def mergeTiles (delta : BitVec 32) (x0 x1 : Tile) : Tile × Flags :=
  let rows := (List.range 64).map (fun i => mergeRow delta (tileElems x0 i) (tileElems x1 i))
  (mkTile (rows.map (·.1)), rows.foldl (fun f r => f ||| r.2) 0)

/-- Rows of the blend with a slot's rows added under its weight; an empty slot's term is +0 (R224, R232). -/
def blendRows (w : BitVec 32) (acc : List (List (BitVec 32))) (slot : Option (List (List (BitVec 32)))) :
    List (List (BitVec 32)) × Flags :=
  match slot with
  | none => (acc.map (fun r => r.map (fun a => (f32Add a 0).1)), 0)
  | some xs =>
    let rows := List.zipWith (fun r x => List.zipWith (fun a e => f32Fma a w e) r x) acc xs
    (rows.map (fun r => r.map (·.1)), rows.foldl (fun f r => r.foldl (fun f x => f ||| x.2) f) 0)

/-- The blend goes through the slots of the rung store, oldest first (R224, R232). -/
def MUnit.blend (u : MUnit) (l : Ladder) (acc : List (List (BitVec 32))) (f : Flags) : List (List (BitVec 32)) × Flags :=
  ((List.range (min l.d 6)).reverse.flatMap (fun k => [(k, 0), (k, 1)])).foldl (fun (acc, f) (k, j) =>
    let r := blendRows (l.omega.getD (2 * k + j) 0) acc
      (if j < l.digit k then some ((List.range 64).map (tileElems (u.slot k j))) else none)
    (r.1, f ||| r.2)) (acc, f)

/-- The elements of rows of 256 bytes. -/
def rowsOf (bytes : List Byte) : List (List (BitVec 32)) :=
  (List.range (bytes.length / 256)).map (fun i => (List.range 64).map (fun j =>
    BitVec.ofNat 32 (leNat ((bytes.drop (256 * i + 4 * j)).take 4))))

/-! ## Checks of R229 -/

/-- The open ladder, or the fault 0x14 of a command that needs one. -/
def State.openLadder (s : State) : Except Stop Ladder :=
  match s.mat.ladder with
  | some l => .ok l
  | none => .error (.fault { cause := 0x14 })

/-- A ladder command holds the tile port, and the rungs are in use, for its occupancy (R200, R235). -/
def State.holdLadder (s : State) (occ : Nat) : State := (s.holdPort occ).updMat (fun m => { m with ladEnd := s.ec + occ })

/-- The ladder an LCB describes (R226). -/
def lcbLadder (p : Word) (c : List Byte) : Ladder :=
  let h := BitVec.ofNat 128 (leNat (c.take 16))
  let words := (List.range 60).map (fun i => BitVec.ofNat 32 (leNat ((c.drop (16 + 4 * i)).take 4)))
  { ptr := p, n := fld h 0 32, one := fld h 32 20, two := fld h 52 20, depth := fld h 72 5, ver := fld h 80 16
    spb := fld h 96 13, delta := words.take 20, omega := words.drop 20 }

/-- The checks of R230 on the captured bytes: the cause of the first that fails. -/
def lopnFault (h : Header) (close : Option (Word × BitVec 16)) (p : Word) (c : List Byte) : Option (BitVec 8) :=
  let w := BitVec.ofNat 128 (leNat (c.take 16))
  let l := lcbLadder p c
  let top := l.spb.toNat * 256 + (l.d - 6) * 32768
  if fld w 109 19 != 0 || fld w 77 3 != 0 then some 0x13
  else if l.d < 1 || l.d > 20 then some 0x14
  else if l.d > h.ldep then some 0x02
  else if !l.ok then some 0x14
  else if l.n != 0 && close != some (p, l.ver) then some 0x14
  else if l.d > 6 && top > 2 ^ 21 then some 0x03
  else if l.d > 6 && beyond h (l.spb.toNat * 256) ((l.d - 6) * 32768) then some 0x02
  else none

/-- LOPN (R230). An LCB of another rank comes later: the command is decided then (R61, R229). -/
def execLopn (p : BitVec 8) (k : Bool) (g : BitVec 4) (s : State) : Host.Outcome State Fault Refusal :=
  s.word (sn [p.toNat]) (s.guard g) (fun s => do
    need s.mat.ladder.isNone 0x14
    s.portFree
    let ptr := s.rd p.toNat
    checkUse s.m s.cur .m ptr (ptrOff ptr) 256
    need (ptrOff ptr % 256 == 0) 0x06 ptr
    need (!beyond s.hdr (ptrOff ptr) 256) 0x02 ptr
    let s := s.mAcquire k
    if ptrRank ptr = s.rank then
      need (s.lcbSound (ptrOff ptr) 256) 0x10 ptr
      let (t, c) := s.lcbRead (ptrOff ptr) 256 k
      match lopnFault s.hdr s.mat.close ptr c with
      | some e => .error (.fault { cause := e, addr := ptr })
      | none => pure (State.holdLadder (t.updMat (fun u => { u with ladder := some (lcbLadder ptr c) })) 48)
    else pure ((s.startBeats .lopn ptr 1 true k).holdLadder 48))

/-- The beats of a ladder command on its spill slots begin, the first of them in the ec `from_` after its issue (R231, R232;
log entry 23). -/
def State.startSpill (s : State) (op : BeatOp) (from_ : Nat) : State :=
  s.updMat (fun u => { u with beats := u.beats ++ [{ s.ladBeat with op := op, next := from_ }] })

/-- LSTP: one step of the ladder (R219, R231). -/
def execLstp (ac : BitVec 3) (v : Bool) (g : BitVec 4) (s : State) : Host.Outcome State Fault Refusal :=
  s.word [] (s.guard g) (fun s => do
    let l ← s.openLadder
    s.portFree
    s.tileFree ac
    need l.stepOk 0x14
    s.version v ac
    let x := s.tile ac
    let u := s.mat
    let (s, f) : State × Flags :=
      match l.carry with
      | none => (s.slotWrite 0 (l.digit 0) x, 0)
      | some k =>
        let t := s.slotWrite 0 (l.digit 0) x
        if k < 5 then
          let (y, f) := mergeTiles (l.delta.getD k 0) (u.slot k 0) (if k = 0 then x else u.slot k 1)
          (t.slotWrite (k + 1) (l.digit (k + 1)) y, f)
        else if k = 5 then
          let (y, f) := mergeTiles (l.delta.getD 5 0) (u.slot 5 0) (u.slot 5 1)
          (t.startSpill (.lstp l 5 (y.toList.map rowBytes) 0) 128, f)
        else (t.startSpill (.lstp l k [] 0) 64, 0)
    let s := s.updMat (fun m => { m with ladder := some l.stepped })
    pure ((s.holdLadder 192).occupy ac 192 192 f))

/-- LRD: the blend of the slots, oldest first (R224, R232). -/
def execLrd (ac : BitVec 3) (v : Bool) (g : BitVec 4) (s : State) : Host.Outcome State Fault Refusal :=
  s.word [] (s.guard g) (fun s => do
    let l ← s.openLadder
    s.portFree
    s.tileFree ac
    s.version v ac
    let zero := List.replicate 64 (List.replicate 64 (0 : BitVec 32))
    let (s, f) : State × Flags :=
      if l.d ≤ 6 then
        let r := s.mat.blend l zero 0
        (s.setTile ac (mkTile r.1), r.2)
      else (s.startSpill (.lrd ac.toNat l zero 0) 0, 0)
    pure ((s.holdLadder (32 * l.d)).occupy ac (32 * l.d) (32 * l.d) f))

/-- The factors and weights of an open ladder, from bytes 16-255 of its LCB (R233). -/
def Ladder.reload (l : Ladder) (c : List Byte) : Ladder :=
  let n := lcbLadder l.ptr (List.replicate 16 0 ++ c)
  { l with delta := n.delta, omega := n.omega }

/-- LWGT (R233). -/
def execLwgt (k : Bool) (g : BitVec 4) (s : State) : Host.Outcome State Fault Refusal :=
  s.word [] (s.guard g) (fun s => do
    let l ← s.openLadder
    s.portFree
    let s := s.mAcquire k
    if ptrRank l.ptr = s.rank then
      need (s.lcbSound (ptrOff l.ptr + 16) 240) 0x10 (ptrAt l.ptr (ptrOff l.ptr + 16 : Nat))
      let (t, c) := s.lcbRead (ptrOff l.ptr + 16) 240 k
      pure (State.holdLadder (t.updMat (fun u => { u with ladder := some (l.reload c) })) 24)
    else pure ((s.startBeats .lwgt l.ptr 1 true k).holdLadder 24))

/-- The 16 header bytes that LCLS writes (R227). -/
def Ladder.header (l : Ladder) : List Byte :=
  natLE 16 (l.n.toNat + l.one.toNat * 2 ^ 32 + l.two.toNat * 2 ^ 52 + l.depth.toNat * 2 ^ 72 + (l.ver + 1).toNat * 2 ^ 80 +
    l.spb.toNat * 2 ^ 96)

/-- LCLS (R234). -/
def execLcls (k : Bool) (g : BitVec 4) (s : State) : Host.Outcome State Fault Refusal :=
  s.word [] (s.guard g) (fun s => do
    let l ← s.openLadder
    s.portFree
    let b := { s.ladBeat with rank := ptrRank l.ptr, off := ptrOff l.ptr, rel := k }
    let s := if b.rank == s.rank then s.mStore b b.off l.header else { s with m := s.m.mWrite s.gno s.rank b b.off l.header }
    let s := if k then { s with m := s.m.enqueue { mEntry s.m s.gno s.rank b b.off (.mend none true b.snap) with rel := true } 20 } else s
    pure ((s.updMat (fun m => { m with ladder := none, close := some (l.ptr, l.ver + 1) })).holdLadder 48))

/-! ## Beats from ec to ec -/

/-- The ec a beat is due in; data due in its own issue ec is waited for before the next (R61). -/
def Beat.dueAt (b : Beat) (i : Nat) : Nat := if i = 0 then b.issue + 1 else b.issue + i

/-- Whether a reply of a command is missing at an ec. -/
def Mach.beatLate (m : Mach) (b : Beat) (ec : Nat) : Bool :=
  (b.replies.drop b.next).zipIdx.any (fun (id, i) => decide (b.dueAt (b.next + i) ≤ ec) &&
    (match tget m.replies id with | none => false | some r => !r.arrived))

/-- What the bytes of a beat do (R207, R212, R230, R233). -/
def Mach.beatData (m : Mach) (g r : Nat) (b : Beat) (bytes : List Byte) : Mach :=
  match b.op with
  | .mfil slot => m.updGang g (fun x => { x with quads := x.quads.modify (r / 4) (fun q =>
      { q with slot := vupd q.slot slot (fun s => { s with data := vset s.data b.next (rowOf bytes) }) }) })
  | .mlda tile => m.updCore g r (fun c => { c with mat := { c.mat with
      tile := vupd c.mat.tile tile (fun t => vset t b.next (rowOf bytes)) } })
  | .mdrn _ _ | .lrd _ _ _ _ | .lstp _ _ _ _ => m
  | .lopn =>
    let p := mkPtr 1 b.rank b.off
    let close := (m.core? g r).bind (fun c => c.mat.close)
    match lopnFault (m.hdr (.core g r .m)) close p bytes with
    | some e =>
      let m := m.lateFault (mEntry m g r b b.off (.load 256 0 0)) e p 0 (.beat b)
      m.updCore g r (fun c => { c with mat := { c.mat with portEnd := b.issue, ladEnd := b.issue } })
    | none => m.updCore g r (fun c => { c with mat := { c.mat with ladder := some (lcbLadder p bytes) } })
  | .lwgt => m.updCore g r (fun c => { c with mat := { c.mat with ladder := c.mat.ladder.map (fun l => l.reload (bytes.drop 16)) } })

/-- A command on an LCB that its bytes give no effect: they did not come, or fail a check of LOPN (R229, R230). -/
def Mach.beatMoot (m : Mach) (g r : Nat) (b : Beat) (bytes : Option (List Byte)) : Bool :=
  match b.op, bytes with
  | .lopn, some x => (lopnFault (m.hdr (.core g r .m)) ((m.core? g r).bind (fun c => c.mat.close)) (mkPtr 1 b.rank b.off) x).isSome
  | .lopn, none | .lwgt, none => true
  | _, _ => false

/-- A beat has come, with its bytes unless it is reported; after the last of a command with K = 1 its snapshot is published
(R327). -/
def Mach.beatDone (m : Mach) (g r : Nat) (b : Beat) (bytes : Option (List Byte)) : Mach :=
  let moot := m.beatMoot g r b bytes
  let m := match bytes with | some x => m.beatData g r b x | none => m
  let b' := { b with next := b.next + 1 }
  let m := if b.acq && decide (b.total ≤ b'.next) && !moot then m.publish g b.snap else m
  m.updCore g r (fun c => c.setBeat b.issue b')

/-- The spill slot of a position of LRD among those beyond rung 5, oldest first. -/
def Ladder.position (l : Ladder) (p : Nat) : Nat × Nat := (l.d - 1 - p / 2, p % 2)

/-- The bytes of the own scratchpad that a command's next beat reads: offset and length. LRD goes through a slot four rows an
ec, and LSTP reads row i of both slots in ec 64 + i (log entry 23). -/
def Beat.spans (b : Beat) : List (Nat × Nat) :=
  match b.op with
  | .mfil _ | .mlda _ => [(b.off + 256 * b.next, 256)]
  | .lrd _ l _ _ =>
    let (k, j) := l.position (b.next / 16)
    if j < l.digit k then [(l.spill k j + 1024 * (b.next % 16), 1024)] else []
  | .lstp l k _ _ => [(l.spill k 0 + 256 * (b.next - 64), 256), (l.spill k 1 + 256 * (b.next - 64), 256)]
  | _ => []

/-- What the bytes of a beat of a ladder command do: rows blended, the rung store's slots after the last spilled one, or rows
merged (R219, R232). -/
def Mach.spillData (m : Mach) (g r : Nat) (b : Beat) (bytes : List (List Byte)) : Mach × Beat :=
  let b' := { b with next := b.next + 1 }
  match b.op with
  | .lrd tile l acc f =>
    let (k, j) := l.position (b.next / 16)
    let q := b.next % 16
    let new := blendRows (l.omega.getD (2 * k + j) 0) ((acc.drop (4 * q)).take 4) (if j < l.digit k then some (rowsOf bytes.flatten) else none)
    let acc := acc.take (4 * q) ++ new.1 ++ acc.drop (4 * q + 4)
    let f := f ||| new.2
    if b'.next < b.total then (m, { b' with op := .lrd tile l acc f })
    else
      let u := ((m.core? g r).map (·.mat)).getD {}
      let z := u.blend l acc f
      let m := m.updCore g r (fun c => { c with mat := { c.mat with tile := vset c.mat.tile tile (mkTile z.1) } })
      (m.schedule (.ec g) (b.issue + 32 * l.d) (.tileReady g r z.2), b')
  | .lstp l k rows f =>
    let row := match bytes.map rowsOf with
      | [x0 :: _, x1 :: _] => mergeRow (l.delta.getD k 0) x0 x1
      | _ => ([], 0)
    let m := if b'.next = 128 then m.schedule (.ec g) (b.issue + 192) (.tileReady g r (f ||| row.2)) else m
    (m, { b' with op := .lstp l k (rows ++ [rowBytes (tileRow row.1)]) (f ||| row.2) })
  | _ => (m, b')

/-- Rows that a beat takes the place of its own with, free ones (log entry 23). -/
def Mach.freeRows (m : Mach) (k n : Nat) : List Byte := (List.range n).flatMap (fun i => rowBytes (Config.freeRow (64 * m.freeCtr + k + i)))

/-- A command of the own bank takes its next beat, as the bank stood in `bank` before the stores of the ec; a beat that is
reported delivers nothing, and what a ladder command then blends or merges is free (R271, R330; log entry 23). -/
def Mach.beatOwn (m bank : Mach) (g r : Nat) (b : Beat) : Mach :=
  let (m, data) := b.spans.foldl (fun (acc : Mach × List (Option (List Byte))) (o, n) =>
    let (m, x) := acc.1.mRead bank g r b o n
    (m, acc.2 ++ [x])) (m, [])
  let got := data.filterMap (fun x => x)
  match b.op with
  | .lrd _ _ _ _ | .lstp _ _ _ _ =>
    let m := if got.length == data.length then m else m.fresh
    let (m, b') := m.spillData g r b (data.zipIdx.map (fun (x, k) => x.getD (m.freeRows (8 * k) 4)))
    m.updCore g r (fun c => c.setBeat b.issue b')
  | _ => m.beatDone g r b (if got.length == data.length then some got.flatten else none)

/-- A command takes its next beat from the reply of another rank. -/
def Mach.beatFar (m : Mach) (g r : Nat) (b : Beat) : Mach :=
  match (b.replies[b.next]?).bind (fun id => (tget m.replies id).map (fun x => (id, x))) with
  | none => m.beatDone g r b none
  | some (id, x) =>
    let m := { m with replies := tdel m.replies id }
    match x.fault with
    | some e => (m.lateFault (mEntry m g r b b.off (.load 256 0 0)) e.1 e.2.1 e.2.2 (.beat b)).beatDone g r b none
    | none => m.beatDone g r b (some (x.bytes 256))

/-- A command takes its next beat. -/
def Mach.beatRead (m bank : Mach) (g r : Nat) (b : Beat) : Mach := if b.rank = r then m.beatOwn bank g r b else m.beatFar g r b

/-- Every core of a gang in rank order. -/
def Mach.eachRank (m : Mach) (g : Nat) (f : Mach → Nat → Mach) : Mach :=
  (List.range (((m.gang? g).map (fun x => x.cores.length)).getD 0)).foldl f m

/-- Before an ec: the replies due in it are taken (R60, R61). -/
def Mach.beatsArrived (m : Mach) (g ec : Nat) : Mach :=
  m.eachRank g (fun m r => (m.beatsOf g r).foldl (fun m b =>
    if b.reads && b.rank != r && decide (b.dueAt b.next ≤ ec) then m.beatFar g r b else m) m)

/-- The commands of a core whose next beat reads the own bank in an ec. -/
def Mach.ownBeats (m : Mach) (g r ec : Nat) : List Beat :=
  (m.beatsOf g r).filter (fun b => b.reads && b.rank == r && decide (b.issue + b.next ≤ ec))

/-- What stands before the reads that beats make of their own banks in an ec (R271). -/
def Mach.beatsReady (m : Mach) (g ec : Nat) : Mach :=
  m.eachRank g (fun m r => (m.ownBeats g r ec).foldl (fun m b => b.spans.foldl (fun m (o, n) => m.mReady g r o n) m) m)

/-- In an ec: reads of the own banks, as they stood in `bank` (R271). -/
def Mach.beatsRead (m bank : Mach) (g ec : Nat) : Mach :=
  m.eachRank g (fun m r => (m.ownBeats g r ec).foldl (fun m b => m.beatOwn bank g r b) m)

/-- In an ec: rows written (R213, R271). -/
def Mach.beatsWrite (m : Mach) (g ec : Nat) : Mach :=
  m.eachRank g (fun m r => (m.beatsOf g r).foldl (fun m b =>
    if !b.reads && decide (b.issue + b.next ≤ ec) then m.beatWrite g r b else m) m)

/-- Each M command of a core goes on as far as its data allows. The bound is above the beats left of any. -/
def Mach.drainRank (m : Mach) (g r : Nat) : Mach :=
  (List.range 450).foldl (fun m _ => (m.beatsOf g r).foldl (fun m b =>
    if !b.reads then m.beatWrite g r b
    else if b.rank == r then let m := m.beatsReady g (b.issue + b.next); m.beatOwn m g r b
    else if !m.beatLate b (b.issue + 64) then m.beatFar g r b
    else m) m) m

/-- The M commands of a gang drain (R76, R391). -/
def Mach.drainBeats (m : Mach) (g : Nat) : Mach := m.eachRank g (fun m r => m.drainRank g r)

end Sys2Proof.Machine
end

