-- ==== Sys2Proof/Machine/Command.lean ====
section
/-! DEFINITION. What the commands of T streams and Loupe cores share (R302-R306, R319-R321, R338, R345): their accesses,
their geometry, their completion and their cancellation. -/
namespace Sys2Proof.Machine

/-- Why a command does not go on: it waits, or halts on a page fault, or meets an in-flight fault (R68, R319, R320). `seen`
is the machine of the step that stops, whose walks keep what they captured (R367). -/
inductive CmdStop where
  | wait (seen : Mach)
  | halt (va : Word) (write : Bool) (seen : Mach)
  | fault (cause : BitVec 8) (addr : Word) (race : BitVec 128) (seen : Mach)
  /-- The pulse has no room left for the next piece (R305). -/
  | full
  /-- An access waits for a repair, or for a channel (R409, R412). -/
  | held (loc : Loc) (n : Nat) (seen : Mach)
  deriving DecidableEq, Repr

/-- The agent a command works for, and the engine it is. -/
def Cmd.agent (c : Cmd) : Agent := match c.owner with | .t g r => .core g r .t | .l d i k => .loupe d i k
def Cmd.engine (c : Cmd) : Engine := match c.owner with | .t _ _ => .t | .l _ _ _ => .l
def Cmd.tlb (c : Cmd) : Tlb := match c.owner with | .t g r => .t g r | .l d i k => .l d i k

def Mach.updCmd (m : Mach) (id : Nat) (f : Cmd → Cmd) : Mach := { m with cmds := tupd m.cmds id f }

/-- Whether a command's work is done. -/
def Cmd.finished (c : Cmd) : Bool := c.started && decide (c.units ≤ c.pos) && c.segs.isEmpty && c.halted.isNone && c.err.isNone

/-- A check's stop as a command's. -/
def Mach.liftStop (m : Mach) : Except Stop Unit → Except CmdStop Unit
  | .ok _ => .ok ()
  | .error (.fault e) => .error (.fault e.cause e.addr 0 m)
  | .error (.hold _) => .error (.wait m)

def Mach.cmdNeed (m : Mach) (ok : Bool) (cause : BitVec 8) (addr : Word) : Except CmdStop Unit :=
  if ok then .ok () else .error (.fault cause addr 0 m)

/-! ## Accesses -/

/-- Whether a peer access lies within an exported window (R17, R18, R358). -/
def VDev.inWindow (v : VDev) (off size : Nat) : Bool :=
  v.windows.any (fun w => w.1 == off / 2 ^ 48 && decide (off % 2 ^ 48 + size ≤ w.2))

/-- The place of an access of a command, with steps 1 to 5 of R19: the page's tree type must be the one named, none for a
plain access (R245). -/
def Mach.cmdPlace (m : Mach) (c : Cmd) (p : Word) (off : Int) (size : Nat) (k : AccKind) (tree : Option Nat) :
    Except CmdStop (Loc × Word × Mach) := do
  m.liftStop (checkUse m c.agent c.engine p off size)
  let o := off.toNat
  let q := ptrAt p off
  match ptrSpace p with
  | 0 =>
    match m.translate c.tlb c.vd o k with
    | .error e =>
      let m := m.walked c.tlb c.vd o
      if e = 0x04 then .error (.halt q (k != .read) m) else .error (.fault e q 0 m)
    | .ok (t, m) =>
      if !(m.walkHeld c.tlb c.vd o).isEmpty then .error (.held (t.loc o) size m)
      else if (match tree with
        | none => leafDepth t.leaf == 0
        | some ty => leafDepth t.leaf != 0 && leafType t.leaf == ty)
      then .ok (t.loc o, t.leaf, m.countCmd c.id c.vd (touchedBy t.leaf o size) t.leaf)
      else .error (.fault 0x13 q 0 m)
  | 3 => do
    m.cmdNeed ((m.vd c.vd).inWindow o size) 0x03 q
    pure (.peer c.vd o, 0, m)
  | s => do
    m.cmdNeed (s != 1 || !beyond (m.hdr c.agent) o size) 0x02 q
    pure (m.place c.agent s (ptrRank p) o, 0, m)

/-- The checker's part of an access, and the errors of memory (R325, R330, R404). `cas` gives the key of an LHASH that
swaps it into an empty slot: one action that reads and writes (R325, R339). -/
def Mach.cmdCheck (m : Mach) (c : Cmd) (loc : Loc) (leaf : Word) (write : Bool) (n : Nat) (p : Word) (cas : Option Word := none) :
    Except CmdStop Mach :=
  if m.stalled loc n write then .error (.held loc n m)
  else if m.locError c.vd loc n write || (cas.isSome && m.locError c.vd loc n false) then .error (.fault 0x10 p 0 m)
  else
    match c.owner with
    | .l _ _ _ =>
      let op : QOp := match cas with
        | some key => .cas 8 (BitVec.allOnes 64) key 0
        | none => if write then .store [] else .load n 0 0
      let q : QEntry := { who := .agent c.agent, vd := c.vd, cls := 0, seq := 0, op := op, loc := loc, unit := checkUnit leaf, va := p }
      .ok (q.noteOutside m)
    | .t g r =>
      let x : RaceAcc := {
        gang := g, rank := r, strm := .t, cls := 0, kind := 2, iv := c.icnt, rd := !write, wr := write
        acq := !write && c.acq != 7 }
      let u : Option (UnitRef × Word) := match loc with
        | .scr g' r' o => (m.core? g' r').map (fun k => (.scr g' r' (k.unitAt o), mkPtr 1 r' (64 * k.unitAt o)))
        | l => (l.glbUnit c.vd (checkUnit leaf)).map (fun u => (u, mkPtr 0 0 (ptrOff p / checkUnit leaf * checkUnit leaf)))
      match u with
      | none => .ok m
      | some (u, q) =>
        match m.raceAccess x u q with
        | (m, none) => .ok m
        | (_, some rep) => .error (.fault rep.1 q rep.2 m)

/-- Whether a read of a T command is its first: its first 256 bytes of source, or the tables for them (R272; log entry 30). -/
def Cmd.firstRead (c : Cmd) : Bool :=
  decide (c.pos * (match c.op with | .tcpy | .tops _ => if c.set.sty == c.set.dty then 1 else max 1 (tyBytes c.set.sty.toNat) | _ => 1) < 256)

/-- The byte of the own scratchpad that a command's first read takes at an offset, as its bank stood after the GO word's ec
(R272). -/
def Cmd.ownByte (c : Cmd) (o : Nat) : Option Byte :=
  (c.own.find? (fun s => decide (s.1 ≤ o) && decide (o < s.1 + s.2.length))).bind (fun s => s.2[o - s.1]?)

/-- Bytes of a place as a command reads them (R265, R270): the first read of a T command counts as reaching its core's bank
in the ec after the GO word's (R271, R272); from GLB its copies serve it. -/
def Mach.cmdBytes (m : Mach) (c : Cmd) (loc : Loc) (n va : Nat) : List Byte × Mach :=
  let m := m.observe (.cmd c.id) none loc n
  match c.owner, loc with
  | .t g r, .scr g' r' o =>
    let l := m.readLoc loc n
    if g == g' && r == r' && !c.own.isEmpty && c.firstRead then (l.zipIdx.map (fun (b, i) => (c.ownByte (o + i)).getD b), m) else (l, m)
  | _, _ => m.fresh.readView (.cmd c.id) loc n 56 va

/-- Bytes a command reads, granule by granule. -/
def Mach.cmdRead (m : Mach) (c : Cmd) (p : Word) (off : Int) (n : Nat) : Except CmdStop (List Byte × Mach) :=
  if off < 0 then .error (.fault 0x03 p 0 m)
  else (parts off.toNat n).foldlM (fun (bs, m) (lo, len) => do
    let (loc, leaf, m) ← m.cmdPlace c p lo len .read none
    let m ← m.cmdCheck c loc leaf false len (ptrAt p lo)
    let (b, m) := m.cmdBytes c loc len lo
    pure (bs ++ b, m)) ([], m)

/-- A command's store of bytes at its commit point: releases it overwrites stand no longer, and its own copy is the new
value (R265, R270). -/
def Mach.cmdStore (m : Mach) (c : Cmd) (loc : Loc) (bytes : List Byte) : Mach :=
  let m := ((m.observe (.cmd c.id) none loc bytes.length).writeLoc loc (offs bytes)).renewCopy (.cmd c.id) loc
  { m with released := m.released.filter (fun v => !v.loc.meets v.size loc bytes.length) }

/-- Bytes a command writes, granule by granule. -/
def Mach.cmdWrite (m : Mach) (c : Cmd) (p : Word) (off : Int) (bytes : List Byte) : Except CmdStop Mach :=
  if off < 0 then .error (.fault 0x03 p 0 m)
  else (parts off.toNat bytes.length).foldlM (fun m (lo, len) => do
    let (loc, leaf, m) ← m.cmdPlace c p lo len .write none
    let m ← m.cmdCheck c loc leaf true len (ptrAt p lo)
    pure (m.cmdStore c loc ((bytes.drop (lo - off.toNat)).take len))) m

/-- Whether a source granule is pending on a command other than this one and those behind it (R68). -/
def Mach.srcPending (m : Mach) (id : Nat) (c : Cmd) (p : Word) (off : Int) (n : Nat) : Bool :=
  match c.owner with
  | .l _ _ _ => false
  | .t g _ =>
    ptrSpace p == 1 && (granules off.toNat n).any (fun k =>
      let t := m.targetTag (.gran g (ptrRank p) k)
      let own := (m.cmds.filter (fun (j, d) => decide (id ≤ j) && d.owner == c.owner && d.targets.contains (.gran g (ptrRank p) k))).length
      t.pending && decide (own < t.count))

/-! ## Geometry (R302, R303, R306) -/

/-- The extents, those of 0 beyond the first read as 1. -/
def TSet.x (t : TSet) (d : Nat) : Nat :=
  let e := (vget t.ext d 0).toNat
  if d = 0 then e else max 1 e

/-- Rows of dimension 0; none when its extent is 0. -/
def TSet.rows (t : TSet) : Nat := if t.x 0 = 0 then 0 else t.x 1 * t.x 2 * t.x 3

/-- The indices (i1, i2, i3) of a row. -/
def TSet.idx (t : TSet) (r : Nat) : List Nat := [r % t.x 1, r / t.x 1 % t.x 2, r / (t.x 1 * t.x 2)]

/-- The offset of a row's base from strides. -/
def TSet.rowOff (t : TSet) (strides : Vector Word 3) (base r : Nat) : Int :=
  (t.idx r).zipIdx.foldl (fun (o : Int) (i, d) => o + i * (vget strides d 0).toInt) base

/-- The lowest and highest offset of row bases, an indirect dimension aside (R303). -/
def TSet.span (t : TSet) (strides : Vector Word 3) (base : Nat) (skip : Option (BitVec 2)) : Int × Int :=
  [1, 2, 3].foldl (fun (p : Int × Int) d =>
    if skip == some (BitVec.ofNat 2 d) then p
    else
      let v : Int := ((t.x d - 1 : Nat) : Int) * (vget strides (d - 1) 0).toInt
      (p.1 + min 0 v, p.2 + max 0 v)) ((base : Int), (base : Int))

/-- A command that moves bytes unchanged (R302). -/
def CmdOp.bytewise (op : CmdOp) (t : TSet) : Bool :=
  match op with
  | .tfil _ => true
  | .tcpy | .tops _ => t.sty == t.dty
  | .tcol _ k => k.getLsbD 0
  | _ => false

/-- W(N) (R310). -/
def srlMax (n es : Nat) : Nat := 16 + 16 * ((n + 31) / 32) + 16 * ((n * es + 15) / 16)

/-- Bytes of a row of x elements of a type. -/
def rowBytesOf (ty x : Nat) : Nat := if tyBlock ty then blockRowBytes ty x else x * tyBytes ty

/-- Bytes from the first element that a row of a tree names to the end of the last, 2^j apart (R303, R309). -/
def treeRow (x j u : Nat) : Nat := if x = 0 then 0 else (x - 1) * 2 ^ j * u + u

/-- Bytes of a row at the source and at the destination. -/
def CmdOp.srcRow (op : CmdOp) (t : TSet) : Nat :=
  match op with
  | .tfil _ => 0
  | .tunp => srlMax (t.x 0) (tyBytes t.dty.toNat)
  | .tlvl => treeRow (t.x 0) t.lvl.toNat (tyBytes t.sty.toNat)
  | _ => if op.bytewise t then t.x 0 else rowBytesOf t.sty.toNat (t.x 0)
def CmdOp.dstRow (op : CmdOp) (t : TSet) : Nat :=
  match op with
  | .tpak => srlMax (t.x 0) (tyBytes t.sty.toNat)
  | .tenc => treeRow (t.x 0) t.lvl.toNat (tyBytes t.dty.toNat)
  | _ => if op.bytewise t then t.x 0 else rowBytesOf t.dty.toNat (t.x 0)

/-- What the base and the strides of an end are multiples of (R304, check 5). -/
def CmdOp.srcAlign (op : CmdOp) (t : TSet) : Nat :=
  match op with
  | .tunp => 16
  | _ => if op.bytewise t then 1 else if tyBlock t.sty.toNat then 128 else tyBytes t.sty.toNat
def CmdOp.dstAlign (op : CmdOp) (t : TSet) : Nat :=
  match op with
  | .tpak => 16
  | _ => if op.bytewise t then 1 else if tyBlock t.dty.toNat then 128 else tyBytes t.dty.toNat

/-- Source offset of a row whose entry of the indirect table is k. -/
def TSet.indRow (t : TSet) (r k : Nat) : Int :=
  match t.ind with
  | none => t.rowOff t.ss (ptrOff t.src) r
  | some (d, _, _) =>
    let ss := (vget t.ss (d.toNat - 1) 0).toInt
    t.rowOff t.ss (ptrOff t.src) r - (t.idx r).getD (d.toNat - 1) 0 * ss + k * ss

/-- The entry of the indirect table that a row takes: its offset and its bytes. -/
def TSet.indEntry (t : TSet) (r : Nat) : Option (Word × Nat × Nat) :=
  t.ind.map (fun (d, table, wide) =>
    let w : Nat := if wide then 4 else 2
    (table, ptrOff table + w * (t.idx r).getD (d.toNat - 1) 0, w))

/-- Source offset of a row, with an indirect dimension read from its table (R302); what an indirect row names is checked as
it is reached (R319). -/
def Mach.cmdSrcRow (m : Mach) (c : Cmd) (r : Nat) : Except CmdStop (Int × Mach) :=
  match c.set.indEntry r with
  | none => .ok (c.set.indRow r 0, m)
  | some (table, o, w) => do
    let (bytes, m) ← m.cmdRead c table (o : Nat) w
    pure (c.set.indRow r (leNat bytes), m)

/-- The runs of the own scratchpad that a T command's first read takes: the rows of its first 256 source bytes, and their
table entries (R272). -/
def Mach.firstSpans (m : Mach) (c : Cmd) : List (Nat × Nat) :=
  match c.owner, c.op with
  | .l _ _ _, _ | _, .tfil _ | _, .tkvf _ _ _ | _, .tdrp _ _ _ => []
  | .t g r, _ =>
    let n := min 256 (c.op.srcRow c.set)
    let rows := List.range (if n = 0 then 0 else min c.set.rows ((255 + n) / n))
    let tab := rows.filterMap (fun k => (c.set.indEntry k).map (fun e => (e.2.1, e.2.2)))
    let off (k : Nat) : Int := c.set.indRow k (match c.set.indEntry k with
      | none => 0
      | some (_, o, w) => leNat (m.readLoc (.scr g r o) w))
    let src := if ptrSpace c.set.src == 1 && ptrRank c.set.src == r then
        rows.filterMap (fun k => if 0 ≤ off k then some ((off k).toNat, min n (256 - k * n)) else none)
      else []
    tab ++ src

/-- The first read of a command without an acquire is taken as its bank stands at the end of the GO word's ec, granules that
are pending on older commands aside (R68, R272). -/
def Mach.captureFirst (m : Mach) (id : Nat) : Mach :=
  match tget m.cmds id with
  | none => m
  | some c =>
    match c.owner with
    | .l _ _ _ => m
    | .t g r =>
      if c.acq != 7 then m
      else
        let m := m.settleBank g r 0
        let older (o : Nat) : Bool :=
          let t := m.targetTag (.gran g r (o / 4096))
          t.pending && decide ((if c.targets.contains (.gran g r (o / 4096)) then 1 else 0) < t.count)
        let ps := ((m.firstSpans c).flatMap (fun s => parts s.1 s.2)).filter (fun p => !older p.1 && decide (p.1 + p.2 ≤ 2 ^ 21))
        m.updCmd id (fun c => { c with own := ps.map (fun p => (p.1, m.readLoc (.scr g r p.1) p.2)) })

/-! ## Completion and cancellation (R68, R293, R320, R344, R345) -/

/-- Who completed on a target, for the checker (R327). -/
def Cmd.source (c : Cmd) : Nat × Nat × Bool :=
  match c.owner with
  | .t _ r => (r, c.icnt, false)
  | .l _ _ _ => (0, 0, true)

/-- The gang of an index of a job; the gang index in the control scalar of an LHAND (R343). -/
def Mach.gangOf (m : Mach) (job idx : Nat) : Option Nat :=
  (m.job? job).bind (fun j => j.gangs.find? (fun g => (m.gang? g).any (fun x => x.idx.toNat == idx)))
def handGang (c : Word) : Nat := (fld c 28 8).toNat

/-- The release of an attached command: an LHAND's is at its target's granule, whatever its SCO at the scope of the cluster
that owns it, which includes the Loupe core; any other's takes its scope as a barrier's (R267, R268, R297, R344). -/
def Mach.cmdRel (m : Mach) (c : Cmd) : RelVal :=
  match c.op with
  | .lhand _ dst ctl => { who := .agent c.agent, sco := 2, loc := .scr ((m.gangOf c.job (handGang ctl)).getD 0) (ptrRank dst) (ptrOff dst) }
  | _ => { who := .agent c.agent, sco := c.rel.toNat }

/-- The snapshot of a command published, and merged into its phase (R327). -/
def Mach.cmdPublish (m : Mach) (c : Cmd) : Mach :=
  let gang := match c.owner with | .t g _ => some g | .l _ _ _ => none
  let m := match gang with | some g => m.publish g c.snap | none => m
  let m := match c.bar with
    | some (k, gen) =>
      let m := m.phaseMerge c.vd k gen gang c.snap
      if c.rel != 7 then m.phaseRel c.vd k gen (m.cmdRel c) else m
    | none => m
  if c.rel != 7 && (decide (2 ≤ c.rel.toNat) || gang.isNone) then m.bumpVg c.vd else m

/-- A command's entry frees, and what the machine keeps for it goes (R265, R305). -/
def Mach.cmdGone (m : Mach) (id : Nat) : Mach :=
  { m with cmds := tdel m.cmds id, touched := m.touched.filter (fun p => p.1 != id) }.dropCopies (.cmd id)

/-- A command completes: tags, release, barrier bytes, and its entry frees (R68, R293, R305). -/
def Mach.cmdDone (m : Mach) (id : Nat) (c : Cmd) : Mach :=
  let m := c.targets.foldl (fun m t => m.updTarget t (fun x => x.complete c.tag c.source)) m
  let m := m.cmdPublish c
  let m := match c.bar with | some (k, gen) => m.subBytes c.vd k gen c.bytes | none => m
  m.cmdGone id

/-- A command is cancelled: its targets become conflicts, its barrier an orphan, its entry frees; the fault is kept until a
T word raises it, or stops the Loupe program (R320, R345). -/
def Mach.cmdCancel (m : Mach) (id : Nat) (c : Cmd) (rec_ : Bool) (e : BitVec 8 × Word × BitVec 128) : Mach :=
  let m := c.targets.foldl (fun m t => m.updTarget t (fun x => x.complete 0xFFFF c.source)) m
  let m := match c.bar with | some (k, _) => m.orphan c.vd k | none => m
  let m := m.cmdGone id
  if !rec_ then m
  else
    match c.owner with
    | .t g r => m.updCore g r (fun k => { k with held := k.held ++
        [{ cause := e.1, addr := e.2.1, race := e.2.2, resume := BitVec.ofNat 32 c.pos, goix := c.goix.zeroExtend 16
           strm := .t, at_ := m.time }] })
    | .l d i k => m.stopLoupe d i k { cause := e.1, addr := e.2.1, race := e.2.2 } c.goix 1

/-- TRANSFER_FAULT: an in-flight fault, or a cancellation, ends a command (R320, R345). -/
def execTransferFault (id : Nat) (cause : BitVec 8) (s : State) : Host.Outcome State Fault Refusal :=
  match tget s.m.cmds id with
  | none => .fault .notEnabled
  | some c =>
    match c.err with
    | none => .fault .notEnabled
    | some e => event (e.1 == cause) (s.m.cmdCancel id c true e) s

/-- COMMAND_HALT: a page fault halts a command at the address; the kernel is told (R319, R370). -/
def execCommandHalt (id : Nat) (va : BitVec 64) (s : State) : Host.Outcome State Fault Refusal :=
  match tget s.m.cmds id with
  | none => .fault .notEnabled
  | some c =>
    match c.halted with
    | none => .fault .notEnabled
    | some (a, write) => event (a == va) (s.m.postPage va write c.vd (.cmd id) c.goix).2 s

end Sys2Proof.Machine
end

