-- ==== Sys2Proof/Machine/Transfer.lean ====
section
/-! DEFINITION. The transfer unit (R300-R322): the configuration words, the GO words with the checks of R304, and how a
command moves its data, step by step, until it completes. -/
namespace Sys2Proof.Machine

/-! ## Elements a command converts (R308, R309) -/

/-- A source element: bits of a dense type, or the value of a block element. -/
inductive Elem where
  | bits (ty x : Nat)
  | val (v : Val)
  deriving DecidableEq, Repr

/-- An element in a dense type (R125, R127-R129, R135). -/
def Elem.to (e : Elem) (dty rm : Nat) (sat : Bool) : Nat :=
  match e with
  | .bits sty x => (convBits sty dty rm sat x).1
  | .val v =>
    match fmtOf dty with
    | some f => (roundF f rm sat v).1
    | none => (floatToInt rm (tySigned dty) (tyBits dty) v).1

/-- An element as an exact value. -/
def Elem.value : Elem → Val
  | .bits ty x => elemVal ty x
  | .val v => v

/-- Elements packed in a dense type. -/
def packElems (dty rm : Nat) (sat : Bool) (l : List Elem) : List Byte := l.flatMap (fun e => natLE (tyBytes dty) (e.to dty rm sat))

/-- A line of a block format: its blocks, positions beyond the elements given as +0, and pad bytes of zero (R134, R136). -/
def packLine (dty rm : Nat) (sat : Bool) (l : List Elem) : List Byte :=
  let vs := l.map Elem.value
  let blocks := (List.range (linePer dty / 16)).flatMap (fun k =>
    let b := (List.range 16).map (fun i => vs.getD (16 * k + i) (.fin false 0 0))
    natLE (blockBytes dty) (encodeBlock (blockM dty) rm sat b).1)
  blocks ++ List.replicate (128 - blocks.length) 0

/-- A row in a dense or block type. -/
def packRow (dty rm : Nat) (sat : Bool) (l : List Elem) : List Byte :=
  if tyBlock dty then
    (List.range ((l.length + linePer dty - 1) / linePer dty)).flatMap (fun k =>
      packLine dty rm sat ((l.drop (k * linePer dty)).take (linePer dty)))
  else packElems dty rm sat l

/-- Dense elements of bytes. -/
def denseElems (ty : Nat) (bytes : List Byte) : List Elem :=
  (List.range (bytes.length / tyBytes ty)).map (fun k => .bits ty (leNat ((bytes.drop (k * tyBytes ty)).take (tyBytes ty))))

/-- Elements i0 to i0 + n − 1 of a source row. -/
def Mach.cmdElems (m : Mach) (c : Cmd) (row : Int) (i0 n : Nat) : Except CmdStop (List Elem × Mach) :=
  let ty := c.set.sty.toNat
  if tyBlock ty then
    (List.range ((i0 + n - 1) / 16 - i0 / 16 + 1)).foldlM (fun (es, m) k => do
      let b := i0 / 16 + k
      let (bytes, m) ← m.cmdRead c c.set.src (row + (blockPlace ty (16 * b)).1) (blockBytes ty)
      let l := (List.range 16).filterMap (fun i =>
        if i0 ≤ 16 * b + i ∧ 16 * b + i < i0 + n then some (Elem.val (decodeBlock (blockM ty) (leNat bytes) i)) else none)
      pure (es ++ l, m)) ([], m)
  else do
    let (bytes, m) ← m.cmdRead c c.set.src (row + i0 * tyBytes ty) (n * tyBytes ty)
    pure (denseElems ty bytes, m)

/-- A source wait of R68 before n bytes at an offset are read. -/
def Mach.cmdAwait (m : Mach) (id : Nat) (c : Cmd) (off : Int) (n : Nat) : Except CmdStop Unit :=
  if m.srcPending id c c.set.src off n then .error (.wait m) else .ok ()

/-- Whether an array command is still reading a slot in ec that pass (R206). -/
def Mach.slotHeld (m : Mach) (g r slot : Nat) : Bool :=
  match m.gang? g with
  | none => false
  | some x => x.run == .running && (match x.quads[r / 4]? with
    | none => false
    | some q => decide (x.cyc < (vget q.slot slot {}).readEnd))

/-- Bytes written at the destination of a command: memory, or the slot of a TOPS (R308). -/
def Mach.cmdPut (m : Mach) (c : Cmd) (off : Int) (bytes : List Byte) : Except CmdStop Mach :=
  match c.op, c.owner with
  | .tops slot, .t g r =>
    if m.slotHeld g r slot.toNat then .error (.wait m)
    else .ok (m.updGang g (fun x => { x with quads := x.quads.modify (r / 4) (fun q =>
      { q with slot := vupd q.slot slot.toNat (fun s => { s with
          data := bytes.zipIdx.foldl (fun d (b, i) =>
            let o := off.toNat + i
            vupd d (o / 256) (fun row => (row &&& ~~~(0xFF#2048 <<< (8 * (o % 256)))) ||| (b.zeroExtend 2048 <<< (8 * (o % 256))))) s.data }) }) }))
  | _, _ => m.cmdWrite c c.set.dst off bytes

/-- Base offset of the destination: 0 in a slot (R308). -/
def Cmd.dstBase (c : Cmd) : Nat := match c.op with | .tops _ => 0 | _ => ptrOff c.set.dst
/-- Destination offset of a row. -/
def Cmd.dstRowOff (c : Cmd) (r : Nat) : Int := c.set.rowOff c.set.ds c.dstBase r

/-- A piece to write that does not fit in what a pulse has left is written whole in the next, which has the less to move: a
granule's bytes commit as one (R266, R305; log entry 73). -/
def fits (n lim : Nat) : Except CmdStop Unit := if n ≤ lim then .ok () else .error .full

/-- How far a step goes: units to the end of the row, to the next multiple of `per` bytes of an offset. -/
def room (off : Int) (per unit : Nat) : Nat := max 1 ((per - (off % per).toNat) / unit)

/-! ## Copies and fills -/

/-- One step of TCPY, TOPS or TFIL: units of one row within one granule of the destination and one page of the source, when
`lim` leaves room; a block-format destination takes a whole line. -/
def Mach.stepCopy (m : Mach) (id : Nat) (c : Cmd) (lim : Nat) : Except CmdStop (Cmd × Mach × Nat) := do
  let t := c.set
  let x := t.x 0
  let r := c.pos / x
  let i0 := c.pos % x
  let d := c.dstRowOff r
  let sty := t.sty.toNat
  let dty := t.dty.toNat
  match c.op with
  | .tfil v =>
    let n := min (x - i0) (room (d + i0) 64 1)
    fits n lim
    let pat := natLE 8 v.toNat
    let m ← m.cmdPut c (d + i0) ((List.range n).map (fun i => pat.getD ((c.pos + i) % 8) 0))
    pure ({ c with pos := c.pos + n }, m, n)
  | _ =>
    let (s, m) ← m.cmdSrcRow c r
    if c.op.bytewise t then
      let n := min (min (x - i0) (room (s + i0) 4096 1)) (room (d + i0) 64 1)
      fits n lim
      m.cmdAwait id c (s + i0) n
      let (bytes, m) ← m.cmdRead c t.src (s + i0) n
      let m ← m.cmdPut c (d + i0) bytes
      pure ({ c with pos := c.pos + n }, m, n)
    else
      let so : Int := if tyBlock sty then (blockPlace sty i0).1 else i0 * tyBytes sty
      let len (n : Nat) : Nat :=
        if tyBlock sty then (blockPlace sty (i0 + n - 1)).1 + blockBytes sty - (blockPlace sty i0).1 else n * tyBytes sty
      let far := if tyBlock sty then linePer sty - i0 % linePer sty else room (s + so) 4096 (tyBytes sty)
      if tyBlock dty then
        let n := min (x - i0) (linePer dty)
        fits 128 lim
        m.cmdAwait id c (s + so) (len n)
        let (es, m) ← m.cmdElems c s i0 n
        let m ← m.cmdPut c (d + (blockPlace dty i0).1) (packLine dty t.rm.toNat t.sat es)
        pure ({ c with pos := c.pos + n }, m, 128)
      else
        let eb := tyBytes dty
        let n := min (min (x - i0) far) (room (d + i0 * eb) 64 eb)
        fits (n * eb) lim
        m.cmdAwait id c (s + so) (len n)
        let (es, m) ← m.cmdElems c s i0 n
        let m ← m.cmdPut c (d + i0 * eb) (packElems dty t.rm.toNat t.sat es)
        pure ({ c with pos := c.pos + n }, m, n * eb)

/-! ## Tree words (R309) -/

/-- The tree block that holds the element at an offset of a tree page: its place, depth, index of the element. -/
def Mach.cmdBlock (m : Mach) (c : Cmd) (p : Word) (off : Int) (ty : Nat) (k : AccKind) :
    Except CmdStop (Loc × Nat × Nat × Mach) := do
  let (loc, leaf, m) ← m.cmdPlace c p off (tyBytes ty) k (some ty)
  let L := leafDepth leaf
  if L < c.set.lvl.toNat then throw (.fault 0x13 (ptrAt p off) 0 m)
  let bs := 2 ^ L * tyBytes ty
  let at_ := match loc with | .dev pa => pa | .host a => a | _ => 0
  let base := at_ / bs * bs
  let blk : Loc := match loc with | .host _ => .host base | _ => .dev base
  let m ← m.cmdCheck c blk leaf (k != .read) bs (ptrAt p (off - (at_ - base : Nat)))
  pure (blk, L, (at_ - base) / tyBytes ty, m)

/-- One output of TLVL: the level average of the block of an element, from one snapshot. -/
def Mach.levelOf (m : Mach) (c : Cmd) (off : Int) : Except CmdStop (Elem × Mach) := do
  let ty := c.set.sty.toNat
  let j := c.set.lvl.toNat
  let (blk, L, e, m) ← m.cmdBlock c c.set.src off ty .read
  let cs := blockCoeffs ty L (m.readLoc blk (2 ^ L * tyBytes ty))
  pure (.bits ty (treeAvg ty L cs j (e / 2 ^ j)), m)

/-- One step of TLVL: the outputs of one row within one granule of the destination, converted. -/
def Mach.stepLevel (m : Mach) (c : Cmd) (lim : Nat) : Except CmdStop (Cmd × Mach × Nat) := do
  let t := c.set
  let x := t.x 0
  let u := 2 ^ t.lvl.toNat * tyBytes t.sty.toNat
  let i0 := c.pos % x
  let eb := tyBytes t.dty.toNat
  let d := c.dstRowOff (c.pos / x) + i0 * eb
  let n := min (x - i0) (room d 64 eb)
  fits (n * eb) lim
  let (s, m) ← m.cmdSrcRow c (c.pos / x)
  let (vs, m) ← (List.range n).foldlM (fun (vs, m) k => do
    let (v, m) ← m.levelOf c (s + ((i0 + k) * u : Nat))
    pure (vs ++ [v], m)) (([] : List Elem), m)
  let m ← m.cmdPut c d (packElems t.dty.toNat t.rm.toNat t.sat vs)
  pure ({ c with pos := c.pos + n }, m, n * eb)

/-- Destination offset of a unit of TENC. -/
def Cmd.encOff (c : Cmd) (u : Nat) : Int :=
  c.dstRowOff (u / c.set.x 0) + (u % c.set.x 0) * 2 ^ c.set.lvl.toNat * tyBytes c.set.dty.toNat

/-- One block of TENC: every value that the units still to come supply to it, in one spine commit. `acc` holds the units
beyond the resume offset that are done. -/
def Mach.stepEncode (m : Mach) (id : Nat) (c : Cmd) : Except CmdStop (Cmd × Mach × Nat) := do
  let t := c.set
  let ty := t.dty.toNat
  let j := t.lvl.toNat
  let (blk, L, _, m) ← m.cmdBlock c t.dst (c.encOff c.pos) ty .both
  let bs := 2 ^ L * tyBytes ty
  let base := c.encOff c.pos / bs
  let us := ((List.range (c.units - c.pos)).map (· + c.pos)).filter (fun u => c.encOff u / bs == base && !c.acc.contains u)
  let (vals, m) ← us.foldlM (fun (vals, m) u => do
    let (s, m) ← m.cmdSrcRow c (u / t.x 0)
    let es := tyBytes t.sty.toNat
    m.cmdAwait id c (s + (u % t.x 0) * es) es
    let (es, m) ← m.cmdElems c s (u % t.x 0) 1
    let q := ((c.encOff u % bs).toNat / tyBytes ty) / 2 ^ j
    pure (vals ++ [(q, (es.headD (.bits 0 0)).to ty t.rm.toNat t.sat)], m)) (([] : List (Nat × Nat)), m)
  let cs := blockCoeffs ty L (m.readLoc blk bs)
  let m := m.cmdStore c blk (coeffBytes ty (spineCommit ty L cs j t.flat vals))
  let done := c.acc ++ us
  let pos := (((List.range (c.units - c.pos)).map (· + c.pos)).find? (fun u => !done.contains u)).getD c.units
  pure ({ c with pos := pos, acc := done.filter (fun u => decide (pos < u)) }, m, us.length * tyBytes ty)

/-! ## srl records (R310, R311) -/

/-- The nibbles of a gap of g zeros before a value. The first argument bounds the number of long gaps. -/
def gapCodes : Nat → Nat → List Nat
  | 0, g => [g]
  | n + 1, g =>
    if g < 15 then [g]
    else
      let e := min g 4095
      [15, e % 16, e / 16 % 16, e / 256] ++ gapCodes n (g - e)

/-- Codes and values of a row: elements, the gap so far. -/
def srlCodes : List Nat → Nat → List Nat × List Nat
  | [], _ => ([], [])
  | x :: xs, g =>
    if x = 0 then srlCodes xs (g + 1)
    else
      let (c, v) := srlCodes xs 0
      (gapCodes (g / 15 + 1) g ++ c, x :: v)

/-- Nibbles packed two a byte, low first. -/
def packNibbles : List Nat → List Byte
  | [] => []
  | [a] => [BitVec.ofNat 8 a]
  | a :: b :: r => BitVec.ofNat 8 (a + 16 * b) :: packNibbles r

/-- Zero bytes up to a multiple of 16. -/
def pad16 (l : List Byte) : List Byte := l ++ List.replicate ((16 - l.length % 16) % 16) 0

/-- The record of a row of elements of es bytes (R310). -/
def srlRecord (es : Nat) (xs : List Nat) : List Byte :=
  let (codes, vals) := srlCodes xs 0
  let meta_ := pad16 (packNibbles codes)
  let body := pad16 (vals.flatMap (natLE es))
  natLE 4 vals.length ++ natLE 4 codes.length ++ natLE 4 (16 + meta_.length + body.length) ++ natLE 4 0 ++ meta_ ++ body

/-- A row rebuilt from codes and values, index by index; none when a value falls at or beyond n or the codes break off.
The first argument bounds the codes. -/
def srlPlaces : Nat → List Nat → Nat → Nat → Option (List Nat)
  | 0, _, _, _ => some []
  | _ + 1, [], _, _ => some []
  | k + 1, c :: r, i, n =>
    if c < 15 then
      if i + c < n then (srlPlaces k r (i + c + 1) n).map (fun l => (i + c) :: l) else none
    else
      match r with
      | a :: b :: d :: r => srlPlaces k r (i + a + 16 * b + 256 * d) n
      | _ => none

/-- One row of TPAK becomes a record to write. -/
def Mach.stepPack (m : Mach) (id : Nat) (c : Cmd) : Except CmdStop (Cmd × Mach × Nat) := do
  let t := c.set
  let x := t.x 0
  let es := tyBytes t.sty.toNat
  let (s, m) ← m.cmdSrcRow c (c.pos / x)
  m.cmdAwait id c s (x * es)
  let (bytes, m) ← m.cmdRead c t.src s (x * es)
  let xs := (List.range x).map (fun k => leNat ((bytes.drop (k * es)).take es))
  pure ({ c with segs := [((c.dstRowOff (c.pos / x)).toNat, srlRecord es xs)], outUnit := 0 }, m, 0)

/-- One row of TUNP: its record is checked and becomes a row to write. -/
def Mach.stepUnpack (m : Mach) (id : Nat) (c : Cmd) : Except CmdStop (Cmd × Mach × Nat) := do
  let t := c.set
  let x := t.x 0
  let es := tyBytes t.dty.toNat
  let (s, m) ← m.cmdSrcRow c (c.pos / x)
  m.cmdAwait id c s 16
  let (h, m) ← m.cmdRead c t.src s 16
  let nv := leNat (h.take 4)
  let nm := leNat ((h.drop 4).take 4)
  let rb := leNat ((h.drop 8).take 4)
  m.cmdNeed (decide ((rb : Int) ≤ (vget t.ss 0 0).toInt)) 0x13 (ptrAt t.src s)
  let mb := (nm + 1) / 2
  m.cmdAwait id c (s + 16) mb
  let (mbytes, m) ← m.cmdRead c t.src (s + 16) mb
  let nibs := (mbytes.flatMap (fun b => [b.toNat % 16, b.toNat / 16])).take nm
  match srlPlaces (nm + 1) nibs 0 x with
  | none => .error (.fault 0x13 (ptrAt t.src s) 0 m)
  | some places => do
    m.cmdNeed (places.length == nv) 0x13 (ptrAt t.src s)
    let vo := 16 + (mb + 15) / 16 * 16
    m.cmdAwait id c (s + vo) (nv * es)
    let (vbytes, m) ← m.cmdRead c t.src (s + vo) (nv * es)
    let vals := (List.range nv).map (fun k => leNat ((vbytes.drop (k * es)).take es))
    let row := (List.zip places vals).foldl (fun (l : List Nat) (p, v) => l.set p v) (List.replicate x 0)
    pure ({ c with segs := [((c.dstRowOff (c.pos / x)).toNat, row.flatMap (natLE es))], outUnit := es }, m, 0)

/-- Units of a row of writes made ready that count as written when so many of its bytes are left: those of the lines written of
a block format, and of a record all when it is written whole (R134, R319). -/
def Cmd.rowUnits (c : Cmd) (left : Nat) : Nat :=
  let x := c.set.x 0
  match c.op with
  | .tcol _ _ =>
    let per := linePer c.set.dty.toNat
    min x (((x + per - 1) / per - (left + 127) / 128) * per)
  | _ => if left = 0 then x else 0

/-- One piece of the writes made ready, within a granule. -/
def Mach.stepSegs (m : Mach) (c : Cmd) (lim : Nat) : Except CmdStop (Cmd × Mach × Nat) :=
  match c.segs with
  | [] => .ok (c, m, 0)
  | (off, bytes) :: rest => do
    let n := min bytes.length (room off 64 1)
    fits n lim
    let m ← m.cmdPut c off (bytes.take n)
    let segs := if n < bytes.length then (off + n, bytes.drop n) :: rest else rest
    let step := if c.outUnit = 0 then c.rowUnits (bytes.length - n) - c.rowUnits bytes.length else n / c.outUnit
    pure ({ c with segs := segs, pos := c.pos + step }, m, n)

/-! ## Collectives (R312) -/

/-- The members of a group of a command's job in the order of R312. -/
def Mach.cmdMembers (m : Mach) (c : Cmd) (grp : Nat) : List (Nat × Nat) :=
  match m.job? c.job with
  | none => []
  | some j => m.groupCores j ((tget (m.vd c.vd).groups (j.grpBase + grp)).getD {})

/-- What a TCOL is counted on: its group, or its ring. -/
def colKey (grp : BitVec 8) (op : BitVec 2) : Nat := if op.toNat < 2 then grp.toNat else 256 + grp.toNat

/-- The TCOL that pairs with a command at a member: its entry of the table. -/
def Mach.pairOf (m : Mach) (c : Cmd) (p : Nat × Nat) : Option (Nat × Cmd) :=
  m.cmds.find? (fun (_, d) => d.owner == .t p.1 p.2 && d.nth == c.nth &&
    (match d.op, c.op with | .tcol g k, .tcol h l => colKey g k == colKey h l | _, _ => false))

/-- Whether a member can issue its paired TCOL no more. One of a saved gang can when it goes on. -/
def Mach.pairGone (m : Mach) (c : Cmd) (grp : Nat) (p : Nat × Nat) : Bool :=
  match m.core? p.1 p.2 with
  | none => (tget m.away p.1).isNone
  | some k =>
    decide ((tget k.tcols grp).getD 0 ≤ c.nth) && (match (k.seq.regs .t).st with | .live | .arrived _ false => false | _ => true)

/-- A command given an in-flight fault, unless it has one already. -/
def Mach.cmdErr (m : Mach) (id : Nat) (cause : BitVec 8) (addr : Word) : Mach :=
  match tget m.cmds id with
  | none => m
  | some c => if c.err.isSome then m
    else (m.updCmd id (fun c => { c with err := some (cause, addr, 0) })).schedule .mc m.time (.transferFault id cause)

/-- A sum of two elements of the accumulation (R312). -/
def sumElem (ty : Nat) (sat : Bool) (a b : Nat) : Nat :=
  if tyFloat ty then (f32Add (BitVec.ofNat 32 a) (BitVec.ofNat 32 b)).1.toNat
  else
    let v := intOf (tySigned ty) 32 a + intOf (tySigned ty) 32 b
    wrapInt 32 (if sat then clampInt (intMin (tySigned ty) 32) (intMax (tySigned ty) 32) v else v)

/-- The rows of the sum of the members' sources, in their destination type. -/
def sumRows (t : TSet) (srcs : List (List Byte)) : List (List Byte) :=
  let ty := t.sty.toNat
  let acc := if tyFloat ty then 0 else ty
  let enter (bs : List Byte) : List Nat := (denseElems ty bs).map (fun e => e.to acc 0 false)
  let sum := match srcs.map enter with
    | [] => []
    | v :: vs => vs.foldl (fun a v => List.zipWith (sumElem acc t.sat) a v) v
  let x := t.x 0
  (List.range t.rows).map (fun r => packRow t.dty.toNat t.rm.toNat t.sat (((sum.drop (r * x)).take x).map (Elem.bits acc)))

/-- The writes of a TCOL, from the members' sources in their order. -/
def colSegs (c : Cmd) (gather : Bool) (srcs : List (List Byte)) : List (Nat × List Byte) :=
  let t := c.set
  if gather then
    let n := t.rows * t.x 0
    srcs.zipIdx.flatMap (fun (bs, k) => (List.range t.rows).map (fun r =>
      ((c.dstRowOff r).toNat + k * n, (bs.drop (r * t.x 0)).take (t.x 0))))
  else (sumRows t srcs).zipIdx.map (fun (bs, r) => ((c.dstRowOff r).toNat, bs))

/-- A source of a TCOL read whole. -/
def Mach.readAll (m : Mach) (id : Nat) (c : Cmd) : Except CmdStop (List Byte × Mach) :=
  (List.range c.set.rows).foldlM (fun (bs, m) r => do
    let (s, m) ← m.cmdSrcRow c r
    m.cmdAwait id c s (c.op.srcRow c.set)
    let (b, m) ← m.cmdRead c c.set.src s (c.op.srcRow c.set)
    pure (bs ++ b, m)) (([] : List Byte), m)

/-- The writes of a TCOL made ready: the unit is a byte of a gather, an element or a block row of a sum (R302, R319). -/
def Cmd.colReady (c : Cmd) (gather : Bool) (srcs : List (List Byte)) : Cmd :=
  let segs := colSegs c gather srcs
  let n := (segs.map (fun s => s.2.length)).foldl (· + ·) 0
  let dty := c.set.dty.toNat
  if gather then { c with segs := segs, pos := 0, units := n, outUnit := 1 }
  else { c with segs := segs, pos := 0, units := c.set.rows * c.set.x 0, outUnit := if tyBlock dty then 0 else tyBytes dty }

/-- A step of TCOL that is no write: the source is read; once every member's is, the writes of each are made ready. A
member that differs cancels all, and so does one that can pair no more (R312); a `.sum` paired with a `.gat` differs (DEDUCED, log
entry 92). A ring's other members are peers, whose data is free (log entry 15). -/
def Mach.stepCol (m : Mach) (id : Nat) (c : Cmd) (grp : BitVec 8) (op : BitVec 2) : Except CmdStop (Cmd × Mach × Nat) := do
  if !c.read then
    let (bs, m) ← m.readAll id c
    pure ({ c with data := bs, read := true }, m, 0)
  else if op.toNat ≥ 2 then
    let (n, own) := (((m.vd c.vd).rings.find? (fun r => r.1 == grp.toNat)).map (fun r => (r.2.1, r.2.2))).getD (1, 0)
    let free (k : Nat) : List Byte := (List.range c.data.length).map (fun i => Config.freeByte (64 * m.freeCtr + k * c.data.length + i))
    let srcs := (List.range n).map (fun k => if k = own then c.data else free k)
    pure (c.colReady (op.getLsbD 0) srcs, m, 0)
  else
    let ms := m.cmdMembers c grp.toNat
    let ps := ms.map (fun p => if c.owner == .t p.1 p.2 then some (id, c) else m.pairOf c p)
    if (List.zip ms ps).any (fun (p, q) => q.isNone && m.pairGone c grp.toNat p) then .error (.fault 0x07 c.set.src 0 m)
    else if ps.any (fun q => q.isNone) then .error (.wait m)
    else
      let qs := ps.filterMap (fun x => x)
      let same (d : Cmd) : Bool := d.op == c.op && d.set.sty == c.set.sty && d.set.dty == c.set.dty && d.set.ext == c.set.ext
      if qs.any (fun q => !same q.2) then
        .error (.fault 0x13 c.set.src 0 m)
      else if qs.any (fun q => !q.2.read) then .error (.wait m)
      else
        let srcs := qs.map (fun q => q.2.data)
        let ready (d : Cmd) : Cmd := d.colReady (op.getLsbD 0) srcs
        let m := qs.foldl (fun m q => if q.1 = id then m else m.updCmd q.1 ready) m
        pure (ready c, m, 0)

/-- The other members of a TCOL that is cancelled with 0x13 or 0x07 are cancelled with it (R312); where one ends with another
fault, they wait on (DESIGN CHOICE, log entry 92). -/
def Mach.colCancel (m : Mach) (id : Nat) (c : Cmd) (cause : BitVec 8) : Mach :=
  match c.op with
  | .tcol grp op =>
    if op.toNat ≥ 2 ∨ (cause != 0x07 ∧ cause != 0x13) then m
    else (m.cmdMembers c grp.toNat).foldl (fun m p =>
      match m.pairOf c p with
      | some (j, _) => if j = id then m else m.cmdErr j cause c.set.src
      | none => m) m
  | _ => m

/-! ## KV tables (R313-R318) -/

/-- Doubleword or word of a header or entry from its byte strings, counted from bit 0. -/
def descBits (bs : List Byte) (lo n : Nat) : Nat := nbits (leNat bs) lo n

def kvEbase (h : List Byte) : Word := BitVec.ofNat 64 (descBits h 448 64)
def kvClenp (h : List Byte) : Word := BitVec.ofNat 64 (descBits h 384 64)
def kvNent (h : List Byte) : Nat := descBits h 352 32
def kvBbytes (h : List Byte) : Nat := descBits h 320 32
def kvDoff (h : List Byte) : Nat := descBits h 288 32
def kvCost (h : List Byte) (t : Nat) : Nat := if t = 1 then descBits h 256 32 else descBits h 224 32
def kvReplay (h : List Byte) : Nat := descBits h 192 32

/-- A header within its ranges (R313). -/
def kvOk (h : List Byte) : Bool :=
  descBits h 0 192 == 0 && ptrSpace (kvEbase h) == 0 && ptrRank (kvEbase h) == 0 && ptrOff (kvEbase h) % 64 == 0 &&
  ptrSpace (kvClenp h) == 0 && ptrRank (kvClenp h) == 0 && kvBbytes h % 256 == 0 && kvBbytes h ≤ 2 ^ 20 && kvDoff h % 256 == 0

def rangeFirst (r : Word) : Nat := (fld r 0 24).toNat
def rangeCount (r : Word) : Nat := (fld r 24 24).toNat
/-- A range within the table (R315). -/
def rangeOk (h : List Byte) (r : Word) : Bool := fld r 48 16 == 0 && decide (rangeFirst r + rangeCount r ≤ kvNent h)

/-- An entry's fields: LOC, ALT, TOKP, STATE (R314). -/
def entryWord (e : List Byte) (k : Nat) : Word := BitVec.ofNat 64 (descBits e (64 * k) 64)

/-- The space a location of a block may have in a state (R314). -/
def locOk (state : Nat) (l : Word) : Bool := ptrSpace l == 0 || (state == 2 && ptrSpace l == 3)

/-- The decision of TKVF for an entry and whether it fetches (R316). -/
def kvDecide (h : List Byte) (b c state : Nat) : Nat × Bool :=
  if c ≤ 256 * b then (0, false)
  else
    match state with
    | 0 => (1, true)
    | 3 => (0x83, false)
    | t => if kvBbytes h * kvCost h t ≤ min 256 (c - 256 * b) * kvReplay h then (t + 1, true) else (0x80 + t, false)

/-- The committed length, read once (R316). -/
def Mach.fetchLength (m : Mach) (c : Cmd) : Except CmdStop (Cmd × Mach) := do
  let p := kvClenp c.desc
  let (bytes, m) ← m.cmdRead c p (ptrOff p) 8
  pure ({ c with acc := [leNat bytes, 0, 0] }, m)

/-- One step of TKVF: the committed length, an entry with its decision byte, or 64 bytes of a block. The resume offset counts an
entry's decision and each 64 bytes of its block as a unit (DESIGN CHOICE, log entry 93). -/
def Mach.stepFetch (m : Mach) (c : Cmd) (range : Word) (lim : Nat) : Except CmdStop (Cmd × Mach × Nat) := do
  let h := c.desc
  let nb := kvBbytes h / 64
  let i := c.pos / (nb + 1)
  let k := c.pos % (nb + 1)
  let b := rangeFirst range + i
  let dst := ptrOff c.set.dst
  match c.acc with
  | [] => do
    let (c, m) ← m.fetchLength c
    pure (c, m, 0)
  | len :: loc :: fetch :: _ =>
    if k = 0 then do
      fits 1 lim
      let p := kvEbase h
      let (e, m) ← m.cmdRead c p (ptrOff p + 32 * b : Nat) 32
      let st := descBits e 0 2
      let (d, f) := kvDecide h b len st
      let l := entryWord e 3
      m.cmdNeed (!f || locOk st l) 0x13 l
      let m ← m.cmdWrite c c.set.dst (dst + i : Nat) [BitVec.ofNat 8 d]
      let res := if d ≥ 0x80 then 1 else c.result
      pure ({ c with pos := c.pos + 1, acc := [len, l.toNat, if f then 1 else 0], result := res }, m, 1)
    else do
      fits 64 lim
      let o := 64 * (k - 1)
      let tok := kvBbytes h / 256
      let valid := min 256 (len - 256 * b)
      let l := BitVec.ofNat 64 loc
      let (src, m) ← if fetch = 1 && decide (o / tok < valid) then m.cmdRead c l (ptrOff l + o : Nat) 64
        else pure (List.replicate 64 0, m)
      let bytes := src.zipIdx.map (fun (x, q) => if fetch = 1 && decide ((o + q) / tok < valid) then x else 0)
      let m ← m.cmdWrite c c.set.dst (dst + kvDoff h + i * kvBbytes h + o : Nat) bytes
      pure ({ c with pos := c.pos + 1 }, m, 64)
  | _ => .error (.wait m)

/-- One step of TDRP: an entry read, 64 bytes copied, or the entry's commit (R318), each of them a unit of its resume offset
(DESIGN CHOICE, log entry 93). -/
def Mach.stepDrop (m : Mach) (c : Cmd) (range : Word) (drop : Bool) : Except CmdStop (Cmd × Mach × Nat) := do
  let h := c.desc
  let nb := kvBbytes h / 64
  let i := c.pos / (nb + 2)
  let k := c.pos % (nb + 2)
  let p := kvEbase h
  let off := ptrOff p + 32 * (rangeFirst range + i)
  if k = 0 then
    let (e, m) ← m.cmdRead c p (off : Nat) 32
    let st := descBits e 0 2
    let c := { c with data := e }
    if drop then pure ({ c with pos := if st = 3 then c.pos + nb + 2 else c.pos + nb + 1 }, m, 0)
    else if st ≥ 2 then pure ({ c with pos := c.pos + nb + 2 }, m, 0)
    else do
      m.cmdNeed (locOk st (entryWord e 3)) 0x13 (entryWord e 3)
      m.cmdNeed (locOk (st + 1) (entryWord e 2)) 0x13 (entryWord e 2)
      pure ({ c with pos := c.pos + 1 }, m, 0)
  else if k ≤ nb then
    let src := entryWord c.data 3
    let dst := entryWord c.data 2
    let (bytes, m) ← m.cmdRead c src (ptrOff src + 64 * (k - 1) : Nat) 64
    let m ← m.cmdWrite c dst (ptrOff dst + 64 * (k - 1) : Nat) bytes
    pure ({ c with pos := c.pos + 1 }, m, 64)
  else
    let st := descBits c.data 0 2
    let new := if drop then natLE 8 (descBits c.data 2 62 * 4 + 3) ++ c.data.drop 8
      else natLE 8 (descBits c.data 2 62 * 4 + st + 1) ++ (c.data.drop 8).take 8 ++ (c.data.drop 24).take 8 ++ (c.data.drop 16).take 8
    let m ← m.cmdWrite c p (off : Nat) new
    pure ({ c with pos := c.pos + 1 }, m, 32)

/-- One step of a transfer command, moving at most `lim` bytes. -/
def Mach.stepTransfer (m : Mach) (id : Nat) (c : Cmd) (lim : Nat) : Except CmdStop (Cmd × Mach × Nat) :=
  if !c.segs.isEmpty then m.stepSegs c lim
  else
    match c.op with
    | .tcpy | .tops _ | .tfil _ => m.stepCopy id c lim
    | .tlvl => m.stepLevel c lim
    | .tenc => m.stepEncode id c
    | .tpak => m.stepPack id c
    | .tunp => m.stepUnpack id c
    | .tcol grp op => m.stepCol id c grp op
    | .tkvf _ range _ => m.stepFetch c range lim
    | .tdrp _ range drop => m.stepDrop c range drop
    | _ => .error (.wait m)

/-! ## Walks in advance (R368) -/

/-- Of a run of bytes of a pointer's space that the address generator goes through from an offset on, the GLB addresses
whose pages it comes to next: where it stands, and where it leaves that page. -/
def Mach.runAhead (m : Mach) (c : Cmd) (p : Word) (a stop : Nat) : List Nat :=
  if ptrSpace p ≠ 0 then []
  else
    let leave := match tlbFind (m.tlb c.tlb) a with | some e => e.va + e.size | none => (a / 65536 + 1) * 65536
    [a, leave].filter (fun x => decide (x < stop))

/-- The same for the row an end of a command stands in, of which `at_` bytes are behind, and the next of its `rows` rows; `off`
gives the offset of a row. -/
def Mach.endAhead (m : Mach) (c : Cmd) (p : Word) (off : Nat → Int) (rows bytes at_ : Nat) : List Nat :=
  let r := c.pos / max 1 (c.set.x 0)
  m.runAhead c p ((off r).toNat + at_) ((off r).toNat + bytes) ++
  (if ptrSpace p = 0 ∧ r + 1 < rows then [(off (r + 1)).toNat] else [])

/-- Destination offset of a row of a gather: the rows of each member in turn (R312). -/
def Cmd.gatherOff (c : Cmd) (r : Nat) : Int :=
  let n := max 1 c.set.rows
  c.dstRowOff (r % n) + (r / n * (c.set.rows * c.set.x 0) : Nat)

/-- The offset of a source row as its indirect table stands (R302). -/
def Mach.peekRow (m : Mach) (c : Cmd) (r : Nat) : Int :=
  match c.owner, c.set.indEntry r with
  | .t g q, some (_, o, w) => c.set.indRow r (leNat (m.readLoc (.scr g q o) w))
  | _, _ => c.set.indRow r 0

/-- The GLB addresses that a command comes to next, each with whether it writes there: of its rows, or of its table of
entries and the blocks they name (R316, R318, R368). -/
def Mach.ahead (m : Mach) (c : Cmd) : List (Nat × Bool) :=
  let t := c.set
  let i := c.pos % max 1 (t.x 0)
  let part (n : Nat) : Nat := n * i / max 1 (t.x 0)
  let reads (l : List Nat) : List (Nat × Bool) := l.map (fun a => (a, false))
  let writes (l : List Nat) : List (Nat × Bool) := l.map (fun a => (a, true))
  let bb := kvBbytes c.desc
  let nb := bb / 64
  let entries (r : Word) (k : Nat) : List Nat :=
    m.runAhead c (kvEbase c.desc) (ptrOff (kvEbase c.desc) + 32 * (rangeFirst r + k)) (ptrOff (kvEbase c.desc) + 32 * (rangeFirst r + rangeCount r))
  let block (l : Word) (k : Nat) : List Nat := if k = 0 then [] else m.runAhead c l (ptrOff l + 64 * (k - 1)) (ptrOff l + bb)
  match c.op with
  | .tkvf _ range _ =>
    let n := rangeCount range
    let b := c.pos / (nb + 1)
    let k := c.pos % (nb + 1)
    let d := ptrOff t.dst
    let loc := match c.acc with | _ :: l :: 1 :: _ => block (BitVec.ofNat 64 l) k | _ => []
    reads (entries range (if k = 0 then b else b + 1)) ++ reads loc ++
      writes (m.runAhead c t.dst (d + if k = 0 then b else b + 1) (d + n)) ++
      writes (m.runAhead c t.dst (d + kvDoff c.desc + b * bb + 64 * (k - 1)) (d + kvDoff c.desc + n * bb))
  | .tdrp _ range drop =>
    let b := c.pos / (nb + 2)
    let k := c.pos % (nb + 2)
    let moved := !drop && decide (k ≤ nb)
    reads (entries range (if k = 0 then b else b + 1)) ++
      (if moved then reads (block (entryWord c.data 3) k) ++ writes (block (entryWord c.data 2) k) else [])
  | _ =>
    let s := c.op.srcRow t
    let d := c.op.dstRow t
    let src := match c.op with | .tfil _ => [] | _ => if c.read then [] else m.endAhead c t.src (m.peekRow c) t.rows s (part s)
    let dst := match c.op with
      | .tops _ => []
      | .tcol _ k => if k.getLsbD 0 then m.endAhead c t.dst c.gatherOff (c.units / max 1 (t.x 0)) d (part d)
        else m.endAhead c t.dst c.dstRowOff t.rows d (part d)
      | _ => m.endAhead c t.dst c.dstRowOff t.rows d (part d)
    reads src ++ writes dst

/-- While a command runs, its stream's TLB walks the pages it comes to next, after each of its moves (log entry 79). Such a walk
never counts, and a failure it meets is dropped (R368). -/
def Mach.walkAhead (m : Mach) (c : Cmd) : Mach :=
  if c.finished then m
  else (m.ahead c).foldl (fun m (a, wr) =>
    if (tlbFind (m.tlb c.tlb) a).isSome then m
    else match m.translate c.tlb c.vd a (if wr then .write else .read) with
      | .ok (_, m) => m
      | .error _ => m.walked c.tlb c.vd a) m

/-! ## Configuration words (R300, R301) -/

/-- A configuration word: its scalar, and the fields it writes. -/
def tconf (decls : List Decl) (g : BitVec 4) (f : State → TSet → TSet) (s : State) : Host.Outcome State Fault Refusal :=
  s.word decls (s.guard g) (fun s => .ok (s.updCore (fun c => { c with tset := f s c.tset })))

/-- TSRC. -/
def execTsrc (p : BitVec 6) (g : BitVec 4) (s : State) : Host.Outcome State Fault Refusal :=
  tconf (sn [p.toNat]) g (fun s t => { t with src := s.rd p.toNat }) s
/-- TDST. -/
def execTdst (p : BitVec 6) (g : BitVec 4) (s : State) : Host.Outcome State Fault Refusal :=
  tconf (sn [p.toNat]) g (fun s t => { t with dst := s.rd p.toNat }) s
/-- TDIM: extent, source stride or destination stride of a dimension. -/
def execTdim (dim what : BitVec 2) (a : BitVec 6) (imm : BitVec 12) (g : BitVec 4) (s : State) :
    Host.Outcome State Fault Refusal :=
  tconf (sn [a.toNat]) g (fun s t =>
    let v := s.rd a.toNat + imm.signExtend 64
    match what.toNat with
    | 0 => { t with ext := vset t.ext dim.toNat v }
    | 1 => { t with ss := vset t.ss (dim.toNat - 1) v }
    | _ => { t with ds := vset t.ds (dim.toNat - 1) v }) s
/-- TIND: s0 turns indirection off. -/
def execTind (dim : BitVec 2) (p : BitVec 6) (iw : BitVec 2) (g : BitVec 4) (s : State) : Host.Outcome State Fault Refusal :=
  tconf (sn [p.toNat]) g (fun s t => { t with ind := if p = 0 then none else some (dim, s.rd p.toNat, iw == 1) }) s
/-- TFMT. -/
def execTfmt (sty dty : BitVec 4) (j : BitVec 3) (flat sat : Bool) (rm : BitVec 2) (g : BitVec 4) (s : State) :
    Host.Outcome State Fault Refusal :=
  tconf [] g (fun _ t => { t with sty := sty, dty := dty, lvl := j, flat := flat, sat := sat, rm := rm }) s
/-- TSYN. -/
def execTsyn (acq rel : BitVec 3) (ben : Bool) (bid : BitVec 8) (tag : BitVec 7) (g : BitVec 4) (s : State) :
    Host.Outcome State Fault Refusal :=
  tconf (if ben then [.name (.bar bid.toNat)] else []) g
    (fun _ t => { t with acq := acq, rel := rel, ben := ben, bid := bid, tag := tag }) s

/-! ## GO words (R304, R305, R307) -/

/-- Whether a space is one of a list; SYS is left to check 4 (R304). -/
def spaceIn (l : List Nat) (p : Word) : Bool := l.contains (ptrSpace p) || ptrSpace p == 15

/-- A type dense or block. -/
def tyPlain (ty : BitVec 4) : Bool := tyDense ty.toNat || tyBlock ty.toNat

/-- Own scratchpad or GLB. -/
def ownOrGlb (rank : Nat) (p : Word) : Bool := ptrSpace p == 0 || (ptrSpace p == 1 && ptrRank p == rank) || ptrSpace p == 15

/-- Check 1 of R304: the table of R307. A TCOL of a core that is no member of its group fails it (DESIGN CHOICE, log entry
92). -/
def State.suits (s : State) (op : CmdOp) (t : TSet) : Bool :=
  let pair := (tyPlain t.sty && tyPlain t.dty) || (t.sty == 0xD && t.dty == 0xD)
  match op with
  | .tcpy => pair && spaceIn [0, 1, 2, 3] t.src && spaceIn [0, 1, 2, 3] t.dst
  | .tops _ =>
    let (lo, hi) := t.span t.ds 0 none
    pair && spaceIn [0, 1, 2] t.src && (t.rows == 0 || (decide (0 ≤ lo) && decide (hi + (op.dstRow t : Int) ≤ 8192)))
  | .tlvl => treeType t.sty.toNat && tyDense t.dty.toNat && spaceIn [0] t.src && spaceIn [0, 1, 2] t.dst
  | .tenc => tyDense t.sty.toNat && treeType t.dty.toNat && spaceIn [0, 1, 2] t.src && spaceIn [0] t.dst
  | .tpak =>
    let ds1 := (vget t.ds 0 0).toInt
    tyDense t.sty.toNat && t.dty == 0xE && spaceIn [0, 1, 2] t.src && spaceIn [0, 1, 2] t.dst &&
    ds1 % 16 == 0 && decide ((srlMax (t.x 0) (tyBytes t.sty.toNat) : Int) ≤ ds1)
  | .tunp => t.sty == 0xE && tyDense t.dty.toNat && spaceIn [0, 1, 2] t.src && spaceIn [0, 1, 2] t.dst
  | .tcol grp k =>
    let sums := t.sty == 0 || t.sty == 1 || t.sty == 2 || t.sty == 4 || t.sty == 5
    let types := if k.getLsbD 0 then t.sty == t.dty && tyPlain t.sty else sums && tyPlain t.dty
    if k.toNat < 2 then
      types && ownOrGlb s.rank t.src && ownOrGlb s.rank t.dst && (s.m.group s.cur grp.toNat).loupes == 0 &&
      s.m.inGroup s.cur (s.m.group s.cur grp.toNat)
    else types && spaceIn [0] t.src && spaceIn [0] t.dst && (s.m.vd s.vd).rings.any (fun r => r.1 == grp.toNat)
  | .tkvf _ _ _ => ownOrGlb s.rank t.dst
  | .tfil _ => spaceIn [0, 1, 2] t.dst
  | _ => true

/-- Members that a TCOL gathers from. -/
def State.colSize (s : State) (grp : BitVec 8) (op : BitVec 2) : Nat :=
  if op.toNat < 2 then
    match s.m.jobOf s.cur with
    | none => 1
    | some j => (s.m.groupCores j (s.m.group s.cur grp.toNat)).length
  else (((s.m.vd s.vd).rings.find? (fun r => r.1 == grp.toNat)).map (fun r => r.2.1)).getD 1

/-- Counted bytes (R306). -/
def State.counted (s : State) (op : CmdOp) (t : TSet) (h : List Byte) : Nat :=
  match op with
  | .tpak => t.rows * (t.x 0 * tyBytes t.sty.toNat)
  | .tunp => t.rows * (t.x 0 * tyBytes t.dty.toNat)
  | .tenc => t.rows * (t.x 0 * tyBytes t.dty.toNat)
  | .tcol grp k => (if k.getLsbD 0 then s.colSize grp k else 1) * (t.rows * op.dstRow t)
  | .tkvf _ r _ => rangeCount r * (1 + kvBbytes h)
  | .tdrp _ r _ => rangeCount r * 32
  | _ => t.rows * op.dstRow t

/-- The envelope of the source: pointer, lowest offset, bytes (R303). -/
def State.srcEnds (_s : State) (op : CmdOp) (t : TSet) : List (Word × Int × Nat) :=
  match op with
  | .tfil _ | .tkvf _ _ _ | .tdrp _ _ _ => []
  | _ =>
    if t.rows = 0 then [] else
      let (lo, hi) := t.span t.ss (ptrOff t.src) (t.ind.map (·.1))
      [(t.src, lo, (hi - lo).toNat + op.srcRow t)]

/-- The envelope of the destination. -/
def State.dstEnds (s : State) (op : CmdOp) (t : TSet) (h : List Byte) : List (Word × Int × Nat) :=
  match op with
  | .tops _ | .tdrp _ _ _ => []
  | .tkvf _ r _ =>
    let n := rangeCount r
    if n = 0 then [] else [(t.dst, ptrOff t.dst, if kvBbytes h = 0 then n else max n (kvDoff h + n * kvBbytes h))]
  | _ =>
    if t.rows = 0 then [] else
      let (lo, hi) := t.span t.ds (ptrOff t.dst) none
      let more := match op with
        | .tcol grp k => if k.getLsbD 0 then (s.colSize grp k - 1) * (t.rows * t.x 0) else 0
        | _ => 0
      [(t.dst, lo, (hi - lo).toNat + op.dstRow t + more)]

/-- The table of an indirect source, whatever the extents; of a command that has no such source none (R302). -/
def CmdOp.tableEnds (op : CmdOp) (t : TSet) : List (Word × Int × Nat) :=
  match op, t.ind with
  | .tfil _, _ | .tkvf _ _ _, _ | .tdrp _ _ _, _ | _, none => []
  | _, some (d, p, wide) => [(p, ptrOff p, t.x d.toNat * (if wide then 4 else 2))]

/-- Check 4 of R304 on an envelope. -/
def State.endOk (s : State) (e : Word × Int × Nat) : Except Stop Unit := do
  let (p, lo, n) := e
  checkUse s.m s.cur .t p lo n
  need (ptrSpace p != 3 || (s.m.vd s.vd).inWindow lo.toNat n) 0x03 p

/-- The latency figure L of R305 for the source of a command, by its pointer: of a GLB source that spans several pages, or is
indirect, the page of the pointer itself counts (DESIGN CHOICE, log entry 90). None while that page does not translate. -/
def Mach.latOf (m : Mach) (g r : Nat) (p : Word) : Option Nat :=
  match ptrSpace p with
  | 1 => some (if ptrRank p = r then 4 else 28)
  | 2 => some 96
  | 0 =>
    let leaf (e : TlbEntry) : Nat := pageLatency (m.clusterOf g).1 e.leaf
    match tlbFind (m.tlb (.t g r)) (ptrOff p), (m.gang? g).map (fun x => m.walk x.vd (ptrOff p)) with
    | some e, _ => some (leaf e)
    | none, some (.ok e) => some (leaf e)
    | none, _ => none
  | _ => some 7200

/-- The pointer of what a command reads; none when it reads nothing. -/
def CmdOp.lead (op : CmdOp) (t : TSet) (h : List Byte) : Option Word :=
  match op with
  | .tfil _ => none
  | .tkvf _ r _ | .tdrp _ r _ => if rangeCount r = 0 then none else some (kvEbase h)
  | _ => some t.src

/-- The pointers of a command's source and destination that are memory, whatever the extents (R304, check 4). -/
def CmdOp.ends (op : CmdOp) (t : TSet) : List Word :=
  (match op with | .tfil _ | .tkvf _ _ _ | .tdrp _ _ _ => [] | _ => [t.src]) ++
  (match op with | .tops _ | .tdrp _ _ _ => [] | _ => [t.dst])

/-- The barrier a command is bound to: index and generation (R292). -/
def State.bindBar (s : State) (ben : Bool) (bid : BitVec 8) : Except Stop (Option (Nat × BitVec 16)) := do
  if ben then
    let k := s.barIdx bid
    s.m.barOpen s.vd k
    let gen := (s.m.bar s.vd k).gen
    pure (some (k, if s.m.inPhase s.cur s.vd k bid.toNat then gen + 1 else gen))
  else pure none

/-- Commands of an owner in the table. -/
def Mach.cmdsOf (m : Mach) (o : Owner) : List (Nat × Cmd) := m.cmds.filter (fun p => p.2.owner == o)

/-- A command enters its queue: targets marked, start to come (R68, R305). -/
def State.enqueueCmd (s : State) (c : Cmd) (start : Nat) : State :=
  let (id, m) := s.m.newId
  let m := { m with cmds := m.cmds ++ [(id, { c with id := id })] }
  let m := c.targets.foldl (fun m t => m.updTarget t TagState.issue) m
  let (d, k) := s.m.clusterOf s.gno
  ({ s with m := m.schedule (.pulse d k) start (.transferStart id) }).updIss (fun i => { i with gos := i.gos ++ [(s.rank, id)] })

/-- A GO word whose guard is true (R304, R305). `h` holds the header of a KV command, and `bad` an in-flight fault that
its header, range or capture already calls for (R313, R315, R330). -/
def State.go (s : State) (op : CmdOp) (h : List Byte) (bad : Option (BitVec 8 × Word × BitVec 128)) : Except Stop State := do
  let t := s.core.tset
  await (decide ((s.m.cmdsOf (.t s.gno s.rank)).length < 4)) .queueFull
  need (s.suits op t) 0x13 t.src
  let kv := match op with | .tkvf _ _ _ | .tdrp _ _ _ => true | _ => false
  let bytes := s.counted op t h
  need (t.ext.toList.all (fun e => decide (e.toNat ≤ 2 ^ 20)) && decide (bytes ≤ 2 ^ 20)) 0x13 t.src
  let bar ← s.bindBar t.ben t.bid
  let src := s.srcEnds op t
  let dst := s.dstEnds op t h
  let tab := op.tableEnds t
  (src ++ dst ++ tab).forM (fun e => s.endOk e)
  (op.ends t).forM (fun p => need (ptrSpace p != 15) 0x03 p)
  need (tab.all (fun e => ptrSpace e.1 == 1 && ptrRank e.1 == s.rank)) 0x03 ((tab.head?.map (·.1)).getD 0)
  let even (base a : Nat) (v : Vector Word 3) : Bool := base % a == 0 && v.toList.all (fun x => x.toInt % a == 0)
  if !kv then
    need ((match op with | .tfil _ => true | _ => false) || even (ptrOff t.src) (op.srcAlign t) t.ss) 0x06 t.src
    need (even (match op with | .tops _ => 0 | _ => ptrOff t.dst) (op.dstAlign t) t.ds) 0x06 t.dst
  (src ++ dst ++ (if src.isEmpty then [] else tab)).forM (fun (p, lo, n) => need (ptrSpace p != 1 || !beyond s.hdr lo.toNat n) 0x02 p)
  let slot := match op with | .tops n => some n.toNat | _ => none
  need (match slot with | none => true | some n => (vget s.quadThen.slot n {}).claimed) 0x0E
  let targets := (dst.flatMap (fun (p, lo, n) => if ptrSpace p = 1 then (granules lo.toNat n).map (fun k => Target.gran s.gno (ptrRank p) k) else [])) ++
    (match slot with | none => [] | some n => [Target.slot s.gno (s.rank / 4) n])
  let (d, k) := s.m.clusterOf s.gno
  let start := s.m.pulses d k + 16 + (if tab.isEmpty then 0 else 12)
  let lat := match op.lead t h with | none => some 0 | some p => s.m.latOf s.gno s.rank p
  let L := lat.getD 0
  let own (p : Word) : Bool := ptrSpace p == 1 && ptrRank p == s.rank
  let exact := (op.ends t).length == 2 && own t.src && own t.dst
  let none_ := match op with | .tkvf _ r _ | .tdrp _ r _ => rangeCount r == 0 | _ => false
  let units := match op with
    | .tkvf _ r _ => rangeCount r * (kvBbytes h / 64 + 1)
    | .tdrp _ r _ => rangeCount r * (kvBbytes h / 64 + 2)
    | .tcol _ _ => 1
    | _ => t.rows * t.x 0
  let nth := match op with | .tcol grp k => (tget s.core.tcols (colKey grp k)).getD 0 | _ => 0
  let c : Cmd := {
    owner := .t s.gno s.rank, op := op, set := t, vd := s.vd, job := s.gang.job, goix := s.regs.pc, targets := targets
    tag := t.tag.zeroExtend 16, rel := t.rel, acq := t.acq, bytes := bytes, bar := bar
    moves := start + L, late := lat.isNone
    bound := start + L + (bytes + 255) / 256 + (if exact || none_ then 0 else s.m.draw 20), exact := exact, units := units
    err := bad, snap := s.snap, icnt := s.interval, ec := s.ec, nth := nth, desc := h }
  let s := match op with
    | .tcol grp k => s.updCore (fun c => { c with tcols := Machine.tset c.tcols (colKey grp k) (nth + 1) })
    | _ => s
  pure (s.enqueueCmd c start)

/-- A GO word without operands of its own. -/
def go (op : CmdOp) (decls : List Decl) (g : BitVec 4) (s : State) : Host.Outcome State Fault Refusal :=
  s.word decls (s.guard g) (fun s => s.go op [] none)

/-- TCPY. -/
def execTcpy (g : BitVec 4) (s : State) : Host.Outcome State Fault Refusal := go .tcpy [] g s
/-- TLVL. -/
def execTlvl (g : BitVec 4) (s : State) : Host.Outcome State Fault Refusal := go .tlvl [] g s
/-- TENC. -/
def execTenc (g : BitVec 4) (s : State) : Host.Outcome State Fault Refusal := go .tenc [] g s
/-- TPAK. -/
def execTpak (g : BitVec 4) (s : State) : Host.Outcome State Fault Refusal := go .tpak [] g s
/-- TUNP. -/
def execTunp (g : BitVec 4) (s : State) : Host.Outcome State Fault Refusal := go .tunp [] g s
/-- TCOL; a group is a counted name, a ring is not. -/
def execTcol (grp : BitVec 8) (op : BitVec 2) (g : BitVec 4) (s : State) : Host.Outcome State Fault Refusal :=
  go (.tcol grp op) (if op.toNat < 2 then [.name (.grp grp.toNat)] else []) g s
/-- TOPS. -/
def execTops (slot : BitVec 8) (g : BitVec 4) (s : State) : Host.Outcome State Fault Refusal :=
  go (.tops slot) [.name (.slot slot.toNat)] g s
/-- TFIL. -/
def execTfil (p : BitVec 6) (g : BitVec 4) (s : State) : Host.Outcome State Fault Refusal :=
  s.word (sn [p.toNat]) (s.guard g) (fun s => s.go (.tfil (s.rd p.toNat)) [] none)

/-- The header a KV word names: captured before, or read now by the T stream, checked as an access of its command (R275,
R313, R325); with the report of that check, which the command meets in flight (R330). -/
def State.kvHeader (s : State) (p : Word) : Except Stop (List Byte × Option (BitVec 8 × Word × BitVec 128) × State) := do
  need (ptrSpace p == 0) 0x03 p
  let r ← s.reach .t (.t s.gno s.rank) p (ptrOff p) 64 64 .read
  noTree r p
  match tget s.core.kv (ptrOff p) with
  | some h => pure (h, none, s)
  | none =>
    let m := r.m.observe (.agent s.cur) none r.loc 64
    let h := m.readLoc r.loc 64
    let q := s.entry r p 0 0 0 (.load 64 0 0)
    let (m, rep) := match q.raceOf m with
      | none => (m, none)
      | some (x, u, ptr) =>
        let (m, e) := m.raceAccess { x with kind := 2 } u ptr
        (m, e.map (fun e => (e.1, p, e.2)))
    let s : State := { s with m := m }
    pure (h, rep, s.updCore (fun c => { c with kv := Machine.tset c.kv (ptrOff p) h }))

/-- A KV word: its header, and its command (R313, R315). -/
def kvGo (p r : BitVec 6) (g : BitVec 4) (op : Word → Word → CmdOp) (s : State) : Host.Outcome State Fault Refusal :=
  s.word (sn [p.toNat, r.toNat]) (s.guard g) (fun s => do
    await (decide ((s.m.cmdsOf (.t s.gno s.rank)).length < 4)) .queueFull
    let hdr := s.rd p.toNat
    let range := s.rd r.toNat
    let (h, rep, s) ← s.kvHeader hdr
    s.go (op hdr range) h (rep <|> (if kvOk h && rangeOk h range then none else some (0x13, hdr, 0))))

/-- TKVF (R315, R316). -/
def execTkvf (p r : BitVec 6) (pk : BitVec 3) (g : BitVec 4) (s : State) : Host.Outcome State Fault Refusal :=
  kvGo p r g (fun hdr range => .tkvf hdr range pk) s

/-- TDRP (R315, R318). -/
def execTdrp (p r : BitVec 6) (drop : Bool) (g : BitVec 4) (s : State) : Host.Outcome State Fault Refusal :=
  kvGo p r g (fun hdr range => .tdrp hdr range drop) s

/-! ## Events of a command (R272, R305) -/

/-- Whether an M command that issued before an acquiring command of its core still has stores to make (R272). -/
def Mach.storesOwed (m : Mach) (c : Cmd) : Bool :=
  match c.owner with
  | .t g r => c.acq != 7 && (m.beatsOf g r).any (fun b => decide (b.issue < c.ec) && (match b.op with | .mdrn _ _ | .lstp _ _ _ _ => true | _ => false))
  | .l _ _ _ => false

/-- What stands before the next move of a T command: with its acquire flag every access that its core's streams made before the
GO word. It waits for the stores that M commands owe; of a frozen gang, which issues none of them, they are made now (R272; log
entry 80). None while it waits. -/
def Mach.beforeMove (m : Mach) (c : Cmd) : Option Mach :=
  match c.owner with
  | .l _ _ _ => some m
  | .t g r =>
    if c.acq = 7 then some m
    else if m.storesOwed c && (m.gang? g).any (fun x => x.run == .running && x.causes.isEmpty) then none
    else some (m.acquireAt g r c.ec)

/-- Whether a command has begun. -/
def Mach.cmdStarted (m : Mach) (id : Nat) : Bool := ((tget m.cmds id).map (·.started)).getD false

/-- A line that a command's read cannot get corrected is logged (R411). -/
def Mach.logCmd (m : Mach) (id : Nat) (cause : BitVec 8) (p : Word) : Mach :=
  if cause != 0x10 || ptrSpace p != 0 then m
  else
    match tget m.cmds id with
    | none => m
    | some c => match m.walk c.vd (ptrOff p) with
      | .ok t => m.logBad (t.loc (ptrOff p)) 1
      | .error _ => m

/-- A command's stop noted: a page fault halts it, another fault ends it (R319, R320). What the walks of its last step have
captured stays (R367). -/
def Mach.cmdStopped (m : Mach) (id : Nat) : CmdStop → Mach
  | .full => m
  | .wait k => m.walksOf k
  | .held l n k => (m.walksOf k).trapFor l n
  | .halt va w k => ((m.walksOf k).updCmd id (fun c => { c with halted := some (va, w) })).schedule .mc m.time (.commandHalt id va)
  | .fault e a r k => (((m.walksOf k).logCmd id e a).updCmd id (fun c =>
      { c with err := some (e, a, r) })).schedule .mc m.time (.transferFault id e)

/-- Whether a command is the oldest of its owner. -/
def Mach.oldest (m : Mach) (id : Nat) (c : Cmd) : Bool := ((m.cmdsOf c.owner).head?.map (·.1)) == some id

/-- TRANSFER_START: the command begins; its acquire, or the order of R271 alone, comes before its first read (R272). TKVF
reads its length (R316); a command with nothing to do, the oldest of its stream, completes (R315). -/
def execTransferStart (id : Nat) (s : State) : Host.Outcome State Fault Refusal :=
  match tget s.m.cmds id with
  | none => .fault .notEnabled
  | some c =>
    match c.owner with
    | .l _ _ _ => .fault .notEnabled
    | .t g r =>
      let m := if c.acq != 7 then s.m.flushCore g r c.ec else s.m.settleBank g r 0
      let m := m.updCmd id (fun c => { c with started := true })
      let c := { c with started := true }
      let (d, k) := m.clusterOf g
      let m := match c.err, c.op with
        | some e, _ => m.schedule .mc m.time (.transferFault id e.1)
        | none, .tkvf _ range _ =>
          if rangeCount range = 0 || m.storesOwed c then m
          else match m.fetchLength c with
            | .ok (c, m) => m.updCmd id (fun _ => c)
            | .error e => m.cmdStopped id e
        | none, _ => m
      let m := if c.err.isNone && c.units == 0 && c.bound ≤ m.pulses d k && m.oldest id c
        then m.schedule (.pulse d k) (m.pulses d k) (.transferComplete id) else m
      event (!s.m.cmdStarted id) m s

/-- TRANSFER_COMPLETE: a finished command, the oldest of its stream, delivers its completion (R68, R305); TKVF writes its
predicate (R316). -/
def execTransferComplete (id : Nat) (s : State) : Host.Outcome State Fault Refusal :=
  match tget s.m.cmds id with
  | none => .fault .notEnabled
  | some c =>
    match c.owner with
    | .l _ _ _ => .fault .notEnabled
    | .t g r =>
      let m := s.m.cmdDone id c
      let m := match c.op with
        | .tkvf _ _ pk => m.updCore g r (fun k => { k with seq := { k.seq with
            pend := k.seq.pend ++ [{ pend0 with due := ((m.gang? g).map (·.cyc)).getD 0, strm := .t, pc := c.goix
                                                writes := [.p pk.toNat (c.result != 0)] }] } })
        | _ => m
      event (c.finished && s.m.oldest id c) m s

end Sys2Proof.Machine
end

