-- ==== Sys2Proof/Machine/Uses.lean ====
section
/-! DEFINITION. What a word of a Loupe program names: the scalars it waits for while a load or a LOUPE command still has
to write them (R46), and whether it waits for earlier LOUPE commands (R337). -/
namespace Sys2Proof.Machine

/-- The scalar codes a word names. -/
def scalarsOf (i : Instr) : List Nat :=
  match i with
  | .add d a b _ _ => [d.toNat, a.toNat, b.toNat]
  | .sub d a b _ _ => [d.toNat, a.toNat, b.toNat]
  | .and d a b _ _ => [d.toNat, a.toNat, b.toNat]
  | .or d a b _ _ => [d.toNat, a.toNat, b.toNat]
  | .xor d a b _ _ => [d.toNat, a.toNat, b.toNat]
  | .andn d a b _ _ => [d.toNat, a.toNat, b.toNat]
  | .min d a b _ _ => [d.toNat, a.toNat, b.toNat]
  | .max d a b _ _ => [d.toNat, a.toNat, b.toNat]
  | .minn d a b _ _ => [d.toNat, a.toNat, b.toNat]
  | .maxn d a b _ _ => [d.toNat, a.toNat, b.toNat]
  | .shl d a b _ _ => [d.toNat, a.toNat, b.toNat]
  | .shr d a b _ _ => [d.toNat, a.toNat, b.toNat]
  | .sar d a b _ _ => [d.toNat, a.toNat, b.toNat]
  | .rotr d a b _ _ => [d.toNat, a.toNat, b.toNat]
  | .clz d a _ _ => [d.toNat, a.toNat]
  | .popc d a _ _ => [d.toNat, a.toNat]
  | .mul d a b _ _ => [d.toNat, a.toNat, b.toNat]
  | .mulh d a b _ _ => [d.toNat, a.toNat, b.toNat]
  | .mulhn d a b _ _ => [d.toNat, a.toNat, b.toNat]
  | .div d a b _ _ => [d.toNat, a.toNat, b.toNat]
  | .divn d a b _ _ => [d.toNat, a.toNat, b.toNat]
  | .rem d a b _ _ => [d.toNat, a.toNat, b.toNat]
  | .remn d a b _ _ => [d.toNat, a.toNat, b.toNat]
  | .cmp _ a b _ _ => [a.toNat, b.toNat]
  | .ptos d _ _ => [d.toNat]
  | .stop a _ => [a.toNat]
  | .ptrmk d a b _ _ => [d.toNat, a.toNat, b.toNat]
  | .ptrsp d a _ _ => [d.toNat, a.toNat]
  | .ptrrk d a _ _ => [d.toNat, a.toNat]
  | .ptrof d a _ _ => [d.toNat, a.toNat]
  | .ptradd d a b _ _ => [d.toNat, a.toNat, b.toNat]
  | .fadd d a b _ _ => [d.toNat, a.toNat, b.toNat]
  | .fsub d a b _ _ => [d.toNat, a.toNat, b.toNat]
  | .fmul d a b _ _ => [d.toNat, a.toNat, b.toNat]
  | .ffma d a b _ _ => [d.toNat, a.toNat, b.toNat]
  | .fmin d a b _ _ => [d.toNat, a.toNat, b.toNat]
  | .fmax d a b _ _ => [d.toNat, a.toNat, b.toNat]
  | .fdiv d a b _ _ => [d.toNat, a.toNat, b.toNat]
  | .fsqrt d a _ _ => [d.toNat, a.toNat]
  | .cvtif d a _ _ => [d.toNat, a.toNat]
  | .cvtnf d a _ _ => [d.toNat, a.toNat]
  | .cvtfi d a _ _ => [d.toNat, a.toNat]
  | .cvtfiz d a _ _ => [d.toNat, a.toNat]
  | .fcmpLt _ a b _ => [a.toNat, b.toNat]
  | .fcmpLe _ a b _ => [a.toNat, b.toNat]
  | .fcmpEq _ a b _ => [a.toNat, b.toNat]
  | .addi d a _ _ => [d.toNat, a.toNat]
  | .andi d a _ _ => [d.toNat, a.toNat]
  | .ori d a _ _ => [d.toNat, a.toNat]
  | .xori d a _ _ => [d.toNat, a.toNat]
  | .shli d a _ _ => [d.toNat, a.toNat]
  | .shri d a _ _ => [d.toNat, a.toNat]
  | .sari d a _ _ => [d.toNat, a.toNat]
  | .cmpi _ a _ _ _ => [a.toNat]
  | .lim d _ _ => [d.toNat]
  | .lih d _ _ => [d.toNat]
  | .ptri d a _ _ => [d.toNat, a.toNat]
  | .lscr d _ _ => [d.toNat]
  | .ldb d a _ _ _ _ _ => [d.toNat, a.toNat]
  | .ldbn d a _ _ _ _ _ => [d.toNat, a.toNat]
  | .ldh d a _ _ _ _ _ => [d.toNat, a.toNat]
  | .ldhn d a _ _ _ _ _ => [d.toNat, a.toNat]
  | .ldw d a _ _ _ _ _ => [d.toNat, a.toNat]
  | .ldwn d a _ _ _ _ _ => [d.toNat, a.toNat]
  | .ldd d a _ _ _ _ _ => [d.toNat, a.toNat]
  | .stb d a _ _ _ _ _ => [d.toNat, a.toNat]
  | .sth d a _ _ _ _ _ => [d.toNat, a.toNat]
  | .stw d a _ _ _ _ _ => [d.toNat, a.toNat]
  | .std d a _ _ _ _ _ => [d.toNat, a.toNat]
  | .ldl d a _ _ _ _ _ => [d.toNat, a.toNat]
  | .aadd d a b _ _ _ => [d.toNat, a.toNat, b.toNat]
  | .amin d a b _ _ _ => [d.toNat, a.toNat, b.toNat]
  | .amax d a b _ _ _ => [d.toNat, a.toNat, b.toNat]
  | .aminn d a b _ _ _ => [d.toNat, a.toNat, b.toNat]
  | .amaxn d a b _ _ _ => [d.toNat, a.toNat, b.toNat]
  | .aand d a b _ _ _ => [d.toNat, a.toNat, b.toNat]
  | .aor d a b _ _ _ => [d.toNat, a.toNat, b.toNat]
  | .aswap d a b _ _ _ => [d.toNat, a.toNat, b.toNat]
  | .casW d a b _ _ _ => [d.toNat, a.toNat, b.toNat]
  | .casD d a b _ _ _ => [d.toNat, a.toNat, b.toNat]
  | .jmpr _ _ t l => [t.toNat, l.toNat]
  | .call _ _ _ => [1]
  | .lset _ _ c _ _ => [c.toNat]
  | .barInit _ _ _ sc => [sc.toNat]
  | .barExpb _ _ _ sc => [sc.toNat]
  | .mfsr _ _ d _ => [d.toNat]
  | .mtsr _ _ a _ => [a.toNat]
  | .tlbi _ _ a => [a.toNat]
  | .dinv _ _ a => [a.toNat]
  | .csave _ _ a => [a.toNat]
  | .lhash _ _ d a b => [d.toNat, a.toNat, b.toNat]
  | .lgath _ _ d a b => [d.toNat, a.toNat, b.toNat]
  | .lpool _ _ d a b => [d.toNat, a.toNat, b.toNat]
  | .lscat _ _ d a b => [d.toNat, a.toNat, b.toNat]
  | .lhand _ _ d a b => [d.toNat, a.toNat, b.toNat]
  | _ => []

/-- A load, store, AMO, CAS, FENCE, BAR word or LOUPE word (R337). -/
def waitsForCommands (i : Instr) : Bool :=
  match i with
  | .ldb _ _ _ _ _ _ _ | .ldbn _ _ _ _ _ _ _ | .ldh _ _ _ _ _ _ _ | .ldhn _ _ _ _ _ _ _ | .ldw _ _ _ _ _ _ _
  | .ldwn _ _ _ _ _ _ _ | .ldd _ _ _ _ _ _ _ | .stb _ _ _ _ _ _ _ | .sth _ _ _ _ _ _ _ | .stw _ _ _ _ _ _ _
  | .std _ _ _ _ _ _ _ | .ldl _ _ _ _ _ _ _ | .aadd _ _ _ _ _ _ | .amin _ _ _ _ _ _ | .amax _ _ _ _ _ _
  | .aminn _ _ _ _ _ _ | .amaxn _ _ _ _ _ _ | .aand _ _ _ _ _ _ | .aor _ _ _ _ _ _ | .aswap _ _ _ _ _ _
  | .casW _ _ _ _ _ _ | .casD _ _ _ _ _ _ | .fence _ _ _ _ | .barInit _ _ _ _ | .barExpb _ _ _ _ | .barArv _ _ _ _
  | .barWait _ _ _ _ | .barAw _ _ _ _ | .lhash _ _ _ _ _ | .lgath _ _ _ _ _ | .lpool _ _ _ _ _ | .lscat _ _ _ _ _
  | .lhand _ _ _ _ _ => true
  | _ => false

end Sys2Proof.Machine
end

