-- ==== Sys2Proof/Machine/Loupe.lean ====
section
/-! DEFINITION. Loupe cores (R333-R345): the five LOUPE words with their checks, how a LOUPE command goes on access by
access, its completion, and which context of a core has a word ready. -/
namespace Sys2Proof.Machine

/-! ## Launching a command (R338) -/

/-- A LOUPE word: illegal on a gang core, otherwise a word that names three scalars (R338). -/
def loupeWord (g : BitVec 4) (n : Bool) (d a b : BitVec 6) (body : State → Except Stop State) (s : State) :
    Host.Outcome State Fault Refusal :=
  match s.cur with
  | .core _ _ _ => if (s.m.seq? s.cur).isSome then .next (s.raise { cause := 0x01 }) else .fault .noAgent
  | .loupe _ _ _ => s.word (sn [d.toNat, a.toNat, b.toNat]) (s.guard g n) body

/-- A pointer of a register (step 1 of R338) or of a descriptor (step 3): its space, then steps 1 to 4 of R19. -/
def State.lptr (s : State) (spaces : List Nat) (bad : BitVec 8) (p : Word) (size : Nat) : Except Stop Unit := do
  need (spaces.contains (ptrSpace p)) bad p
  checkUse s.m s.cur .l p (ptrOff p) size

def aligned (p : Word) (n : Nat) : Except Stop Unit := need (ptrOff p % n == 0) 0x06 p

/-- A pointer field of a descriptor with its alignment. -/
def State.lfield (s : State) (spaces : List Nat) (p : Word) (size align : Nat) : Except Stop Unit := do
  s.lptr spaces 0x13 p size
  aligned p align

/-- Bytes of the own partition that the word reads at issue (R337, R338). -/
def State.lread (s : State) (p : Word) (n : Nat) : List Byte := s.m.readLoc (s.m.place s.cur 2 (ptrRank p) (ptrOff p)) n

/-- n words of 4 bytes. -/
def words4 (bs : List Byte) : List Nat := (List.range (bs.length / 4)).map (fun k => leNat ((bs.drop (4 * k)).take 4))

/-- The context of the word. -/
def State.lctx (s : State) : Owner := match s.cur with | .loupe d i c => .l d i c | .core g r _ => .t g r

/-- A command enters the memory path: its stores wait no longer, its first access comes at a drawn time (R337, R338). -/
def State.llaunch (s : State) (c : Cmd) : State :=
  let (id, m) := (s.m.flushWho (.agent s.cur)).newId
  let c := { c with owner := s.lctx, vd := s.vd, job := s.m.jobNo s.cur, goix := s.regs.pc, started := true, moves := m.time + m.draw 21 }
  let m := { m with cmds := m.cmds ++ [(id, { c with id := id })] }
  { s with m := c.targets.foldl (fun m t => m.updTarget t TagState.issue) m }

/-- The physical register a result goes to. -/
def State.ldst (s : State) (d : BitVec 6) : Nat := physS s.regs.rrb d.toNat

/-- Steps of R338 before any access: earlier stores of the context have committed when its memory is read. -/
def State.lready (s : State) : State := { s with m := s.m.flushWho (.agent s.cur) }

/-! ## LHASH (R339) -/

/-- The hash of a key in a table of 2^c slots. -/
def hashOf (key : Word) (c : Nat) : Nat := ((key * 0x9E3779B97F4A7C15#64).toNat) / 2 ^ (64 - c)

/-- The slots of a table in a Loupe partition that the probes of a key reach from probe 8 - n on, as the table stands: each
lies within the partition, or the word faults (R19, R333). -/
def State.lprobes (s : State) (ent key : Word) (lc : Nat) : Nat → Except Stop Unit
  | 0 => .ok ()
  | n + 1 =>
    if ptrSpace ent ≠ 2 then .ok ()
    else
      let o := ptrOff ent + 8 * ((hashOf key lc + (7 - n)) % 2 ^ lc)
      match checkUse s.m s.cur .l ent o 8 with
      | .error e => .error e
      | .ok _ =>
        let old := BitVec.ofNat 64 (leNat (s.lread (ptrAt ent o) 8))
        if old = key ∨ old = BitVec.allOnes 64 then .ok () else s.lprobes ent key lc n

/-- LHASH (R339). -/
def execLhash (g : BitVec 4) (n : Bool) (d a b : BitVec 6) (s : State) : Host.Outcome State Fault Refusal :=
  loupeWord g n d a b (fun s => do
    let s := s.lready
    let p := s.rd a.toNat
    s.lptr [2] 0x03 p 16
    aligned p 16
    let h := s.lread p 16
    s.lfield [0, 2] (BitVec.ofNat 64 (descBits h 64 64)) 8 8
    let c := descBits h 0 6
    need (descBits h 7 57 == 0 && decide (1 ≤ c) && decide (c ≤ 30)) 0x13 p
    let key := s.rd b.toNat
    s.lprobes (BitVec.ofNat 64 (descBits h 64 64)) key c (if key = BitVec.allOnes 64 then 0 else 8)
    pure (s.llaunch { owner := s.lctx, op := .lhash p key, vd := 0, job := 0, desc := h, dreg := s.ldst d
                      units := if key = BitVec.allOnes 64 then 0 else 8, result := BitVec.allOnes 64 })) s

/-! ## Row commands (R340, R341) -/

def rowDst (h : List Byte) : Word := BitVec.ofNat 64 (descBits h 192 64)
def rowBase (h : List Byte) : Word := BitVec.ofNat 64 (descBits h 128 64)
def rowList (h : List Byte) : Word := BitVec.ofNat 64 (descBits h 64 64)
/-- Bytes of a row. -/
def rowLen (h : List Byte) : Nat := 4 * descBits h 32 16
def rowN (h : List Byte) : Nat := descBits h 0 16
/-- Step 4 of R338 for a row descriptor. -/
def rowFieldsOk (h : List Byte) : Bool :=
  descBits h 48 16 == 0 && descBits h 16 16 == 0 && decide (4 ≤ rowLen h) && decide (rowLen h ≤ 4096) && decide (rowN h ≤ 4096)

/-- Pieces that a row is moved in, those of its granules: as many as a row can meet, BASE being 64-byte aligned. -/
def rowPieces (h : List Byte) : Nat := if rowLen h % 64 = 0 then rowLen h / 64 else rowLen h / 64 + 2
/-- Where piece q of row x begins in the row, and its bytes: none for a granule that the row does not meet. -/
def pieceOff (h : List Byte) (x q : Nat) : Nat := 64 * q - x * rowLen h % 64
def pieceLen (h : List Byte) (x q : Nat) : Nat := min (rowLen h) (64 * (q + 1) - x * rowLen h % 64) - pieceOff h x q

/-- The indices of a list from entry `first` on, each row of an LPE table within the space and the partition (R333,
R341). -/
def State.lindices (s : State) (h : List Byte) (first n : Nat) : Except Stop (List Nat) := do
  let l := (words4 (s.lread (rowList h) (4 * n))).drop first
  if ptrSpace (rowBase h) = 2 then
    let last (x : Nat) := ptrOff (rowBase h) + (x + 1) * rowLen h
    need (l.all (fun x => decide (last x ≤ 2 ^ 18))) 0x13 (rowBase h)
    let size := ((s.m.partition s.vd (s.m.dieOf s.cur) (ptrRank (rowBase h))).map (·.2)).getD 0
    need (l.all (fun x => decide (last x ≤ size))) 0x05 (rowBase h)
  pure l

/-- LGATH (R341). -/
def execLgath (g : BitVec 4) (n : Bool) (d a b : BitVec 6) (s : State) : Host.Outcome State Fault Refusal :=
  loupeWord g n d a b (fun s => do
    let s := s.lready
    let p := s.rd a.toNat
    s.lptr [2] 0x03 p 32
    aligned p 32
    let h := s.lread p 32
    s.lfield [2] (rowDst h) (rowLen h * rowN h) 1
    s.lfield [0, 2] (rowBase h) 1 64
    s.lfield [2] (rowList h) (4 * rowN h) 4
    need (rowFieldsOk h) 0x13 p
    need (s.rd b.toNat == 0) 0x13 p
    let l ← s.lindices h 0 (rowN h)
    let rows := l.eraseDups
    need (decide (rows.length * rowLen h ≤ 2 ^ 20)) 0x13 p
    pure (s.llaunch { owner := s.lctx, op := .lgath p, vd := 0, job := 0, desc := h, acc := l, dreg := s.ldst d
                      units := rows.length * rowPieces h, result := BitVec.ofNat 64 rows.length })) s

/-- LPOOL: `acc` holds the N + 1 offsets, then the indices from the first one named (R341). -/
def execLpool (g : BitVec 4) (n : Bool) (d a b : BitVec 6) (s : State) : Host.Outcome State Fault Refusal :=
  loupeWord g n d a b (fun s => do
    let s := s.lready
    let p := s.rd a.toNat
    let q := s.rd b.toNat
    s.lptr [2] 0x03 p 32
    let h := s.lread p 32
    s.lptr [2] 0x03 q (4 * (rowN h + 1))
    aligned p 32
    aligned q 4
    let offs := words4 (s.lread q (4 * (rowN h + 1)))
    let last := offs.getLastD 0
    s.lfield [2] (rowDst h) (rowLen h * rowN h) 1
    s.lfield [0, 2] (rowBase h) 1 64
    s.lfield [2] (rowList h) (if offs.headD 0 < last then 4 * last else 0) 4
    need (rowFieldsOk h) 0x13 p
    need ((List.zip offs (offs.drop 1)).all (fun (x, y) => decide (x ≤ y))) 0x13 q
    let l ← s.lindices h (offs.headD 0) last
    need (decide (l.eraseDups.length * rowLen h ≤ 2 ^ 20)) 0x13 p
    pure (s.llaunch { owner := s.lctx, op := .lpool p q, vd := 0, job := 0, desc := h, acc := offs ++ l, dreg := s.ldst d
                      units := (l.eraseDups.length + rowN h) * rowPieces h, result := BitVec.ofNat 64 (rowN h) })) s

/-- LSCAT (R341, R342). -/
def execLscat (g : BitVec 4) (n : Bool) (d a b : BitVec 6) (s : State) : Host.Outcome State Fault Refusal :=
  loupeWord g n d a b (fun s => do
    let s := s.lready
    let p := s.rd a.toNat
    let q := s.rd b.toNat
    s.lptr [2] 0x03 p 32
    let h := s.lread p 32
    s.lptr [2] 0x03 q (rowN h * rowLen h)
    aligned p 32
    aligned q 4
    need (rowDst h == 0) 0x13 p
    s.lfield [0, 2] (rowBase h) 1 64
    s.lfield [2] (rowList h) (4 * rowN h) 4
    need (rowFieldsOk h) 0x13 p
    let l ← s.lindices h 0 (rowN h)
    need (decide (rowN h * rowLen h ≤ 2 ^ 20)) 0x13 p
    pure (s.llaunch { owner := s.lctx, op := .lscat p q, vd := 0, job := 0, desc := h, acc := l, dreg := s.ldst d
                      units := rowN h * rowPieces h, result := BitVec.ofNat 64 (rowN h) })) s

/-! ## LHAND (R343, R344) -/

def handNb (c : Word) : Nat := (fld c 36 21).toNat
def handSco (c : Word) : BitVec 3 := fld c 25 3
def handBen (c : Word) : Bool := bit c 24
def handBid (c : Word) : BitVec 8 := fld c 16 8
def handTag (c : Word) : BitVec 16 := fld c 0 16

/-- LHAND (R343, R344). D names the control scalar. With NB = 0 it completes at once. -/
def execLhand (g : BitVec 4) (n : Bool) (d a b : BitVec 6) (s : State) : Host.Outcome State Fault Refusal :=
  loupeWord g n d a b (fun s => do
    let s := s.lready
    let src := s.rd a.toNat
    let dst := s.rd b.toNat
    let ctl := s.rd d.toNat
    let nb := handNb ctl
    let gang := s.m.gangOf (s.m.jobNo s.cur) (handGang ctl)
    s.lptr [2] 0x03 src nb
    need (ptrSpace dst == 1) 0x03 dst
    need (match gang with
      | none => false
      | some k => decide (ptrRank dst < ((s.m.gang? k).map (fun x => x.cores.length)).getD 0)) 0x03 dst
    need (decide (ptrOff dst + nb ≤ 2 ^ 21)) 0x03 dst
    aligned src 64
    aligned dst 64
    need (fld ctl 57 7 == 0 && nb % 64 == 0 && decide (nb ≤ 2 ^ 20) && handSco ctl != 6 && (handBen ctl || handBid ctl == 0)) 0x13 ctl
    need (!beyond s.hdr (ptrOff dst) nb) 0x02 dst
    need (!handBen ctl || decide ((handBid ctl).toNat < s.hdr.nbar)) 0x02 dst
    let bar ← s.bindBar (handBen ctl) (handBid ctl)
    let k := gang.getD 0
    let s := s.llaunch {
      owner := s.lctx, op := .lhand src dst ctl, vd := 0, job := 0, tag := handTag ctl, rel := handSco ctl, bytes := nb, bar := bar
      targets := (granules (ptrOff dst) nb).map (fun q => .gran k (ptrRank dst) q), units := nb / 64 }
    pure (match s.m.cmds.getLast? with
      | some (id, _) => if nb = 0 then { s with m := s.m.schedule .mc s.m.time (.lhandComplete id) } else s
      | none => s)) s

/-! ## A command's accesses -/

/-- One probe of LHASH: a read, or a CAS expecting an empty slot (R339). -/
def Mach.stepHash (m : Mach) (c : Cmd) (key : Word) : Except CmdStop (Cmd × Mach) := do
  let lc := descBits c.desc 0 6
  let ins := descBits c.desc 6 1 == 1
  let ent := BitVec.ofNat 64 (descBits c.desc 64 64)
  let i := (hashOf key lc + c.pos) % 2 ^ lc
  let o := ptrOff ent + 8 * i
  let (loc, leaf, m) ← m.cmdPlace c ent o 8 (if ins then .both else .read) none
  let (bytes, m) := if ins then (let m := m.observe (.cmd c.id) none loc 8; (m.readLoc loc 8, m)) else m.cmdBytes c loc 8 o
  let old := BitVec.ofNat 64 (leNat bytes)
  let write := ins && old == BitVec.allOnes 64
  let m ← m.cmdCheck c loc leaf write 8 (ptrAt ent o) (if ins then some key else none)
  if old = key then pure ({ c with pos := 8, result := BitVec.ofNat 64 i }, m)
  else if write then pure ({ c with pos := 8, result := BitVec.ofNat 64 i }, m.cmdStore c loc (natLE 8 key.toNat))
  else if old = BitVec.allOnes 64 then pure ({ c with pos := 8 }, m)
  else pure ({ c with pos := c.pos + 1 }, m)

/-- The offset of piece q of row x of the table; a row outside the space is a descriptor fault (R341). -/
def Mach.rowAt (m : Mach) (c : Cmd) (x q : Nat) : Except CmdStop Nat := do
  let o := ptrOff (rowBase c.desc) + x * rowLen c.desc
  m.cmdNeed (decide (o + rowLen c.desc ≤ offLimit (ptrSpace (rowBase c.desc)))) 0x13 (rowBase c.desc)
  pure (o + pieceOff c.desc x q)

/-- One piece of a row of LGATH, written to every position that names the row. -/
def Mach.stepGather (m : Mach) (c : Cmd) : Except CmdStop (Cmd × Mach) := do
  let h := c.desc
  let q := c.pos % rowPieces h
  let x := (c.acc.eraseDups).getD (c.pos / rowPieces h) 0
  let o ← m.rowAt c x q
  let (bytes, m) ← m.cmdRead c (rowBase h) (o : Nat) (pieceLen h x q)
  let m ← c.acc.zipIdx.foldlM (fun (m : Mach) (y, k) =>
    if y = x then m.cmdWrite c (rowDst h) (ptrOff (rowDst h) + rowLen h * k + pieceOff h x q : Nat) bytes else pure m) m
  pure ({ c with pos := c.pos + 1 }, m)

/-- Elements of an f32 piece. -/
def f32s (bs : List Byte) : List (BitVec 32) := (words4 bs).map (BitVec.ofNat 32)

/-- Bytes of an f32 piece. -/
def f32Bytes (l : List (BitVec 32)) : List Byte := l.flatMap (fun x => natLE 4 x.toNat)

/-- One piece of LPOOL: of a row read once, or of a bag's sum (R341). -/
def Mach.stepPool (m : Mach) (c : Cmd) : Except CmdStop (Cmd × Mach) := do
  let h := c.desc
  let n := rowPieces h
  let offs := c.acc.take (rowN h + 1)
  let l := c.acc.drop (rowN h + 1)
  let rows := l.eraseDups
  let q := c.pos % n
  let k := c.pos / n
  if k < rows.length then
    let o ← m.rowAt c (rows.getD k 0) q
    let (bytes, m) ← m.cmdRead c (rowBase h) (o : Nat) (pieceLen h (rows.getD k 0) q)
    pure ({ c with pos := c.pos + 1, data := c.data ++ bytes }, m)
  else
    let b := k - rows.length
    let first := offs.headD 0
    let members := (l.drop (offs.getD b 0 - first)).take (offs.getD (b + 1) 0 - offs.getD b 0)
    let piece (x : Nat) : List (BitVec 32) := f32s ((c.data.drop (rows.idxOf x * rowLen h + 64 * q)).take (pieceLen h 0 q))
    let sum := match members with
      | [] => List.replicate (pieceLen h 0 q / 4) 0
      | x :: xs => xs.foldl (fun a y => List.zipWith (fun u v => (f32Add u v).1) a (piece y)) (piece x)
    let m ← m.cmdWrite c (rowDst h) (ptrOff (rowDst h) + rowLen h * b + 64 * q : Nat) (f32Bytes sum)
    pure ({ c with pos := c.pos + 1 }, m)

/-- One piece of a row of LSCAT: old values read, sums written, as one action on a granule touched once (R341, R342, R365,
R373). -/
def Mach.stepScatter (m : Mach) (c : Cmd) (src : Word) : Except CmdStop (Cmd × Mach) := do
  let h := c.desc
  let q := c.pos % rowPieces h
  let k := c.pos / rowPieces h
  let x := c.acc.getD k 0
  let o ← m.rowAt c x q
  let n := pieceLen h x q
  if n = 0 then pure ({ c with pos := c.pos + 1 }, m)
  else
    let (add, m) ← m.cmdRead c src (ptrOff src + rowLen h * k + pieceOff h x q : Nat) n
    let (loc, leaf, m) ← m.cmdPlace c (rowBase h) o n .both none
    let m ← m.cmdCheck c loc leaf false n (ptrAt (rowBase h) o)
    let m := m.observe (.cmd c.id) none loc n
    let new := List.zipWith (fun u v => (f32Add u v).1) (f32s (m.readLoc loc n)) (f32s add)
    let m ← m.cmdCheck c loc leaf true n (ptrAt (rowBase h) o)
    pure ({ c with pos := c.pos + 1 }, m.cmdStore c loc (f32Bytes new))

/-- 64 bytes of LHAND (R344). -/
def Mach.stepHand (m : Mach) (c : Cmd) (src dst ctl : Word) : Except CmdStop (Cmd × Mach) := do
  let (bytes, m) ← m.cmdRead c src (ptrOff src + 64 * c.pos : Nat) 64
  match m.gangOf c.job (handGang ctl) with
  | none => pure ({ c with pos := c.pos + 1 }, m)
  | some g => do
    let loc : Loc := .scr g (ptrRank dst) (ptrOff dst + 64 * c.pos)
    let m ← m.cmdCheck c loc 0 true 64 (ptrAt dst (ptrOff dst + 64 * c.pos : Nat))
    pure ({ c with pos := c.pos + 1 }, m.cmdStore c loc bytes)

/-- One step of a LOUPE command. -/
def Mach.stepLoupe (m : Mach) (c : Cmd) : Except CmdStop (Cmd × Mach) :=
  match c.op with
  | .lhash _ key => m.stepHash c key
  | .lgath _ => m.stepGather c
  | .lpool _ _ => m.stepPool c
  | .lscat _ src => m.stepScatter c src
  | .lhand src dst ctl => m.stepHand c src dst ctl
  | _ => .error (.wait m)

/-! ## Completion (R338, R344) -/

/-- LOUPE_COMMAND_COMPLETE: the result goes to its register, which words may now read; s0 discards (R338). -/
def execLoupeCommandComplete (id : Nat) (s : State) : Host.Outcome State Fault Refusal :=
  match tget s.m.cmds id with
  | none => .fault .notEnabled
  | some c =>
    match c.owner with
    | .t _ _ => .fault .notEnabled
    | .l d i k =>
      let m := s.m.cmdGone id
      event (c.finished) (m.updCtx d i k (fun x => { x with seq := x.seq.setS c.dreg c.result })) s

/-- LHAND_COMPLETE: the tag, the release and the barrier's bytes, in this order (R344). -/
def execLhandComplete (id : Nat) (s : State) : Host.Outcome State Fault Refusal :=
  match tget s.m.cmds id with
  | none => .fault .notEnabled
  | some c =>
    match c.owner with
    | .t _ _ => .fault .notEnabled
    | .l _ _ _ => event (c.finished) (s.m.cmdDone id c) s

/-! ## Which context has a word ready (R46, R334, R337) -/

/-- Whether a scalar code waits for a load or a LOUPE command (R46). -/
def Mach.busyCode (m : Mach) (d i c : Nat) (q : Seq) (code : Nat) : Bool :=
  if code < 56 then
    let r := physS (q.regs .s).rrb code
    r != 0 && (q.pend.any (fun p => p.writes.any (fun w => match w with | .s n _ => n == r | _ => false)) ||
      m.cmds.any (fun p => p.2.owner == .l d i c && p.2.dreg == r))
  else q.pend.any (fun p => match p.latchS with | some l => l.1 == code - 56 | none => false)

/-- The word a stream of an agent stands at: its instruction, none where it is illegal (R31, R38). -/
def Seq.decodeAt (q : Seq) (st : Stream) : Option Instr :=
  let pc := (q.regs st).pc.toNat
  let w := (vget q.code st.idx []).getD pc 0
  let g := if st.idx = 0 then q.guards.getD pc 0 else 0
  (decode st g w).toOption

/-- The Loupe members of a job issue no further word: its gangs stand at a yield point, are saved, or have ended (R336). -/
def Mach.pausing (m : Mach) (j : Job) : Bool :=
  let gone (g : Nat) : Bool := match m.gang? g with | none => true | some x => x.run == .yielded
  j.gangs.any gone && j.gangs.all (fun g => gone g || (m.gang? g).any (fun x => x.run == .ended))

/-- A context has a word, or a bubble, to issue. -/
def Mach.ctxReady (m : Mach) (d i c : Nat) : Bool :=
  match m.ctx? d i c with
  | none => false
  | some x =>
    x.run == .running && x.job.any (fun id => (m.job? id).any (fun j => j.st == .running && !m.pausing j)) &&
    (let r := x.seq.regs .s
     if r.bub != 0 || r.wait != 0 then true
     else match x.seq.decodeAt .l with
      | none => true
      | some ins =>
        !((scalarsOf ins).any (fun k => m.busyCode d i c x.seq k)) &&
        !(waitsForCommands ins && m.cmds.any (fun p => p.2.owner == .l d i c)))

/-- The context to serve next: the first ready one after `cur` in index order. -/
def Mach.nextCtx (m : Mach) (d i : Nat) (l : LoupeCore) (cur : Nat) : Option Nat :=
  let n := l.ctxs.length
  ((List.range n).map (fun k => (cur + 1 + k) % n)).find? (fun c => m.ctxReady d i c)

/-- The reading of TIME at which a slice that begins now ends: 8192 mc of the die on (R334). -/
def Mach.sliceTime (m : Mach) (d : Nat) : Nat := m.timeIn d 8192

/-- LOUPE_SLICE_END: at a word boundary the core moves to the next context that has a word ready (R334). -/
def execLoupeSliceEnd (die idx : Nat) (s : State) : Host.Outcome State Fault Refusal :=
  match s.m.loupe? die idx with
  | none => .fault .notEnabled
  | some l =>
    let nxt := (s.m.nextCtx die idx l l.cur).getD l.cur
    let m := s.m.updLoupe die idx (fun l => { l with cur := nxt, sliceEnd := s.m.dieCycles die + 8192 })
    let busy := l.ctxs.any (fun x => match x.run with | .running | .waiting _ _ _ | .service _ | .tlbi _ | .loaded => true | _ => false)
    event (decide (l.sliceEnd ≤ s.m.dieCycles die))
      (if busy then m.schedule .mc (m.sliceTime die) (.loupeSliceEnd die idx) else m) s

end Sys2Proof.Machine
end

