-- ==== Sys2Proof/Machine/Power.lean ====
section
/-! DEFINITION. Pulses, pattern frames, start ramps and ballast of a cluster (R115-R119), rack caps (R120) and the master
clock (R116). -/
namespace Sys2Proof.Machine

/-! ## Pulses (R53, R115, R116) -/

/-- Whether a cluster passes a pulse in this master cycle (R115). -/
def Mach.pulseNow (m : Mach) (d k : Nat) : Bool :=
  match m.dies[d]? with
  | none => false
  | some x =>
    match x.clusters[k]? with
    | none => false
    | some c =>
      c.powered && m.dieTicks d &&
      (vget c.pat c.cur.toNat 0).getLsbD (x.cycles m.time % 16)

/-! ## Frames and ramps (R117, R119) -/

/-- The pattern of a ramp's frame f. -/
def rampPat (f : Nat) : Nat := 16 * f / 450

/-- The lowest pattern that the ramps of a cluster give in frame n, no higher than the applied one (R119). -/
def Cluster.rampAt (c : Cluster) (n : Nat) : BitVec 4 :=
  BitVec.ofNat 4 ((c.ramps.filter (fun r => decide (n < r + 450))).foldl (fun p r => min p (rampPat (n - r))) c.applied.toNat)

/-- The falling line of a loss of activity in frame n: from the level before it to 0 in 450 frames (R118). -/
def Cluster.line (c : Cluster) (n : Nat) : Nat :=
  match c.ballast with
  | some (f, level) => level * (450 - (n - f)) / 450
  | none => 0

/-- A cluster in frame n: entries as last written, ramps that have run out forgotten, the lowest pattern of those that run,
and the ballast that fills what the gangs, at level `work`, do not supply of the line (R115, R118, R119). -/
def Cluster.frame (c : Cluster) (n work : Nat) : Cluster :=
  { c with
    pat := c.patNew, ramps := c.ramps.filter (fun r => decide (n < r + 450)), cur := c.rampAt n
    ballast := c.ballast.filter (fun b => decide (n < b.1 + 450)), fill := c.line n - work }

/-- A gang that works: it runs or drains, and is not frozen (R118). -/
def Gang.active (x : Gang) : Bool := (match x.run with | .running | .draining _ => true | _ => false) && x.causes.isEmpty

/-- The activity of a cluster's gangs: pulses a frame, while one of them works (R118; log entry 18). -/
def Mach.work (m : Mach) (d k : Nat) : Nat :=
  if m.gangs.any (fun p => p.2.die == d && p.2.cluster == k && p.2.active)
  then ((m.cluster? d k).map (fun c => c.cur.toNat + 1)).getD 0 else 0

/-- PATTERN_FRAME: a 16-mc frame boundary (R115, R117, R119). -/
def execPatternFrame (die cluster : Nat) (s : State) : Host.Outcome State Fault Refusal :=
  match s.m.cluster? die cluster with
  | none => .fault .notEnabled
  | some _ =>
    let m := s.m.updCluster die cluster (fun c => c.frame (s.m.frameNo die) (s.m.work die cluster))
    let on := (m.cluster? die cluster).any (fun c => !c.ramps.isEmpty || c.ballast.isSome)
    event (s.m.time == s.m.frameTime die (s.m.frameNo die)) (if on then m.wantFrame die cluster else m) s

/-- A ramp that begins in the frame that holds this master cycle (R119). -/
def Mach.startRamp (m : Mach) (d k : Nat) : Mach :=
  (m.updCluster d k (fun c =>
    let c := { c with ramps := c.ramps ++ [m.frameNo d] }
    { c with cur := c.rampAt (m.frameNo d) })).wantFrame d k

/-- A freeze of a bound gang ends: one that has lasted more than 7200 mc of its die is followed by a ramp (R5, R119). -/
def Mach.rampAfter (m : Mach) (x : Gang) : Mach :=
  if x.frozenAt.any (fun t => decide (m.cyclesSince x.die t > 7200)) then m.startRamp x.die x.cluster else m

/-- A sudden loss of activity of a gang that worked: the ballast line begins at the level before it, that of the gangs or, where
it stands higher, of the line that runs (R118; log entry 18). A gang that did not work loses nothing. -/
def Mach.ballast (m : Mach) (d k : Nat) (worked : Bool) : Mach :=
  if worked then
    (m.updCluster d k (fun c => { c with ballast := some (m.frameNo d, max (c.cur.toNat + 1) (c.line (m.frameNo d))), fill := 0 })).wantFrame d k
  else m

/-! ## Caps (R117, R120) -/

/-- FORCED_LOWERING: a lowered cap that no recomputation point has applied for 2^20 mc of the die (R5, R117). -/
def execForcedLowering (die cluster : Nat) (s : State) : Host.Outcome State Fault Refusal :=
  event (((s.m.cluster? die cluster).map (fun c => match c.capNew with
      | some (cap, t) => decide (cap < c.cap) && decide (t + 2 ^ 20 ≤ s.m.dieCycles die)
      | none => false)).getD false)
    (s.m.recompute die cluster) s

/-- A cap recorded for a cluster; one that is gated takes it at the first PHASE after the wake (R382). A lowering that waits keeps the master cycle of its die it was first recorded in (R117, R120). -/
def Mach.recordCap (m : Mach) (d k : Nat) (cap : BitVec 4) : Mach :=
  match m.cluster? d k with
  | none => m
  | some c =>
    if !c.powered then m.updCluster d k (fun c => { c with capHeld := some cap }) else
    let now := m.dieCycles d
    let since := match c.capNew with
      | some (old, t) => if old < c.cap && cap < c.cap then t else now
      | none => now
    let m' := m.updCluster d k (fun c => { c with capNew := some (cap, since), capHeld := none })
    if cap < c.cap && since == now then m'.schedule .mc (m.timeIn d (2 ^ 20)) (.forcedLowering d k) else m'

/-- A module budget in watts becomes the caps of the clusters (R120). -/
def Mach.setBudget (m : Mach) (watts : Nat) : Mach :=
  let m := { m with mgmt := { m.mgmt with budget := watts } }
  (List.range 16).foldl (fun m i => m.recordCap (i / 4) (i % 4) (Config.clusterCap watts (i / 4) (i % 4))) m

/-- A cap message: applied when it is newer than the last applied (R120); in the safe talkative state it is recorded (R417). -/
def Mach.capMessage (m : Mach) (seq : BitVec 32) (watts leaseMs : Nat) : Mach :=
  let newer := match m.mgmt.capSeq with
    | none => true
    | some last => let d := (seq - last).toNat; decide (1 ≤ d) && decide (d < 2 ^ 31)
  let end_ := m.time + leaseMs * mcPerMs
  if newer && !m.mgmt.booted then { m with mgmt := { m.mgmt with capSeq := some seq, capHeld := some (seq, watts, end_) } }
  else if newer then
    let m := { m with mgmt := { m.mgmt with capSeq := some seq, leaseEnd := some end_ } }
    (m.setBudget watts).schedule .mc end_ .capLeaseExpiry
  else m

/-- CAP_LEASE_EXPIRY: the budget falls to the floor budget (R120). -/
def execCapLeaseExpiry (s : State) : Host.Outcome State Fault Refusal :=
  event ((s.m.mgmt.leaseEnd.map (fun t => decide (t ≤ s.m.time))).getD false)
    (Mach.setBudget { s.m with mgmt := { s.m.mgmt with leaseEnd := none } } s.m.mgmt.floor.toNat) s

/-- The frames, slices and forced lowerings of a die that are to come, each at the reading of TIME that its clock now gives (R116). -/
def Mach.retime (m : Mach) (die : Nat) : Mach :=
  let mine (e : Instr) : Bool := match e with | .patternFrame d _ | .loupeSliceEnd d _ | .forcedLowering d _ => d == die | _ => false
  let old := m.agenda.filter (fun e => mine e.ev)
  old.foldl (fun m e => match e.ev with
    | .patternFrame d k => m.wantFrame d k
    | .loupeSliceEnd d i => m.schedule .mc (m.sliceTime d) (.loupeSliceEnd d i)
    | .forcedLowering d k => match (m.cluster? d k).bind (·.capNew) with
      | some (_, t) => m.schedule .mc (m.timeAt d (t + 2 ^ 20)) (.forcedLowering d k)
      | none => m
    | _ => m) { m with agenda := m.agenda.filter (fun e => !mine e.ev) }

/-- MASTER_CLOCK_CHANGE: only while no gang is bound on the die. The cycles counted so far stand, and so do the ramps that run
(R116, R119; log entry 28). -/
def execMasterClockChange (die num den : Nat) (s : State) : Host.Outcome State Fault Refusal :=
  event (!(s.m.gangs.any (fun p => p.2.die == die)) && decide (0 < num) && decide (0 < den))
    ((s.m.updDie die (fun d => { d with clkNum := num, clkDen := den, clkTime := s.m.time, clkCyc := d.cycles s.m.time })).retime die) s

end Sys2Proof.Machine
end

