-- ==== Sys2Proof/Machine/Image.lean ====
section
/-! DEFINITION. The image of a saved gang (R401-R403): its bytes as the context-save engine writes them, and the gang a
restore makes of them. The layouts inside the parts of R402, and what stands where R402 places nothing, are those of log
entry 13. -/
namespace Sys2Proof.Machine

/-- Bytes at offsets, rising: a part of an image. -/
abbrev Part := List (Nat × Byte)

/-! ## Writing -/

/-- A byte string at an offset. -/
def partAt (o : Nat) (bs : List Byte) : Part := bs.zipIdx.map (fun p => (o + p.2, p.1))

/-- A memory's first n bytes at an offset. -/
def partMem (o n : Nat) (m : Memory) : Part := (m.filter (fun p => decide (p.1 < n))).map (fun p => (o + p.1, p.2))

/-- A truth value as a byte. -/
def boolByte (b : Bool) : Byte := if b then 1 else 0

/-- Items with their count before them. -/
def counted (l : List (List Byte)) : List Byte := natLE 2 l.length ++ l.flatten

/-- A snapshot: 48 intervals of 3 bytes, and DG. -/
def snapBytes (p : Snap) : List Byte := (List.range 48).flatMap (fun r => natLE 3 (p.seen.getD r 0)) ++ natLE 3 p.dg

/-- The gang header, bytes 0-111 (R403). -/
def Gang.headerBytes (x : Gang) (num : BitVec 16) (flags : BitVec 8) (pck : Option Word) (time : Nat) : List Byte :=
  natLE 4 0x53564147 ++ natLE 4 1 ++ natLE 2 num.toNat ++ natLE 1 x.idx.toNat ++ natLE 1 (x.cores.length - 1) ++
  natLE 2 x.quadMask.toNat ++ natLE 1 x.req.toNat ++ natLE 1 flags.toNat ++ natLE 8 x.cyc ++ natLE 8 x.frz ++ natLE 8 time ++
  natLE 8 (pck.getD 0).toNat ++ natLE 16 0 ++ (match x.report with | none => List.replicate 48 0 | some r => natLE 48 r.bits)

/-- The job's barrier entries, in the layout of R284. -/
def Mach.barBytes (m : Mach) (j : Job) : List Byte :=
  (List.range j.hdr.nbar).flatMap (fun b => let e := m.bar j.vd (j.barBase + b); natLE 32 (e.bits e.decl).toNat)

/-- Gang numbers of a job as a mask of gang indexes. -/
def Job.gangMask (j : Job) (l : List Nat) : Nat := j.gangs.zipIdx.foldl (fun n (g, i) => if l.contains g then n + 2 ^ i else n) 0

/-- A phase: its vector, and who took part (R326). -/
def Job.phase (j : Job) (x : Phase) : List Byte := snapBytes x.pv ++ [boolByte x.loupe] ++ natLE 8 (j.gangMask x.who)

/-- The two phases of a barrier and its last ones. -/
def Job.phaseBytes (j : Job) (b : Barrier) : List Byte :=
  j.phase b.now ++ j.phase b.next ++ counted (b.past.map (fun p => natLE 2 p.1.toNat ++ j.phase p.2))

/-- The open joins of a job: group, form and phase vector. -/
def Mach.joinBytes (m : Mach) (j : Job) : List Byte :=
  counted (((m.vd j.vd).joins.filter (fun p => decide (j.grpBase ≤ p.1) && decide (p.1 < j.grpBase + j.hdr.ngrp))).map (fun p =>
    natLE 2 (p.1 - j.grpBase) ++ [boolByte p.2.fin] ++ snapBytes p.2.pv))

/-- The job's groups, as its window holds them, as masks of a gang's ranks and the Loupe cores. -/
def Mach.groupBytes (m : Mach) (j : Job) (idx : Nat) : List Byte :=
  (List.range j.hdr.ngrp).flatMap (fun g =>
    match tget (m.vd j.vd).groups (j.grpBase + g) with
    | none => List.replicate 8 0
    | some e => natLE 8 (((e.cores.find? (fun c => c.1 == idx)).map (fun c => c.2.toNat)).getD 0 + e.loupes.toNat * 2 ^ 48))

/-- A quad: slot contents, then slot states. -/
def Quad.part (q : Quad) (o : Nat) : Part :=
  (List.range 256).flatMap (fun n => partAt (o + 8192 * n) ((vget q.slot n {}).data.toList.flatMap rowBytes)) ++
  (List.range 256).flatMap (fun n => let s := vget q.slot n {}
    partAt (o + 0x200000 + 16 * n) (boolByte s.claimed :: 0 :: natLE 2 s.tag.tag.toNat))

/-- Tiles or rung slots, 16 KiB each. -/
def tilesBytes (t : List Tile) : List Byte := t.flatMap (fun x => x.toList.flatMap rowBytes)

/-- Partial-sum latches with their empty bits, masks and thresholds. -/
def VUnit.latchBytes (v : VUnit) : List Byte :=
  v.y.toList.flatMap (fun y => y.toList.flatMap (fun e => natLE 4 (e.getD 0).toNat)) ++
  v.y.toList.flatMap (fun y => natLE 8 (y.toList.zipIdx.foldl (fun n (e, i) => if e.isNone then n + 2 ^ i else n) 0)) ++
  v.mreg.toList.flatMap (fun k => natLE 32 k.toNat) ++ v.th.toList.flatMap (fun t => natLE 4 t.toNat)

/-- A stream's registers; its state 0 unused, 1 live, 2 ended, 3 and 4 arrived at a join. -/
def StreamRegs.bytes (r : StreamRegs) : List Byte :=
  natLE 2 r.pc.toNat ++ natLE 4 r.lc.toNat ++ natLE 1 r.es.toNat ++ natLE 1 r.rrb.toNat ++ natLE 1 r.q.toNat ++ natLE 2 r.lnk.toNat ++
  (match r.st with
   | .unused => [0, 0]
   | .live => [1, 0]
   | .ended => [2, 0]
   | .arrived g fin => [if fin then 4 else 3, BitVec.ofNat 8 g])

/-- A scalar side: s0-s55, predicates, streams. -/
def Seq.bytes (q : Seq) : List Byte :=
  q.sreg.toList.flatMap (fun w => natLE 8 w.toNat) ++ natLE 1 q.preg.toNat ++ q.strm.toList.flatMap StreamRegs.bytes

/-- A number with the count of its bytes before it; numbers, and how many. -/
def big (n : Nat) : List Byte := natLE 2 (n.log2 / 8 + 1) ++ natLE (n.log2 / 8 + 1) n
def bigs (l : List Nat) : List Byte := l.flatMap big

/-- A place; scratchpads are of the gang that is saved. -/
def Loc.bytes : Loc → List Byte
  | .scr _ r o => bigs [0, r, o]
  | .lpe d i c o => bigs [1, d, i, c, o]
  | .dev pa => bigs [2, pa]
  | .host a => bigs [3, a]
  | .peer v o => bigs [4, v, o]
  | .sys r => bigs [5, r]

/-- What a reported access does: a load, a store, a read-modify-write; nothing else is reported. -/
def QOp.bytes : QOp → List Byte
  | .load n _ off => bigs [0, n, off]
  | .store data => bigs [1] ++ counted (data.map (fun p => bigs [p.1, p.2.toNat]))
  | .amo code b _ => bigs [2, code, b.toNat]
  | .cas n e x _ => bigs [3, n, e.toNat, x.toNat]
  | .ldl ty d l _ => bigs [4, ty.toNat, d, l]
  | .spine ty d l flat vals => bigs [5, ty.toNat, d, l] ++ [boolByte flat] ++ counted (vals.map (fun p => bigs [p.1, p.2]))
  | .fence | .arrive _ _ _ | .event _ _ | .notify _ _ | .mend _ _ _ => bigs [6]

/-- A reported access of the saved gang. -/
def QEntry.bytes (q : QEntry) : List Byte :=
  q.op.bytes ++ q.loc.bytes ++ bigs [q.vd, q.cls.toNat, q.seq, q.sco, q.strm.idx, q.pc.toNat, q.icnt, q.unit, q.va.toNat, q.word] ++
  [boolByte q.acq, boolByte q.rel, boolByte q.mAcq]

/-- A write of a load: no other word is reported. -/
def Write.bytes : Write → List Byte
  | .s i x => bigs [0, i, x.toNat]
  | .v i x => bigs [1, i, x.toNat]
  | .vm i k x => bigs [2, i, k.toNat, x.toNat]
  | .tile t i k x => bigs [3, t, i, k.toNat, x.toNat]
  | .p i x => bigs [4, i] ++ [boolByte x]
  | .m i k => bigs [5, i, k.toNat]
  | .mm i w k => bigs [6, i, w.toNat, k.toNat]
  | .y _ _ => bigs [7]

/-- How a load's bytes become its result, and what a V load reads. -/
def LoadForm.bytes : LoadForm → List Byte
  | .scalar n sx => bigs [0, n] ++ [boolByte sx]
  | .row => bigs [1]
def RowKind.image : RowKind → List Byte
  | .bytes => bigs [0, 0, 0]
  | .block => bigs [1, 0, 0]
  | .averages j r => bigs [2, j, r]
  | .details j r => bigs [3, j, r]
def RowSpec.bytes (v : RowSpec) : List Byte :=
  bigs [v.rank, v.off] ++ v.kind.image ++ bigs [v.lens.toNat, v.shp.ty.toNat, v.shp.rm.toNat, v.shp.gsl.toNat, v.cls.toNat] ++ [boolByte v.shp.sat]
def optBytes {α : Type} (f : α → List Byte) : Option α → List Byte
  | none => [0]
  | some a => 1 :: f a

/-- A result whose access is executed again: no latch is left to it, and its first read has been made (R22, R69). -/
def Pend.bytes (p : Pend) : List Byte :=
  bigs [p.strm.idx, p.seq, p.pc.toNat, p.flags.toNat] ++ counted (p.writes.map Write.bytes) ++ optBytes LoadForm.bytes p.form ++
  optBytes RowSpec.bytes p.row

/-- An open ladder. -/
def Ladder.bytes (l : Ladder) : List Byte :=
  natLE 8 l.ptr.toNat ++ natLE 4 l.n.toNat ++ natLE 3 l.one.toNat ++ natLE 3 l.two.toNat ++ natLE 1 l.depth.toNat ++
  natLE 2 l.spb.toNat ++ natLE 2 l.ver.toNat ++ counted (l.delta.map (fun x => natLE 4 x.toNat)) ++
  counted (l.omega.map (fun x => natLE 4 x.toNat))

/-- What a command reads with a beat. -/
def BeatOp.bytes : BeatOp → List Byte
  | .mfil n => bigs [0, n]
  | .mlda t => bigs [1, t]
  | .mdrn t _ => bigs [2, t]
  | .lopn => bigs [3]
  | .lwgt => bigs [4]
  | .lrd t l _ _ => bigs [5, t] ++ l.bytes
  | .lstp l k _ _ => bigs [6, k] ++ l.bytes

/-- A reported beat. -/
def Beat.bytes (b : Beat) : List Byte :=
  b.op.bytes ++ bigs [b.rank, b.off, b.issue, b.next, b.pc.toNat, b.icnt, b.sco.toNat, b.seq] ++ [boolByte b.rel, boolByte b.acq] ++
  snapBytes b.snap

/-- What a resume executes again (R395). -/
def Redo.bytes : Redo → List Byte
  | .load p buf parts => [1] ++ p.bytes ++ counted (buf.map (fun x => bigs [x.1, x.2.toNat])) ++ counted (parts.map QEntry.bytes)
  | .row p => [2] ++ p.bytes
  | .store q => [3] ++ q.bytes
  | .beat b => [4] ++ b.bytes

/-- A fault record not yet raised. -/
def HeldFault.bytes (h : HeldFault) : List Byte :=
  natLE 1 h.cause.toNat ++ natLE 8 h.addr.toNat ++ natLE 4 h.resume.toNat ++ natLE 2 h.goix.toNat ++ natLE 2 h.pc.toNat ++
  natLE 1 h.strm.idx ++ natLE 16 h.race.toNat ++ [boolByte h.deferred, boolByte h.drain] ++ bigs [h.at_, h.seq] ++
  ((h.redo.map Redo.bytes).getD [0])

/-- Arrival records: barrier and AG. -/
def arrBytes (t : Tab (BitVec 16)) : List Byte := counted (t.map (fun p => natLE 2 p.1 ++ natLE 2 p.2.toNat))

/-- GM0-GM3. -/
def gmBytes (v : Vector (Option (BitVec 8)) 4) : List Byte :=
  v.toList.flatMap (fun g => match g with | none => [0, 0] | some n => natLE 1 n.toNat ++ [1])

/-- M state: versions, modes, window, ladder and close record. -/
def MUnit.bytes (u : MUnit) : List Byte :=
  u.tver.toList.flatMap (fun w => natLE 2 w.toNat) ++ u.texp.toList.flatMap (fun w => natLE 2 w.toNat) ++ natLE 2 u.tagm.toNat ++
  natLE 1 u.leasec.toNat ++ natLE 1 u.rm.toNat ++ natLE 1 u.ta.toNat ++ natLE 1 u.tb.toNat ++ natLE 1 u.sco.toNat ++
  natLE 8 u.mwin.toNat ++
  optBytes Ladder.bytes u.ladder ++
  (match u.close with | none => [0] | some (p, v) => 1 :: (natLE 8 p.toNat ++ natLE 2 v.toNat))

/-- The T stream's shadow set. -/
def TSet.bytes (t : TSet) : List Byte :=
  natLE 8 t.src.toNat ++ natLE 8 t.dst.toNat ++ (t.ext.toList ++ t.ss.toList ++ t.ds.toList).flatMap (fun w => natLE 8 w.toNat) ++
  (match t.ind with | none => [0] | some (d, p, w) => 1 :: (natLE 1 d.toNat ++ natLE 8 p.toNat ++ [boolByte w])) ++
  natLE 1 t.sty.toNat ++ natLE 1 t.dty.toNat ++ natLE 1 t.lvl.toNat ++ [boolByte t.flat, boolByte t.sat] ++ natLE 1 t.rm.toNat ++
  natLE 1 t.acq.toNat ++ natLE 1 t.rel.toNat ++ [boolByte t.ben] ++ natLE 1 t.bid.toNat ++ natLE 1 t.tag.toNat

/-- Scalar, stream, M, T, ladder and checker state, lenses, arrival records. -/
def Core.stateBytes (c : Core) : List Byte :=
  c.seq.bytes ++ natLE 1 c.vec.shp.ty.toNat ++ natLE 1 c.vec.shp.rm.toNat ++ [boolByte c.vec.shp.sat] ++ natLE 1 c.vec.shp.gsl.toNat ++
  natLE 2 c.vec.tagv.toNat ++ natLE 4 c.vw.toNat ++ natLE 1 c.flg.toNat ++ gmBytes c.gm ++
  c.lens.toList.flatMap (fun w => natLE 8 w.toNat) ++ c.mat.bytes ++ c.tset.bytes ++ natLE 3 c.icnt ++
  snapBytes { seen := c.seen, dg := c.dg } ++ natLE 6 c.unk.toNat ++ arrBytes c.arr

/-- What of a core has no place in R402: fault records not raised, TCOL words counted, KV headers captured. -/
def Core.restBytes (c : Core) : List Byte :=
  counted (c.held.map HeldFault.bytes) ++ counted (c.tcols.map (fun p => natLE 4 p.1 ++ natLE 4 p.2)) ++
  counted (c.kv.map (fun p => natLE 8 p.1 ++ (p.2 ++ List.replicate 64 0).take 64))

/-- A rank's block. -/
def Core.part (c : Core) (o : Nat) : Part :=
  partMem o 0x200000 c.scr ++
  (sortBy (fun (a b : Nat × Shadow) => decide (a.1 < b.1)) c.shadow).flatMap (fun (k, e) => partAt (o + 0x200000 + 16 * k) (natLE 16 e.bits.toNat)) ++
  partAt (o + 0x280000) (tilesBytes c.mat.tile.toList) ++ partAt (o + 0x2A0000) (tilesBytes c.mat.rung.toList) ++
  partAt (o + 0x2D0000) (c.vec.vreg.toList.flatMap rowBytes) ++ partAt (o + 0x2D4000) c.vec.latchBytes ++
  partAt (o + 0x2D5000) (c.stateBytes.take 4096) ++
  partAt (o + 0x2D6000) (c.gran.toList.flatMap (fun t => natLE 2 t.tag.toNat ++ [boolByte t.pending, 0])) ++
  partAt (o + 0x2D7000) (natLE 4096 ((c.poison ++ c.worn.map (· / 8)).foldl (fun n g => n ||| 2 ^ g) 0)) ++
  partAt (o + 0x2D8000) (c.restBytes.take 0x28000)

/-- Where a Loupe member stands: 0 at its next word, 1 waiting at a barrier, 2 ended, 3 stopped, 4 stopped by a HALT; barriers are
named within the job. -/
def LoupeRun.bytes (r : LoupeRun) (base : Nat) (halt : Bool) : List Byte :=
  match r with
  | .waiting b g k => 1 :: (natLE 2 (b - base) ++ natLE 2 g.toNat ++ natLE 1 k.toNat)
  | .ended => [2, 0, 0, 0, 0, 0]
  | .stopped => [if halt then 4 else 3, 0, 0, 0, 0, 0]
  | .free | .loaded | .running | .service _ | .tlbi _ | .skipped => [0, 0, 0, 0, 0, 0]

/-- A Loupe member's context and partition. -/
def LoupeCtx.part (x : LoupeCtx) (base o : Nat) : Part :=
  partAt o ((x.seq.bytes ++ x.run.bytes base (x.report.any (·.halt)) ++ natLE 2 x.exit.toNat ++ gmBytes x.gm ++
    (match x.report with | none => List.replicate 48 0 | some r => natLE 48 r.bits) ++ arrBytes x.arr).take 0x10000) ++
  partMem (o + 0x10000) 0x40000 x.mem

/-- Loupe members with their contexts, by Loupe index. -/
def Mach.loupeMembers (m : Mach) (j : Job) : List (Nat × Nat × Nat × LoupeCtx) :=
  (sortBy (fun (a b : Nat × Nat) => decide (a.2 < b.2)) j.loupes).filterMap (fun (d, i) =>
    (m.partition j.vd d i).bind (fun p => (m.ctx? d i p.1).map (fun x => (d, i, p.1, x))))

/-- The offsets of a quad, of a rank's block and of a Loupe member in an image of n ranks (R402). -/
def quadOff (i : Nat) : Nat := 0x100000 + i * 0x210000
def rankOff (r : Nat) : Nat := 0x1A00000 + r * 0x300000
def loupeOff (n k : Nat) : Nat := rankOff n + k * 0x50000

/-- The part of an image in a range. -/
def Part.slice (p : Part) (o n : Nat) : Part := (p.filter (fun c => decide (o ≤ c.1) && decide (c.1 < o + n))).map (fun c => (c.1 - o, c.2))

/-- n bytes of an image from offset i on, 0 where none is listed. -/
def Part.fill : Nat → Nat → Part → List Byte
  | 0, _, _ => []
  | n + 1, i, [] => 0 :: Part.fill n (i + 1) []
  | n + 1, i, (a, b) :: r => if a = i then b :: Part.fill n (i + 1) r else 0 :: Part.fill n (i + 1) ((a, b) :: r)

/-- n bytes of an image at an offset. -/
def Part.bytes (p : Part) (o n : Nat) : List Byte := Part.fill n 0 (p.slice o n)

/-- What gang 0's image holds of its job: the barrier table, with the phases, and the open joins. -/
def Mach.jobPart (m : Mach) (j : Job) : Part :=
  partAt 0x1000 (m.barBytes j) ++
  (List.range j.hdr.nbar).flatMap (fun b => partAt (0x8000 + 1024 * b) (j.phaseBytes (m.bar j.vd (j.barBase + b)))) ++
  partAt 0x48000 (m.joinBytes j)

/-- What an image holds of the gang beside its quads, ranks and Loupe members: the gang header; the group table; PV, PDG and each
RP; and gang 0's what it holds of the job. -/
def Mach.tablePart (m : Mach) (x : Gang) (j : Job) (flags : BitVec 8) (pck : Option Word) : Part :=
  partAt 0 (x.headerBytes j.num flags pck m.time) ++ partAt 0x3000 (m.groupBytes j x.idx.toNat) ++
  partAt 0x4000 (snapBytes x.pv ++ x.quads.map (fun q => q.rp.zeroExtend 8)) ++ (if x.idx = 0 then m.jobPart j else [])

/-- What the context-save engine writes next of an image: the n-th of the pieces of 512 bytes, its offset and its bytes; quads
first, then ranks, then Loupe members, then the tables, and the header last (R402, R403; log entry 13). -/
structure Piece where
  off : Nat
  bytes : List Byte

/-- 512 bytes of a part whose first byte stands at an offset of the image. -/
def Part.piece (p : Part) (base i : Nat) : Piece := { off := base + 512 * i, bytes := p.bytes (512 * i) 512 }

/-- The n-th piece, none after the last. Loupe members are in gang 0's save, not in a checkpoint (R400). -/
def Mach.piece (m : Mach) (x : Gang) (j : Job) (flags : BitVec 8) (pck : Option Word) (members : Bool) (n : Nat) : Option Piece :=
  let quads := x.quads.length * 0x1008
  let ranks := quads + x.cores.length * 0x1800
  let ls := if members && x.idx == 0 then m.loupeMembers j else []
  let all := ranks + ls.length * 0x280
  if n < quads then (x.quads[n / 0x1008]?).map (fun q => (q.part 0).piece (quadOff (n / 0x1008)) (n % 0x1008))
  else if n < ranks then
    let i := n - quads
    (x.cores[i / 0x1800]?).map (fun c => (c.part 0).piece (rankOff (i / 0x1800)) (i % 0x1800))
  else if n < all then
    let i := n - ranks
    (ls[i / 0x280]?).map (fun (_, _, _, y) => (y.part j.barBase 0).piece (loupeOff x.cores.length (i / 0x280)) (i % 0x280))
  else
    let i := n - all
    if i < 0x278 then some (((m.tablePart x j flags pck).slice 0x1000 0x4F000).piece 0x1000 i)
    else if i < 0x280 then some ((m.tablePart x j flags pck).piece 0 (i - 0x278))
    else none

/-- The bytes of gang 0's save that are written last of all, when every gang of the job has been: the barrier table, the phases and
joins, and the Loupe members (R299, R336). -/
def Mach.lastPart (m : Mach) (j : Job) : List (Nat × List Byte) :=
  [(0x1000, (m.jobPart j).bytes 0x1000 0x2000), (0x8000, (m.jobPart j).bytes 0x8000 0x48000)] ++
  (m.loupeMembers j).zipIdx.map (fun ((_, _, _, y), k) => (loupeOff j.hdr.gsize k, (y.part j.barBase 0).bytes 0 0x50000))

/-! ## Reading -/

/-- A row of 256 bytes of an image. -/
def Part.row (p : Part) (o : Nat) : Row := rowOf (p.bytes o 256)

/-- A tile of an image. -/
def Part.tile (p : Part) (o : Nat) : Tile := let q := p.slice o 0x4000; Vector.ofFn (fun i : Fin 64 => q.row (256 * i.val))

/-- A reading of bytes from the front on. -/
abbrev Rd := StateM (List Byte)

/-- A number of k bytes. -/
def rdNat (k : Nat) : Rd Nat := fun bs => (leNat (bs.take k), bs.drop k)
def rdBv (k w : Nat) : Rd (BitVec w) := do pure (BitVec.ofNat w (← rdNat k))
def rdBool : Rd Bool := do pure (decide ((← rdNat 1) ≠ 0))
def rdMany {α : Type} (n : Nat) (r : Rd α) : Rd (List α) := (List.range n).mapM (fun _ => r)
/-- Items with their count before them. -/
def rdCounted {α : Type} (r : Rd α) : Rd (List α) := do rdMany (← rdNat 2) r
def rdVec {α : Type} (n : Nat) (d : α) (r : Rd α) : Rd (Vector α n) := do
  let l ← rdMany n r
  pure (Vector.ofFn (fun i : Fin n => l.getD i.val d))
/-- An item after a byte that says whether it is there. -/
def rdOption {α : Type} (r : Rd α) : Rd (Option α) := do if ← rdBool then pure (some (← r)) else pure none

def rdSnap : Rd Snap := do
  let seen ← rdMany 48 (rdNat 3)
  pure { seen := seen, dg := ← rdNat 3 }

def rdStream : Rd StreamRegs := do
  let pc ← rdBv 2 14
  let lc ← rdBv 4 32
  let es ← rdBv 1 3
  let rrb ← rdBv 1 5
  let q ← rdBv 1 8
  let lnk ← rdBv 2 14
  let k ← rdNat 1
  let g ← rdNat 1
  pure { pc := pc, lc := lc, es := es, rrb := rrb, q := q, lnk := lnk
         st := if k = 1 then .live else if k = 2 then .ended else if k = 3 then .arrived g false else if k = 4 then .arrived g true else .unused }

/-- A scalar side, with the code and the guards of its job. -/
def rdSeq (im : Images) : Rd Seq := do
  let sreg ← rdVec 56 0 (rdBv 8 64)
  let preg ← rdBv 1 8
  let strm ← rdVec 4 {} rdStream
  pure { sreg := sreg, preg := preg, strm := strm, code := im.code, guards := im.guards }

/-- A number with the count of its bytes before it. -/
def rdBig : Rd Nat := do rdNat (← rdNat 2)
def rdBigBv (w : Nat) : Rd (BitVec w) := do pure (BitVec.ofNat w (← rdBig))
def rdPair : Rd (Nat × Nat) := do let a ← rdBig; pure (a, ← rdBig)
def rdData : Rd (List (Nat × Byte)) := do pure ((← rdCounted rdPair).map (fun p => (p.1, BitVec.ofNat 8 p.2)))

def rdLoc : Rd Loc := do
  match ← rdBig with
  | 0 => let r ← rdBig; pure (.scr 0 r (← rdBig))
  | 1 => let d ← rdBig; let i ← rdBig; let c ← rdBig; pure (.lpe d i c (← rdBig))
  | 2 => pure (.dev (← rdBig))
  | 3 => pure (.host (← rdBig))
  | 4 => let v ← rdBig; pure (.peer v (← rdBig))
  | _ => pure (.sys (← rdBig))

def rdOp : Rd QOp := do
  match ← rdBig with
  | 0 => let n ← rdBig; pure (.load n 0 (← rdBig))
  | 1 => pure (.store (← rdData))
  | 2 => let code ← rdBig; pure (.amo code (← rdBigBv 64) 0)
  | 3 => let n ← rdBig; let e ← rdBigBv 64; pure (.cas n e (← rdBigBv 64) 0)
  | 4 => let ty ← rdBigBv 4; let d ← rdBig; let l ← rdBig; pure (.ldl ty d l 0)
  | 5 => let ty ← rdBigBv 4; let d ← rdBig; let l ← rdBig; let flat ← rdBool; pure (.spine ty d l flat (← rdCounted rdPair))
  | _ => pure .fence

def rdEntry : Rd QEntry := do
  let op ← rdOp
  let loc ← rdLoc
  let vd ← rdBig
  let cls ← rdBigBv 3
  let seq ← rdBig
  let sco ← rdBig
  let strm ← rdBig
  let pc ← rdBigBv 14
  let icnt ← rdBig
  let unit ← rdBig
  let va ← rdBigBv 64
  let word ← rdBig
  let acq ← rdBool
  let rel ← rdBool
  let mAcq ← rdBool
  pure { who := .kernel, mAcq := mAcq, vd := vd, cls := cls, seq := seq, op := op, loc := loc, acq := acq, rel := rel, sco := sco
         strm := streamOf strm, pc := pc, icnt := icnt, unit := unit, va := va, word := word }

def rdWrite : Rd Write := do
  let k ← rdBig
  if k = 7 then pure (.p 0 true)
  else
    let n ← rdBig
    match k with
    | 0 => pure (.s n (← rdBigBv 64))
    | 1 => pure (.v n (← rdBigBv 2048))
    | 2 => let k ← rdBigBv 256; pure (.vm n k (← rdBigBv 2048))
    | 3 => let i ← rdBig; let k ← rdBigBv 256; pure (.tile n i k (← rdBigBv 2048))
    | 4 => pure (.p n (← rdBool))
    | 5 => pure (.m n (← rdBigBv 256))
    | _ => let w ← rdBigBv 256; pure (.mm n w (← rdBigBv 256))

def rdForm : Rd LoadForm := do
  if (← rdBig) = 0 then let n ← rdBig; pure (.scalar n (← rdBool)) else pure .row

def rdRowSpec : Rd RowSpec := do
  let rank ← rdBig
  let off ← rdBig
  let k ← rdBig
  let j ← rdBig
  let r ← rdBig
  let lens ← rdBigBv 64
  let ty ← rdBigBv 4
  let rm ← rdBigBv 2
  let gsl ← rdBigBv 4
  let cls ← rdBigBv 3
  let sat ← rdBool
  pure { rank := rank, off := off, lens := lens, shp := { ty := ty, rm := rm, gsl := gsl, sat := sat }, cls := cls
         kind := if k = 0 then .bytes else if k = 1 then .block else if k = 2 then .averages j r else .details j r }

def rdPend : Rd Pend := do
  let strm ← rdBig
  let seq ← rdBig
  let pc ← rdBigBv 14
  let flags ← rdBigBv 5
  let writes ← rdCounted rdWrite
  let form ← rdOption rdForm
  let row ← rdOption rdRowSpec
  pure { due := 0, strm := streamOf strm, seq := seq, pc := pc, flags := flags, writes := writes, form := form, row := row }

def rdArr : Rd (Tab (BitVec 16)) := rdCounted (do let k ← rdNat 2; pure (k, ← rdBv 2 16))

def rdGm : Rd (Vector (Option (BitVec 8)) 4) := rdVec 4 none (do
  let g ← rdBv 1 8
  pure (if ← rdBool then some g else none))

def rdLadder : Rd Ladder := do
  let ptr ← rdBv 8 64
  let n ← rdBv 4 32
  let one ← rdBv 3 20
  let two ← rdBv 3 20
  let depth ← rdBv 1 5
  let spb ← rdBv 2 13
  let ver ← rdBv 2 16
  let delta ← rdCounted (rdBv 4 32)
  let omega ← rdCounted (rdBv 4 32)
  pure { ptr := ptr, n := n, one := one, two := two, depth := depth, spb := spb, ver := ver, delta := delta, omega := omega }

def rdBeatOp : Rd BeatOp := do
  match ← rdBig with
  | 0 => pure (.mfil (← rdBig))
  | 1 => pure (.mlda (← rdBig))
  | 2 => pure (.mdrn (← rdBig) [])
  | 3 => pure .lopn
  | 4 => pure .lwgt
  | 5 => let t ← rdBig; pure (.lrd t (← rdLadder) [] 0)
  | _ => let k ← rdBig; pure (.lstp (← rdLadder) k [] 0)

def rdBeat : Rd Beat := do
  let op ← rdBeatOp
  let rank ← rdBig
  let off ← rdBig
  let issue ← rdBig
  let next ← rdBig
  let pc ← rdBigBv 14
  let icnt ← rdBig
  let sco ← rdBigBv 3
  let seq ← rdBig
  let rel ← rdBool
  let acq ← rdBool
  pure { op := op, rank := rank, off := off, issue := issue, next := next, pc := pc, icnt := icnt, sco := sco, seq := seq, rel := rel
         acq := acq, snap := ← rdSnap }

def rdRedo : Rd (Option Redo) := do
  match ← rdNat 1 with
  | 1 => let p ← rdPend; let buf ← rdData; pure (some (.load p buf (← rdCounted rdEntry)))
  | 2 => pure (some (.row (← rdPend)))
  | 3 => pure (some (.store (← rdEntry)))
  | 4 => pure (some (.beat (← rdBeat)))
  | _ => pure none

def rdHeld : Rd HeldFault := do
  let cause ← rdBv 1 8
  let addr ← rdBv 8 64
  let resume ← rdBv 4 32
  let goix ← rdBv 2 16
  let pc ← rdBv 2 14
  let strm ← rdNat 1
  let race ← rdBv 16 128
  let deferred ← rdBool
  let drain ← rdBool
  let at_ ← rdBig
  let seq ← rdBig
  pure { cause := cause, addr := addr, resume := resume, goix := goix, pc := pc, strm := streamOf strm, race := race, at_ := at_
         deferred := deferred, drain := drain, seq := seq, redo := ← rdRedo }

def rdMUnit : Rd MUnit := do
  let tver ← rdVec 8 0 (rdBv 2 16)
  let texp ← rdVec 8 0 (rdBv 2 16)
  let tagm ← rdBv 2 16
  let leasec ← rdBv 1 5
  let rm ← rdBv 1 2
  let ta ← rdBv 1 4
  let tb ← rdBv 1 4
  let sco ← rdBv 1 3
  let mwin ← rdBv 8 64
  let ladder ← rdOption rdLadder
  let close ← rdOption (do let p ← rdBv 8 64; pure (p, ← rdBv 2 16))
  pure { tver := tver, texp := texp, tagm := tagm, leasec := leasec, rm := rm, ta := ta, tb := tb, sco := sco, mwin := mwin
         ladder := ladder, close := close }

def rdTSet : Rd TSet := do
  let src ← rdBv 8 64
  let dst ← rdBv 8 64
  let ext ← rdVec 4 0 (rdBv 8 64)
  let ss ← rdVec 3 0 (rdBv 8 64)
  let ds ← rdVec 3 0 (rdBv 8 64)
  let ind ← rdOption (do let d ← rdBv 1 2; let p ← rdBv 8 64; pure (d, p, ← rdBool))
  let sty ← rdBv 1 4
  let dty ← rdBv 1 4
  let lvl ← rdBv 1 3
  let flat ← rdBool
  let sat ← rdBool
  let rm ← rdBv 1 2
  let acq ← rdBv 1 3
  let rel ← rdBv 1 3
  let ben ← rdBool
  let bid ← rdBv 1 8
  let tag ← rdBv 1 7
  pure { src := src, dst := dst, ext := ext, ss := ss, ds := ds, ind := ind, sty := sty, dty := dty, lvl := lvl, flat := flat
         sat := sat, rm := rm, acq := acq, rel := rel, ben := ben, bid := bid, tag := tag }

/-- A core's state without its memories. -/
def rdCore (im : Images) : Rd Core := do
  let q ← rdSeq im
  let ty ← rdBv 1 4
  let rm ← rdBv 1 2
  let sat ← rdBool
  let gsl ← rdBv 1 4
  let tagv ← rdBv 2 16
  let vw ← rdBv 4 32
  let flg ← rdBv 1 5
  let gm ← rdGm
  let lens ← rdVec 8 0 (rdBv 8 64)
  let mat ← rdMUnit
  let tset ← rdTSet
  let icnt ← rdNat 3
  let p ← rdSnap
  let unk ← rdBv 6 48
  let arr ← rdArr
  pure { seq := q, vec := { shp := { ty := ty, rm := rm, sat := sat, gsl := gsl }, tagv := tagv }, mat := mat, tset := tset, vw := vw
         flg := flg, gm := gm, lens := lens, icnt := icnt, seen := p.seen, dg := p.dg, unk := unk, arr := arr }

/-- Fault records, TCOL words counted and KV headers, into a core. -/
def rdRest (c : Core) : Rd Core := do
  let held ← rdCounted rdHeld
  let tcols ← rdCounted (do let k ← rdNat 4; pure (k, ← rdNat 4))
  let kv ← rdCounted (do let k ← rdNat 8; pure (k, (← rdMany 64 (rdBv 1 8))))
  pure { c with held := held, tcols := tcols, kv := kv }

/-- Masks, thresholds and partial-sum latches, into a vector side. -/
def rdLatches (v : VUnit) : Rd VUnit := do
  let vals ← rdMany 256 (rdBv 4 32)
  let empty ← rdMany 4 (rdNat 8)
  let mreg ← rdVec 8 0 (rdBv 32 256)
  let th ← rdVec 4 0 (rdBv 4 32)
  pure { v with
    mreg := mreg, th := th
    y := Vector.ofFn (fun k : Fin 4 => Vector.ofFn (fun i : Fin 64 =>
      if (empty.getD k.val 0).testBit i.val then none else some (vals.getD (64 * k.val + i.val) 0))) }

/-- A shadow entry of its 128 bits (R324). -/
def Shadow.ofBits (b : BitVec 128) : Shadow :=
  { wk := b.extractLsb' 126 2, wrk := b.extractLsb' 120 6, wst := b.extractLsb' 118 2, wgang := b.extractLsb' 110 8
    wcl := b.extractLsb' 107 3, wiv := b.extractLsb' 83 24, rk := b.extractLsb' 81 2, rrk := b.extractLsb' 75 6
    rst := b.extractLsb' 73 2, rgang := b.extractLsb' 65 8, rcl := b.extractLsb' 62 3, riv := b.extractLsb' 38 24
    mr := b.getLsbD 37, wamo := b.getLsbD 36, wrel := b.getLsbD 35, wjob := b.extractLsb' 19 16, rjob := b.extractLsb' 3 16 }

/-- A rank's block, read back. -/
def Part.core (p : Part) (im : Images) : Core :=
  let c := ((rdCore im) (p.bytes 0x2D5000 4096)).1
  let c := ((rdRest c) (p.bytes 0x2D8000 0x28000)).1
  let sh := p.slice 0x200000 0x80000
  let keys := (sh.map (fun c => c.1 / 16)).eraseDups
  let tags := p.bytes 0x2D6000 2048
  let poison := p.slice 0x2D7000 4096
  let v := ((rdLatches c.vec) (p.bytes 0x2D4000 4096)).1
  let vr := p.slice 0x2D0000 0x4000
  { c with
    scr := p.slice 0 0x200000
    shadow := keys.map (fun k => (k, Shadow.ofBits (BitVec.ofNat 128 (leNat (sh.bytes (16 * k) 16)))))
    vec := { v with vreg := Vector.ofFn (fun i : Fin 64 => vr.row (256 * i.val)) }
    mat := { c.mat with
      tile := Vector.ofFn (fun i : Fin 8 => p.tile (0x280000 + 0x4000 * i.val))
      rung := Vector.ofFn (fun i : Fin 12 => p.tile (0x2A0000 + 0x4000 * i.val)) }
    gran := Vector.ofFn (fun g : Fin 512 =>
      { tag := BitVec.ofNat 16 (leNat ((tags.drop (4 * g.val)).take 2)), pending := (tags.getD (4 * g.val + 2) 0) != 0 })
    poison := poison.flatMap (fun (o, b) => ((List.range 8).filter (fun i => b.getLsbD i)).map (fun i => 8 * o + i)) }

/-- A quad, read back. -/
def Part.quad (p : Part) (rp : BitVec 2) : Quad :=
  { rp := rp
    slot := Vector.ofFn (fun n : Fin 256 =>
      let d := p.slice (8192 * n.val) 8192
      let s := p.bytes (0x200000 + 16 * n.val) 4
      { data := Vector.ofFn (fun i : Fin 32 => d.row (256 * i.val)), claimed := s.getD 0 0 != 0
        tag := { tag := BitVec.ofNat 16 (leNat (s.drop 2)) } }) }

/-- The gang a restore makes of the image at its save area, its ranks on their new cores; its pattern request is asked again at its
first PHASE (R78, R401, R403; log entry 78). -/
def Gang.restored (x : Gang) (p : Part) (n : Nat) (im : Images) : Gang :=
  let h := p.bytes 0 112
  let at_ (o k : Nat) : Nat := leNat ((h.drop o).take k)
  let pv := p.bytes 0x4000 256
  let pck := BitVec.ofNat 64 (at_ 40 8)
  { x with
    req := BitVec.ofNat 4 (at_ 14 1), phased := false, cyc := at_ 16 8, frz := at_ 24 8, pck := if pck = 0 then none else some pck
    pv := (rdSnap pv).1
    quads := (List.range ((n + 3) / 4)).map (fun i => (p.slice (quadOff i) 0x210000).quad (BitVec.ofNat 2 (pv.getD (147 + i) 0).toNat))
    cores := (List.range n).map (fun r => (p.slice (rankOff r) 0x300000).core im) }

/-- A barrier entry of its 256 bits (R284). -/
def Barrier.ofBits (n : Nat) : Barrier :=
  let f (lo w : Nat) : Nat := n / 2 ^ lo % 2 ^ w
  { pend := f 200 56, hpend := f 144 56, gen := BitVec.ofNat 16 (f 128 16), exp := f 118 10, arr := f 108 10, harr := f 98 10
    live := f 88 10, group := BitVec.ofNat 8 (f 80 8), brk := n.testBit 3, orph := n.testBit 2, act := n.testBit 1, decl := n.testBit 0 }

/-- The gangs of a mask of gang indexes. -/
def Job.ofMask (j : Job) (n : Nat) : List Nat := (j.gangs.zipIdx.filter (fun p => n.testBit p.2)).map (·.1)

def Job.rdPhase (j : Job) : Rd Phase := do
  let pv ← rdSnap
  let loupe ← rdBool
  pure { pv := pv, loupe := loupe, who := j.ofMask (← rdNat 8) }

/-- The phases of a barrier, into it. -/
def Job.rdPhases (j : Job) (b : Barrier) : Rd Barrier := do
  let now ← j.rdPhase
  let next ← j.rdPhase
  let past ← rdCounted (do let g ← rdBv 2 16; pure (g, ← j.rdPhase))
  pure { b with now := now, next := next, past := past }

/-- A job's barrier of gang 0's image. -/
def Part.bar (p : Part) (j : Job) (b : Nat) : Barrier :=
  (j.rdPhases (Barrier.ofBits (leNat (p.bytes (0x1000 + 32 * b) 32))) (p.bytes (0x8000 + 1024 * b) 1024)).1

/-- The open joins of gang 0's image: group, form, phase vector. -/
def Part.joins (p : Part) : List (Nat × Bool × Snap) :=
  (rdCounted (do let g ← rdNat 2; let fin ← rdBool; pure (g, fin, ← rdSnap)) (p.bytes 0x48000 0x8000)).1

/-- The fault report of its 384 bits (R393). -/
def Report.ofBits (n : Nat) : Report :=
  let f (lo w : Nat) : BitVec w := BitVec.ofNat w (n / 2 ^ lo)
  { race := f 256 128, addr := f 192 64, resume := f 160 32, goix := f 144 16, code := f 128 16, pc := f 98 14, strm := f 96 2
    rank := f 90 6, gang := f 82 8, kind := f 80 2, cause := f 72 8, time := f 8 64 }

/-- A Loupe member, into its context: its barriers are those of the job's window now. -/
def rdLoupe (im : Images) (base : Nat) (x : LoupeCtx) : Rd LoupeCtx := do
  let q ← rdSeq im
  let k ← rdNat 1
  let b ← rdNat 2
  let g ← rdBv 2 16
  let sco ← rdBv 1 3
  let exit ← rdBv 2 16
  let gm ← rdGm
  let rep ← rdNat 48
  let arr ← rdArr
  let run : LoupeRun := if k = 1 then .waiting (base + b) g sco else if k = 2 then .ended else if k = 3 || k = 4 then .stopped else .loaded
  pure { x with seq := q.groupSwitch .s, run := run, exit := exit, gm := gm, arr := arr
                report := if rep % 2 = 1 then some { Report.ofBits rep with halt := k == 4 } else none, tlb := [], nextSeq := 0 }

/-- A Loupe member of an image, into its context. -/
def Part.loupe (p : Part) (im : Images) (base : Nat) (x : LoupeCtx) : LoupeCtx :=
  { ((rdLoupe im base x) (p.bytes 0 0x10000)).1 with mem := p.slice 0x10000 0x40000 }

/-- The image at a device address, of so many bytes. -/
def Mach.imageAt (m : Mach) (a n : Nat) : Part := Part.slice m.dev a n

end Sys2Proof.Machine
end

