-- ==== Sys2Proof/Machine/Jobs.lean ====
section
/-! DEFINITION. From launch to issue (R102-R114, R335, R432): capture, ranking and placing, windows, load, start, end. -/
namespace Sys2Proof.Machine

/-! ## The management core's accesses (R111, R370) -/

/-- A pointer the management core may use: GLB, rank 0, and as many bytes within the space. -/
def glbOk (p : Word) (n : Nat) : Bool := ptrSpace p == 0 && ptrRank p == 0 && decide (ptrOff p + n ≤ 2 ^ 54)

/-- Why the management core could not read: the cause, and the machine that its walks and its error leave. -/
structure ReadErr where
  cause : BitVec 8
  m : Mach

/-- Bytes read through a virtual device's translation; `code` asks for pages that code images may be captured from
(R363). Lines that hold its walk or its bytes are repaired before, and an uncorrectable one is logged (R409, R411). -/
def Mach.mgmtRead (m : Mach) (vd : Nat) (p : Word) (n : Nat) (code : Bool) : Except ReadErr (List Byte × Mach) :=
  if !glbOk p n then .error ⟨0x13, m⟩
  else (parts (ptrOff p) n).foldlM (fun (bs, m) (lo, len) =>
    let m := m.mendWalk .none vd lo
    match m.translate .none vd lo .read with
    | .error c => .error ⟨c, m.keepWalk vd lo⟩
    | .ok (t, m) =>
      if leafDepth t.leaf != 0 then .error ⟨0x13, m⟩
      else if code && !leafX t.leaf then .error ⟨0x05, m⟩
      else
        let m := m.mend (t.loc lo) len
        if m.locError vd (t.loc lo) len false then .error ⟨0x10, m.logBad (t.loc lo) len⟩
        else .ok (bs ++ m.readLoc (t.loc lo) len, m)) ([], m)

/-- The capture of a launch record acquires: the releases whose value it reads have their older stores committed (R102,
R270). -/
def Mach.mgmtAcquire (m : Mach) (vd : Nat) (p : Word) : Mach :=
  match m.walk vd (ptrOff p) with
  | .ok t => m.observe .kernel (some 5) (t.loc (ptrOff p)) 64
  | .error _ => m

/-- Bytes written through a virtual device's translation; `note` says whether the race checker sees them, as an outside
agent's (R325). -/
def Mach.mgmtWrite (m : Mach) (note : Bool) (vd : Nat) (p : Word) (bytes : List Byte) : Except (BitVec 8) Mach :=
  if !glbOk p bytes.length then .error 0x13
  else (parts (ptrOff p) bytes.length).foldlM (fun (m : Mach) (lo, len) => do
    let (t, m) ← (m.mendWalk .none vd lo).translate .none vd lo .write
    if leafDepth t.leaf != 0 then .error 0x13
    else if m.locError vd (t.loc lo) len true then .error 0x10
    else
      let m := match (t.loc lo).glbUnit vd (checkUnit t.leaf) with
        | some u => if note then m.outsideAccess vd true u none else m
        | none => m
      .ok (m.writeLoc (t.loc lo) (offs ((bytes.drop (lo - ptrOff p)).take len)))) m

/-! ## Command queue entries (R387) -/

/-- Base and size of a queue; the MCTP path has none. -/
def Mach.queueOf (m : Mach) : CmdQueue → Nat × Nat
  | .phys => (m.mgmt.qbase, m.mgmt.qsize)
  | .vf v => ((m.vd v).qbase, (m.vd v).qsize)
  | .mctp => (0, 0)

/-- The end of a command: RESULT and STATUS written and PHASE inverted in its entry; over MCTP a message (R387, R389). -/
def Mach.finishEntry (m : Mach) (r : CmdRef) (result : Word) (status : Nat) : Mach :=
  match r.queue with
  | .mctp => { m with mgmt := { m.mgmt with mctpOut := m.mgmt.mctpOut ++ [natLE 8 result.toNat ++ natLE 1 status] } }
  | q =>
    let a := (m.queueOf q).1 + 64 * r.slot
    let phase := Memory.get m.host (a + 4) ^^^ 1#8
    { m with host := Memory.write (Memory.write (Memory.write m.host (a + 8) (natLE 8 result.toNat)) (a + 5) (natLE 1 status)) (a + 4) [phase] }

/-! ## Waking (R379, R381) and idling (R376) -/

/-- The bound of a wake class in master cycles: 20 µs, 400 µs, 2 ms (R377). -/
def wakeBound (cls : Nat) : Nat := if cls = 1 then 72000 else if cls = 2 then 1440000 else 7200000

/-- How long the start ramps of a wake run from now on: 450 frames on the slowest of the virtual device's dies (R119, R381). -/
def Mach.rampSpan (m : Mach) (v : VDev) : Nat :=
  (v.clusters.map (fun (d, _) => m.frameTime d (m.frameNo d + 450) - m.time)).foldl max 0

/-- A master cycle by which a wake accepted at `since` powers its clusters up, so that its ramps end within its bound (R377, R381). -/
def Mach.wakeBy (m : Mach) (vd since n : Nat) : Nat :=
  max m.time (since + n % (wakeBound (m.vd vd).wake - m.rampSpan (m.vd vd) + 1))

/-- A virtual device begins to wake (R377, R381). -/
def Mach.startWake (m : Mach) (vd since : Nat) : Mach :=
  (m.updVd vd (fun v => { v with st := .waking, step := 1, wakeAt := none })).schedule .mc (m.wakeBy vd since (m.draw 40)) (.wakeComplete vd)

/-- A wake of a virtual device; of an active or waking one, or one torn down, it does nothing, and a collapse goes on to the end of
its step, which comes in time for the bound (R379, R382). -/
def Mach.wake (m : Mach) (vd : Nat) : Mach :=
  match m.vd? vd with
  | none => m
  | some v =>
    if v.closing.isSome then m
    else
      match v.st with
      | .active | .waking => m
      | .collapsing =>
        if v.wakeAt.isSome then m
        else
          ((m.updVd vd (fun v => { v with wakeAt := some m.time })).unschedule (.collapse vd)).schedule .mc
            (m.wakeBy vd m.time (m.draw 51)) (.collapse vd)
      | .dormant => m.startWake vd m.time

/-- The jobs of a virtual device. -/
def Mach.jobsOf (m : Mach) (vd : Nat) : List (Nat × Job) := m.jobs.filter (fun p => p.2.vd == vd)

/-- A job that holds clusters. -/
def Job.isBound (j : Job) : Bool := j.st == .bound || j.st == .running || j.st == .stopped

/-- Commands read from a queue and not ended: LAUNCH entries whose launch goes on. -/
def Mach.isIdle (m : Mach) (vd : Nat) : Bool :=
  let v := m.vd vd
  !((m.jobsOf vd).any (fun p => p.2.isBound || p.2.ref.isSome)) && v.launches.isEmpty && v.qhead == v.qtail

/-- Idle time begins anew, and is watched (R376). -/
def Mach.noteIdle (m : Mach) (vd : Nat) : Mach :=
  let v := m.vd vd
  let m := m.updVd vd (fun v => { v with idleSince := m.time })
  if v.idleMs != 0 && m.isIdle vd then m.schedule .mc (m.time + v.idleMs * mcPerMs) (.idleTimeout vd) else m

/-- The firmware looks at the launch queue of a virtual device again, at a drawn time. -/
def Mach.wantBind (m : Mach) (vd : Nat) : Mach :=
  if m.agenda.any (fun d => d.ev == .bind vd) then m else m.scheduleDrawn 41 (.bind vd)

/-! ## Completion (R104) and the end of a job -/

/-- The completion doubleword. -/
def complWord (cls cause gver code : Nat) : Word := BitVec.ofNat 64 (cls * 2 ^ 56 + cause * 2 ^ 48 + gver * 2 ^ 32 + code)

/-- A launch ends: its doubleword, where it names a place for it, and its command's entry if it came by one. -/
def Mach.finishNow (m : Mach) (vd : Nat) (compl : Option Word) (ref : Option CmdRef) (w : Word) : Mach :=
  let m := match compl.map (fun p => m.mgmtWrite true vd p (natLE 8 w.toNat)) with | some (.ok m) => m.bumpVg vd | _ => m
  match ref with
  | some r => m.finishEntry r w 0
  | none => m

/-- The same, held while the memory that the doubleword goes to sleeps (R380). -/
def Mach.finishLaunch (m : Mach) (vd : Nat) (compl : Option Word) (ref : Option CmdRef) (w : Word) : Mach :=
  match compl, (m.vd? vd).any (fun v => v.st != .active && v.closing.isNone) with
  | some p, true => (m.updVd vd (fun v => { v with heldAcc := v.heldAcc ++ [.finish p ref w] })).wake vd
  | _, _ => m.finishNow vd compl ref w

/-- A gang's request is withdrawn, and the activity of one that worked is lost (R117, R118). -/
def Mach.withdraw (m : Mach) (d k : Nat) (worked : Bool) : Mach := (m.recompute d k).ballast d k worked

/-- The quad of its cluster that the i-th quad of a gang is (R109). -/
def quadNo (mask : BitVec 12) (i : Nat) : Nat := ((List.range 12).filter (fun q => mask.getLsbD q)).getD i 0

/-- The core of its cluster that a rank of a gang is on (R77, R109). -/
def coreNo (mask : BitVec 12) (r : Nat) : Nat := 4 * quadNo mask (r / 4) + r % 4

/-- The memories of a gang's cores and quads keep what they hold when it leaves them (log entry 1). -/
def Mach.leaveSram (m : Mach) (x : Gang) : Mach :=
  m.updCluster x.die x.cluster (fun c => { c with
    sram := x.cores.zipIdx.foldl (fun t ((k : Core), r) => tset t (coreNo x.quadMask r)
      { scr := k.scr, tile := k.mat.tile, rung := k.mat.rung, poison := k.poison, worn := k.worn }) c.sram
    quads := x.quads.zipIdx.foldl (fun t (q, i) => tset t (quadNo x.quadMask i) q) c.quads })

/-- A bind record cleared (R109). -/
def Mach.clearSlot (m : Mach) (x : Gang) : Mach := m.updDie x.die (fun d => { d with slots := vset d.slots x.slot {} })

/-- A gang leaves the machine: its accesses are out, its bind record is cleared, the results and events it awaits are
forgotten, and its request is withdrawn if its end has not done so (R117). -/
def Mach.dropGang (m : Mach) (g : Nat) : Mach :=
  match m.gang? g with
  | none => m
  | some x =>
    let m := m.flushGang g
    let m := (m.leaveSram ((m.gang? g).getD x)).clearSlot x
    let mine (w : Who) : Bool := match w with | .agent (.core h _ _) => h == g | .save h => h == g | _ => false
    let m := { m with
      gangs := tdel m.gangs g
      agenda := m.agenda.filter (fun e => e.clk != Clock.ec g)
      copies := m.copies.filter (fun c => !mine c.who)
      replies := m.replies.filter (fun r => !mine r.2.who)
      todo := m.todo.filter (fun h => h != g)
      early := m.early.filter (fun e => !mine e.who)
      heard := m.heard.filter (fun v => !v.reader.any mine)
      fenced := m.fenced.filter (fun p => !mine p.1)
      released := m.released.map (fun v => if mine v.who then { v with who := .kernel } else v) }
    if x.run = .ended then m else m.withdraw x.die x.cluster x.active

/-- A Loupe context is free of its job. -/
def Mach.freeCtx (m : Mach) (d i c : Nat) : Mach :=
  let a : Agent := .loupe d i c
  let m := m.flushWho (.agent a)
  let m := { m with replies := m.replies.filter (fun r => r.2.who != Who.agent a) }
  m.updCtx d i c (fun x => { x with job := none, run := .free, arr := [], report := none })

/-- Whether a notice is of a job's gang, Loupe member or command. -/
def Job.notes (j : Job) (cmds : List Nat) (n : Notice) : Bool :=
  let mine (a : Agent) : Bool := match a with | .core g _ _ => j.gangs.contains g | .loupe d i _ => j.loupes.contains (d, i)
  match n with
  | .stop g => j.gangs.contains g
  | .loupeStop d i _ => j.loupes.contains (d, i)
  | .page _ _ _ _ who _ => match who with | .agent a => mine a | .cmd c => cmds.contains c | .save g => j.gangs.contains g | .kernel | .host => false
  | .bindRefused _ => false

/-- The Loupe members of a job, as agents. -/
def Mach.loupeAgents (m : Mach) (j : Job) : List Agent :=
  j.loupes.filterMap (fun (d, i) => (m.partition j.vd d i).map (fun p => Agent.loupe d i p.1))

/-- Every command of a job is cancelled, and its fault not raised (R320, R321). -/
def Mach.cancelCmds (m : Mach) (id : Nat) : Mach :=
  (m.cmds.filter (fun c => c.2.job == id)).foldl (fun m c => m.cmdCancel c.1 c.2 false (0, 0, 0)) m

/-- The Loupe members of a job issue nothing more. -/
def Mach.endLoupes (m : Mach) (j : Job) : Mach :=
  j.loupes.foldl (fun m (d, i) => match m.partition j.vd d i with
    | some p => m.updCtx d i p.1 (fun x => { x with run := .ended })
    | none => m) m

/-- A job leaves the machine: its commands are cancelled, its members killed, its barriers tested, its windows, cores and
contexts free (R107, R114, R295, R296, R394). -/
def Mach.dropJob (m : Mach) (id : Nat) : Mach :=
  match m.job? id with
  | none => m
  | some j =>
    let m := j.gangs.foldl Mach.flushGang m
    let cmds := (m.cmds.filter (fun c => c.2.job == id)).map (·.1)
    let m := m.cancelCmds id
    let m := m.killMembers j (j.gangs.flatMap m.gangMembers ++ m.loupeAgents j) (fun m => j.gangs.foldl Mach.deadGang (m.endLoupes j))
    let m := m.updVd j.vd (fun v => { v with
      joins := v.joins.filter (fun p => !(decide (j.grpBase ≤ p.1) && decide (p.1 < j.grpBase + j.hdr.ngrp) && j.isBound))
      launches := v.launches.filter (fun k => k != id) })
    let m := j.gangs.foldl Mach.dropGang m
    let m := j.loupes.foldl (fun m (d, i) => match m.partition j.vd d i with | some p => m.freeCtx d i p.1 | none => m) m
    let m := { m with
      jobs := tdel m.jobs id
      hits := m.hits.filter (fun a => match a with | .core g _ _ => !j.gangs.contains g | .loupe d i _ => !j.loupes.contains (d, i))
      mgmt := { m.mgmt with
        notices := m.mgmt.notices.filter (fun n => !j.notes cmds n) } }
    (m.wantBind j.vd).noteIdle j.vd

/-- A job ends with a class and a cause. -/
def Mach.endJob (m : Mach) (id : Nat) (cls cause code : Nat) : Mach :=
  match m.job? id with
  | none => m
  | some j => (m.finishLaunch j.vd (some j.compl) j.ref (complWord cls cause j.gver.toNat code)).dropJob id

/-- The same by a collapse, whose own step it is: nothing is held (R378). -/
def Mach.endAsleep (m : Mach) (id : Nat) (cls cause code : Nat) : Mach :=
  match m.job? id with
  | none => m
  | some j => (m.finishNow j.vd (some j.compl) j.ref (complWord cls cause j.gver.toNat code)).dropJob id

/-- A gang of an ending job: one between two ec stops at the next, which no freeze for a page holds back; any other is
killed (R394). -/
def Mach.endingGang (m : Mach) (j : Job) (g : Nat) : Mach :=
  match m.gang? g with
  | none => m
  | some x =>
    match x.run with
    | .running => m.updGang g (fun x => { x with causes := x.causes.filter (fun c => match c.kind with | .pageFault _ _ _ => false | _ => true) })
    | .draining _ => (m.killGang j g).updGang g (fun x => { x with run := .draining .stop })
    | .bound | .loaded | .stopped | .yielded | .ended => m.killGang j g

/-- A job ends with a class and a cause once its gangs have stopped: each of them at its next ec, its Loupe members now
(R394, R114). -/
def Mach.endStopped (m : Mach) (id : Nat) (cls cause code : Nat) : Mach :=
  match m.job? id with
  | none => m
  | some j =>
    if j.ending.isSome then m
    else if !(j.gangs.any (fun g => (m.gang? g).any (fun x => match x.run with | .running | .draining _ => true | _ => false)))
    then m.endJob id cls cause code
    else
      let m := m.updJob id (fun j => { j with st := .stopped, ending := some (cls, cause, code) })
      let m := j.gangs.foldl (fun m g => m.endingGang j g) m
      m.killMembers j (m.loupeAgents j) (fun m => m.endLoupes j)

/-- An ending job whose gangs have all stopped. -/
def Mach.endingOver (m : Mach) (j : Job) : Bool :=
  j.ending.isSome && j.gangs.all (fun g => (m.gang? g).all (fun x => match x.run with | .running | .draining _ => false | _ => true))

/-- The exit status of a job: its gangs' streams, then its Loupe members in ascending index (R93, R336). -/
def Mach.exitCode (m : Mach) (j : Job) : Nat :=
  match j.exit with
  | some e => e.code.toNat
  | none =>
    let l := sortBy (fun a b => decide (a.2 < b.2)) j.loupes
    ((l.filterMap (fun (d, i) => ((m.partition j.vd d i).bind (fun p => m.ctx? d i p.1)).map (·.exit.toNat))).find? (· != 0)).getD 0

/-- Every stream of a gang has ended. -/
def Gang.over (x : Gang) : Bool := x.cores.all (fun c => c.seq.strm.toList.all (fun r => r.st == .ended || r.st == .unused))

/-- Every stream and Loupe member of a job has ended, and all their work is delivered: a record that a T stream still holds is
raised then (R58, R81, R320, R336). -/
def Mach.workOver (m : Mach) (j : Job) : Bool :=
  j.gangs.all (fun g => (m.gang? g).any (fun x => x.run == .ended) && m.drained g) &&
  j.loupes.all (fun (d, i) => (m.partition j.vd d i).any (fun p => (m.ctx? d i p.1).any (fun x => x.run == .ended && x.seq.pend.isEmpty) &&
    !(m.cmds.any (fun c => c.2.owner == .l d i p.1))))

/-- A running job is over, with no record to raise (R58, R320). -/
def Mach.jobOver (m : Mach) (j : Job) : Bool :=
  j.st == .running && m.workOver j && j.gangs.all (fun g => (m.gang? g).all (fun x => x.cores.all (fun c => c.held.isEmpty)))

/-- The jobs that are over end with class 0, and those whose gangs have stopped with theirs (R58, R104, R394). -/
def Mach.jobEnds (m : Mach) : Mach :=
  let m := (m.jobs.filter (fun p => m.jobOver p.2)).foldl (fun m p => m.endJob p.1 0 0 (m.exitCode p.2)) m
  (m.jobs.filter (fun p => m.endingOver p.2)).foldl (fun m p => match p.2.ending with
    | some (cls, cause, code) => m.endJob p.1 cls cause code
    | none => m) m

/-! ## Capture (R102, R103, R111, R112, R335) -/

/-- A launch record's fields. -/
structure LaunchRec where
  hdrp : Word
  argp : Word
  arglen : Nat
  compl : Word
  graph : BitVec 32
  conc : Bool
  prio : Nat

/-- A record of 64 bytes (R103). -/
def launchRec (b : List Byte) : LaunchRec :=
  { hdrp := BitVec.ofNat 64 (descBits b 448 64), argp := BitVec.ofNat 64 (descBits b 384 64), arglen := descBits b 368 16
    compl := BitVec.ofNat 64 (descBits b 304 64), graph := BitVec.ofNat 32 (descBits b 272 32), conc := descBits b 4 1 == 1
    prio := descBits b 0 3 }

/-- Its own checks. -/
def launchOk (b : List Byte) : Bool :=
  let r := launchRec b
  descBits b 5 267 == 0 && descBits b 3 1 == 0 && r.arglen % 16 == 0 && glbOk r.hdrp 128 && (r.argp == 0 || glbOk r.argp r.arglen) &&
  glbOk r.compl 8 && ptrOff r.compl % 8 == 0

/-- A job header image of 128 bytes (R111). -/
def header (b : List Byte) : Header :=
  { codep := BitVec.ofNat 64 (descBits b 960 64), datap := BitVec.ofNat 64 (descBits b 896 64)
    grpp := BitVec.ofNat 64 (descBits b 832 64), lensp := BitVec.ofNat 64 (descBits b 768 64)
    csz := #v[descBits b 704 16, descBits b 720 16, descBits b 736 16, descBits b 752 16]
    ysp := descBits b 680 24, ngrp := descBits b 671 9, nbar := descBits b 662 9, nosl := descBits b 653 9
    ldep := descBits b 648 5, nvrg := descBits b 641 7, nsrg := descBits b 635 6, scrg := descBits b 626 9
    ngang := descBits b 620 6 + 1, gsize := descBits b 614 6 + 1, priv := descBits b 611 1 == 1 }

/-- The checks of R112 on a header. -/
def headerOk (v : VDev) (kernel : Bool) (b : List Byte) : Bool :=
  let h := header b
  descBits b 0 611 == 0 && descBits b 612 2 == 0 && h.csz.toList.all (fun n => decide (n ≤ 16384)) && decide (h.ngrp ≤ 256) &&
  decide (h.nbar ≤ 256) && decide (h.nosl ≤ 256) && decide (h.ldep ≤ 20) && decide (h.nvrg ≤ 64) && decide (h.nsrg ≤ 56) &&
  decide (h.gsize ≤ 48) && (!h.priv || kernel) && decide (h.ngang * ((h.gsize + 3) / 4) ≤ 12 * v.clusters.length)

/-- Words of 32 bits of bytes. -/
def codeWords (b : List Byte) : List Code := (words4 b).map (BitVec.ofNat 32)

/-- A data image: records until a head of all ones (R432). The first argument bounds their number; an address space holds
fewer than 2^50. -/
def Mach.dataImage (m : Mach) (vd : Nat) (p : Word) : Nat → Except ReadErr (List (Word × List Byte) × Mach)
  | 0 => .error ⟨0x13, m⟩
  | n + 1 => do
    let (h, m) ← m.mgmtRead vd p 16 true
    if leNat h = 2 ^ 128 - 1 then pure ([], m)
    else
      let len := leNat ((h.drop 8).take 4)
      let (body, m) ← m.mgmtRead vd (ptrAt p (ptrOff p + 16 : Nat)) len true
      let (rest, m) ← m.dataImage vd (ptrAt p (ptrOff p + 16 + (len + 15) / 16 * 16 : Nat)) n
      pure ((BitVec.ofNat 64 (leNat (h.take 8)), body) :: rest, m)

/-- A group table image: an entry for each group and gang, until bit 127 (R432). -/
def Mach.groupImage (m : Mach) (vd : Nat) (p : Word) : Nat → Except ReadErr (Tab Group × Mach)
  | 0 => .error ⟨0x13, m⟩
  | n + 1 => do
    let (e, m) ← m.mgmtRead vd p 16 false
    if descBits e 127 1 = 1 then pure ([], m)
    else
      let (rest, m) ← m.groupImage vd (ptrAt p (ptrOff p + 16 : Nat)) n
      let id := descBits e 64 8
      let g := (tget rest id).getD {}
      pure (tset rest id { cores := (descBits e 72 8, BitVec.ofNat 48 (descBits e 0 48)) :: g.cores
                           loupes := g.loupes ||| BitVec.ofNat 16 (descBits e 48 16) }, m)

/-- The images a header points to (R111, R432). LENSP = 0 means no lenses; a DATAP or GRPP of 0 points to address 0. Every
entry of the group table names Loupe members, one of a group the job does not declare too (R112, R335). -/
def Mach.images (m : Mach) (vd : Nat) (h : Header) : Except ReadErr (Images × Mach) := do
  let sec (m : Mach) (t : Nat) : Except ReadErr (List Code × Mach) := do
    let (b, m) ← m.mgmtRead vd (ptrAt h.codep (ptrOff h.codep + 0x10000 * t : Nat)) (4 * vget h.csz t 0) true
    pure (codeWords b, m)
  let (s, m) ← sec m 0
  let (v, m) ← sec m 1
  let (mm, m) ← sec m 2
  let (t, m) ← sec m 3
  let (gb, m) ← m.mgmtRead vd (ptrAt h.codep (ptrOff h.codep + 0x40000 : Nat)) ((vget h.csz 0 0 + 1) / 2) true
  let (data, m) ← m.dataImage vd h.datap (2 ^ 50)
  let (groups, m) ← m.groupImage vd h.grpp (2 ^ 50)
  let (lb, m) ← if h.lensp = 0 then pure ([], m) else m.mgmtRead vd h.lensp 64 false
  pure ({ code := #v[s, v, mm, t]
          guards := (gb.flatMap (fun b => [b.extractLsb' 0 4, b.extractLsb' 4 4])).take (vget h.csz 0 0)
          data := data, groups := groups.filter (fun p => decide (p.1 < h.ngrp))
          loupes := groups.foldl (fun a p => a ||| p.2.loupes) 0
          lens := Vector.ofFn (fun i : Fin 8 => BitVec.ofNat 64 (leNat ((lb.drop (8 * i.val)).take 8))) }, m)

/-- Dies on which a virtual device owns every Loupe core of a set (R335). -/
def VDev.loupeDies (v : VDev) (l : BitVec 16) : List Nat :=
  (List.range 4).filter (fun d => (List.range 16).all (fun i => !l.getLsbD i || v.loupes.any (fun x => x.1 == d && x.2.1 == i)))

/-- The partition of a Loupe core that serves n contexts (R333). -/
def partBytes (n : Nat) : Nat := if n ≤ 1 then 2 ^ 18 else if n = 2 then 2 ^ 17 else 2 ^ 16

/-- The smallest partition among the Loupe members on a die. -/
def Mach.leastPartition (m : Mach) (d : Nat) (l : BitVec 16) : Nat :=
  (List.range 16).foldl (fun a i => if l.getLsbD i then min a (partBytes (((m.loupe? d i).map (fun x => x.ctxs.length)).getD 1)) else a) (2 ^ 18)

/-- The shadow entries of the race-checked pages of a virtual device are cleared before its job numbers begin anew (R324). -/
def VDev.takeJob (v : VDev) (id now : Nat) : VDev :=
  { v with
    nextJob := v.nextJob + 1, glbShadow := if v.nextJob = 0xFFFF then [] else v.glbShadow
    launches := v.launches ++ [id], idleSince := now }

/-- What the records of one launch share: its number, graph id and version, and whether it may run beside itself (R113). -/
structure LaunchOf where
  num : Nat
  graph : BitVec 32 := 0
  ver : Nat := 0
  conc : Bool := false

/-- Save areas that a job of n gangs can be restored from: one for each, 64 KiB aligned in stacked DRAM that the virtual device
owns (R402). -/
def VDev.areasOk (v : VDev) (n : Nat) (areas : List Nat) : Bool :=
  areas.length == n && areas.all (fun a => a % 65536 == 0 && decide (a / 2 ^ 44 ≤ 3) && v.owns a)

/-- One launch record captured, with its header and images, or refused (R102-R104, R112, R335). A record that cannot be
read, or is misaligned, names no place for the completion; ARGP = 0 with a nonzero ARGLEN gives that many bytes of 0; a
launch of a job or of the kernel has no command entry; of a bad record that finds the queue full the queue is judged first, CLASS 5
(log entries 37 and 76). With `areas`, the images to bind it with RESUME = 1 (R400). -/
def Mach.captureOne (m : Mach) (vd : Nat) (ptr : Word) (kernel : Bool) (ref : Option CmdRef) (areas : List Nat) (l : LaunchOf) : Mach :=
  match m.vd? vd with
  | none => m.finishLaunch vd none ref (complWord 2 0 0 0)
  | some v =>
    match (if ptrOff ptr % 64 = 0 then m.mgmtRead vd ptr 64 false else .error ⟨0x13, m⟩) with
    | .error e => e.m.finishLaunch vd none ref (complWord 3 e.cause.toNat 0 0)
    | .ok (b, m) =>
      let r := launchRec b
      let refuse (cls : Nat) (e : ReadErr) : Mach := e.m.finishLaunch vd (some r.compl) ref (complWord cls e.cause.toNat 0 0)
      if v.launches.length ≥ 1024 then refuse 5 ⟨0, m⟩
      else if !launchOk b then refuse 3 ⟨0x13, m⟩
      else
        match m.mgmtRead vd r.hdrp 128 false with
        | .error e => refuse 3 e
        | .ok (hb, m) =>
          if !headerOk v kernel hb then refuse 3 ⟨0x13, m⟩
          else
            let h := header hb
            match m.images vd h with
            | .error e => refuse 3 e
            | .ok (im, m) =>
              let dies := v.loupeDies im.loupes
              if im.loupes != 0 && dies.isEmpty then refuse 3 ⟨0x05, m⟩
              else if im.loupes != 0 && dies.all (fun d => decide (m.leastPartition d im.loupes < r.arglen)) then refuse 3 ⟨0x02, m⟩
              else
                match (if r.argp = 0 then .ok (List.replicate r.arglen 0, m) else m.mgmtRead vd r.argp r.arglen false) with
                | .error e => refuse 3 e
                | .ok (args, m) =>
                  let m := m.fresh
                  let (id, m) := m.newId
                  let gangs := if v.areasOk h.ngang areas then (List.range areas.length).map (fun i => m.nextId + i) else []
                  let m := { m with nextId := m.nextId + gangs.length }
                  let j : Job := { vd := vd, num := v.nextJob, hdr := h, img := { im with args := args }, compl := r.compl, prio := r.prio
                                   graph := l.graph, gver := BitVec.ofNat 16 l.ver, conc := l.conc, accepted := m.time, ref := ref
                                   launch := l.num, gangs := gangs, saved := gangs.zip areas
                                   hdrc := Config.freeWord (64 * m.freeCtr), argc := Config.freeWord (64 * m.freeCtr + 1) }
                  let m := { m with jobs := m.jobs ++ [(id, j)] }.updVd vd (fun v => v.takeJob id m.time)
                  (m.wake vd).wantBind vd

/-- A launch that teardown has overtaken ends with CLASS 2, at its record's COMPL (R114). -/
def Mach.closeLaunch (m : Mach) (vd : Nat) (ptr : Word) (ref : Option CmdRef) : Mach :=
  let (compl, m) := match m.mgmtRead vd ptr 64 false with | .ok (b, m) => (some (launchRec b).compl, m) | .error e => (none, e.m)
  m.finishLaunch vd compl ref (complWord 2 0 0 0)

/-- A launch captured: its record, and with a graph id the other records of the version that stands now, all of them under the
graph id, the version and the CONC of the record launched. Of an id that has no version the record launched runs alone, as
version 0; it runs whether or not the version names it, and the others run whatever comes of it (R102, R113; log entry 77). -/
def Mach.captureNow (m : Mach) (vd : Nat) (ptr : Word) (kernel : Bool) (ref : Option CmdRef) (areas : List Nat) : Mach :=
  let m := m.mgmtAcquire vd ptr
  let (num, m) := m.newId
  let r : Option LaunchRec := match m.mgmtRead vd ptr 64 false with | .ok (b, _) => some (launchRec b) | .error _ => none
  let graph := (r.map (·.graph)).getD 0
  let (ver, recs) := if graph = 0 then (0, []) else (tget (m.vd vd).graphs graph.toNat).getD (0, [])
  let l : LaunchOf := { num := num, graph := graph, ver := ver, conc := (r.map (·.conc)).getD false }
  (recs.filter (fun p => p != ptr)).foldl (fun m p => m.captureOne vd p kernel none [] l) (m.captureOne vd ptr kernel ref areas l)

/-- A launch reaches the management core. One of a virtual device that is torn down ends with CLASS 2 (R114); one of a virtual
device that is not active is held, since its capture reads memory there, and wakes it (R380). -/
def Mach.capture (m : Mach) (vd : Nat) (ptr : Word) (kernel : Bool) (ref : Option CmdRef) (areas : List Nat := []) : Mach :=
  match m.vd? vd with
  | none => m.captureNow vd ptr kernel ref areas
  | some v =>
    if v.closing.isSome then m.closeLaunch vd ptr ref
    else if v.st != .active then (m.updVd vd (fun v => { v with heldAcc := v.heldAcc ++ [.launch ptr kernel ref areas] })).wake vd
    else m.captureNow vd ptr kernel ref areas

/-- LNOTIFY: the record a device job notified is submitted; no device job is the kernel (R102, R112). -/
def execLnotify (vd : Nat) (ptr : BitVec 64) (s : State) : Host.Outcome State Fault Refusal :=
  .next { s with m := s.m.capture vd ptr false none }

/-- KERNEL_LAUNCH: a launch from the resident kernel, which may be privileged, or may bind images that have been copied to save
areas (R102, R112, R400; log entry 29). -/
def execKernelLaunch (vd : Nat) (ptr : LaunchPtr) (s : State) : Host.Outcome State Fault Refusal :=
  .next { s with m := s.m.capture vd ptr.ptr true none ptr.areas }

/-- GRAPH_EDIT: the records of a graph id become a new version (R113). The first version of an id is 1, and the one after
65535 is 0 (log entry 77). -/
def execGraphEdit (vd : Nat) (graph : BitVec 32) (records : List (BitVec 64)) (s : State) : Host.Outcome State Fault Refusal :=
  event ((s.m.vd? vd).isSome && graph != 0)
    (s.m.updVd vd (fun v =>
      let ver := ((tget v.graphs graph.toNat).map (·.1)).getD 0
      { v with graphs := tset v.graphs graph.toNat ((ver + 1) % 65536, records) })) s

/-! ## Ranking and placing (R105-R109, R335) -/

/-- The effective priority of a waiting launch (R105). -/
def Mach.effPrio (m : Mach) (j : Job) : Nat := min 7 (j.prio + (m.time - j.accepted) / 7200000)

/-- A relaunch waits behind an earlier launch of its graph, still queued or bound, unless it may run beside it (R113). -/
def Mach.graphHeld (m : Mach) (id : Nat) (j : Job) : Bool :=
  j.graph != 0 && !j.conc && m.jobs.any (fun p => p.1 != id && p.2.vd == j.vd && p.2.graph == j.graph && decide (p.2.launch < j.launch))

/-- The waiting launches of a virtual device, highest effective priority first, earlier acceptance first, in the order of
their capture within one master cycle (R105). -/
def Mach.ranked (m : Mach) (vd : Nat) : List (Nat × Job) :=
  let l := (m.vd vd).launches.filterMap (fun id => (m.job? id).map (fun j => (id, j)))
  sortBy (fun a b => decide (m.effPrio a.2 > m.effPrio b.2) || (m.effPrio a.2 == m.effPrio b.2 &&
      (decide (a.2.accepted < b.2.accepted) || (a.2.accepted == b.2.accepted && decide (a.1 < b.1)))))
    (l.filter (fun p => !m.graphHeld p.1 p.2))

/-- Quads of a cluster that no gang holds. -/
def Mach.freeQuads (gangs : Tab Gang) (d k : Nat) : BitVec 12 :=
  gangs.foldl (fun q p => if p.2.die == d && p.2.cluster == k then q &&& ~~~p.2.quadMask else q) (BitVec.allOnes 12)

/-- The lowest n quads of a set (R109). -/
def lowQuads (q : BitVec 12) (n : Nat) : BitVec 12 :=
  (((List.range 12).filter (fun i => q.getLsbD i)).take n).foldl (fun a i => a ||| (1#12 <<< i)) 0

/-- Cluster and quads for each gang in turn: the first cluster that has room (log entry 29). `held` are the gangs there
already and those placed before. -/
def placeGangs (clusters : List (Nat × Nat)) (quads : Nat) : Nat → Tab Gang → Option (List (Nat × Nat × BitVec 12))
  | 0, _ => some []
  | n + 1, held => do
    let (d, k) ← clusters.find? (fun c => decide (quads ≤ popN 12 (Mach.freeQuads held c.1 c.2).toNat))
    let q := lowQuads (Mach.freeQuads held d k) quads
    let rest ← placeGangs clusters quads n (held ++ [(0, { job := 0, idx := 0, vd := 0, die := d, cluster := k, quadMask := q, save := 0 })])
    pure ((d, k, q) :: rest)

/-- The Loupe members of a job that waits to go on, or those its groups would have on a die (R335, R336). -/
def Job.membersOn (j : Job) (d : Nat) : List (Nat × Nat) :=
  if j.loupes.isEmpty then ((List.range 16).filter (fun i => j.img.loupes.getLsbD i)).map (fun i => (d, i)) else j.loupes

/-- A place for every gang of a job, its first on die `d` (R106, R335); a job with Loupe members goes on only on the dies it
was bound to (R336). -/
def Mach.placeOn (m : Mach) (j : Job) (d : Nat) : Option (List (Nat × Nat × BitVec 12)) := do
  let quads := (j.hdr.gsize + 3) / 4
  let all := (m.vd j.vd).clusters
  if (j.membersOn d).all (fun (d, i) => (m.partition j.vd d i).any (fun p => (m.ctx? d i p.1).any (fun x => x.run == .free))) then
    let first ← placeGangs (all.filter (fun c => c.1 == d)) quads 1 m.gangs
    let held := first.map (fun (d, k, q) => (0, { job := 0, idx := 0, vd := 0, die := d, cluster := k, quadMask := q, save := 0 }))
    let rest ← placeGangs (all.filter (fun c => j.loupes.isEmpty || j.dies.contains c.1)) quads (j.hdr.ngang - 1) (m.gangs ++ held)
    pure (first ++ rest)
  else none

/-- A place for a job: on the first die that has one. -/
def Mach.place? (m : Mach) (j : Job) : Option (List (Nat × Nat × BitVec 12)) :=
  let dies := if !j.loupes.isEmpty then j.dies
    else if j.img.loupes = 0 then List.range 4
    else ((m.vd j.vd).loupeDies j.img.loupes).filter (fun d => decide (j.img.args.length ≤ m.leastPartition d j.img.loupes))
  dies.findSome? (m.placeOn j)

/-- The lowest base of n free entries of a table of 256, given the runs in use (R107). -/
def lowestRun (n : Nat) (used : List (Nat × Nat)) : Option Nat :=
  (List.range 257).find? (fun b => decide (b + n ≤ 256) && used.all (fun (x, k) => decide (x + k ≤ b) || decide (b + n ≤ x) || k == 0))

/-- The window bases of a job: groups and barriers. -/
def Mach.windows (m : Mach) (j : Job) : Option (Nat × Nat) := do
  let bound := ((m.jobsOf j.vd).map (·.2)).filter Job.isBound
  let g ← lowestRun j.hdr.ngrp (bound.map (fun b => (b.grpBase, b.hdr.ngrp)))
  let b ← lowestRun j.hdr.nbar (bound.map (fun b => (b.barBase, b.hdr.nbar)))
  pure (g, b)

/-- Bytes of the largest save area: 48 ranks and 16 Loupe members (R402). -/
def saveBytes : Nat := 0x1A00000 + 48 * 0x300000 + 16 * 0x50000

/-- The save areas in a region: from its top down, 32 of them (R402; log entry 29). -/
def saveAreasIn (die region : Nat) : List Nat :=
  (List.range 32).map (fun n => die * 2 ^ 44 + (region + 1) * (6 * 2 ^ 30) - (n + 1) * saveBytes)

/-- Save areas for n gangs, none in use. -/
def Mach.saveAreas (m : Mach) (vd n : Nat) : Option (List Nat) :=
  let used := (m.gangs.filter (fun p => p.2.vd == vd)).map (fun p => p.2.save.toNat) ++
    (m.jobsOf vd).flatMap (fun p => p.2.saved.map (·.2))
  let free := ((m.vd vd).saveAreas.filter (fun a => !used.contains a)).take n
  if free.length = n then some free else none

/-- The lowest record of a slot table that is not in force. -/
def Die.freeSlot (d : Die) : Nat := (d.slots.toList.findIdx? (fun r => !r.valid)).getD 0

/-- The bind record of a gang (R108). -/
def Job.bindRec (j : Job) (x : Gang) : BindRec :=
  { hdrc := j.hdrc, save := x.save, argc := j.argc, job := j.num, gang := x.idx, vd := BitVec.ofNat 4 x.vd
    clu := BitVec.ofNat 2 x.cluster, size := BitVec.ofNat 6 (j.hdr.gsize - 1), quads := x.quadMask, req := x.req
    resume := x.resume, valid := true }

/-- A gang bound: its bind record in the lowest free slot of its die's table (R108). -/
def Mach.bindGang (m : Mach) (j : Job) (g : Nat) (x : Gang) : Mach :=
  let slot := ((m.dies[x.die]?).map Die.freeSlot).getD 0
  let x := { x with slot := slot }
  { m with gangs := m.gangs ++ [(g, x)] }.updDie x.die (fun d => { d with slots := vset d.slots slot (j.bindRec x) })

/-- A saved gang bound again: it keeps its number, its save area and a request that has reached it meanwhile (R74), and asks for
the pattern its cluster applies until its first PHASE (R78; log entry 78). -/
def Mach.bindSaved (m : Mach) (j : Job) (g area : Nat) (x : Gang) : Mach :=
  m.bindGang j g { x with
    save := BitVec.ofNat 64 area, req := ((m.cluster? x.die x.cluster).map (·.applied)).getD 15, resume := true, preempt := tget j.asked g }

/-- A job bound: its bind records (R108), windows, and its Loupe members. A gang that does not go on asks for pattern 15 (log
entry 78). -/
def Mach.bindJob (m : Mach) (id : Nat) (j : Job) (place : List (Nat × Nat × BitVec 12)) (grp bar : Nat) (areas : List Nat) : Mach :=
  let resume := !j.saved.isEmpty
  let (m, gangs) := (place.zip areas).zipIdx.foldl (fun (acc : Mach × List Nat) (((d, k, q), a), i) =>
    let (m, l) := acc
    let x : Gang := { job := id, idx := BitVec.ofNat 8 i, vd := j.vd, die := d, cluster := k, quadMask := q, save := BitVec.ofNat 64 a }
    match if resume then (j.gangs[i]?).bind (fun g => (tget j.saved g).map (fun s => (g, s))) else none with
    | some (g, s) => (m.bindSaved j g s x, l ++ [g])
    | none => let (g, m) := m.newId; (m.bindGang j g x, l ++ [g])) (m, [])
  let d0 := (place.head?.map (·.1)).getD 0
  let loupes := j.membersOn d0
  let m := loupes.foldl (fun m (d, i) => match m.partition j.vd d i with
    | some p => m.updCtx d i p.1 (fun x => { x with job := some id, run := .loaded })
    | none => m) m
  let m := m.updVd j.vd (fun v => { v with launches := v.launches.filter (fun k => k != id) })
  let m := m.updJob id (fun j => { j with
    st := .bound, effPrio := m.effPrio j, boundAt := m.time, grpBase := grp, barBase := bar, gangs := gangs, loupes := loupes, asked := []
    dies := if j.dies.isEmpty then (place.map (·.1)).eraseDups else j.dies })
  m.scheduleDrawn 42 (.jobLoad id)

/-- A gang on its way to its save (R76). -/
def Gang.yielding (x : Gang) : Bool := match x.run with | .draining .save | .draining .checkThenSave | .yielded => true | _ => false

/-- A job has a gang that no request stands against. -/
def Mach.unasked (m : Mach) (j : Job) : Bool := j.gangs.any (fun g => (m.gang? g).any (fun x => x.preempt.isNone && !x.yielding))

/-- The bound job of lowest effective priority; among equals the one bound latest (R106). -/
def Mach.lowestBound (m : Mach) (vd : Nat) : Option (Nat × Job) :=
  let l := (m.jobsOf vd).filter (fun p => p.2.isBound)
  (sortBy (fun a b => decide (a.2.effPrio < b.2.effPrio) || (a.2.effPrio == b.2.effPrio && decide (a.2.boundAt > b.2.boundAt))) l).head?

/-- Whether the jobs of a virtual device are held from binding: not active, torn down, a crashed kernel, or a dead package. -/
def Mach.bindPaused (m : Mach) (vd : Nat) : Bool :=
  (m.vd vd).st != .active || (m.vd vd).closing.isSome || m.mgmt.hold || m.mgmt.dead || !m.mgmt.booted

/-- Where a waiting launch can be placed: its gangs, its windows and its save areas. -/
def Mach.fits (m : Mach) (vd : Nat) (j : Job) : Option (List (Nat × Nat × BitVec 12) × (Nat × Nat) × List Nat) := do
  let p ← m.place? j
  let w ← m.windows j
  let a ← if j.saved.isEmpty then m.saveAreas vd j.hdr.ngang else some (List.replicate j.hdr.ngang 0)
  pure (p, w, a)

/-- The clusters where a saved gang of a bound job can go on: with Loupe members, gang 0 on their die, the others on the dies the
job was bound to (R336). -/
def Mach.clustersFor (m : Mach) (j : Job) (g : Nat) : List (Nat × Nat) :=
  let first := (j.gangs.head?) == some g
  (m.vd j.vd).clusters.filter (fun c => match j.loupes with
    | [] => true
    | (d, _) :: _ => if first then c.1 == d else j.dies.contains c.1)

/-- A saved gang that the kernel lets go on is bound again beside the others of its job, where it can be placed (R78, R394). -/
def Mach.bindAlone (m : Mach) (id g : Nat) : Mach :=
  match m.job? id with
  | none => m
  | some j =>
    match placeGangs (m.clustersFor j g) ((j.hdr.gsize + 3) / 4) 1 m.gangs, tget j.saved g with
    | some [(d, k, q)], some a =>
      let idx := j.gangs.findIdx (fun h => h == g)
      let m := m.bindSaved j g a { job := id, idx := BitVec.ofNat 8 idx, vd := j.vd, die := d, cluster := k, quadMask := q, save := 0 }
      (m.updJob id (fun j => { j with back := j.back.erase g, asked := tdel j.asked g })).scheduleDrawn 42 (.jobLoad id)
    | _, _ => m

/-- The saved gangs of a virtual device's bound jobs that are to go on. -/
def Mach.waitingBack (m : Mach) (vd : Nat) : List (Nat × Nat) :=
  (m.jobsOf vd).flatMap (fun p => if p.2.isBound && p.2.ending.isNone then p.2.back.map (fun g => (p.1, g)) else [])

/-- BIND: the launch of highest effective priority is bound, when it can be placed; the others wait behind it. One that
cannot be placed may pre-empt the lowest bound job (R105, R106). Gangs saved alone go on first. The firmware looks again while any
of them wait. -/
def execBind (vd : Nat) (s : State) : Host.Outcome State Fault Refusal :=
  let m := s.m.fresh
  let m := (m.waitingBack vd).foldl (fun m p => m.bindAlone p.1 p.2) m
  let m' := match m.ranked vd with
    | [] => m
    | (id, j) :: _ =>
      match m.fits vd j with
      | some (p, (g, b), a) => m.bindJob id j p g b a
      | none =>
        match m.lowestBound vd with
        | some (low, k) =>
          if m.effPrio j > k.effPrio && k.st == .running && !(k.gangs.any (fun g => (m.gang? g).any (fun x => x.preempt.isSome || x.yielding))) &&
              !m.agenda.any (fun d => d.ev == .preemptRequest low)
          then m.scheduleDrawn 43 (.preemptRequest low) else m
        | none => m
  event ((s.m.vd? vd).isSome && !s.m.bindPaused vd)
    (if (m'.vd vd).launches.isEmpty && (m'.waitingBack vd).isEmpty then m' else m'.schedule .mc (m'.time + 1 + m'.draw 44) (.bind vd)) s

/-! ## Load (R110, R335) and start (R53) -/

/-- The first four groups of a job that hold a core (R54). -/
def groupsOf (groups : Tab Group) (idx r : Nat) : List Nat :=
  (((List.range 256).filter (fun g => (tget groups g).any (fun x => x.cores.any (fun c => c.1 == idx && c.2.getLsbD r)))).take 4)

/-- A scalar side at load: code, guards, s2-s5 (R20, R110, R335). -/
def loadSeq (code : Vector (List Code) 4) (guards : List (BitVec 4)) (live : Nat → Bool) (s2 s3 s4 s5 : Word) : Seq :=
  { code := code, guards := guards
    sreg := vset (vset (vset (vset (Vector.replicate 56 0) 2 s2) 3 s3) 4 s4) 5 s5
    strm := Vector.ofFn (fun i : Fin 4 => { st := if live i.val then .live else .unused }) }

/-- A core at a fresh load (R110). R110 clears the tags and the pending bits, so its scratchpad, tiles and rung store hold what they
held, `base` (DEDUCED; log entry 1). -/
def loadCore (h : Header) (im : Images) (idx r vg : Nat) (base : CoreSram) : Core :=
  let data := if idx = 0 then im.data.filter (fun d => ptrSpace d.1 == 1 && ptrRank d.1 == r) else []
  let mem := data.foldl (fun (m : Memory) d => Memory.write m (ptrOff d.1) d.2) base.scr
  let gm := groupsOf im.groups idx r
  { seq := loadSeq im.code im.guards (fun i => vget h.csz i 0 != 0) (mkPtr 1 r 0x1F0000) (BitVec.ofNat 64 r)
      (BitVec.ofNat 64 h.gsize) (mkPtr 1 r 0)
    mat := { tile := base.tile, rung := base.rung }, scr := Memory.write mem 0x1F0000 im.args, poison := base.poison, worn := base.worn
    lens := im.lens, dg := vg
    gm := Vector.ofFn (fun i : Fin 4 => (gm[i.val]?).map (BitVec.ofNat 8)) }


/-- The image of a gang of a job in its save area: Loupe members are in gang 0's (R402). -/
def Mach.savedImage (m : Mach) (j : Job) (x : Gang) : Part :=
  m.imageAt x.save.toNat (loupeOff j.hdr.gsize (if x.idx = 0 then j.loupes.length else 0))

/-- A gang loaded fresh, with every slot of its quads free and 0 (R205), or under RESUME restored from the image at SAVE (R110, R395, R402). -/
def Mach.loadGang (m : Mach) (j : Job) (x : Gang) (vg : Nat) : Gang :=
  if x.resume then { (x.restored (m.savedImage j x) j.hdr.gsize j.img).resumed with run := .loaded }
  else
    let c := m.cluster? x.die x.cluster
    { x with
      run := .loaded
      quads := List.replicate ((j.hdr.gsize + 3) / 4) {}
      cores := (List.range j.hdr.gsize).map (fun r =>
        loadCore j.hdr j.img x.idx.toNat r vg ((c.bind (fun c => tget c.sram (coreNo x.quadMask r))).getD {})) }

/-- The image that holds the barriers and the joins of a job that goes on: gang 0's. -/
def Mach.firstImage (m : Mach) (j : Job) : Option Part :=
  ((j.gangs.head?).bind m.gang?).bind (fun x => if x.resume then some (m.savedImage j x) else none)

/-- The image that holds its Loupe members: a checkpoint's, FLAGS bit 0 of its header, holds none, and they are loaded (R400,
R403). -/
def Mach.loupeImage (m : Mach) (j : Job) : Option Part := (m.firstImage j).filter (fun p => !((p.bytes 15 1).headD 0).getLsbD 0)

/-- The streams of a job's gangs that have arrived at a join. -/
def Mach.atJoin (m : Mach) (j : Job) (g : Nat) (fin : Bool) : List (Nat × Nat × Stream) :=
  j.gangs.flatMap (fun h => (((m.gang? h).map (·.cores)).getD []).zipIdx.flatMap (fun ((c : Core), r) =>
    ([Stream.s, .v, .m, .t].filter (fun st => (c.seq.regs st).st == .arrived g fin)).map (fun st => (h, r, st))))

/-- A group table of a save area, into a group: the ranks of its gang, and the Loupe cores (R402). -/
def Part.group (p : Part) (idx g : Nat) (e : Group) : Group :=
  let n := leNat (p.bytes (0x3000 + 8 * g) 8)
  { cores := e.cores.filter (fun c => c.1 != idx) ++ (if n % 2 ^ 48 = 0 then [] else [(idx, BitVec.ofNat 48 n)])
    loupes := e.loupes ||| BitVec.ofNat 16 (n / 2 ^ 48) }

/-- A group of a job as its gangs' save areas hold it, and where none of them goes on as its group image does (R110, R402). -/
def Mach.loadGroup (m : Mach) (j : Job) (gangs : List Gang) (g : Nat) (e : Group) : Group :=
  (gangs.filter (·.resume)).foldl (fun e x => Part.group (m.savedImage j x) x.idx.toNat g e) e

/-- The declared groups of a job loaded: with `whole`, all of their entries; else those of gangs that go on alone. -/
def Mach.loadGroups (m : Mach) (j : Job) (gangs : List Gang) (whole : Bool) : Mach :=
  (List.range j.hdr.ngrp).foldl (fun m g => m.updVd j.vd (fun v => { v with
    groups := tset v.groups (j.grpBase + g) (m.loadGroup j gangs g
      (if whole then (if gangs.any (·.resume) then {} else (tget j.img.groups g).getD {}) else (tget v.groups (j.grpBase + g)).getD {})) })) m

/-- The declared entries of a job's windows: groups from the image or the save areas; barriers fresh, or with the open joins as
saved (R107, R110, R299, R402). -/
def Mach.loadWindows (m : Mach) (j : Job) : Mach :=
  let img := m.firstImage j
  let m := m.loadGroups j (j.gangs.filterMap m.gang?) true
  let m := (List.range j.hdr.nbar).foldl (fun m b => m.updVd j.vd (fun v => { v with
    bars := tset v.bars (j.barBase + b) ((img.map (fun p => p.bar j b)).getD { decl := true }) })) m
  (((img.map Part.joins).getD []).filter (fun (g, _, _) => decide (g < j.hdr.ngrp))).foldl (fun m (g, fin, pv) =>
    m.updVd j.vd (fun v => { v with joins := tset v.joins (j.grpBase + g) { fin := fin, arrived := m.atJoin j g fin, pv := pv } })) m

/-- The first four groups of a job that name a Loupe core (R54). -/
def loupeGroups (groups : Tab Group) (i : Nat) : Vector (Option (BitVec 8)) 4 :=
  let l := (List.range 256).filter (fun g => (tget groups g).any (fun x => x.loupes.getLsbD i))
  Vector.ofFn (fun k : Fin 4 => (l[k.val]?).map (BitVec.ofNat 8))

/-- A Loupe member's context loaded, or restored: the k-th in ascending Loupe index (R335, R336, R402). -/
def Mach.loadLoupe (m : Mach) (j : Job) (img : Option Part) (k d i : Nat) : Mach :=
  match m.partition j.vd d i with
  | none => m
  | some (c, _) =>
    match img with
    | some p => m.updCtx d i c (fun x => (p.slice (loupeOff j.hdr.gsize k) 0x50000).loupe j.img j.barBase x)
    | none => m.updCtx d i c (fun x => { x with
        seq := loadSeq j.img.code j.img.guards (fun k => k == 0) (mkPtr 2 i 0) (BitVec.ofNat 64 (0x40 + i)) (BitVec.ofNat 64 j.hdr.gsize) (mkPtr 2 i 0)
        mem := Memory.write x.mem 0 j.img.args, run := .loaded, arr := [], exit := 0, report := none, nextSeq := 0
        gm := loupeGroups j.img.groups i })

/-- The `.glb` records of a data image written through translation (R432); the race checker sees none of them (R325). -/
def Mach.loadGlb (m : Mach) (j : Job) : Except (BitVec 8) Mach :=
  (j.img.data.filter (fun d => ptrSpace d.1 == 0)).foldlM (fun (m : Mach) d => m.mgmtWrite false j.vd d.1 d.2) m

/-- The bind record of a gang as its slot holds it. -/
def Mach.slotOf (m : Mach) (x : Gang) : BindRec := ((m.dies[x.die]?).map (fun d => vget d.slots x.slot {})).getD {}

/-- A bind record dispatch hardware refuses: a wrong count of quads, or quads another valid record of the cluster holds
(R109). -/
def Mach.recordBad (m : Mach) (x : Gang) : Bool :=
  let r := m.slotOf x
  popN 12 r.quads.toNat != (r.size.toNat + 4) / 4 ||
  (((m.dies[x.die]?).map (fun d => d.slots.toList)).getD []).zipIdx.any (fun (o, n) =>
    n != x.slot && o.valid && o.clu == r.clu && o.quads &&& r.quads != 0)

/-- Requests that stand against gangs about to leave their cores stay pending (R74). -/
def Mach.keepAsked (m : Mach) (id : Nat) (gangs : List Nat) : Mach :=
  m.updJob id (fun j => { j with asked := gangs.foldl (fun t g => match (m.gang? g).bind (·.preempt) with | some a => tset t g a | none => t) j.asked })

/-- A refused record: the records of the job are cleared and its launch waits again (R109). -/
def Mach.refuseBind (m : Mach) (id : Nat) (j : Job) : Mach :=
  let m := (m.keepAsked id j.gangs)
  let m := (j.gangs.filterMap m.gang?).foldl Mach.clearSlot m
  let m := { m with gangs := m.gangs.filter (fun p => !j.gangs.contains p.1) }
  let m := j.loupes.foldl (fun m (d, i) => match m.partition j.vd d i with | some p => m.freeCtx d i p.1 | none => m) m
  let m := m.updVd j.vd (fun v => { v with launches := v.launches ++ [id] })
  ((m.updJob id (fun j => if j.saved.isEmpty then { j with st := .queued, loupes := [], dies := [] } else { j with st := .saved })).notify
    (.bindRefused id)).wantBind j.vd

/-- The same of the records of gangs that were to go on alone: they wait again (R109, R394). -/
def Mach.refuseAlone (m : Mach) (id : Nat) (j : Job) (gangs : List Nat) : Mach :=
  let m := (m.keepAsked id gangs)
  let m := (gangs.filterMap m.gang?).foldl Mach.clearSlot m
  let m := { m with gangs := m.gangs.filter (fun p => !gangs.contains p.1) }
  ((m.updJob id (fun j => { j with back := j.back ++ gangs })).notify (.bindRefused id)).wantBind j.vd

/-- The gangs of a job whose bind records are written and that are not yet loaded. -/
def Mach.boundOnly (m : Mach) (j : Job) : List Nat := j.gangs.filter (fun g => (m.gang? g).any (fun x => x.run == .bound))

/-- Gangs loaded, fresh or from their images, each a step of VG (R110, R326). -/
def Mach.loadGangs (m : Mach) (j : Job) (gangs : List Nat) : Mach :=
  let m := gangs.foldl (fun m _ => m.bumpVg j.vd) m
  let vg := (m.vd j.vd).vg
  gangs.foldl (fun m g => (m.updGang g (fun x => m.loadGang j x vg)).comeBack g) m

/-- The start cycle after a load: the next master cycle of its die divisible by 16 (R53, R110). -/
def Mach.planStart (m : Mach) (id g : Nat) : Mach :=
  let d := (m.clusterOf g).1
  m.schedule .mc (m.frameTime d (m.frameNo d + 1)) (.startCycle id)

/-- A job's gangs, windows and Loupe members loaded (R110, R335). -/
def Mach.loadJob (m : Mach) (id : Nat) (j : Job) : Mach :=
  let img := m.loupeImage j
  let m := (m.loadGangs j j.gangs).loadWindows j
  let m := (sortBy (fun a b => decide (a.2 < b.2)) j.loupes).zipIdx.foldl (fun m ((d, i), k) => m.loadLoupe j img k d i) m
  (m.updJob id (fun j => { j with saved := [] })).planStart id (j.gangs.headD 0)

/-- Gangs of a running job that go on alone loaded from their images, and their ranks in the job's groups (R78, R394, R402). -/
def Mach.loadAlone (m : Mach) (id : Nat) (j : Job) (gangs : List Nat) : Mach :=
  let m := (m.loadGangs j gangs).loadGroups j (gangs.filterMap m.gang?) false
  (m.updJob id (fun j => { j with saved := j.saved.filter (fun p => !gangs.contains p.1) })).planStart id (gangs.headD 0)

/-- The save areas of gangs that go on: address and bytes (R402). -/
def Mach.imageSpans (m : Mach) (j : Job) (gangs : List Nat) : List (Nat × Nat) :=
  ((gangs.filterMap m.gang?).filter (·.resume)).map (fun x => (x.save.toNat, loupeOff j.hdr.gsize (if x.idx = 0 then j.loupes.length else 0)))

/-- A restore meets a codeword that cannot be corrected, and logs it (R411). -/
def Mach.imagesBad (m : Mach) (j : Job) (gangs : List Nat) : Bool := (m.imageSpans j gangs).any (fun p => m.lineError p.1 p.2)
def Mach.readImages (m : Mach) (j : Job) (gangs : List Nat) : Mach := (m.imageSpans j gangs).foldl (fun m p => m.logBad (.dev p.1) p.2) m

/-- JOB_LOAD: every gang of a job whose bind record is written is loaded, or restored; the start cycle follows (R110). A restore that
meets a codeword that cannot be corrected ends the job with CLASS 1 and cause 0x10 (R411; log entry 17). -/
def execJobLoad (job : Nat) (s : State) : Host.Outcome State Fault Refusal :=
  match s.m.job? job with
  | none => .fault .notEnabled
  | some j =>
    let gangs := s.m.boundOnly j
    let bad := gangs.any (fun g => (s.m.gang? g).any s.m.recordBad)
    if !j.isBound || gangs.isEmpty then .fault .notEnabled
    else if j.st != .bound then
      .next { s with m :=
        if bad then s.m.refuseAlone job j gangs
        else if s.m.imagesBad j gangs then (s.m.readImages j gangs).endStopped job 1 0x10 0
        else s.m.loadAlone job j gangs }
    else if bad then .next { s with m := s.m.refuseBind job j }
    else
      if s.m.imagesBad j gangs then .next { s with m := (s.m.readImages j gangs).endJob job 1 0x10 0 }
      else
        match (if j.saved.isEmpty then s.m.loadGlb j else .ok s.m) with
        | .error c => .next { s with m := s.m.endJob job 3 c.toNat 0 }
        | .ok m => .next { s with m := m.loadJob job j }

/-- A Loupe core serves a context: its slices run while any of its contexts has work (R334). -/
def Mach.startSlices (m : Mach) (d i c : Nat) : Mach :=
  if m.agenda.any (fun e => e.ev == .loupeSliceEnd d i) then m
  else (m.updLoupe d i (fun l => { l with cur := c, sliceEnd := m.dieCycles d + 8192 })).schedule .mc (m.sliceTime d) (.loupeSliceEnd d i)

/-- START_CYCLE: every stream of the gangs loaded starts, and their clusters' ramps. The clusters recompute their applied patterns
here: the recomputation point of a bind or resume is taken at the start cycle (R53, R117, R119; log entry 78). -/
def execStartCycle (job : Nat) (s : State) : Host.Outcome State Fault Refusal :=
  match s.m.job? job with
  | none => .fault .notEnabled
  | some j =>
    let gangs := j.gangs.filter (fun g => (s.m.gang? g).any (fun x => x.run == .loaded))
    let m := s.m.updJob job (fun j => { j with st := if j.st = .bound then .running else j.st })
    let m := gangs.foldl (fun m g => m.updGang g (fun x => { x with run := .running, start := m.time })) m
    let m := gangs.foldl (fun m g => let (d, k) := m.clusterOf g; (m.recompute d k).startRamp d k) m
    let m := j.loupes.foldl (fun m (d, i) => match m.partition j.vd d i with
      | some (c, _) => (m.updCtx d i c (fun x => if x.run == .loaded then { x with run := .running } else x)).startSlices d i c
      | none => m) m
    event (j.isBound && !gangs.isEmpty && (j.st != .bound || (s.m.boundOnly j).isEmpty)) m s

/-- PREEMPT_REQUEST: every gang of the job is marked; a request stands against a saved gang until it has gone on (R74). -/
def execPreemptRequest (job : Nat) (s : State) : Host.Outcome State Fault Refusal :=
  match s.m.job? job with
  | none => .fault .notEnabled
  | some j =>
    let m := j.gangs.foldl (fun m g => m.updGang g (fun x => { x with preempt := some (x.preempt.getD m.time) })) s.m
    let m := m.updJob job (fun j => { j with asked := j.saved.foldl (fun t p => if (m.gang? p.1).isSome then t else tset t p.1 ((tget t p.1).getD m.time)) j.asked })
    event (j.isBound || !j.saved.isEmpty) m s

end Sys2Proof.Machine
end

