-- ==== Sys2Proof/Machine/Cycle.lean ====
section
/-! DEFINITION. How a gang goes from ec to ec (R53-R66, R73-R76, R391, R392): freezes and their ends, results that are
due, the opening of an ec, its close, and the drain before a stop or a save. The words between are run one by one. -/
namespace Sys2Proof.Machine

/-! ## Freezes (R63-R66) -/

/-- A wait that will not end well: its barrier is orphaned or broken (R290). -/
def Mach.waitFails (m : Mach) (x : Gang) (c : Cause) : Option (BitVec 8) :=
  match c.kind with
  | .barrier k gen _ =>
    let b := m.bar x.vd k
    if b.passed gen then none else if b.orph then some 0x0B else if b.brk then some 0x0C else none
  | _ => none

/-- Whether a cause is still there. Those that an event of their own ends are there until it takes them away. -/
def Mach.holds (m : Mach) (g : Nat) (x : Gang) (c : Cause) : Bool :=
  match c.kind with
  | .reply id => match tget m.replies id with | none => false | some r => !r.arrived
  | .beat r => (m.beatsOf g r).any (fun b => m.beatLate b x.cyc)
  | .barrier k gen _ => !(m.bar x.vd k).passed gen
  | .firstRead => x.cores.any (fun k => k.seq.pend.any (fun p => decide (p.due ≤ x.cyc) && p.first.any x.firstPending))
  | .slots q l => match x.quads[q]? with | none => false | some y => l.any (fun n => (vget y.slot n {}).tag.pending)
  | .version t => match x.cores[c.rank]? with
    | none => false
    | some k => vget k.mat.tver t.toNat 0 != vget k.mat.texp t.toNat 0
  | .queueFull => decide (4 ≤ (m.cmdsOf (.t g c.rank)).length)
  | .kernelHold => m.mgmt.hold
  | .lease _ _ _ | .rdv _ | .yieldHold | .tlbi _ | .pageFault _ _ _ | .checkpoint => true

/-- The causes that have ended are taken away; a wait that ended acquires (R64, R290). -/
def Mach.endCauses (m : Mach) (g : Nat) (x : Gang) : Mach :=
  x.causes.foldl (fun m c =>
    if m.holds g x c then m
    else
      let m := m.updGang g (fun x => { x with causes := x.causes.filter (fun k => k != c) })
      match c.kind with
      | .barrier k gen sco => m.barAcquire (.core g c.rank c.strm) x.vd k gen sco
      | _ => m) m

/-- The order of R392 among words: stream, rank, age. -/
def before (a b : Nat × Nat × Nat) : Bool :=
  decide (a.1 < b.1) || (a.1 == b.1 && (decide (a.2.1 < b.2.1) || (a.2.1 == b.2.1 && decide (a.2.2 < b.2.2))))

/-- The oldest cause (R66). -/
def oldestCause (l : List Cause) : Option Cause :=
  (sortBy (fun (a b : Cause) => decide (a.began < b.began) || (a.began == b.began && before (a.strm.idx, a.rank, a.seq) (b.strm.idx, b.rank, b.seq))) l).head?

/-- The limit of the freeze watchdog (R65). -/
def Mach.freezeLimit (m : Mach) (vd : Nat) : Nat := 2 ^ (m.vd vd).wdog.toNat

/-- Causes whose freeze the watchdog does not count (R400, R406); during a kernel hold it counts none. -/
def CauseKind.uncounted : CauseKind → Bool
  | .checkpoint | .kernelHold => true
  | _ => false

def CauseKind.isPage : CauseKind → Bool
  | .pageFault _ _ _ => true
  | _ => false

def CauseKind.isRdv : CauseKind → Bool
  | .rdv _ => true
  | _ => false

/-- A frozen master cycle, of the gang's die (R5, R63, R66, R80, R118). -/
def Mach.frozenMc (m : Mach) (g : Nat) (x : Gang) : Mach :=
  let n := if m.dieTicks x.die then 1 else 0
  let count := !m.mgmt.hold && !x.causes.any (fun c => c.kind.uncounted)
  let m := m.updGang g (fun y => { y with
    frz := y.frz + n, frozen := if count then y.frozen + n else y.frozen, frozenAt := some (y.frozenAt.getD m.time) })
  m.ballast x.die x.cluster x.frozenAt.isNone

/-- Whether a command halted by a page fault holds a target pending. -/
def Mach.haltedOn (m : Mach) (p : Target → Bool) : Bool := m.cmds.any (fun c => c.2.halted.isSome && c.2.targets.any p)

/-- A cause that is the service of a page fault: one on the word's own access, or on the command whose pending granules,
slots or barrier the word waits for (R66, R319). -/
def Mach.serviced (m : Mach) (g : Nat) (x : Gang) (c : Cause) : Bool :=
  match c.kind with
  | .pageFault _ _ _ => true
  | .firstRead => x.cores.all (fun k => k.seq.pend.all (fun p => !(decide (p.due ≤ x.cyc) && p.first.any x.firstPending) ||
      p.first.any (fun f => f.grans.any (fun n => m.haltedOn (fun t => t == .gran g f.rank n)))))
  | .slots q l => l.any (fun n => m.haltedOn (fun t => t == .slot g q n))
  | .barrier k gen _ => m.cmds.any (fun c => c.2.halted.isSome && c.2.vd == x.vd && c.2.bar == some (k, gen))
  | _ => false

/-- Whether a frozen gang has met its watchdog: the limit is reached and a cause other than page-fault service holds. -/
def Mach.watchdog (m : Mach) (g : Nat) (x : Gang) : Bool :=
  !m.mgmt.hold && decide (m.freezeLimit x.vd ≤ x.frozen) && x.causes.any (fun c => !m.serviced g x c && !c.kind.uncounted)

/-! ## Before an ec begins (R60, R61, R69, R434) -/

/-- What is missing for the ec that would begin: late replies, pending first reads, late beats. -/
def Mach.missing (m : Mach) (x : Gang) : List Cause :=
  x.cores.zipIdx.flatMap (fun (c, r) =>
    ((c.seq.pend.filter (fun p => decide (p.due ≤ x.cyc))).flatMap (fun p =>
      let mk (k : CauseKind) : Cause := { kind := k, rank := r, strm := p.strm, pc := p.pc, seq := p.seq, began := m.time }
      (match p.reply with
       | some id => match tget m.replies id with
         | some y => if y.arrived then [] else [mk (.reply id)]
         | none => []
       | none => []) ++
      (if p.first.any x.firstPending then [mk .firstRead] else []))) ++
    (c.mat.beats.filter (fun b => m.beatLate b x.cyc)).map (fun b =>
      { kind := .beat r, rank := r, strm := .m, pc := b.pc, seq := b.seq, began := m.time }))

/-- The deferred fault records of a gang, each with its rank, in the order of R392: stream, rank, oldest word; `drain` those met in
a drain, else those met before the next ec. -/
def Gang.heldFaults (x : Gang) (drain : Bool) : List (Nat × HeldFault) :=
  sortBy (fun (a b : Nat × HeldFault) => before (a.2.strm.idx, a.1, a.2.seq) (b.2.strm.idx, b.1, b.2.seq))
    (x.cores.zipIdx.flatMap (fun (c, r) => (c.held.filter (fun h => h.deferred && h.drain == drain)).map (fun h => (r, h))))

/-- The record met in a drain that is raised first, with the others of its word (R434). -/
def Gang.firstDrained (x : Gang) : List (Nat × HeldFault) :=
  match x.heldFaults true with
  | [] => []
  | (r, h) :: l => (r, h) :: l.filter (fun p => p.1 == r && p.2.strm == h.strm && p.2.seq == h.seq && p.2.pc == h.pc)

/-- An in-flight record that a core still holds, the first in the order of R392. -/
def Gang.firstInFlight (x : Gang) : Option (Nat × HeldFault) :=
  (sortBy (fun (a b : Nat × HeldFault) => before (a.2.strm.idx, a.1, a.2.at_) (b.2.strm.idx, b.1, b.2.at_))
    (x.cores.zipIdx.flatMap (fun (c, r) => (c.held.filter (fun h => !h.deferred)).map (fun h => (r, h))))).head?

/-- Fault records of a gang end. -/
def Mach.dropHeld (m : Mach) (g : Nat) (l : List (Nat × HeldFault)) : Mach :=
  m.updGang g (fun x => { x with cores := x.cores.zipIdx.map (fun ((c : Core), i) =>
    { c with held := c.held.filter (fun k => !l.contains (i, k)) }) })

/-- Records of one stop ec raised: the first is reported, and none of their words takes effect; what the checker has reported of
them is executed again by a resume in place (R330, R392, R395, R434). -/
def Mach.raiseHeld (m : Mach) (g : Nat) (x : Gang) (l : List (Nat × HeldFault)) : Mach :=
  match l with
  | [] => m
  | (r, h) :: _ =>
    ((m.dropHeld g l).takeStop g (x.mkReport m.time r h.strm h.pc 0 { cause := h.cause, addr := h.addr, race := h.race })).updGang g
      (fun x => { x with redo := l.filterMap (fun p => p.2.redo.map (fun d => (p.1, d))) })

/-- Every result due in the ec lands, if it need not wait (R23, R60). -/
def Mach.landDue (m : Mach) (g : Nat) (ec : Nat) : Mach :=
  m.eachRank g (fun m r =>
    match m.gang? g, m.core? g r with
    | some x, some c => ((landOrder (c.seq.pend.filter (fun p => decide (p.due ≤ ec)))).takeWhile (fun p => !m.waiting x p)).foldl
        (fun m p => m.deliver g r p) m
    | _, _ => m)

/-- A stop at the ec that would begin takes with it the faults raised at due slots in that ec (R392). -/
def Mach.mergeDue (m : Mach) (g : Nat) (x : Gang) : Mach :=
  if x.run == .running then
    let m := m.landDue g x.cyc
    m.dropHeld g (((m.gang? g).map (fun x => x.heldFaults false)).getD [])
  else m

/-- FREEZE_TIMEOUT: fault 0x0D, naming the word of the oldest cause (R66, R392). -/
def execFreezeTimeout (gang : Nat) (s : State) : Host.Outcome State Fault Refusal :=
  match s.m.gang? gang with
  | none => .fault .notEnabled
  | some x =>
    match oldestCause x.causes with
    | none => .fault .notEnabled
    | some c => event (s.m.watchdog gang x)
        (((s.m.rampAfter x).mergeDue gang x).takeStop gang (x.mkReport s.m.time c.rank c.strm c.pc 2 { cause := 0x0D })) s

/-! ## Opening an ec -/

/-- The streams of a gang as agents, rank by rank in the order S, V, M, T. -/
def Gang.agents (x : Gang) (g : Nat) : List Agent :=
  (List.range x.cores.length).flatMap (fun r => [Stream.s, .v, .m, .t].map (fun st => Agent.core g r st))

/-- Live streams that issue in this ec, or spend it in a bubble or a WAITC. -/
def Mach.liveAgents (m : Mach) (g : Nat) (x : Gang) : List Agent :=
  (x.agents g).filter (fun a => match m.seq? a with
    | none => false
    | some q => (q.regs a.strm).st == .live)

/-- Whether a stream spends the ec in a bubble or a WAITC (R85, R94). -/
def Mach.idleEc (m : Mach) (a : Agent) : Bool :=
  match m.seq? a with
  | none => false
  | some q => let r := q.regs a.strm; r.bub != 0 || r.wait != 0

/-- An ec of a bubble or a WAITC passes. -/
def Mach.passIdle (m : Mach) (a : Agent) : Mach :=
  m.updSeq a (fun q => q.updRegs a.strm (fun r =>
    if r.bub != 0 then { r with bub := r.bub - 1 } else { r with wait := r.wait - 1, gcyc := r.gcyc + 1 }))

/-- The ec opens: what each stream does in it. -/
def Mach.openEc (m : Mach) (g : Nat) (x : Gang) : State :=
  let live := m.liveAgents g x
  let idle := live.filter m.idleEc
  { m := idle.foldl Mach.passIdle m
    iss := some { gang := g, before := m, slots := live.filter (fun a => !m.idleEc a), used := idle.length }
    cur := .core g 0 .s }

/-- Whether a stream issues a word of a kind in the ec that would begin. -/
def Mach.standsAt (m : Mach) (p : Instr → Bool) (a : Agent) : Bool :=
  !m.idleEc a && (m.seq? a).any (fun q => (q.decodeAt a.strm).any p)

/-- A YIELD; an RDV, whose stream counts as arrived from the ec it issues in (R55, R73). -/
def isYield : Instr → Bool
  | .yield => true
  | _ => false
def isRdv : Instr → Bool
  | .rdvFin _ | .rdvMid _ => true
  | _ => false

/-- Whether the ec that would begin is a yield point: every live stream stands at a YIELD, those that arrive at a join
aside (R73). -/
def Mach.atYield (m : Mach) (g : Nat) (x : Gang) : Bool :=
  let live := m.liveAgents g x
  live.any (m.standsAt isYield) && live.all (m.standsAt (fun i => isYield i || isRdv i))

/-- The maximum yield spacing (R111). -/
def Header.spacing (h : Header) : Nat := if h.ysp = 0 then 2 ^ 24 else h.ysp

/-- The ec e + Y has come without a yield point (R75). -/
def Mach.spacingMet (m : Mach) (g : Nat) (x : Gang) : Bool :=
  let y := ((m.job? x.job).map (fun j => j.hdr.spacing)).getD (2 ^ 24)
  decide (x.mark + y ≤ x.cyc + 1) && !(m.liveAgents g x).isEmpty && !m.atYield g x

/-- YIELD_SPACING_FAULT: fault 0x0F before any word of the ec takes effect; the report names the first live stream that is
at neither a YIELD nor an RDV, or where each is at an RDV the first (R75, R392; log entry 40). -/
def execYieldSpacingFault (gang : Nat) (s : State) : Host.Outcome State Fault Refusal :=
  match s.m.gang? gang with
  | none => .fault .notEnabled
  | some x =>
    let live := s.m.liveAgents gang x
    let late := live.filter (fun a => !s.m.standsAt (fun i => isYield i || isRdv i) a)
    let late := if late.isEmpty then live else late
    let key (a : Agent) : Nat × Nat × Nat := (a.strm.idx, (match a with | .core _ r _ => r | .loupe _ _ _ => 0), 0)
    match (sortBy (fun a b => before (key a) (key b)) late).head? with
    | none => .fault .notEnabled
    | some a =>
      let pc := ((s.m.seq? a).map (fun q => (q.regs a.strm).pc)).getD 0
      event (x.run == .running && s.m.spacingMet gang x)
        (s.m.takeStop gang (x.mkReport s.m.time (key a).2.1 a.strm pc 2 { cause := 0x0F })) s

/-! ## Closing an ec (R271, R390-R392) -/

/-- The machine as it was before the ec, the numbers it drew not drawn again, and what its walks captured kept (R367). -/
def Issue.undo (i : Issue) (m : Mach) : Mach := { i.before.walksOf m with freeCtr := m.freeCtr, nextId := m.nextId }

/-- View rows that a command of the same ec took hold of (R26, R235). -/
def Issue.viewFaults (i : Issue) (m : Mach) (x : Gang) : List WordFault :=
  (i.views.filter (fun (r, t, _) => match m.core? i.gang r with
    | none => false
    | some c => if t < 8 then decide (x.cyc < vget c.mat.ready t 0) else decide (x.cyc < c.mat.ladEnd))).map (fun (r, _, pc) =>
    ⟨.core i.gang r .v, pc, x.cyc, { cause := 0x07 }⟩)

/-- YIELDs issued beside other words (R73). A YIELD that raises a fault of its own is one all the same (R74). Of an RDV that itself
raises beside YIELDs R73 does not say whether its stream is exempt: it counts as another word here, and for the spacing count as one
that arrives (DESIGN CHOICE; log entry 91). -/
def Issue.yieldFaults (i : Issue) (x : Gang) : List WordFault :=
  let raised := i.faults.filter (fun f => i.before.standsAt isYield f.agent)
  if i.yields.isEmpty || i.used - i.exempt == i.yields.length + raised.length then []
  else i.yields.map (fun (r, st, pc) => ⟨.core i.gang r st, pc, x.cyc, { cause := 0x07 }⟩)

/-- The rank of an agent. -/
def rankOf : Agent → Nat
  | .core _ r _ => r
  | .loupe _ i _ => i

/-- The fault of an ec that the report names (R392). -/
def reported (l : List WordFault) : Option WordFault :=
  (sortBy (fun (a b : WordFault) => before (a.agent.strm.idx, rankOf a.agent, a.seq) (b.agent.strm.idx, rankOf b.agent, b.seq)) l).head?

/-- What a stream's next word raises whatever it is: an uncorrectable error in what it reads (R404), or on the T stream of a
core an in-flight record (R320). -/
def Mach.inFlight (m : Mach) (a : Agent) : Option HeldFault :=
  if m.hits.contains a then some { cause := 0x10 } else
  match a with
  | .core g r .t => (m.core? g r).bind (fun c => c.held.find? (fun h => !h.deferred && decide (h.at_ < m.time)))
  | _ => none

/-- The words of an ec freeze the gang before it: nothing of it has happened, and the causes hold (R63, R370). -/
def Issue.held (i : Issue) (m : Mach) : Mach :=
  i.holds.foldl (fun m c =>
    match c.kind with
    | .pageFault _ va w =>
      let vd := ((m.gang? i.gang).map (·.vd)).getD 0
      let (id, m) := m.postPage va w vd (.agent (.core i.gang c.rank c.strm)) 0
      m.updGang i.gang (fun x => { x with causes := x.causes ++ [{ c with kind := .pageFault id va w }] })
    | _ => m.updGang i.gang (fun x => { x with causes := x.causes ++ [c] })) (i.undo m)

/-- The ec stops the gang at a faulting word (R391, R397, R399, R320, R404). -/
def Issue.stop (i : Issue) (m : Mach) (x : Gang) (f : WordFault) : Mach :=
  let u := i.undo m
  let r := rankOf f.agent
  let rep := x.mkReport m.time r f.agent.strm f.pc 0 f.exc
  if u.hits.contains f.agent then { u with hits := u.hits.erase f.agent }.takeStop i.gang rep else
  match u.inFlight f.agent with
  | some h =>
    let u := u.updCore i.gang r (fun c => { c with held := c.held.filter (fun k => k != h) })
    u.takeStop i.gang ({ x.mkReport m.time r .t f.pc 1 { cause := h.cause, addr := h.addr, race := h.race } with
      resume := h.resume, goix := h.goix })
  | none =>
    let u := if f.exc.trap then u.updSeq f.agent (fun q => q.updRegs .s (fun r => { r with pc := f.pc + 1 })) else u
    let u := u.takeStop i.gang rep
    if f.exc.halt then u.haltOthers f.agent else u

/-- Data of another rank that was due in the ec itself freezes the gang from its end until it arrives (R61). -/
def Mach.farBeats (m : Mach) (g ec : Nat) : Mach :=
  m.updGang g (fun x => { x with causes := x.causes ++ x.cores.zipIdx.flatMap (fun ((c : Core), r) =>
    (c.mat.beats.filter (fun b => b.reads && b.rank != r && b.issue == ec)).map (fun b =>
      { kind := .beat r, rank := r, strm := .m, pc := b.pc, seq := b.seq, began := m.time + 1 })) })

/-- The words of an ec have taken effect: beats and banks (R61, R271), arbiters (R204), pattern request (R96), captures
dropped (R372), joins (R55, R56). -/
def Issue.settle (i : Issue) (m : Mach) (x : Gang) : Mach :=
  let g := i.gang
  let m := m.beatsReady g x.cyc
  let bank := m
  let m := m.settleOps (i.bank.filter (fun o => decide (o.order < Stream.m.idx)))
  let m := m.beatsRead bank g x.cyc
  let m := m.settleOps (i.bank.filter (fun o => decide (Stream.m.idx ≤ o.order)))
  let m := m.beatsWrite g x.cyc
  let m := i.gos.foldl (fun m (_, id) => m.captureFirst id) m
  let m := m.arbiters g (i.before.gang? g) i.leases
  let m := match i.phase with
    | some k => ((m.updGang g (fun x => { x with req := k, phased := true })).updCluster x.die x.cluster Cluster.takeHeld).recompute x.die x.cluster
    | none => m
  let m := i.dinv.foldl (fun m (r, va) => m.updCore g r (fun c => { c with kv := tdel c.kv va })) m
  let m := (m.farBeats g x.cyc).updGang g (fun x => { x with cyc := x.cyc + 1 })
  m.joinsAfter g

/-- Jobs of one gang need no yield hold (R76). -/
def Mach.alone (m : Mach) (x : Gang) : Bool := ((m.job? x.job).map (fun j => decide (j.gangs.length ≤ 1))).getD true

/-- A yield point: a checkpoint or a request is taken there; one recorded later stays pending (R74). The gang is frozen for a checkpoint, and in a job of several
gangs in a yield hold, from the next ec on; the YIELD of the first of its streams is the word of that freeze (R63, R66,
R73-R76, R400, R419). -/
def Mach.yieldPoint (m : Mach) (g : Nat) (yields : List (Nat × Stream × BitVec 14)) : Mach :=
  match m.gang? g with
  | none => m
  | some x =>
    let take := x.preempt.any (fun t => decide (t + 16 ≤ m.time))
    let first := (sortBy (fun (a b : Nat × Stream × BitVec 14) => before (a.2.1.idx, a.1, 0) (b.2.1.idx, b.1, 0)) yields).head?
    let (r, st, pc) := first.getD (0, .s, 0)
    let mk (k : CauseKind) : Cause := { kind := k, rank := r, strm := st, pc := pc, seq := x.cyc - 1, began := m.time + 1 }
    let hold := if take && !m.alone x then [mk .yieldHold] else []
    m.updGang g (fun x =>
      let x := { x with mark := x.cyc, preempt := if take then none else x.preempt }
      let skews := x.causes.filter (fun c => c.kind.isRdv)
      match x.pck.isSome, take with
      | false, false => x
      | false, true => { x with run := .draining .save, causes := hold ++ skews }
      | true, false => { x with run := .draining .check, causes := mk .checkpoint :: skews }
      | true, true => { x with run := .draining .checkThenSave, causes := mk .checkpoint :: hold ++ skews })

/-- A gang whose streams have all ended (R58, R117, R118). -/
def Mach.endGang (m : Mach) (g : Nat) : Mach :=
  match m.gang? g with
  | none => m
  | some x => if x.over then (m.updGang g (fun x => { x with run := .ended, causes := [] })).withdraw x.die x.cluster true else m

/-- The end of the ec being issued. Where a word of it faults nothing of it has happened (R391), and a word that R435 has applied
before another one's fault is undone with it, such as the first of two EXPBs whose sum overflows: R435's words and R391's differ there
(DESIGN CHOICE; log entry 91). -/
def State.closeEc (s : State) (i : Issue) : State :=
  match s.m.gang? i.gang with
  | none => { s with iss := none }
  | some x =>
    let faults := i.faults ++ i.viewFaults s.m x ++ i.yieldFaults x
    if !i.holds.isEmpty then { s with m := i.held s.m, iss := none }
    else
      match reported faults with
      | some f => { s with m := i.stop s.m x f, iss := none }
      | none =>
        let m := i.settle s.m x
        let m := if i.yields.isEmpty then m else m.yieldPoint i.gang i.yields
        { s with m := m.endGang i.gang, iss := none }

/-! ## The drain (R76, R391) -/

/-- Nothing that an M or V word occupied is in use any longer. -/
def Gang.settled (x : Gang) : Gang :=
  let e := x.cyc
  { x with
    quads := x.quads.map (fun (q : Quad) => { q with
      arrayEnd := min q.arrayEnd e
      slot := q.slot.map (fun (s : Slot) => { s with readEnd := min s.readEnd e, fillEnd := min s.fillEnd e }) })
    cores := x.cores.map (fun (c : Core) => { c with
      vec := { c.vec with vstlEnd := min c.vec.vstlEnd e }
      mat := { c.mat with
        portEnd := min c.mat.portEnd e, fillEnd := min c.mat.fillEnd e, ladEnd := min c.mat.ladEnd e
        tileEnd := c.mat.tileEnd.map (fun t => min t e), ready := c.mat.ready.map (fun t => min t e) } }) }

/-- One master cycle of a drain: M commands go on, accesses leave their queues, results land. -/
def Mach.drain (m : Mach) (g : Nat) : Mach := ((m.drainBeats g).flushGang g).deliverAll g

/-- The ec-clock events of a gang, those of the system registers first. -/
def Mach.ecEvents (m : Mach) (g : Nat) (upto : Option Nat) : List Due :=
  let l := m.agenda.filter (fun d => d.clk == .ec g && (match upto with | none => true | some e => decide (d.at_ ≤ e)))
  let sys (d : Due) : Bool := match d.ev with | .tileReady _ _ _ | .mfilStamp _ _ _ _ => false | _ => true
  l.filter sys ++ l.filter (fun d => !sys d)

/-- A drained gang that took a request, and is held no longer, is saved; with it its activity is lost (R76, R118). -/
def Mach.standYielded (m : Mach) (g : Nat) : Mach :=
  match m.gang? g with
  | none => m
  | some x => (m.ballast x.die x.cluster x.active).updGang g (fun x => { x.settled with
      run := .yielded, causes := [], wrote := some 0, preempt := if x.run = .ended then none else x.preempt })

/-- Every gang of a job stands at a yield point that took the request, or has ended (R76). -/
def Mach.allStand (m : Mach) (j : Job) : Bool :=
  j.gangs.all (fun g => match m.gang? g with
    | none => true
    | some x => match x.run with
      | .draining .save | .draining .checkThenSave | .yielded | .ended => true
      | .draining .stop | .draining .check | .bound | .loaded | .running | .stopped => false)

/-- A gang in a yield hold. -/
def Gang.isHeld (x : Gang) : Bool := x.causes.any (fun c => c.kind == .yieldHold)

/-- Every gang of a job is drained at its yield point, or has ended (R76). -/
def Mach.allYielded (m : Mach) (j : Job) : Bool :=
  j.gangs.all (fun g => match m.gang? g with
    | none => true
    | some x => x.run == .yielded || (x.run == .ended && m.drained g))

/-! ## The context-save engine (R400, R403) -/

/-- Header flags of a save: stopped by a fault or trap, halted, saved at a yield point (R403). -/
def saveFlags (r : Option Report) : BitVec 8 :=
  match r with
  | none => 8
  | some r => if r.halt then 4 else 2

/-- A Loupe member stands at a word boundary with every command completed, every reply there and none of its accesses and arrivals
still queued (R299, R336). -/
def Mach.loupeStill (m : Mach) (d i c : Nat) (x : LoupeCtx) : Bool :=
  x.seq.pend.isEmpty && !(m.queue.any (fun p => p.2.who == .agent (.loupe d i c))) && (match x.run with | .service _ | .tlbi _ => false | _ => true) && !(m.cmds.any (fun k => k.2.owner == .l d i c))

/-- An arrival at a barrier of a job is on its way to its count (R289). -/
def Mach.arrivalDue (m : Mach) (j : Job) : Bool :=
  m.agenda.any (fun d => match d.ev with
    | .barrierArrivalCount v k _ => v == j.vd && decide (j.barBase ≤ k) && decide (k < j.barBase + j.hdr.nbar)
    | _ => false)

/-- Everything of a job stands still: its gangs are saved, yielded or ended, its Loupe members at a word boundary, and every arrival
is counted (R299). -/
def Mach.jobStill (m : Mach) (j : Job) : Bool :=
  m.allYielded j && !m.arrivalDue j && (m.loupeMembers j).all (fun (d, i, c, x) => m.loupeStill d i c x)

/-- A gang whose image the engine may write now: one that is saved, once all of its job stands still where all of it is to be
saved; one at a checkpoint, but for the service of a page fault. -/
def Mach.writable (m : Mach) (x : Gang) : Bool :=
  x.wrote.isSome && (match x.run with
    | .yielded => (m.job? x.job).any (fun j => j.ending.isNone && (!m.allStand j || m.jobStill j))
    | _ => !x.causes.any (fun c => c.kind.isPage))

/-- The gang whose image the engine of a cluster writes: one it has begun, else the first (R403). -/
def Mach.engineOf (m : Mach) (d k : Nat) : Option Nat :=
  let l := m.gangs.filter (fun p => p.2.die == d && p.2.cluster == k && m.writable p.2)
  ((l.find? (fun p => p.2.wrote != some 0)).map (·.1)) <|> (l.head?.map (·.1))

/-- Bytes of device memory that wait for a channel (R412). -/
def Mach.linkBusy (m : Mach) (pa n : Nat) : Bool := m.links.any (fun (f, t) => decide (m.time < t) && linkHits f pa n)

/-- The next piece of a save: where it goes and its bytes, none when all are written. -/
def Mach.savePiece (m : Mach) (x : Gang) (j : Job) : Option Piece := m.piece x j (saveFlags x.report) x.pck true (x.wrote.getD 0)

/-- The next piece of a checkpoint's image (R400). -/
def Mach.checkPiece (m : Mach) (x : Gang) (j : Job) : Option Piece := m.piece x j 1 none false (x.wrote.getD 0)

/-- A piece written through translation; where it fails, the cause and the pointer (R400). -/
def Mach.writeThrough (m : Mach) (vd : Nat) (p : Word) (b : Piece) : Except (BitVec 8 × Word) Mach :=
  let o := ptrOff p + b.off
  let q := ptrAt p (o : Nat)
  if o + 512 > 2 ^ 54 then .error (0x03, q)
  else
    match m.translate .none vd o .write with
    | .error c => .error (c, q)
    | .ok (t, m) =>
      if leafDepth t.leaf != 0 then .error (0x13, q)
      else if m.locError vd (t.loc o) 512 true then .error (0x10, q)
      else .ok (m.writeLoc (t.loc o) (offs b.bytes))

/-- A piece of a checkpoint waits for a repair or for a channel (R409, R412). -/
def Mach.checkWaits (m : Mach) (vd : Nat) (p : Word) (b : Piece) : Bool :=
  let o := ptrOff p + b.off
  !(m.walkHeld .none vd o).isEmpty ||
  (match m.translate .none vd o .write with
   | .error _ => false
   | .ok (t, _) => m.stalled (t.loc o) 512 true)

/-- A gang's image has one more piece. -/
def Mach.pieceDone (m : Mach) (g : Nat) : Mach := m.updGang g (fun x => { x with wrote := x.wrote.map (· + 1) })

/-! ## A gang's turn in a master cycle -/

/-- What a turn comes to: an event happens, of its own or off the agenda, and the turn goes on, the machine moves on and the turn goes on, or the turn is
over. -/
inductive Turn where
  | run (i : Instr)
  | due (d : Due)
  | again (m : Mach)
  | over (s : State)
  deriving DecidableEq, Repr

/-- A stop before the ec that would begin takes effect after the events due in that ec: what system registers written in the last ec
hold stands before the results due with them (R99, R392). -/
def Mach.stopTurn (m : Mach) (g : Nat) (x : Gang) (stop : Turn) : Turn :=
  match m.ecEvents g (some x.cyc) with
  | d :: _ => .due d
  | [] => stop

/-- The turn of a frozen gang. -/
def Mach.frozenTurn (m : Mach) (g : Nat) (x : Gang) : Turn :=
  if m.watchdog g x then m.stopTurn g x (.run (.freezeTimeout g))
  else
    let m := if decide (m.freezeLimit x.vd ≤ x.frozen) then m.updGang g (fun x => { x with frozen := 0 }) else m
    .over { m := m.frozenMc g x }

/-- The causes that begin in this master cycle and keep the next ec from beginning: what is missing for it, seen when it
would begin and all through a freeze, which it extends (R60, R64); a kernel hold, which freezes the gang at its next ec
(R406); and the skew of a join that is still open after a resume (R56). -/
def Mach.arising (m : Mach) (g : Nat) (x : Gang) : List Cause :=
  let ending := (m.job? x.job).any (fun j => j.ending.isSome)
  let next := x.causes.isEmpty && m.pulseNow x.die x.cluster && !ending
  let known (c : Cause) : Bool := x.causes.any (fun k => { k with began := 0 } == { c with began := 0 })
  let hold : List Cause := if m.mgmt.hold && !ending
    then [{ kind := .kernelHold, rank := 0, strm := .s, pc := 0, seq := x.cyc, began := m.time }] else []
  let skews : List Cause := if ending then [] else m.skews g x m.time
  if next || !x.causes.isEmpty then (hold ++ m.missing x ++ skews).filter (fun c => !known c) else []

/-- The next ec of a gang whose job ends is where it stops, and is killed (R394). -/
def Mach.stopEnding (m : Mach) (g : Nat) (x : Gang) : Mach :=
  match m.job? x.job with
  | none => m
  | some j => (m.killGang j g).updGang g (fun x => { x with run := .draining .stop, frozen := 0, frozenAt := none })

/-- The turn of a gang that no cause holds: its next ec, when a pulse passes (R53, R60, R69, R75, R399, R406, R434). -/
def Mach.ecTurn (m : Mach) (g : Nat) (x : Gang) : Turn :=
  if !m.pulseNow x.die x.cluster then .over { m := m }
  else if (m.job? x.job).any (fun j => j.ending.isSome) then .again (m.stopEnding g x)
  else if x.haltAt.any (fun t => decide (t ≤ m.time)) then .run (.haltRemoteStop g)
  else
    match m.ecEvents g (some x.cyc) with
    | d :: _ => .due d
    | [] =>
      match m.arising g x with
      | c :: cs => .again (m.updGang g (fun x => { x with causes := x.causes ++ c :: cs }))
      | [] =>
        match x.firstDrained with
        | h :: hs => .again (m.raiseHeld g x (h :: hs))
        | [] =>
          let m := (m.beatsArrived g x.cyc).landDue g x.cyc
          match m.gang? g with
          | none => .over { m := m }
          | some x =>
            match x.heldFaults false with
            | h :: hs => .again (m.raiseHeld g x (h :: hs))
            | [] => if m.spacingMet g x then .run (.yieldSpacingFault g) else .over (m.openEc g x)

/-- The turn of a running gang. -/
def Mach.runTurn (m : Mach) (g : Nat) (x : Gang) : Turn :=
  if x.causes.any (fun c => !m.holds g x c) then .again (m.endCauses g x)
  else if (x.frozenAt.isSome || !x.causes.isEmpty) && !(m.arising g x).isEmpty then .again (m.updGang g (fun y => { y with causes := y.causes ++ m.arising g x }))
  else
    match x.causes.find? (fun c => (m.waitFails x c).isNone) with
    | some _ => m.frozenTurn g x
    | none =>
      match oldestCause x.causes with
      | some c => m.stopTurn g x
          (.again (((m.rampAfter x).mergeDue g x).takeStop g (x.mkReport m.time c.rank c.strm c.pc 0 { cause := (m.waitFails x c).getD 0x0B })))
      | none =>
        if x.frozenAt.isSome then .again ((m.rampAfter x).updGang g (fun x => { x with frozen := 0, frozenAt := none }))
        else m.ecTurn g x

/-- The turn of a drained gang at a checkpoint: the engine writes a piece of its image, while it is frozen (R400, R403). -/
def Mach.checkTurn (m : Mach) (g : Nat) (x : Gang) : Turn :=
  let wait : Turn := .over { m := m.frozenMc g x }
  match x.wrote, m.job? x.job, x.pck with
  | none, _, _ => .again (m.updGang g (fun x => { x.settled with wrote := some 0 }))
  | some _, some j, some p =>
    if m.engineOf x.die x.cluster != some g then wait
    else
      match m.checkPiece x j with
      | none => .run (.checkpoint g)
      | some b =>
        if m.checkWaits x.vd p b
        then .over { m := (m.trap (m.walkHeld .none x.vd (ptrOff p + b.off))).frozenMc g x }
        else
          match m.writeThrough x.vd p b with
          | .error _ => .run (.checkpoint g)
          | .ok m => .over { m := (m.pieceDone g).frozenMc g x }
  | _, _, _ => .run (.checkpoint g)

/-- The turn of a gang that is saved: the engine writes a piece of its image to its save area (R402, R403). -/
def Mach.saveTurn (m : Mach) (g : Nat) (x : Gang) : Turn :=
  match m.job? x.job with
  | none => .over { m := m }
  | some j =>
    if m.engineOf x.die x.cluster != some g then .over { m := m }
    else
      match m.savePiece x j with
      | none => .run (.contextSave g)
      | some b =>
        let pa := x.save.toNat + b.off
        .over { m := if m.linkBusy pa 512 then m else (m.devStore pa (offs b.bytes)).pieceDone g }

/-- The turn of a draining gang. One in a yield hold is frozen until every gang of the job stands at its yield point (R63,
R66, R76). -/
def Mach.drainTurn (m : Mach) (g : Nat) (x : Gang) (a : After) : Turn :=
  match m.ecEvents g none with
  | d :: _ => .due d
  | [] =>
    if x.causes.any (fun c => c.kind.isPage) then .over { m := m.frozenMc g x }
    else if x.isHeld && (m.job? x.job).any m.allStand then .run (.yieldHoldRelease x.job)
    else if m.watchdog g x then .run (.freezeTimeout g)
    else if m.drained g && !(a == .save && x.isHeld) then
      match a with
      | .stop => .over { m := (m.updGang g Gang.settled).postStop g }
      | .save => .over { m := m.standYielded g }
      | .check | .checkThenSave => m.checkTurn g x
    else
      let m' := m.drain g
      if m'.drained g && !m.drained g then .again m'
      else .over { m := if x.causes.isEmpty then m' else m'.frozenMc g x }

/-- A request reaches a job of which only Loupe members still run: its ended gangs stand as at a yield point (R336). -/
def Mach.endedYields (m : Mach) (x : Gang) : Bool :=
  x.preempt.any (fun t => decide (t + 16 ≤ m.time)) && (m.job? x.job).any (fun j =>
    j.gangs.all (fun g => (m.gang? g).any (fun y => y.run == .ended || y.run == .yielded)) &&
    j.loupes.any (fun (d, i) => (m.partition j.vd d i).any (fun p => (m.ctx? d i p.1).any (fun y => y.run != .ended))))

/-- A gang whose streams have ended: its work is delivered; a deferred record is raised then, and an in-flight record at the
end of its job (R81, R320, R434). -/
def Mach.endedTurn (m : Mach) (g : Nat) : Turn :=
  match m.ecEvents g none with
  | d :: _ => .due d
  | [] =>
    let m := m.drain g
    match m.gang? g with
    | none => .over { m := m }
    | some x =>
      if !m.drained g then .over { m := m }
      else
        match (match x.heldFaults false with | [] => x.firstDrained | l => l) with
        | h :: hs => .over { m := m.raiseHeld g x (h :: hs) }
        | [] =>
          match if (m.job? x.job).any m.workOver then x.firstInFlight else none with
          | none => .over { m := if m.endedYields x then m.standYielded g else m }
          | some (r, h) =>
            let pc := ((x.cores[r]?).map (fun c => (c.seq.regs .t).pc)).getD 0
            .over { m := (m.dropHeld g [(r, h)]).takeStop g { x.mkReport m.time r h.strm pc 1
                      { cause := h.cause, addr := h.addr, race := h.race } with resume := h.resume, goix := h.goix } }

/-- A gang's turn. -/
def Mach.turn (m : Mach) (g : Nat) : Turn :=
  match m.gang? g with
  | none => .over { m := m }
  | some x =>
    match x.run with
    | .bound | .loaded | .stopped => .over { m := m }
    | .yielded => m.saveTurn g x
    | .running => m.runTurn g x
    | .draining a => m.drainTurn g x a
    | .ended => m.endedTurn g

end Sys2Proof.Machine
end

