-- ==== Sys2Proof/Machine/Recovery.lean ====
section
/-! DEFINITION. Saving, checkpoints and what the resident kernel does with a stop (R76, R394, R395, R400-R404, R434); page-fault
service (R370); the kernel's crash, warm start and context registry (R405-R408); errors of memory and links (R404, R409-R415). -/
namespace Sys2Proof.Machine

/-! ## The save (R76, R401-R404) -/

/-- One gang whose image is written is taken off its cores: what it goes on with is what stands in its save area, and a request that it has not taken (R74, R401, R402). -/
def Mach.saveGang (m : Mach) (g : Nat) : Mach :=
  match m.gang? g with
  | none => m
  | some x =>
    let m := (m.keepAsked x.job [g]).updJob x.job (fun j => { j with saved := tset j.saved g x.save.toNat })
    ((m.goAway g).updCluster x.die x.cluster (fun c => { c with recs := c.recs.filter (fun r => r.gang != g) })).dropGang g

/-- A saved job waits to be bound again (R78, R105). -/
def Mach.requeue (m : Mach) (vd id : Nat) : Mach := (m.updVd vd (fun v => { v with launches := v.launches ++ [id] })).wantBind vd

/-- A job whose gangs are all off their cores: what is common to it goes last into gang 0's save area; its windows and Loupe
contexts are free, and its launch waits again with its first acceptance, unless the kernel has had a gang of it saved (R105,
R299, R336, R394). -/
def Mach.shelve (m : Mach) (id : Nat) : Mach :=
  match m.job? id with
  | none => m
  | some j =>
    let window (k : Nat) : Bool := decide (j.grpBase ≤ k) && decide (k < j.grpBase + j.hdr.ngrp)
    let m : Mach := match (j.gangs.head?).bind (fun g => tget j.saved g) with
      | some a => (m.lastPart j).foldl (fun m p => m.devStore (a + p.1) (offs p.2)) m
      | none => m
    let m := (m.loupeMembers j).foldl (fun m (d, i, c, _) => m.freeCtx d i c) m
    let m := m.updVd j.vd (fun v => { v with joins := v.joins.filter (fun p => !window p.1) })
    let m := m.updJob id (fun j => { j with st := .saved, back := [] })
    if j.kept.isEmpty then m.requeue j.vd id else m.noteIdle j.vd

/-- After the save of one of its gangs: a job with none left is off the machine, and one of which only ended gangs are left is
saved with them (R76). -/
def Mach.savedOne (m : Mach) (id : Nat) : Mach :=
  match m.job? id with
  | none => m
  | some j =>
    let left := j.gangs.filter (fun g => (m.gang? g).isSome)
    if left.isEmpty then m.shelve id
    else if left.all (fun g => (m.gang? g).any (fun x => x.run == .ended) && m.drained g)
    then left.foldl (fun m g => m.updGang g (fun x => { x with run := .yielded, causes := [], wrote := some 0, preempt := none })) m
    else m

/-- CONTEXT_SAVE: the engine has written all of a gang's image (R76, R336, R403). -/
def execContextSave (gang : Nat) (s : State) : Host.Outcome State Fault Refusal :=
  match (s.m.gang? gang).bind (fun x => (s.m.job? x.job).map (fun j => (x, j))) with
  | none => .fault .notEnabled
  | some (x, j) =>
    event (x.run == .yielded && x.wrote.isSome && (s.m.savePiece x j).isNone && j.ending.isNone)
      ((s.m.saveGang gang).savedOne x.job) s

/-- YIELD_HOLD_RELEASE: every gang of the job stands at a yield point or has ended: the hold of those that are held ends, and with
it their freeze, if nothing else freezes them, and all save (R64, R76, R119). -/
def execYieldHoldRelease (job : Nat) (s : State) : Host.Outcome State Fault Refusal :=
  match s.m.job? job with
  | none => .fault .notEnabled
  | some j =>
    let free (x : Gang) : Gang :=
      let l := x.causes.filter (fun c => c.kind != .yieldHold)
      { x with causes := l, frozen := if l.isEmpty then 0 else x.frozen, frozenAt := if l.isEmpty then none else x.frozenAt }
    event (s.m.allStand j && j.gangs.any (fun g => (s.m.gang? g).any Gang.isHeld))
      (j.gangs.foldl (fun m g => match m.gang? g with
        | some x => if x.isHeld then (if (free x).causes.isEmpty then m.rampAfter x else m).updGang g free else m
        | none => m) s.m) s

/-! ## Checkpoints (R400) -/

/-- A gang whose checkpoint is written: its checkpoint freeze is over, a skew freeze may go on (R64, R119, R400), and it goes on in
place, or to its save. -/
def Mach.checked (m : Mach) (g : Nat) (x : Gang) (a : After) : Mach :=
  if a = .checkThenSave then
    let l := x.causes.filter (fun c => c.kind != .checkpoint)
    (if l.isEmpty then m.rampAfter x else m).updGang g (fun y => { y with
      run := .draining .save, pck := none, wrote := none, causes := l, frozenAt := if l.isEmpty then none else y.frozenAt })
  else
    let l := x.causes.filter (fun c => c.kind.isRdv)
    (if l.isEmpty then m.rampAfter x else m).updGang g (fun y => { y.resumed with
      pck := none, wrote := none, causes := l, frozen := if l.isEmpty then 0 else y.frozen, frozenAt := if l.isEmpty then none else y.frozenAt })

/-- A checkpoint abandoned: a page fault is serviced with the gang frozen, any other stops the gang (R400, R419). The word such a
fault names is free (log entry 13). -/
def Mach.checkFails (m : Mach) (g : Nat) (x : Gang) (cause : BitVec 8) (q : Word) : Mach :=
  let t := m.keepWalk x.vd (ptrOff q)
  if cause = 0x04 then
    let (id, m) := t.postPage q true x.vd (.save g) 0
    let mk (k : CauseKind) : Cause := { kind := k, rank := 0, strm := .s, pc := 0, seq := x.cyc, began := m.time }
    m.updGang g (fun x => { x with causes := x.causes ++ [mk (.pageFault id q true)] })
  else
    ((t.fresh.rampAfter x).updGang g (fun x => { x with pck := none })).takeStop g
      (x.mkReport m.time (m.draw 46 % x.cores.length) (streamOf (m.draw 47 % 4)) (BitVec.ofNat 14 (m.draw 48)) 0 { cause := cause, addr := q })

/-- CHECKPOINT: the drained gang's image is written and released, and it resumes in place or goes on to its save; or a piece of it
meets a fault (R400, R419). -/
def execCheckpoint (gang : Nat) (s : State) : Host.Outcome State Fault Refusal :=
  match (s.m.gang? gang).bind (fun x => (s.m.job? x.job).map (fun j => (x, j))) with
  | none => .fault .notEnabled
  | some (x, j) =>
    match x.run, x.pck with
    | .draining a, some p =>
      let end_ : Option Mach := match s.m.checkPiece x j with
        | none => some ((s.m.bumpVg x.vd).checked gang x a)
        | some b => match s.m.writeThrough x.vd p b with
          | .error (c, q) => some (s.m.checkFails gang x c q)
          | .ok _ => none
      event ((a == .check || a == .checkThenSave) && x.wrote.isSome && s.m.drained gang && !(x.causes.any (fun c => c.kind.isPage)) && end_.isSome)
        (end_.getD s.m) s
    | _, _ => .fault .notEnabled

/-! ## What the kernel does with a stop (R394, R395) -/

/-- A notice acknowledged. -/
def Mach.acknowledge (m : Mach) (f : Notice → Bool) : Mach :=
  { m with mgmt := { m.mgmt with notices := m.mgmt.notices.filter (fun n => !f n) } }

/-- The cause a job's stop is reported with: its first gang's that has one, a Loupe member's, or that of a gang the kernel has had
saved. -/
def Mach.stopCause (m : Mach) (j : Job) : Option (BitVec 8) :=
  let gangs := j.gangs.filterMap (fun g => (m.gang? g).bind (fun x => if x.run = .stopped then x.report else none))
  let loupes := (m.loupeMembers j).filterMap (fun (_, _, _, x) => if x.run = .stopped then x.report else none)
  let l := (gangs ++ loupes).map (·.cause) ++ (if j.kept.isEmpty then [] else j.why.toList)
  l.find? (· != 0) <|> l.head?

/-- KERNEL_END_JOB: the job ends with CLASS 1 and the reported cause, once its other gangs have stopped (R394, R345). -/
def execKernelEndJob (job : Nat) (s : State) : Host.Outcome State Fault Refusal :=
  match (s.m.job? job).bind s.m.stopCause with
  | none => .fault .notEnabled
  | some c => .next { s with m := s.m.endStopped job 1 c.toNat 0 }

/-- Causes after which a gang may resume in place: races, TRAP, HALT (R390, R399). -/
def resumable (c : BitVec 8) : Bool := c == 0x09 || c == 0x0A || c == 0x11 || c == 0

/-- A value the kernel returns, in a register of a core, or of a Loupe program (R397). -/
def Core.returned (c : Core) : RegValue → Core
  | .s n v => c.write (.s n v)
  | .p n v => c.write (.p n v)
  | .v n v => c.write (.v n v)
  | .m n v => c.write (.m n v)
  | .th n v => { c with vec := { c.vec with th := vset c.vec.th n v } }
  | .tile t i v => c.write (.tile t i (BitVec.allOnes 256) v)
def Seq.returned (q : Seq) : RegValue → Seq
  | .s n v => q.setS n v
  | .p n v => q.setP n v
  | .v _ _ | .m _ _ | .th _ _ | .tile _ _ _ => q

/-- The values for one rank. -/
def forRank {α : Type} (rank : Nat) (values : List (Nat × α)) : List α := (values.filter (fun v => v.1 == rank)).map (·.2)

/-- A stopped gang with the values returned for its TRAP: its reported rank alone takes them (R397). -/
def Gang.returned (x : Gang) (values : List (Nat × RegValue)) : Gang :=
  match x.report with
  | some r =>
    if r.cause = 0x11 && !r.halt then
      { x with cores := x.cores.modify r.rank.toNat (fun c => (forRank r.rank.toNat values).foldl Core.returned c) }
    else x
  | none => x

/-- A Loupe member that a TRAP stopped goes on at the next word, with the values returned; one that HALT stopped at its HALT
(R397, R399). -/
def LoupeCtx.resumed (x : LoupeCtx) (rank : Nat) (values : List (Nat × RegValue)) : LoupeCtx :=
  match x.run, x.report with
  | .stopped, some r =>
    if r.cause = 0x11 then
      let q := if r.halt then x.seq else (forRank rank values).foldl Seq.returned (x.seq.updRegs .s (fun q => { q with pc := q.pc + 1 }))
      { x with run := .running, report := none, seq := q.groupSwitch .s }
    else x
  | _, _ => x

/-! ### Reported accesses executed again (R395)

At the resume each of them is performed, and checked, as a new access of its rank (DEDUCED; log entry 87). -/

/-- A part of a reply, for another reply. -/
def QOp.into (r : Nat) : QOp → QOp
  | .load n _ o => .load n r o
  | .ldl ty d l _ => .ldl ty d l r
  | .amo c b _ => .amo c b r
  | .cas n e x _ => .cas n e x r
  | op => op

/-- An access of a rank in the interval it is in now: a saved gang's may have stood under another number. -/
def Mach.rehome (m : Mach) (g r : Nat) (q : QEntry) : QEntry :=
  { q with
    who := .agent (.core g r q.strm), gang := g, rank := r, icnt := ((m.core? g r).map (·.icnt)).getD 0
    loc := match q.loc with | .scr _ k o => .scr g k o | l => l }

/-- A result in flight again, due in the next ec. -/
def Mach.inFlightAgain (m : Mach) (g r : Nat) (p : Pend) : Mach :=
  m.updCore g r (fun c => { c with seq := { c.seq with
    pend := c.seq.pend ++ [{ p with due := ((m.gang? g).map (·.cyc)).getD 0, first := none, latchS := none, latchV := none }] } })

/-- Bytes that a beat reads again, where they are not reported. -/
def Mach.readAgain (m : Mach) (g r : Nat) (b : Beat) (spans : List (Nat × Nat)) : Mach × Option (List Byte) :=
  spans.foldl (fun (acc : Mach × Option (List Byte)) (o, n) =>
    let q := mEntry acc.1 g r b o (.load n 0 0)
    if acc.1.locError q.vd q.loc n false then (acc.1.lateFault q 0x10 q.va 0 (.beat b), none)
    else
      match acc.1.raceUnits (b.racc g r) b.rank (unitsOf o n) with
      | (m, some e) => (m.lateFault q e.1 e.2.1 e.2.2 (.beat b), none)
      | (m, none) => (m, acc.2.map (· ++ m.readLoc q.loc n))) (m, some [])

/-- A beat made again: an LCB's opens or reloads its ladder; rows that went into a blend or a merge stay as they are (log
entry 23). -/
def Mach.beatAgain (m : Mach) (g r : Nat) (b : Beat) : Mach :=
  let b := { b with icnt := ((m.core? g r).map (·.icnt)).getD 0 }
  let lcb := b.op == .lopn || b.op == .lwgt
  let spans := if b.op == .lopn then [(b.off, 256)] else if b.op == .lwgt then [(b.off + 16, 240)] else b.spans
  match m.readAgain g r b spans with
  | (m, none) => m
  | (m, some bytes) =>
    let bytes := if b.op == .lwgt then List.replicate 16 0 ++ bytes else bytes
    let moot := m.beatMoot g r b (some bytes)
    let m := m.beatData g r b bytes
    if lcb && b.acq && !moot then m.publish g b.snap else m

/-- One reported access of a rank is executed again. -/
def Mach.again (m : Mach) (g r : Nat) : Redo → Mach
  | .load p buf parts =>
    let (id, m) := m.newReply (.agent (.core g r p.strm)) parts.length
    let m := { m with replies := tupd m.replies id (fun y => { y with buf := buf, arrived := parts.isEmpty }) }
    let m := m.inFlightAgain g r { p with reply := some id, fault := none }
    parts.foldl (fun m q => let m := m.fresh; m.commitNow { m.rehome g r q with op := q.op.into id }) m
  | .row p =>
    match p.row, m.core? g r with
    | some v, some c =>
      let x : RaceAcc := { gang := g, rank := r, strm := .v, cls := v.cls.toNat, kind := 1, iv := c.icnt, rd := true, wr := false }
      let (m, rep) := m.raceUnits x v.rank v.units
      m.inFlightAgain g r { (if rep.isSome then p else m.reread g r p) with reply := none, fault := rep }
    | _, _ => m
  | .store q => m.commitNow (m.rehome g r q)
  | .beat b => m.beatAgain g r b

/-- A gang goes on in place (R394, R395). -/
def Mach.resumeGang (m : Mach) (g : Nat) (x : Gang) (values : List (Nat × RegValue)) : Mach :=
  x.redo.foldl (fun m p => m.again g p.1 p.2) (m.updGang g (fun x => (x.returned values).resumed))

/-- A gang that the kernel has had saved may go on: with its job where all of it is saved, and else beside the others (R78,
R394). -/
def Mach.letGo (m : Mach) (id : Nat) (j : Job) (g : Nat) : Mach :=
  let kept := j.kept.erase g
  let why := if kept.isEmpty then none else j.why
  if j.st = .saved then
    let m := m.updJob id (fun j => { j with kept := kept, why := why })
    if kept.isEmpty then m.requeue j.vd id else m
  else (m.updJob id (fun j => { j with kept := kept, why := why, back := j.back ++ [g] })).wantBind j.vd

/-- The Loupe members of a job that a TRAP or HALT has stopped go on. -/
def Mach.resumeLoupes (m : Mach) (ls : List (Nat × Nat × Nat × LoupeCtx)) (values : List (Nat × RegValue)) : Mach :=
  ls.foldl (fun m (d, i, c, _) => (m.updCtx d i c (fun x => x.resumed (0x40 + i) values)).startSlices d i c) m

/-- KERNEL_RESUME_IN_PLACE: the gang goes on at its recorded PCs, and with it the Loupe members of its job that stand at a
TRAP or HALT; for a TRAP with the values the kernel returns; after a race report the reported access is executed again (R394, R395,
R397). A gang that KERNEL_SAVE had saved resumes from its save (R78). -/
def execKernelResumeInPlace (gang : Nat) (values : List (Nat × RegValue)) (s : State) : Host.Outcome State Fault Refusal :=
  match (s.m.gang? gang).bind (fun x => (s.m.job? x.job).map (fun j => (x, j))) with
  | none =>
    match s.m.jobs.find? (fun p => p.2.kept.contains gang) with
    | none => .fault .notEnabled
    | some (id, j) => event (j.ending.isNone && (tget j.saved gang).isSome) (s.m.letGo id j gang) s
  | some (x, j) =>
    let own := x.run == .stopped && x.report.any (fun r => resumable r.cause)
    let ls := (s.m.loupeMembers j).filter (fun (_, i, _, y) => y.resumed (0x40 + i) values != y)
    let m := if own then s.m.resumeGang gang x values else s.m
    let m := m.resumeLoupes ls values
    let m := m.updJob x.job (fun j => { j with st := if j.st = .stopped then .running else j.st })
    event ((own || !ls.isEmpty) && j.ending.isNone)
      (m.acknowledge (fun n => match n with
        | .stop g => own && g == gang
        | .loupeStop d i c => ls.any (fun l => l.1 == d && l.2.1 == i && l.2.2.1 == c)
        | _ => false)) s

/-- Causes after which a gang may be saved (R390, R399). -/
def savable (c : BitVec 8) : Bool := c == 0x0D || c == 0x0F || c == 0x11 || c == 0

/-- KERNEL_SAVE: a stopped gang is saved as at a yield point, and waits for the kernel to let it go on or end its job (R394). -/
def execKernelSave (gang : Nat) (s : State) : Host.Outcome State Fault Refusal :=
  match s.m.gang? gang with
  | none => .fault .notEnabled
  | some x =>
    event (x.run == .stopped && x.report.any (fun r => savable r.cause) && !x.killed)
      (((s.m.updGang gang (fun x => { x.settled with run := .yielded, wrote := some 0 })).updJob x.job (fun j =>
        { j with kept := j.kept ++ [gang], why := x.report.map (·.cause) })).acknowledge (fun n => n == .stop gang)) s

/-! ## Page-fault service (R370, R319, R345) -/

/-- The job a faulting agent works for. -/
def Mach.whoJob (m : Mach) : Who → Nat
  | .agent a => m.jobNo a
  | .cmd id => ((tget m.cmds id).map (·.job)).getD 0
  | .save g => ((m.gang? g).map (·.job)).getD 0
  | .kernel | .host => 0

/-- Whether a cause is the service of a record. -/
def Cause.isService (id : Nat) (c : Cause) : Bool := match c.kind with | .pageFault k _ _ => k == id | _ => false

/-- The service of a record ends: what waits for it goes on, or meets a fault of the cause given. -/
def Mach.endService (m : Mach) (id : Nat) (va : Word) (who : Who) (fault : Option (BitVec 8)) : Mach :=
  match who with
  | .agent (.core g _ _) | .save g =>
    match m.gang? g with
    | none => m
    | some x =>
      match fault, x.causes.find? (Cause.isService id) with
      | some c, some k =>
        ((m.rampAfter x).updGang g (fun x => { x with pck := if who = .save g then none else x.pck })).takeStop g
          (x.mkReport m.time k.rank k.strm k.pc 0 { cause := c, addr := va })
      | _, _ => m.updGang g (fun x => { x with causes := x.causes.filter (fun c => !c.isService id) })
  | .agent (.loupe d i c) =>
    match fault with
    | some k => m.stopLoupe d i c { cause := k, addr := va } (((m.ctx? d i c).map (fun x => (x.seq.regs .s).pc)).getD 0) 0
    | none => m.updCtx d i c (fun x => { x with run := if x.run = .service id then .running else x.run })
  | .cmd k =>
    let m := m.updCmd k (fun c => { c with halted := none, err := c.err <|> fault.map (fun e => (e, va, 0)) })
    match fault with
    | some e => m.schedule .mc m.time (.transferFault k e)
    | none => m
  | .kernel | .host => m

/-- The notice of a page request, by its number. -/
def Notice.isPage (id : Nat) : Notice → Bool
  | .page k _ _ _ _ _ => k == id
  | _ => false

/-- PAGE_FAULT_SERVICE: the kernel maps the page, with a TLBI for it (R367; log entry 85), converts the fault to a protection fault at the access, or kills the job
with CLASS 4 (R370); or it refuses the service, and the page fault is raised (R390). -/
def execPageFaultService (id : Nat) (how : Service) (s : State) : Host.Outcome State Fault Refusal :=
  match s.m.mgmt.notices.find? (Notice.isPage id) with
  | some (.page _ va _ vd who _) =>
    let m := s.m.acknowledge (Notice.isPage id)
    .next { s with m := match how with
      | .map => (m.dropWalks vd va).endService id va who none
      | .convert => m.endService id va who (some 0x05)
      | .refuse => m.endService id va who (some 0x04)
      | .kill => m.endStopped (m.whoJob who) 4 0 0 }
  | _ => .fault .notEnabled

/-! ## The kernel's crash (R405-R407) -/

/-- The heartbeat is watched from now on. -/
def Mach.watchHeart (m : Mach) : Mach :=
  { m with mgmt := { m.mgmt with khbAt := m.time } }.unschedule .heartbeatTimeout |>.schedule .mc (m.time + m.mgmt.khbt * mcPerMs) .heartbeatTimeout

/-- KPANIC_WRITE (R405). -/
def execKpanicWrite (s : State) : Host.Outcome State Fault Refusal := .next { s with m := s.m.crash }

/-- KHB_WRITE (R405). -/
def execKhbWrite (s : State) : Host.Outcome State Fault Refusal :=
  .next { s with m := if s.m.mgmt.hold || s.m.mgmt.dead then s.m else s.m.watchHeart }

/-- HEARTBEAT_TIMEOUT: KHB unwritten for KHBT ms (R405). -/
def execHeartbeatTimeout (s : State) : Host.Outcome State Fault Refusal :=
  event (!s.m.mgmt.hold && !s.m.mgmt.dead && decide (s.m.mgmt.khbAt + s.m.mgmt.khbt * mcPerMs ≤ s.m.time)) s.m.crash s

/-- The body of a flash image. -/
def imageBody (b : List Byte) : List Byte := (b.drop 4096).take (leNat ((b.drop 12).take 4))

/-- An image verifies: its header, the digest of its body, both signatures, and a version no lower than the fuse counter
(R383, R384). -/
def imageOk (kind fuse : Nat) (b : List Byte) : Bool :=
  let signed := b.take 64
  leNat (b.take 4) == 0x4E494D47 && leNat ((b.drop 4).take 4) == kind && decide (fuse ≤ leNat ((b.drop 8).take 4)) &&
  decide (4096 + leNat ((b.drop 12).take 4) ≤ b.length) && (b.drop 16).take 48 == (Config.sha384 (imageBody b)).toList &&
  Config.edVerify signed ((b.drop 64).take 64) && Config.mlVerify signed ((b.drop 128).take 3309) &&
  ((b.drop 3437).take 659).all (fun x => x == 0)

/-- The kernel image held at reset verifies again: a warm start starts no other (R407). -/
def Mgmt.kernelOk (g : Mgmt) : Bool := (vget g.images 0 none).any (imageOk 1 (vget g.fuses 0 0))

/-- KREADY_WRITE: the kernel that the warm start has started is there, and the hold ends for every virtual device; outside a hold
the write does nothing (R407). -/
def execKreadyWrite (s : State) : Host.Outcome State Fault Refusal :=
  .next { s with m :=
    if s.m.mgmt.hold && !s.m.mgmt.dead && s.m.mgmt.kernelOk then
      let m := { s.m with
        mgmt := { s.m.mgmt with hold := false, warmFails := 0 }
        io := { s.m.io with cores := Vector.replicate 16 true } }.unschedule .warmStartRetry
      (m.vds.foldl (fun m v => m.wantBind v.1) m).watchHeart
    else s.m }

/-- WARM_START_RETRY: KREADY has not come within 2 s; the third failure ends every job with CLASS 4 (R407). -/
def execWarmStartRetry (s : State) : Host.Outcome State Fault Refusal :=
  let m := { s.m with mgmt := { s.m.mgmt with warmFails := s.m.mgmt.warmFails + 1, warmAt := s.m.time } }
  let m := { m with io := { m.io with cores := Vector.replicate 16 false, cache := [] } }
  event (s.m.mgmt.hold && !s.m.mgmt.dead && decide (s.m.mgmt.warmAt + 2000 * mcPerMs ≤ s.m.time))
    (if m.mgmt.warmFails < 3 then m.schedule .mc (m.time + 2000 * mcPerMs) .warmStartRetry
     else
      let m := m.jobs.foldl (fun m p => m.endJob p.1 4 0 0) m
      { m with mgmt := { m.mgmt with dead := true } }) s

/-! ## Memory errors and logs (R409-R415) -/

/-- An error arises: a corrected one is counted, and one of DRAM logged; an uncorrectable one waits for its reader (R404,
R411). -/
def Mach.strike (m : Mach) : Strike → Mach
  | .symbol pa sym =>
    let n := (tget m.mgmt.corrected (pa / 64)).getD 0
    { m with mgmt := { m.mgmt with corrected := tset m.mgmt.corrected (pa / 64) (n + 1) } }.logArray pa sym false false
  | .codeword pa => if devUnit pa && !m.faulty.contains (pa / 64) then { m with faulty := m.faulty ++ [pa / 64] } else m
  | .bit g r =>
    match m.gang? g with
    | none => m
    | some x => m.updCluster x.die x.cluster (fun c =>
        let k := coreNo x.quadMask r
        { c with ecc := tset c.ecc k ((tget c.ecc k).getD 0 + 1) })
  | .scratch g r n => m.updCore g r (fun c => if n < 2 ^ 18 && !c.worn.contains n then { c with worn := c.worn ++ [n] } else c)
  | .read a => if (m.seq? a).any (fun q => (q.regs a.strm).st == .live) then { m with hits := m.hits ++ [a] } else m

/-- What is left of a command whose next transfer is over the failed channel: it ends in flight with 0x10 (R320, R345). None where its
next is not. -/
def Mach.cmdMeets (m : Mach) (id : Nat) (c : Cmd) : Option Mach :=
  let now := match c.owner with | .t g _ => let (d, k) := m.clusterOf g; m.pulses d k | .l _ _ _ => m.time
  if !c.started || c.finished || c.halted.isSome || c.err.isSome || decide (now < c.moves) then none
  else
    match (match c.owner with
      | .t _ _ => (m.stepTransfer id c 4096).map (fun _ => ())
      | .l _ _ _ => (m.stepLoupe c).map (fun _ => ())) with
    | .error (.fault 0x10 a r w) =>
      let m := m.cmdStopped id (.fault 0x10 a r w)
      some (match c.owner with | .t _ _ => m.colCancel id c 0x10 | .l _ _ _ => m)
    | _ => none

/-- A gang whose checkpoint's next piece goes over the failed channel: the checkpoint is abandoned (R400, R419). -/
def Mach.pieceMeets (m : Mach) (g : Nat) (x : Gang) : Option Mach :=
  match x.run, x.wrote, x.pck, m.job? x.job with
  | .draining .check, some _, some p, some j | .draining .checkThenSave, some _, some p, some j =>
    (m.checkPiece x j).bind (fun b => match m.writeThrough x.vd p b with
      | .error (0x10, q) => some (m.checkFails g x 0x10 q)
      | _ => none)
  | _, _, _, _ => none

/-- The access whose transfer has failed for good ends with 0x10: the oldest queued one over the channel, else the oldest command's,
else a checkpoint's (R412, R419; log entry 17). -/
def Mach.endAccess (m : Mach) (f : LinkFault) : Mach :=
  let m := { m with bad := some f }
  let hit (q : QEntry) : Bool := match q.loc with | .dev pa => decide (0 < q.op.size) && linkHits f pa q.op.size | _ => false
  let m : Mach := match m.queue.find? (fun p => hit p.2) with
    | some (id, _) => Mach.force (m.queue.length + 1) m id
    | none =>
      match m.cmds.findSome? (fun p => m.cmdMeets p.1 p.2) with
      | some m => m
      | none => (m.gangs.findSome? (fun p => m.pieceMeets p.1 p.2)).getD m
  { m with bad := none }

/-- MIRROR_REPAIR: a line of the mirror region that has trapped to the monitor pair is repaired (R409). -/
def execMirrorRepair (pa : Nat) (mirrorGood readback : Bool) (s : State) : Host.Outcome State Fault Refusal :=
  event (s.m.io.monitor.contains (pa / 64)) (s.m.repair (pa / 64) mirrorGood readback) s

/-! ## Channels (R410, R412, R414) -/

/-- Two failures are of one channel. -/
def sameLink (f h : LinkFault) : Bool := f.die == h.die && f.layer == h.layer && f.chan == h.chan

/-- A channel takes no other transfer until a master cycle. -/
def Mach.holdLink (m : Mach) (f : LinkFault) (t : Nat) : Mach := { m with links := m.links.filter (fun p => !sameLink p.1 f) ++ [(f, t)] }

/-- A lane of a group: one of its data or check lanes, or its parity lane (R410). -/
def groupLane (group k : Nat) : Nat :=
  let n := if group < 4 then 32 else 8
  if k % (n + 1) = n then 136 + group else 32 * group + k % (n + 1)

/-- A failed attempt is one that comes next for its channel: the first of a transfer, or the retry that the last one led to. -/
def Mach.linkNext (m : Mach) (f : LinkFault) : Bool :=
  decide (f.group.toNat ≤ 4) &&
  (if f.retry = 0 then !m.links.any (fun p => sameLink p.1 f && decide (m.time < p.2))
   else m.links.any (fun p => sameLink p.1 f && p.1.retry + 1 == f.retry && decide (p.2 ≤ m.time + 1)))

/-- LINK_RETRY: the first attempt or a retry has failed; it is logged, and the next follows, 24 mc later. When the fourth attempt fails
too, the lanes of its group are tested. Which attempts fail, and where, is drawn (R412, R414). -/
def execLinkRetry (fault : LinkFault) (s : State) : Host.Outcome State Fault Refusal :=
  let m := s.m.fresh.logLink fault 0xFF 0 false s.m.time
  let next := { fault with retry := fault.retry + 1, group := BitVec.ofNat 3 (m.draw 56 % 5), beat := BitVec.ofNat 2 (m.draw 57) }
  let m := if !m.flip 58 then m.holdLink fault (m.time + 24)
    else if fault.retry != 2 then (m.holdLink fault (m.time + 25)).schedule .mc (m.time + 24) (.linkRetry next)
    else
      let lane := if m.flip 59 then some (BitVec.ofNat 8 (groupLane next.group.toNat (m.draw 60))) else none
      (m.holdLink fault (m.time + 7225)).schedule .mc (m.time + 7224) (.laneTestComplete next lane)
  event (s.m.linkNext fault && fault.retry != 3) m s

/-- The lane set of a lane: A, B or C (R410). -/
def laneSet (lane : Nat) : Nat := if lane < 64 then 0 else if lane < 128 then 1 else 2

/-- A lane belongs to a group: its data or check lanes, and its parity lane (R410). -/
def laneIn (group lane : Nat) : Bool := (decide (lane < 136) && decide (lane / 32 = group)) || lane == 136 + group

/-- LANE_TEST_COMPLETE: 7200 mc after the fourth failure the lane found is mapped to the next spare of its set and the codeword moves
once more; with no spare, or no lane found, the access ends with 0x10 (R412, R414). -/
def execLaneTestComplete (fault : LinkFault) (lane : Option (BitVec 8)) (s : State) : Host.Outcome State Fault Refusal :=
  let m : Mach := { s.m with links := s.m.links.filter (fun p => !sameLink p.1 fault) }
  let t := m.time - 7200
  event (s.m.linkNext fault && fault.retry == 3 && lane.all (fun l => laneIn fault.group.toNat l.toNat))
    (match lane with
     | none => (m.logLink fault 0xFF 2 false t).endAccess fault
     | some l =>
       let used : Nat := (m.mgmt.swaps.filter (fun (d, y, c, k, _) => d == fault.die.toNat && y == fault.layer.toNat && c == fault.chan.toNat &&
         laneSet k == laneSet l.toNat)).length
       if used < 2 then
         let m := (m.logLink fault l 1 (used == 1) t).holdLink fault (m.time + 24)
         { m with mgmt := { m.mgmt with swaps := m.mgmt.swaps ++ [(fault.die.toNat, fault.layer.toNat, fault.chan.toNat, l.toNat, used)] } }
       else (m.logLink fault l 2 false t).endAccess fault) s

/-! ## The context registry (R407, R408) -/

/-- A bind record's 256 bits (R108). -/
def BindRec.bits (r : BindRec) : Nat :=
  r.hdrc.toNat * 2 ^ 192 + r.save.toNat * 2 ^ 128 + r.argc.toNat * 2 ^ 64 + r.job.toNat * 2 ^ 48 + r.gang.toNat * 2 ^ 40 +
  r.vd.toNat * 2 ^ 36 + r.clu.toNat * 2 ^ 34 + r.size.toNat * 2 ^ 28 + r.quads.toNat * 2 ^ 16 + r.req.toNat * 2 ^ 12 +
  (if r.resume then 2 ^ 7 else 0) + (if r.valid then 1 else 0)

/-- A gang's state in the registry (log entry 81). -/
def RunState.number : RunState → Nat
  | .bound => 0
  | .loaded => 1
  | .running => 2
  | .stopped => 3
  | .draining _ => 4
  | .yielded => 5
  | .ended => 6

/-- A notice of a gang's. -/
def Notice.ofGang (g : Nat) : Notice → Bool
  | .stop h => g == h
  | .page _ _ _ _ who _ => match who with | .agent (.core h _ _) | .save h => g == h | _ => false
  | _ => false

/-- A notice of a command of a gang's. -/
def Mach.cmdNotice (m : Mach) (g : Nat) : Notice → Bool
  | .page _ _ _ _ (.cmd k) _ => (tget m.cmds k).any (fun c => match c.owner with | .t h _ => h == g | .l _ _ _ => false)
  | _ => false

/-- A registry record of 64 bytes: the bind record, the state, SAVE, the fault records still to be raised and the stop notices. -/
def registryRec (b : BindRec) (state : Nat) (save faults stops : Nat) : List Byte :=
  natLE 32 b.bits ++ natLE 1 state ++ natLE 8 save ++ natLE 2 faults ++ natLE 2 stops ++ List.replicate 19 0

/-- The record of a gang that holds its cores. -/
def Mach.gangRec (m : Mach) (g : Nat) (x : Gang) : List Byte :=
  registryRec (m.slotOf x) x.run.number x.save.toNat
    ((x.cores.map (fun c => c.held.length)).foldl (· + ·) 0 + (m.mgmt.notices.filter (fun n => (n.ofGang g || m.cmdNotice g n) && n != .stop g)).length)
    (m.mgmt.notices.filter (fun n => n == .stop g)).length

/-- The records of a job's saved gangs, state 7. -/
def Mach.savedRecs (m : Mach) (j : Job) : List (List Byte) :=
  (j.saved.filter (fun p => (m.gang? p.1).isNone)).map (fun (g, a) =>
    registryRec { hdrc := j.hdrc, save := BitVec.ofNat 64 a, argc := j.argc, job := j.num, gang := BitVec.ofNat 8 (j.gangs.findIdx (· == g))
                  vd := BitVec.ofNat 4 j.vd, size := BitVec.ofNat 6 (j.hdr.gsize - 1), resume := true } 7 a (((tget m.away g).map (·.faults)).getD 0) 0)

/-- A notice that the kernel has not acknowledged. -/
def Notice.bytes : Notice → List Byte
  | .stop g => natLE 8 1 ++ natLE 56 g
  | .loupeStop d i c => natLE 8 2 ++ natLE 56 (d * 2 ^ 16 + i * 2 ^ 8 + c)
  | .page id va w vd who goix => natLE 8 3 ++ natLE 8 id ++ natLE 8 va.toNat ++ natLE 1 (if w then 1 else 0) ++ natLE 1 vd ++ natLE 2 goix.toNat ++
      natLE 36 (match who with
        | .agent (.core g r _) => 1 + g * 2 ^ 16 + r * 2 ^ 8
        | .agent (.loupe d i c) => 2 + d * 2 ^ 32 + i * 2 ^ 16 + c * 2 ^ 8
        | .cmd k => 3 + k * 2 ^ 16
        | .save g => 4 + g * 2 ^ 16
        | .kernel | .host => 0)
  | .bindRefused j => natLE 8 4 ++ natLE 56 j

/-- The registry: a record of every gang bound, stopped or saved, the walker fault records and stop notices, and 64 bytes of 0. -/
def Mach.registry (m : Mach) : List Byte :=
  (m.gangs.flatMap (fun p => m.gangRec p.1 p.2)) ++ (m.jobs.flatMap (fun p => (m.savedRecs p.2).flatten)) ++
  m.mgmt.notices.flatMap Notice.bytes ++ List.replicate 64 0

/-- The registry in the mirror region follows what it records, in both copies (R407, R408; log entry 81). -/
def Mach.syncRegistry (m : Mach) : Mach :=
  match m.mgmt.mirror with
  | none => m
  | some r =>
    let a := r.die * 2 ^ 44 + r.base + Config.registryPlace % r.size
    let new := m.registry
    if Memory.read m.dev a new.length == new then m else m.devStore a (offs new)

end Sys2Proof.Machine
end

