-- ==== Sys2Proof/Machine/Host.lean ====
section
/-! DEFINITION. The host and the boot (R376-R389, R416-R418): virtual devices made, put to sleep, woken and torn down; the
command queues; attestation, firmware and logs; accesses from outside; reset. Layouts that the spec leaves to the command's
arguments are those of log entry 27. -/
namespace Sys2Proof.Machine

/-! ## Command queue entries (R387) -/

/-- A command as its entry, or its MCTP message, gives it. -/
structure HostCmd where
  opc : Nat
  args : List Byte
  datap : Nat
  len : Nat
  ref : CmdRef

/-- The head and the tail of a queue. -/
def Mach.ends (m : Mach) : CmdQueue → Nat × Nat
  | .phys => (m.mgmt.qhead, m.mgmt.qtail)
  | .vf v => ((m.vd v).qhead, (m.vd v).qtail)
  | .mctp => (0, m.mgmt.mctpIn.length)

/-- The next command of a queue. -/
def Mach.headCmd (m : Mach) (q : CmdQueue) : Option HostCmd :=
  let (h, t) := m.ends q
  if h = t then none
  else
    match q with
    | .mctp => m.mgmt.mctpIn.head?.map (fun p => { opc := p.1.toNat, args := p.2, datap := 0, len := 0, ref := ⟨q, 0⟩ })
    | _ =>
      let b := Memory.read m.host ((m.queueOf q).1 + 64 * h) 64
      some { opc := descBits b 0 8, args := b.drop 32, datap := descBits b 192 64, len := descBits b 160 32, ref := ⟨q, h⟩ }

/-- The next command taken off its queue. -/
def Mach.popCmd (m : Mach) (q : CmdQueue) : Mach :=
  match q with
  | .mctp => { m with mgmt := { m.mgmt with mctpIn := m.mgmt.mctpIn.drop 1 } }
  | .phys => { m with mgmt := { m.mgmt with qhead := if m.mgmt.qsize = 0 then m.mgmt.qtail else (m.mgmt.qhead + 1) % m.mgmt.qsize } }
  | .vf v => m.updVd v (fun d => { d with qhead := if d.qsize = 0 then d.qtail else (d.qhead + 1) % d.qsize })

/-- The opcodes of R388, and the end of commands whose opcode none of them is (status 1). The first argument bounds the
entries. -/
def Mach.skipUnknown : Nat → Mach → CmdQueue → Mach
  | 0, m, _ => m
  | n + 1, m, q =>
    match m.headCmd q with
    | none => m
    | some c => if 1 ≤ c.opc ∧ c.opc ≤ 13 then m else Mach.skipUnknown n ((m.popCmd q).finishEntry c.ref 0 1) q

/-- The management core reads a queue's next entry at a drawn time, in a later master cycle; after the kernel's third failed warm
start it reads none but the physical function's (R407). The idle time of a virtual device begins anew with the last command of its
queue (R376). -/
def Mach.poll (m : Mach) (q : CmdQueue) : Mach :=
  let m := m.skipUnknown 65536 q
  let open_ := match q with
    | .phys => true
    | .mctp => !m.mgmt.dead
    | .vf _ => !m.mgmt.dead && m.mgmt.booted
  if (m.headCmd q).isNone then (match q with | .vf v => m.noteIdle v | .phys | .mctp => m)
  else if open_ && !(m.polls.any (fun p => p.2 == q)) then { m with polls := m.polls ++ [(m.time + 1 + m.draw 50, q)] } else m

/-- Bytes given back: into the data buffer, as many as it holds, or as an MCTP message (R387, R389). -/
def Mach.give (m : Mach) (c : HostCmd) (bytes : List Byte) : Mach :=
  match c.ref.queue with
  | .mctp => { m with mgmt := { m.mgmt with mctpOut := m.mgmt.mctpOut ++ [bytes] } }
  | _ => if c.datap = 0 then m else { m with host := Memory.write m.host c.datap (bytes.take c.len) }

/-- Bytes of the data buffer. -/
def Mach.buffer (m : Mach) (c : HostCmd) : List Byte := if c.datap = 0 then [] else Memory.read m.host c.datap c.len

/-- A command: on a queue it is not permitted on it ends with status 2; otherwise `body` is its effect and gives RESULT and
STATUS, none for a command that ends later (R387, R388). -/
def hostCmd (opc : Nat) (q : CmdQueue) (allowed : Bool) (body : HostCmd → Mach → Mach × Option (Word × Nat)) (s : State) :
    Host.Outcome State Fault Refusal :=
  match s.m.headCmd q with
  | none => .fault .notEnabled
  | some c =>
    if c.opc ≠ opc then .fault .notEnabled
    else
      let m := s.m.fresh.popCmd q
      let m := if !allowed then m.finishEntry c.ref 0 2
        else match body c m with
          | (m, some (r, st)) => m.finishEntry c.ref r st
          | (m, none) => m
      .next { s with m := (m.poll q) }

/-- The virtual device of a queue. -/
def queueVd : CmdQueue → Option Nat
  | .vf v => some v
  | _ => none

/-! ## IDENTIFY, STATUS, LOG, SELFTEST, ATTEST, SET-CAP (R385, R388, R415-R418) -/

/-- IDENTIFY. -/
def execIdentify (q : CmdQueue) (s : State) : Host.Outcome State Fault Refusal :=
  hostCmd 1 q true (fun c m => (m.give c Config.identity, some (0, 0))) s

/-- SELF (R418). -/
def Mgmt.selfWord (g : Mgmt) : Word := if g.booted then g.self &&& ~~~(1#64 <<< 63) else g.self ||| (1#64 <<< 63)

/-- State, wake class and bound jobs of a virtual device, 4 bytes; 0 where there is none. -/
def Mach.vdStatus (m : Mach) (v : Nat) : List Byte :=
  match m.vd? v with
  | none => [0, 0, 0, 0]
  | some d =>
    let st : Byte := match d.st with | .active => 1 | .collapsing => 2 | .dormant => 3 | .waking => 4
    st :: natLE 1 d.wake ++ natLE 2 ((m.jobsOf v).filter (fun p => p.2.isBound)).length

/-- STATUS: SELF as the result and first in the buffer, the budget, the caps, and each virtual device the queue may see. -/
def execStatus (q : CmdQueue) (s : State) : Host.Outcome State Fault Refusal :=
  hostCmd 2 q true (fun c m =>
    let caps := (List.range 16).map (fun i => ((m.cluster? (i / 4) (i % 4)).map (fun k => k.capNow.zeroExtend 8)).getD 0)
    let vds := (List.range 16).flatMap (fun v => if queueVd q == none || queueVd q == some v then m.vdStatus v else [0, 0, 0, 0])
    let w := m.mgmt.selfWord
    (m.give c (natLE 8 w.toNat ++ natLE 2 m.mgmt.budget ++ caps ++ vds), some (w, 0))) s

/-- LOG: counts and lost counts, then both rings; a virtual function gets the array entries of memory it owns (R415). -/
def execLog (q : CmdQueue) (s : State) : Host.Outcome State Fault Refusal :=
  hostCmd 3 q true (fun c m =>
    let arr := match queueVd q with
      | none => m.mgmt.arrayLog
      | some v => m.mgmt.arrayLog.filter (fun e => (m.vd v).owns (logCw e * 64))
    let link := if queueVd q = none then m.mgmt.linkLog else []
    let bytes := natLE 4 arr.length ++ natLE 4 m.mgmt.arrayLost.toNat ++ natLE 4 link.length ++
      natLE 4 (if queueVd q = none then m.mgmt.linkLost.toNat else 0) ++ (arr ++ link).flatMap (fun e => natLE 16 e.toNat)
    (m.give c bytes, some (BitVec.ofNat 64 bytes.length, 0))) s

/-- The bits of SELF that are causes of the safe talkative state (R418). -/
def selfCauses : BitVec 64 := 0x0FF8FFFFFFFFFFFF#64

/-- The bits of SELF a self-test decides. -/
def selfTested : BitVec 64 := 0x0FE0FFFFFFFFFFFF#64

/-- A bad lane that the self-test finds: mapped to the next spare of its set, or with none left a failure of its layer (R412, R416,
R418). -/
def Mgmt.badLane (g : Mgmt) (l : Nat × Nat × Nat × Nat) : Mgmt :=
  let (d, y, c, k) := l
  let set := g.swaps.filter (fun (d', y', c', k', _) => d' == d && y' == y && c' == c && laneSet k' == laneSet k)
  if set.any (fun (_, _, _, k', _) => k' == k) then g
  else if set.length < 2 then { g with swaps := g.swaps ++ [(d, y, c, k, set.length)] }
  else { g with self := g.self ||| (1#64 <<< (32 + 4 * (d % 4) + y % 4)) }

/-- A self-test run: its bits replaced, those of the images kept, and spares assigned to the bad lanes it finds (R416, R418). -/
def Mgmt.tested (g : Mgmt) : Mgmt :=
  let self := (g.self &&& ~~~selfTested) ||| (Config.selfTest g.selfTests &&& selfTested)
  (Config.testedLanes g.selfTests).foldl Mgmt.badLane { g with self := self, selfTests := g.selfTests + 1 }

/-- The clusters of every die are gated, or powered (R417). -/
def Mach.powerAll (m : Mach) (on : Bool) : Mach :=
  { m with dies := m.dies.map (fun d => { d with clusters := d.clusters.map (fun c => { c with powered := on }) }) }

/-- SELFTEST: with no virtual device present, else busy; a failure leaves the device in the safe talkative state, a success
leaves that state at the next reset (R388, R416, R417). -/
def execSelftest (q : CmdQueue) (s : State) : Host.Outcome State Fault Refusal :=
  hostCmd 4 q (q == .phys) (fun _ m =>
    if !m.vds.isEmpty then (m, some (0, 5))
    else
      let g := m.mgmt.tested
      let m := { m with mgmt := { g with booted := g.booted && (g.self &&& selfCauses) == 0 } }
      (m.powerAll m.mgmt.booted, some (m.mgmt.selfWord, 0))) s

/-- The report of R385. -/
def Mach.attestation (m : Mach) (vd : Nat) (nonce : List Byte) : List Byte :=
  let digest (b : List Byte) : List Byte := (Config.sha384 b).toList
  let img (k : Nat) : List Byte := ((vget m.mgmt.images k none).map digest).getD (List.replicate 48 0)
  let body := natLE 4 1 ++ natLE 4 vd ++ nonce ++ natLE 8 m.time ++ digest Config.bootRom ++ digest Config.mbanumRom ++
    img 0 ++ img 1 ++ img 2 ++ m.mgmt.fuses.toList.flatMap (natLE 4) ++ natLE 4 0 ++ digest (m.vd vd).args
  body ++ (Config.edSign body).toList ++ (Config.mlSign body).toList

/-- ATTEST: the nonce fills ARGS, so the device number stands in the first 4 bytes of the buffer, on either kind of queue; over MCTP
it follows the nonce (R385; log entry 14). -/
def execAttest (q : CmdQueue) (s : State) : Host.Outcome State Fault Refusal :=
  hostCmd 11 q true (fun c m =>
    let vd := match q with
      | .mctp => leNat ((c.args.drop 32).take 4)
      | .vf _ | .phys => leNat ((m.buffer c).take 4)
    (m.give c (m.attestation vd ((c.args ++ List.replicate 32 0).take 32)), some (0, 0))) s

/-- SET-CAP: a cap message by command or by MCTP (R120, R389). -/
def execSetCap (src : CapSource) (s : State) : Host.Outcome State Fault Refusal :=
  match src with
  | .mctp seq watts lease => .next { s with m := s.m.capMessage seq watts lease }
  | .queue q => hostCmd 12 q (queueVd q == none) (fun c m =>
      (m.capMessage (BitVec.ofNat 32 (leNat (c.args.take 4))) (leNat ((c.args.drop 4).take 4)) (leNat ((c.args.drop 8).take 4)), some (0, 0))) s

/-! ## Virtual devices made (R357, R377) -/

/-- The indices of the bits of a mask. -/
def bitsOf (n x : Nat) : List Nat := (List.range n).filter (fun i => x.testBit i)

/-- The free contexts of a Loupe core that serves n virtual devices: the first, when the core is unused or is shared so
already (R333). Virtual device 16 stands for nobody. -/
def LoupeCore.room (l : LoupeCore) (n : Nat) : Option Nat :=
  if l.ctxs.isEmpty then some 0 else if l.ctxs.length = n then l.ctxs.findIdx? (fun x => x.vd == 16) else none

/-- A Loupe core gives a context. -/
def LoupeCore.assign (l : LoupeCore) (n c vd : Nat) : LoupeCore :=
  let ctxs : List LoupeCtx := if l.ctxs.isEmpty then List.replicate n { vd := 16 } else l.ctxs
  { l with ctxs := ctxs.set c { vd := vd } }

/-- Bytes of the wake image area of a cluster (R377). -/
def wakeBytes : Nat := 136 * 2 ^ 20

/-- Where the wake image of a cluster goes: one area each from the start of the first owned region of its die on, none where
the virtual device owns no region there (R357, R377; log entry 29). -/
def wakeAreasOf (clusters regions : List (Nat × Nat)) : List Nat :=
  clusters.filterMap (fun (d, k) => (regions.find? (fun r => r.1 == d)).map (fun (_, r) =>
    d * 2 ^ 44 + r * (6 * 2 ^ 30) + ((clusters.filter (fun c => c.1 == d)).findIdx (fun c => c.2 == k)) * wakeBytes))

/-- A region of 6 GiB holds bytes of a copy of the mirror region, which no virtual device can own (R408). -/
def Mirror.meets (r : Mirror) (die region : Nat) : Bool :=
  (die == r.die || die == (r.die + 2) % 4) && decide (region * (6 * 2 ^ 30) < r.base + r.size) && decide (r.base < (region + 1) * (6 * 2 ^ 30))

/-- The resources of a VD-CREATE buffer that are free, as a virtual device, or the status that refuses it (R357, R377). -/
def Mach.newVd (m : Mach) (b : List Byte) : Except Nat VDev := do
  let n (o k : Nat) := leNat ((b.drop o).take k)
  let clusters := (bitsOf 16 (n 0 2)).map (fun i => (i / 4, i % 4))
  let regions := (bitsOf 64 (n 8 8)).map (fun i => (i / 16, i % 16))
  let spans := bitsOf 64 (n 16 8)
  let share := 2 ^ n 3 1
  let cls := n 2 1
  if b.length ≠ 48 ∨ clusters.isEmpty ∨ regions.isEmpty ∨ cls = 0 ∨ 3 < cls ∨ 2 < n 3 1 ∨ n 44 4 ≥ 2 ^ 17 then .error 3
  let all := m.vds.map (·.2)
  if clusters.any (fun c => all.any (fun v => v.clusters.contains c)) || regions.any (fun r => all.any (fun v => v.regions.contains r)) ||
      spans.any (fun x => all.any (fun v => v.spans.contains x)) || regions.any (fun (d, r) => m.mgmt.mirror.any (fun x => x.meets d r)) then .error 4
  let loupes ← (bitsOf 64 (n 24 8)).mapM (fun i =>
    match (m.loupe? (i / 16) (i % 16)).bind (fun l => l.room share) with
    | some c => Except.ok (i / 16, i % 16, c)
    | none => Except.error 4)
  let w1 := (all.filter (fun v => v.wake == 1)).flatMap (·.clusters) ++ clusters
  if cls = 1 ∧ m.mgmt.floor.toNat < 4 * w1.length + 300 then .error 4
  if cls = 2 ∧ clusters.any (fun c => !(regions.any (fun r => r.1 == c.1))) then .error 4
  pure { clusters := clusters, regions := regions, spans := spans, loupes := loupes, wake := cls, idleMs := n 4 4
         qbase := n 32 8, qsize := n 40 4, wperm := BitVec.ofNat 17 (n 44 4), args := b, idleSince := m.time
         saveAreas := regions.flatMap (fun (d, r) => saveAreasIn d r), wakeAreas := wakeAreasOf clusters regions }

/-- VD-CREATE: the lowest free number of sixteen (R357, R377, R417). -/
def execVdCreate (q : CmdQueue) (s : State) : Host.Outcome State Fault Refusal :=
  hostCmd 5 q (q == .phys) (fun c m =>
    let b := m.buffer c
    match if m.mgmt.booted then (List.range 16).find? (fun v => (m.vd? v).isNone) else none with
    | none => (m, some (0, 4))
    | some vd =>
      match m.newVd b with
      | .error st => (m, some (0, st))
      | .ok v =>
        let share := 2 ^ leNat ((b.drop 3).take 1)
        let m := v.loupes.foldl (fun m (d, i, k) => m.updLoupe d i (fun l => l.assign share k vd)) m
        let m := v.clusters.foldl (fun m (d, k) => m.updCluster d k (fun x => { x with powered := true })) m
        let m := { m with vds := m.vds ++ [(vd, v)] }
        (m.noteIdle vd, some (BitVec.ofNat 64 vd, 0))) s

/-- LOAD-IMAGE: the buffer into GLB (R388). -/
def execLoadImage (q : CmdQueue) (s : State) : Host.Outcome State Fault Refusal :=
  hostCmd 9 q (queueVd q).isSome (fun c m =>
    match m.mgmtWrite true ((queueVd q).getD 0) (BitVec.ofNat 64 (leNat (c.args.take 8))) (m.buffer c) with
    | .ok m => (m, some (0, 0))
    | .error _ => (m, some (0, 3))) s

/-- LAUNCH: the record ARGS point to; the entry ends when the launch does (R102, R387). -/
def execLaunch (q : CmdQueue) (s : State) : Host.Outcome State Fault Refusal :=
  hostCmd 10 q (queueVd q).isSome (fun c m =>
    (m.capture ((queueVd q).getD 0) (BitVec.ofNat 64 (leNat (c.args.take 8))) false (some c.ref), none)) s

/-! ## Dormancy (R376-R382) -/

/-- Bound jobs are asked to yield, unless they have been (R378). -/
def Mach.askBound (m : Mach) (vd : Nat) : Mach :=
  ((m.jobsOf vd).filter (fun p => p.2.isBound && m.unasked p.2)).foldl (fun m p => m.schedule .mc m.time (.preemptRequest p.1)) m

/-- A virtual device enters COLLAPSING: its bound jobs are pre-empted (R376, R378). -/
def Mach.startCollapse (m : Mach) (vd : Nat) : Mach :=
  ((m.updVd vd (fun v => { v with st := .collapsing, step := 1, wakeAt := none })).askBound vd).scheduleDrawn 51 (.collapse vd)

/-- IDLE_TIMEOUT (R376). -/
def execIdleTimeout (vd : Nat) (s : State) : Host.Outcome State Fault Refusal :=
  let v := s.m.vd vd
  event ((s.m.vd? vd).isSome && v.st == .active && v.closing.isNone && v.idleMs != 0 && s.m.isIdle vd && decide (v.idleSince + v.idleMs * mcPerMs ≤ s.m.time))
    (s.m.startCollapse vd) s

/-- The Loupe contexts of a virtual device changed. -/
def Mach.eachCtx (m : Mach) (vd : Nat) (f : LoupeCtx → LoupeCtx) : Mach :=
  (m.vd vd).loupes.foldl (fun m (d, i, c) => m.updCtx d i c f) m

/-- The group table of a virtual device as its wake image holds it: an entry for each group, gang and mask of ranks, then the
Loupe cores; and its barrier table in the layout of R284. -/
def VDev.tableBytes (v : VDev) : List Byte :=
  (List.range 256).flatMap (fun g =>
    let e := (tget v.groups g).getD {}
    natLE 2 e.loupes.toNat ++ natLE 2 e.cores.length ++ e.cores.flatMap (fun c => natLE 2 c.1 ++ natLE 6 c.2.toNat)) ++
  (List.range 256).flatMap (fun k => let b := (tget v.bars k).getD {}; natLE 32 (b.bits b.decl).toNat)

def rdGroup : Rd Group := do
  let l ← rdBv 2 16
  let cores ← rdCounted (do let g ← rdNat 2; pure (g, ← rdBv 6 48))
  pure { cores := cores, loupes := l }

/-- Both tables of a virtual device, read back: the entries that are not empty. -/
def VDev.readTables (v : VDev) (bs : List Byte) : VDev :=
  let (groups, rest) := rdMany 256 rdGroup bs
  { v with
    groups := (groups.zipIdx.filter (fun p => p.1 != {})).map (fun p => (p.2, p.1))
    bars := ((List.range 256).filterMap (fun k =>
      let n := leNat ((rest.drop (32 * k)).take 32)
      if n = 0 then none else some (k, Barrier.ofBits n))) }

/-- Offsets in the wake image area of a cluster of a core's scratchpad, a quad's operand memory, a core's accumulator memory and rung
store, and the tables (log entry 29). -/
def wakeScr (k : Nat) : Nat := k * 0x200000
def wakeOperand (q : Nat) : Nat := 0x6000000 + q * 0x200000
def wakeTiles (k : Nat) : Nat := 0x7800000 + k * 0x20000
def wakeRung (k : Nat) : Nat := 0x7E00000 + k * 0x30000
def wakeTables : Nat := 0x8700000

/-- The SRAM of a cluster as its wake image holds it (R378). -/
def Cluster.wakeImage (c : Cluster) : Part :=
  c.sram.flatMap (fun (k, s) => partMem (wakeScr k) (2 ^ 21) s.scr ++ partAt (wakeTiles k) (tilesBytes s.tile.toList) ++
    partAt (wakeRung k) (tilesBytes s.rung.toList)) ++
  c.quads.flatMap (fun (q, x) => partAt (wakeOperand q) (x.slot.toList.flatMap (fun s => s.data.toList.flatMap rowBytes)))

/-- The SRAM of a cluster returned from its wake image (R381). -/
def Cluster.wakeFrom (c : Cluster) (p : Part) : Cluster :=
  { c with
    sram := (List.range 48).map (fun k => (k,
      { scr := p.slice (wakeScr k) (2 ^ 21)
        tile := Vector.ofFn (fun i : Fin 8 => p.tile (wakeTiles k + 0x4000 * i.val))
        rung := Vector.ofFn (fun i : Fin 12 => p.tile (wakeRung k + 0x4000 * i.val)) }))
    quads := (List.range 12).map (fun q => (q,
      { slot := Vector.ofFn (fun n : Fin 256 =>
          let d := p.slice (wakeOperand q + 8192 * n.val) 8192
          { data := Vector.ofFn (fun i : Fin 32 => d.row (256 * i.val)) }) })) }

/-- The images of a virtual device's clusters and its tables written to their areas (R377, R378). -/
def Mach.writeWake (m : Mach) (v : VDev) : Mach :=
  (v.clusters.zip v.wakeAreas).foldl (fun m ((d, k), a) => match m.cluster? d k with
    | none => m
    | some c => { m with dev := Memory.blit m.dev a wakeBytes (c.wakeImage ++ partAt wakeTables v.tableBytes) }) m

/-- A virtual device's clusters are gated: under W1 their SRAM is retained, else it is lost, and both tables with it (R377, R378). -/
def Mach.gate (m : Mach) (vd : Nat) (v : VDev) : Mach :=
  let m := v.clusters.foldl (fun m (d, k) => m.updCluster d k (fun c =>
    { c with powered := false, sram := if v.wake = 1 then c.sram else [], quads := if v.wake = 1 then c.quads else [] })) m
  let m := m.eachCtx vd (fun x => if x.run = .free then { x with run := .skipped } else x)
  m.updVd vd (fun v => { v with
    st := .dormant, groups := if v.wake = 1 then v.groups else [], bars := if v.wake = 1 then v.bars else []
    joins := if v.wake = 3 then [] else v.joins })

/-- A step of a collapse is done: a wake accepted meanwhile stops it there (R382). -/
def Mach.nextStep (m : Mach) (vd : Nat) (step : Nat) : Mach :=
  let m := m.updVd vd (fun v => { v with step := step })
  match (m.vd vd).wakeAt with
  | some t => m.startWake vd t
  | none => if (m.vd vd).st == .dormant then m else m.schedule .mc (m.time + m.draw 51) (.collapse vd)

/-- COLLAPSE: the steps of R378 in turn. 1: no job is bound any longer, and under W3 every saved one ends. 2: the ballast has faded, and
under W2 the images are written. 3: the clusters are gated, and the state is DORMANT. A wake accepted meanwhile has the step taken as
ended in time for its bound: jobs not saved yet stay bound (R382; log entry 95). -/
def execCollapse (vd : Nat) (s : State) : Host.Outcome State Fault Refusal :=
  match s.m.vd? vd with
  | none => .fault .notEnabled
  | some v =>
    let m := s.m.fresh
    let again (m : Mach) : Mach := m.schedule .mc (m.time + 1 + m.draw 51) (.collapse vd)
    let m := match v.step with
      | 1 =>
        if (m.jobsOf vd).any (fun p => p.2.isBound) then (if v.wakeAt.isSome then m.nextStep vd 2 else again (m.askBound vd))
        else
          let m := if v.wake = 3 then ((m.jobsOf vd).filter (fun p => p.2.st == .saved)).foldl (fun m p => m.endAsleep p.1 4 0 0) m else m
          m.nextStep vd 2
      | 2 =>
        if v.wakeAt.isNone && v.clusters.any (fun (d, k) => (m.cluster? d k).any (fun c => c.ballast.isSome)) then again m
        else (if v.wake = 2 then m.writeWake v else m).nextStep vd 3
      | _ => (m.gate vd v).nextStep vd 1
    event (v.st == .collapsing && v.closing.isNone) m s

/-- The queue's own virtual device, or the one that ARGS name. -/
def HostCmd.target (c : HostCmd) : Nat := leNat (c.args.take 1)

/-- VD-SLEEP (R376, R378, R382, R417). -/
def execVdSleep (q : CmdQueue) (s : State) : Host.Outcome State Fault Refusal :=
  let t := ((s.m.headCmd q).map HostCmd.target).getD 0
  hostCmd 7 q (q == .phys || q == .vf t) (fun _ m =>
    match m.vd? t with
    | none => (m, some (0, 3))
    | some v =>
      if v.closing.isSome then (m, some (0, 3)) else
      match v.st with
      | .waking => (m, some (0, 5))
      | .active => (m.startCollapse t, some (0, 0))
      | .collapsing | .dormant => (m, some (0, 0))) s

/-- A wake without permission is ignored and logged (R379). -/
def Mach.ignoreWake (m : Mach) (vd : Nat) : Mach := { m with mgmt := { m.mgmt with ignoredWakes := m.mgmt.ignoredWakes ++ [vd] } }

/-- VD-WAKE: from the physical function, or from the queue of a virtual device whose bit of WPERM is set (R379, R417). -/
def execVdWake (q : CmdQueue) (s : State) : Host.Outcome State Fault Refusal :=
  let t := ((s.m.headCmd q).map HostCmd.target).getD 0
  let may := match q with
    | .phys => true
    | .vf u => (s.m.vd t).wperm.getLsbD u && decide (u < 16)
    | .mctp => false
  let s := if may || (queueVd q).isNone then s else { s with m := s.m.ignoreWake t }
  hostCmd 8 q may (fun _ m => if (m.vd? t).any (fun v => v.closing.isNone) then (m.wake t, some (0, 0)) else (m, some (0, 3))) s

/-- WAKE_DOORBELL: by the host, or by a peer with bit 16 of WPERM (R379). -/
def execWakeDoorbell (vd : Nat) (peer : Bool) (s : State) : Host.Outcome State Fault Refusal :=
  match s.m.vd? vd with
  | none => .fault .notEnabled
  | some v => .next { s with m := if peer && !v.wperm.getLsbD 16 then s.m.ignoreWake vd else s.m.wake vd }

/-! ## Accesses from outside (R325, R380) -/

/-- Where register space begins among the addresses of outside accesses, and where a message to the management core is put:
no device address is so high (log entry 27). -/
def regSpace : Nat := 2 ^ 50
def mctpSpace : Nat := 2 ^ 51

/-- A write to a function's registers: QTAIL, the doorbell; virtual device 16 stands for the physical function, whose queue's
base and size stand behind its tail (R387, R379; log entry 27). -/
def Mach.regAccess (m : Mach) (vd off x : Nat) : Mach :=
  if vd = 16 then
    let g := m.mgmt
    match off with
    | 0 => ({ m with mgmt := { g with qtail := if g.qsize = 0 then g.qhead else x % g.qsize } }).poll .phys
    | 8 => { m with mgmt := { g with qbase := x, qhead := 0, qtail := 0 } }
    | 16 => { m with mgmt := { g with qsize := x, qhead := 0, qtail := 0 } }
    | _ => m
  else
    match off with
    | 0 =>
      let m := m.updVd vd (fun v => { v with qtail := if v.qsize = 0 then v.qhead else x % v.qsize })
      if (m.headCmd (.vf vd)).isSome then m.poll (.vf vd) else m
    | 0x1000 => m.wake vd
    | _ => m

/-- A peer window exported to a virtual device or taken back, or a peer ring set up or taken down, by the resident kernel
(R29, R312, R358; log entry 27): a device and a size, an id, a size and a position; a size of 0 takes it back. -/
def Mach.peerAccess (m : Mach) (vd off : Nat) (data : List Byte) : Mach :=
  let n (i : Nat) : Nat := leNat ((data.drop (8 * i)).take 8)
  match off with
  | 0x2000 => m.updVd vd (fun v =>
      let l := v.windows.filter (fun w => w.1 != n 0)
      { v with windows := if n 1 = 0 then l else l ++ [(n 0, n 1)] })
  | 0x2008 => m.updVd vd (fun v =>
      let l := v.rings.filter (fun r => r.1 != n 0)
      { v with rings := if n 1 = 0 then l else l ++ [(n 0, n 1, n 2)] })
  | _ => m

/-- What a read of registers gives the resident kernel: the oldest record of a virtual device's event ring, which leaves it, read with an
acquire; the ring's lost count; or the corrected errors of a core, 16d + 4k + c of cores in clusters of 64 (R398, R404; log entry
27). -/
def Mach.kernelRead (m : Mach) (vd off : Nat) : Mach :=
  let give (m : Mach) (bs : List Byte) : Mach := { m with io := { m.io with answer := bs, answerErr := 0 } }
  if off = 0x2010 then
    let v := m.vd vd
    give (m.updVd vd (fun v => { v with events := v.events.drop 1 })) (v.events.headD (List.replicate 32 0))
  else if off = 0x2018 then give m (natLE 4 (m.vd vd).lost.toNat)
  else if 0x4000 ≤ off then
    let n := (off - 0x4000) / 8
    give m (natLE 8 (((m.cluster? (n / 256 % 4) (n / 64 % 4)).bind (fun c => tget c.ecc (n % 64))).getD 0))
  else m

/-- Lines of device memory that the kernel's cores use are in their shared cache, which holds 2^20 lines (R1). -/
def Mach.cacheLines (m : Mach) (pa n : Nat) : Mach :=
  let l := (parts pa n).map (fun p => p.1 / 64)
  { m with io := { m.io with cache := (l ++ m.io.cache.filter (fun q => !l.contains q)).take (2 ^ 20) } }

/-- The shadow unit of a device address, as the largest page found for it among the translations in force gives it. -/
def Mach.unitOfPa (m : Mach) (vd pa : Nat) : Nat :=
  let tlbs := ((m.gangs.filter (fun p => p.2.vd == vd)).flatMap (fun p => p.2.cores.flatMap (fun c => c.tlbS ++ c.tlbT))) ++
    (m.vd vd).loupes.flatMap (fun (d, i, c) => ((m.ctx? d i c).map (·.tlb)).getD [])
  let u := ((tlbs.find? (fun e => leafTier e.leaf != 2 && decide (e.base ≤ pa) && decide (pa < e.base + e.size))).map (fun e => pageUnit e.leaf)).getD 64
  pa / u * u / 64

/-- An outside access performed: registers, or device memory with its checked units; a read of a codeword that cannot be corrected ends
in error 0x10 (R325, R411). -/
def Mach.outside (m : Mach) (vd : Nat) (acc : OutsideAccess) : Mach :=
  if mctpSpace ≤ acc.pa then
    if acc.write then
      ({ m with mgmt := { m.mgmt with mctpIn := m.mgmt.mctpIn ++ [(acc.data.headD 0, acc.data.drop 1)] } }).poll .mctp
    else m
  else if regSpace ≤ acc.pa then
    if !acc.write then (if acc.who = .kernel then m.kernelRead vd (acc.pa - regSpace) else m)
    else if acc.who = .kernel && regSpace + 0x2000 ≤ acc.pa then m.peerAccess vd (acc.pa - regSpace) acc.data
    else m.regAccess vd (acc.pa - regSpace) (leNat acc.data)
  else
    let n := acc.data.length
    let m := ((parts acc.pa n).map (fun p => m.unitOfPa vd p.1)).eraseDups.foldl (fun m u => m.outsideAccess vd acc.write (.glb vd u) none) m
    let m := if acc.who = .kernel then m.cacheLines acc.pa n else m
    if acc.write then m.devStore acc.pa (offs acc.data)
    else
      let m := m.mend (.dev acc.pa) n
      if m.lineError acc.pa n then
        let m := m.logBad (.dev acc.pa) n
        { m with io := { m.io with answer := [], answerErr := 0x10 } }
      else { m with io := { m.io with answer := Memory.read m.dev acc.pa n, answerErr := 0 } }

/-- An outside access waits for the repair of a line that it reads, or for a channel (R409, R412). -/
def Mach.outsideWaits (m : Mach) (acc : OutsideAccess) : Bool :=
  decide (acc.pa < regSpace) && m.stalled (.dev acc.pa) acc.data.length acc.write

/-- Where an outside access may go: registers; memory that the virtual device owns, all of its bytes; for the kernel any
device memory (R29, R357). -/
def Mach.reaches (m : Mach) (vd : Nat) (acc : OutsideAccess) : Bool :=
  let all (p : Nat → Bool) : Bool := p acc.pa && p (acc.pa + (acc.data.length - 1)) && decide (acc.data.length ≤ 2 ^ 30)
  decide (regSpace ≤ acc.pa) || all (if acc.who = .kernel then devUnit else (m.vd vd).owns)

/-- Whether the accesses of an outsider to a virtual device are held (R380). -/
def Mach.holdsOut (m : Mach) (vd : Nat) (acc : OutsideAccess) : Bool :=
  (m.vd? vd).any (fun v => v.st != .active) && acc.who != .kernel && !(regSpace + 1 ≤ acc.pa)

/-- An access that a teardown drops is reported as an error on the host link (R382). -/
def Mach.hostError (m : Mach) (acc : OutsideAccess) : Mach := { m with mgmt := { m.mgmt with hostErrors := m.mgmt.hostErrors ++ [acc] } }

/-- HELD_ACCESS: held until the state becomes ACTIVE; it counts as a wake (R380). Of a virtual device that is torn down it is dropped
(R382). -/
def execHeldAccess (vd : Nat) (acc : OutsideAccess) (s : State) : Host.Outcome State Fault Refusal :=
  event (s.m.holdsOut vd acc && s.m.reaches vd acc)
    (if (s.m.vd vd).closing.isSome then s.m.hostError acc
     else (s.m.updVd vd (fun v => { v with heldAcc := v.heldAcc ++ [.access acc] })).wake vd) s

/-- OUTSIDE_AGENT_ACCESS: an access of an active virtual device, of registers, or of the kernel (R325, R387). -/
def execOutsideAgentAccess (vd : Nat) (acc : OutsideAccess) (s : State) : Host.Outcome State Fault Refusal :=
  event (((s.m.vd? vd).isSome || vd == 16) && !s.m.holdsOut vd acc && s.m.reaches vd acc)
    (s.m.fresh.outside vd acc) s

/-- A held item completes, now that its virtual device is active (R380). -/
def Mach.completeHeld (m : Mach) (vd : Nat) : Held → Mach
  | .access a => m.outside vd a
  | .launch ptr kernel ref areas => m.captureNow vd ptr kernel ref areas
  | .finish p r w => m.finishNow vd (some p) r w

/-- Codewords of a wake image that cannot be corrected, in a core's scratchpad: its granules there are poisoned (R404, R411; log entry
17). -/
def Cluster.poisoned (c : Cluster) (a : Nat) (bad : List Nat) : Cluster :=
  { c with sram := c.sram.map (fun (k, x) => (k, { x with poison := (bad.filter (fun q =>
      decide (a + wakeScr k ≤ 64 * q) && decide (64 * q < a + wakeScr (k + 1)))).map (fun q => q - (a + wakeScr k) / 64) })) }

/-- The SRAM of a cluster returned from the wake image at an address, the errors that the reads meet logged (R381, R411). -/
def Mach.wakeRead (m : Mach) (d k a : Nat) : Mach :=
  (m.updCluster d k (fun c => (c.wakeFrom (m.imageAt a wakeBytes)).poisoned a (m.badLines a wakeBytes))).logBad (.dev a) wakeBytes

/-- The clusters of a virtual device that a collapse has gated are powered, with their SRAM from the wake image under W2 (R381). -/
def Mach.powerUp (m : Mach) (vd : Nat) (v : VDev) : Mach :=
  let gated (d k : Nat) : Bool := (m.cluster? d k).any (fun c => !c.powered)
  let m' := (v.clusters.zipIdx).foldl (fun (m : Mach) ((d, k), i) =>
    if !gated d k then m
    else
      let m := m.updCluster d k (fun c => { c with powered := true })
      match v.wakeAreas[i]? with
      | some a => if v.wake = 2 then m.wakeRead d k a else m
      | none => m) m
  if v.wake = 2 && v.clusters.any (fun c => gated c.1 c.2)
  then m'.updVd vd (fun w => w.readTables ((m.imageAt (v.wakeAreas.headD 0) wakeBytes).bytes wakeTables 0x100000)) else m'

/-- Steps 1 to 3 of a wake: clusters are powered, their SRAM is there again, and they ramp up; the rest waits for the end of the ramps
(R381). -/
def Mach.startRamps (m : Mach) (vd : Nat) (v : VDev) : Mach :=
  let m := v.clusters.foldl (fun m (d, k) => m.startRamp d k) (m.powerUp vd v)
  (m.updVd vd (fun v => { v with step := 2 })).schedule .mc (m.time + m.rampSpan v) (.wakeComplete vd)

/-- Step 4 of a wake: the state is ACTIVE, what was held completes in arrival order, and launches may bind (R380, R381). -/
def Mach.activate (m : Mach) (vd : Nat) (v : VDev) : Mach :=
  let m := m.eachCtx vd (fun x => if x.run = .skipped then { x with run := .free } else x)
  let m := m.updVd vd (fun v => { v with st := .active, heldAcc := [], step := 1, wakeAt := none })
  let m := v.heldAcc.foldl (fun m a => m.fresh.completeHeld vd a) m
  ((m.poll (.vf vd)).wantBind vd).noteIdle vd

/-- WAKE_COMPLETE: the clusters return and ramp up, and when the ramps have run the state becomes ACTIVE (R381). -/
def execWakeComplete (vd : Nat) (s : State) : Host.Outcome State Fault Refusal :=
  match s.m.vd? vd with
  | none => .fault .notEnabled
  | some v =>
    event (v.st == .waking && v.closing.isNone)
      (if v.step = 2 then s.m.fresh.activate vd v else s.m.fresh.startRamps vd v) s

/-! ## Teardown (R114, R382) -/

/-- The LAUNCH entries not yet read end with CLASS 2. The first argument bounds them. -/
def Mach.closeQueue : Nat → Mach → Nat → Mach
  | 0, m, _ => m
  | n + 1, m, vd =>
    match m.headCmd (.vf vd) with
    | none => m
    | some c =>
      let m := m.popCmd (.vf vd)
      Mach.closeQueue n (if c.opc = 10 then m.closeLaunch vd (BitVec.ofNat 64 (leNat (c.args.take 8))) (some c.ref) else m) vd

/-- Teardown begins: what is queued, saved or held ends with CLASS 2, or as an error on the host link; a bound job, whatever it was about
to end with, once its gangs have stopped, its commands cancelled at once (R114, R321, R382, R419). -/
def Mach.beginTeardown (m : Mach) (vd : Nat) (ref : CmdRef) : Mach :=
  let v := m.vd vd
  let m := m.updVd vd (fun v => { v with closing := some ref, heldAcc := [] })
  let m := v.heldAcc.foldl (fun m h => match h with
    | .access a => m.hostError a
    | .launch p _ r _ => m.closeLaunch vd p r
    | .finish _ r w => m.finishNow vd none r w) m
  let m := (m.jobsOf vd).foldl (fun m p =>
    if p.2.isBound then ((m.cancelCmds p.1).endStopped p.1 2 0 0).updJob p.1 (fun j => { j with ending := j.ending.map (fun _ => (2, 0, 0)) })
    else m.endJob p.1 2 0 0) m
  Mach.closeQueue 65536 m vd

/-- The launches that have reached a virtual device since its teardown began and are not captured yet: those that its jobs notified
and those of its queue end with CLASS 2 (R114). -/
def Mach.closeLate (m : Mach) (vd : Nat) : Mach :=
  let l := m.agenda.filterMap (fun d => match d.ev with | .lnotify v p => if v = vd then some p else none | _ => none)
  Mach.closeQueue 65536 (l.foldl (fun m p => m.closeLaunch vd p none) m) vd

/-- A virtual device torn down, of which no job is left: its memory is cleared, in its clusters too, and the kernel's table of its
counters; its resources are free, and its command ends (R114, R358, R373, R382). -/
def Mach.destroyVd (m : Mach) (vd : Nat) (v : VDev) (ref : CmdRef) : Mach :=
  let m := v.regionCtr.foldl (fun m p => m.setRegion vd p.1 {}) m
  let m := v.loupes.foldl (fun m (d, i, c) => m.updLoupe d i (fun l =>
    let l := { l with ctxs := l.ctxs.set c { vd := 16 } }
    if l.ctxs.all (fun x => x.vd == 16) then {} else l)) m
  let m := v.clusters.foldl (fun m (d, k) => m.updCluster d k (fun x => { x with powered := true, sram := [], quads := [] })) m
  let mine (e : Instr) : Bool := match e with
    | .bind x | .wakeComplete x | .idleTimeout x | .collapse x | .lnotify x _ => x == vd
    | _ => false
  { m with
    dev := m.dev.filter (fun c => !v.owns c.1), vds := tdel m.vds vd
    agenda := m.agenda.filter (fun d => !mine d.ev), polls := m.polls.filter (fun p => p.2 != CmdQueue.vf vd) : Mach }.finishEntry ref 0 0

/-- The teardowns whose jobs have all ended are complete. -/
def Mach.finishTeardowns (m : Mach) : Mach :=
  m.vds.foldl (fun m p => match p.2.closing with
    | some ref =>
      if (m.jobsOf p.1).isEmpty then
        let m := m.closeLate p.1
        m.destroyVd p.1 ((m.vd? p.1).getD p.2) ref
      else m
    | none => m) m

/-- VD-DESTROY: teardown begins; the command ends with it (R114, R382, R417; log entry 89). -/
def execVdDestroy (q : CmdQueue) (s : State) : Host.Outcome State Fault Refusal :=
  hostCmd 6 q (q == .phys) (fun c m =>
    match m.vd? c.target with
    | none => (m, some (0, 3))
    | some v => if v.closing.isSome then (m, some (0, 5)) else (m.beginTeardown c.target c.ref, none)) s

/-! ## Firmware and boot (R383-R386, R416-R418) -/

/-- A bank of a kind. -/
def Mgmt.bank (g : Mgmt) (k : Nat) (second : Bool) : List Byte := let p := vget g.flash k ([], []); if second then p.2 else p.1

/-- The flash of the module: 8 GiB for every bank of every kind (R2). -/
def flashBytes : Nat := 8 * 2 ^ 30

/-- Bytes that the banks of the flash hold. -/
def Mgmt.flashUsed (g : Mgmt) : Nat := (g.flash.toList.map (fun p => p.1.length + p.2.length)).foldl (· + ·) 0

/-- FW-UPDATE: the image is verified before any byte is written into the inactive bank (R386); one that the flash has no
room for is refused (R2; log entry 14). -/
def execFwUpdate (q : CmdQueue) (s : State) : Host.Outcome State Fault Refusal :=
  hostCmd 13 q (q == .phys) (fun c m =>
    let b := m.buffer c
    let kind := leNat ((b.drop 4).take 4)
    if kind = 0 ∨ 3 < kind ∨ !imageOk kind (vget m.mgmt.fuses (kind - 1) 0) b then (m, some (0, 6))
    else
      let second := !(vget m.mgmt.active (kind - 1) false)
      let g := m.mgmt
      let g := { g with flash := vupd g.flash (kind - 1) (fun p => if second then (p.1, b) else (b, p.2)) }
      if flashBytes < g.flashUsed then (m, some (0, 4))
      else ({ m with mgmt := { g with nextBank := vset g.nextBank (kind - 1) second } }, some (0, 0))) s

/-- The routine that a boot loads into every walker engine, 16 KiB of the walk-routine image (R367, R383). -/
def Mgmt.routine (g : Mgmt) : Option (List Byte) :=
  if g.booted then (vget g.images 1 none).map (fun b => (imageBody b).take 16384) else none

/-- The mirror region that a configuration places: within the stacked DRAM of its die (R408). The configuration in ROM
stands as an empty body. -/
def mirrorOf (body : List Byte) : Option Mirror :=
  (Config.configMirror body).bind (fun (d, b, n) => if d < 4 ∧ b + n ≤ 96 * 2 ^ 30 then some { die := d, base := b, size := n } else none)

/-- The management core after a boot: self-test, images read and judged, fuse counters advanced, the configuration in force
(R383, R386, R405, R416-R418). A cap message recorded in the safe talkative state is kept (R417). -/
def Mgmt.boot (old : Mgmt) : Mgmt :=
  let img (k : Nat) : List Byte := old.bank k (vget old.nextBank k false)
  let ok (k : Nat) : Bool := imageOk (k + 1) (vget old.fuses k 0) (img k)
  let g : Mgmt := { Mgmt.reset with
    flash := old.flash, active := old.nextBank, nextBank := old.nextBank, swaps := old.swaps, selfTests := old.selfTests
    capSeq := if old.capHeld.isSome then old.capSeq else none, capHeld := old.capHeld
    images := Vector.ofFn (fun k : Fin 3 => some (img k.val))
    fuses := Vector.ofFn (fun k : Fin 3 =>
      if ok k.val then max (vget old.fuses k.val 0) (leNat ((img k.val).drop 8 |>.take 4)) else vget old.fuses k.val 0) }
  let g := g.tested
  let self := g.self ||| (if ok 0 then 0#64 else 1#64 <<< 52) ||| (if ok 1 then 0#64 else 1#64 <<< 51) |||
    (if ok 2 then 0#64 else 1#64 <<< 50)
  let ms := if ok 2 then (Config.configKhbt (imageBody (img 2))).getD 50 else 50
  { g with self := self, booted := (self &&& selfCauses) == 0, mirror := mirrorOf (if ok 2 then imageBody (img 2) else []), khbt := if 10 ≤ ms ∧ ms ≤ 1000 then ms else 50 }

/-- The cap message recorded in the safe talkative state takes effect as the state is left (R120, R417). -/
def Mach.applyHeldCap (m : Mach) : Mach :=
  match m.mgmt.capHeld with
  | none => m
  | some (_, watts, end_) =>
    (Mach.setBudget { m with mgmt := { m.mgmt with capHeld := none, leaseEnd := some end_ } } watts).schedule .mc (max m.time end_) .capLeaseExpiry

/-- RESET: everything but flash, fuses, swap map, TIME and the host's memory starts anew; then the boot ROM runs (R79, R383,
R412, R416). In the safe talkative state the compute dies stay gated (R417). -/
def execReset (s : State) : Host.Outcome State Fault Refusal :=
  let g := s.m.mgmt.boot
  let m : Mach := { Mach.reset with
    dies := Mach.reset.dies.map (fun d => { d with walkers := Vector.replicate 8 g.routine })
    time := s.m.time, host := s.m.host, agenda := [], inputs := s.m.inputs, strikes := s.m.strikes, freeCtr := s.m.freeCtr + 1, nextId := s.m.nextId
    mgmt := g }
  .next { m :=
    if m.mgmt.booted then Mach.applyHeldCap { m.watchHeart with io := { m.io with cores := Vector.replicate 16 true } }
    else m.powerAll false }

end Sys2Proof.Machine
end

