-- ==== Sys2Proof/Machine/Run.lean ====
section
/-! DEFINITION. What the machine does next (log entry 6): the word, event or command that a step runs, and what happens
around it. A master cycle goes through its early events, the turn of each gang, the Loupe cores, the events that are due,
the command queues and the inputs, and then its end, in which commands move data. -/
namespace Sys2Proof.Machine

/-! ## Commands move (R305, R338) -/

/-- A T command moves at most `lim` bytes, as far as it can. The first argument bounds the steps. -/
def Mach.moveCmd : Nat → Mach → Nat → Nat → Mach
  | 0, m, _, _ => m
  | n + 1, m, id, lim =>
    match tget m.cmds id with
    | none => m
    | some c =>
      if c.finished || c.halted.isSome || c.err.isSome then m
      else
        match m.stepTransfer id c lim with
        | .ok (c, m, used) =>
          let m := (m.updCmd id (fun _ => c)).walkAhead c
          if lim ≤ used then m else Mach.moveCmd n m id (lim - used)
        | .error .full => m.updCmd id (fun c => { c with carry := lim })
        | .error (.fault e a r k) => (m.cmdStopped id (.fault e a r k)).colCancel id c e
        | .error e => m.cmdStopped id e

/-- Whether a command writes to the scratchpad of its own core. -/
def Cmd.ownDst (c : Cmd) : Bool :=
  match c.owner, c.op with
  | .l _ _ _, _ | _, .tops _ | _, .tdrp _ _ _ => false
  | .t _ r, _ => ptrSpace c.set.dst == 1 && ptrRank c.set.dst == r

/-- Bytes a command may move in a pulse: into its own scratchpad 256, all of them when it is alone and exact, and from its
bound on; otherwise a drawn number of granules. Those that a piece too long for a pulse could have used count for the next of an
exact command that is alone. To other places the spec sets no limit (R305; log entry 73). -/
def Mach.quota (m : Mach) (c : Cmd) (p : Nat) : Nat :=
  let most := if c.ownDst then 256 else 4096
  if c.exact && (m.cmdsOf c.owner).length == 1 then most + c.carry
  else if c.bound ≤ p then most else m.draw 53 % (most / 64 + 1) * 64

/-- A command whose source had no mapping takes its L when the page has one: it completes no earlier than that, reckoned from
its start (R305). -/
def Mach.settleLat (m : Mach) (id : Nat) (c : Cmd) : Mach :=
  match c.owner, c.op.lead c.set c.desc with
  | .t g r, some p =>
    if !c.late || !c.started || c.halted.isSome then m
    else
      match m.latOf g r p with
      | none => m
      | some l => m.updCmd id (fun c => { c with late := false, moves := c.moves + l, bound := c.bound + l })
  | _, _ => m

/-- A command that has finished and is the oldest of its stream completes at its bound (R305). -/
def Mach.askComplete (m : Mach) (d k id : Nat) (p : Nat) : Mach :=
  match tget m.cmds id with
  | none => m
  | some c =>
    if c.finished && m.oldest id c && !(m.agenda.any (fun e => e.ev == .transferComplete id))
    then m.schedule (.pulse d k) (max c.bound (p + 1)) (.transferComplete id) else m

/-- A pulse of a cluster: the T commands of its gangs move. -/
def Mach.pulse (m : Mach) (d k : Nat) : Mach :=
  let p := m.pulses d k
  let ids := (m.cmds.filter (fun c => match c.2.owner with | .t g _ => m.clusterOf g == (d, k) && (m.gang? g).isSome | .l _ _ _ => false)).map (·.1)
  let m := ids.foldl (fun m id =>
    match (tget m.cmds id).map (m.settleLat id) with
    | none => m
    | some m =>
      let m := match tget m.cmds id with
        | some c => if c.started && decide (c.moves ≤ p)
          then (match m.fresh.beforeMove c with
            | some m => Mach.moveCmd 700 (m.updCmd id (fun c => { c with carry := 0 })) id (m.quota c p)
            | none => m)
          else m
        | none => m
      m.askComplete d k id p) m
  m.updCluster d k (fun c => { c with pulses := c.pulses + 1 })

/-- A master cycle of a LOUPE command: one of its accesses (R338). -/
def Mach.stepLoupeCmd (m : Mach) (id : Nat) : Mach :=
  match tget m.cmds id with
  | none => m
  | some c =>
    let done : Instr := match c.op with | .lhand _ _ _ => .lhandComplete id | _ => .loupeCommandComplete id
    if c.finished then (if m.agenda.any (fun e => e.ev == done) then m else m.fresh.scheduleDrawn 54 done)
    else if !c.started || decide (m.time < c.moves) || c.halted.isSome || c.err.isSome then m
    else
      match m.stepLoupe c with
      | .ok (c, m) => m.updCmd id (fun _ => c)
      | .error e => m.cmdStopped id e

/-! ## The end of a master cycle -/

/-- Every cluster. -/
def allClusters : List (Nat × Nat) := (List.range 16).map (fun i => (i / 4, i % 4))

/-- The Loupe cores that serve somebody. -/
def Mach.busyLoupes (m : Mach) : List (Nat × Nat) :=
  ((List.range 64).map (fun i => (i / 16, i % 16))).filter (fun p => (m.loupe? p.1 p.2).any (fun l => !l.ctxs.isEmpty))

/-- The end of a master cycle: pulses pass, commands go on, barriers are tested, jobs and teardowns that are over end (R53, R294, R58,
R114), the monitor pair and the registry go on (R407, R409), and the next cycle begins. A Loupe core issues every second master cycle
of its die (R334). -/
def Mach.tick (m : Mach) : Mach :=
  let m := m.fresh
  let m := (allClusters.filter (fun c => m.pulseNow c.1 c.2)).foldl (fun m c => m.pulse c.1 c.2) m
  let m := ((m.cmds.filter (fun c => match c.2.owner with | .l _ _ _ => true | .t _ _ => false)).map (·.1)).foldl Mach.stepLoupeCmd m
  let m := m.testBars.jobEnds.finishTeardowns.serveMonitor.syncRegistry
  let t := m.time + 1
  let m' : Mach := { m with time := t, todo := m.gangs.map (·.1), links := m.links.filter (fun p => decide (t < p.2)) }
  let turn (d : Nat) : Bool := m'.dieCycles d / 2 != m.dieCycles d / 2
  { m' with ltodo := m.busyLoupes.filter (fun (p : Nat × Nat) => turn p.1) }

/-! ## Loupe cores (R333-R337) -/

/-- A reply that has come to a Loupe context lands, or stops its program (R46, R345). -/
def Mach.deliverLoupe (m : Mach) (d i c : Nat) (p : Pend) : Mach :=
  match p.reply.bind (fun id => (tget m.replies id).map (fun r => (id, r))) with
  | none => m
  | some (id, r) =>
    if !r.arrived then m
    else
      let q := m.complete p
      let m := { m with replies := tdel m.replies id }.updCtx d i c (fun x => { x with seq := { x.seq with pend := x.seq.pend.filter (fun y => y != p) } })
      match r.fault with
      | some (k, a, race) => m.stopLoupe d i c { cause := k, addr := a, race := race } p.pc 0
      | none => m.updCtx d i c (fun x => { x with seq := x.seq.land q })

/-- What reaches a context before its core issues: replies, and the end of a barrier wait (R290). -/
def Mach.reachCtx (m : Mach) (d i c : Nat) : Mach :=
  match m.ctx? d i c with
  | none => m
  | some x =>
    let m := x.seq.pend.foldl (fun m p => m.deliverLoupe d i c p) m
    match ((m.ctx? d i c).getD x).run with
    | .waiting k gen sco =>
      let b := m.bar x.vd k
      let pc := (x.seq.regs .s).pc - 1
      if b.passed gen then (m.barAcquire (.loupe d i c) x.vd k gen sco).updCtx d i c (fun y => { y with run := .running })
      else if b.orph then m.stopLoupe d i c { cause := 0x0B } pc 0
      else if b.brk then m.stopLoupe d i c { cause := 0x0C } pc 0
      else m
    | _ => m

/-- The context a Loupe core issues from: the one it serves, or while that waits another, when the core takes the chance
(R334). -/
def Mach.serves (m : Mach) (d i : Nat) : Option Nat :=
  match m.loupe? d i with
  | none => none
  | some l => if m.ctxReady d i l.cur then some l.cur else if m.flip 52 then m.nextCtx d i l l.cur else none

/-! ## What a step does -/

/-- A step runs a word, an event (or, where it does not happen, comes to `els`), a command of a queue, or only moves on. -/
inductive Plan where
  | word (i : Instr) (s : State)
  | event (i : Instr) (s els : State)
  | command (q : CmdQueue) (s els : State)
  | quiet (s : State)
  deriving DecidableEq, Repr

/-- The word the current agent stands at: an uncorrectable error in what it reads or an in-flight record
stops it, an illegal word faults (R31, R320, R404). -/
def State.wordPlan (s : State) : Plan :=
  if (s.m.inFlight s.cur).isSome then .quiet (s.raise { cause := 0x10 })
  else
    match s.seq.decodeAt s.cur.strm with
    | none => .quiet (s.raise { cause := 0x01 })
    | some i => .word i s

/-- A state with an event off its agenda. -/
def State.without (s : State) (d : Due) : State := { s with m := { s.m with agenda := s.m.agenda.erase d } }

/-- A gang's turn. -/
def State.gangPlan (s : State) (g : Nat) (rest : List Nat) : Plan :=
  let skip := { s with m := { s.m with todo := rest } }
  match s.m.fresh.turn g with
  | .run i => .event i { s with m := s.m.fresh } skip
  | .due d => let t := { s with m := s.m.fresh }.without d; .event d.ev t t
  | .again m => .quiet { s with m := m }
  | .over t => .quiet { t with m := { t.m with todo := rest } }

/-- A Loupe core's turn. -/
def State.loupePlan (s : State) (d i : Nat) (rest : List (Nat × Nat)) : Plan :=
  let n := ((s.m.loupe? d i).map (fun l => l.ctxs.length)).getD 0
  let m := (List.range n).foldl (fun m c => m.reachCtx d i c) { s.m.fresh with ltodo := rest }
  match m.serves d i with
  | none => .quiet { s with m := m }
  | some c =>
    let t := { s with m := m, cur := .loupe d i c }
    if m.idleEc (.loupe d i c) then .quiet { s with m := m.passIdle (.loupe d i c) } else t.wordPlan

/-- Events that come before the turns of the gangs in a master cycle. -/
def early : Instr → Bool
  | .startCycle _ | .patternFrame _ _ | .joinRelease _ _ => true
  | _ => false

/-- An event is due. -/
def Mach.isDue (m : Mach) (d : Due) : Bool :=
  match d.clk with
  | .mc => decide (d.at_ ≤ m.time)
  | .pulse x k => decide (d.at_ < m.pulses x k) || (m.pulses x k == d.at_ && m.pulseNow x k)
  | .ec _ => false

/-- Events that come from outside the machine, or that it may do at any time (log entry 6): of a channel the first failure alone. -/
def outer : Instr → Bool
  | .kernelEndJob _ | .kernelResumeInPlace _ _ | .kernelSave _ | .pageFaultService _ _ | .kernelLaunch _ _ | .graphEdit _ _ _
  | .khbWrite | .kpanicWrite | .kreadyWrite | .wdogWrite _ _ | .patWrite _ _ _ _ | .nqheadWrite _ _ | .nackWrite _ _ | .registerWrite _ _ _
  | .heldAccess _ _ | .outsideAgentAccess _ _ | .wakeDoorbell _ _ | .setCap _ | .masterClockChange _ _ _
  | .viewBufferDrop _ _ | .reset => true
  | .linkRetry f => f.retry == 0
  | _ => false

/-- A command of a queue runs as its opcode says (R388). -/
def runCommand (q : CmdQueue) (s : State) : Host.Outcome State Fault Refusal :=
  match (s.m.headCmd q).map (·.opc) with
  | some 1 => execIdentify q s
  | some 2 => execStatus q s
  | some 3 => execLog q s
  | some 4 => execSelftest q s
  | some 5 => execVdCreate q s
  | some 6 => execVdDestroy q s
  | some 7 => execVdSleep q s
  | some 8 => execVdWake q s
  | some 9 => execLoadImage q s
  | some 10 => execLaunch q s
  | some 11 => execAttest q s
  | some 12 => execSetCap (.queue q) s
  | some 13 => execFwUpdate q s
  | _ => .fault .notEnabled

/-- A command whose turn has come, unless the kernel is dead and its queue is not the physical function's (R407): one that reaches the memory of a virtual device that is not active is held in its queue, and wakes the
virtual device (R380). -/
def State.pollPlan (s : State) (p : Nat × CmdQueue) : Plan :=
  let t := { s with m := { s.m with polls := s.m.polls.erase p } }
  match p.2 with
  | .vf v =>
    if s.m.mgmt.dead then .quiet t
    else if (s.m.vd? v).any (fun d => d.st != .active) && (s.m.headCmd p.2).any (fun c => c.opc == 9 || c.opc == 10)
    then .quiet { t with m := t.m.wake v } else .command p.2 t t
  | .mctp => if s.m.mgmt.dead then .quiet t else .command p.2 t t
  | .phys => .command p.2 t t

/-- An input whose turn has come; one that must wait for a repair or a channel comes again in the next master cycle (R409, R412). -/
def State.inputPlan (s : State) (p : Nat × Instr) : Plan :=
  let t := { s with m := { s.m with inputs := s.m.inputs.erase p } }
  match p.2 with
  | .outsideAgentAccess _ acc =>
    if s.m.outsideWaits acc
    then .quiet { t with m := { t.m.trapFor (.dev acc.pa) acc.data.length with inputs := t.m.inputs ++ [(s.m.time + 1, p.2)] } }
    else .event p.2 t t
  | i => if outer i then .event p.2 t t else .quiet t

/-- What happens between ec: commands of the physical function, which come first so that a teardown wins over a launch of its master
cycle (R114); events, turns, other commands, errors of the silicon, inputs, and the end of the master cycle. -/
def State.idlePlan (s : State) : Plan :=
  let at_ (d : Due) : Plan := let t := s.without d; .event d.ev t t
  match s.m.polls.find? (fun p => decide (p.1 ≤ s.m.time) && p.2 == .phys), s.m.agenda.find? (fun d => early d.ev && s.m.isDue d) with
  | some p, _ => s.pollPlan p
  | none, some d => at_ d
  | none, none =>
    match s.m.todo, s.m.ltodo with
    | g :: rest, _ => s.gangPlan g rest
    | [], (d, i) :: rest => s.loupePlan d i rest
    | [], [] =>
      match s.m.agenda.find? s.m.isDue with
      | some d => at_ d
      | none =>
        match s.m.polls.find? (fun p => decide (p.1 ≤ s.m.time)) with
        | some p => s.pollPlan p
        | none =>
          match s.m.strikes.find? (fun p => decide (p.1 ≤ s.m.time)), s.m.inputs.find? (fun p => decide (p.1 ≤ s.m.time)) with
          | some p, _ => .quiet { s with m := { s.m with strikes := s.m.strikes.erase p }.strike p.2 }
          | none, some p => s.inputPlan p
          | none, none => .quiet { s with m := s.m.tick }

/-- What the machine does next. -/
def State.plan (s : State) : Plan :=
  match s.iss with
  | none => s.idlePlan
  | some i =>
    match i.slots with
    | a :: rest => { s with cur := a, iss := some { i with slots := rest } }.wordPlan
    | [] => .quiet (s.closeEc i)

/-! ## A word placed (log entries 3 and 4) -/

/-- A job that declares all it may, privileged. -/
def openHeader : Header :=
  { csz := Vector.replicate 4 2, ngrp := 256, nbar := 256, nosl := 256, ldep := 20, nvrg := 64, nsrg := 56, priv := true }

/-- A scalar side whose stream stands at a word, a word of zeros after it. -/
def seqAt (st : Stream) (w : Code) : Seq :=
  { code := vset (Vector.replicate 4 []) st.idx [w, 0]
    strm := vset (Vector.replicate 4 {}) st.idx { st := .live } }

/-- The package with a job of one gang of one rank whose stream stands at a word; or of a Loupe member too, when the word
is of its program. -/
def Mach.placeWord (m : Mach) (st : Stream) (w : Code) : Mach :=
  let g := m.nextId
  let l : Bool := st == .l
  let v := (m.vd? 0).getD { clusters := [(0, 0)], loupes := if l then [(0, 0, 0)] else [] }
  let q := seqAt st w
  let m := { m with
    nextId := g + 2
    vds := tset m.vds 0 v
    jobs := m.jobs ++ [(g + 1, { vd := 0, num := 0, hdr := openHeader, st := .running, gangs := [g], loupes := if l then [(0, 0)] else [] })]
    gangs := m.gangs ++ [(g, { job := g + 1, idx := 0, vd := 0, die := 0, cluster := 0, quadMask := 1, save := 0, run := .running
                               quads := [{}], cores := [{ seq := if l then {} else q }] })] }
  if l then m.updLoupe 0 0 (fun x => { x with ctxs := [{ vd := 0, job := some (g + 1), seq := q, run := .running }] }) else m

/-- The state whose next step runs a word of a stream. -/
def State.atWord (s : State) (st : Stream) (w : Code) : State :=
  let m := s.m.placeWord st w
  let g := s.m.nextId
  { m := m, iss := some { gang := g, before := m, slots := [if st == .l then .loupe 0 0 0 else .core g 0 st] }, cur := .core g 0 .s }

end Sys2Proof.Machine
end

