-- ==== Sys2Proof/Machine/Dispatch.lean ====
section
/-! DEFINITION. The one dispatch: an arm per constructor of `Instr`, one call of its meaning. -/
namespace Sys2Proof.Machine

def exec (i : Instr) (s : State) : Host.Outcome State Fault Refusal :=
  match i with
  | .add d a b w g => Sys2Proof.Machine.execAdd d a b w g s
  | .sub d a b w g => Sys2Proof.Machine.execSub d a b w g s
  | .and d a b w g => Sys2Proof.Machine.execAnd d a b w g s
  | .or d a b w g => Sys2Proof.Machine.execOr d a b w g s
  | .xor d a b w g => Sys2Proof.Machine.execXor d a b w g s
  | .andn d a b w g => Sys2Proof.Machine.execAndn d a b w g s
  | .min d a b w g => Sys2Proof.Machine.execMin d a b w g s
  | .max d a b w g => Sys2Proof.Machine.execMax d a b w g s
  | .minn d a b w g => Sys2Proof.Machine.execMinn d a b w g s
  | .maxn d a b w g => Sys2Proof.Machine.execMaxn d a b w g s
  | .shl d a b w g => Sys2Proof.Machine.execShl d a b w g s
  | .shr d a b w g => Sys2Proof.Machine.execShr d a b w g s
  | .sar d a b w g => Sys2Proof.Machine.execSar d a b w g s
  | .rotr d a b w g => Sys2Proof.Machine.execRotr d a b w g s
  | .clz d a w g => Sys2Proof.Machine.execClz d a w g s
  | .popc d a w g => Sys2Proof.Machine.execPopc d a w g s
  | .mul d a b w g => Sys2Proof.Machine.execMul d a b w g s
  | .mulh d a b w g => Sys2Proof.Machine.execMulh d a b w g s
  | .mulhn d a b w g => Sys2Proof.Machine.execMulhn d a b w g s
  | .div d a b w g => Sys2Proof.Machine.execDiv d a b w g s
  | .divn d a b w g => Sys2Proof.Machine.execDivn d a b w g s
  | .rem d a b w g => Sys2Proof.Machine.execRem d a b w g s
  | .remn d a b w g => Sys2Proof.Machine.execRemn d a b w g s
  | .cmp d a b cc g => Sys2Proof.Machine.execCmp d a b cc g s
  | .pand d a b g => Sys2Proof.Machine.execPand d a b g s
  | .por d a b g => Sys2Proof.Machine.execPor d a b g s
  | .pxor d a b g => Sys2Proof.Machine.execPxor d a b g s
  | .pnot d a g => Sys2Proof.Machine.execPnot d a g s
  | .ptos d w g => Sys2Proof.Machine.execPtos d w g s
  | .stop a g => Sys2Proof.Machine.execStop a g s
  | .ptrmk d a b w g => Sys2Proof.Machine.execPtrmk d a b w g s
  | .ptrsp d a w g => Sys2Proof.Machine.execPtrsp d a w g s
  | .ptrrk d a w g => Sys2Proof.Machine.execPtrrk d a w g s
  | .ptrof d a w g => Sys2Proof.Machine.execPtrof d a w g s
  | .ptradd d a b w g => Sys2Proof.Machine.execPtradd d a b w g s
  | .fadd d a b w g => Sys2Proof.Machine.execFadd d a b w g s
  | .fsub d a b w g => Sys2Proof.Machine.execFsub d a b w g s
  | .fmul d a b w g => Sys2Proof.Machine.execFmul d a b w g s
  | .ffma d a b w g => Sys2Proof.Machine.execFfma d a b w g s
  | .fmin d a b w g => Sys2Proof.Machine.execFmin d a b w g s
  | .fmax d a b w g => Sys2Proof.Machine.execFmax d a b w g s
  | .fdiv d a b w g => Sys2Proof.Machine.execFdiv d a b w g s
  | .fsqrt d a w g => Sys2Proof.Machine.execFsqrt d a w g s
  | .cvtif d a w g => Sys2Proof.Machine.execCvtif d a w g s
  | .cvtnf d a w g => Sys2Proof.Machine.execCvtnf d a w g s
  | .cvtfi d a w g => Sys2Proof.Machine.execCvtfi d a w g s
  | .cvtfiz d a w g => Sys2Proof.Machine.execCvtfiz d a w g s
  | .fcmpLt d a b g => Sys2Proof.Machine.execFcmpLt d a b g s
  | .fcmpLe d a b g => Sys2Proof.Machine.execFcmpLe d a b g s
  | .fcmpEq d a b g => Sys2Proof.Machine.execFcmpEq d a b g s
  | .addi d a imm g => Sys2Proof.Machine.execAddi d a imm g s
  | .andi d a imm g => Sys2Proof.Machine.execAndi d a imm g s
  | .ori d a imm g => Sys2Proof.Machine.execOri d a imm g s
  | .xori d a imm g => Sys2Proof.Machine.execXori d a imm g s
  | .shli d a imm g => Sys2Proof.Machine.execShli d a imm g s
  | .shri d a imm g => Sys2Proof.Machine.execShri d a imm g s
  | .sari d a imm g => Sys2Proof.Machine.execSari d a imm g s
  | .cmpi d a cc imm g => Sys2Proof.Machine.execCmpi d a cc imm g s
  | .lim d imm g => Sys2Proof.Machine.execLim d imm g s
  | .lih d imm g => Sys2Proof.Machine.execLih d imm g s
  | .ptri d a imm g => Sys2Proof.Machine.execPtri d a imm g s
  | .lscr d imm g => Sys2Proof.Machine.execLscr d imm g s
  | .ldb d a cls sem sco off g => Sys2Proof.Machine.execLdb d a cls sem sco off g s
  | .ldbn d a cls sem sco off g => Sys2Proof.Machine.execLdbn d a cls sem sco off g s
  | .ldh d a cls sem sco off g => Sys2Proof.Machine.execLdh d a cls sem sco off g s
  | .ldhn d a cls sem sco off g => Sys2Proof.Machine.execLdhn d a cls sem sco off g s
  | .ldw d a cls sem sco off g => Sys2Proof.Machine.execLdw d a cls sem sco off g s
  | .ldwn d a cls sem sco off g => Sys2Proof.Machine.execLdwn d a cls sem sco off g s
  | .ldd d a cls sem sco off g => Sys2Proof.Machine.execLdd d a cls sem sco off g s
  | .stb d a cls sem sco off g => Sys2Proof.Machine.execStb d a cls sem sco off g s
  | .sth d a cls sem sco off g => Sys2Proof.Machine.execSth d a cls sem sco off g s
  | .stw d a cls sem sco off g => Sys2Proof.Machine.execStw d a cls sem sco off g s
  | .std d a cls sem sco off g => Sys2Proof.Machine.execStd d a cls sem sco off g s
  | .ldl d a cls sem sco j g => Sys2Proof.Machine.execLdl d a cls sem sco j g s
  | .aadd d a b sem sco g => Sys2Proof.Machine.execAadd d a b sem sco g s
  | .amin d a b sem sco g => Sys2Proof.Machine.execAmin d a b sem sco g s
  | .amax d a b sem sco g => Sys2Proof.Machine.execAmax d a b sem sco g s
  | .aminn d a b sem sco g => Sys2Proof.Machine.execAminn d a b sem sco g s
  | .amaxn d a b sem sco g => Sys2Proof.Machine.execAmaxn d a b sem sco g s
  | .aand d a b sem sco g => Sys2Proof.Machine.execAand d a b sem sco g s
  | .aor d a b sem sco g => Sys2Proof.Machine.execAor d a b sem sco g s
  | .aswap d a b sem sco g => Sys2Proof.Machine.execAswap d a b sem sco g s
  | .casW d a b sem sco g => Sys2Proof.Machine.execCasW d a b sem sco g s
  | .casD d a b sem sco g => Sys2Proof.Machine.execCasD d a b sem sco g s
  | .fence cls sem sco g => Sys2Proof.Machine.execFence cls sem sco g s
  | .br g n off => Sys2Proof.Machine.execBr g n off s
  | .call g n off => Sys2Proof.Machine.execCall g n off s
  | .jmpr g n t l => Sys2Proof.Machine.execJmpr g n t l s
  | .loop g n off => Sys2Proof.Machine.execLoop g n off s
  | .lset g n c stages imm => Sys2Proof.Machine.execLset g n c stages imm s
  | .rdvFin grp => Sys2Proof.Machine.execRdvFin grp s
  | .rdvMid grp => Sys2Proof.Machine.execRdvMid grp s
  | .exit g n code => Sys2Proof.Machine.execExit g n code s
  | .waitc g n cnt => Sys2Proof.Machine.execWaitc g n cnt s
  | .yield => Sys2Proof.Machine.execYield s
  | .phase g n k => Sys2Proof.Machine.execPhase g n k s
  | .lease g n cnt => Sys2Proof.Machine.execLease g n cnt s
  | .barInit g n bid sc => Sys2Proof.Machine.execBarInit g n bid sc s
  | .barExpb g n bid sc => Sys2Proof.Machine.execBarExpb g n bid sc s
  | .barArv g n bid sco => Sys2Proof.Machine.execBarArv g n bid sco s
  | .barWait g n bid sco => Sys2Proof.Machine.execBarWait g n bid sco s
  | .barAw g n bid sco => Sys2Proof.Machine.execBarAw g n bid sco s
  | .mfsr g n d reg => Sys2Proof.Machine.execMfsr g n d reg s
  | .mtsr g n a reg => Sys2Proof.Machine.execMtsr g n a reg s
  | .trap g n code => Sys2Proof.Machine.execTrap g n code s
  | .evnt g n code => Sys2Proof.Machine.execEvnt g n code s
  | .tlbi g n a => Sys2Proof.Machine.execTlbi g n a s
  | .dinv g n a => Sys2Proof.Machine.execDinv g n a s
  | .halt g n => Sys2Proof.Machine.execHalt g n s
  | .csave g n a => Sys2Proof.Machine.execCsave g n a s
  | .lhash g n d a b => Sys2Proof.Machine.execLhash g n d a b s
  | .lgath g n d a b => Sys2Proof.Machine.execLgath g n d a b s
  | .lpool g n d a b => Sys2Proof.Machine.execLpool g n d a b s
  | .lscat g n d a b => Sys2Proof.Machine.execLscat g n d a b s
  | .lhand g n d a b => Sys2Proof.Machine.execLhand g n d a b s
  | .vadd d a b x w g => Sys2Proof.Machine.execVadd d a b x w g s
  | .vsub d a b x w g => Sys2Proof.Machine.execVsub d a b x w g s
  | .vmul d a b x w g => Sys2Proof.Machine.execVmul d a b x w g s
  | .vfma d a b x w g => Sys2Proof.Machine.execVfma d a b x w g s
  | .vfms d a b x w g => Sys2Proof.Machine.execVfms d a b x w g s
  | .vmin d a b x w g => Sys2Proof.Machine.execVmin d a b x w g s
  | .vmax d a b x w g => Sys2Proof.Machine.execVmax d a b x w g s
  | .vun d a fn x w g => Sys2Proof.Machine.execVun d a fn x w g s
  | .vand d a b x w g => Sys2Proof.Machine.execVand d a b x w g s
  | .vor d a b x w g => Sys2Proof.Machine.execVor d a b x w g s
  | .vxor d a b x w g => Sys2Proof.Machine.execVxor d a b x w g s
  | .vshl d a b x w g => Sys2Proof.Machine.execVshl d a b x w g s
  | .vshr d a b x w g => Sys2Proof.Machine.execVshr d a b x w g s
  | .vsar d a b x w g => Sys2Proof.Machine.execVsar d a b x w g s
  | .vfsl d a b x w g => Sys2Proof.Machine.execVfsl d a b x w g s
  | .vfsr d a b x w g => Sys2Proof.Machine.execVfsr d a b x w g s
  | .vhar d a x w g => Sys2Proof.Machine.execVhar d a x w g s
  | .vihr d a x w g => Sys2Proof.Machine.execVihr d a x w g s
  | .vcmp cc mk a b x g => Sys2Proof.Machine.execVcmp cc mk a b x g s
  | .vsel d a b w g => Sys2Proof.Machine.execVsel d a b w g s
  | .vmsk op mk ma mb g => Sys2Proof.Machine.execVmsk op mk ma mb g s
  | .vcomp d a w g => Sys2Proof.Machine.execVcomp d a w g s
  | .vexpd d a w g => Sys2Proof.Machine.execVexpd d a w g s
  | .vslu d a n x w g => Sys2Proof.Machine.execVslu d a n x w g s
  | .vsld d a n x w g => Sys2Proof.Machine.execVsld d a n x w g s
  | .vbrd d a x w g => Sys2Proof.Machine.execVbrd d a x w g s
  | .viota d x w g => Sys2Proof.Machine.execViota d x w g s
  | .vmvs d a idx g => Sys2Proof.Machine.execVmvs d a idx g s
  | .vmsv d a idx x w g => Sys2Proof.Machine.execVmsv d a idx x w g s
  | .vred y op a x g => Sys2Proof.Machine.execVred y op a x g s
  | .vmvy d y x w g => Sys2Proof.Machine.execVmvy d y x w g s
  | .vcvt d a ty part x w g => Sys2Proof.Machine.execVcvt d a ty part x w g s
  | .vsetShape ty rm sat gsl g => Sys2Proof.Machine.execVsetShape ty rm sat gsl g s
  | .vsetTh th a g => Sys2Proof.Machine.execVsetTh th a g s
  | .vsetTag tag g => Sys2Proof.Machine.execVsetTag tag g s
  | .vld d a cls t u off g => Sys2Proof.Machine.execVld d a cls t u off g s
  | .vst d a cls u off g => Sys2Proof.Machine.execVst d a cls u off g s
  | .vldl d a cls t j r g => Sys2Proof.Machine.execVldl d a cls t j r g s
  | .vldd d a cls t j r g => Sys2Proof.Machine.execVldd d a cls t j r g s
  | .vstl d a cls flat j r g => Sys2Proof.Machine.execVstl d a cls flat j r g s
  | .vlrg d k sel idx w g => Sys2Proof.Machine.execVlrg d k sel idx w g s
  | .vthr th mk a g => Sys2Proof.Machine.execVthr th mk a g s
  | .mclm sa g => Sys2Proof.Machine.execMclm sa g s
  | .mrel sa g => Sys2Proof.Machine.execMrel sa g s
  | .mfil sa p k g => Sys2Proof.Machine.execMfil sa p k g s
  | .mma ac sa sb z g => Sys2Proof.Machine.execMma ac sa sb z g s
  | .mmat ac sa sb z g => Sys2Proof.Machine.execMmat ac sa sb z g s
  | .mcnv ac sa sb z g => Sys2Proof.Machine.execMcnv ac sa sb z g s
  | .mwin p g => Sys2Proof.Machine.execMwin p g s
  | .mcfg ta tb sco g => Sys2Proof.Machine.execMcfg ta tb sco g s
  | .mrnd rm g => Sys2Proof.Machine.execMrnd rm g s
  | .mdrn ac ty p v k g => Sys2Proof.Machine.execMdrn ac ty p v k g s
  | .mzer ac g => Sys2Proof.Machine.execMzer ac g s
  | .mver ac p g => Sys2Proof.Machine.execMver ac p g s
  | .mverTag p g => Sys2Proof.Machine.execMverTag p g s
  | .mlda ac p k g => Sys2Proof.Machine.execMlda ac p k g s
  | .lopn p k g => Sys2Proof.Machine.execLopn p k g s
  | .lstp ac v g => Sys2Proof.Machine.execLstp ac v g s
  | .lrd ac v g => Sys2Proof.Machine.execLrd ac v g s
  | .lcls k g => Sys2Proof.Machine.execLcls k g s
  | .lwgt k g => Sys2Proof.Machine.execLwgt k g s
  | .tsrc p g => Sys2Proof.Machine.execTsrc p g s
  | .tdst p g => Sys2Proof.Machine.execTdst p g s
  | .tdim dim what a imm g => Sys2Proof.Machine.execTdim dim what a imm g s
  | .tind dim p iw g => Sys2Proof.Machine.execTind dim p iw g s
  | .tfmt sty dty j flat sat rm g => Sys2Proof.Machine.execTfmt sty dty j flat sat rm g s
  | .tsyn acq rel ben bid tag g => Sys2Proof.Machine.execTsyn acq rel ben bid tag g s
  | .tcpy g => Sys2Proof.Machine.execTcpy g s
  | .tlvl g => Sys2Proof.Machine.execTlvl g s
  | .tenc g => Sys2Proof.Machine.execTenc g s
  | .tpak g => Sys2Proof.Machine.execTpak g s
  | .tunp g => Sys2Proof.Machine.execTunp g s
  | .tcol grp op g => Sys2Proof.Machine.execTcol grp op g s
  | .tkvf p r pk g => Sys2Proof.Machine.execTkvf p r pk g s
  | .tfil p g => Sys2Proof.Machine.execTfil p g s
  | .tops slot g => Sys2Proof.Machine.execTops slot g s
  | .tdrp p r drop g => Sys2Proof.Machine.execTdrp p r drop g s
  | .transferStart id => Sys2Proof.Machine.execTransferStart id s
  | .transferComplete id => Sys2Proof.Machine.execTransferComplete id s
  | .transferFault id cause => Sys2Proof.Machine.execTransferFault id cause s
  | .pageFaultService id how => Sys2Proof.Machine.execPageFaultService id how s
  | .replyArrival id => Sys2Proof.Machine.execReplyArrival id s
  | .freezeTimeout gang => Sys2Proof.Machine.execFreezeTimeout gang s
  | .yieldSpacingFault gang => Sys2Proof.Machine.execYieldSpacingFault gang s
  | .joinRelease vd grp => Sys2Proof.Machine.execJoinRelease vd grp s
  | .leaseTakeover gang quad pos cnt => Sys2Proof.Machine.execLeaseTakeover gang quad pos cnt s
  | .tileReady gang rank flags => Sys2Proof.Machine.execTileReady gang rank flags s
  | .mfilStamp gang quad slot tag => Sys2Proof.Machine.execMfilStamp gang quad slot tag s
  | .mdrnComplete gang rank tile rel sco => Sys2Proof.Machine.execMdrnComplete gang rank tile rel sco s
  | .barrierArrivalCount vd bar gen => Sys2Proof.Machine.execBarrierArrivalCount vd bar gen s
  | .loupeCommandComplete id => Sys2Proof.Machine.execLoupeCommandComplete id s
  | .lhandComplete id => Sys2Proof.Machine.execLhandComplete id s
  | .loupeSliceEnd die idx => Sys2Proof.Machine.execLoupeSliceEnd die idx s
  | .tlbiComplete agent => Sys2Proof.Machine.execTlbiComplete agent s
  | .preemptRequest job => Sys2Proof.Machine.execPreemptRequest job s
  | .yieldHoldRelease job => Sys2Proof.Machine.execYieldHoldRelease job s
  | .contextSave gang => Sys2Proof.Machine.execContextSave gang s
  | .checkpoint gang => Sys2Proof.Machine.execCheckpoint gang s
  | .haltRemoteStop gang => Sys2Proof.Machine.execHaltRemoteStop gang s
  | .mirrorRepair pa mirrorGood readback => Sys2Proof.Machine.execMirrorRepair pa mirrorGood readback s
  | .linkRetry fault => Sys2Proof.Machine.execLinkRetry fault s
  | .lnotify vd ptr => Sys2Proof.Machine.execLnotify vd ptr s
  | .bind vd => Sys2Proof.Machine.execBind vd s
  | .jobLoad job => Sys2Proof.Machine.execJobLoad job s
  | .startCycle job => Sys2Proof.Machine.execStartCycle job s
  | .patternFrame die cluster => Sys2Proof.Machine.execPatternFrame die cluster s
  | .forcedLowering die cluster => Sys2Proof.Machine.execForcedLowering die cluster s
  | .idleTimeout vd => Sys2Proof.Machine.execIdleTimeout vd s
  | .collapse vd => Sys2Proof.Machine.execCollapse vd s
  | .wakeDoorbell vd peer => Sys2Proof.Machine.execWakeDoorbell vd peer s
  | .wakeComplete vd => Sys2Proof.Machine.execWakeComplete vd s
  | .laneTestComplete fault lane => Sys2Proof.Machine.execLaneTestComplete fault lane s
  | .flgWrite gang rank v => Sys2Proof.Machine.execFlgWrite gang rank v s
  | .vwWrite gang rank v => Sys2Proof.Machine.execVwWrite gang rank v s
  | .wdogWrite vd v => Sys2Proof.Machine.execWdogWrite vd v s
  | .patWrite die cluster k v => Sys2Proof.Machine.execPatWrite die cluster k v s
  | .nqheadWrite vd v => Sys2Proof.Machine.execNqheadWrite vd v s
  | .nackWrite vd v => Sys2Proof.Machine.execNackWrite vd v s
  | .registerWrite vd reg v => Sys2Proof.Machine.execRegisterWrite vd reg v s
  | .accessCommit id => Sys2Proof.Machine.execAccessCommit id s
  | .viewBufferDrop agent granule => Sys2Proof.Machine.execViewBufferDrop agent granule s
  | .commandHalt id va => Sys2Proof.Machine.execCommandHalt id va s
  | .launch q => Sys2Proof.Machine.execLaunch q s
  | .identify q => Sys2Proof.Machine.execIdentify q s
  | .status q => Sys2Proof.Machine.execStatus q s
  | .log q => Sys2Proof.Machine.execLog q s
  | .selftest q => Sys2Proof.Machine.execSelftest q s
  | .vdCreate q => Sys2Proof.Machine.execVdCreate q s
  | .vdDestroy q => Sys2Proof.Machine.execVdDestroy q s
  | .vdSleep q => Sys2Proof.Machine.execVdSleep q s
  | .vdWake q => Sys2Proof.Machine.execVdWake q s
  | .loadImage q => Sys2Proof.Machine.execLoadImage q s
  | .attest q => Sys2Proof.Machine.execAttest q s
  | .fwUpdate q => Sys2Proof.Machine.execFwUpdate q s
  | .setCap src => Sys2Proof.Machine.execSetCap src s
  | .heldAccess vd acc => Sys2Proof.Machine.execHeldAccess vd acc s
  | .outsideAgentAccess vd acc => Sys2Proof.Machine.execOutsideAgentAccess vd acc s
  | .masterClockChange die num den => Sys2Proof.Machine.execMasterClockChange die num den s
  | .kernelEndJob job => Sys2Proof.Machine.execKernelEndJob job s
  | .kernelResumeInPlace gang values => Sys2Proof.Machine.execKernelResumeInPlace gang values s
  | .kernelSave gang => Sys2Proof.Machine.execKernelSave gang s
  | .kernelLaunch vd ptr => Sys2Proof.Machine.execKernelLaunch vd ptr s
  | .graphEdit vd graph records => Sys2Proof.Machine.execGraphEdit vd graph records s
  | .capLeaseExpiry => Sys2Proof.Machine.execCapLeaseExpiry s
  | .reset => Sys2Proof.Machine.execReset s
  | .khbWrite => Sys2Proof.Machine.execKhbWrite s
  | .kpanicWrite => Sys2Proof.Machine.execKpanicWrite s
  | .heartbeatTimeout => Sys2Proof.Machine.execHeartbeatTimeout s
  | .kreadyWrite => Sys2Proof.Machine.execKreadyWrite s
  | .warmStartRetry => Sys2Proof.Machine.execWarmStartRetry s

end Sys2Proof.Machine
end

