-- ==== Sys2Proof/Machine/Step.lean ====
section
/-! DEFINITION. One step of the machine, and the placing of a word for it. -/
namespace Sys2Proof.Machine

/-- What comes of an event: where it does not happen the machine goes on without it. -/
def orElse (o : Host.Outcome State Fault Refusal) (els : State) : Host.Outcome State Fault Refusal :=
  match o with
  | .next t => .next t
  | .fault _ => .next els
  | .refused r => .refused r

/-- One step: a word, an event, a command of a queue, or the machine going on between them (log entry 6). -/
def step (s : State) : Host.Outcome State Fault Refusal :=
  match s.plan with
  | .word i t => exec i t
  | .event i t els => orElse (exec i t) els
  | .command q t els => orElse (runCommand q t) els
  | .quiet t => .next t

/-- `s` with a word where the next step fetches it (log entries 3 and 4). -/
def State.withFetchWord (s : State) (_nbits w : Nat) : State :=
  match tableStream (BitVec.ofNat 32 w) with
  | some (st, _) => s.atWord st (BitVec.ofNat 32 w)
  | none => s.atWord .s (BitVec.ofNat 32 w)

end Sys2Proof.Machine
end

