-- ==== Sys2Proof/Safety.lean ====
section
/-! DEFINITION. What a safe step and a sound state are, in the terms the statements use. -/
namespace Sys2Proof

/-- The guard code of a word that has one, and whether the word complements it (R32, R40). -/
def Instr.guard? (i : Instr) : Option (BitVec 4 × Bool) :=
  match i with
  | .add _ _ _ _ g => some (g, false)
  | .sub _ _ _ _ g => some (g, false)
  | .and _ _ _ _ g => some (g, false)
  | .or _ _ _ _ g => some (g, false)
  | .xor _ _ _ _ g => some (g, false)
  | .andn _ _ _ _ g => some (g, false)
  | .min _ _ _ _ g => some (g, false)
  | .max _ _ _ _ g => some (g, false)
  | .minn _ _ _ _ g => some (g, false)
  | .maxn _ _ _ _ g => some (g, false)
  | .shl _ _ _ _ g => some (g, false)
  | .shr _ _ _ _ g => some (g, false)
  | .sar _ _ _ _ g => some (g, false)
  | .rotr _ _ _ _ g => some (g, false)
  | .clz _ _ _ g => some (g, false)
  | .popc _ _ _ g => some (g, false)
  | .mul _ _ _ _ g => some (g, false)
  | .mulh _ _ _ _ g => some (g, false)
  | .mulhn _ _ _ _ g => some (g, false)
  | .div _ _ _ _ g => some (g, false)
  | .divn _ _ _ _ g => some (g, false)
  | .rem _ _ _ _ g => some (g, false)
  | .remn _ _ _ _ g => some (g, false)
  | .cmp _ _ _ _ g => some (g, false)
  | .pand _ _ _ g => some (g, false)
  | .por _ _ _ g => some (g, false)
  | .pxor _ _ _ g => some (g, false)
  | .pnot _ _ g => some (g, false)
  | .ptos _ _ g => some (g, false)
  | .stop _ g => some (g, false)
  | .ptrmk _ _ _ _ g => some (g, false)
  | .ptrsp _ _ _ g => some (g, false)
  | .ptrrk _ _ _ g => some (g, false)
  | .ptrof _ _ _ g => some (g, false)
  | .ptradd _ _ _ _ g => some (g, false)
  | .fadd _ _ _ _ g => some (g, false)
  | .fsub _ _ _ _ g => some (g, false)
  | .fmul _ _ _ _ g => some (g, false)
  | .ffma _ _ _ _ g => some (g, false)
  | .fmin _ _ _ _ g => some (g, false)
  | .fmax _ _ _ _ g => some (g, false)
  | .fdiv _ _ _ _ g => some (g, false)
  | .fsqrt _ _ _ g => some (g, false)
  | .cvtif _ _ _ g => some (g, false)
  | .cvtnf _ _ _ g => some (g, false)
  | .cvtfi _ _ _ g => some (g, false)
  | .cvtfiz _ _ _ g => some (g, false)
  | .fcmpLt _ _ _ g => some (g, false)
  | .fcmpLe _ _ _ g => some (g, false)
  | .fcmpEq _ _ _ g => some (g, false)
  | .addi _ _ _ g => some (g, false)
  | .andi _ _ _ g => some (g, false)
  | .ori _ _ _ g => some (g, false)
  | .xori _ _ _ g => some (g, false)
  | .shli _ _ _ g => some (g, false)
  | .shri _ _ _ g => some (g, false)
  | .sari _ _ _ g => some (g, false)
  | .cmpi _ _ _ _ g => some (g, false)
  | .lim _ _ g => some (g, false)
  | .lih _ _ g => some (g, false)
  | .ptri _ _ _ g => some (g, false)
  | .lscr _ _ g => some (g, false)
  | .ldb _ _ _ _ _ _ g => some (g, false)
  | .ldbn _ _ _ _ _ _ g => some (g, false)
  | .ldh _ _ _ _ _ _ g => some (g, false)
  | .ldhn _ _ _ _ _ _ g => some (g, false)
  | .ldw _ _ _ _ _ _ g => some (g, false)
  | .ldwn _ _ _ _ _ _ g => some (g, false)
  | .ldd _ _ _ _ _ _ g => some (g, false)
  | .stb _ _ _ _ _ _ g => some (g, false)
  | .sth _ _ _ _ _ _ g => some (g, false)
  | .stw _ _ _ _ _ _ g => some (g, false)
  | .std _ _ _ _ _ _ g => some (g, false)
  | .ldl _ _ _ _ _ _ g => some (g, false)
  | .aadd _ _ _ _ _ g => some (g, false)
  | .amin _ _ _ _ _ g => some (g, false)
  | .amax _ _ _ _ _ g => some (g, false)
  | .aminn _ _ _ _ _ g => some (g, false)
  | .amaxn _ _ _ _ _ g => some (g, false)
  | .aand _ _ _ _ _ g => some (g, false)
  | .aor _ _ _ _ _ g => some (g, false)
  | .aswap _ _ _ _ _ g => some (g, false)
  | .casW _ _ _ _ _ g => some (g, false)
  | .casD _ _ _ _ _ g => some (g, false)
  | .fence _ _ _ g => some (g, false)
  | .br g n _ => some (g, n)
  | .call g n _ => some (g, n)
  | .jmpr g n _ _ => some (g, n)
  | .loop g n _ => some (g, n)
  | .lset g n _ _ _ => some (g, n)
  | .exit g n _ => some (g, n)
  | .waitc g n _ => some (g, n)
  | .phase g n _ => some (g, n)
  | .lease g n _ => some (g, n)
  | .barInit g n _ _ => some (g, n)
  | .barExpb g n _ _ => some (g, n)
  | .barArv g n _ _ => some (g, n)
  | .barWait g n _ _ => some (g, n)
  | .barAw g n _ _ => some (g, n)
  | .mfsr g n _ _ => some (g, n)
  | .mtsr g n _ _ => some (g, n)
  | .trap g n _ => some (g, n)
  | .evnt g n _ => some (g, n)
  | .tlbi g n _ => some (g, n)
  | .dinv g n _ => some (g, n)
  | .halt g n => some (g, n)
  | .csave g n _ => some (g, n)
  | .lhash g n _ _ _ => some (g, n)
  | .lgath g n _ _ _ => some (g, n)
  | .lpool g n _ _ _ => some (g, n)
  | .lscat g n _ _ _ => some (g, n)
  | .lhand g n _ _ _ => some (g, n)
  | .vadd _ _ _ _ _ g => some (g, false)
  | .vsub _ _ _ _ _ g => some (g, false)
  | .vmul _ _ _ _ _ g => some (g, false)
  | .vfma _ _ _ _ _ g => some (g, false)
  | .vfms _ _ _ _ _ g => some (g, false)
  | .vmin _ _ _ _ _ g => some (g, false)
  | .vmax _ _ _ _ _ g => some (g, false)
  | .vun _ _ _ _ _ g => some (g, false)
  | .vand _ _ _ _ _ g => some (g, false)
  | .vor _ _ _ _ _ g => some (g, false)
  | .vxor _ _ _ _ _ g => some (g, false)
  | .vshl _ _ _ _ _ g => some (g, false)
  | .vshr _ _ _ _ _ g => some (g, false)
  | .vsar _ _ _ _ _ g => some (g, false)
  | .vfsl _ _ _ _ _ g => some (g, false)
  | .vfsr _ _ _ _ _ g => some (g, false)
  | .vhar _ _ _ _ g => some (g, false)
  | .vihr _ _ _ _ g => some (g, false)
  | .vcmp _ _ _ _ _ g => some (g, false)
  | .vsel _ _ _ _ g => some (g, false)
  | .vmsk _ _ _ _ g => some (g, false)
  | .vcomp _ _ _ g => some (g, false)
  | .vexpd _ _ _ g => some (g, false)
  | .vslu _ _ _ _ _ g => some (g, false)
  | .vsld _ _ _ _ _ g => some (g, false)
  | .vbrd _ _ _ _ g => some (g, false)
  | .viota _ _ _ g => some (g, false)
  | .vmvs _ _ _ g => some (g, false)
  | .vmsv _ _ _ _ _ g => some (g, false)
  | .vred _ _ _ _ g => some (g, false)
  | .vmvy _ _ _ _ g => some (g, false)
  | .vcvt _ _ _ _ _ _ g => some (g, false)
  | .vsetShape _ _ _ _ g => some (g, false)
  | .vsetTh _ _ g => some (g, false)
  | .vsetTag _ g => some (g, false)
  | .vld _ _ _ _ _ _ g => some (g, false)
  | .vst _ _ _ _ _ g => some (g, false)
  | .vldl _ _ _ _ _ _ g => some (g, false)
  | .vldd _ _ _ _ _ _ g => some (g, false)
  | .vstl _ _ _ _ _ _ g => some (g, false)
  | .vlrg _ _ _ _ _ g => some (g, false)
  | .vthr _ _ _ g => some (g, false)
  | .mclm _ g => some (g, false)
  | .mrel _ g => some (g, false)
  | .mfil _ _ _ g => some (g, false)
  | .mma _ _ _ _ g => some (g, false)
  | .mmat _ _ _ _ g => some (g, false)
  | .mcnv _ _ _ _ g => some (g, false)
  | .mwin _ g => some (g, false)
  | .mcfg _ _ _ g => some (g, false)
  | .mrnd _ g => some (g, false)
  | .mdrn _ _ _ _ _ g => some (g, false)
  | .mzer _ g => some (g, false)
  | .mver _ _ g => some (g, false)
  | .mverTag _ g => some (g, false)
  | .mlda _ _ _ g => some (g, false)
  | .lopn _ _ g => some (g, false)
  | .lstp _ _ g => some (g, false)
  | .lrd _ _ g => some (g, false)
  | .lcls _ g => some (g, false)
  | .lwgt _ g => some (g, false)
  | .tsrc _ g => some (g, false)
  | .tdst _ g => some (g, false)
  | .tdim _ _ _ _ g => some (g, false)
  | .tind _ _ _ g => some (g, false)
  | .tfmt _ _ _ _ _ _ g => some (g, false)
  | .tsyn _ _ _ _ _ g => some (g, false)
  | .tcpy g => some (g, false)
  | .tlvl g => some (g, false)
  | .tenc g => some (g, false)
  | .tpak g => some (g, false)
  | .tunp g => some (g, false)
  | .tcol _ _ g => some (g, false)
  | .tkvf _ _ _ g => some (g, false)
  | .tfil _ g => some (g, false)
  | .tops _ g => some (g, false)
  | .tdrp _ _ _ g => some (g, false)
  | _ => none

/-- Words that only give results: the S and V words of arithmetic, compares, conversions and moves, and MFSR. -/
def Instr.resultOnly (i : Instr) : Bool :=
  match i with
  | .add _ _ _ _ _ | .sub _ _ _ _ _ | .and _ _ _ _ _ | .or _ _ _ _ _ | .xor _ _ _ _ _ | .andn _ _ _ _ _
  | .min _ _ _ _ _ | .max _ _ _ _ _ | .minn _ _ _ _ _ | .maxn _ _ _ _ _ | .shl _ _ _ _ _ | .shr _ _ _ _ _
  | .sar _ _ _ _ _ | .rotr _ _ _ _ _ | .clz _ _ _ _ | .popc _ _ _ _ | .mul _ _ _ _ _ | .mulh _ _ _ _ _
  | .mulhn _ _ _ _ _ | .div _ _ _ _ _ | .divn _ _ _ _ _ | .rem _ _ _ _ _ | .remn _ _ _ _ _ | .cmp _ _ _ _ _
  | .pand _ _ _ _ | .por _ _ _ _ | .pxor _ _ _ _ | .pnot _ _ _ | .ptos _ _ _ | .stop _ _ | .ptrmk _ _ _ _ _
  | .ptrsp _ _ _ _ | .ptrrk _ _ _ _ | .ptrof _ _ _ _ | .ptradd _ _ _ _ _ | .fadd _ _ _ _ _ | .fsub _ _ _ _ _
  | .fmul _ _ _ _ _ | .ffma _ _ _ _ _ | .fmin _ _ _ _ _ | .fmax _ _ _ _ _ | .fdiv _ _ _ _ _ | .fsqrt _ _ _ _
  | .cvtif _ _ _ _ | .cvtnf _ _ _ _ | .cvtfi _ _ _ _ | .cvtfiz _ _ _ _ | .fcmpLt _ _ _ _ | .fcmpLe _ _ _ _
  | .fcmpEq _ _ _ _ | .addi _ _ _ _ | .andi _ _ _ _ | .ori _ _ _ _ | .xori _ _ _ _ | .shli _ _ _ _ | .shri _ _ _ _
  | .sari _ _ _ _ | .cmpi _ _ _ _ _ | .lim _ _ _ | .lih _ _ _ | .ptri _ _ _ _ | .lscr _ _ _ | .mfsr _ _ _ _
  | .vadd _ _ _ _ _ _ | .vsub _ _ _ _ _ _ | .vmul _ _ _ _ _ _ | .vfma _ _ _ _ _ _ | .vfms _ _ _ _ _ _
  | .vmin _ _ _ _ _ _ | .vmax _ _ _ _ _ _ | .vun _ _ _ _ _ _ | .vand _ _ _ _ _ _ | .vor _ _ _ _ _ _
  | .vxor _ _ _ _ _ _ | .vshl _ _ _ _ _ _ | .vshr _ _ _ _ _ _ | .vsar _ _ _ _ _ _ | .vfsl _ _ _ _ _ _
  | .vfsr _ _ _ _ _ _ | .vhar _ _ _ _ _ | .vihr _ _ _ _ _ | .vcmp _ _ _ _ _ _ | .vsel _ _ _ _ _ | .vmsk _ _ _ _ _
  | .vcomp _ _ _ _ | .vexpd _ _ _ _ | .vslu _ _ _ _ _ _ | .vsld _ _ _ _ _ _ | .vbrd _ _ _ _ _ | .viota _ _ _ _
  | .vmvs _ _ _ _ | .vmsv _ _ _ _ _ _ | .vred _ _ _ _ _ | .vmvy _ _ _ _ _ | .vcvt _ _ _ _ _ _ _ | .vlrg _ _ _ _ _ _
  | .vthr _ _ _ _ => true
  | _ => false

end Sys2Proof

namespace Sys2Proof.Machine

/-- A step that comes to a next state. -/
def Goes (o : Host.Outcome State Fault Refusal) : Prop := ∃ t, o = .next t

/-- A word passes the decode checks that the job decides, and its guard is true: its agent is there, the names it counts
are declared (check 4 of R31), it may be run (check 5), and its guard code, complemented for n, is true (R32). -/
abbrev Passes (s : State) (decls : List Decl) (g : BitVec 4) (n : Bool := false) : Prop :=
  (s.m.seq? s.cur).isSome = true ∧ decls.all (fun d => d.ok s.hdr s.regs.rrb) = true ∧ s.guard g n = true

/-- The same, for a word after which the stream falls through: the next word lies in the declared section (R13). -/
abbrev Runs (s : State) (decls : List Decl) (g : BitVec 4) (n : Bool := false) : Prop :=
  Passes s decls g n ∧ s.falls = true

/-- A step that comes to a next state of which something holds. -/
def GoesTo (o : Host.Outcome State Fault Refusal) (p : State → Prop) : Prop := ∃ t, o = .next t ∧ p t

/-- The memories of a gang's cores are in canonical form. -/
def Gang.memoriesWf (x : Gang) : Bool := x.cores.all (fun c => Memory.wf c.scr)

/-- Every memory of the package is in its canonical form (R3; log entry 5): device and host memory, each rank's scratchpad,
each scratchpad that no gang holds, each Loupe partition. -/
def Mach.memoriesWf (m : Mach) : Bool :=
  Memory.wf m.dev && Memory.wf m.host && m.gangs.all (fun p => p.2.memoriesWf) &&
  m.dies.toList.all (fun d => d.loupes.toList.all (fun l => l.ctxs.all (fun x => Memory.wf x.mem)) &&
    d.clusters.toList.all (fun c => c.sram.all (fun p => Memory.wf p.2.scr)))

/-- The same of a state, and of the package its ec began with. -/
def State.memoriesWf (s : State) : Bool := s.m.memoriesWf && s.iss.all (fun i => i.before.memoriesWf)

/-- Every byte of every memory reads as before: device and host memory, each rank's scratchpad, each Loupe partition. -/
def SameBytes (a b : Mach) : Prop :=
  (∀ n, Memory.get b.dev n = Memory.get a.dev n) ∧ (∀ n, Memory.get b.host n = Memory.get a.host n) ∧
  (∀ g r n, (b.core? g r).map (fun c => Memory.get c.scr n) = (a.core? g r).map (fun c => Memory.get c.scr n)) ∧
  (∀ d i c n, (b.ctx? d i c).map (fun x => Memory.get x.mem n) = (a.ctx? d i c).map (fun x => Memory.get x.mem n))

/-- What stands still in a core while a word of it issues: its registers, flags, predicates, vector and matrix state,
scratchpad and special registers, all but the results on their way, the registers of its streams, its translations and what
the race checker keeps. -/
def SameCore (c d : Core) : Prop :=
  d.seq.sreg = c.seq.sreg ∧ d.seq.preg = c.seq.preg ∧ d.seq.latch = c.seq.latch ∧ d.vec = c.vec ∧ d.mat = c.mat ∧
  d.flg = c.flg ∧ d.vw = c.vw ∧ d.gm = c.gm ∧ d.tset = c.tset ∧ d.lens = c.lens ∧ d.arr = c.arr ∧ d.gran = c.gran ∧
  d.scr = c.scr ∧ d.poison = c.poison ∧ d.worn = c.worn ∧ d.held = c.held ∧ d.kv = c.kv ∧ d.tcols = c.tcols

/-- What a word that only gives results leaves: the package but for the gangs and the numbers drawn; every other gang and
core whole; and in its own core all but at most one result more on its way and the registers of its own stream. -/
def OnlyResults (s t : State) (g r : Nat) (st : Stream) : Prop :=
  t.cur = s.cur ∧ t.m = { s.m with gangs := t.m.gangs, freeCtr := t.m.freeCtr } ∧
  (∀ h, (t.m.gang? h).map (fun x => { x with cores := [] }) = (s.m.gang? h).map (fun x => { x with cores := [] })) ∧
  (∀ h k, (h, k) ≠ (g, r) → t.m.core? h k = s.m.core? h k) ∧
  ∃ c new strm, s.m.core? g r = some c ∧ new.length ≤ 1 ∧
    t.m.core? g r = some { c with seq := { c.seq with pend := c.seq.pend ++ new, strm := strm } } ∧
    ∀ j, j < 4 → j ≠ st.idx → vget strm j {} = vget c.seq.strm j {}

end Sys2Proof.Machine
end

