-- ==== Sys2Proof/Certificates/Slice0/Obligations.lean ====
section
/-! DEFINITION. The statements for the provers. Each says what a rule of the spec says an instruction or the machine does. -/
open Sys2Proof Sys2Proof.Machine

/-! ## Steps, decoding, encoding -/

/-- When an ec is being issued and the next of its streams stands at a word that decodes, the step is the meaning of that
word, run for that stream; the word a Loupe context stands at likewise, on the core's turn, while no command of the physical
function is due. An illegal word raises cause 0x01 (R31). A word that reads what cannot be corrected (R404), or a T word of a
stream with an in-flight record (R320), is not run: the 0x10 that the ec notes for it is only the mark of the stop, and the
report of an in-flight record names the record's own cause (log entry 8). The word is the one at the stream's PC, with its
guard nibble in S. -/
def Obligations.StepRunsDecodedWord : Prop :=
  (∀ (s : State) (i : Issue) (a : Agent) (rest : List Agent), s.iss = some i → i.slots = a :: rest →
    let t : State := { s with cur := a, iss := some { i with slots := rest } }
    (t.m.inFlight a = none → ∀ ins, t.seq.decodeAt a.strm = some ins → step s = exec ins t) ∧
    (t.m.inFlight a = none → t.seq.decodeAt a.strm = none → step s = .next (t.raise { cause := 0x01 })) ∧
    (t.m.inFlight a ≠ none → step s = .next (t.raise { cause := 0x10 }))) ∧
  (∀ (s : State) (d i c : Nat) (rest : List (Nat × Nat)) (ins : Instr),
    let n := ((s.m.loupe? d i).map (fun l => l.ctxs.length)).getD 0
    let m := (List.range n).foldl (fun m c => m.reachCtx d i c) { s.m.fresh with ltodo := rest }
    let t : State := { s with m := m, cur := .loupe d i c }
    s.iss = none → s.m.polls.find? (fun p => decide (p.1 ≤ s.m.time) && p.2 == .phys) = none →
    s.m.agenda.find? (fun d => early d.ev && s.m.isDue d) = none → s.m.todo = [] →
    s.m.ltodo = (d, i) :: rest → m.serves d i = some c → m.idleEc (.loupe d i c) = false →
    m.inFlight (.loupe d i c) = none → t.seq.decodeAt .l = some ins → step s = exec ins t) ∧
  (∀ (q : Seq) (st : Stream) (w : Code) (l : List Code), vget q.code st.idx [] = l → l[(q.regs st).pc.toNat]? = some w →
    q.decodeAt st = (decode st (if st.idx = 0 then q.guards.getD (q.regs st).pc.toNat 0 else 0) w).toOption)

/-- Words that the spec writes out decode to the instructions it says they are: R86, R89, R94, R211, R210, R175, R181,
R182, R185, R203. -/
def Obligations.WordsOfTheSpecDecode : Prop :=
  decode .s 0 0xC003FFFB#32 = .ok (.br 0 false (-5)) ∧
  decode .s 0 0xC0A00007#32 = .ok (.br 2 true 7) ∧
  decode .s 0 0xC4000028#32 = .ok (.call 0 false 40) ∧
  decode .s 0 0xD0008300#32 = .ok (.lset 0 false 8 3 0) ∧
  decode .m 0 0xDC000003#32 = .ok (.waitc 0 false 3) ∧
  decode .t 0 0xE0000000#32 = .ok .yield ∧
  decode .s 0 0xE8000001#32 = .ok (.lease 0 false 1) ∧
  decode .m 0 0x2D800000#32 = .ok (.mzer 3 0) ∧
  decode .m 0 0x24010000#32 = .ok (.mrnd 2 0) ∧
  decode .v 0 0x50903080#32 = .ok (.vsel 9 1 66 false 0) ∧
  decode .v 0 0x6840E000#32 = .ok (.vbrd 4 7 false false 0) ∧
  decode .v 0 0x6C500000#32 = .ok (.viota 5 false false 0) ∧
  decode .v 0 0x74410140#32 = .ok (.vmsv 4 8 5 false false 0)

/-- Every instruction that a stream admits, with operands in the ranges of check 3 of R31, has a word, and that stream's
decoder reads the instruction back from it, every operand at its value (R30-R45). -/
def Obligations.DecodeOfEncode : Prop :=
  ∀ (i : Instr) (st : Stream), i.validIn st = true → i.wf st = true →
    ∃ e, encode i = some e ∧ decode st e.nib e.word = .ok i

/-- A word that a stream's decoder accepts is the one word of the instruction it reads: no other word, and in S and on a
Loupe core no other guard nibble, decodes to it (R31, R37-R45). What is accepted is admitted and in range. -/
def Obligations.EncodeOfDecode : Prop :=
  ∀ (st : Stream) (nib : BitVec 4) (w : Code) (i : Instr), decode st nib w = .ok i →
    i.validIn st = true ∧ i.wf st = true ∧
    ∃ e, encode i = some e ∧ e.word = w ∧ ((st = .s ∨ st = .l) → e.nib = nib)

/-! ## Reset and the state a job starts with -/

/-- After reset every memory is in canonical form; the form, and the empty lists it holds of after reset, are the model's (log entry
5). -/
def Obligations.ResetMemoriesCanonical : Prop := State.reset.memoriesWf = true

/-- Every step keeps every memory in canonical form: addresses rising, no byte listed that an unlisted address reads as
(log entry 5: the canonical form is the model's). -/
def Obligations.StepKeepsMemoriesCanonical : Prop :=
  ∀ s t : State, s.memoriesWf = true → step s = .next t → t.memoriesWf = true

/-- After reset nothing is created, bound or queued, and the boot is what comes first (R383, R416; log entry 4); TIME is 0, which is
the model's choice (log entry 1). The registers a core holds at job start are those of R20: scalars 0, p0 = 1 and the other predicates 0, stage predicates, PC, LC, ES, RRB and
LNK 0, vector registers 0, masks all ones, partial-sum latches empty, thresholds 0, f32 under RNE; the view off (R24), the
window of pattern entry 15 full (R115), the watchdog at 2^21 mc (R65), the close record none (R228). -/
def Obligations.ResetAndStartValues : Prop :=
  State.reset.m.vds = [] ∧ State.reset.m.jobs = [] ∧ State.reset.m.gangs = [] ∧ State.reset.m.cmds = [] ∧
  State.reset.iss = none ∧ State.reset.m.time = 0 ∧ State.reset.m.agenda.map (·.ev) = [.reset] ∧
  (∀ n, ({} : Seq).phys n = 0) ∧ (∀ n, n < 8 → ({} : Seq).readP n = (n == 0)) ∧
  (∀ st : Stream, (({} : Seq).regs st).pc = 0 ∧ (({} : Seq).regs st).lc = 0 ∧ (({} : Seq).regs st).es = 0 ∧
    (({} : Seq).regs st).rrb = 0 ∧ (({} : Seq).regs st).q = 0 ∧ (({} : Seq).regs st).lnk = 0) ∧
  (∀ n, vget ({} : VUnit).vreg n 0 = 0) ∧ (∀ n, n < 8 → ({} : Core).mask n = BitVec.allOnes 256) ∧
  (∀ n, vget ({} : VUnit).th n 0 = 0) ∧ ({} : VUnit).shp.ty = 0 ∧ ({} : VUnit).shp.rm = 0 ∧ ({} : VUnit).shp.lanes = 64 ∧
  viewOf ({} : Core).vw = none ∧ ({} : Core).flg = 0 ∧ ({} : MUnit).close = none ∧ ({} : MUnit).leasec = 0 ∧
  ({} : VDev).wdog = 21 ∧ patEntry 15 = 0xFFFF ∧ patEntry 7 = 0xAAAA

/-- R21: a rotating name reaches the register (k − RRB) modulo 16, or modulo 32, of its window; a back-edge of LOOP steps
RRB, so that the value named s40 in one iteration is named s41 in the next; two streams reach the same register by s40
only while their RRB agree modulo 16. -/
def Obligations.RotatingNames : Prop :=
  (∀ (rrb : BitVec 5) (k : Nat), 40 ≤ k → k ≤ 55 → (physS rrb k : Int) = 40 + ((k : Int) - 40 - rrb.toNat) % 16) ∧
  (∀ (rrb : BitVec 5) (k : Nat), 32 ≤ k → k ≤ 63 → (physV rrb k : Int) = 32 + ((k : Int) - 32 - rrb.toNat) % 32) ∧
  (∀ (rrb : BitVec 5) (k : Nat), 40 ≤ k → k < 55 → physS (rrb + 1) (k + 1) = physS rrb k) ∧
  (∀ a b : BitVec 5, physS a 40 = physS b 40 ↔ a.toNat % 16 = b.toNat % 16) ∧
  (∀ (s : State) (k : Nat), k < 56 → s.rd k = s.seq.phys (physS s.regs.rrb k)) ∧
  (∀ (c : Core) (u : Row) (k : Nat), 32 ≤ k → k < 64 → c.readV u k = vget c.vec.vreg (physV (c.seq.regs .v).rrb k) 0) ∧
  (∀ (s : State) (g : BitVec 4) (n : Bool) (off : BitVec 18), Passes s [] g n → s.regs.lc ≠ 0 →
    0 ≤ s.regs.pc.toNat + off.toInt → s.regs.pc.toNat + off.toInt < vget s.hdr.csz s.cur.strm.idx 0 →
    GoesTo (exec (.loop g n off) s) (fun t => t.regs.rrb.toNat = (s.regs.rrb.toNat + 1) % 32))

/-! ## Scalar words -/

/-- R143, R145 and R146: ADD, SUB, AND, OR, XOR, ANDN, MIN, MAX, MINN, MAXN, SHL, SHR, SAR, ROTR, CLZ, POPC, the immediate
words, LIM and LIH, with latency 1 and no flag. The result is on its way to s[D], unless W = 1, and to the latch of the issue
cycle; the stream goes on at the next word. CLZ gives 64 for 0, and otherwise the number of zero bits above the highest one. -/
def Obligations.IntegerWords : Prop :=
  (∀ (s : State) (d a b : BitVec 6) (w : Bool) (g : BitVec 4),
    let x := s.rd a.toNat
    let y := s.rd b.toNat
    (Runs s (sn (dst d w ++ [a.toNat, b.toNat])) g →
      exec (.add d a b w g) s = .next (s.resS 1 d w (x + y)).advance ∧
      exec (.sub d a b w g) s = .next (s.resS 1 d w (x - y)).advance ∧
      exec (.and d a b w g) s = .next (s.resS 1 d w (x &&& y)).advance ∧
      exec (.or d a b w g) s = .next (s.resS 1 d w (x ||| y)).advance ∧
      exec (.xor d a b w g) s = .next (s.resS 1 d w (x ^^^ y)).advance ∧
      exec (.andn d a b w g) s = .next (s.resS 1 d w (x &&& ~~~y)).advance ∧
      exec (.min d a b w g) s = .next (s.resS 1 d w (BitVec.ofInt 64 (min x.toInt y.toInt))).advance ∧
      exec (.max d a b w g) s = .next (s.resS 1 d w (BitVec.ofInt 64 (max x.toInt y.toInt))).advance ∧
      exec (.minn d a b w g) s = .next (s.resS 1 d w (BitVec.ofNat 64 (min x.toNat y.toNat))).advance ∧
      exec (.maxn d a b w g) s = .next (s.resS 1 d w (BitVec.ofNat 64 (max x.toNat y.toNat))).advance ∧
      exec (.shl d a b w g) s = .next (s.resS 1 d w (x <<< (y.toNat % 64))).advance ∧
      exec (.shr d a b w g) s = .next (s.resS 1 d w (x >>> (y.toNat % 64))).advance ∧
      exec (.sar d a b w g) s = .next (s.resS 1 d w (x.sshiftRight (y.toNat % 64))).advance ∧
      exec (.rotr d a b w g) s = .next (s.resS 1 d w (x.rotateRight (y.toNat % 64))).advance) ∧
    (Runs s (sn (dst d w ++ [a.toNat])) g →
      exec (.clz d a w g) s = .next (s.resS 1 d w (clzW x)).advance ∧
      exec (.popc d a w g) s =
        .next (s.resS 1 d w (BitVec.ofNat 64 ((List.range 64).filter (fun i => x.getLsbD i)).length)).advance)) ∧
  (∀ (s : State) (d a : BitVec 6) (imm : BitVec 14) (imm20 : BitVec 20) (g : BitVec 4),
    let x := s.rd a.toNat
    (Runs s (sn [d.toNat, a.toNat]) g →
      exec (.addi d a imm g) s = .next (s.resS 1 d false (x + imm.signExtend 64)).advance ∧
      exec (.andi d a imm g) s = .next (s.resS 1 d false (x &&& imm.signExtend 64)).advance ∧
      exec (.ori d a imm g) s = .next (s.resS 1 d false (x ||| imm.signExtend 64)).advance ∧
      exec (.xori d a imm g) s = .next (s.resS 1 d false (x ^^^ imm.signExtend 64)).advance ∧
      exec (.shli d a imm g) s = .next (s.resS 1 d false (x <<< imm.toNat)).advance ∧
      exec (.shri d a imm g) s = .next (s.resS 1 d false (x >>> imm.toNat)).advance ∧
      exec (.sari d a imm g) s = .next (s.resS 1 d false (x.sshiftRight imm.toNat)).advance) ∧
    (Runs s (sn [d.toNat]) g →
      exec (.lim d imm20 g) s = .next (s.resS 1 d false (imm20.signExtend 64 <<< 12)).advance ∧
      exec (.lih d imm20 g) s = .next (s.resS 1 d false
        (fld (s.rd d.toNat) 52 12 ++ imm20 ++ fld (s.rd d.toNat) 0 32 : BitVec 64)).advance)) ∧
  (clzW 0 = 64 ∧
    ∀ x : Word, x ≠ 0 → (clzW x).toNat < 64 ∧ x.getLsbD (63 - (clzW x).toNat) = true ∧
      ∀ j, j < 64 → 63 - (clzW x).toNat < j → x.getLsbD j = false)

/-- R144 and R123: MUL, MULH, MULHN with latency 3; DIV, DIVN, REM, REMN with latency 20, quotients toward zero, a zero
divisor giving all ones and the dividend; the most negative number over −1 wraps to itself, its remainder 0. -/
def Obligations.MultiplyAndDivide : Prop :=
  ∀ (s : State) (d a b : BitVec 6) (w : Bool) (g : BitVec 4), Runs s (sn (dst d w ++ [a.toNat, b.toNat])) g →
  let x := s.rd a.toNat
  let y := s.rd b.toNat
  exec (.mul d a b w g) s = .next (s.resS 3 d w (BitVec.ofNat 64 (x.toNat * y.toNat))).advance ∧
  exec (.mulh d a b w g) s = .next (s.resS 3 d w (BitVec.ofInt 64 (x.toInt * y.toInt / 2 ^ 64))).advance ∧
  exec (.mulhn d a b w g) s = .next (s.resS 3 d w (BitVec.ofNat 64 (x.toNat * y.toNat / 2 ^ 64))).advance ∧
  exec (.div d a b w g) s =
    .next (s.resS 20 d w (if y = 0 then BitVec.allOnes 64 else BitVec.ofInt 64 (x.toInt.tdiv y.toInt))).advance ∧
  exec (.divn d a b w g) s =
    .next (s.resS 20 d w (if y = 0 then BitVec.allOnes 64 else BitVec.ofNat 64 (x.toNat / y.toNat))).advance ∧
  exec (.rem d a b w g) s = .next (s.resS 20 d w (if y = 0 then x else BitVec.ofInt 64 (x.toInt.tmod y.toInt))).advance ∧
  exec (.remn d a b w g) s = .next (s.resS 20 d w (if y = 0 then x else BitVec.ofNat 64 (x.toNat % y.toNat))).advance

/-- R147, R148 and R154: compares into a predicate with latency 1, float compares with latency 4 and false on a NaN, the
predicate words, PTOS with bit 0 one, STOP into p1-p7. -/
def Obligations.ComparesAndPredicates : Prop :=
  ∀ (s : State) (d a b : BitVec 6) (cc : BitVec 3) (imm : BitVec 11) (w : Bool) (g : BitVec 4),
  let x := s.rd a.toNat
  let y := s.rd b.toNat
  (Runs s (sn [a.toNat, b.toNat]) g →
    exec (.cmp d a b cc g) s = .next (s.resP 1 d.toNat (condW cc x y)).advance ∧
    (∀ p : Int → Bool,
      let r := !(f32V (f32W x)).isNan && !(f32V (f32W y)).isNan && p (cmpV (f32V (f32W x)) (f32V (f32W y)))
      (p = (fun c => decide (c < 0)) → exec (.fcmpLt d a b g) s = .next (s.resP 4 d.toNat r).advance) ∧
      (p = (fun c => decide (c ≤ 0)) → exec (.fcmpLe d a b g) s = .next (s.resP 4 d.toNat r).advance) ∧
      (p = (fun c => decide (c = 0)) → exec (.fcmpEq d a b g) s = .next (s.resP 4 d.toNat r).advance))) ∧
  (condW 0 x y = decide (x = y) ∧ condW 1 x y = decide (x ≠ y) ∧ condW 2 x y = decide (x.toInt < y.toInt) ∧
    condW 3 x y = decide (x.toInt ≤ y.toInt) ∧ condW 4 x y = decide (x.toNat < y.toNat) ∧
    condW 5 x y = decide (x.toNat ≤ y.toNat) ∧ condW 6 x y = decide (x &&& y ≠ 0)) ∧
  (Runs s (sn [a.toNat]) g →
    exec (.cmpi d a cc imm g) s = .next (s.resP 1 d.toNat (condW cc x (imm.signExtend 64))).advance ∧
    exec (.stop a g) s = .next (s.emit 1 { pend0 with
      writes := [.p 1 (x.getLsbD 1), .p 2 (x.getLsbD 2), .p 3 (x.getLsbD 3), .p 4 (x.getLsbD 4), .p 5 (x.getLsbD 5),
        .p 6 (x.getLsbD 6), .p 7 (x.getLsbD 7)] }).advance) ∧
  (Runs s [] g →
    exec (.pand d a b g) s = .next (s.resP 1 d.toNat (s.seq.readP a.toNat && s.seq.readP b.toNat)).advance ∧
    exec (.por d a b g) s = .next (s.resP 1 d.toNat (s.seq.readP a.toNat || s.seq.readP b.toNat)).advance ∧
    exec (.pxor d a b g) s = .next (s.resP 1 d.toNat (s.seq.readP a.toNat != s.seq.readP b.toNat)).advance ∧
    exec (.pnot d a g) s = .next (s.resP 1 d.toNat (!s.seq.readP a.toNat)).advance) ∧
  (Runs s (sn (dst d w)) g →
    exec (.ptos d w g) s = .next (s.resS 1 d w ((s.seq.preg ||| 1#8).zeroExtend 64)).advance)

/-- R149-R152: PTRMK, PTRADD and PTRI give the pointer that their checks pass, and raise the fault of the check that fails
with nothing else done; PTRSP, PTRRK and PTROF take a pointer apart; LSCR names the own scratchpad, or the own partition, at
IMM14 · 16. Latency 1. A pointer into scratchpad is made when its rank is within the gang and its offset from 0 to 2 MiB; any
other offset, or a rank at or beyond the gang size, is a pointer fault 0x03. -/
def Obligations.PointerWords : Prop :=
  (∀ (s : State) (d a b : BitVec 6) (imm : BitVec 14) (w : Bool) (g : BitVec 4),
    let x := s.rd a.toNat
    let y := s.rd b.toNat
    (Runs s (sn (dst d w ++ [a.toNat, b.toNat])) g →
      (∀ p, checkMade s (fld x 6 4).toNat (fld x 0 6).toNat (ptrOff y) 0 = .ok p →
        exec (.ptrmk d a b w g) s = .next (s.resS 1 d w p).advance) ∧
      (∀ p, checkMade s (ptrSpace x) (ptrRank x) (ptrOff x) y.toInt = .ok p →
        exec (.ptradd d a b w g) s = .next (s.resS 1 d w p).advance) ∧
      (∀ e, checkMade s (fld x 6 4).toNat (fld x 0 6).toNat (ptrOff y) 0 = .error (.fault e) →
        exec (.ptrmk d a b w g) s = .next (s.raise e)) ∧
      (∀ e, checkMade s (ptrSpace x) (ptrRank x) (ptrOff x) y.toInt = .error (.fault e) →
        exec (.ptradd d a b w g) s = .next (s.raise e))) ∧
    (Runs s (sn (dst d w ++ [a.toNat])) g →
      exec (.ptrsp d a w g) s = .next (s.resS 1 d w (BitVec.ofNat 64 (x.toNat / 2 ^ 60))).advance ∧
      exec (.ptrrk d a w g) s = .next (s.resS 1 d w (BitVec.ofNat 64 (x.toNat / 2 ^ 54 % 64))).advance ∧
      exec (.ptrof d a w g) s = .next (s.resS 1 d w (BitVec.ofNat 64 (x.toNat % 2 ^ 54))).advance) ∧
    (Runs s (sn [d.toNat, a.toNat]) g →
      (∀ p, checkMade s (ptrSpace x) (ptrRank x) (ptrOff x) imm.toInt = .ok p →
        exec (.ptri d a imm g) s = .next (s.resS 1 d false p).advance) ∧
      (∀ e, checkMade s (ptrSpace x) (ptrRank x) (ptrOff x) imm.toInt = .error (.fault e) →
        exec (.ptri d a imm g) s = .next (s.raise e))) ∧
    (Runs s (sn [d.toNat]) g →
      (∀ k r st, s.cur = .core k r st → exec (.lscr d imm g) s = .next (s.resS 1 d false (mkPtr 1 r (imm.toNat * 16))).advance) ∧
      (∀ e i c, s.cur = .loupe e i c → exec (.lscr d imm g) s = .next (s.resS 1 d false (mkPtr 2 i (imm.toNat * 16))).advance))) ∧
  (∀ (s : State) (k r : Nat) (st : Stream) (rank base : Nat) (add : Int), s.cur = .core k r st → rank < 64 →
      (rank < s.m.gangSize s.cur ∧ 0 ≤ (base : Int) + add ∧ (base : Int) + add ≤ 2 ^ 21 →
        checkMade s 1 rank base add = .ok (mkPtr 1 rank ((base : Int) + add).toNat)) ∧
      (¬ (rank < s.m.gangSize s.cur ∧ 0 ≤ (base : Int) + add ∧ (base : Int) + add ≤ 2 ^ 21) →
        ∃ p, checkMade s 1 rank base add = .error (.fault { cause := 0x03, addr := p })))

/-- R153 and R154: FADD, FSUB, FMUL, FFMA, FMIN, FMAX with latency 4, FDIV and FSQRT with 14, the conversions with 3. An
f32 result stands zero-extended, its flags land with it, and FFMA reads s[D] at issue. -/
def Obligations.ScalarFloatWords : Prop :=
  ∀ (s : State) (d a b : BitVec 6) (w : Bool) (g : BitVec 4),
  let x := (s.rd a.toNat).truncate 32
  let y := (s.rd b.toNat).truncate 32
  let put (lat : Nat) (r : BitVec 32 × Flags) : Host.Outcome State Fault Refusal :=
    .next (s.resS lat d w (r.1.zeroExtend 64) r.2).advance
  (Runs s (sn (dst d w ++ [a.toNat, b.toNat])) g →
    exec (.fadd d a b w g) s = put 4 (f32Of (addV (f32V x) (f32V y))) ∧
    exec (.fsub d a b w g) s = put 4 (f32Of (addV (f32V x) (f32V y).negate)) ∧
    exec (.fmul d a b w g) s = put 4 (f32Of (mulV (f32V x) (f32V y))) ∧
    exec (.fmin d a b w g) s = put 4 (f32MinMax false x y) ∧
    exec (.fmax d a b w g) s = put 4 (f32MinMax true x y) ∧
    exec (.fdiv d a b w g) s = put 14 (f32Val (divV (f32V x) (f32V y)))) ∧
  (Runs s (sn [d.toNat, a.toNat, b.toNat]) g →
    exec (.ffma d a b w g) s = put 4 (f32Fma ((s.rd d.toNat).truncate 32) x y)) ∧
  (Runs s (sn (dst d w ++ [a.toNat])) g →
    exec (.fsqrt d a w g) s = put 14 (f32Val (sqrtV (f32V x))) ∧
    exec (.cvtif d a w g) s = .next (s.resS 3 d w (intToF32 (s.rd a.toNat).toInt).1 (intToF32 (s.rd a.toNat).toInt).2).advance ∧
    exec (.cvtnf d a w g) s = .next (s.resS 3 d w (intToF32 (s.rd a.toNat).toNat).1 (intToF32 (s.rd a.toNat).toNat).2).advance ∧
    exec (.cvtfi d a w g) s = .next (s.resS 3 d w (f32ToI64 0 (s.rd a.toNat)).1 (f32ToI64 0 (s.rd a.toNat)).2).advance ∧
    exec (.cvtfiz d a w g) s = .next (s.resS 3 d w (f32ToI64 2 (s.rd a.toNat)).1 (f32ToI64 2 (s.rd a.toNat)).2).advance)

/-- R20, R23, R70 and R72: a result lands in its register and in no other; s0 and p0 discard what is written to them and
read 0 and 1; the latch named by the issue cycle takes the value only if no group switch came since; its flags are ORed
into FLG. -/
def Obligations.ResultsLand : Prop :=
  ∀ (c : Core) (p : Pend) (n : Nat) (v : Word) (k ser : Nat) (u : Word), n < 56 → k < 8 →
    p.writes = [.s n v] → p.latchS = some (k, ser, u) → p.latchV = none →
    (n ≠ 0 → (c.land p).seq.phys n = v) ∧ (c.land p).seq.phys 0 = 0 ∧
    (∀ i, i ≠ n → (c.land p).seq.phys i = c.seq.phys i) ∧ (c.land p).seq.preg = c.seq.preg ∧
    vget (c.land p).seq.latch k none = (if (c.seq.regs .s).gser = ser then some u else vget c.seq.latch k none) ∧
    (∀ i, i ≠ k → vget (c.land p).seq.latch i none = vget c.seq.latch i none) ∧
    (c.land p).flg = c.flg ||| p.flags ∧ (c.land p).seq.strm = c.seq.strm ∧
    (c.land p).vec = c.vec ∧ (c.land p).mat = c.mat ∧ (c.land p).scr = c.scr ∧ (c.land p).tset = c.tset ∧
    (∀ (j : Nat) (t : Bool), j < 8 → (c.seq.setP j t).readP 0 = true ∧ (j ≠ 0 → (c.seq.setP j t).readP j = t) ∧
      (∀ i, i < 8 → i ≠ j → (c.seq.setP j t).readP i = c.seq.readP i))

/-- R23: of results due in one ec in one register, the one of the later stream in the order S, V, M, T stays, and within
one stream that of the younger word. -/
def Obligations.LaterResultStays : Prop :=
  ∀ (c : Core) (p q : Pend) (n : Nat) (v u : Word), 0 < n → n < 56 → p.due = q.due →
    p.writes = [.s n v] → q.writes = [.s n u] →
    (p.strm.idx < q.strm.idx ∨ (p.strm.idx = q.strm.idx ∧ p.seq < q.seq)) →
    ((landOrder [p, q]).foldl Core.land c).seq.phys n = u ∧ ((landOrder [q, p]).foldl Core.land c).seq.phys n = u

/-! ## What every word is subject to -/

/-- R32 and R40: a word whose guard is false has no effect; it only passes. Before that it may be illegal, or name what is
not declared, or be privileged (R31). -/
def Obligations.NullifiedWords : Prop :=
  ∀ (i : Instr) (g : BitVec 4) (n : Bool) (s : State), i.guard? = some (g, n) → (s.m.seq? s.cur).isSome = true →
    s.guard g n = false →
    ∃ t, exec i s = .next t ∧ (t = s.fall s ∨ ∃ c, (c = 0x01 ∨ c = 0x02 ∨ c = 0x12) ∧ t = s.raise { cause := c })

/-- R31, checks 4 and 5, and R13: a word that names a register, barrier, group or slot beyond the declaration raises 0x02, a
privileged word of a job that is not privileged 0x12, and a word past which the section ends 0x02, with none of its effect,
whatever its guard. -/
def Obligations.UndeclaredAndPrivilegedWords : Prop :=
  ∀ (s : State) (d a : BitVec 6) (va vb : BitVec 7) (vd : BitVec 6) (bid grp sl : BitVec 8) (reg : BitVec 12) (x : Bool)
    (g : BitVec 4) (n : Bool), (s.m.seq? s.cur).isSome = true →
  (Need.ok s.hdr s.regs.rrb (.s d.toNat) = false → exec (.addi d a 0 g) s = .next (s.raise { cause := 0x02 })) ∧
  (Need.ok s.hdr s.regs.rrb (.v vd.toNat) = false → exec (.vadd vd va vb x false g) s = .next (s.raise { cause := 0x02 })) ∧
  (s.hdr.nbar ≤ bid.toNat → exec (.barWait g n bid 0) s = .next (s.raise { cause := 0x02 })) ∧
  (s.hdr.ngrp ≤ grp.toNat → exec (.rdvFin grp) s = .next (s.raise { cause := 0x02 })) ∧
  (s.hdr.nosl ≤ sl.toNat → exec (.mclm sl g) s = .next (s.raise { cause := 0x02 })) ∧
  (s.hdr.priv = false → (sn [a.toNat]).all (fun d => d.ok s.hdr s.regs.rrb) = true →
    (0x800 ≤ reg.toNat → exec (.mfsr g n a reg) s = .next (s.raise { cause := 0x12 }) ∧
      exec (.mtsr g n a reg) s = .next (s.raise { cause := 0x12 })) ∧
    exec (.tlbi g n a) s = .next (s.raise { cause := 0x12 }) ∧ exec (.halt g n) s = .next (s.raise { cause := 0x12 })) ∧
  (s.falls = false → s.guard g n = true → exec (.waitc g n 1) s = .next (s.raise { cause := 0x02 }))

/-- What a word that only gives results leaves unchanged (R23, R143-R154, R164, R168-R189): every other gang and core, all
memory, and in its own core every register, flag, mask, latch, tile and special register. The result is on its way, and
nothing else. -/
def Obligations.ResultWordsFrame : Prop :=
  ∀ (i : Instr) (s t : State) (g r : Nat) (st : Stream), i.resultOnly = true → s.cur = .core g r st → exec i s = .next t →
    OnlyResults s t g r st

/-- What a load, store, atomic, FENCE, VLD or VST leaves unchanged while it issues: every byte of every memory, but for what the
access counters write for a virtual device whose pages are counted, its notification ring (R374) and its regions' counters in the
kernel's table (R408, log entry 81), and their mirror copies; and every register of every core but the results on their way, when the
core has no access still queued and no release waits on an access (older accesses that the rules of R264 and R271 put before it leave
their queue with it; and so do those that a release it reads has not waited for, R270). With the ring full and no mirror region no
byte changes at all. A store's bytes change at its commit point alone. -/
def Obligations.MemoryWordsFrame : Prop :=
  ∀ (s t : State) (g r : Nat) (st : Stream) (d a b : BitVec 6) (cls sco j : BitVec 3) (sem : BitVec 2) (off : BitVec 6)
    (o5 : BitVec 5) (tf u : Bool) (gd : BitVec 4) (i : Instr), s.cur = .core g r st →
    (∀ p ∈ s.m.queue, ∀ st', p.2.who ≠ .agent (.core g r st')) → s.m.early = [] → ptrSpace (s.rd a.toNat) ≠ 15 →
    i ∈ [.ldb d a cls sem sco off gd, .ldbn d a cls sem sco off gd, .ldh d a cls sem sco off gd, .ldhn d a cls sem sco off gd,
      .ldw d a cls sem sco off gd, .ldwn d a cls sem sco off gd, .ldd d a cls sem sco off gd, .stb d a cls sem sco off gd,
      .sth d a cls sem sco off gd, .stw d a cls sem sco off gd, .std d a cls sem sco off gd, .fence cls sem sco gd,
      .vld d a cls tf u o5 gd, .vst d a cls u o5 gd, .ldl d a cls sem sco j gd, .aadd d a b sem sco gd, .amin d a b sem sco gd,
      .amax d a b sem sco gd, .aminn d a b sem sco gd, .amaxn d a b sem sco gd, .aand d a b sem sco gd, .aor d a b sem sco gd,
      .aswap d a b sem sco gd, .casW d a b sem sco gd, .casD d a b sem sco gd] →
    exec i s = .next t →
    let ring := (s.m.vd s.vd).nqbase.toNat
    let counted (n : Nat) : Prop := (ring ≤ n ∧ n < ring + 4096) ∨ ∃ r region, s.m.mgmt.mirror = some r ∧
      let p := r.die * 2 ^ 44 + r.base + Config.counterPlace s.vd region % r.size
      p ≤ n ∧ n < p + 8
    SameBytes { s.m with dev := [], host := [] } { t.m with dev := [], host := [] } ∧
    (∀ n, ¬ counted n → (∀ k, counted k → s.m.mgmt.mirror.bind (·.twin k) ≠ some n) →
      Memory.get t.m.dev n = Memory.get s.m.dev n) ∧
    (∀ n, (∀ k j, k < 256 → j < 16 → hostUnit (ring + 16 * k) = true → n ≠ (ring + 16 * k) % 2 ^ 44 + j) →
      Memory.get t.m.host n = Memory.get s.m.host n) ∧
    ((s.m.vd s.vd).nqFull = true → s.m.mgmt.mirror = none → SameBytes s.m t.m) ∧
    ∀ h k c, s.m.core? h k = some c → ∃ c', t.m.core? h k = some c' ∧ SameCore c c'

/-! ## Places, loads and stores -/

/-- R19, R156, R112: a pointer into scratchpad is reached by the S stream when its rank lies within the gang and the bytes
within 2 MiB, else it faults 0x03; misaligned it faults 0x06; beyond the declared limit 0x02. The place is the rank's
scratchpad; the own rank's has latency 4, another's 28 (R47). -/
def Obligations.ScratchpadPlaces : Prop :=
  ∀ (s : State) (k r : Nat) (p : Word) (o : Int) (size : Nat) (kind : AccKind), s.cur = .core k r .s → ptrSpace p = 1 →
    0 < size →
    (ptrRank p < s.m.gangSize s.cur ∧ 0 ≤ o ∧ o + size ≤ 2 ^ 21 →
      (o % size = 0 ∧ beyond s.hdr o.toNat size = false → s.reach .s s.tlb p o size size kind =
        .ok { loc := .scr k (ptrRank p) o.toNat, lat := if ptrRank p = r then 4 else 28, m := s.m }) ∧
      (o % size ≠ 0 → s.reach .s s.tlb p o size size kind = .error (.fault { cause := 0x06, addr := p })) ∧
      (o % size = 0 ∧ beyond s.hdr o.toNat size = true →
        s.reach .s s.tlb p o size size kind = .error (.fault { cause := 0x02, addr := p }))) ∧
    (¬ (ptrRank p < s.m.gangSize s.cur ∧ 0 ≤ o ∧ o + size ≤ 2 ^ 21) →
      s.reach .s s.tlb p o size size kind = .error (.fault { cause := 0x03, addr := p }))

/-- R155-R157, R159, R247: each load's address is s[A] + OFF · size; where it is reached, and its page holds no tree, the
load is performed or queued and its result, extended as the word says, comes with its reply at R47's latency; a read of
SYS gives the register with latency 8, after the older accesses that the classes and fences put before it have left their queues (log
entry 83), and one with .acq is an acquire too. Where it is not reached, the word faults or waits with no effect. LDL reads the level-j
average of the block, in the own scratchpad through its lens, or on a tree page of GLB; another rank's scratchpad, a place without a tree
and a level beyond its depth give 0x13, an element at a wrong address 0x06. -/
def Obligations.Loads : Prop :=
  ∀ (s : State) (d a : BitVec 6) (cls : BitVec 3) (sem : BitVec 2) (sco : BitVec 3) (off : BitVec 6) (j : BitVec 3)
    (g : BitVec 4), Runs s (sn [d.toNat, a.toNat]) g →
  let p0 := s.rd a.toNat
  let went (m : Mach) (p : Word) (r : Reach) (op : Nat → QOp) (lat size : Nat) (sx : Bool) : State :=
    let n := m.newReply (.agent s.cur) 1
    State.resReply (State.startRead { s with m := n.2 } (s.entry r p cls sem sco (op n.1)) 16 n.1) lat d n.1 size sx
  let loads (size : Nat) (sx : Bool) (i : Instr) : Prop :=
    let o : Int := ptrOff p0 + off.toNat * size
    let p := ptrAt p0 o
    (ptrSpace p0 ≠ 15 ∨ s.onLoupe = true →
      (∀ r, s.reach s.engine s.tlb p o size size .read = .ok r → leafDepth r.leaf = 0 →
        exec i s = .next (went r.m p r (.load size · 0) r.lat size sx).advance) ∧
      (∀ r, s.reach s.engine s.tlb p o size size .read = .ok r → leafDepth r.leaf ≠ 0 →
        exec i s = .next (s.raise { cause := 0x13, addr := p, walked := true })) ∧
      (∀ e, s.reach s.engine s.tlb p o size size .read = .error e → exec i s = .next (s.stopped e))) ∧
    (ptrSpace p0 = 15 ∧ s.onLoupe = false →
      (∀ k, s.sysReach p o size true = .ok k →
        let u := s.sysOrder k cls sem (.load 8 0 0)
        let t := if bit sem 0 then u.sysAcquire else u
        exec i s = .next (t.resS 8 d false (t.sysRead k)).advance) ∧
      (∀ e, s.sysReach p o size true = .error e → exec i s = .next (s.stopped e)))
  loads 1 true (.ldb d a cls sem sco off g) ∧ loads 1 false (.ldbn d a cls sem sco off g) ∧
  loads 2 true (.ldh d a cls sem sco off g) ∧ loads 2 false (.ldhn d a cls sem sco off g) ∧
  loads 4 true (.ldw d a cls sem sco off g) ∧ loads 4 false (.ldwn d a cls sem sco off g) ∧
  loads 8 false (.ldd d a cls sem sco off g) ∧
  (ptrSpace p0 = 1 → ptrRank p0 < s.m.gangSize s.cur → ptrOff p0 + 1 ≤ 2 ^ 21 → s.engine = .s →
    let o := exec (.ldl d a cls sem sco j g) s
    let r : Reach := { loc := .scr s.gno (ptrRank p0) (ptrOff p0), lat := 4, m := s.m }
    (ptrRank p0 ≠ s.rank → o = .next (s.raise { cause := 0x13, addr := p0 })) ∧
    (s.ldlTree p0 0 = none → o = .next (s.raise { cause := 0x13, addr := p0 })) ∧
    (∀ ty L, s.ldlTree p0 0 = some (ty, L) →
      (L < j.toNat → o = .next (s.raise { cause := 0x13, addr := p0 })) ∧
      (j.toNat ≤ L → ptrOff p0 % tyBytes ty.toNat ≠ 0 → o = .next (s.raise { cause := 0x06, addr := p0 })) ∧
      (j.toNat ≤ L → ptrOff p0 % tyBytes ty.toNat = 0 →
        (beyond s.hdr (ptrOff p0) (tyBytes ty.toNat) = true → o = .next (s.raise { cause := 0x02, addr := p0 })) ∧
        (beyond s.hdr (ptrOff p0) (tyBytes ty.toNat) = false →
          o = .next (went s.m p0 { r with loc := r.loc.block (2 ^ L * tyBytes ty.toNat) } (.ldl ty L j.toNat ·) 10 8 false).advance)))) ∧
  (ptrSpace p0 = 0 →
    let o := exec (.ldl d a cls sem sco j g) s
    (∀ e, s.reach s.engine s.tlb p0 (ptrOff p0) 1 1 .read = .error e → o = .next (s.stopped e)) ∧
    (∀ r, s.reach s.engine s.tlb p0 (ptrOff p0) 1 1 .read = .ok r →
      let L := leafDepth r.leaf
      let es := tyBytes (leafType r.leaf)
      (L = 0 ∨ L < j.toNat → o = .next (s.raise { cause := 0x13, addr := p0, walked := true })) ∧
      (L ≠ 0 → j.toNat ≤ L → ptrOff p0 % es ≠ 0 → o = .next (s.raise { cause := 0x06, addr := p0, walked := true })) ∧
      (L ≠ 0 → j.toNat ≤ L → ptrOff p0 % es = 0 →
        o = .next (went r.m p0 { r with loc := r.loc.block (2 ^ L * tyBytes (BitVec.ofNat 4 (leafType r.leaf)).toNat) }
          (.ldl (BitVec.ofNat 4 (leafType r.leaf)) L j.toNat ·) (r.lat + 6) 8 false).advance)))

/-- R155-R159: each store's address is s[A] + OFF · size; where it is reached, the low bytes of s[D], little-endian, are on
their way to it: into the own bank at the end of the ec, else through the queue of their class. A store to SYS writes the
register, after the older accesses of the stream that the classes and fences put before it, with .rel after every one (log entry 83). -/
def Obligations.Stores : Prop :=
  ∀ (s : State) (d a : BitVec 6) (cls : BitVec 3) (sem : BitVec 2) (sco : BitVec 3) (off : BitVec 6) (g : BitVec 4),
    Runs s (sn [d.toNat, a.toNat]) g →
  let p0 := s.rd a.toNat
  let stores (size : Nat) (i : Instr) : Prop :=
    let o : Int := ptrOff p0 + off.toNat * size
    let p := ptrAt p0 o
    (ptrSpace p0 ≠ 15 ∨ s.onLoupe = true →
      (∀ r, s.reach s.engine s.tlb p o size size .write = .ok r → leafDepth r.leaf = 0 →
        exec i s = .next (State.startWrite { s with m := r.m }
          (s.entry r p cls sem sco (.store (offs (natLE size (s.rd d.toNat).toNat)))) 16).advance) ∧
      (∀ r, s.reach s.engine s.tlb p o size size .write = .ok r → leafDepth r.leaf ≠ 0 →
        exec i s = .next (s.raise { cause := 0x13, addr := p, walked := true })) ∧
      (∀ e, s.reach s.engine s.tlb p o size size .write = .error e → exec i s = .next (s.stopped e))) ∧
    (ptrSpace p0 = 15 ∧ s.onLoupe = false →
      (∀ k, s.sysReach p o size false = .ok k →
        let u := s.sysOrder k cls sem (.store [])
        exec i s = .next (State.advance (State.sysWrite
          (if bit sem 1 then u.sysRelease (scopeAt false 15 sco.toNat) else u) k (s.rd d.toNat)))) ∧
      (∀ e, s.sysReach p o size false = .error e → exec i s = .next (s.stopped e)))
  stores 1 (.stb d a cls sem sco off g) ∧ stores 2 (.sth d a cls sem sco off g) ∧ stores 4 (.stw d a cls sem sco off g) ∧
  stores 8 (.std d a cls sem sco off g)

/-- R278-R283: an AMO or CAS reached at s[A] is performed at the end of the ec on a scratchpad of the gang, else queued, and
its old value comes with its reply; a FENCE takes its place in the queues and never stops issue. -/
def Obligations.AtomicsAndFences : Prop :=
  ∀ (s : State) (d a b : BitVec 6) (cls : BitVec 3) (sem : BitVec 2) (sco : BitVec 3) (g : BitVec 4),
  let p := s.rd a.toNat
  let went (size : Nat) (op : Nat → QOp) (i : Instr) : Prop :=
    (∀ r lat, s.atomic p size = .ok (r, lat) →
      let n := r.m.newReply (.agent s.cur) 1
      exec i s = .next (((State.startAmo { s with m := n.2 } (s.entry r p 0 sem sco (op n.1)) 16).resReply lat d n.1 size
        false).advance)) ∧
    (∀ e, s.atomic p size = .error e → exec i s = .next (s.stopped e))
  (Runs s (sn [d.toNat, a.toNat, b.toNat]) g →
    went 8 (.amo 0 (s.rd b.toNat) ·) (.aadd d a b sem sco g) ∧ went 8 (.amo 1 (s.rd b.toNat) ·) (.amin d a b sem sco g) ∧
    went 8 (.amo 2 (s.rd b.toNat) ·) (.amax d a b sem sco g) ∧ went 8 (.amo 3 (s.rd b.toNat) ·) (.aminn d a b sem sco g) ∧
    went 8 (.amo 4 (s.rd b.toNat) ·) (.amaxn d a b sem sco g) ∧ went 8 (.amo 5 (s.rd b.toNat) ·) (.aand d a b sem sco g) ∧
    went 8 (.amo 6 (s.rd b.toNat) ·) (.aor d a b sem sco g) ∧ went 8 (.amo 7 (s.rd b.toNat) ·) (.aswap d a b sem sco g) ∧
    went 4 (.cas 4 (s.rd d.toNat) (s.rd b.toNat) ·) (.casW d a b sem sco g) ∧
    went 8 (.cas 8 (s.rd d.toNat) (s.rd b.toNat) ·) (.casD d a b sem sco g)) ∧
  (Runs s [] g → ∃ q : QEntry, q.who = .agent s.cur ∧ q.op = .fence ∧ q.cls = cls ∧ q.acq = bit sem 0 ∧ q.rel = bit sem 1 ∧
    exec (.fence cls sem sco g) s = .next (State.advance { s with m := s.m.enqueue q 16 }))

/-- R264, R278, R282: a store to device memory that leaves its queue writes its bytes, in the mirror region to both copies
(R408), and no others; an AMO writes the sum, minimum, maximum, AND, OR or new value over the old doubleword; a CAS writes
only where the old value is the expected one; a store whose transfer has failed writes nothing (R412). Host memory and every Loupe
partition stand as they were, and, for an access that is no release or acquire of a core, every gang (the page unchecked, R323; no line
of device memory in error). -/
def Obligations.CommittedWrites : Prop :=
  (∀ (m : Mach) (id : Nat) (q : QEntry) (pa : Nat) (chk : Bool), q.loc = .dev pa → q.unit = 0 →
    m.faulty = [] →
    let t := m.perform id q chk
    let same : Prop := t.host = m.host ∧ t.dies = m.dies ∧ t.queue.map (·.1) = (tdel m.queue id).map (·.1) ∧
      (q.rel = false → q.acq = false → t.gangs = m.gangs ∧ t.vds = m.vds)
    let old := BitVec.ofNat 64 (leNat (Memory.read m.dev pa 8))
    (∀ f data, q.op = .store data → m.bad = some f → linkHits f pa q.op.size = true → t.dev = m.dev) ∧
    (m.bad = none →
    (∀ data, q.op = .store data → t.dev = (m.devStore pa data).dev ∧ same) ∧
    (∀ code b reply, q.op = .amo code b reply → t.dev = (m.devStore pa (offs (natLE 8 (amoNew code old b).toNat))).dev ∧ same) ∧
    (∀ size e n reply, q.op = .cas size e n reply →
      t.dev = (if leNat (Memory.read m.dev pa size) = e.toNat % 2 ^ (8 * size)
        then (m.devStore pa (offs (natLE size n.toNat))).dev else m.dev) ∧ same) ∧
    (∀ size reply off, q.op = .load size reply off → t.dev = m.dev ∧ same)) ∧
    (∀ b : Word, amoNew 0 old b = old + b ∧ amoNew 1 old b = BitVec.ofInt 64 (min old.toInt b.toInt) ∧
      amoNew 2 old b = BitVec.ofInt 64 (max old.toInt b.toInt) ∧ amoNew 3 old b = BitVec.ofNat 64 (min old.toNat b.toNat) ∧
      amoNew 4 old b = BitVec.ofNat 64 (max old.toNat b.toNat) ∧ amoNew 5 old b = old &&& b ∧ amoNew 6 old b = old ||| b ∧
      amoNew 7 old b = b)) ∧
  (∀ (m : Mach) (pa n : Nat) (bs : List Byte), Memory.wf m.dev = true →
    let t := m.devStore pa (offs bs)
    let out (a : Nat) : Prop := n < a ∨ a + bs.length ≤ n
    (m.mgmt.mirror = none → Memory.read t.dev pa bs.length = bs ∧ (out pa → Memory.get t.dev n = Memory.get m.dev n)) ∧
    (∀ r : Mirror, m.mgmt.mirror = some r → r.die < 4 → r.base + r.size ≤ 2 ^ 44 →
      let lo := r.die * 2 ^ 44 + r.base
      let mir := (r.die + 2) % 4 * 2 ^ 44 + (pa - r.die * 2 ^ 44)
      (lo ≤ pa → pa + bs.length ≤ lo + r.size → Memory.read t.dev pa bs.length = bs ∧ Memory.read t.dev mir bs.length = bs ∧
        (out pa → out mir → Memory.get t.dev n = Memory.get m.dev n)) ∧
      (pa + bs.length ≤ lo ∨ lo + r.size ≤ pa → Memory.read t.dev pa bs.length = bs ∧
        (out pa → Memory.get t.dev n = Memory.get m.dev n))))

/-- R3: bytes are written and read little-endian; a read of what was written gives it back; a write changes no byte outside
the bytes it writes, in the memory written to or in any other. -/
def Obligations.ReadAfterWrite : Prop :=
  (∀ (mem : Memory) (a n x : Nat), Memory.wf mem = true → leNat (Memory.read (Memory.write mem a (natLE n x)) a n) = x % 2 ^ (8 * n)) ∧
  (∀ (mem : Memory) (a : Nat) (bs : List Byte) (k : Nat), k < a ∨ a + bs.length ≤ k →
    Memory.get (Memory.write mem a bs) k = Memory.get mem k) ∧
  (∀ (m : Mach) (g r o : Nat) (data : List (Nat × Byte)) (h k n : Nat), (m.core? g r).isSome = true →
    (h, k) ≠ (g, r) ∨ (∀ p ∈ data, n ≠ o + p.1) →
    ((m.writeLoc (.scr g r o) data).core? h k).map (fun c => Memory.get c.scr n) =
      (m.core? h k).map (fun c => Memory.get c.scr n)) ∧
  (∀ (m : Mach) (l : Loc) (n : Nat), Memory.wf m.dev = true → Memory.wf m.host = true → (∃ pa, l = .dev pa) ∨ (∃ a, l = .host a) →
    n ≤ 2 ^ 44 → ∀ bs : List Byte, bs.length = n → (m.writeLoc l (offs bs)).readLoc l n = bs)

/-! ## Control words -/

/-- R84: the target of a taken BR, CALL, JMPR or LOOP back-edge is PC + sext(OFF18), or the scalar's value as a natural
number (in V, M and T by code 0 the stream's LNK, R88); when it is negative, or at or beyond the stream's declared code
size, the word raises 0x02 and has no effect. -/
def Obligations.ControlTargets : Prop :=
  ∀ (s : State) (g : BitVec 4) (n : Bool) (off : BitVec 18) (t l : BitVec 6),
  let tgt : Int := s.regs.pc.toNat + off.toInt
  let onS : Bool := match s.cur.strm with | .s | .l => true | _ => false
  let size : Int := ((vget s.hdr.csz s.cur.strm.idx 0 : Nat) : Int)
  let reg : Int := if t = 0 ∧ onS = false then (s.regs.lnk.toNat : Int) else ((s.issued.rd t.toNat).toNat : Int)
  let at_ (i : Instr) (tgt : Int) : Prop :=
    (0 ≤ tgt ∧ tgt < size → GoesTo (exec i s) (fun u => u.regs.pc = BitVec.ofInt 14 tgt)) ∧
    (tgt < 0 ∨ size ≤ tgt → exec i s = .next (s.raise { cause := 0x02 }))
  (Passes s [] g n → at_ (.br g n off) tgt ∧ (s.regs.lc ≠ 0 ∨ s.regs.es ≠ 0 → at_ (.loop g n off) tgt)) ∧
  (Passes s (if onS then sn [1] else []) g n → at_ (.call g n off) tgt) ∧
  (Passes s (sn ([t.toNat] ++ (if l = 0 then [] else [l.toNat]))) g n →
    at_ (.jmpr g n t l) reg)

/-- R85-R88 and R71: a taken BR costs one bubble, CALL and JMPR two; the stream's next word starts a new group at cycle 0,
with its latches undefined. The link PC + 1 goes to s1, or to the named scalar in S, usable from the next ec and in no
latch (R87 says it of CALL's link; that JMPR's leaves none either is log entry 49); in V, M and T it goes to LNK, whose 14 bits hold 0
after a CALL in word 16383 (the model's choice, log entry 49). On a Loupe core the link is in its register at once (log entry 10). -/
def Obligations.TakenBranches : Prop :=
  ∀ (s : State) (g : BitVec 4) (n : Bool) (off : BitVec 18) (t l : BitVec 6) (k r : Nat) (st : Stream),
    s.cur = .core k r st → (s.m.core? k r).isSome = true →
  let tgt : Int := s.regs.pc.toNat + off.toInt
  let new (b : Nat) (u : State) : Prop := u.regs.bub = b ∧ u.regs.gcyc = 0 ∧ u.regs.gser = s.regs.gser + 1 ∧
    u.regs.lc = s.regs.lc ∧ u.regs.es = s.regs.es ∧ u.regs.q = s.regs.q ∧ u.regs.rrb = s.regs.rrb ∧
    (st = .s → ∀ j, j < 8 → vget u.seq.latch j none = none) ∧
    (st = .v → ∀ j, j < 8 → vget u.core.vec.latch j none = none)
  let link (x : Nat) (u : State) : Prop :=
    if st = .s then u.regs.lnk = s.regs.lnk ∧ ∃ p, u.core.seq.pend = s.core.seq.pend ++ [p] ∧ p.due = s.ec + 1 ∧ p.latchS = none ∧
      p.writes = [.s (physS s.regs.rrb x) (BitVec.ofNat 64 (s.regs.pc.toNat + 1))]
    else u.regs.lnk = s.regs.pc + 1 ∧ u.core.seq.pend = s.core.seq.pend
  let no (u : State) : Prop := u.regs.lnk = s.regs.lnk ∧ u.core.seq.pend = s.core.seq.pend
  let ok : Prop := 0 ≤ tgt ∧ tgt < ((vget s.hdr.csz st.idx 0 : Nat) : Int)
  (Passes s [] g n → ok → GoesTo (exec (.br g n off) s) (fun u => new 1 u ∧ no u)) ∧
  (Passes s (if st = .s then sn [1] else []) g n → st ≠ .l → ok → GoesTo (exec (.call g n off) s) (fun u => new 2 u ∧ link 1 u)) ∧
  (st = .s → Passes s (sn ([t.toNat] ++ (if l = 0 then [] else [l.toNat]))) g n →
    (s.issued.rd t.toNat).toNat < vget s.hdr.csz 0 0 →
    GoesTo (exec (.jmpr g n t l) s) (fun u => new 2 u ∧ if l = 0 then no u else link l.toNat u)) ∧
  (st = .v ∨ st = .m ∨ st = .t → Passes s (sn [0]) g n → s.regs.lnk.toNat < vget s.hdr.csz st.idx 0 →
    GoesTo (exec (.jmpr g n 0 0) s) (fun u => new 2 u ∧ no u ∧ u.regs.pc = s.regs.lnk)) ∧
  (∀ (q : State) (d i c : Nat), q.cur = .loupe d i c →
    let tgt : Int := q.regs.pc.toNat + off.toInt
    let size := vget q.hdr.csz 0 0
    let goes (b : Nat) (pc : BitVec 14) (x : Option Nat) (u : State) : Prop := u.regs.pc = pc ∧ u.regs.bub = b ∧ u.regs.gcyc = 0 ∧
      u.regs.gser = q.regs.gser + 1 ∧ (∀ j, j < 8 → vget u.seq.latch j none = none) ∧
      ∀ k, k < 56 → u.seq.phys k =
        if x.map (physS q.regs.rrb) = some k then BitVec.ofNat 64 (q.regs.pc.toNat + 1) else q.seq.phys k
    (0 ≤ tgt → tgt < (size : Int) →
      (Passes q [] g n → GoesTo (exec (.br g n off) q) (goes 1 (BitVec.ofInt 14 tgt) none)) ∧
      (Passes q (sn [1]) g n → GoesTo (exec (.call g n off) q) (goes 2 (BitVec.ofInt 14 tgt) (some 1)))) ∧
    (Passes q (sn ([t.toNat] ++ (if l = 0 then [] else [l.toNat]))) g n → (q.issued.rd t.toNat).toNat < size →
      GoesTo (exec (.jmpr g n t l) q)
        (goes 2 (BitVec.ofNat 14 (q.issued.rd t.toNat).toNat) (if l = 0 then none else some l.toNat))))

/-- R89 and R90: LSET loads the loop registers from the count, RRB unchanged, and faults 0x07 on a count above 2^32; LOOP
counts LC down and then ES, shifts a 1 or a 0 into the stage predicates, steps RRB and goes back, and at the end of both
falls through with nothing changed but the PC. A back-edge is no group switch. -/
def Obligations.LoopWords : Prop :=
  ∀ (s : State) (g : BitVec 4) (n : Bool) (c : BitVec 6) (stages : BitVec 4) (imm : BitVec 8) (off : BitVec 18),
  let count := (s.rd c.toNat).toNat + imm.toNat
  let r := s.regs
  let tgt : Int := r.pc.toNat + off.toInt
  let after (u : State) (pc : BitVec 14) (lc : BitVec 32) (es : BitVec 3) (q : BitVec 8) (rrb : BitVec 5) : Prop :=
    u.regs = { r with pc := pc, lc := lc, es := es, q := q, rrb := rrb, gcyc := r.gcyc + 1 }
  (Runs s (sn [c.toNat]) g n →
    (count = 0 → GoesTo (exec (.lset g n c stages imm) s)
      (fun u => after u (r.pc + 1) 0 (BitVec.ofNat 3 (stages.toNat - 1)) 0 r.rrb)) ∧
    (0 < count ∧ count ≤ 2 ^ 32 → GoesTo (exec (.lset g n c stages imm) s)
      (fun u => after u (r.pc + 1) (BitVec.ofNat 32 (count - 1)) (BitVec.ofNat 3 (stages.toNat - 1)) 1 r.rrb)) ∧
    (2 ^ 32 < count → exec (.lset g n c stages imm) s = .next (s.raise { cause := 0x07 }))) ∧
  (Passes s [] g n →
    (r.lc ≠ 0 → 0 ≤ tgt ∧ tgt < ((vget s.hdr.csz s.cur.strm.idx 0 : Nat) : Int) → GoesTo (exec (.loop g n off) s)
      (fun u => after u (BitVec.ofInt 14 tgt) (r.lc - 1) r.es ((r.q <<< 1) ||| 1) (r.rrb + 1))) ∧
    (r.lc = 0 → r.es ≠ 0 → 0 ≤ tgt ∧ tgt < ((vget s.hdr.csz s.cur.strm.idx 0 : Nat) : Int) → GoesTo (exec (.loop g n off) s)
      (fun u => after u (BitVec.ofInt 14 tgt) 0 (r.es - 1) (r.q <<< 1) (r.rrb + 1))) ∧
    (r.lc = 0 → r.es = 0 → s.falls = true → GoesTo (exec (.loop g n off) s)
      (fun u => after u (r.pc + 1) 0 0 r.q r.rrb)))

/-- R55, R73, R92-R96, R204: EXIT ends the stream and notes a code other than 0 in its job, where the first of two codes in the
order of R93 stays; M's end gives up the lease and the ladder. WAITC keeps the stream from issuing for n ec in all; YIELD, PHASE and
LEASE note their request in the ec. An RDV of a member stream, of whose core no other join and none of the other form is open, stands
arrived at the join, which it opens if it is the first there; else it is a schedule fault 0x07. Two clauses are the model's: the PC
that a stream which has ended or arrived stands with, the EXIT's and RDV.fin's own and the word after an RDV.mid (log entry 71), and
that the open joins looked at are those of the state the word runs in (log entry 48). -/
def Obligations.StreamWords : Prop :=
  ∀ (s : State) (g : BitVec 4) (n : Bool) (cnt : BitVec 18) (k : BitVec 4) (lc : BitVec 5) (code : BitVec 16) (grp : BitVec 8),
  let base := ((s.m.jobOf s.cur).map (·.grpBase)).getD 0
  let member : Prop := s.m.inGroup s.cur (s.m.group s.cur grp.toNat) = true
  let free (fin : Bool) : Prop := ∀ p ∈ (s.m.vd s.vd).joins, base ≤ p.1 → p.1 < base + s.hdr.ngrp →
    s.m.inGroup s.cur (s.m.group s.cur (p.1 - base)) = true → p.1 = base + grp.toNat ∧ p.2.fin = fin
  let stands (fin : Bool) (pc : BitVec 14) (u : State) : Prop := ∀ a r st, s.cur = .core a r st →
    u.regs.st = .arrived grp.toNat fin ∧ u.regs.pc = pc ∧
    ∃ p, tget (u.m.vd s.vd).joins (base + grp.toNat) = some p ∧ p.fin = fin ∧
      p.arrived = ((tget (s.m.vd s.vd).joins (base + grp.toNat)).map (·.arrived)).getD [] ++ [(a, r, st)]
  (Runs s [] g n → exec (.waitc g n cnt) s = .next (s.updRegs (fun r => { r with wait := cnt.toNat - 1 })).advance ∧
    exec (.phase g n k) s = .next (s.updIss (fun i => { i with phase := some k })).advance ∧
    exec (.lease g n lc) s = .next (s.updIss (fun i => { i with leases := i.leases ++ [(s.rank / 4, s.rank % 4, lc)] })).advance) ∧
  ((s.m.seq? s.cur).isSome = true → s.falls = true →
    exec .yield s = .next (s.updIss (fun i => { i with yields := i.yields ++ [(s.rank, s.cur.strm, s.regs.pc)] })).advance) ∧
  (∀ a r st, s.cur = .core a r st → Passes s [] g n →
    let x : ExitRec := { ec := s.ec, strm := st.idx, rank := r, gang := s.gang.idx.toNat, code := code }
    GoesTo (exec (.exit g n code) s) (fun u => (u.regs.st = .ended ∧ u.regs.pc = s.regs.pc) ∧
      (st = .m → u.mat.leasec = 0 ∧ u.mat.ladder = none) ∧ (∀ b, b ≠ a → u.m.gang? b = s.m.gang? b) ∧
      (u.m.jobOf s.cur).map (·.exit) = (s.m.jobOf s.cur).map (fun j => if code = 0 then j.exit else
        some (match j.exit with | none => x | some o => o.first x)))) ∧
  (∀ d i c, s.cur = .loupe d i c → Passes s [] g n → GoesTo (exec (.exit g n code) s)
    (fun u => (u.m.ctx? d i c).map (fun x => (x.run, x.exit)) = some (.ended, code))) ∧
  (∀ a r st, s.cur = .core a r st → (s.m.vd? s.vd).isSome = true → Passes s [.name (.grp grp.toNat)] 0 → member →
    (free true → GoesTo (exec (.rdvFin grp) s) (stands true s.regs.pc)) ∧
    (free false → s.falls = true → GoesTo (exec (.rdvMid grp) s) (stands false (s.regs.pc + 1)))) ∧
  (Passes s [.name (.grp grp.toNat)] 0 →
    (¬ member ∨ ¬ free true → exec (.rdvFin grp) s = .next (s.raise { cause := 0x07 })) ∧
    (¬ member ∨ ¬ free false → exec (.rdvMid grp) s = .next (s.raise { cause := 0x07 })))

/-! ## Barriers -/

/-- R284-R291 and R435: INIT of an idle barrier makes it active, not orphaned and not broken, its live and expected members
counted and every arrival record of its members cleared, the generation kept; one in use faults 0x07. EXPB adds bytes to the
current phase, or to the next for a member that has arrived; a sum of 2^56 or more faults 0x0C. ARV makes the arrival of a
member that may arrive, noted in its record and queued as a release, and is 0x07 for another. WAIT ends at once, with an
acquire, when the phase it waits for has passed; else it freezes the gang, or holds the Loupe program. AW is an ARV and a
WAIT. A barrier that is not initialised faults 0x07, an orphaned one 0x0B, a broken one 0x0C. -/
def Obligations.BarrierWords : Prop :=
  ∀ (s : State) (g : BitVec 4) (n : Bool) (bid : BitVec 8) (sc : BitVec 6) (sco : BitVec 3),
  let k := s.barIdx bid
  let b := s.m.bar s.vd k
  let v := (s.rd sc.toNat).toNat
  let sound : Prop := b.act = true ∧ b.orph = false ∧ b.brk = false
  let member : Prop := s.m.inGroup s.cur (s.m.group s.cur b.group.toNat) = true
  let may : Prop := s.m.memberLive s.cur = true ∧ member ∧ s.m.arrRec s.cur bid.toNat ≠ some (b.gen + 1)
  let inited : Mach := s.m.barInit s.cur s.vd k bid.toNat v
  let arrived : State := { s with m := s.m.barArrive s.cur s.vd k bid.toNat sco s.ec s.regs.pc 11 }
  let gen := if s.m.inPhase s.cur s.vd k bid.toNat then b.gen + 1 else b.gen
  let stops (c : BitVec 8) : Prop := exec (.barExpb g n bid sc) s = .next (s.raise { cause := c }) ∧
    exec (.barArv g n bid sco) s = .next (s.raise { cause := c }) ∧
    exec (.barWait g n bid sco) s = .next (s.raise { cause := c }) ∧
    exec (.barAw g n bid sco) s = .next (s.raise { cause := c })
  (Runs s ([.name (.bar bid.toNat)] ++ sn [sc.toNat]) g n →
    (v < s.hdr.ngrp → s.m.barIdle s.vd k = true → exec (.barInit g n bid sc) s = .next (State.advance { s with m := inited })) ∧
    (v < s.hdr.ngrp → s.m.barIdle s.vd k = false → exec (.barInit g n bid sc) s = .next (s.raise { cause := 0x07 })) ∧
    (s.hdr.ngrp ≤ v → exec (.barInit g n bid sc) s = .next (s.raise { cause := 0x02 })) ∧
    (sound → s.m.inPhase s.cur s.vd k bid.toNat = false → b.pend + v < 2 ^ 56 → exec (.barExpb g n bid sc) s =
      .next (State.advance { s with m := s.m.updBar s.vd k (fun b => { b with pend := b.pend + v }) })) ∧
    (sound → s.m.inPhase s.cur s.vd k bid.toNat = true → b.hpend + v < 2 ^ 56 → exec (.barExpb g n bid sc) s =
      .next (State.advance { s with m := s.m.updBar s.vd k (fun b => { b with hpend := b.hpend + v }) })) ∧
    (sound → 2 ^ 56 ≤ (if s.m.inPhase s.cur s.vd k bid.toNat then b.hpend else b.pend) + v →
      exec (.barExpb g n bid sc) s = .next (s.raise { cause := 0x0C })) ∧
    (b.act = false → stops 0x07) ∧ (b.act = true → b.orph = true → stops 0x0B) ∧
    (b.act = true → b.orph = false → b.brk = true → stops 0x0C)) ∧
  (∀ j, s.m.jobOf s.cur = some j → (s.m.vd? s.vd).isSome = true →
    let l := s.m.members j (s.m.group s.cur v)
    let c := inited.bar s.vd k
    c.act = true ∧ c.orph = false ∧ c.brk = false ∧ c.group = BitVec.ofNat 8 v ∧ c.gen = b.gen ∧
    c.live = (l.filter (fun a => s.m.memberLive a)).length ∧ c.exp = c.live ∧
    (∀ a ∈ l, inited.arrRec a bid.toNat = none)) ∧
  (Runs s [.name (.bar bid.toNat)] g n → sound →
    (may → exec (.barArv g n bid sco) s = .next arrived.advance ∧
      exec (.barAw g n bid sco) s = .next (arrived.barWait bid sco).advance ∧
      arrived.m.arrRec s.cur bid.toNat = some gen ∧
      ∃ id q, arrived.m.queue = s.m.queue ++ [(id, q)] ∧ q.who = .agent s.cur ∧ q.op = .arrive s.vd k gen ∧ q.rel = true) ∧
    (¬ may → exec (.barArv g n bid sco) s = .next (s.raise { cause := 0x07 }) ∧
      exec (.barAw g n bid sco) s = .next (s.raise { cause := 0x07 })) ∧
    exec (.barWait g n bid sco) s = .next (s.barWait bid sco).advance) ∧
  (∀ ag, s.m.arrRec s.cur bid.toNat = some ag → member → b.passed ag = true →
    s.barWait bid sco = { s with m := s.m.barAcquire s.cur s.vd k ag sco }) ∧
  (∀ gen, (member ∧ s.m.arrRec s.cur bid.toNat = some gen ∧ b.passed gen = false) ∨
      ((¬ member ∨ s.m.arrRec s.cur bid.toNat = none) ∧ gen = b.gen) →
    (∀ a r st, s.cur = .core a r st → s.barWait bid sco = s.freeze (.barrier k gen sco)) ∧
    (∀ d i c, s.cur = .loupe d i c →
      s.barWait bid sco = { s with m := s.m.updCtx d i c (fun x => { x with run := .waiting k gen sco }) }))

/-- R285, R289, R293, R294: a phase completes when its arrivals equal the expected count with no bytes pending: the
generation steps, the next phase takes what waited in the horizon, and every live member is expected again. A generation has
passed when it lies 1 to 2^15 behind. A completed command subtracts its bytes from the phase it was bound to, and more than
are pending break the barrier. -/
def Obligations.BarrierPhases : Prop :=
  ∀ (m : Mach) (vd k : Nat), (m.vd? vd).isSome = true →
  let b := m.bar vd k
  (b.act = true → b.orph = false → b.brk = false → b.arr = b.exp → b.pend = 0 →
    let c := (m.testBar vd k).bar vd k
    c.gen = b.gen + 1 ∧ c.arr = b.harr ∧ c.pend = b.hpend ∧ c.harr = 0 ∧ c.hpend = 0 ∧ c.exp = b.live ∧ c.live = b.live ∧
    c.passed b.gen = true ∧ b.passed b.gen = false) ∧
  ((b.act = false ∨ b.orph = true ∨ b.brk = true ∨ b.arr ≠ b.exp ∨ b.pend ≠ 0) →
    let c := (m.testBar vd k).bar vd k
    c.gen = b.gen ∧ c.arr = b.arr ∧ c.pend = b.pend ∧ c.harr = b.harr ∧ c.hpend = b.hpend) ∧
  (∀ n, 0 < n →
    ((m.subBytes vd k b.gen n).bar vd k).pend = b.pend - n ∧
    ((m.subBytes vd k b.gen n).bar vd k).brk = (b.brk || decide (b.pend < n)) ∧
    ((m.subBytes vd k (b.gen + 1) n).bar vd k).hpend = b.hpend - n ∧
    ((m.subBytes vd k (b.gen + 1) n).bar vd k).brk = (b.brk || decide (b.hpend < n)))

/-! ## System registers -/

/-- R98-R101: MFSR gives the register as it stands in the issue ec, with latency 2, and MTSR writes it; below 0x800 any word
may, from 0x800 on one of a privileged job. TIME, CYC, FRZ, FLG, VW, LEASEC, the pattern register, the group numbers, the
registers of the streams, the versions of the tiles, WDOG, XBASE, XROOT, the notification queue's registers, FLOOR, the
pattern table, BARSEL and SHSEL read what they hold (TIME the reference itself: log entry 70; the PC of a stream that is ended, unused
or arrived the one it stands with: log entry 71). A write of S's own loop
registers acts at once; LNOTIFY queues a launch; the others come from the next ec on, by the event of the register. -/
def Obligations.SystemRegisterWords : Prop :=
  ∀ (s : State) (g : BitVec 4) (n : Bool) (d a : BitVec 6) (reg : BitVec 12),
  let pr : List Decl := if 0x800 ≤ reg.toNat then [.priv] else []
  (Runs s (sn [d.toNat] ++ pr) g n → exec (.mfsr g n d reg) s = .next (s.resS 2 d false (s.sysRead reg.toNat)).advance) ∧
  (Runs s (sn [a.toNat] ++ pr) g n → exec (.mtsr g n a reg) s = .next (s.sysWrite reg.toNat (s.rd a.toNat)).advance) ∧
  (∀ k r st, s.cur = .core k r st →
    let v := s.m.vd s.vd
    s.sysRead 0 = BitVec.ofNat 64 s.m.time ∧ s.sysRead 1 = BitVec.ofNat 64 s.gang.cyc ∧ s.sysRead 2 = BitVec.ofNat 64 s.gang.frz ∧
    s.sysRead 8 = s.core.flgWord ∧ s.sysRead 9 = s.core.vw.zeroExtend 64 ∧ s.sysRead 0xA = s.core.mat.leasec.zeroExtend 64 ∧
    (∀ j, j < 4 → s.sysRead (0x10 + j) = match vget s.core.gm j none with | none => 0 | some x => 0x100 ||| x.zeroExtend 64) ∧
    (∀ st' : Stream, s.sysRead (0x100 + 16 * st'.idx) = ((s.seq.regs st').pc.zeroExtend 64) ∧
      s.sysRead (0x101 + 16 * st'.idx) = ((s.seq.regs st').lc.zeroExtend 64) ∧
      s.sysRead (0x102 + 16 * st'.idx) = ((s.seq.regs st').es.zeroExtend 64) ∧
      s.sysRead (0x103 + 16 * st'.idx) = ((s.seq.regs st').rrb.zeroExtend 64) ∧
      s.sysRead (0x104 + 16 * st'.idx) = ((s.seq.regs st').q.zeroExtend 64) ∧
      s.sysRead (0x105 + 16 * st'.idx) = ((s.seq.regs st').lnk.zeroExtend 64)) ∧
    (∀ t, t < 8 → s.sysRead (0x200 + t) = (vget s.core.mat.tver t 0).zeroExtend 64) ∧
    s.sysRead 0x800 = v.wdog.zeroExtend 64 ∧
    (∀ j, j < 8 → s.sysRead (0x810 + j) = vget v.xbase j 0 ∧ s.sysRead (0x818 + j) = vget v.xroot j 0) ∧
    s.sysRead 0x820 = v.nqbase ∧ s.sysRead 0x821 = v.nqhead.zeroExtend 64 ∧ s.sysRead 0x822 = v.nqtail.zeroExtend 64 ∧
    s.sysRead 0x823 = v.nthr.zeroExtend 64 ∧ s.sysRead 0x825 = s.m.mgmt.floor.zeroExtend 64 ∧
    (∀ c, s.m.cluster? s.gang.die s.gang.cluster = some c →
      s.sysRead 0xB = ((c.capNow.zeroExtend 64 <<< 8) ||| (c.cur.zeroExtend 64 <<< 4) ||| s.gang.req.zeroExtend 64) ∧
      ∀ j, j < 16 → s.sysRead (0x840 + j) = (vget c.patNew j 0).zeroExtend 64) ∧
    s.sysRead 0x880 = v.barsel ∧ s.sysRead 0x882 = v.shsel ∧
    (∀ x : Word,
      let next (ev : Instr) : State := { s with m := s.m.schedule (.ec k) (s.ec + 1) ev }
      s.sysWrite 0x101 x = s.updRegs (fun q => { q with lc := x.truncate 32 }) ∧
      s.sysWrite 0x102 x = s.updRegs (fun q => { q with es := x.truncate 3 }) ∧
      s.sysWrite 0x103 x = s.updRegs (fun q => { q with rrb := x.truncate 5 }) ∧
      s.sysWrite 0x104 x = s.updRegs (fun q => { q with q := x.truncate 8 }) ∧
      s.sysWrite 8 x = next (.flgWrite k r x) ∧ s.sysWrite 9 x = next (.vwWrite k r x) ∧
      (∃ q : QEntry, q.op = .notify s.vd x ∧ q.rel = true ∧ q.sco = 4 ∧ s.sysWrite 0x20 x = { s with m := s.m.enqueue q 10 }) ∧
      s.sysWrite 0x800 x = next (.wdogWrite s.vd x) ∧ s.sysWrite 0x821 x = next (.nqheadWrite s.vd x) ∧
      s.sysWrite 0x824 x = next (.nackWrite s.vd x) ∧ s.sysWrite 0x830 x = next .khbWrite ∧
      s.sysWrite 0x831 x = next .kpanicWrite ∧ s.sysWrite 0x832 x = next .kreadyWrite ∧
      (∀ j, j < 16 → s.sysWrite (0x840 + j) x = next (.patWrite s.gang.die s.gang.cluster (BitVec.ofNat 4 j) x)) ∧
      ∀ w ∈ [0x810, 0x811, 0x812, 0x813, 0x814, 0x815, 0x816, 0x817, 0x818, 0x819, 0x81A, 0x81B, 0x81C, 0x81D, 0x81E, 0x81F,
        0x820, 0x823, 0x825, 0x880, 0x882], s.sysWrite w x = next (.registerWrite s.vd (BitVec.ofNat 12 w) x)))

/-- R65: each virtual device has a freeze watchdog, whose limit is 2^LOG2 mc; a write sets LOG2 from bits 4:0, but is
ignored outside 16-26; the other bits are reserved and read 0; it is 21 at reset; an unprivileged MTSR to it raises 0x12. -/
def Obligations.FreezeWatchdog : Prop :=
  (∀ (m : Mach) (vd : Nat), m.freezeLimit vd = 2 ^ (m.vd vd).wdog.toNat) ∧ ({} : VDev).wdog = 21 ∧
  (∀ (s : State) (vd : Nat) (v : Word), (s.m.vd? vd).isSome = true →
    GoesTo (exec (.wdogWrite vd v) s) (fun t =>
      (t.m.vd vd).wdog.toNat = (if 16 ≤ v.toNat % 32 ∧ v.toNat % 32 ≤ 26 then v.toNat % 32 else (s.m.vd vd).wdog.toNat) ∧
      (∀ w, w ≠ vd → t.m.vd? w = s.m.vd? w) ∧ t.m.gangs = s.m.gangs ∧ t.m.dev = s.m.dev)) ∧
  (∀ s : State, (s.sysRead 0x800).toNat = (s.m.vd s.vd).wdog.toNat) ∧
  (∀ (s : State) (g : BitVec 4) (n : Bool) (a : BitVec 6), (s.m.seq? s.cur).isSome = true → s.hdr.priv = false →
    (sn [a.toNat]).all (fun d => d.ok s.hdr s.regs.rrb) = true →
    exec (.mtsr g n a 0x800) s = .next (s.raise { cause := 0x12 })) ∧
  (∀ (s : State) (v : Word) (k r : Nat) (st : Stream), s.cur = .core k r st →
    s.sysWrite 0x800 v = { s with m := s.m.schedule (.ec k) (s.ec + 1) (.wdogWrite s.vd v) })

/-- R24, R99, R115, R359, R360, R374, R375, R433: the register events. FLG is replaced; VW keeps its three fields; a pattern
entry is rewritten, to be used from the next frame on, unless the table would then hold an empty entry or one with fewer
pulses than the entry below it; NQHEAD is set, and a deferred region moves into a freed entry of the ring, whose counter the kernel's
table holds as well (log entry 81), and whose entry moves NQTAIL and sets the pending bit whatever NQBASE names (the model's choice,
log entry 84); NACK clears a region; XBASE, XROOT, NQBASE, NTHR, FLOOR, BARSEL and SHSEL hold what was written, reserved bits aside. -/
def Obligations.RegisterEvents : Prop :=
  ∀ (s : State) (g r vd die cl : Nat) (k : BitVec 4) (v : Word),
  (∀ c, s.m.core? g r = some c →
    exec (.flgWrite g r v) s = .next { s with m := s.m.updCore g r (fun c => c.setFlg v) } ∧
    exec (.vwWrite g r v) s = .next { s with m := s.m.updCore g r (fun c => { c with vw := v.truncate 32 &&& 0x873F#32 }) }) ∧
  (∀ c, s.m.cluster? die cl = some c →
    let p := vset c.patNew k.toNat (v.truncate 16)
    GoesTo (exec (.patWrite die cl k v) s) (fun t => ∃ c', t.m.cluster? die cl = some c' ∧
      (patOk p = true → c' = { c with patNew := p }) ∧ (patOk p = false → c' = c) ∧
      t.m.agenda.any (fun e => e.ev == .patternFrame die cl && e.at_ == s.m.frameTime die (s.m.frameNo die + 1)) = true)) ∧
  (∀ p : Vector (BitVec 16) 16, patOk p = true ↔
    ∀ j, j < 16 → vget p j 0 ≠ 0 ∧ (0 < j → patCount (vget p (j - 1) 0) ≤ patCount (vget p j 0))) ∧
  ((s.m.vd? vd).isSome = true →
    GoesTo (exec (.nqheadWrite vd v) s) (fun t => (t.m.vd vd).nqhead = v.truncate 8 ∧
      ∀ x y, (s.m.vd vd).regionCtr = [(x, y)] → y.deferred = true → (s.m.vd vd).nqtail + 1 ≠ v.truncate 8 →
        (t.m.vd vd).nqtail = (s.m.vd vd).nqtail + 1 ∧
        (t.m.vd vd).regionCtr = [(x, { y with pending := true, deferred := false })] ∧
        let u := (s.m.physStore vd ((s.m.vd vd).nqbase.toNat + 16 * (s.m.vd vd).nqtail.toNat) (offs (noticeBytes x y))).setRegion vd x
          { y with pending := true, deferred := false }
        t.m.dev = u.dev ∧ t.m.host = u.host) ∧
    GoesTo (exec (.nackWrite vd v) s) (fun t => tget (t.m.vd vd).regionCtr (ptrOff v / 2 ^ 21 * 2 ^ 21) = none) ∧
    (∀ j, j < 8 →
      GoesTo (exec (.registerWrite vd (BitVec.ofNat 12 (0x810 + j)) v) s) (fun t =>
        vget (t.m.vd vd).xbase j 0 = v &&& 0x0000FFFFFFFFFF0F#64) ∧
      GoesTo (exec (.registerWrite vd (BitVec.ofNat 12 (0x818 + j)) v) s) (fun t =>
        vget (t.m.vd vd).xroot j 0 = v &&& 0xFFFFFFFFFFFFFF00#64)) ∧
    GoesTo (exec (.registerWrite vd 0x820 v) s) (fun t => (t.m.vd vd).nqbase = v) ∧
    GoesTo (exec (.registerWrite vd 0x823 v) s) (fun t => (t.m.vd vd).nthr = v.truncate 16) ∧
    GoesTo (exec (.registerWrite vd 0x825 v) s) (fun t => t.m.mgmt.floor = v.truncate 16) ∧
    GoesTo (exec (.registerWrite vd 0x880 v) s) (fun t => (t.m.vd vd).barsel = v &&& 0x3FF) ∧
    GoesTo (exec (.registerWrite vd 0x882 v) s) (fun t => (t.m.vd vd).shsel = v))

/-! ## Exceptions -/

/-- R371, R372, R397-R400: TRAP and HALT are faults 0x11 with their code, whose stop is taken at the end of the ec; on a Loupe
core its program stops there, and HALT stops the job's gangs. EVNT queues its record behind a release at device scope. TLBI
queues a release at device scope and freezes the gang, from the next master cycle on by log entry 38, or holds the Loupe program, until
TLBI_COMPLETE, within 1024 mc; DINV
drops the copy of one granule, and the KV header capture of it at the end of the ec; CSAVE notes a checkpoint's pointer, and
faults 0x03 or 0x06 on a bad one. -/
def Obligations.TrapAndMaintenanceWords : Prop :=
  ∀ (s : State) (g : BitVec 4) (n : Bool) (code : BitVec 12) (a : BitVec 6),
  let p := s.rd a.toNat
  let releases (t : State) : Prop := ∃ id q, t.m.queue = s.m.queue ++ [(id, q)] ∧ q.who = .agent s.cur ∧ q.op = .fence ∧
    q.rel = true ∧ q.sco = 4
  let ends (t : State) : Prop := ∃ at_, s.m.time < at_ ∧ at_ ≤ s.m.time + 1024 ∧
    t.m.agenda.getLast? = some ⟨.mc, at_, .tlbiComplete s.cur⟩
  (Passes s [] g n → exec (.trap g n code) s = .next (s.raise { cause := 0x11, code := code, trap := true })) ∧
  (∀ k r st, s.cur = .core k r st → Passes s [.priv] g n →
    exec (.halt g n) s = .next (s.raise { cause := 0x11, code := 0xFFF, halt := true })) ∧
  (∀ d i c, s.cur = .loupe d i c → Passes s [.priv] g n →
    exec (.halt g n) s = .next { s.raise { cause := 0x11, code := 0xFFF, halt := true } with
      m := ((s.raise { cause := 0x11, code := 0xFFF, halt := true }).m).haltOthers s.cur }) ∧
  (Runs s [] g n →
    let rank := match s.cur with | .core _ r _ => r | .loupe _ i _ => 0x40 + i
    ∃ q : QEntry, q.who = .agent s.cur ∧ q.rel = true ∧ q.sco = 4 ∧
      q.op = .event s.vd (eventRecord s.vd (((s.m.jobOf s.cur).map (·.num.toNat)).getD 0) s.gang.idx.toNat rank code.toNat
        s.m.time s.gang.cyc) ∧
      exec (.evnt g n code) s = .next (State.advance { s with m := s.m.enqueue q 12 })) ∧
  (Runs s (sn [a.toNat] ++ [.priv]) g n →
    (p = 0 ∨ ptrSpace p = 0 →
      (∀ k r st, s.cur = .core k r st → GoesTo (exec (.tlbi g n a) s) (fun t => releases t ∧ ends t ∧
        ∃ x, s.m.gang? k = some x ∧
          (t.m.gang? k).map (·.causes) = some (x.causes ++ [s.cause (.tlbi p) (s.m.time + 1)]))) ∧
      (∀ d i c, s.cur = .loupe d i c → GoesTo (exec (.tlbi g n a) s) (fun t => releases t ∧ ends t ∧
        (t.m.ctx? d i c).map (·.run) = some (.tlbi p)))) ∧
    (p ≠ 0 ∧ ptrSpace p ≠ 0 → exec (.tlbi g n a) s = .next (s.raise { cause := 0x03, addr := p }))) ∧
  (Runs s (sn [a.toNat]) g n →
    (ptrSpace p = 0 → GoesTo (exec (.dinv g n a) s) (fun t => t.m.dev = s.m.dev ∧ t.m.host = s.m.host ∧
      t.m.copies = s.m.copies.filter (fun c => !(c.who == .agent s.cur && c.va == ptrOff p / 64 * 64)) ∧
      ∀ i, s.iss = some i → t.iss.map (·.dinv) = some (i.dinv ++ [(s.rank, ptrOff p / 64 * 64)]))) ∧
    (ptrSpace p = 0 ∧ ptrRank p = 0 ∧ ptrOff p % 65536 = 0 → exec (.csave g n a) s = .next (s.updGang (fun x => { x with pck := some p })).advance) ∧
    (ptrSpace p = 0 ∧ ptrRank p = 0 ∧ ptrOff p % 65536 ≠ 0 → exec (.csave g n a) s = .next (s.raise { cause := 0x06, addr := p })) ∧
    (ptrSpace p ≠ 0 ∨ ptrRank p ≠ 0 → exec (.csave g n a) s = .next (s.raise { cause := 0x03, addr := p })) ∧
    (ptrSpace p ≠ 0 → exec (.dinv g n a) s = .next (s.raise { cause := 0x03, addr := p })))

/-- R391-R393, R397, R399: TAKING AN EXCEPTION. An ec in which a word faulted, and none asked to wait, ends with the gang stopping: the
package is as before the ec, the report names the fault of the first word in the order of R392 with its cause, stream, rank, PC, address
and code, the stream of a TRAP stands at the word after it, and the other gangs of a HALT's job are to stop. Taking the stop leaves the
gang draining to it, with its report and no cause of a freeze, and no other gang changed. -/
def Obligations.TakingTheStop : Prop :=
  ∀ (s : State) (i : Issue) (x : Gang) (f : WordFault), s.iss = some i → i.slots = [] → i.holds = [] →
    s.m.gang? i.gang = some x → reported (i.faults ++ i.viewFaults s.m x ++ i.yieldFaults x) = some f →
    (∀ a, (i.undo s.m).inFlight a = none) →
    let rep := x.mkReport s.m.time (rankOf f.agent) f.agent.strm f.pc 0 f.exc
    let u := i.undo s.m
    let v := (if f.exc.trap then u.updSeq f.agent (fun q => q.updRegs .s (fun r => { r with pc := f.pc + 1 })) else u).takeStop i.gang rep
    step s = .next { s with m := if f.exc.halt then v.haltOthers f.agent else v, iss := none } ∧
    rep.cause = f.exc.cause ∧ rep.pc = f.pc ∧ rep.strm = strCode f.agent.strm ∧
    rep.rank = BitVec.ofNat 6 (rankOf f.agent) ∧ rep.time = BitVec.ofNat 64 s.m.time ∧
    rep.addr = (if reportsAddr f.exc.cause then f.exc.addr else 0) ∧
    (∀ m : Mach, (m.gang? i.gang).isSome = true →
      ((m.takeStop i.gang rep).gang? i.gang).map (fun y => (y.run, y.report, y.causes)) = some (.draining .stop, some rep, []) ∧
      ∀ h, h ≠ i.gang → (m.takeStop i.gang rep).gang? h = m.gang? h)

/-- R393: a stop ends with its 384-bit report in bytes 64-111 of the save area header, a notice to the kernel, and the gang
stopped; nothing else of memory changes. (A gang of a job that is being ended has nobody to tell.) -/
def Obligations.ReportOfAStop : Prop :=
  ∀ (m : Mach) (g : Nat) (x : Gang) (rep : Report), m.gang? g = some x → x.killed = false → x.report = some rep →
    Memory.wf m.dev = true →
    (∀ n, n < 48 → Memory.get (m.postStop g).dev (x.save.toNat + 64 + n) = BitVec.ofNat 8 (rep.bits / 2 ^ (8 * n))) ∧
    (∀ a, a < x.save.toNat + 64 ∨ x.save.toNat + 112 ≤ a → Memory.get (m.postStop g).dev a = Memory.get m.dev a) ∧
    ((m.postStop g).gang? g).map (·.run) = some .stopped ∧ (m.postStop g).mgmt.notices = m.mgmt.notices ++ [.stop g] ∧
    (m.postStop g).host = m.host ∧
    rep.bits % 256 = 1 ∧ rep.bits / 2 ^ 72 % 256 = rep.cause.toNat ∧ rep.bits / 2 ^ 192 % 2 ^ 64 = rep.addr.toNat ∧
    rep.bits / 2 ^ 98 % 2 ^ 14 = rep.pc.toNat ∧ rep.bits / 2 ^ 96 % 4 = rep.strm.toNat ∧ rep.bits / 2 ^ 90 % 64 = rep.rank.toNat ∧
    rep.bits / 2 ^ 8 % 2 ^ 64 = rep.time.toNat ∧ rep.bits / 2 ^ 128 % 2 ^ 16 = rep.code.toNat

/-- R394, R395, R71: a stopped gang that resumes goes on at its recorded PCs; every stream starts a new group with its latches
undefined; the loop registers, scalars, predicates and vector registers stand as they were. -/
def Obligations.ResumedCores : Prop :=
  ∀ (x : Gang), x.resumed.run = .running ∧ x.resumed.report = none ∧ x.resumed.causes = [] ∧ x.resumed.mark = x.cyc ∧
    x.resumed.cores.length = x.cores.length ∧
    ∀ (r : Nat) (c : Core), x.cores[r]? = some c → ∃ c' : Core, x.resumed.cores[r]? = some c' ∧ c'.seq.sreg = c.seq.sreg ∧ c'.seq.preg = c.seq.preg ∧
      c'.vec.vreg = c.vec.vreg ∧ c'.vec.mreg = c.vec.mreg ∧ c'.mat = c.mat ∧ c'.scr = c.scr ∧
      (∀ j, j < 8 → vget c'.seq.latch j none = none ∧ vget c'.vec.latch j none = none) ∧
      ∀ st : Stream, (c'.seq.regs st).pc = (c.seq.regs st).pc ∧ (c'.seq.regs st).gcyc = 0 ∧
        (c'.seq.regs st).gser = (c.seq.regs st).gser + 1 ∧ (c'.seq.regs st).lc = (c.seq.regs st).lc ∧
        (c'.seq.regs st).es = (c.seq.regs st).es ∧ (c'.seq.regs st).q = (c.seq.regs st).q ∧
        (c'.seq.regs st).rrb = (c.seq.regs st).rrb ∧ (c'.seq.regs st).bub = 0 ∧ (c'.seq.regs st).wait = 0

/-! ## Vector words -/

/-- R168-R173, R251: the lane-wise words complete under the shape in force: VADD, VSUB, VMUL, VFMA, VFMS, VMIN, VMAX with
latency 4 on float types and 2 on integer types, VUN with 2 or 12, the bitwise words and funnels with 2, VHAR and VIHR with 4. Each
lane of the result is the operation on the lanes of its sources. VUN's functions 2 to 7 on an integer type, and VHAR and VIHR
on a type without trees, are illegal (0x01). -/
def Obligations.LanewiseVectorWords : Prop :=
  ∀ (s : State) (d : BitVec 6) (a b fn : BitVec 7) (x w : Bool) (g : BitVec 4),
  let h := s.shp
  let dd : List Nat := if w then [] else [d.toNat]
  let la := s.lanes a.toNat
  let lb := s.lanes b.toNat
  let ld := s.lanes d.toNat
  let s2 := (s.view a.toNat).view b.toNat
  let s3 := ((s.view d.toNat).view a.toNat).view b.toNat
  let two (lat : Nat) (f : Nat → Nat → Lane) (i : Instr) : Prop :=
    exec i s = .next (s2.resLanes lat d x w (List.zipWith f la lb)).advance
  let three (lat : Nat) (f : Nat → Nat → Nat → Lane) (i : Instr) : Prop :=
    exec i s = .next (s3.resLanes lat d x w (List.zipWith (fun z p => f z p.1 p.2) ld (List.zip la lb))).advance
  let bits (f : Nat → Nat → Nat) (i : Instr) : Prop := two 2 (fun p q => (f p q % 2 ^ h.bits, 0)) i
  (Runs s (vn (dd ++ [a.toNat, b.toNat])) g →
    two (latArith h) (arith2 addV (· + ·) h) (.vadd d a b x w g) ∧
    two (latArith h) (arith2 (fun p q => addV p q.negate) (· - ·) h) (.vsub d a b x w g) ∧
    two (latArith h) (arith2 mulV (· * ·) h) (.vmul d a b x w g) ∧
    two (latArith h) (pick false h) (.vmin d a b x w g) ∧ two (latArith h) (pick true h) (.vmax d a b x w g) ∧
    bits (· &&& ·) (.vand d a b x w g) ∧ bits (· ||| ·) (.vor d a b x w g) ∧ bits (· ^^^ ·) (.vxor d a b x w g) ∧
    bits (fun p q => p <<< (q % h.bits)) (.vshl d a b x w g) ∧ bits (fun p q => p >>> (q % h.bits)) (.vshr d a b x w g) ∧
    bits (fun p q => wrapInt h.bits (intOf true h.bits p / 2 ^ (q % h.bits))) (.vsar d a b x w g)) ∧
  (Runs s (vn [d.toNat, a.toNat, b.toNat]) g →
    three (latArith h) (arith3 false h) (.vfma d a b x w g) ∧ three (latArith h) (arith3 true h) (.vfms d a b x w g) ∧
    three 2 (fun n p q => ((p * 2 ^ h.bits + q) <<< (n % (2 * h.bits)) / 2 ^ h.bits % 2 ^ h.bits, 0)) (.vfsl d a b x w g) ∧
    three 2 (fun n p q => ((p * 2 ^ h.bits + q) >>> (n % (2 * h.bits)) % 2 ^ h.bits, 0)) (.vfsr d a b x w g)) ∧
  (Runs s (vn (dd ++ [a.toNat])) g →
    (fn.toNat < 2 ∨ fn = 8 ∨ fn = 9 → exec (.vun d a fn x w g) s =
      .next ((s.view a.toNat).resLanes 2 d x w (la.map (unary fn.toNat h))).advance) ∧
    (¬ (fn.toNat < 2 ∨ fn = 8 ∨ fn = 9) → tyFloat h.ty.toNat = true → exec (.vun d a fn x w g) s =
      .next ((s.view a.toNat).resLanes 12 d x w (la.map (unary fn.toNat h))).advance) ∧
    (¬ (fn.toNat < 2 ∨ fn = 8 ∨ fn = 9) → tyFloat h.ty.toNat = false → exec (.vun d a fn x w g) s = .next (s.raise { cause := 0x01 })) ∧
    (treeType h.ty.toNat = true →
      exec (.vhar d a x w g) s = .next ((s.view a.toNat).resLanes 4 d x w
        ((inPairs la).map (fun p => (haarDown h p.1 p.2).1) ++ (inPairs la).map (fun p => (haarDown h p.1 p.2).2))).advance ∧
      exec (.vihr d a x w g) s = .next ((s.view a.toNat).resLanes 4 d x w
        ((List.zip (la.take (la.length / 2)) (la.drop (la.length / 2))).flatMap
          (fun p => [(haarUp h p.1 p.2).1, (haarUp h p.1 p.2).2]))).advance) ∧
    (treeType h.ty.toNat = false → exec (.vhar d a x w g) s = .next (s.raise { cause := 0x01 }) ∧
      exec (.vihr d a x w g) s = .next (s.raise { cause := 0x01 })))

/-- R174-R185, R250: compares and masks, selection, rearrangement, broadcast, VIOTA, the moves between lanes and scalars, and
the threshold mask, each with its latency; a mask result takes all bits, or with X = 1 those of the bytes m0 enables. -/
def Obligations.VectorMoveWords : Prop :=
  ∀ (s : State) (d : BitVec 6) (a b idx k : BitVec 7) (cc mk op ma mb : BitVec 3) (th : BitVec 2) (x w : Bool) (g : BitVec 4),
  let h := s.shp
  let dd : List Nat := if w then [] else [d.toNat]
  let la := s.lanes a.toNat
  let m0 := s.core.mask 0
  let moved (lat : Nat) (x : Bool) (l : List Nat) : State := (s.view a.toNat).resLanes lat d x w (l.map (fun v => (v, 0)))
  (Runs s (vn [a.toNat, b.toNat]) g → exec (.vcmp cc mk a b x g) s = .next
    (((s.view a.toNat).view b.toNat).emit 2 { pend0 with writes :=
      [let r := maskOfLanes h.bytes (List.zipWith (vcond cc.toNat h) la (s.lanes b.toNat))
       if x then .mm mk.toNat m0 r else .m mk.toNat r] }).advance) ∧
  (Runs s (vn [a.toNat]) g → exec (.vthr th mk a g) s = .next ((s.view a.toNat).emit 2 { pend0 with writes :=
    [.m mk.toNat (maskOfLanes h.bytes (la.map (overTh h ((vget s.core.vec.th th.toNat 0).toNat % 2 ^ h.bits))))] }).advance) ∧
  (Runs s [] g → ∃ r, exec (.vmsk op mk ma mb g) s = .next (s.emit 1 { pend0 with writes := [.m mk.toNat r] }).advance ∧
    (op = 0 → r = s.core.mask ma.toNat &&& s.core.mask mb.toNat) ∧ (op = 1 → r = s.core.mask ma.toNat ||| s.core.mask mb.toNat) ∧
    (op = 2 → r = s.core.mask ma.toNat ^^^ s.core.mask mb.toNat) ∧ (op = 3 → r = ~~~(s.core.mask ma.toNat)) ∧
    (op = 4 → r = s.core.mask ma.toNat) ∧ (op = 5 → r = spread h (s.core.mask ma.toNat))) ∧
  (Runs s (vn (dd ++ [a.toNat, b.toNat])) g → exec (.vsel d a b w g) s = .next
    (((s.view a.toNat).view b.toNat).resV 2 d w (BitVec.allOnes 256) (blend m0 (s.rdV b.toNat) (s.rdV a.toNat)) 0).advance) ∧
  (Runs s (vn (dd ++ [a.toNat])) g →
    exec (.vcomp d a w g) s = .next (moved 4 false (compress s.enabled la)).advance ∧
    exec (.vexpd d a w g) s = .next (moved 4 false (expand s.enabled la)).advance ∧
    exec (.vslu d a k x w g) s = .next (moved 3 x ((List.replicate k.toNat 0 ++ la).take h.lanes)).advance ∧
    exec (.vsld d a k x w g) s = .next (moved 3 x (((la ++ List.replicate k.toNat 0).drop k.toNat).take h.lanes)).advance) ∧
  (Runs s (vn dd ++ sn [a.toNat]) g →
    exec (.vbrd d a x w g) s = .next (s.resLanes 2 d x w (List.replicate h.lanes ((s.rd a.toNat).toNat % 2 ^ h.bits, 0))).advance ∧
    exec (.vmsv d a idx x w g) s = .next (s.resV 2 d w (s.wr (laneMask h.bytes (idx.toNat % h.lanes) 1) x)
      (rowOfLanes h.bits (List.replicate (idx.toNat % h.lanes) 0 ++ [(s.rd a.toNat).toNat % 2 ^ h.bits])) 0).advance) ∧
  (Runs s (vn dd) g → exec (.viota d x w g) s =
    .next (s.resLanes 1 d x w ((List.range h.lanes).map (fun (i : Nat) => h.convInt (i : Int)))).advance) ∧
  (Runs s (sn [d.toNat] ++ vn [a.toNat]) g → exec (.vmvs d a idx g) s = .next ((s.view a.toNat).emit 3 { pend0 with writes :=
    [.s (physS s.regs.rrb d.toNat) (BitVec.ofInt 64 (intOf (tySigned h.ty.toNat) h.bits
      (laneOf h.bits (s.rdV a.toNat) (idx.toNat % h.lanes))))] }).advance)

/-- R163, R177, R186-R189, R235: conversion of the part the two widths call for (a part beyond them is illegal, 0x01), lane by lane:
a widening one takes the lanes of its part, a narrowing one fills the lanes of its part and writes no others; reduction into a latch six
ec later (more than 64 groups are illegal), one root for each group, from the lanes of the group that take part, and a root of integer
sums is their sum; the latch moved to a register, the shape, threshold and tag set, and a rung row read; VSET.shape is a group switch of
V. -/
def Obligations.ConversionReductionAndShape : Prop :=
  ∀ (s : State) (d p : BitVec 6) (a : BitVec 7) (ty op gsl : BitVec 4) (part k : BitVec 3) (y rm th : BitVec 2) (i : BitVec 6)
    (tag : BitVec 16) (x w sat sl : Bool) (g : BitVec 4),
  let h := s.shp
  let dd : List Nat := if w then [] else [d.toNat]
  let r := max h.bits (tyBits ty.toNat) / min h.bits (tyBits ty.toNat)
  (Runs s (vn (dd ++ [a.toNat])) g →
    (part.toNat < r → ∃ wr row f, exec (.vcvt d a ty part x w g) s = .next ((s.view a.toNat).resV 4 d w wr row f).advance ∧
      let tw := tyBits ty.toNat
      let n := (s.lanes a.toNat).length
      let p := part.toNat
      let put (at_ : Nat) (l : List Nat) : Prop := wr = s.wr (laneMask (tw / 8) at_ l.length) x ∧
        row = rowOfLanes tw (List.replicate at_ 0 ++ l.map (fun v => (convElem h.ty.toNat ty.toNat h.rm.toNat h.sat v).1))
      (tw = h.bits → put 0 (s.lanes a.toNat)) ∧
      (h.bits < tw → put 0 (((s.lanes a.toNat).drop (p * (n / r))).take (n / r))) ∧
      (tw < h.bits → put (p * n) (s.lanes a.toNat))) ∧
    (r ≤ part.toNat → exec (.vcvt d a ty part x w g) s = .next (s.raise { cause := 0x01 }))) ∧
  (Runs s (if op = 15 then [] else vn [a.toNat]) g →
    (op ≠ 15 → 64 < h.lanes / 2 ^ h.gsl.toNat → exec (.vred y op a x g) s = .next (s.raise { cause := 0x01 })) ∧
    (op ≠ 15 → h.lanes / 2 ^ h.gsl.toNat ≤ 64 → ∃ roots f, exec (.vred y op a x g) s = .next ((s.view a.toNat).emit 6 { pend0 with
      writes := [.y y.toNat { op := op, acc := accOf op.toNat h.ty.toNat, sat := h.sat, roots := roots }], flags := f }).advance ∧
      let gs := 2 ^ h.gsl.toNat
      let ls := (List.zip (s.lanes a.toNat) s.enabled).map (fun v => if x && !v.2 then none else some (redEnter op.toNat h v.1))
      roots = (List.range (h.lanes / gs)).map (fun k =>
        (redTree op.toNat (accOf op.toNat h.ty.toNat) h.sat h.gsl.toNat ((ls.drop (k * gs)).take gs)).1)) ∧
    (op = 15 → exec (.vred y op a x g) s = .next (s.emit 6 { pend0 with
      writes := [.y y.toNat { op := op, acc := accOf 15 h.ty.toNat, sat := h.sat, roots := [] }] }).advance)) ∧
  (Runs s (vn dd) g →
    exec (.vmvy d y x w g) s = .next (s.resV 2 d w (s.wr (BitVec.allOnes 256) x) (rowOfLanes 32
      ((vget s.core.vec.y y.toNat (Vector.replicate 64 none)).toList.map (fun e => (e.getD 0).toNat))) 0).advance ∧
    (∃ row, exec (.vlrg d k sl i w g) s = .next ((s.updIss (fun u => { u with views := u.views ++ [(s.rank, 8, s.regs.pc)] })).resV 8 d w
      (BitVec.allOnes 256) row 0).advance ∧
      (s.mat.ladder = none → row = 0) ∧
      (∀ l, s.mat.ladder = some l → k.toNat < l.depth.toNat → l.digit k.toNat = 2 → k.toNat < 6 →
        l.one &&& l.two = 0 → sl = true → row = vget (vget s.mat.rung (2 * k.toNat + 1) (Vector.replicate 64 0)) i.toNat 0))) ∧
  (∀ (acc : AccTy) (j : Nat) (l : List (Option (BitVec 32))), acc ≠ .f32 → l.length = 2 ^ j →
    (redTree 0 acc false j l).1 = if l.filterMap (fun v => v) = [] then none else some ((l.filterMap (fun v => v)).foldl (· + ·) 0)) ∧
  (∀ e r, s.cur = .core e r .v → Runs s [] g →
    GoesTo (exec (.vsetShape ty rm sat gsl g) s) (fun t => t.core.vec.shp = { ty := ty, rm := rm, sat := sat, gsl := gsl } ∧
      t.regs.gcyc = 0 ∧ t.regs.gser = s.regs.gser + 1 ∧ t.regs.pc = s.regs.pc + 1 ∧ t.core.vec.vreg = s.core.vec.vreg ∧
      ∀ j, j < 8 → vget t.core.vec.latch j none = none) ∧
    GoesTo (exec (.vsetTag tag g) s) (fun t => t.core.vec = { s.core.vec with tagv := tag })) ∧
  (∀ e r, s.cur = .core e r .v → Runs s (sn [p.toNat]) g → GoesTo (exec (.vsetTh th p g) s)
    (fun t => t.core.vec = { s.core.vec with th := vset s.core.vec.th th.toNat ((s.rd p.toNat).truncate 32) }))

/-- R160 and R164: a row is its lanes, and writing a result changes in a row exactly the bytes of its mask. -/
def Obligations.RowsLanesAndBytes : Prop :=
  (∀ (w : Nat) (l : List Nat), (w = 8 ∨ w = 16 ∨ w = 32 ∨ w = 64) → l.length = 2048 / w → (∀ x ∈ l, x < 2 ^ w) →
    lanesOf w (rowOfLanes w l) = l) ∧
  (∀ (w : Nat) (r : Row), (w = 8 ∨ w = 16 ∨ w = 32 ∨ w = 64) → rowOfLanes w (lanesOf w r) = r) ∧
  (∀ (k : Mask) (old new : Row) (j : Nat), j < 256 →
    laneOf 8 (blend k old new) j = if k.getLsbD j then laneOf 8 new j else laneOf 8 old j) ∧
  (∀ (c : Core) (n : Nat) (k : Mask) (r : Row) (i : Nat), n < 64 →
    vget (c.write (.vm n k r)).vec.vreg i 0 = (if i = n then blend k (vget c.vec.vreg n 0) r else vget c.vec.vreg i 0) ∧
    (c.write (.vm n k r)).scr = c.scr ∧ (c.write (.vm n k r)).seq = c.seq ∧ (c.write (.vm n k r)).mat = c.mat)

/-- R240: under lifting Haar a pair becomes d = x0 − x1 and a = x1 + (d >> 1), modulo 2^w, and the inverse takes x1 = a −
(d >> 1) and x0 = d + x1; the inverse recovers every bit, whether or not an operation wraps, and without a wrap a is the
floor of the average and d the undivided difference. -/
def Obligations.LiftingIsReversible : Prop :=
  ∀ ty : Nat, halving ty = false →
    let w := tyBits ty
    let i (v : Nat) : Int := intOf true w v
    (∀ x0 x1, x0 < 2 ^ w → x1 < 2 ^ w →
      let y := pairDown ty x0 x1
      (y.2 : Int) = ((x0 : Int) - x1) % 2 ^ w ∧ (y.1 : Int) = ((x1 : Int) + i y.2 / 2) % 2 ^ w ∧ pairUp ty y.1 y.2 = (x0, x1) ∧
      (-(2 : Int) ^ (w - 1) ≤ i x0 - i x1 ∧ i x0 - i x1 < 2 ^ (w - 1) →
        i y.1 = (i x0 + i x1) / 2 ∧ i y.2 = i x0 - i x1)) ∧
    (∀ a d, a < 2 ^ w → d < 2 ^ w →
      let z := pairUp ty a d
      (z.2 : Int) = ((a : Int) - i d / 2) % 2 ^ w ∧ (z.1 : Int) = ((d : Int) + z.2) % 2 ^ w)

/-- R190-R194, R248, R249: VLD and VST through no lens, a block lens or a tree lens, VLDL, VLDD and VSTL. Where the checks
pass, a row of the own scratchpad is read in the issue ec, with latency 6 (8 through a block lens, more for each level of an
average), another rank's comes with its reply, and a store's bytes, or its spine commits, are on their way; where they do
not, the word faults with none of its effect. -/
def Obligations.VectorMemoryWords : Prop :=
  ∀ (s : State) (d a : BitVec 6) (cls j : BitVec 3) (r : BitVec 2) (t u flat : Bool) (off : BitVec 5) (g : BitVec 4),
    Runs s (vn [d.toNat] ++ sn [a.toNat]) g →
  let p0 := s.rd a.toNat
  let o : Int := ptrOff p0 + 256 * off.toNat
  let p := ptrAt p0 o
  let use := lensUse (s.lensOf p0 o)
  let base : RowSpec := { rank := ptrRank p, off := o.toNat, kind := .bytes, shp := s.shp }
  (s.rowCheck p o u use (s.rowSpan o.toNat use) = .ok () →
    (∀ l, use = .block l → exec (.vld d a cls t u off g) s = .next (s.ownRow 8 d cls t { base with kind := .block, lens := l }).advance) ∧
    (∀ l, use = .tree l → exec (.vld d a cls t u off g) s =
      .next (s.ownRow 6 d cls t { base with kind := .averages 0 0, lens := l }).advance) ∧
    (use = .plain → exec (.vld d a cls t u off g) s = .next (if s.ownPtr p then s.ownRow 6 d cls t base else s.farRow d cls t p base).advance) ∧
    (s.core.vec.vstlEnd ≤ s.ec →
      (use = .plain → exec (.vst d a cls u off g) s = .next ((s.view d.toNat).rowStore p cls (ptrRank p) o.toNat
        ((offs (rowBytes (s.rdV d.toNat))).filter (fun x => !u || (s.core.mask 0).getLsbD x.1))).advance) ∧
      (∀ l, use = .block l → exec (.vst d a cls u off g) s = .next (((s.view d.toNat).rowStore p cls s.rank o.toNat
        (encodeRow l o.toNat s.shp (lanesOf s.shp.bits (s.rdV d.toNat))).1).emit 1 { pend0 with
          flags := (encodeRow l o.toNat s.shp (lanesOf s.shp.bits (s.rdV d.toNat))).2 }).advance) ∧
      (∀ l, use = .tree l → exec (.vst d a cls u off g) s = .next ((s.view d.toNat).rowSpine p cls l 0 false
        (shareOut l o.toNat 0 0 ((lanesOf (8 * tyBytes (lensType l)) (s.rdV d.toNat)).map (fun _ => true))
          (lanesOf (8 * tyBytes (lensType l)) (s.rdV d.toNat)))).advance)) ∧
    (s.ec < s.core.vec.vstlEnd → exec (.vst d a cls u off g) s = .next (s.raise { cause := 0x07 }))) ∧
  (∀ e, s.rowCheck p o u use (s.rowSpan o.toNat use) = .error e →
    exec (.vld d a cls t u off g) s = .next (s.stopped e) ∧ exec (.vst d a cls u off g) s = .next (s.stopped e)) ∧
  let named (l : Word) : List Nat := treeBlocks l (ptrOff p0) j.toNat r.toNat
  let given (l : Word) : List Nat := ((s.levelShare d p0 j.toNat r.toNat l).filter (fun b => !b.2.isEmpty)).map (·.1)
  (∀ l, s.levelCheck p0 j.toNat named = .ok l →
    let v (k : RowKind) : RowSpec := { rank := s.rank, off := ptrOff p0, kind := k, lens := l, shp := s.shp }
    exec (.vldl d a cls t j r g) s = .next (s.ownRow (6 + 2 * (lensDepth l - j.toNat)) d cls t (v (.averages j.toNat r.toNat))).advance ∧
    exec (.vldd d a cls t j r g) s = .next (s.ownRow 6 d cls t (v (.details j.toNat r.toNat))).advance) ∧
  (∀ l, s.levelCheck p0 j.toNat given = .ok l →
    (s.ec < s.core.vec.vstlEnd → exec (.vstl d a cls flat j r g) s = .next (s.raise { cause := 0x07 })) ∧
    (s.core.vec.vstlEnd ≤ s.ec →
      let es := tyBytes (lensType l)
      exec (.vstl d a cls flat j r g) s = .next (((s.view d.toNat).updCore (fun c => { c with vec := { c.vec with vstlEnd := s.ec + 12 } })).rowSpine
        p0 cls l j.toNat flat (shareOut l (ptrOff p0) j.toNat r.toNat ((List.range (256 / es)).map (laneOn (s.core.mask 0) es))
          (lanesOf (8 * es) (s.rdV d.toNat)))).advance)) ∧
  (∀ e, s.levelCheck p0 j.toNat named = .error e → exec (.vldl d a cls t j r g) s = .next (s.stopped e) ∧
    exec (.vldd d a cls t j r g) s = .next (s.stopped e)) ∧
  (∀ e, s.levelCheck p0 j.toNat given = .error e → exec (.vstl d a cls flat j r g) s = .next (s.stopped e))

/-! ## Matrix words -/

/-- R199-R201, R205-R208, R210, R215: MCFG, MRND, MWIN and MVER.tag write their fields of the M unit and nothing else of it; MVER
writes the version expected of its tile and, because it names the tile for its one ec, the ec from which the view may reach it (log entry
31); a window with reserved bits faults 0x13. MCLM claims a free slot, its tag 0, and MREL frees one that nothing uses; MFIL of a
claimed slot that no command is to fill or to read starts its 32 beats and stamps TAGM when they are done. MCLM of a claimed
slot, and MREL and MFIL of a free one, fault 0x0E; MREL of a slot in use, and MFIL of one in use or while the core fills
another, 0x07; a tile in use stops MVER (log entry 31), a bad pointer MFIL before either (log entry 86). The slots that the words of
an ec check are those of the quad as the ec began (log entry 19). -/
def Obligations.MatrixConfigurationAndSlots : Prop :=
  ∀ (s : State) (ta tb : BitVec 4) (sco ac : BitVec 3) (rm : BitVec 2) (p sa : BitVec 8) (k : Bool) (g : BitVec 4) (e r : Nat),
    s.cur = .core e r .m →
  let v := s.rd p.toNat
  let u := s.mat
  let sets (i : Instr) (m : MUnit) : Prop := GoesTo (exec i s) (fun t => t.mat = m ∧ t.core.vec = s.core.vec ∧ t.core.scr = s.core.scr)
  let now := vget s.quad.slot sa.toNat {}
  let then_ := vget s.quadThen.slot sa.toNat {}
  (Runs s [] g → sets (.mcfg ta tb sco g) { u with ta := ta, tb := tb, sco := sco } ∧ sets (.mrnd rm g) { u with rm := rm }) ∧
  (Runs s (sn [p.toNat]) g →
    (fld v 30 34 = 0 ∧ fld v 6 4 = 0 → sets (.mwin p g) { u with mwin := v }) ∧
    (¬ (fld v 30 34 = 0 ∧ fld v 6 4 = 0) → exec (.mwin p g) s = .next (s.raise { cause := 0x13, addr := v })) ∧
    sets (.mverTag p g) { u with tagm := v.truncate 16 } ∧
    (∀ x, s.tileFree ac = .error x → exec (.mver ac p g) s = .next (s.stopped x)) ∧
    (s.tileFree ac = .ok () → sets (.mver ac p g) { u with
      texp := vset u.texp ac.toNat (v.truncate 16), ready := vset u.ready ac.toNat (max (vget u.ready ac.toNat 0) (s.ec + 1)) })) ∧
  (Runs s [.name (.slot sa.toNat)] g →
    (then_.claimed = false → exec (.mclm sa g) s = .next (s.updSlot sa.toNat (fun x => { x with
      claimed := true, tag := { x.tag with tag := 0, pending := false, seen := none, src := none } })).advance) ∧
    (then_.claimed = true → exec (.mclm sa g) s = .next (s.raise { cause := 0x0E })) ∧
    (then_.claimed = true → then_.readEnd ≤ s.ec → then_.fillEnd ≤ s.ec → then_.tag.count = 0 →
      exec (.mrel sa g) s = .next (s.updSlot sa.toNat (fun x => { x with claimed := false })).advance) ∧
    (then_.claimed = false → exec (.mrel sa g) s = .next (s.raise { cause := 0x0E })) ∧
    (then_.claimed = true → (s.ec < then_.readEnd ∨ s.ec < then_.fillEnd ∨ then_.tag.count ≠ 0) →
      exec (.mrel sa g) s = .next (s.raise { cause := 0x07 }))) ∧
  (Runs s ([.name (.slot sa.toNat)] ++ sn [p.toNat]) g → s.mPtr v 8192 = .ok () →
    (then_.claimed = true → then_.tag.pending = false → now.readEnd ≤ s.ec → u.fillEnd ≤ s.ec →
      GoesTo (exec (.mfil sa p k g) s) (fun t => t.mat.fillEnd = s.ec + 32 ∧ t.mat.beats.length = (s.mAcquire k).mat.beats.length + 1 ∧
        t.m.agenda.getLast? = some ⟨.ec e, s.ec + 32, .mfilStamp e (r / 4) sa.toNat u.tagm⟩)) ∧
    (then_.claimed = false → exec (.mfil sa p k g) s = .next (s.raise { cause := 0x0E })) ∧
    (then_.claimed = true → then_.tag.pending = true ∨ s.ec < now.readEnd ∨ s.ec < u.fillEnd →
      exec (.mfil sa p k g) s = .next (s.raise { cause := 0x07 }))) ∧
  (Runs s ([.name (.slot sa.toNat)] ++ sn [p.toNat]) g → ∀ x, s.mPtr v 8192 = .error x →
    exec (.mfil sa p k g) s = .next (s.stopped x)) ∧
  (∀ (q n : Nat) (tag : BitVec 16) (x : Gang) (y : Quad), s.m.gang? e = some x → x.quads[q]? = some y → n < 256 →
    GoesTo (exec (.mfilStamp e q n tag) s) (fun t => (t.m.targetTag (.slot e q n)).tag = tag ∧
      (t.m.targetTag (.slot e q n)).count = (s.m.targetTag (.slot e q n)).count ∧
      ∀ n', n' ≠ n → t.m.targetTag (.slot e q n') = s.m.targetTag (.slot e q n')))

/-- R195-R198, R209: MMA, MMAT and MCNV, where each check of R198 passes (an admitted pair of types; the array, the tile and the
slots' fills free; a lease held; the slots claimed, not pending, and tagged TAGM): the passes accumulate into the tile, or into
zeros with Z = 1, one lease count is spent, and array, slots and tile are occupied. Each check that fails gives its own
fault, in the order of the rule; a pending slot freezes the gang. The slots are those of the quad as the ec began (log entry 19), and
MCNV's slot numbers are checked after its types and before the rest (log entry 69). -/
def Obligations.ArrayWords : Prop :=
  ∀ (s : State) (ac : BitVec 3) (a b : BitVec 8) (z : Bool) (g : BitVec 4),
    Runs s [.name (.slot a.toNat), .name (.slot b.toNat)] g →
  let u := s.mat
  let q := s.quadThen
  let sl := [a.toNat, b.toNat]
  let slot (n : Nat) : Slot := vget q.slot n {}
  let pair (trans : Bool) : Prop := okPair u.ta u.tb = true ∧ (trans && tyBlock u.tb.toNat) = false
  let units : Prop := s.quad.arrayEnd ≤ s.ec ∧ s.tileFree ac = .ok () ∧ ∀ n ∈ sl, (vget s.quad.slot n {}).fillEnd ≤ s.ec
  let claimed : Prop := ∀ n ∈ sl, (slot n).claimed = true
  let pending : Prop := ∃ n ∈ sl, (slot n).tag.pending = true
  let tagged : Prop := u.tagm ≠ 0xFFFF ∧ ∀ n ∈ sl, (slot n).tag.tag = u.tagm
  let product (trans : Bool) : List (List (BitVec 32)) × Flags := passTile (s.accRows ac z)
    ((List.range 64).map (fun i => kBlocks (operandRow u.ta.toNat (slot a.toNat).data i))) (columns u.tb.toNat (slot b.toNat).data trans)
  let word (trans : Bool) : Instr := if trans then .mmat ac a b z g else .mma ac a b z g
  (∀ trans,
    (pair trans → units → u.leasec ≠ 0 → claimed → ¬ pending → tagged → exec (word trans) s =
      .next (s.arrayRun ac sl (passOcc u.ta u.tb) (mkTile (product trans).1) (product trans).2).advance) ∧
    (¬ pair trans → exec (word trans) s = .next (s.raise { cause := 0x01 })) ∧
    (pair trans → ¬ units → exec (word trans) s = .next (s.raise { cause := 0x07 })) ∧
    (pair trans → units → u.leasec = 0 → exec (word trans) s = .next (s.raise { cause := 0x08 })) ∧
    (pair trans → units → u.leasec ≠ 0 → ¬ claimed → exec (word trans) s = .next (s.raise { cause := 0x0E })) ∧
    (pair trans → units → u.leasec ≠ 0 → claimed → pending → exec (word trans) s = .next (s.hold (.slots (s.rank / 4) sl))) ∧
    (pair trans → units → u.leasec ≠ 0 → claimed → ¬ pending → ¬ tagged → exec (word trans) s = .next (s.raise { cause := 0x07 }))) ∧
  (let ps := windowPasses u.mwin b.toNat
   let rps := operandRps u.ta.toNat
   let sl := ((List.range (((ps.map (·.1)).foldl max 0 + 63) / rps + 1)).map (· + a.toNat) ++ ps.map (·.2)).eraseDups
   let rowA (n : Nat) := kBlocks (operandRow u.ta.toNat (slot (a.toNat + n / rps)).data (n % rps))
   let r := ps.foldl (fun (acc : List (List (BitVec 32)) × Flags) (x : Nat × Nat) =>
     ((passTile acc.1 ((List.range 64).map (fun i => rowA (x.1 + i))) (columns u.tb.toNat (slot x.2).data false)).1,
      acc.2 ||| (passTile acc.1 ((List.range 64).map (fun i => rowA (x.1 + i))) (columns u.tb.toNat (slot x.2).data false)).2))
     (s.accRows ac z, 0)
   ((∀ n ∈ sl, n < 256 ∧ n < s.hdr.nosl) → s.arrayCheck ac false sl = .ok () → exec (.mcnv ac a b z g) s =
     .next (s.arrayRun ac sl (ps.length * passOcc u.ta u.tb) (mkTile r.1) r.2).advance) ∧
   (okPair u.ta u.tb = true → ¬ (∀ n ∈ sl, n < 256 ∧ n < s.hdr.nosl) → exec (.mcnv ac a b z g) s = .next (s.raise { cause := 0x02 })))

/-- R200-R202, R211-R214: MZER, MLDA and MDRN where port and tile are free: the zeros, the beats that load 16 KiB, or the rows
taken and rounded as they stand; port and tile are occupied 16 or 64 ec. MDRN with V = 1 waits for the tile's version. A
port or tile in use is a schedule fault 0x07, after the checks of the pointer (log entry 86). The tile's flags come when it is ready,
and its version rises when the drain has committed. -/
def Obligations.TileWords : Prop :=
  ∀ (s : State) (ac : BitVec 3) (ty : BitVec 4) (p : BitVec 8) (v k : Bool) (g : BitVec 4) (e r : Nat), s.cur = .core e r .m →
  let ptr := s.rd p.toNat
  let u := s.mat
  let free : Prop := u.portEnd ≤ s.ec ∧ s.tileFree ac = .ok ()
  let es := if ty = 0 then 4 else 2
  (Runs s [] g →
    (free → exec (.mzer ac g) s = .next (((s.setTile ac zeroTile).holdPort 16).occupy ac 16 28 0).advance ∧
      GoesTo (exec (.mzer ac g) s) (fun t => (∀ i j, i < 64 → j < 64 → tileElem (t.tile ac) i j = 0) ∧
        t.mat.portEnd = s.ec + 16 ∧ vget t.mat.ready ac.toNat 0 = s.ec + 28 ∧
        ∀ x, x ≠ ac → t.tile x = s.tile x)) ∧
    (¬ free → exec (.mzer ac g) s = .next (s.raise { cause := 0x07 }))) ∧
  (Runs s (sn [p.toNat]) g →
    (s.mPtr ptr 16384 = .ok () → free → exec (.mlda ac p k g) s =
      .next ((((s.mAcquire k).startBeats (.mlda ac.toNat) ptr 64 true k).holdPort 64).occupy ac 64 76 0).advance) ∧
    (s.mPtr ptr 16384 = .ok () → ¬ free → exec (.mlda ac p k g) s = .next (s.raise { cause := 0x07 })) ∧
    (∀ x, s.mPtr ptr 16384 = .error x → exec (.mlda ac p k g) s = .next (s.stopped x)) ∧
    (s.mPtr ptr (64 * 64 * es) = .ok () → free →
      (v = false ∨ vget u.tver ac.toNat 0 = vget u.texp ac.toNat 0 →
        let rows := (List.range 64).map (fun i => (tileElems (s.tile ac) i).map (drainElem ty.toNat u.rm.toNat))
        exec (.mdrn ac ty p v k g) s = .next (((s.startBeats (.mdrn ac.toNat (rows.map (fun r => r.flatMap (fun x => natLE es x.1)))) ptr 64
          false k).holdPort 64).occupy ac 64 64 (rows.foldl (fun f r => r.foldl (fun f x => f ||| x.2) f) 0)).advance) ∧
      (v = true → vget u.tver ac.toNat 0 ≠ vget u.texp ac.toNat 0 → exec (.mdrn ac ty p v k g) s = .next (s.hold (.version ac)))) ∧
    (s.mPtr ptr (64 * 64 * es) = .ok () → ¬ free → exec (.mdrn ac ty p v k g) s = .next (s.raise { cause := 0x07 })) ∧
    (∀ x, s.mPtr ptr (64 * 64 * es) = .error x → exec (.mdrn ac ty p v k g) s = .next (s.stopped x))) ∧
  (∀ (fl : Flags) (t : BitVec 3) (rel : Bool) (sco : BitVec 3) (c : Core), s.m.core? e r = some c →
    exec (.tileReady e r fl) s = .next { s with m := s.m.updCore e r (fun c => c.orFlags fl) } ∧
    GoesTo (exec (.mdrnComplete e r t rel sco) s) (fun w => ∃ c', w.m.core? e r = some c' ∧
      vget c'.mat.tver t.toNat 0 = vget c.mat.tver t.toNat 0 + 1 ∧ c'.mat.tile = c.mat.tile ∧ c'.scr = c.scr))

/-- R219-R234: with no ladder open LOPN opens the one its LCB describes, when it passes R230, and else faults; the other words
need an open ladder and a free port, else 0x14 or 0x07. LSTP makes one step: its tile goes into the lowest free slot, or
with the carry's merge into the next rung; it faults 0x14 with nothing changed when its carry would pass the depth. LRD
blends the slots into a tile; LWGT reloads factors and weights; LCLS writes the header, closes the ladder, and leaves the
pointer and the next version as its close record. What lies in spill slots, or in another rank's LCB, goes beat by beat; an own LCB
with an error that cannot be corrected is 0x10 (R404). -/
def Obligations.LadderWords : Prop :=
  ∀ (s : State) (p : BitVec 8) (ac : BitVec 3) (v k : Bool) (g : BitVec 4) (e r : Nat), s.cur = .core e r .m →
  let u := s.mat
  let ptr := s.rd p.toNat
  let off := ptrOff ptr
  let port : Prop := u.portEnd ≤ s.ec
  let s1 := s.mAcquire k
  let zero := List.replicate 64 (List.replicate 64 (0 : BitVec 32))
  (Runs s (sn [p.toNat]) g →
    (u.ladder ≠ none → exec (.lopn p k g) s = .next (s.raise { cause := 0x14 })) ∧
    (u.ladder = none → ¬ port → exec (.lopn p k g) s = .next (s.raise { cause := 0x07 })) ∧
    (u.ladder = none → port →
      (∀ x, checkUse s.m s.cur .m ptr off 256 = .error x → exec (.lopn p k g) s = .next (s.stopped x)) ∧
      (checkUse s.m s.cur .m ptr off 256 = .ok () →
        (off % 256 ≠ 0 → exec (.lopn p k g) s = .next (s.raise { cause := 0x06, addr := ptr })) ∧
        (off % 256 = 0 → beyond s.hdr off 256 = true → exec (.lopn p k g) s = .next (s.raise { cause := 0x02, addr := ptr })) ∧
        (off % 256 = 0 → beyond s.hdr off 256 = false →
          (ptrRank ptr = r → s1.lcbSound off 256 = false → exec (.lopn p k g) s = .next (s.raise { cause := 0x10, addr := ptr })) ∧
          (ptrRank ptr = r → s1.lcbSound off 256 = true →
            let c := (s1.lcbRead off 256 k).2
            (∀ x, lopnFault s1.hdr s1.mat.close ptr c = some x → exec (.lopn p k g) s = .next (s.raise { cause := x, addr := ptr })) ∧
            (lopnFault s1.hdr s1.mat.close ptr c = none → GoesTo (exec (.lopn p k g) s) (fun t =>
              t.mat.ladder = some (lcbLadder ptr c) ∧ t.mat.portEnd = s.ec + 48 ∧ t.mat.ladEnd = s.ec + 48))) ∧
          (ptrRank ptr ≠ r → GoesTo (exec (.lopn p k g) s) (fun t => t.mat.ladder = none ∧ t.mat.portEnd = s.ec + 48 ∧
            t.mat.beats.length = s1.mat.beats.length + 1)))))) ∧
  (Runs s [] g →
    (u.ladder = none → exec (.lstp ac v g) s = .next (s.raise { cause := 0x14 }) ∧ exec (.lrd ac v g) s = .next (s.raise { cause := 0x14 }) ∧
      exec (.lwgt k g) s = .next (s.raise { cause := 0x14 }) ∧ exec (.lcls k g) s = .next (s.raise { cause := 0x14 })) ∧
    (∀ l, u.ladder = some l →
      (¬ port → exec (.lstp ac v g) s = .next (s.raise { cause := 0x07 }) ∧ exec (.lrd ac v g) s = .next (s.raise { cause := 0x07 }) ∧
        exec (.lwgt k g) s = .next (s.raise { cause := 0x07 }) ∧ exec (.lcls k g) s = .next (s.raise { cause := 0x07 })) ∧
      (port → s.tileFree ac = .ok () → (v = false ∨ vget u.tver ac.toNat 0 = vget u.texp ac.toNat 0) →
        (l.stepOk = false → exec (.lstp ac v g) s = .next (s.raise { cause := 0x14 })) ∧
        (l.stepOk = true → GoesTo (exec (.lstp ac v g) s) (fun t => t.mat.ladder = some l.stepped ∧ t.mat.portEnd = s.ec + 192 ∧
          vget t.mat.tileEnd ac.toNat 0 = s.ec + 192 ∧ (l.carry = none → t.mat.slot 0 (l.digit 0) = s.tile ac) ∧
          (∀ j, l.carry = some j → j < 5 → l.digit (j + 1) ≤ 1 → t.mat.slot (j + 1) (l.digit (j + 1)) =
            (mergeTiles (l.delta.getD j 0) (u.slot j 0) (if j = 0 then s.tile ac else u.slot j 1)).1) ∧
          (∀ j, l.carry = some j → 5 ≤ j → t.mat.beats.length = u.beats.length + 1))) ∧
        GoesTo (exec (.lrd ac v g) s) (fun t => t.mat.ladder = some l ∧ t.mat.portEnd = s.ec + 32 * l.d ∧ t.mat.rung = u.rung ∧
          (l.d ≤ 6 → t.tile ac = mkTile (u.blend l zero 0).1) ∧ (6 < l.d → t.mat.beats.length = u.beats.length + 1))) ∧
      (port → s.tileFree ac = .ok () → v = true → vget u.tver ac.toNat 0 ≠ vget u.texp ac.toNat 0 →
        (l.stepOk = true → exec (.lstp ac v g) s = .next (s.hold (.version ac))) ∧ exec (.lrd ac v g) s = .next (s.hold (.version ac))) ∧
      (port →
        (ptrRank l.ptr = r → s1.lcbSound (ptrOff l.ptr + 16) 240 = false →
          exec (.lwgt k g) s = .next (s.raise { cause := 0x10, addr := ptrAt l.ptr (ptrOff l.ptr + 16 : Nat) })) ∧
        (ptrRank l.ptr = r → s1.lcbSound (ptrOff l.ptr + 16) 240 = true → GoesTo (exec (.lwgt k g) s) (fun t => t.mat.portEnd = s.ec + 24 ∧
          t.mat.ladder = some (l.reload (s1.lcbRead (ptrOff l.ptr + 16) 240 k).2))) ∧
        (ptrRank l.ptr ≠ r → GoesTo (exec (.lwgt k g) s) (fun t => t.mat.portEnd = s.ec + 24 ∧ t.mat.ladder = some l ∧
          t.mat.beats.length = s1.mat.beats.length + 1)) ∧
        GoesTo (exec (.lcls k g) s) (fun t => t.mat.ladder = none ∧ t.mat.close = some (l.ptr, l.ver + 1) ∧ t.mat.portEnd = s.ec + 48 ∧
          t.mat.rung = u.rung ∧ t.mat.tile = u.tile ∧
          (ptrOff l.ptr % 64 = 0 →
            (ptrRank l.ptr = r → ∀ i, s.iss = some i → ∃ o, t.iss.map (·.bank) = some (i.bank ++ [o]) ∧
              o.entry.loc = .scr e r (ptrOff l.ptr) ∧ o.entry.op = .store (offs l.header)) ∧
            (ptrRank l.ptr ≠ r → ∃ x ∈ t.m.queue, x.2.loc = .scr e (ptrRank l.ptr) (ptrOff l.ptr) ∧ x.2.op = .store (offs l.header)))))))

/-- R219 and R220: a step of a ladder whose digits satisfy the conditions of R220, and whose carry stays below the depth
(R222), leaves digits that satisfy them again, for one contribution more. -/
def Obligations.LadderDigits : Prop :=
  ∀ l : Ladder, 1 ≤ l.d → l.d ≤ 20 → l.ok = true → l.stepOk = true →
    l.stepped.ok = true ∧ l.stepped.n.toNat = l.n.toNat + 1 ∧ l.stepped.depth = l.depth ∧ l.stepped.ptr = l.ptr ∧ l.stepped.ver = l.ver ∧
    (∀ k, k < 20 → l.digit k ≤ 2) ∧ (∀ k, l.d ≤ k → k < 20 → l.digit k = 0) ∧ l.digit 0 ≤ 1

/-! ## Transfer words -/

/-- R300, R301: the configuration words write their fields of the T stream's parameters and nothing else of the core; TDIM
adds its immediate; TIND of s0 turns indirection off. -/
def Obligations.TransferConfiguration : Prop :=
  ∀ (s : State) (p a : BitVec 6) (dim what iw rm : BitVec 2) (imm : BitVec 12) (sty dty : BitVec 4) (j acq rel : BitVec 3)
    (flat sat ben : Bool) (bid : BitVec 8) (tag : BitVec 7) (g : BitVec 4) (e r : Nat), s.cur = .core e r .t →
  let u := s.core.tset
  let v := s.rd a.toNat + imm.signExtend 64
  let sets (i : Instr) (x : TSet) : Prop := GoesTo (exec i s) (fun t => ∃ q, t.m.core? e r = some { s.core with tset := x, seq := q } ∧
    q.sreg = s.core.seq.sreg ∧ q.preg = s.core.seq.preg ∧ q.pend = s.core.seq.pend)
  (Runs s (sn [p.toNat]) g → sets (.tsrc p g) { u with src := s.rd p.toNat } ∧ sets (.tdst p g) { u with dst := s.rd p.toNat } ∧
    sets (.tind dim p iw g) { u with ind := if p = 0 then none else some (dim, s.rd p.toNat, iw == 1) }) ∧
  (Runs s (sn [a.toNat]) g →
    (what = 0 → sets (.tdim dim what a imm g) { u with ext := vset u.ext dim.toNat v }) ∧
    (what = 1 → sets (.tdim dim what a imm g) { u with ss := vset u.ss (dim.toNat - 1) v }) ∧
    (what = 2 → sets (.tdim dim what a imm g) { u with ds := vset u.ds (dim.toNat - 1) v })) ∧
  (Runs s [] g → sets (.tfmt sty dty j flat sat rm g) { u with sty := sty, dty := dty, lvl := j, flat := flat, sat := sat, rm := rm }) ∧
  (Runs s (if ben then [.name (.bar bid.toNat)] else []) g →
    sets (.tsyn acq rel ben bid tag g) { u with acq := acq, rel := rel, ben := ben, bid := bid, tag := tag })

/-- R304, R305, R307, R313-R318: a GO word whose checks pass puts its command into the queue of its T stream; a check that
fails gives its fault; a full queue of four freezes the gang. A KV word first reads the header of its sequence, or takes the one
captured before; a bad header or range is met by its command in flight. The command is the newest of its queue, with the
parameters the stream then holds; its start comes at least 16 pulses later, and until then no byte moves. -/
def Obligations.TransferGoWords : Prop :=
  (∀ (s : State) (p r : BitVec 6) (grp sl : BitVec 8) (op : BitVec 2) (pk : BitVec 3) (drop : Bool) (g : BitVec 4),
    let room : Prop := (s.m.cmdsOf (.t s.gno s.rank)).length < 4
    let goes (c : CmdOp) (i : Instr) : Prop :=
      (∀ t, s.go c [] none = .ok t → exec i s = .next t.advance) ∧ (∀ e, s.go c [] none = .error e → exec i s = .next (s.stopped e)) ∧
      (¬ room → exec i s = .next (s.hold .queueFull))
    let kv (c : CmdOp) (i : Instr) : Prop :=
      (¬ room → exec i s = .next (s.hold .queueFull)) ∧
      (room → ∀ h rep u, s.kvHeader (s.rd p.toNat) = .ok (h, rep, u) →
        let bad := rep <|> (if kvOk h && rangeOk h (s.rd r.toNat) then none else some (0x13, s.rd p.toNat, 0))
        (∀ t, u.go c h bad = .ok t → exec i s = .next t.advance) ∧ (∀ e, u.go c h bad = .error e → exec i s = .next (s.stopped e))) ∧
      (room → ∀ e, s.kvHeader (s.rd p.toNat) = .error e → exec i s = .next (s.stopped e))
    (Runs s [] g → goes .tcpy (.tcpy g) ∧ goes .tlvl (.tlvl g) ∧ goes .tenc (.tenc g) ∧ goes .tpak (.tpak g) ∧ goes .tunp (.tunp g) ∧
      (2 ≤ op.toNat → goes (.tcol grp op) (.tcol grp op g))) ∧
    (Runs s [.name (.grp grp.toNat)] g → op.toNat < 2 → goes (.tcol grp op) (.tcol grp op g)) ∧
    (Runs s [.name (.slot sl.toNat)] g → goes (.tops sl) (.tops sl g)) ∧
    (Runs s (sn [p.toNat]) g → goes (.tfil (s.rd p.toNat)) (.tfil p g)) ∧
    (Runs s (sn [p.toNat, r.toNat]) g →
      kv (.tkvf (s.rd p.toNat) (s.rd r.toNat) pk) (.tkvf p r pk g) ∧ kv (.tdrp (s.rd p.toNat) (s.rd r.toNat) drop) (.tdrp p r drop g))) ∧
  (∀ (s t : State) (op : CmdOp) (h : List Byte) (bad : Option (BitVec 8 × Word × BitVec 128)), s.go op h bad = .ok t →
      ∃ id c, t.m.cmds = s.m.cmds ++ [(id, c)] ∧ id = s.m.nextId ∧ c.owner = .t s.gno s.rank ∧ c.op = op ∧ c.set = s.core.tset ∧
        c.vd = s.vd ∧ c.started = false ∧ c.pos = 0 ∧ c.err = bad ∧
        (∃ at_, t.m.agenda.getLast? = some ⟨.pulse (s.m.clusterOf s.gno).1 (s.m.clusterOf s.gno).2, at_, .transferStart id⟩ ∧
          s.m.pulses (s.m.clusterOf s.gno).1 (s.m.clusterOf s.gno).2 + 16 ≤ at_) ∧
        t.m.dev = s.m.dev ∧ t.m.host = s.m.host)

/-! ## Loupe words -/

/-- R338-R344: a LOUPE word on a gang core is illegal (0x01). On a Loupe core each whose
pointers, descriptor and control fields pass the checks of R338-R343 launches its command, with its units of work and its
result; one whose first pointer fails them stops with no other effect. That the 1 MiB of LGATH and LPOOL count distinct rows, and those
of LSCAT its N rows, is log entry 34. -/
def Obligations.LoupeWords : Prop :=
  ∀ (s : State) (g : BitVec 4) (n : Bool) (d a b : BitVec 6),
  (∀ k r st, s.cur = .core k r st → (s.m.seq? s.cur).isSome = true →
    ∀ i ∈ [Instr.lhash g n d a b, .lgath g n d a b, .lpool g n d a b, .lscat g n d a b, .lhand g n d a b],
      exec i s = .next (s.raise { cause := 0x01 })) ∧
  (∀ e i c, s.cur = .loupe e i c → Runs s (sn [d.toNat, a.toNat, b.toNat]) g n →
    let s1 := s.lready
    let p := s1.rd a.toNat
    let q := s1.rd b.toNat
    let ctl := s1.rd d.toNat
    let h := s1.lread p 32
    let h16 := s1.lread p 16
    let launched (t : State) (op : CmdOp) (units : Nat) (res : Word) : Prop := ∃ id c, t.m.cmds = s1.m.cmds ++ [(id, c)] ∧
      c.owner = s1.lctx ∧ c.op = op ∧ c.started = true ∧ c.units = units ∧ c.result = res ∧ c.pos = 0
    (s1.lptr [2] 0x03 p 16 = .ok () → ptrOff p % 16 = 0 → s1.lfield [0, 2] (BitVec.ofNat 64 (descBits h16 64 64)) 8 8 = .ok () →
      descBits h16 7 57 = 0 → 1 ≤ descBits h16 0 6 → descBits h16 0 6 ≤ 30 →
      s1.lprobes (BitVec.ofNat 64 (descBits h16 64 64)) q (descBits h16 0 6) (if q = BitVec.allOnes 64 then 0 else 8) = .ok () →
      GoesTo (exec (.lhash g n d a b) s) (fun t => launched t (.lhash p q) (if q = BitVec.allOnes 64 then 0 else 8) (BitVec.allOnes 64))) ∧
    (∀ x, s1.lptr [2] 0x03 p 16 = .error x → exec (.lhash g n d a b) s = .next (s.stopped x)) ∧
    (∀ x, s1.lptr [2] 0x03 p 32 = .error x → exec (.lgath g n d a b) s = .next (s.stopped x) ∧
      exec (.lpool g n d a b) s = .next (s.stopped x) ∧ exec (.lscat g n d a b) s = .next (s.stopped x)) ∧
    (∀ x, s1.lptr [2] 0x03 p (handNb ctl) = .error x → exec (.lhand g n d a b) s = .next (s.stopped x)) ∧
    (∀ l, s1.lptr [2] 0x03 p 32 = .ok () → ptrOff p % 32 = 0 → s1.lfield [2] (rowDst h) (rowLen h * rowN h) 1 = .ok () →
      s1.lfield [0, 2] (rowBase h) 1 64 = .ok () → s1.lfield [2] (rowList h) (4 * rowN h) 4 = .ok () → rowFieldsOk h = true → q = 0 →
      s1.lindices h 0 (rowN h) = .ok l → l.eraseDups.length * rowLen h ≤ 2 ^ 20 →
      GoesTo (exec (.lgath g n d a b) s) (fun t => launched t (.lgath p) (l.eraseDups.length * rowPieces h) (BitVec.ofNat 64 l.eraseDups.length))) ∧
    (∀ l, let offs := words4 (s1.lread q (4 * (rowN h + 1)))
      s1.lptr [2] 0x03 p 32 = .ok () → s1.lptr [2] 0x03 q (4 * (rowN h + 1)) = .ok () → ptrOff p % 32 = 0 → ptrOff q % 4 = 0 →
      s1.lfield [2] (rowDst h) (rowLen h * rowN h) 1 = .ok () → s1.lfield [0, 2] (rowBase h) 1 64 = .ok () →
      s1.lfield [2] (rowList h) (if offs.headD 0 < offs.getLastD 0 then 4 * offs.getLastD 0 else 0) 4 = .ok () → rowFieldsOk h = true →
      (∀ x ∈ List.zip offs (offs.drop 1), x.1 ≤ x.2) → s1.lindices h (offs.headD 0) (offs.getLastD 0) = .ok l →
      l.eraseDups.length * rowLen h ≤ 2 ^ 20 →
      GoesTo (exec (.lpool g n d a b) s) (fun t => launched t (.lpool p q)
        ((l.eraseDups.length + rowN h) * rowPieces h) (BitVec.ofNat 64 (rowN h)))) ∧
    (∀ l, s1.lptr [2] 0x03 p 32 = .ok () → s1.lptr [2] 0x03 q (rowN h * rowLen h) = .ok () → ptrOff p % 32 = 0 → ptrOff q % 4 = 0 →
      rowDst h = 0 → s1.lfield [0, 2] (rowBase h) 1 64 = .ok () → s1.lfield [2] (rowList h) (4 * rowN h) 4 = .ok () → rowFieldsOk h = true →
      s1.lindices h 0 (rowN h) = .ok l → rowN h * rowLen h ≤ 2 ^ 20 →
      GoesTo (exec (.lscat g n d a b) s) (fun t => launched t (.lscat p q) (rowN h * rowPieces h) (BitVec.ofNat 64 (rowN h)))) ∧
    (∀ k x bar, let nb := handNb ctl
      s1.m.gangOf (s1.m.jobNo s1.cur) (handGang ctl) = some k → s1.m.gang? k = some x →
      s1.lptr [2] 0x03 p nb = .ok () → ptrSpace q = 1 → ptrRank q < x.cores.length → ptrOff q + nb ≤ 2 ^ 21 → ptrOff p % 64 = 0 →
      ptrOff q % 64 = 0 → fld ctl 57 7 = 0 → nb % 64 = 0 → nb ≤ 2 ^ 20 → handSco ctl ≠ 6 → (handBen ctl = true ∨ handBid ctl = 0) →
      beyond s1.hdr (ptrOff q) nb = false → (handBen ctl = true → (handBid ctl).toNat < s1.hdr.nbar) →
      s1.bindBar (handBen ctl) (handBid ctl) = .ok bar →
      GoesTo (exec (.lhand g n d a b) s) (fun t => launched t (.lhand p q ctl) (nb / 64) 0)))

/-! ## Events -/

/-- R264, R265, R60, R270, R292, R297, R204: the events of the memory order and of barriers. ACCESS_COMMIT takes a queued
access out of its queue after what keeps it there (one that nothing keeps there and no repair or channel holds is performed, unless
it may leave early), or later when a repair or a channel holds it; a release at a narrow scope may leave before stores of other
nonzero classes, an access before older acquires (log entry 9). VIEW_BUFFER_DROP
drops one copy of the granule, of the agent or of one of its commands, and changes no byte; REPLY_ARRIVAL marks a whole reply arrived; BARRIER_ARRIVAL_COUNT counts an arrival in
its generation, or for the next; JOIN_RELEASE releases a closed join; LEASE_TAKEOVER ends the taker's freeze and gives it
its count. -/
def Obligations.OrderingEvents : Prop :=
  ∀ (s : State),
  (∀ id q, tget s.m.queue id = some q →
    let m := s.m.fresh
    let past := ((m.blockers id q).filter (fun p => m.mayPass p.2 q)).map (·.1)
    let held := m.stalled q.loc q.op.size q.op.isStore q.walk
    exec (.accessCommit id) s = .next { s with
      m := if held then (m.trapFor q.loc q.op.size).schedule .mc (m.time + 1) (.accessCommit id)
        else if q.mayHurry && m.flip 12 then m.hurry id q
        else if !past.isEmpty && m.flip 14 then m.pass id q past
        else Mach.force (m.queue.length + 1) m id } ∧
    (held = false → m.blockers id q = [] → q.mayHurry = false →
      exec (.accessCommit id) s = .next { s with m := m.fresh.perform id q true })) ∧
  (∀ a gran, s.m.copiesOf a gran ≠ [] → GoesTo (exec (.viewBufferDrop a gran) s) (fun t =>
    t.m = { s.m with copies := t.m.copies, freeCtr := t.m.freeCtr } ∧ ∃ c, c ∈ s.m.copiesOf a gran ∧ t.m.copies = s.m.copies.erase c)) ∧
  (∀ id r, tget s.m.replies id = some r → r.missing = 0 → r.arrived = false → r.page = none →
    GoesTo (exec (.replyArrival id) s) (fun t => tget t.m.replies id = some { r with arrived := true } ∧
      t.m = { s.m with replies := t.m.replies })) ∧
  (∀ vd k gen b, tget (s.m.vd vd).bars k = some b → GoesTo (exec (.barrierArrivalCount vd k gen) s) (fun t =>
    tget (t.m.vd vd).bars k = some (if gen = b.gen then { b with arr := b.arr + 1, dirty := true }
      else { b with harr := b.harr + 1, dirty := true }))) ∧
  (∀ vd grp jn p, tget (s.m.vd vd).joins grp = some jn → jn.closedAt.isSome = true →
    s.m.jobs.find? (fun p => p.2.vd == vd && decide (p.2.grpBase ≤ grp) && decide (grp < p.2.grpBase + p.2.hdr.ngrp) &&
      (p.2.st == .running || p.2.st == .stopped || p.2.st == .bound)) = some p →
    exec (.joinRelease vd grp) s = .next { s with m := s.m.joinRelease p.2 grp (grp - p.2.grpBase) }) ∧
  (∀ g quad pos cnt x c, s.m.gang? g = some x → x.causes.any (fun c => c.kind == .lease quad pos cnt) = true →
    x.cores[4 * quad + pos]? = some c → GoesTo (exec (.leaseTakeover g quad pos cnt) s) (fun t =>
      (t.m.gang? g).map (·.causes) = some (x.causes.filter (fun c => c.kind != .lease quad pos cnt)) ∧
      (t.m.core? g (4 * quad + pos)).map (·.mat.leasec) = some cnt)) ∧
  (∀ g quad pos cnt x, s.m.gang? g = some x → x.causes.any (fun c => c.kind == .lease quad pos cnt) = true →
    Goes (exec (.leaseTakeover g quad pos cnt) s))

/-- R305, R319, R320, R334, R338, R344, R345, R370: the events of transfers and Loupe commands. TRANSFER_START starts a command;
TRANSFER_COMPLETE ends the oldest of its core, finished; TRANSFER_FAULT ends one with its fault, its targets conflicts and its
barrier an orphan (log entry 67); COMMAND_HALT posts the page a halted one waits for; a finished Loupe command gives its result, a
finished LHAND completes; LOUPE_SLICE_END hands a Loupe core on for another 8192 mc, counted in cycles of its die (log entry 28). -/
def Obligations.TransferEvents : Prop :=
  ∀ (s : State),
  (∀ id c g r, tget s.m.cmds id = some c → c.owner = .t g r → c.started = false →
    Goes (exec (.transferStart id) s) ∧
    (c.acq = 7 → c.err = none → c.units ≠ 0 → (∀ p r pk, c.op ≠ .tkvf p r pk) →
      exec (.transferStart id) s = .next { s with m := (s.m.settleBank g r 0).updCmd id (fun c => { c with started := true }) })) ∧
  (∀ id c g r, tget s.m.cmds id = some c → c.owner = .t g r → c.finished = true →
    (s.m.cmdsOf c.owner).head?.map (·.1) = some id →
    GoesTo (exec (.transferComplete id) s) (fun t => tget t.m.cmds id = none) ∧
    ((∀ p r pk, c.op ≠ .tkvf p r pk) → exec (.transferComplete id) s = .next { s with m := s.m.cmdDone id c })) ∧
  (∀ id c e, tget s.m.cmds id = some c → c.err = some e →
    exec (.transferFault id e.1) s = .next { s with m := s.m.cmdCancel id c true e }) ∧
  (∀ id c va write, tget s.m.cmds id = some c → c.halted = some (va, write) →
    exec (.commandHalt id va) s = .next { s with m := (s.m.postPage va write c.vd (.cmd id) c.goix).2 } ∧
    (s.m.postPage va write c.vd (.cmd id) c.goix).2.mgmt.notices =
      s.m.mgmt.notices ++ [.page s.m.nextId va write c.vd (.cmd id) c.goix]) ∧
  (∀ id c d i k, tget s.m.cmds id = some c → c.owner = .l d i k → c.finished = true →
    GoesTo (exec (.loupeCommandComplete id) s) (fun t => tget t.m.cmds id = none ∧
      t.m = (s.m.cmdGone id).updCtx d i k (fun x => { x with seq := x.seq.setS c.dreg c.result }) ∧
      s.m.cmdGone id = { s.m with cmds := t.m.cmds, copies := t.m.copies, touched := t.m.touched }) ∧
    exec (.lhandComplete id) s = .next { s with m := s.m.cmdDone id c }) ∧
  (∀ die idx l, s.m.loupe? die idx = some l → l.sliceEnd ≤ s.m.dieCycles die → GoesTo (exec (.loupeSliceEnd die idx) s) (fun t =>
    (t.m.loupe? die idx).map (·.sliceEnd) = some (s.m.dieCycles die + 8192) ∧ t.m.gangs = s.m.gangs))

/-- R53, R102-R113: the events of launches. LNOTIFY and KERNEL_LAUNCH capture a launch record, the kernel's with privilege; a graph
edit makes a new version, numbered modulo 2^16 from 1 (log entry 77); BIND binds the launch of a virtual device that is first in
rank, when it can be placed, and with none leaves jobs and gangs alone, once gangs saved alone have gone on (that these are bound
first, alone, is log entry 43, and a launch of the kernel's with save areas log entry 29, both the model's); JOB_LOAD loads the
gangs whose bind records are written, puts them back when a record is refused, and ends the job with CLASS 3 when its data cannot
be written, or with CLASS 1 and cause 0x10 when the image it restores cannot be read (log entry 17). A core at a fresh load has s2-s5 as R110 gives them, the lenses of LENSP, every other scalar 0, and its streams that
have code live at word 0. START_CYCLE makes every loaded gang run from this master cycle. -/
def Obligations.LaunchEvents : Prop :=
  ∀ (s : State) (vd job : Nat),
  (∀ p, exec (.lnotify vd p) s = .next { s with m := s.m.capture vd p false none } ∧
    ∀ areas, exec (.kernelLaunch vd ⟨p, areas⟩) s = .next { s with m := s.m.capture vd p true none areas }) ∧
  ((s.m.vd? vd).isSome = true →
    (∀ (graph : BitVec 32) l, graph ≠ 0 → GoesTo (exec (.graphEdit vd graph l) s) (fun t =>
      tget (t.m.vd vd).graphs graph.toNat =
        some ((((tget (s.m.vd vd).graphs graph.toNat).map (·.1)).getD 0 + 1) % 65536, l))) ∧
    (s.m.bindPaused vd = false →
      let b := (s.m.fresh.waitingBack vd).foldl (fun m p => m.bindAlone p.1 p.2) s.m.fresh
      Goes (exec (.bind vd) s) ∧
      (b.ranked vd = [] → GoesTo (exec (.bind vd) s) (fun t => t.m = { b with agenda := t.m.agenda, freeCtr := t.m.freeCtr })) ∧
      (s.m.waitingBack vd = [] → b.ranked vd = [] →
        GoesTo (exec (.bind vd) s) (fun t => t.m.jobs = s.m.jobs ∧ t.m.gangs = s.m.gangs)) ∧
      (∀ id j rest p w a, b.ranked vd = (id, j) :: rest → b.fits vd j = some (p, w, a) →
        GoesTo (exec (.bind vd) s) (fun t =>
          let b := b.bindJob id j p w.1 w.2 a
          t.m = { b with agenda := t.m.agenda, freeCtr := t.m.freeCtr })) ∧
      (∀ id j rest, b.ranked vd = (id, j) :: rest → b.fits vd j = none →
        GoesTo (exec (.bind vd) s) (fun t => t.m = { b with agenda := t.m.agenda, freeCtr := t.m.freeCtr })))) ∧
  (∀ j, s.m.job? job = some j → j.isBound = true → s.m.boundOnly j ≠ [] →
    let bad := (s.m.boundOnly j).any (fun g => (s.m.gang? g).any s.m.recordBad)
    let lost := s.m.imagesBad j (s.m.boundOnly j)
    let read := s.m.readImages j (s.m.boundOnly j)
    (j.st ≠ .bound → exec (.jobLoad job) s = .next { s with
      m := if bad then s.m.refuseAlone job j (s.m.boundOnly j) else if lost then read.endStopped job 1 0x10 0
        else s.m.loadAlone job j (s.m.boundOnly j) }) ∧
    (j.st = .bound → bad = true → exec (.jobLoad job) s = .next { s with m := s.m.refuseBind job j }) ∧
    (j.st = .bound → bad = false → lost = true → exec (.jobLoad job) s = .next { s with m := read.endJob job 1 0x10 0 }) ∧
    (j.st = .bound → bad = false → lost = false → j.saved ≠ [] → exec (.jobLoad job) s = .next { s with m := s.m.loadJob job j }) ∧
    (j.st = .bound → bad = false → lost = false → j.saved = [] → exec (.jobLoad job) s =
      match s.m.loadGlb j with
      | .ok m => .next { s with m := m.loadJob job j }
      | .error c => .next { s with m := s.m.endJob job 3 c.toNat 0 })) ∧
  (∀ (j : Job) (x : Gang) vg r, x.resume = false → r < j.hdr.gsize →
    (s.m.loadGang j x vg).run = .loaded ∧ ∃ c, (s.m.loadGang j x vg).cores[r]? = some c ∧
      c.lens = j.img.lens ∧ c.dg = vg ∧ c.seq.code = j.img.code ∧ c.seq.guards = j.img.guards ∧
      c.seq.sreg[2]? = some (mkPtr 1 r 0x1F0000) ∧ c.seq.sreg[3]? = some (BitVec.ofNat 64 r) ∧
      c.seq.sreg[4]? = some (BitVec.ofNat 64 j.hdr.gsize) ∧ c.seq.sreg[5]? = some (mkPtr 1 r 0) ∧
      (∀ k, k < 56 → k < 2 ∨ 5 < k → c.seq.sreg[k]? = some 0) ∧
      ∀ st : Stream, c.seq.regs st = { st := if vget j.hdr.csz st.idx 0 = 0 then .unused else .live }) ∧
  (∀ j, s.m.job? job = some j → j.st = .bound → s.m.boundOnly j = [] →
    (∃ g x, g ∈ j.gangs ∧ s.m.gang? g = some x ∧ x.run = .loaded) →
    GoesTo (exec (.startCycle job) s) (fun t => (t.m.job? job).map (·.st) = some .running ∧
      ∀ g x, g ∈ j.gangs → s.m.gang? g = some x → x.run = .loaded →
        (t.m.gang? g).map (fun y => (y.run, y.start)) = some (.running, s.m.time)))

/-- R65, R66, R75, R370, R371, R390-R399, R406: what stops and resumes gangs. A freeze at its limit faults 0x0D with the word of
the oldest cause, a yield that does not come in time 0x0F; HALT_REMOTE_STOP stops the other gangs with cause 0; the kernel
ends a stopped job with CLASS 1 and its cause, resumes a gang in place with the values it returns (one with reported accesses to
execute again does those as well, log entry 87), has it saved and lets it go on (what KERNEL_RESUME_IN_PLACE does with a gang saved
alone, and the list that KERNEL_SAVE keeps for it, are log entry 43, the model's), and ends the service of a page by mapping it, with
a TLBI (log entry 85), by the fault 0x05 or 0x04 (log entry 41), or by ending the job with CLASS 4; TLBI's cause ends with the
invalidations, and a Loupe program that waits for them goes on. -/
def Obligations.StopEvents : Prop :=
  ∀ (s : State),
  (∀ (g : Nat) (x : Gang), s.m.gang? g = some x →
    (∀ c, oldestCause x.causes = some c → s.m.watchdog g x = true → exec (.freezeTimeout g) s = .next { s with
      m := ((s.m.rampAfter x).mergeDue g x).takeStop g (x.mkReport s.m.time c.rank c.strm c.pc 2 { cause := 0x0D }) }) ∧
    (x.run = .running → s.m.spacingMet g x = true → ∃ r strm pc, exec (.yieldSpacingFault g) s = .next { s with
      m := s.m.takeStop g (x.mkReport s.m.time r strm pc 2 { cause := 0x0F }) }) ∧
    (∀ due, x.haltAt = some due → due ≤ s.m.time → x.run = .running → exec (.haltRemoteStop g) s = .next { s with
      m := (s.m.updGang g (fun x => { x with haltAt := none })).takeStop g
        { gang := x.idx, time := BitVec.ofNat 64 s.m.time, halt := true } }) ∧
    (∀ r st c, x.causes.find? (fun c => c.rank == r && (c.kind.tlbi?).isSome) = some c →
      GoesTo (exec (.tlbiComplete (.core g r st)) s) (fun t => ∀ y, t.m.gang? g = some y → c ∉ y.causes)) ∧
    (x.run = .stopped → x.killed = false → x.report.any (fun r => savable r.cause) = true →
      GoesTo (exec (.kernelSave g) s) (fun t => (t.m.gang? g).map (·.run) = some .yielded ∧ Notice.stop g ∉ t.m.mgmt.notices ∧
        ∀ j, s.m.job? x.job = some j → (t.m.job? x.job).map (·.kept) = some (j.kept ++ [g]))) ∧
    (∀ j, s.m.job? x.job = some j → j.ending = none → x.run = .stopped → x.report.any (fun r => resumable r.cause) = true →
      ∀ vs, GoesTo (exec (.kernelResumeInPlace g vs) s) (fun t =>
        (x.redo = [] → t.m.gang? g = some (x.returned vs).resumed) ∧ Notice.stop g ∉ t.m.mgmt.notices))) ∧
  (∀ g id j vs, s.m.gang? g = none → s.m.jobs.find? (fun p => p.2.kept.contains g) = some (id, j) → j.ending = none →
    (tget j.saved g).isSome = true → exec (.kernelResumeInPlace g vs) s = .next { s with m := s.m.letGo id j g }) ∧
  (∀ d i k x a, s.m.ctx? d i k = some x → x.run = .tlbi a →
    GoesTo (exec (.tlbiComplete (.loupe d i k)) s) (fun t => ∀ y, t.m.ctx? d i k = some y → y.run = .running)) ∧
  (∀ job c, (s.m.job? job).bind s.m.stopCause = some c →
    exec (.kernelEndJob job) s = .next { s with m := s.m.endStopped job 1 c.toNat 0 }) ∧
  (∀ id va w v who goix,
    s.m.mgmt.notices.find? (Notice.isPage id) = some (.page id va w v who goix) →
    let m := s.m.acknowledge (Notice.isPage id)
    exec (.pageFaultService id .map) s = .next { s with m := (m.dropWalks v va).endService id va who none } ∧
    exec (.pageFaultService id .convert) s = .next { s with m := m.endService id va who (some 0x05) } ∧
    exec (.pageFaultService id .refuse) s = .next { s with m := m.endService id va who (some 0x04) } ∧
    exec (.pageFaultService id .kill) s = .next { s with m := m.endStopped (m.whoJob who) 4 0 0 })

/-- R76, R106, R400-R404: pre-emption, saves and checkpoints. PREEMPT_REQUEST asks every gang of a bound or saved job, once; when
every gang stands at its yield point the hold of those that are held ends, and with it their freeze if nothing else freezes them; a save takes a yielded gang off its cores when every
piece of its image is written, and the job with the last (what the image holds and how long it takes are log entries 13 and 66); a
checkpoint whose last piece is written is released and lets the gang go on; a piece that meets a page fault posts it and the
gang waits, one that meets any other fault stops it (its pointer and cause are the report's; log entry 13). -/
def Obligations.SaveEvents : Prop :=
  ∀ (s : State),
  (∀ job j, s.m.job? job = some j → j.isBound = true ∨ j.saved ≠ [] → GoesTo (exec (.preemptRequest job) s) (fun t =>
    ∀ g x, g ∈ j.gangs → s.m.gang? g = some x → (t.m.gang? g).map (·.preempt) = some (some (x.preempt.getD s.m.time)))) ∧
  (∀ job j, s.m.job? job = some j → s.m.allStand j = true → j.gangs.any (fun g => (s.m.gang? g).any Gang.isHeld) = true →
    GoesTo (exec (.yieldHoldRelease job) s) (fun t => ∀ g x, g ∈ j.gangs → s.m.gang? g = some x → x.isHeld = true →
      let l := x.causes.filter (fun c => c.kind != .yieldHold)
      (t.m.gang? g).map (fun y => (y.run, y.causes, y.frozen)) = some (x.run, l, if l.isEmpty then 0 else x.frozen))) ∧
  (∀ g x j, s.m.gang? g = some x → s.m.job? x.job = some j →
    (x.run = .yielded → x.wrote.isSome = true → s.m.savePiece x j = none → j.ending = none →
      exec (.contextSave g) s = .next { s with m := (s.m.saveGang g).savedOne x.job } ∧ (s.m.saveGang g).gang? g = none) ∧
    (∀ a p, x.run = .draining a → (a = .check ∨ a = .checkThenSave) → x.pck = some p → x.wrote.isSome = true → s.m.drained g = true →
      x.causes.any (fun c => c.kind.isPage) = false →
      (s.m.checkPiece x j = none → exec (.checkpoint g) s = .next { s with m := (s.m.bumpVg x.vd).checked g x a }) ∧
      (∀ b c q, s.m.checkPiece x j = some b → s.m.writeThrough x.vd p b = .error (c, q) →
        exec (.checkpoint g) s = .next { s with m := s.m.checkFails g x c q } ∧
        (c = 0x04 → (s.m.checkFails g x c q).mgmt.notices = s.m.mgmt.notices ++ [.page s.m.nextId q true x.vd (.save g) 0] ∧
          ∃ k : Cause, k.kind = .pageFault s.m.nextId q true ∧ ((s.m.checkFails g x c q).gang? g).map (·.causes) = some (x.causes ++ [k])) ∧
        (c ≠ 0x04 → ∃ rep : Report, rep.cause = c ∧ (reportsAddr c = true → rep.addr = q) ∧ s.m.checkFails g x c q =
          (((s.m.keepWalk x.vd (ptrOff q)).fresh.rampAfter x).updGang g (fun x => { x with pck := none })).takeStop g rep))))

/-- R387-R389 and R416-R418: the commands of a queue. Each is done whenever it heads its queue: it is taken off it, one on
a queue that may not give it ends with status 2, and its result and status go into its entry, whose phase inverts; LAUNCH ends with
its launch, VD-DESTROY with the teardown (log entry 89). The layouts of arguments and answers, and the statuses where R388 names none, are log
entries 27, 46 (VD-WAKE's status 2) and 14 (FW-UPDATE's status 4). IDENTIFY,
STATUS, LOG and ATTEST are for every queue; SELFTEST, VD-CREATE, VD-DESTROY and FW-UPDATE for the physical function's;
LAUNCH and LOAD-IMAGE for a virtual device's; VD-SLEEP for the physical function's and the device's own, VD-WAKE for the
physical function's and those that WPERM names; SET-CAP for all but a virtual device's. -/
def Obligations.QueueCommands : Prop :=
  ∀ (s : State) (q : CmdQueue) (c : HostCmd), s.m.headCmd q = some c →
  let m0 := s.m.fresh.popCmd q
  let ends (m : Mach) (r : Word) (st : Nat) : Host.Outcome State Fault Refusal := .next { s with m := (m.finishEntry c.ref r st).poll q }
  let t := c.target
  let ptr := BitVec.ofNat 64 (leNat (c.args.take 8))
  (c.opc = 1 → exec (.identify q) s = ends (m0.give c Config.identity) 0 0) ∧
  (c.opc = 2 → ∃ bytes, bytes.take 8 = natLE 8 m0.mgmt.selfWord.toNat ∧
    exec (.status q) s = ends (m0.give c bytes) m0.mgmt.selfWord 0) ∧
  (c.opc = 3 → ∃ bytes, exec (.log q) s = ends (m0.give c bytes) (BitVec.ofNat 64 bytes.length) 0) ∧
  (c.opc = 4 → (q ≠ .phys → exec (.selftest q) s = ends m0 0 2) ∧
    (q = .phys → m0.vds ≠ [] → exec (.selftest q) s = ends m0 0 5) ∧
    (q = .phys → m0.vds = [] →
      let g := m0.mgmt.tested
      let g := { g with booted := g.booted && (g.self &&& selfCauses) == 0 }
      exec (.selftest q) s = ends ({ m0 with mgmt := g }.powerAll g.booted) g.selfWord 0)) ∧
  (c.opc = 5 → (q ≠ .phys → exec (.vdCreate q) s = ends m0 0 2) ∧
    (q = .phys → (m0.mgmt.booted = false ∨ ∀ v, v < 16 → (m0.vd? v).isSome = true) → exec (.vdCreate q) s = ends m0 0 4) ∧
    (∀ u, q = .phys → m0.mgmt.booted = true → u < 16 → m0.vd? u = none → (∀ v, v < u → (m0.vd? v).isSome = true) →
      match m0.newVd (m0.buffer c) with
      | .error st => exec (.vdCreate q) s = ends m0 0 st
      | .ok v => ∃ m, exec (.vdCreate q) s = ends m (BitVec.ofNat 64 u) 0 ∧ m.vd? u = some { v with idleSince := s.m.time })) ∧
  (c.opc = 6 → (q ≠ .phys → exec (.vdDestroy q) s = ends m0 0 2) ∧
    (∀ v, q = .phys → m0.vd? t = some v → v.closing = none →
      exec (.vdDestroy q) s = .next { s with m := (m0.beginTeardown t c.ref).poll q } ∧ (m0.destroyVd t v c.ref).vd? t = none) ∧
    (∀ v, q = .phys → m0.vd? t = some v → v.closing.isSome = true → exec (.vdDestroy q) s = ends m0 0 5) ∧
    (q = .phys → m0.vd? t = none → exec (.vdDestroy q) s = ends m0 0 3)) ∧
  (c.opc = 7 → (q ≠ .phys → q ≠ .vf t → exec (.vdSleep q) s = ends m0 0 2) ∧
    ((q = .phys ∨ q = .vf t) →
      (m0.vd? t = none → exec (.vdSleep q) s = ends m0 0 3) ∧
      (∀ v, m0.vd? t = some v → v.closing.isSome = true → exec (.vdSleep q) s = ends m0 0 3) ∧
      (∀ v, m0.vd? t = some v → v.closing = none →
        (v.st = .waking → exec (.vdSleep q) s = ends m0 0 5) ∧
        (v.st = .active → exec (.vdSleep q) s = ends (m0.startCollapse t) 0 0) ∧
        (v.st = .collapsing ∨ v.st = .dormant → exec (.vdSleep q) s = ends m0 0 0)))) ∧
  (c.opc = 8 →
    (∀ u, q = .vf u → (16 ≤ u ∨ (s.m.vd t).wperm.getLsbD u = false) → exec (.vdWake q) s = ends (m0.ignoreWake t) 0 2) ∧
    (q = .mctp → exec (.vdWake q) s = ends m0 0 2) ∧
    (q = .phys ∨ (∃ u, q = .vf u ∧ u < 16 ∧ (s.m.vd t).wperm.getLsbD u = true) →
      ((m0.vd? t).any (fun v => v.closing.isNone) = true → exec (.vdWake q) s = ends (m0.wake t) 0 0) ∧
      ((m0.vd? t).any (fun v => v.closing.isNone) = false → exec (.vdWake q) s = ends m0 0 3))) ∧
  (c.opc = 9 → ((∀ v, q ≠ .vf v) → exec (.loadImage q) s = ends m0 0 2) ∧
    (∀ v, q = .vf v → exec (.loadImage q) s = match m0.mgmtWrite true v ptr (m0.buffer c) with
      | .ok m => ends m 0 0
      | .error _ => ends m0 0 3)) ∧
  (c.opc = 10 → ((∀ v, q ≠ .vf v) → exec (.launch q) s = ends m0 0 2) ∧
    (∀ v, q = .vf v → exec (.launch q) s = .next { s with m := (m0.capture v ptr false (some c.ref)).poll q })) ∧
  (c.opc = 11 → ∃ vd, exec (.attest q) s = ends (m0.give c (m0.attestation vd ((c.args ++ List.replicate 32 0).take 32))) 0 0) ∧
  (c.opc = 12 → (∀ v, q = .vf v → exec (.setCap (.queue q)) s = ends m0 0 2) ∧
    ((∀ v, q ≠ .vf v) → exec (.setCap (.queue q)) s = ends (m0.capMessage (BitVec.ofNat 32 (leNat (c.args.take 4)))
      (leNat ((c.args.drop 4).take 4)) (leNat ((c.args.drop 8).take 4))) 0 0)) ∧
  (c.opc = 13 → (q ≠ .phys → exec (.fwUpdate q) s = ends m0 0 2) ∧
    (q = .phys →
      let b := m0.buffer c
      let kind := leNat ((b.drop 4).take 4)
      let second := !(vget m0.mgmt.active (kind - 1) false)
      let g := { m0.mgmt with flash := vupd m0.mgmt.flash (kind - 1) (fun p => if second then (p.1, b) else (b, p.2)) }
      let good : Bool := kind != 0 && decide (kind ≤ 3) && imageOk kind (vget m0.mgmt.fuses (kind - 1) 0) b
      exec (.fwUpdate q) s =
        if !good then ends m0 0 6
        else if flashBytes < g.flashUsed then ends m0 0 4
        else ends { m0 with mgmt := { g with nextBank := vset g.nextBank (kind - 1) second } } 0 0)) ∧
  (∀ (m : Mach) (r : Word) (st : Nat), c.ref.queue ≠ .mctp → Memory.wf m.host = true →
    let a := (m.queueOf c.ref.queue).1 + 64 * c.ref.slot
    let h := (m.finishEntry c.ref r st).host
    Memory.get h (a + 4) = Memory.get m.host (a + 4) ^^^ 1#8 ∧ Memory.get h (a + 5) = BitVec.ofNat 8 st ∧
    (∀ n, n < 8 → Memory.get h (a + 8 + n) = BitVec.ofNat 8 (r.toNat / 2 ^ (8 * n))) ∧
    ∀ n, n ≠ a + 4 → n ≠ a + 5 → ¬ (a + 8 ≤ n ∧ n < a + 16) → Memory.get h n = Memory.get m.host n)

/-- R96, R115-R121, R376-R383, R325: power and sleep, and accesses from outside. At a frame boundary of its die a cluster
takes the entries last written; a lowered cap that has waited 2^20 mc of its die (log entry 28) is applied; a newer cap message sets the budget and its lease, an
older one nothing, and an expired lease the floor budget; in the safe talkative state a message is kept for later. A master clock
changes only while no gang is bound on its die (R116), and the die's count of cycles goes on from where it stands: frames are counted
in the die's own cycles, its clock a fraction of the rate of TIME (log entry 28). An idle virtual device collapses, a collapsing one
without bound jobs takes its next step and at the last becomes dormant with its clusters gated, a doorbell wakes it, or is logged
where it may not; a waking one starts its ramps first, and is active when they have run; an access of one that is not active is held
and wakes it, or while it is torn down, whatever its state, is an error on the host link (R382 says it of a dormant one; the model's
reading of the others is log entry 89). -/
def Obligations.PowerAndSleepEvents : Prop :=
  ∀ (s : State),
  (∀ d k c, s.m.cluster? d k = some c → s.m.time = s.m.frameTime d (s.m.frameNo d) → GoesTo (exec (.patternFrame d k) s) (fun t =>
    let c' := c.frame (s.m.frameNo d) (s.m.work d k)
    t.m.cluster? d k = some c' ∧ c'.pat = c.patNew ∧ c'.cur ≤ c.applied)) ∧
  (∀ d k c cap since, s.m.cluster? d k = some c → c.capNew = some (cap, since) → cap < c.cap → since + 2 ^ 20 ≤ s.m.dieCycles d →
    GoesTo (exec (.forcedLowering d k) s) (fun t => ∃ c', t.m.cluster? d k = some c' ∧ c'.cap = cap ∧ c'.capNew = none ∧
      c'.applied ≤ cap)) ∧
  (∀ seq w ms, exec (.setCap (.mctp seq w ms)) s = .next { s with m := s.m.capMessage seq w ms } ∧
    (∀ last, s.m.mgmt.capSeq = some last → ¬ (1 ≤ (seq - last).toNat ∧ (seq - last).toNat < 2 ^ 31) →
      s.m.capMessage seq w ms = s.m) ∧
    (s.m.mgmt.capSeq = none → s.m.mgmt.booted = false → s.m.capMessage seq w ms = { s.m with mgmt := { s.m.mgmt with
        capSeq := some seq, capHeld := some (seq, w, s.m.time + ms * mcPerMs) } }) ∧
    (s.m.mgmt.booted = true → (∀ last, s.m.mgmt.capSeq = some last → 1 ≤ (seq - last).toNat ∧ (seq - last).toNat < 2 ^ 31) →
      (s.m.capMessage seq w ms).mgmt = { s.m.mgmt with
        capSeq := some seq, leaseEnd := some (s.m.time + ms * mcPerMs), budget := w })) ∧
  (∀ e, s.m.mgmt.leaseEnd = some e → e ≤ s.m.time → GoesTo (exec .capLeaseExpiry s) (fun t =>
    t.m.mgmt = { s.m.mgmt with leaseEnd := none, budget := s.m.mgmt.floor.toNat })) ∧
  (∀ die num den, s.m.gangs.all (fun p => p.2.die != die) = true → 0 < num → 0 < den →
    GoesTo (exec (.masterClockChange die num den) s) (fun t => t.m.dieCycles die = s.m.dieCycles die ∧
      t.m = { s.m.updDie die (fun d => { d with clkNum := num, clkDen := den, clkTime := s.m.time, clkCyc := d.cycles s.m.time }) with
        agenda := t.m.agenda })) ∧
  (∀ die num den, s.m.gangs.any (fun p => p.2.die == die) = true → exec (.masterClockChange die num den) s = .fault .notEnabled) ∧
  (∀ vd v, s.m.vd? vd = some v →
    (v.st = .active → v.closing = none → v.idleMs ≠ 0 → s.m.isIdle vd = true → v.idleSince + v.idleMs * mcPerMs ≤ s.m.time →
      GoesTo (exec (.idleTimeout vd) s) (fun t => (t.m.vd? vd).map (·.st) = some .collapsing)) ∧
    (v.st = .collapsing → v.closing = none → Goes (exec (.collapse vd) s) ∧
      (v.step = 1 → v.wakeAt = none → v.wake ≠ 3 → (s.m.jobsOf vd).all (fun p => !p.2.isBound) = true →
        GoesTo (exec (.collapse vd) s) (fun t => (t.m.vd? vd).map (fun w => (w.st, w.step)) = some (.collapsing, 2))) ∧
      (v.step = 2 → v.wakeAt = none → v.clusters.all (fun (d, k) => (s.m.cluster? d k).all (fun c => c.ballast.isNone)) = true →
        GoesTo (exec (.collapse vd) s) (fun t => (t.m.vd? vd).map (fun w => (w.st, w.step)) = some (.collapsing, 3) ∧
          (v.wake = 2 → t.m.dev = (s.m.writeWake v).dev))) ∧
      (v.step = 3 → v.wakeAt = none → GoesTo (exec (.collapse vd) s) (fun t => (t.m.vd? vd).map (·.st) = some .dormant ∧
        ∀ p c, p ∈ v.clusters → t.m.cluster? p.1 p.2 = some c → c.powered = false))) ∧
    (∀ peer, Goes (exec (.wakeDoorbell vd peer) s) ∧
      (v.st = .dormant → v.closing = none → (peer = false ∨ v.wperm.getLsbD 16 = true) →
        GoesTo (exec (.wakeDoorbell vd peer) s) (fun t => (t.m.vd? vd).map (·.st) = some .waking)) ∧
      (peer = true → v.wperm.getLsbD 16 = false →
        GoesTo (exec (.wakeDoorbell vd peer) s) (fun t => t.m.vds = s.m.vds ∧ t.m.mgmt.ignoredWakes = s.m.mgmt.ignoredWakes ++ [vd]))) ∧
    (v.st = .waking → v.closing = none → Goes (exec (.wakeComplete vd) s) ∧
      (v.step ≠ 2 → GoesTo (exec (.wakeComplete vd) s) (fun t => (t.m.vd? vd).map (fun w => (w.st, w.step)) = some (.waking, 2))) ∧
      (v.step = 2 → v.heldAcc = [] → GoesTo (exec (.wakeComplete vd) s) (fun t => (t.m.vd? vd).map (·.st) = some .active)))) ∧
  (∀ vd acc, s.m.reaches vd acc = true →
    (s.m.holdsOut vd acc = true → (s.m.vd vd).closing = none → exec (.heldAccess vd acc) s = .next { s with
      m := (s.m.updVd vd (fun v => { v with heldAcc := v.heldAcc ++ [.access acc] })).wake vd }) ∧
    (s.m.holdsOut vd acc = true → (s.m.vd vd).closing.isSome = true →
      exec (.heldAccess vd acc) s = .next { s with m := s.m.hostError acc }) ∧
    (s.m.holdsOut vd acc = false → (s.m.vd? vd).isSome = true ∨ vd = 16 →
      exec (.outsideAgentAccess vd acc) s = .next { s with m := s.m.fresh.outside vd acc }))

/-- R79, R383, R404-R416: the kernel's health, memory and link errors, and reset. A write of KPANIC or a missed heartbeat
begins the hold and resets the kernel's cores, KREADY of a kernel image that verifies ends it; the third failed warm start ends
every job, and the kernel stays dead. An uncorrectable line of the mirror region that has trapped is taken from its mirror and
remapped only when the readback fails; with the mirror bad too the kernel has crashed and the line is lost. A failed transfer is
logged, a failed lane is swapped for a spare (which access ends with 0x10 otherwise is log entry 17). A corrected error changes no
data and is counted; a scratchpad's uncorrectable one stands until its doubleword is written (log entry 17). RESET leaves host
memory, TIME and the spares in use, and nothing of jobs, virtual devices and device memory (what it keeps of TIME and of memory is
log entries 1 and 5). -/
def Obligations.HealthErrorsAndReset : Prop :=
  ∀ (s : State),
  (let g := s.m.mgmt
   Goes (exec .khbWrite s) ∧ (g.hold = false → g.dead = false →
    GoesTo (exec .khbWrite s) (fun t => t.m.mgmt = { g with khbAt := s.m.time })) ∧
   GoesTo (exec .kpanicWrite s) (fun t => t.m.mgmt.hold = true ∨ t.m.mgmt.dead = true) ∧
   Goes (exec .kreadyWrite s) ∧ (g.hold = true → g.dead = false →
    GoesTo (exec .kreadyWrite s) (fun t => if g.kernelOk = true
      then t.m.mgmt = { g with hold := false, warmFails := 0, khbAt := s.m.time } ∧ t.m.io.cores = Vector.replicate 16 true
      else t = s)) ∧
   (g.hold = false → exec .kreadyWrite s = .next s) ∧
   (g.hold = false → g.dead = false → g.khbAt + g.khbt * mcPerMs ≤ s.m.time →
    GoesTo (exec .heartbeatTimeout s) (fun t => t.m.mgmt = { g with hold := true, warm := true, warmAt := s.m.time, warmFails := 0 } ∧
      t.m.io.cores = Vector.replicate 16 false ∧ t.m.io.cache = [])) ∧
   (g.hold = true → g.dead = false → g.warmAt + 2000 * mcPerMs ≤ s.m.time →
    Goes (exec .warmStartRetry s) ∧
    (g.warmFails < 2 → GoesTo (exec .warmStartRetry s) (fun t => t.m.mgmt = { g with warmFails := g.warmFails + 1, warmAt := s.m.time })) ∧
    (2 ≤ g.warmFails → GoesTo (exec .warmStartRetry s) (fun t => t.m.mgmt.dead = true)))) ∧
  (∀ pa good readback r tw, s.m.io.monitor.contains (pa / 64) = true → s.m.mgmt.mirror = some r → r.twin (pa / 64 * 64) = some tw →
    (good = true → s.m.faulty.contains (tw / 64) = false → GoesTo (exec (.mirrorRepair pa good readback) s) (fun t =>
      t.m.mgmt.hold = s.m.mgmt.hold ∧ t.m.queue = s.m.queue ∧ t.m.io.monitor.contains (pa / 64) = false ∧
      (readback = true → t.m.mgmt.remaps = s.m.mgmt.remaps ∧ t.m.dev = (s.m.fromMirror r (pa / 64 * 64) 64).dev) ∧
      (readback = false → s.m.mgmt.remaps = [] → t.m.mgmt.remaps = [(pa / 64 * 64 / 65536, 0)]))) ∧
    (good = false ∨ s.m.faulty.contains (tw / 64) = true → GoesTo (exec (.mirrorRepair pa good readback) s) (fun t =>
      (t.m.mgmt.hold = true ∨ t.m.mgmt.dead = true) ∧ pa / 64 ∈ t.m.io.lost ∧ t.m.dev = s.m.dev))) ∧
  (∀ f : LinkFault, s.m.linkNext f = true →
    (f.retry ≠ 3 → GoesTo (exec (.linkRetry f) s) (fun t =>
      t.m.mgmt = (s.m.logLink f 0xFF 0 false s.m.time).mgmt ∧ t.m.dev = s.m.dev ∧ t.m.gangs = s.m.gangs)) ∧
    (f.retry = 3 → Goes (exec (.laneTestComplete f none) s) ∧
      ∀ l, laneIn f.group.toNat l.toNat = true → Goes (exec (.laneTestComplete f (some l)) s) ∧
        (s.m.mgmt.swaps = [] → GoesTo (exec (.laneTestComplete f (some l)) s) (fun t =>
          t.m.mgmt.swaps = [(f.die.toNat, f.layer.toNat, f.chan.toNat, l.toNat, 0)])))) ∧
  GoesTo (exec .reset s) (fun t => t.iss = none ∧ t.m.time = s.m.time ∧ t.m.host = s.m.host ∧ t.m.dev = [] ∧ t.m.vds = [] ∧
    t.m.jobs = [] ∧ t.m.gangs = [] ∧ t.m.cmds = [] ∧ t.m.queue = [] ∧ t.m.copies = [] ∧ t.m.mgmt.flash = s.m.mgmt.flash ∧
    ∃ l, t.m.mgmt.swaps = s.m.mgmt.swaps ++ l) ∧
  (∀ pa sym, let t := s.m.strike (.symbol pa sym)
    t.dev = s.m.dev ∧ t.gangs = s.m.gangs ∧
    tget t.mgmt.corrected (pa / 64) = some ((tget s.m.mgmt.corrected (pa / 64)).getD 0 + 1)) ∧
  (∀ g r x c, s.m.gang? g = some x → s.m.cluster? x.die x.cluster = some c →
    let k := coreNo x.quadMask r
    ((s.m.strike (.bit g r)).cluster? x.die x.cluster).map (fun c => tget c.ecc k) = some (some ((tget c.ecc k).getD 0 + 1))) ∧
  (∀ g r c, s.m.core? g r = some c →
    (∀ n, n < 2 ^ 18 → let t := s.m.strike (.scratch g r n)
      t.wornAt (.scr g r (8 * n)) 8 = true ∧
      (t.writeLoc (.scr g r (8 * n)) (offs (List.replicate 8 0))).wornAt (.scr g r (8 * n)) 8 = false))
end

