-- ==== Sys2Proof/Laws/Exec.lean ====
section
/-! SUPPORT. What `exec` runs for each instruction: its meaning, by name. -/
namespace Sys2Proof.Machine

@[simp] theorem exec_add (d : BitVec 6) (a : BitVec 6) (b : BitVec 6) (w : Bool) (g : BitVec 4) (s : State) : exec (.add d a b w g) s = execAdd d a b w g s := rfl
@[simp] theorem exec_sub (d : BitVec 6) (a : BitVec 6) (b : BitVec 6) (w : Bool) (g : BitVec 4) (s : State) : exec (.sub d a b w g) s = execSub d a b w g s := rfl
@[simp] theorem exec_and (d : BitVec 6) (a : BitVec 6) (b : BitVec 6) (w : Bool) (g : BitVec 4) (s : State) : exec (.and d a b w g) s = execAnd d a b w g s := rfl
@[simp] theorem exec_or (d : BitVec 6) (a : BitVec 6) (b : BitVec 6) (w : Bool) (g : BitVec 4) (s : State) : exec (.or d a b w g) s = execOr d a b w g s := rfl
@[simp] theorem exec_xor (d : BitVec 6) (a : BitVec 6) (b : BitVec 6) (w : Bool) (g : BitVec 4) (s : State) : exec (.xor d a b w g) s = execXor d a b w g s := rfl
@[simp] theorem exec_andn (d : BitVec 6) (a : BitVec 6) (b : BitVec 6) (w : Bool) (g : BitVec 4) (s : State) : exec (.andn d a b w g) s = execAndn d a b w g s := rfl
@[simp] theorem exec_min (d : BitVec 6) (a : BitVec 6) (b : BitVec 6) (w : Bool) (g : BitVec 4) (s : State) : exec (.min d a b w g) s = execMin d a b w g s := rfl
@[simp] theorem exec_max (d : BitVec 6) (a : BitVec 6) (b : BitVec 6) (w : Bool) (g : BitVec 4) (s : State) : exec (.max d a b w g) s = execMax d a b w g s := rfl
@[simp] theorem exec_minn (d : BitVec 6) (a : BitVec 6) (b : BitVec 6) (w : Bool) (g : BitVec 4) (s : State) : exec (.minn d a b w g) s = execMinn d a b w g s := rfl
@[simp] theorem exec_maxn (d : BitVec 6) (a : BitVec 6) (b : BitVec 6) (w : Bool) (g : BitVec 4) (s : State) : exec (.maxn d a b w g) s = execMaxn d a b w g s := rfl
@[simp] theorem exec_shl (d : BitVec 6) (a : BitVec 6) (b : BitVec 6) (w : Bool) (g : BitVec 4) (s : State) : exec (.shl d a b w g) s = execShl d a b w g s := rfl
@[simp] theorem exec_shr (d : BitVec 6) (a : BitVec 6) (b : BitVec 6) (w : Bool) (g : BitVec 4) (s : State) : exec (.shr d a b w g) s = execShr d a b w g s := rfl
@[simp] theorem exec_sar (d : BitVec 6) (a : BitVec 6) (b : BitVec 6) (w : Bool) (g : BitVec 4) (s : State) : exec (.sar d a b w g) s = execSar d a b w g s := rfl
@[simp] theorem exec_rotr (d : BitVec 6) (a : BitVec 6) (b : BitVec 6) (w : Bool) (g : BitVec 4) (s : State) : exec (.rotr d a b w g) s = execRotr d a b w g s := rfl
@[simp] theorem exec_clz (d : BitVec 6) (a : BitVec 6) (w : Bool) (g : BitVec 4) (s : State) : exec (.clz d a w g) s = execClz d a w g s := rfl
@[simp] theorem exec_popc (d : BitVec 6) (a : BitVec 6) (w : Bool) (g : BitVec 4) (s : State) : exec (.popc d a w g) s = execPopc d a w g s := rfl
@[simp] theorem exec_mul (d : BitVec 6) (a : BitVec 6) (b : BitVec 6) (w : Bool) (g : BitVec 4) (s : State) : exec (.mul d a b w g) s = execMul d a b w g s := rfl
@[simp] theorem exec_mulh (d : BitVec 6) (a : BitVec 6) (b : BitVec 6) (w : Bool) (g : BitVec 4) (s : State) : exec (.mulh d a b w g) s = execMulh d a b w g s := rfl
@[simp] theorem exec_mulhn (d : BitVec 6) (a : BitVec 6) (b : BitVec 6) (w : Bool) (g : BitVec 4) (s : State) : exec (.mulhn d a b w g) s = execMulhn d a b w g s := rfl
@[simp] theorem exec_div (d : BitVec 6) (a : BitVec 6) (b : BitVec 6) (w : Bool) (g : BitVec 4) (s : State) : exec (.div d a b w g) s = execDiv d a b w g s := rfl
@[simp] theorem exec_divn (d : BitVec 6) (a : BitVec 6) (b : BitVec 6) (w : Bool) (g : BitVec 4) (s : State) : exec (.divn d a b w g) s = execDivn d a b w g s := rfl
@[simp] theorem exec_rem (d : BitVec 6) (a : BitVec 6) (b : BitVec 6) (w : Bool) (g : BitVec 4) (s : State) : exec (.rem d a b w g) s = execRem d a b w g s := rfl
@[simp] theorem exec_remn (d : BitVec 6) (a : BitVec 6) (b : BitVec 6) (w : Bool) (g : BitVec 4) (s : State) : exec (.remn d a b w g) s = execRemn d a b w g s := rfl
@[simp] theorem exec_cmp (d : BitVec 6) (a : BitVec 6) (b : BitVec 6) (cc : BitVec 3) (g : BitVec 4) (s : State) : exec (.cmp d a b cc g) s = execCmp d a b cc g s := rfl
@[simp] theorem exec_pand (d : BitVec 6) (a : BitVec 6) (b : BitVec 6) (g : BitVec 4) (s : State) : exec (.pand d a b g) s = execPand d a b g s := rfl
@[simp] theorem exec_por (d : BitVec 6) (a : BitVec 6) (b : BitVec 6) (g : BitVec 4) (s : State) : exec (.por d a b g) s = execPor d a b g s := rfl
@[simp] theorem exec_pxor (d : BitVec 6) (a : BitVec 6) (b : BitVec 6) (g : BitVec 4) (s : State) : exec (.pxor d a b g) s = execPxor d a b g s := rfl
@[simp] theorem exec_pnot (d : BitVec 6) (a : BitVec 6) (g : BitVec 4) (s : State) : exec (.pnot d a g) s = execPnot d a g s := rfl
@[simp] theorem exec_ptos (d : BitVec 6) (w : Bool) (g : BitVec 4) (s : State) : exec (.ptos d w g) s = execPtos d w g s := rfl
@[simp] theorem exec_stop (a : BitVec 6) (g : BitVec 4) (s : State) : exec (.stop a g) s = execStop a g s := rfl
@[simp] theorem exec_ptrmk (d : BitVec 6) (a : BitVec 6) (b : BitVec 6) (w : Bool) (g : BitVec 4) (s : State) : exec (.ptrmk d a b w g) s = execPtrmk d a b w g s := rfl
@[simp] theorem exec_ptrsp (d : BitVec 6) (a : BitVec 6) (w : Bool) (g : BitVec 4) (s : State) : exec (.ptrsp d a w g) s = execPtrsp d a w g s := rfl
@[simp] theorem exec_ptrrk (d : BitVec 6) (a : BitVec 6) (w : Bool) (g : BitVec 4) (s : State) : exec (.ptrrk d a w g) s = execPtrrk d a w g s := rfl
@[simp] theorem exec_ptrof (d : BitVec 6) (a : BitVec 6) (w : Bool) (g : BitVec 4) (s : State) : exec (.ptrof d a w g) s = execPtrof d a w g s := rfl
@[simp] theorem exec_ptradd (d : BitVec 6) (a : BitVec 6) (b : BitVec 6) (w : Bool) (g : BitVec 4) (s : State) : exec (.ptradd d a b w g) s = execPtradd d a b w g s := rfl
@[simp] theorem exec_fadd (d : BitVec 6) (a : BitVec 6) (b : BitVec 6) (w : Bool) (g : BitVec 4) (s : State) : exec (.fadd d a b w g) s = execFadd d a b w g s := rfl
@[simp] theorem exec_fsub (d : BitVec 6) (a : BitVec 6) (b : BitVec 6) (w : Bool) (g : BitVec 4) (s : State) : exec (.fsub d a b w g) s = execFsub d a b w g s := rfl
@[simp] theorem exec_fmul (d : BitVec 6) (a : BitVec 6) (b : BitVec 6) (w : Bool) (g : BitVec 4) (s : State) : exec (.fmul d a b w g) s = execFmul d a b w g s := rfl
@[simp] theorem exec_ffma (d : BitVec 6) (a : BitVec 6) (b : BitVec 6) (w : Bool) (g : BitVec 4) (s : State) : exec (.ffma d a b w g) s = execFfma d a b w g s := rfl
@[simp] theorem exec_fmin (d : BitVec 6) (a : BitVec 6) (b : BitVec 6) (w : Bool) (g : BitVec 4) (s : State) : exec (.fmin d a b w g) s = execFmin d a b w g s := rfl
@[simp] theorem exec_fmax (d : BitVec 6) (a : BitVec 6) (b : BitVec 6) (w : Bool) (g : BitVec 4) (s : State) : exec (.fmax d a b w g) s = execFmax d a b w g s := rfl
@[simp] theorem exec_fdiv (d : BitVec 6) (a : BitVec 6) (b : BitVec 6) (w : Bool) (g : BitVec 4) (s : State) : exec (.fdiv d a b w g) s = execFdiv d a b w g s := rfl
@[simp] theorem exec_fsqrt (d : BitVec 6) (a : BitVec 6) (w : Bool) (g : BitVec 4) (s : State) : exec (.fsqrt d a w g) s = execFsqrt d a w g s := rfl
@[simp] theorem exec_cvtif (d : BitVec 6) (a : BitVec 6) (w : Bool) (g : BitVec 4) (s : State) : exec (.cvtif d a w g) s = execCvtif d a w g s := rfl
@[simp] theorem exec_cvtnf (d : BitVec 6) (a : BitVec 6) (w : Bool) (g : BitVec 4) (s : State) : exec (.cvtnf d a w g) s = execCvtnf d a w g s := rfl
@[simp] theorem exec_cvtfi (d : BitVec 6) (a : BitVec 6) (w : Bool) (g : BitVec 4) (s : State) : exec (.cvtfi d a w g) s = execCvtfi d a w g s := rfl
@[simp] theorem exec_cvtfiz (d : BitVec 6) (a : BitVec 6) (w : Bool) (g : BitVec 4) (s : State) : exec (.cvtfiz d a w g) s = execCvtfiz d a w g s := rfl
@[simp] theorem exec_fcmpLt (d : BitVec 6) (a : BitVec 6) (b : BitVec 6) (g : BitVec 4) (s : State) : exec (.fcmpLt d a b g) s = execFcmpLt d a b g s := rfl
@[simp] theorem exec_fcmpLe (d : BitVec 6) (a : BitVec 6) (b : BitVec 6) (g : BitVec 4) (s : State) : exec (.fcmpLe d a b g) s = execFcmpLe d a b g s := rfl
@[simp] theorem exec_fcmpEq (d : BitVec 6) (a : BitVec 6) (b : BitVec 6) (g : BitVec 4) (s : State) : exec (.fcmpEq d a b g) s = execFcmpEq d a b g s := rfl
@[simp] theorem exec_addi (d : BitVec 6) (a : BitVec 6) (imm : BitVec 14) (g : BitVec 4) (s : State) : exec (.addi d a imm g) s = execAddi d a imm g s := rfl
@[simp] theorem exec_andi (d : BitVec 6) (a : BitVec 6) (imm : BitVec 14) (g : BitVec 4) (s : State) : exec (.andi d a imm g) s = execAndi d a imm g s := rfl
@[simp] theorem exec_ori (d : BitVec 6) (a : BitVec 6) (imm : BitVec 14) (g : BitVec 4) (s : State) : exec (.ori d a imm g) s = execOri d a imm g s := rfl
@[simp] theorem exec_xori (d : BitVec 6) (a : BitVec 6) (imm : BitVec 14) (g : BitVec 4) (s : State) : exec (.xori d a imm g) s = execXori d a imm g s := rfl
@[simp] theorem exec_shli (d : BitVec 6) (a : BitVec 6) (imm : BitVec 14) (g : BitVec 4) (s : State) : exec (.shli d a imm g) s = execShli d a imm g s := rfl
@[simp] theorem exec_shri (d : BitVec 6) (a : BitVec 6) (imm : BitVec 14) (g : BitVec 4) (s : State) : exec (.shri d a imm g) s = execShri d a imm g s := rfl
@[simp] theorem exec_sari (d : BitVec 6) (a : BitVec 6) (imm : BitVec 14) (g : BitVec 4) (s : State) : exec (.sari d a imm g) s = execSari d a imm g s := rfl
@[simp] theorem exec_cmpi (d : BitVec 6) (a : BitVec 6) (cc : BitVec 3) (imm : BitVec 11) (g : BitVec 4) (s : State) : exec (.cmpi d a cc imm g) s = execCmpi d a cc imm g s := rfl
@[simp] theorem exec_lim (d : BitVec 6) (imm : BitVec 20) (g : BitVec 4) (s : State) : exec (.lim d imm g) s = execLim d imm g s := rfl
@[simp] theorem exec_lih (d : BitVec 6) (imm : BitVec 20) (g : BitVec 4) (s : State) : exec (.lih d imm g) s = execLih d imm g s := rfl
@[simp] theorem exec_ptri (d : BitVec 6) (a : BitVec 6) (imm : BitVec 14) (g : BitVec 4) (s : State) : exec (.ptri d a imm g) s = execPtri d a imm g s := rfl
@[simp] theorem exec_lscr (d : BitVec 6) (imm : BitVec 14) (g : BitVec 4) (s : State) : exec (.lscr d imm g) s = execLscr d imm g s := rfl
@[simp] theorem exec_ldb (d : BitVec 6) (a : BitVec 6) (cls : BitVec 3) (sem : BitVec 2) (sco : BitVec 3) (off : BitVec 6) (g : BitVec 4) (s : State) : exec (.ldb d a cls sem sco off g) s = execLdb d a cls sem sco off g s := rfl
@[simp] theorem exec_ldbn (d : BitVec 6) (a : BitVec 6) (cls : BitVec 3) (sem : BitVec 2) (sco : BitVec 3) (off : BitVec 6) (g : BitVec 4) (s : State) : exec (.ldbn d a cls sem sco off g) s = execLdbn d a cls sem sco off g s := rfl
@[simp] theorem exec_ldh (d : BitVec 6) (a : BitVec 6) (cls : BitVec 3) (sem : BitVec 2) (sco : BitVec 3) (off : BitVec 6) (g : BitVec 4) (s : State) : exec (.ldh d a cls sem sco off g) s = execLdh d a cls sem sco off g s := rfl
@[simp] theorem exec_ldhn (d : BitVec 6) (a : BitVec 6) (cls : BitVec 3) (sem : BitVec 2) (sco : BitVec 3) (off : BitVec 6) (g : BitVec 4) (s : State) : exec (.ldhn d a cls sem sco off g) s = execLdhn d a cls sem sco off g s := rfl
@[simp] theorem exec_ldw (d : BitVec 6) (a : BitVec 6) (cls : BitVec 3) (sem : BitVec 2) (sco : BitVec 3) (off : BitVec 6) (g : BitVec 4) (s : State) : exec (.ldw d a cls sem sco off g) s = execLdw d a cls sem sco off g s := rfl
@[simp] theorem exec_ldwn (d : BitVec 6) (a : BitVec 6) (cls : BitVec 3) (sem : BitVec 2) (sco : BitVec 3) (off : BitVec 6) (g : BitVec 4) (s : State) : exec (.ldwn d a cls sem sco off g) s = execLdwn d a cls sem sco off g s := rfl
@[simp] theorem exec_ldd (d : BitVec 6) (a : BitVec 6) (cls : BitVec 3) (sem : BitVec 2) (sco : BitVec 3) (off : BitVec 6) (g : BitVec 4) (s : State) : exec (.ldd d a cls sem sco off g) s = execLdd d a cls sem sco off g s := rfl
@[simp] theorem exec_stb (d : BitVec 6) (a : BitVec 6) (cls : BitVec 3) (sem : BitVec 2) (sco : BitVec 3) (off : BitVec 6) (g : BitVec 4) (s : State) : exec (.stb d a cls sem sco off g) s = execStb d a cls sem sco off g s := rfl
@[simp] theorem exec_sth (d : BitVec 6) (a : BitVec 6) (cls : BitVec 3) (sem : BitVec 2) (sco : BitVec 3) (off : BitVec 6) (g : BitVec 4) (s : State) : exec (.sth d a cls sem sco off g) s = execSth d a cls sem sco off g s := rfl
@[simp] theorem exec_stw (d : BitVec 6) (a : BitVec 6) (cls : BitVec 3) (sem : BitVec 2) (sco : BitVec 3) (off : BitVec 6) (g : BitVec 4) (s : State) : exec (.stw d a cls sem sco off g) s = execStw d a cls sem sco off g s := rfl
@[simp] theorem exec_std (d : BitVec 6) (a : BitVec 6) (cls : BitVec 3) (sem : BitVec 2) (sco : BitVec 3) (off : BitVec 6) (g : BitVec 4) (s : State) : exec (.std d a cls sem sco off g) s = execStd d a cls sem sco off g s := rfl
@[simp] theorem exec_ldl (d : BitVec 6) (a : BitVec 6) (cls : BitVec 3) (sem : BitVec 2) (sco : BitVec 3) (j : BitVec 3) (g : BitVec 4) (s : State) : exec (.ldl d a cls sem sco j g) s = execLdl d a cls sem sco j g s := rfl
@[simp] theorem exec_aadd (d : BitVec 6) (a : BitVec 6) (b : BitVec 6) (sem : BitVec 2) (sco : BitVec 3) (g : BitVec 4) (s : State) : exec (.aadd d a b sem sco g) s = execAadd d a b sem sco g s := rfl
@[simp] theorem exec_amin (d : BitVec 6) (a : BitVec 6) (b : BitVec 6) (sem : BitVec 2) (sco : BitVec 3) (g : BitVec 4) (s : State) : exec (.amin d a b sem sco g) s = execAmin d a b sem sco g s := rfl
@[simp] theorem exec_amax (d : BitVec 6) (a : BitVec 6) (b : BitVec 6) (sem : BitVec 2) (sco : BitVec 3) (g : BitVec 4) (s : State) : exec (.amax d a b sem sco g) s = execAmax d a b sem sco g s := rfl
@[simp] theorem exec_aminn (d : BitVec 6) (a : BitVec 6) (b : BitVec 6) (sem : BitVec 2) (sco : BitVec 3) (g : BitVec 4) (s : State) : exec (.aminn d a b sem sco g) s = execAminn d a b sem sco g s := rfl
@[simp] theorem exec_amaxn (d : BitVec 6) (a : BitVec 6) (b : BitVec 6) (sem : BitVec 2) (sco : BitVec 3) (g : BitVec 4) (s : State) : exec (.amaxn d a b sem sco g) s = execAmaxn d a b sem sco g s := rfl
@[simp] theorem exec_aand (d : BitVec 6) (a : BitVec 6) (b : BitVec 6) (sem : BitVec 2) (sco : BitVec 3) (g : BitVec 4) (s : State) : exec (.aand d a b sem sco g) s = execAand d a b sem sco g s := rfl
@[simp] theorem exec_aor (d : BitVec 6) (a : BitVec 6) (b : BitVec 6) (sem : BitVec 2) (sco : BitVec 3) (g : BitVec 4) (s : State) : exec (.aor d a b sem sco g) s = execAor d a b sem sco g s := rfl
@[simp] theorem exec_aswap (d : BitVec 6) (a : BitVec 6) (b : BitVec 6) (sem : BitVec 2) (sco : BitVec 3) (g : BitVec 4) (s : State) : exec (.aswap d a b sem sco g) s = execAswap d a b sem sco g s := rfl
@[simp] theorem exec_casW (d : BitVec 6) (a : BitVec 6) (b : BitVec 6) (sem : BitVec 2) (sco : BitVec 3) (g : BitVec 4) (s : State) : exec (.casW d a b sem sco g) s = execCasW d a b sem sco g s := rfl
@[simp] theorem exec_casD (d : BitVec 6) (a : BitVec 6) (b : BitVec 6) (sem : BitVec 2) (sco : BitVec 3) (g : BitVec 4) (s : State) : exec (.casD d a b sem sco g) s = execCasD d a b sem sco g s := rfl
@[simp] theorem exec_fence (cls : BitVec 3) (sem : BitVec 2) (sco : BitVec 3) (g : BitVec 4) (s : State) : exec (.fence cls sem sco g) s = execFence cls sem sco g s := rfl
@[simp] theorem exec_br (g : BitVec 4) (n : Bool) (off : BitVec 18) (s : State) : exec (.br g n off) s = execBr g n off s := rfl
@[simp] theorem exec_call (g : BitVec 4) (n : Bool) (off : BitVec 18) (s : State) : exec (.call g n off) s = execCall g n off s := rfl
@[simp] theorem exec_jmpr (g : BitVec 4) (n : Bool) (t : BitVec 6) (l : BitVec 6) (s : State) : exec (.jmpr g n t l) s = execJmpr g n t l s := rfl
@[simp] theorem exec_loop (g : BitVec 4) (n : Bool) (off : BitVec 18) (s : State) : exec (.loop g n off) s = execLoop g n off s := rfl
@[simp] theorem exec_lset (g : BitVec 4) (n : Bool) (c : BitVec 6) (stages : BitVec 4) (imm : BitVec 8) (s : State) : exec (.lset g n c stages imm) s = execLset g n c stages imm s := rfl
@[simp] theorem exec_rdvFin (grp : BitVec 8) (s : State) : exec (.rdvFin grp) s = execRdvFin grp s := rfl
@[simp] theorem exec_rdvMid (grp : BitVec 8) (s : State) : exec (.rdvMid grp) s = execRdvMid grp s := rfl
@[simp] theorem exec_exit (g : BitVec 4) (n : Bool) (code : BitVec 16) (s : State) : exec (.exit g n code) s = execExit g n code s := rfl
@[simp] theorem exec_waitc (g : BitVec 4) (n : Bool) (cnt : BitVec 18) (s : State) : exec (.waitc g n cnt) s = execWaitc g n cnt s := rfl
@[simp] theorem exec_yield (s : State) : exec (.yield) s = execYield s := rfl
@[simp] theorem exec_phase (g : BitVec 4) (n : Bool) (k : BitVec 4) (s : State) : exec (.phase g n k) s = execPhase g n k s := rfl
@[simp] theorem exec_lease (g : BitVec 4) (n : Bool) (cnt : BitVec 5) (s : State) : exec (.lease g n cnt) s = execLease g n cnt s := rfl
@[simp] theorem exec_barInit (g : BitVec 4) (n : Bool) (bid : BitVec 8) (sc : BitVec 6) (s : State) : exec (.barInit g n bid sc) s = execBarInit g n bid sc s := rfl
@[simp] theorem exec_barExpb (g : BitVec 4) (n : Bool) (bid : BitVec 8) (sc : BitVec 6) (s : State) : exec (.barExpb g n bid sc) s = execBarExpb g n bid sc s := rfl
@[simp] theorem exec_barArv (g : BitVec 4) (n : Bool) (bid : BitVec 8) (sco : BitVec 3) (s : State) : exec (.barArv g n bid sco) s = execBarArv g n bid sco s := rfl
@[simp] theorem exec_barWait (g : BitVec 4) (n : Bool) (bid : BitVec 8) (sco : BitVec 3) (s : State) : exec (.barWait g n bid sco) s = execBarWait g n bid sco s := rfl
@[simp] theorem exec_barAw (g : BitVec 4) (n : Bool) (bid : BitVec 8) (sco : BitVec 3) (s : State) : exec (.barAw g n bid sco) s = execBarAw g n bid sco s := rfl
@[simp] theorem exec_mfsr (g : BitVec 4) (n : Bool) (d : BitVec 6) (reg : BitVec 12) (s : State) : exec (.mfsr g n d reg) s = execMfsr g n d reg s := rfl
@[simp] theorem exec_mtsr (g : BitVec 4) (n : Bool) (a : BitVec 6) (reg : BitVec 12) (s : State) : exec (.mtsr g n a reg) s = execMtsr g n a reg s := rfl
@[simp] theorem exec_trap (g : BitVec 4) (n : Bool) (code : BitVec 12) (s : State) : exec (.trap g n code) s = execTrap g n code s := rfl
@[simp] theorem exec_evnt (g : BitVec 4) (n : Bool) (code : BitVec 12) (s : State) : exec (.evnt g n code) s = execEvnt g n code s := rfl
@[simp] theorem exec_tlbi (g : BitVec 4) (n : Bool) (a : BitVec 6) (s : State) : exec (.tlbi g n a) s = execTlbi g n a s := rfl
@[simp] theorem exec_dinv (g : BitVec 4) (n : Bool) (a : BitVec 6) (s : State) : exec (.dinv g n a) s = execDinv g n a s := rfl
@[simp] theorem exec_halt (g : BitVec 4) (n : Bool) (s : State) : exec (.halt g n) s = execHalt g n s := rfl
@[simp] theorem exec_csave (g : BitVec 4) (n : Bool) (a : BitVec 6) (s : State) : exec (.csave g n a) s = execCsave g n a s := rfl
@[simp] theorem exec_lhash (g : BitVec 4) (n : Bool) (d : BitVec 6) (a : BitVec 6) (b : BitVec 6) (s : State) : exec (.lhash g n d a b) s = execLhash g n d a b s := rfl
@[simp] theorem exec_lgath (g : BitVec 4) (n : Bool) (d : BitVec 6) (a : BitVec 6) (b : BitVec 6) (s : State) : exec (.lgath g n d a b) s = execLgath g n d a b s := rfl
@[simp] theorem exec_lpool (g : BitVec 4) (n : Bool) (d : BitVec 6) (a : BitVec 6) (b : BitVec 6) (s : State) : exec (.lpool g n d a b) s = execLpool g n d a b s := rfl
@[simp] theorem exec_lscat (g : BitVec 4) (n : Bool) (d : BitVec 6) (a : BitVec 6) (b : BitVec 6) (s : State) : exec (.lscat g n d a b) s = execLscat g n d a b s := rfl
@[simp] theorem exec_lhand (g : BitVec 4) (n : Bool) (d : BitVec 6) (a : BitVec 6) (b : BitVec 6) (s : State) : exec (.lhand g n d a b) s = execLhand g n d a b s := rfl
@[simp] theorem exec_vadd (d : BitVec 6) (a : BitVec 7) (b : BitVec 7) (x : Bool) (w : Bool) (g : BitVec 4) (s : State) : exec (.vadd d a b x w g) s = execVadd d a b x w g s := rfl
@[simp] theorem exec_vsub (d : BitVec 6) (a : BitVec 7) (b : BitVec 7) (x : Bool) (w : Bool) (g : BitVec 4) (s : State) : exec (.vsub d a b x w g) s = execVsub d a b x w g s := rfl
@[simp] theorem exec_vmul (d : BitVec 6) (a : BitVec 7) (b : BitVec 7) (x : Bool) (w : Bool) (g : BitVec 4) (s : State) : exec (.vmul d a b x w g) s = execVmul d a b x w g s := rfl
@[simp] theorem exec_vfma (d : BitVec 6) (a : BitVec 7) (b : BitVec 7) (x : Bool) (w : Bool) (g : BitVec 4) (s : State) : exec (.vfma d a b x w g) s = execVfma d a b x w g s := rfl
@[simp] theorem exec_vfms (d : BitVec 6) (a : BitVec 7) (b : BitVec 7) (x : Bool) (w : Bool) (g : BitVec 4) (s : State) : exec (.vfms d a b x w g) s = execVfms d a b x w g s := rfl
@[simp] theorem exec_vmin (d : BitVec 6) (a : BitVec 7) (b : BitVec 7) (x : Bool) (w : Bool) (g : BitVec 4) (s : State) : exec (.vmin d a b x w g) s = execVmin d a b x w g s := rfl
@[simp] theorem exec_vmax (d : BitVec 6) (a : BitVec 7) (b : BitVec 7) (x : Bool) (w : Bool) (g : BitVec 4) (s : State) : exec (.vmax d a b x w g) s = execVmax d a b x w g s := rfl
@[simp] theorem exec_vun (d : BitVec 6) (a : BitVec 7) (fn : BitVec 7) (x : Bool) (w : Bool) (g : BitVec 4) (s : State) : exec (.vun d a fn x w g) s = execVun d a fn x w g s := rfl
@[simp] theorem exec_vand (d : BitVec 6) (a : BitVec 7) (b : BitVec 7) (x : Bool) (w : Bool) (g : BitVec 4) (s : State) : exec (.vand d a b x w g) s = execVand d a b x w g s := rfl
@[simp] theorem exec_vor (d : BitVec 6) (a : BitVec 7) (b : BitVec 7) (x : Bool) (w : Bool) (g : BitVec 4) (s : State) : exec (.vor d a b x w g) s = execVor d a b x w g s := rfl
@[simp] theorem exec_vxor (d : BitVec 6) (a : BitVec 7) (b : BitVec 7) (x : Bool) (w : Bool) (g : BitVec 4) (s : State) : exec (.vxor d a b x w g) s = execVxor d a b x w g s := rfl
@[simp] theorem exec_vshl (d : BitVec 6) (a : BitVec 7) (b : BitVec 7) (x : Bool) (w : Bool) (g : BitVec 4) (s : State) : exec (.vshl d a b x w g) s = execVshl d a b x w g s := rfl
@[simp] theorem exec_vshr (d : BitVec 6) (a : BitVec 7) (b : BitVec 7) (x : Bool) (w : Bool) (g : BitVec 4) (s : State) : exec (.vshr d a b x w g) s = execVshr d a b x w g s := rfl
@[simp] theorem exec_vsar (d : BitVec 6) (a : BitVec 7) (b : BitVec 7) (x : Bool) (w : Bool) (g : BitVec 4) (s : State) : exec (.vsar d a b x w g) s = execVsar d a b x w g s := rfl
@[simp] theorem exec_vfsl (d : BitVec 6) (a : BitVec 7) (b : BitVec 7) (x : Bool) (w : Bool) (g : BitVec 4) (s : State) : exec (.vfsl d a b x w g) s = execVfsl d a b x w g s := rfl
@[simp] theorem exec_vfsr (d : BitVec 6) (a : BitVec 7) (b : BitVec 7) (x : Bool) (w : Bool) (g : BitVec 4) (s : State) : exec (.vfsr d a b x w g) s = execVfsr d a b x w g s := rfl
@[simp] theorem exec_vhar (d : BitVec 6) (a : BitVec 7) (x : Bool) (w : Bool) (g : BitVec 4) (s : State) : exec (.vhar d a x w g) s = execVhar d a x w g s := rfl
@[simp] theorem exec_vihr (d : BitVec 6) (a : BitVec 7) (x : Bool) (w : Bool) (g : BitVec 4) (s : State) : exec (.vihr d a x w g) s = execVihr d a x w g s := rfl
@[simp] theorem exec_vcmp (cc : BitVec 3) (mk : BitVec 3) (a : BitVec 7) (b : BitVec 7) (x : Bool) (g : BitVec 4) (s : State) : exec (.vcmp cc mk a b x g) s = execVcmp cc mk a b x g s := rfl
@[simp] theorem exec_vsel (d : BitVec 6) (a : BitVec 7) (b : BitVec 7) (w : Bool) (g : BitVec 4) (s : State) : exec (.vsel d a b w g) s = execVsel d a b w g s := rfl
@[simp] theorem exec_vmsk (op : BitVec 3) (mk : BitVec 3) (ma : BitVec 3) (mb : BitVec 3) (g : BitVec 4) (s : State) : exec (.vmsk op mk ma mb g) s = execVmsk op mk ma mb g s := rfl
@[simp] theorem exec_vcomp (d : BitVec 6) (a : BitVec 7) (w : Bool) (g : BitVec 4) (s : State) : exec (.vcomp d a w g) s = execVcomp d a w g s := rfl
@[simp] theorem exec_vexpd (d : BitVec 6) (a : BitVec 7) (w : Bool) (g : BitVec 4) (s : State) : exec (.vexpd d a w g) s = execVexpd d a w g s := rfl
@[simp] theorem exec_vslu (d : BitVec 6) (a : BitVec 7) (n : BitVec 7) (x : Bool) (w : Bool) (g : BitVec 4) (s : State) : exec (.vslu d a n x w g) s = execVslu d a n x w g s := rfl
@[simp] theorem exec_vsld (d : BitVec 6) (a : BitVec 7) (n : BitVec 7) (x : Bool) (w : Bool) (g : BitVec 4) (s : State) : exec (.vsld d a n x w g) s = execVsld d a n x w g s := rfl
@[simp] theorem exec_vbrd (d : BitVec 6) (a : BitVec 7) (x : Bool) (w : Bool) (g : BitVec 4) (s : State) : exec (.vbrd d a x w g) s = execVbrd d a x w g s := rfl
@[simp] theorem exec_viota (d : BitVec 6) (x : Bool) (w : Bool) (g : BitVec 4) (s : State) : exec (.viota d x w g) s = execViota d x w g s := rfl
@[simp] theorem exec_vmvs (d : BitVec 6) (a : BitVec 7) (idx : BitVec 7) (g : BitVec 4) (s : State) : exec (.vmvs d a idx g) s = execVmvs d a idx g s := rfl
@[simp] theorem exec_vmsv (d : BitVec 6) (a : BitVec 7) (idx : BitVec 7) (x : Bool) (w : Bool) (g : BitVec 4) (s : State) : exec (.vmsv d a idx x w g) s = execVmsv d a idx x w g s := rfl
@[simp] theorem exec_vred (y : BitVec 2) (op : BitVec 4) (a : BitVec 7) (x : Bool) (g : BitVec 4) (s : State) : exec (.vred y op a x g) s = execVred y op a x g s := rfl
@[simp] theorem exec_vmvy (d : BitVec 6) (y : BitVec 2) (x : Bool) (w : Bool) (g : BitVec 4) (s : State) : exec (.vmvy d y x w g) s = execVmvy d y x w g s := rfl
@[simp] theorem exec_vcvt (d : BitVec 6) (a : BitVec 7) (ty : BitVec 4) (part : BitVec 3) (x : Bool) (w : Bool) (g : BitVec 4) (s : State) : exec (.vcvt d a ty part x w g) s = execVcvt d a ty part x w g s := rfl
@[simp] theorem exec_vsetShape (ty : BitVec 4) (rm : BitVec 2) (sat : Bool) (gsl : BitVec 4) (g : BitVec 4) (s : State) : exec (.vsetShape ty rm sat gsl g) s = execVsetShape ty rm sat gsl g s := rfl
@[simp] theorem exec_vsetTh (th : BitVec 2) (a : BitVec 6) (g : BitVec 4) (s : State) : exec (.vsetTh th a g) s = execVsetTh th a g s := rfl
@[simp] theorem exec_vsetTag (tag : BitVec 16) (g : BitVec 4) (s : State) : exec (.vsetTag tag g) s = execVsetTag tag g s := rfl
@[simp] theorem exec_vld (d : BitVec 6) (a : BitVec 6) (cls : BitVec 3) (t : Bool) (u : Bool) (off : BitVec 5) (g : BitVec 4) (s : State) : exec (.vld d a cls t u off g) s = execVld d a cls t u off g s := rfl
@[simp] theorem exec_vst (d : BitVec 6) (a : BitVec 6) (cls : BitVec 3) (u : Bool) (off : BitVec 5) (g : BitVec 4) (s : State) : exec (.vst d a cls u off g) s = execVst d a cls u off g s := rfl
@[simp] theorem exec_vldl (d : BitVec 6) (a : BitVec 6) (cls : BitVec 3) (t : Bool) (j : BitVec 3) (r : BitVec 2) (g : BitVec 4) (s : State) : exec (.vldl d a cls t j r g) s = execVldl d a cls t j r g s := rfl
@[simp] theorem exec_vldd (d : BitVec 6) (a : BitVec 6) (cls : BitVec 3) (t : Bool) (j : BitVec 3) (r : BitVec 2) (g : BitVec 4) (s : State) : exec (.vldd d a cls t j r g) s = execVldd d a cls t j r g s := rfl
@[simp] theorem exec_vstl (d : BitVec 6) (a : BitVec 6) (cls : BitVec 3) (flat : Bool) (j : BitVec 3) (r : BitVec 2) (g : BitVec 4) (s : State) : exec (.vstl d a cls flat j r g) s = execVstl d a cls flat j r g s := rfl
@[simp] theorem exec_vlrg (d : BitVec 6) (k : BitVec 3) (s0 : Bool) (i : BitVec 6) (w : Bool) (g : BitVec 4) (s : State) : exec (.vlrg d k s0 i w g) s = execVlrg d k s0 i w g s := rfl
@[simp] theorem exec_vthr (th : BitVec 2) (mk : BitVec 3) (a : BitVec 7) (g : BitVec 4) (s : State) : exec (.vthr th mk a g) s = execVthr th mk a g s := rfl
@[simp] theorem exec_mclm (sa : BitVec 8) (g : BitVec 4) (s : State) : exec (.mclm sa g) s = execMclm sa g s := rfl
@[simp] theorem exec_mrel (sa : BitVec 8) (g : BitVec 4) (s : State) : exec (.mrel sa g) s = execMrel sa g s := rfl
@[simp] theorem exec_mfil (sa : BitVec 8) (p : BitVec 8) (k : Bool) (g : BitVec 4) (s : State) : exec (.mfil sa p k g) s = execMfil sa p k g s := rfl
@[simp] theorem exec_mma (ac : BitVec 3) (sa : BitVec 8) (sb : BitVec 8) (z : Bool) (g : BitVec 4) (s : State) : exec (.mma ac sa sb z g) s = execMma ac sa sb z g s := rfl
@[simp] theorem exec_mmat (ac : BitVec 3) (sa : BitVec 8) (sb : BitVec 8) (z : Bool) (g : BitVec 4) (s : State) : exec (.mmat ac sa sb z g) s = execMmat ac sa sb z g s := rfl
@[simp] theorem exec_mcnv (ac : BitVec 3) (sa : BitVec 8) (sb : BitVec 8) (z : Bool) (g : BitVec 4) (s : State) : exec (.mcnv ac sa sb z g) s = execMcnv ac sa sb z g s := rfl
@[simp] theorem exec_mwin (p : BitVec 8) (g : BitVec 4) (s : State) : exec (.mwin p g) s = execMwin p g s := rfl
@[simp] theorem exec_mcfg (ta : BitVec 4) (tb : BitVec 4) (sco : BitVec 3) (g : BitVec 4) (s : State) : exec (.mcfg ta tb sco g) s = execMcfg ta tb sco g s := rfl
@[simp] theorem exec_mrnd (rm : BitVec 2) (g : BitVec 4) (s : State) : exec (.mrnd rm g) s = execMrnd rm g s := rfl
@[simp] theorem exec_mdrn (ac : BitVec 3) (ty : BitVec 4) (p : BitVec 8) (v : Bool) (k : Bool) (g : BitVec 4) (s : State) : exec (.mdrn ac ty p v k g) s = execMdrn ac ty p v k g s := rfl
@[simp] theorem exec_mzer (ac : BitVec 3) (g : BitVec 4) (s : State) : exec (.mzer ac g) s = execMzer ac g s := rfl
@[simp] theorem exec_mver (ac : BitVec 3) (p : BitVec 8) (g : BitVec 4) (s : State) : exec (.mver ac p g) s = execMver ac p g s := rfl
@[simp] theorem exec_mverTag (p : BitVec 8) (g : BitVec 4) (s : State) : exec (.mverTag p g) s = execMverTag p g s := rfl
@[simp] theorem exec_mlda (ac : BitVec 3) (p : BitVec 8) (k : Bool) (g : BitVec 4) (s : State) : exec (.mlda ac p k g) s = execMlda ac p k g s := rfl
@[simp] theorem exec_lopn (p : BitVec 8) (k : Bool) (g : BitVec 4) (s : State) : exec (.lopn p k g) s = execLopn p k g s := rfl
@[simp] theorem exec_lstp (ac : BitVec 3) (v : Bool) (g : BitVec 4) (s : State) : exec (.lstp ac v g) s = execLstp ac v g s := rfl
@[simp] theorem exec_lrd (ac : BitVec 3) (v : Bool) (g : BitVec 4) (s : State) : exec (.lrd ac v g) s = execLrd ac v g s := rfl
@[simp] theorem exec_lcls (k : Bool) (g : BitVec 4) (s : State) : exec (.lcls k g) s = execLcls k g s := rfl
@[simp] theorem exec_lwgt (k : Bool) (g : BitVec 4) (s : State) : exec (.lwgt k g) s = execLwgt k g s := rfl
@[simp] theorem exec_tsrc (p : BitVec 6) (g : BitVec 4) (s : State) : exec (.tsrc p g) s = execTsrc p g s := rfl
@[simp] theorem exec_tdst (p : BitVec 6) (g : BitVec 4) (s : State) : exec (.tdst p g) s = execTdst p g s := rfl
@[simp] theorem exec_tdim (dim : BitVec 2) (what : BitVec 2) (a : BitVec 6) (imm : BitVec 12) (g : BitVec 4) (s : State) : exec (.tdim dim what a imm g) s = execTdim dim what a imm g s := rfl
@[simp] theorem exec_tind (dim : BitVec 2) (p : BitVec 6) (iw : BitVec 2) (g : BitVec 4) (s : State) : exec (.tind dim p iw g) s = execTind dim p iw g s := rfl
@[simp] theorem exec_tfmt (sty : BitVec 4) (dty : BitVec 4) (j : BitVec 3) (flat : Bool) (sat : Bool) (rm : BitVec 2) (g : BitVec 4) (s : State) : exec (.tfmt sty dty j flat sat rm g) s = execTfmt sty dty j flat sat rm g s := rfl
@[simp] theorem exec_tsyn (acq : BitVec 3) (rel : BitVec 3) (ben : Bool) (bid : BitVec 8) (tag : BitVec 7) (g : BitVec 4) (s : State) : exec (.tsyn acq rel ben bid tag g) s = execTsyn acq rel ben bid tag g s := rfl
@[simp] theorem exec_tcpy (g : BitVec 4) (s : State) : exec (.tcpy g) s = execTcpy g s := rfl
@[simp] theorem exec_tlvl (g : BitVec 4) (s : State) : exec (.tlvl g) s = execTlvl g s := rfl
@[simp] theorem exec_tenc (g : BitVec 4) (s : State) : exec (.tenc g) s = execTenc g s := rfl
@[simp] theorem exec_tpak (g : BitVec 4) (s : State) : exec (.tpak g) s = execTpak g s := rfl
@[simp] theorem exec_tunp (g : BitVec 4) (s : State) : exec (.tunp g) s = execTunp g s := rfl
@[simp] theorem exec_tcol (grp : BitVec 8) (op : BitVec 2) (g : BitVec 4) (s : State) : exec (.tcol grp op g) s = execTcol grp op g s := rfl
@[simp] theorem exec_tkvf (p : BitVec 6) (r : BitVec 6) (pk : BitVec 3) (g : BitVec 4) (s : State) : exec (.tkvf p r pk g) s = execTkvf p r pk g s := rfl
@[simp] theorem exec_tfil (p : BitVec 6) (g : BitVec 4) (s : State) : exec (.tfil p g) s = execTfil p g s := rfl
@[simp] theorem exec_tops (slot : BitVec 8) (g : BitVec 4) (s : State) : exec (.tops slot g) s = execTops slot g s := rfl
@[simp] theorem exec_tdrp (p : BitVec 6) (r : BitVec 6) (drop : Bool) (g : BitVec 4) (s : State) : exec (.tdrp p r drop g) s = execTdrp p r drop g s := rfl
@[simp] theorem exec_transferStart (id : Nat) (s : State) : exec (.transferStart id) s = execTransferStart id s := rfl
@[simp] theorem exec_transferComplete (id : Nat) (s : State) : exec (.transferComplete id) s = execTransferComplete id s := rfl
@[simp] theorem exec_transferFault (id : Nat) (cause : BitVec 8) (s : State) : exec (.transferFault id cause) s = execTransferFault id cause s := rfl
@[simp] theorem exec_pageFaultService (id : Nat) (how : Service) (s : State) : exec (.pageFaultService id how) s = execPageFaultService id how s := rfl
@[simp] theorem exec_replyArrival (id : Nat) (s : State) : exec (.replyArrival id) s = execReplyArrival id s := rfl
@[simp] theorem exec_freezeTimeout (gang : Nat) (s : State) : exec (.freezeTimeout gang) s = execFreezeTimeout gang s := rfl
@[simp] theorem exec_yieldSpacingFault (gang : Nat) (s : State) : exec (.yieldSpacingFault gang) s = execYieldSpacingFault gang s := rfl
@[simp] theorem exec_joinRelease (vd grp : Nat) (s : State) : exec (.joinRelease vd grp) s = execJoinRelease vd grp s := rfl
@[simp] theorem exec_leaseTakeover (gang quad pos : Nat) (cnt : BitVec 5) (s : State) : exec (.leaseTakeover gang quad pos cnt) s = execLeaseTakeover gang quad pos cnt s := rfl
@[simp] theorem exec_tileReady (gang rank : Nat) (flags : BitVec 5) (s : State) : exec (.tileReady gang rank flags) s = execTileReady gang rank flags s := rfl
@[simp] theorem exec_mfilStamp (gang quad slot : Nat) (tag : BitVec 16) (s : State) : exec (.mfilStamp gang quad slot tag) s = execMfilStamp gang quad slot tag s := rfl
@[simp] theorem exec_mdrnComplete (gang rank : Nat) (tile : BitVec 3) (rel : Bool) (sco : BitVec 3) (s : State) : exec (.mdrnComplete gang rank tile rel sco) s = execMdrnComplete gang rank tile rel sco s := rfl
@[simp] theorem exec_barrierArrivalCount (vd bar : Nat) (gen : BitVec 16) (s : State) : exec (.barrierArrivalCount vd bar gen) s = execBarrierArrivalCount vd bar gen s := rfl
@[simp] theorem exec_loupeCommandComplete (id : Nat) (s : State) : exec (.loupeCommandComplete id) s = execLoupeCommandComplete id s := rfl
@[simp] theorem exec_lhandComplete (id : Nat) (s : State) : exec (.lhandComplete id) s = execLhandComplete id s := rfl
@[simp] theorem exec_loupeSliceEnd (die idx : Nat) (s : State) : exec (.loupeSliceEnd die idx) s = execLoupeSliceEnd die idx s := rfl
@[simp] theorem exec_tlbiComplete (agent : Agent) (s : State) : exec (.tlbiComplete agent) s = execTlbiComplete agent s := rfl
@[simp] theorem exec_preemptRequest (job : Nat) (s : State) : exec (.preemptRequest job) s = execPreemptRequest job s := rfl
@[simp] theorem exec_yieldHoldRelease (job : Nat) (s : State) : exec (.yieldHoldRelease job) s = execYieldHoldRelease job s := rfl
@[simp] theorem exec_contextSave (gang : Nat) (s : State) : exec (.contextSave gang) s = execContextSave gang s := rfl
@[simp] theorem exec_checkpoint (gang : Nat) (s : State) : exec (.checkpoint gang) s = execCheckpoint gang s := rfl
@[simp] theorem exec_haltRemoteStop (gang : Nat) (s : State) : exec (.haltRemoteStop gang) s = execHaltRemoteStop gang s := rfl
@[simp] theorem exec_kernelEndJob (job : Nat) (s : State) : exec (.kernelEndJob job) s = execKernelEndJob job s := rfl
@[simp] theorem exec_kernelResumeInPlace (gang : Nat) (values : List (Nat × RegValue)) (s : State) : exec (.kernelResumeInPlace gang values) s = execKernelResumeInPlace gang values s := rfl
@[simp] theorem exec_kernelSave (gang : Nat) (s : State) : exec (.kernelSave gang) s = execKernelSave gang s := rfl
@[simp] theorem exec_lnotify (vd : Nat) (ptr : BitVec 64) (s : State) : exec (.lnotify vd ptr) s = execLnotify vd ptr s := rfl
@[simp] theorem exec_bind (vd : Nat) (s : State) : exec (.bind vd) s = execBind vd s := rfl
@[simp] theorem exec_jobLoad (job : Nat) (s : State) : exec (.jobLoad job) s = execJobLoad job s := rfl
@[simp] theorem exec_startCycle (job : Nat) (s : State) : exec (.startCycle job) s = execStartCycle job s := rfl
@[simp] theorem exec_patternFrame (die cluster : Nat) (s : State) : exec (.patternFrame die cluster) s = execPatternFrame die cluster s := rfl
@[simp] theorem exec_forcedLowering (die cluster : Nat) (s : State) : exec (.forcedLowering die cluster) s = execForcedLowering die cluster s := rfl
@[simp] theorem exec_idleTimeout (vd : Nat) (s : State) : exec (.idleTimeout vd) s = execIdleTimeout vd s := rfl
@[simp] theorem exec_collapse (vd : Nat) (s : State) : exec (.collapse vd) s = execCollapse vd s := rfl
@[simp] theorem exec_wakeDoorbell (vd : Nat) (peer : Bool) (s : State) : exec (.wakeDoorbell vd peer) s = execWakeDoorbell vd peer s := rfl
@[simp] theorem exec_wakeComplete (vd : Nat) (s : State) : exec (.wakeComplete vd) s = execWakeComplete vd s := rfl
@[simp] theorem exec_laneTestComplete (fault : LinkFault) (lane : Option (BitVec 8)) (s : State) : exec (.laneTestComplete fault lane) s = execLaneTestComplete fault lane s := rfl
@[simp] theorem exec_flgWrite (gang rank : Nat) (v : BitVec 64) (s : State) : exec (.flgWrite gang rank v) s = execFlgWrite gang rank v s := rfl
@[simp] theorem exec_vwWrite (gang rank : Nat) (v : BitVec 64) (s : State) : exec (.vwWrite gang rank v) s = execVwWrite gang rank v s := rfl
@[simp] theorem exec_wdogWrite (vd : Nat) (v : BitVec 64) (s : State) : exec (.wdogWrite vd v) s = execWdogWrite vd v s := rfl
@[simp] theorem exec_patWrite (die cluster : Nat) (k : BitVec 4) (v : BitVec 64) (s : State) : exec (.patWrite die cluster k v) s = execPatWrite die cluster k v s := rfl
@[simp] theorem exec_nqheadWrite (vd : Nat) (v : BitVec 64) (s : State) : exec (.nqheadWrite vd v) s = execNqheadWrite vd v s := rfl
@[simp] theorem exec_nackWrite (vd : Nat) (v : BitVec 64) (s : State) : exec (.nackWrite vd v) s = execNackWrite vd v s := rfl
@[simp] theorem exec_registerWrite (vd : Nat) (reg : BitVec 12) (v : BitVec 64) (s : State) : exec (.registerWrite vd reg v) s = execRegisterWrite vd reg v s := rfl
@[simp] theorem exec_accessCommit (id : Nat) (s : State) : exec (.accessCommit id) s = execAccessCommit id s := rfl
@[simp] theorem exec_viewBufferDrop (agent : Agent) (granule : Nat) (s : State) : exec (.viewBufferDrop agent granule) s = execViewBufferDrop agent granule s := rfl
@[simp] theorem exec_commandHalt (id : Nat) (va : BitVec 64) (s : State) : exec (.commandHalt id va) s = execCommandHalt id va s := rfl
@[simp] theorem exec_launch (q : CmdQueue) (s : State) : exec (.launch q) s = execLaunch q s := rfl
@[simp] theorem exec_identify (q : CmdQueue) (s : State) : exec (.identify q) s = execIdentify q s := rfl
@[simp] theorem exec_status (q : CmdQueue) (s : State) : exec (.status q) s = execStatus q s := rfl
@[simp] theorem exec_log (q : CmdQueue) (s : State) : exec (.log q) s = execLog q s := rfl
@[simp] theorem exec_selftest (q : CmdQueue) (s : State) : exec (.selftest q) s = execSelftest q s := rfl
@[simp] theorem exec_vdCreate (q : CmdQueue) (s : State) : exec (.vdCreate q) s = execVdCreate q s := rfl
@[simp] theorem exec_vdDestroy (q : CmdQueue) (s : State) : exec (.vdDestroy q) s = execVdDestroy q s := rfl
@[simp] theorem exec_vdSleep (q : CmdQueue) (s : State) : exec (.vdSleep q) s = execVdSleep q s := rfl
@[simp] theorem exec_vdWake (q : CmdQueue) (s : State) : exec (.vdWake q) s = execVdWake q s := rfl
@[simp] theorem exec_loadImage (q : CmdQueue) (s : State) : exec (.loadImage q) s = execLoadImage q s := rfl
@[simp] theorem exec_attest (q : CmdQueue) (s : State) : exec (.attest q) s = execAttest q s := rfl
@[simp] theorem exec_fwUpdate (q : CmdQueue) (s : State) : exec (.fwUpdate q) s = execFwUpdate q s := rfl
@[simp] theorem exec_setCap (src : CapSource) (s : State) : exec (.setCap src) s = execSetCap src s := rfl
@[simp] theorem exec_heldAccess (vd : Nat) (acc : OutsideAccess) (s : State) : exec (.heldAccess vd acc) s = execHeldAccess vd acc s := rfl
@[simp] theorem exec_outsideAgentAccess (vd : Nat) (acc : OutsideAccess) (s : State) : exec (.outsideAgentAccess vd acc) s = execOutsideAgentAccess vd acc s := rfl
@[simp] theorem exec_masterClockChange (die : Nat) (num den : Nat) (s : State) : exec (.masterClockChange die num den) s = execMasterClockChange die num den s := rfl
@[simp] theorem exec_kernelLaunch (vd : Nat) (ptr : LaunchPtr) (s : State) : exec (.kernelLaunch vd ptr) s = execKernelLaunch vd ptr s := rfl
@[simp] theorem exec_graphEdit (vd : Nat) (graph : BitVec 32) (records : List (BitVec 64)) (s : State) : exec (.graphEdit vd graph records) s = execGraphEdit vd graph records s := rfl
@[simp] theorem exec_mirrorRepair (pa : Nat) (mirrorGood readback : Bool) (s : State) : exec (.mirrorRepair pa mirrorGood readback) s = execMirrorRepair pa mirrorGood readback s := rfl
@[simp] theorem exec_linkRetry (fault : LinkFault) (s : State) : exec (.linkRetry fault) s = execLinkRetry fault s := rfl
@[simp] theorem exec_capLeaseExpiry (s : State) : exec (.capLeaseExpiry) s = execCapLeaseExpiry s := rfl
@[simp] theorem exec_reset (s : State) : exec (.reset) s = execReset s := rfl
@[simp] theorem exec_khbWrite (s : State) : exec (.khbWrite) s = execKhbWrite s := rfl
@[simp] theorem exec_kpanicWrite (s : State) : exec (.kpanicWrite) s = execKpanicWrite s := rfl
@[simp] theorem exec_heartbeatTimeout (s : State) : exec (.heartbeatTimeout) s = execHeartbeatTimeout s := rfl
@[simp] theorem exec_kreadyWrite (s : State) : exec (.kreadyWrite) s = execKreadyWrite s := rfl
@[simp] theorem exec_warmStartRetry (s : State) : exec (.warmStartRetry) s = execWarmStartRetry s := rfl

end Sys2Proof.Machine
end

