-- ==== Sys2Proof/Laws/Memory.lean ====
section
/-! SUPPORT. Memories: what a write changes, and that every operation keeps the canonical form. -/
namespace Sys2Proof.Machine

@[simp] theorem Memory.get_nil (a : Nat) : Memory.get [] a = 0 := rfl

/-- A write leaves every other address alone. -/
theorem Memory.get_set_ne (m : Memory) (a x : Nat) (b : Byte) (h : x ≠ a) : Memory.get (Memory.set m a b) x = Memory.get m x := by
  induction m with
  | nil =>
    simp only [Memory.set]
    split
    · rfl
    · simp [Memory.get, Ne.symm h]
  | cons p r ih =>
    obtain ⟨k, c⟩ := p
    simp only [Memory.set]
    split
    · split
      · rfl
      · simp [Memory.get, Ne.symm h]
    · split
      · next hk =>
        subst hk
        split <;> simp [Memory.get, Ne.symm h]
      · simp only [Memory.get, ih]

/-- Nothing below the lower bound of a canonical list is listed. -/
theorem Memory.get_below (m : Memory) (lo a : Nat) (h : Memory.wfFrom lo m = true) (ha : a < lo) : Memory.get m a = 0 := by
  induction m generalizing lo with
  | nil => rfl
  | cons p r ih =>
    obtain ⟨k, c⟩ := p
    simp only [Memory.wfFrom, Bool.and_eq_true, decide_eq_true_eq] at h
    have hk : k ≠ a := by omega
    simp only [Memory.get, hk, if_false]
    exact ih (k + 1) h.2 (by omega)

theorem Memory.get_set_from (m : Memory) (lo a : Nat) (b : Byte) (h : Memory.wfFrom lo m = true) :
    Memory.get (Memory.set m a b) a = b := by
  induction m generalizing lo with
  | nil =>
    simp only [Memory.set]
    split
    · next hb => simp [Memory.get, hb]
    · simp [Memory.get]
  | cons p r ih =>
    obtain ⟨k, c⟩ := p
    simp only [Memory.wfFrom, Bool.and_eq_true, decide_eq_true_eq] at h
    simp only [Memory.set]
    split
    · next hlt =>
      split
      · next hb =>
        have hk : k ≠ a := by omega
        simp only [Memory.get, hk, if_false, hb]
        exact Memory.get_below r (k + 1) a h.2 (by omega)
      · simp [Memory.get]
    · split
      · next hk =>
        subst hk
        split
        · next hb => rw [hb]; exact Memory.get_below r (a + 1) a h.2 (by omega)
        · simp [Memory.get]
      · next hk =>
        have hne : k ≠ a := fun e => hk e.symm
        simp only [Memory.get, hne, if_false]
        exact ih (k + 1) h.2

/-- A written byte reads back. -/
theorem Memory.get_set_self (m : Memory) (a : Nat) (b : Byte) (h : Memory.wf m = true) : Memory.get (Memory.set m a b) a = b :=
  Memory.get_set_from m 0 a b h

theorem Memory.wfFrom_le (m : Memory) (lo hi : Nat) (h : Memory.wfFrom hi m = true) (hl : lo ≤ hi) : Memory.wfFrom lo m = true := by
  cases m with
  | nil => rfl
  | cons p r =>
    simp only [Memory.wfFrom, Bool.and_eq_true, decide_eq_true_eq] at h ⊢
    exact ⟨⟨by omega, h.1.2⟩, h.2⟩

theorem Memory.wfFrom_set (m : Memory) (lo a : Nat) (b : Byte) (h : Memory.wfFrom lo m = true) (ha : lo ≤ a) :
    Memory.wfFrom lo (Memory.set m a b) = true := by
  induction m generalizing lo with
  | nil =>
    simp only [Memory.set]
    split
    · rfl
    · next hb => simpa [Memory.wfFrom, ha] using hb
  | cons p r ih =>
    obtain ⟨k, c⟩ := p
    have h' := h
    simp only [Memory.wfFrom, Bool.and_eq_true, decide_eq_true_eq] at h
    simp only [Memory.set]
    split
    · next hlt =>
      split
      · exact h'
      · next hb =>
        simp only [Memory.wfFrom, Bool.and_eq_true, decide_eq_true_eq]
        exact ⟨⟨ha, by simpa using hb⟩, ⟨by omega, h.1.2⟩, h.2⟩
    · split
      · split
        · exact Memory.wfFrom_le r lo (k + 1) h.2 (by omega)
        · next hb =>
          simp only [Memory.wfFrom, Bool.and_eq_true, decide_eq_true_eq]
          next hk => exact ⟨⟨ha, by simpa using hb⟩, by rw [hk]; exact h.2⟩
      · simp only [Memory.wfFrom, Bool.and_eq_true, decide_eq_true_eq]
        exact ⟨h.1, ih (k + 1) h.2 (by omega)⟩

/-- A written byte keeps the canonical form. -/
theorem Memory.wf_set (m : Memory) (a : Nat) (b : Byte) (h : Memory.wf m = true) : Memory.wf (Memory.set m a b) = true :=
  Memory.wfFrom_set m 0 a b h (Nat.zero_le a)

/-- A written byte string keeps it. -/
theorem Memory.wf_write (bs : List Byte) (m : Memory) (a : Nat) (h : Memory.wf m = true) : Memory.wf (Memory.write m a bs) = true := by
  induction bs generalizing m a with
  | nil => exact h
  | cons b r ih => exact ih _ _ (Memory.wf_set m a b h)

/-- Bytes written at offsets keep it. -/
theorem Memory.wf_writeAt (bs : List (Nat × Byte)) (m : Memory) (a : Nat) (h : Memory.wf m = true) :
    Memory.wf (Memory.writeAt m a bs) = true := by
  induction bs generalizing m with
  | nil => exact h
  | cons p r ih =>
    obtain ⟨o, b⟩ := p
    exact ih _ (Memory.wf_set m (a + o) b h)

theorem Memory.wfFrom_filter (p : Nat × Byte → Bool) (m : Memory) (lo : Nat) (h : Memory.wfFrom lo m = true) :
    Memory.wfFrom lo (m.filter p) = true := by
  induction m generalizing lo with
  | nil => rfl
  | cons q r ih =>
    obtain ⟨k, c⟩ := q
    simp only [Memory.wfFrom, Bool.and_eq_true, decide_eq_true_eq] at h
    rw [List.filter_cons]
    split
    · simp only [Memory.wfFrom, Bool.and_eq_true, decide_eq_true_eq]
      exact ⟨h.1, ih _ h.2⟩
    · exact Memory.wfFrom_le _ lo (k + 1) (ih _ h.2) (by omega)

/-- A part of a memory keeps it. -/
theorem Memory.wf_filter (p : Nat × Byte → Bool) (m : Memory) (h : Memory.wf m = true) : Memory.wf (m.filter p) = true :=
  Memory.wfFrom_filter p m 0 h

@[simp] theorem Memory.wf_nil : Memory.wf [] = true := rfl

/-- A byte string leaves every address outside it alone. -/
theorem Memory.get_write_ne (bs : List Byte) (m : Memory) (a x : Nat) (h : x < a ∨ a + bs.length ≤ x) :
    Memory.get (Memory.write m a bs) x = Memory.get m x := by
  induction bs generalizing m a with
  | nil => rfl
  | cons b r ih =>
    simp only [List.length_cons] at h
    have hx : x ≠ a := by omega
    simp only [Memory.write]
    rw [ih (Memory.set m a b) (a + 1) (by omega), Memory.get_set_ne m a x b hx]

/-- A byte string reads back. -/
theorem Memory.get_write (bs : List Byte) (m : Memory) (a i : Nat) (h : Memory.wf m = true) (hi : i < bs.length) :
    Memory.get (Memory.write m a bs) (a + i) = bs[i] := by
  induction bs generalizing m a i with
  | nil => simp at hi
  | cons b r ih =>
    simp only [Memory.write]
    cases i with
    | zero =>
      show Memory.get (Memory.write (Memory.set m a b) (a + 1) r) a = b
      rw [Memory.get_write_ne r (Memory.set m a b) (a + 1) a (by omega)]
      exact Memory.get_set_self m a b h
    | succ i =>
      have := ih (Memory.set m a b) (a + 1) i (Memory.wf_set m a b h) (by simpa using hi)
      simpa [Nat.add_assoc, Nat.add_comm 1 i] using this

/-- Bytes written at offsets leave every address that is none of theirs alone. -/
theorem Memory.get_writeAt_ne (bs : List (Nat × Byte)) (m : Memory) (a x : Nat) (h : ∀ p ∈ bs, x ≠ a + p.1) :
    Memory.get (Memory.writeAt m a bs) x = Memory.get m x := by
  induction bs generalizing m with
  | nil => rfl
  | cons p r ih =>
    obtain ⟨o, b⟩ := p
    simp only [Memory.writeAt]
    rw [ih (Memory.set m (a + o) b) (fun q hq => h q (by simp [hq])), Memory.get_set_ne m (a + o) x b (h (o, b) (by simp))]

/-- What was written reads back whole. -/
theorem Memory.read_write (bs : List Byte) (m : Memory) (a : Nat) (h : Memory.wf m = true) :
    Memory.read (Memory.write m a bs) a bs.length = bs := by
  apply List.ext_getElem
  · simp [Memory.read]
  · intro i h1 h2
    simp only [Memory.read, List.getElem_map, List.getElem_range]
    exact Memory.get_write bs m a i h h2

end Sys2Proof.Machine
end

