-- ==== Sys2Proof/Laws/PerInstr.lean ====
section
/-! SUPPORT. The encoder and the decoder agree, instruction by instruction: the family Encoding of LAWS.json. -/
namespace Sys2Proof

theorem fld_append_lo {m k : Nat} (x : BitVec m) (y : BitVec k) (lo n : Nat) (h : lo + n ≤ k) :
    fld (x ++ y) lo n = fld y lo n := by
  apply BitVec.eq_of_getLsbD_eq
  intro i hi
  simp [fld, BitVec.getLsbD_append, hi]
  omega

theorem fld_append_hi {m k : Nat} (x : BitVec m) (y : BitVec k) (lo n : Nat) (h : k ≤ lo) :
    fld (x ++ y) lo n = fld x (lo - k) n := by
  apply BitVec.eq_of_getLsbD_eq
  intro i hi
  have : ¬ (lo + i < k) := by omega
  have e : lo + i - k = lo - k + i := by omega
  simp [fld, BitVec.getLsbD_append, hi, this, e]

theorem fld_whole {m : Nat} (x : BitVec m) : fld x 0 m = x := by
  apply BitVec.eq_of_getLsbD_eq
  intro i hi
  simp [fld, hi]

theorem bit_of_fld {m : Nat} {w : BitVec m} {lo : Nat} {b : Bool} (h : fld w lo 1 = BitVec.ofBool b) :
    bit w lo = b := by
  have e : BitVec.ofBool (bit w lo) = fld w lo 1 := by
    apply BitVec.eq_of_getLsbD_eq
    intro i hi
    have : i = 0 := by omega
    subst this
    simp [bit, fld]
  rw [← e] at h
  revert h
  cases bit w lo <;> cases b <;> decide

/-- The mask of field [lo + n - 1 : lo]. -/
def fieldMask (lo n : Nat) : Code := (BitVec.allOnes n).setWidth 32 <<< lo

theorem zero_field {w : Code} {lo n : Nat} {z' z : Code} (h : fld w lo n = 0#n) (h' : w &&& z' = 0#32)
    (hz : z = fieldMask lo n ||| z') : w &&& z = 0#32 := by
  subst hz
  apply BitVec.eq_of_getLsbD_eq
  intro i hi
  have a := congrArg (BitVec.getLsbD · i) h'
  have b := congrArg (BitVec.getLsbD · (i - lo)) h
  simp [fld, fieldMask] at a b ⊢
  intro hw
  refine ⟨fun _ hl _ => Nat.le_of_not_lt fun hn => ?_, a hw⟩
  have c := b hn
  rw [show lo + (i - lo) = i by omega] at c
  simp [c] at hw

theorem decode_of_form {st : Stream} {nib : BitVec 4} {w : Code} {i : Instr} {z : Code} {n : Bool}
    (hf : formOf st nib w = .ok ⟨i, z, n⟩) (hz : w &&& z = 0#32) (hn : n = false → nib = 0#4)
    (hw : i.wf st = true) : decode st nib w = .ok i := by
  unfold decode
  rw [hf]
  simp only [hz, hw]
  cases n <;> simp_all

theorem formOf_s {st : Stream} {nib : BitVec 4} {w : Code} {f : Form} (hv : (st == .s || st == .l) = true)
    (ho : (fld w 26 6).toNat < 0x30) (hf : formS nib w = .ok f) : formOf st nib w = .ok f := by
  unfold formOf
  rw [if_neg (by omega)]
  cases st <;> first | exact hf | exact nomatch hv

theorem formOf_v {st : Stream} {nib : BitVec 4} {w : Code} {f : Form} (hv : (st == .v) = true)
    (ho : (fld w 26 6).toNat < 0x30) (hf : formV w = .ok f) : formOf st nib w = .ok f := by
  unfold formOf
  rw [if_neg (by omega)]
  cases st <;> first | exact hf | exact nomatch hv

theorem formOf_m {st : Stream} {nib : BitVec 4} {w : Code} {f : Form} (hv : (st == .m) = true)
    (ho : (fld w 26 6).toNat < 0x30) (hf : formM w = .ok f) : formOf st nib w = .ok f := by
  unfold formOf
  rw [if_neg (by omega)]
  cases st <;> first | exact hf | exact nomatch hv

theorem formOf_t {st : Stream} {nib : BitVec 4} {w : Code} {f : Form} (hv : (st == .t) = true)
    (ho : (fld w 26 6).toNat < 0x30) (hf : formT w = .ok f) : formOf st nib w = .ok f := by
  unfold formOf
  rw [if_neg (by omega)]
  cases st <;> first | exact hf | exact nomatch hv

theorem formOf_control {st : Stream} {nib : BitVec 4} {w : Code} {f : Form}
    (ho : 0x30 ≤ (fld w 26 6).toNat) (hf : formC w = .ok f) (hv : f.instr.validIn st = true) :
    formOf st nib w = .ok f := by
  unfold formOf
  rw [if_pos ho, hf]
  simp [hv]

theorem layout_6_6_6_6_3_1_4 (x0 : BitVec 6) (x1 : BitVec 6) (x2 : BitVec 6) (x3 : BitVec 6) (x4 : BitVec 3) (x5 : BitVec 1) (x6 : BitVec 4) :
    fld (x0 ++ x1 ++ x2 ++ x3 ++ x4 ++ x5 ++ x6 : Code) 26 6 = x0 ∧
    fld (x0 ++ x1 ++ x2 ++ x3 ++ x4 ++ x5 ++ x6 : Code) 20 6 = x1 ∧
    fld (x0 ++ x1 ++ x2 ++ x3 ++ x4 ++ x5 ++ x6 : Code) 14 6 = x2 ∧
    fld (x0 ++ x1 ++ x2 ++ x3 ++ x4 ++ x5 ++ x6 : Code) 8 6 = x3 ∧
    fld (x0 ++ x1 ++ x2 ++ x3 ++ x4 ++ x5 ++ x6 : Code) 5 3 = x4 ∧
    fld (x0 ++ x1 ++ x2 ++ x3 ++ x4 ++ x5 ++ x6 : Code) 4 1 = x5 ∧
    fld (x0 ++ x1 ++ x2 ++ x3 ++ x4 ++ x5 ++ x6 : Code) 0 4 = x6 := by
  exact ⟨(fld_append_hi (m := 28) (k := 4) _ _ 26 6 (by decide)).trans <| (fld_append_hi (m := 27) (k := 1) _ _ 22 6 (by decide)).trans <| (fld_append_hi (m := 24) (k := 3) _ _ 21 6 (by decide)).trans <| (fld_append_hi (m := 18) (k := 6) _ _ 18 6 (by decide)).trans <| (fld_append_hi (m := 12) (k := 6) _ _ 12 6 (by decide)).trans <| (fld_append_hi (m := 6) (k := 6) _ _ 6 6 (by decide)).trans <| fld_whole x0,
    (fld_append_hi (m := 28) (k := 4) _ _ 20 6 (by decide)).trans <| (fld_append_hi (m := 27) (k := 1) _ _ 16 6 (by decide)).trans <| (fld_append_hi (m := 24) (k := 3) _ _ 15 6 (by decide)).trans <| (fld_append_hi (m := 18) (k := 6) _ _ 12 6 (by decide)).trans <| (fld_append_hi (m := 12) (k := 6) _ _ 6 6 (by decide)).trans <| (fld_append_lo (m := 6) (k := 6) _ _ 0 6 (by decide)).trans <| fld_whole x1,
    (fld_append_hi (m := 28) (k := 4) _ _ 14 6 (by decide)).trans <| (fld_append_hi (m := 27) (k := 1) _ _ 10 6 (by decide)).trans <| (fld_append_hi (m := 24) (k := 3) _ _ 9 6 (by decide)).trans <| (fld_append_hi (m := 18) (k := 6) _ _ 6 6 (by decide)).trans <| (fld_append_lo (m := 12) (k := 6) _ _ 0 6 (by decide)).trans <| fld_whole x2,
    (fld_append_hi (m := 28) (k := 4) _ _ 8 6 (by decide)).trans <| (fld_append_hi (m := 27) (k := 1) _ _ 4 6 (by decide)).trans <| (fld_append_hi (m := 24) (k := 3) _ _ 3 6 (by decide)).trans <| (fld_append_lo (m := 18) (k := 6) _ _ 0 6 (by decide)).trans <| fld_whole x3,
    (fld_append_hi (m := 28) (k := 4) _ _ 5 3 (by decide)).trans <| (fld_append_hi (m := 27) (k := 1) _ _ 1 3 (by decide)).trans <| (fld_append_lo (m := 24) (k := 3) _ _ 0 3 (by decide)).trans <| fld_whole x4,
    (fld_append_hi (m := 28) (k := 4) _ _ 4 1 (by decide)).trans <| (fld_append_lo (m := 27) (k := 1) _ _ 0 1 (by decide)).trans <| fld_whole x5,
    (fld_append_lo (m := 28) (k := 4) _ _ 0 4 (by decide)).trans <| fld_whole x6⟩

theorem layout_6_6_12_3_1_4 (x0 : BitVec 6) (x1 : BitVec 6) (x2 : BitVec 12) (x3 : BitVec 3) (x4 : BitVec 1) (x5 : BitVec 4) :
    fld (x0 ++ x1 ++ x2 ++ x3 ++ x4 ++ x5 : Code) 26 6 = x0 ∧
    fld (x0 ++ x1 ++ x2 ++ x3 ++ x4 ++ x5 : Code) 20 6 = x1 ∧
    fld (x0 ++ x1 ++ x2 ++ x3 ++ x4 ++ x5 : Code) 8 12 = x2 ∧
    fld (x0 ++ x1 ++ x2 ++ x3 ++ x4 ++ x5 : Code) 5 3 = x3 ∧
    fld (x0 ++ x1 ++ x2 ++ x3 ++ x4 ++ x5 : Code) 4 1 = x4 ∧
    fld (x0 ++ x1 ++ x2 ++ x3 ++ x4 ++ x5 : Code) 0 4 = x5 := by
  exact ⟨(fld_append_hi (m := 28) (k := 4) _ _ 26 6 (by decide)).trans <| (fld_append_hi (m := 27) (k := 1) _ _ 22 6 (by decide)).trans <| (fld_append_hi (m := 24) (k := 3) _ _ 21 6 (by decide)).trans <| (fld_append_hi (m := 12) (k := 12) _ _ 18 6 (by decide)).trans <| (fld_append_hi (m := 6) (k := 6) _ _ 6 6 (by decide)).trans <| fld_whole x0,
    (fld_append_hi (m := 28) (k := 4) _ _ 20 6 (by decide)).trans <| (fld_append_hi (m := 27) (k := 1) _ _ 16 6 (by decide)).trans <| (fld_append_hi (m := 24) (k := 3) _ _ 15 6 (by decide)).trans <| (fld_append_hi (m := 12) (k := 12) _ _ 12 6 (by decide)).trans <| (fld_append_lo (m := 6) (k := 6) _ _ 0 6 (by decide)).trans <| fld_whole x1,
    (fld_append_hi (m := 28) (k := 4) _ _ 8 12 (by decide)).trans <| (fld_append_hi (m := 27) (k := 1) _ _ 4 12 (by decide)).trans <| (fld_append_hi (m := 24) (k := 3) _ _ 3 12 (by decide)).trans <| (fld_append_lo (m := 12) (k := 12) _ _ 0 12 (by decide)).trans <| fld_whole x2,
    (fld_append_hi (m := 28) (k := 4) _ _ 5 3 (by decide)).trans <| (fld_append_hi (m := 27) (k := 1) _ _ 1 3 (by decide)).trans <| (fld_append_lo (m := 24) (k := 3) _ _ 0 3 (by decide)).trans <| fld_whole x3,
    (fld_append_hi (m := 28) (k := 4) _ _ 4 1 (by decide)).trans <| (fld_append_lo (m := 27) (k := 1) _ _ 0 1 (by decide)).trans <| fld_whole x4,
    (fld_append_lo (m := 28) (k := 4) _ _ 0 4 (by decide)).trans <| fld_whole x5⟩

theorem layout_6_6_6_14 (x0 : BitVec 6) (x1 : BitVec 6) (x2 : BitVec 6) (x3 : BitVec 14) :
    fld (x0 ++ x1 ++ x2 ++ x3 : Code) 26 6 = x0 ∧
    fld (x0 ++ x1 ++ x2 ++ x3 : Code) 20 6 = x1 ∧
    fld (x0 ++ x1 ++ x2 ++ x3 : Code) 14 6 = x2 ∧
    fld (x0 ++ x1 ++ x2 ++ x3 : Code) 0 14 = x3 := by
  exact ⟨(fld_append_hi (m := 18) (k := 14) _ _ 26 6 (by decide)).trans <| (fld_append_hi (m := 12) (k := 6) _ _ 12 6 (by decide)).trans <| (fld_append_hi (m := 6) (k := 6) _ _ 6 6 (by decide)).trans <| fld_whole x0,
    (fld_append_hi (m := 18) (k := 14) _ _ 20 6 (by decide)).trans <| (fld_append_hi (m := 12) (k := 6) _ _ 6 6 (by decide)).trans <| (fld_append_lo (m := 6) (k := 6) _ _ 0 6 (by decide)).trans <| fld_whole x1,
    (fld_append_hi (m := 18) (k := 14) _ _ 14 6 (by decide)).trans <| (fld_append_lo (m := 12) (k := 6) _ _ 0 6 (by decide)).trans <| fld_whole x2,
    (fld_append_lo (m := 18) (k := 14) _ _ 0 14 (by decide)).trans <| fld_whole x3⟩

theorem layout_6_6_6_3_11 (x0 : BitVec 6) (x1 : BitVec 6) (x2 : BitVec 6) (x3 : BitVec 3) (x4 : BitVec 11) :
    fld (x0 ++ x1 ++ x2 ++ x3 ++ x4 : Code) 26 6 = x0 ∧
    fld (x0 ++ x1 ++ x2 ++ x3 ++ x4 : Code) 20 6 = x1 ∧
    fld (x0 ++ x1 ++ x2 ++ x3 ++ x4 : Code) 14 6 = x2 ∧
    fld (x0 ++ x1 ++ x2 ++ x3 ++ x4 : Code) 11 3 = x3 ∧
    fld (x0 ++ x1 ++ x2 ++ x3 ++ x4 : Code) 0 11 = x4 := by
  exact ⟨(fld_append_hi (m := 21) (k := 11) _ _ 26 6 (by decide)).trans <| (fld_append_hi (m := 18) (k := 3) _ _ 15 6 (by decide)).trans <| (fld_append_hi (m := 12) (k := 6) _ _ 12 6 (by decide)).trans <| (fld_append_hi (m := 6) (k := 6) _ _ 6 6 (by decide)).trans <| fld_whole x0,
    (fld_append_hi (m := 21) (k := 11) _ _ 20 6 (by decide)).trans <| (fld_append_hi (m := 18) (k := 3) _ _ 9 6 (by decide)).trans <| (fld_append_hi (m := 12) (k := 6) _ _ 6 6 (by decide)).trans <| (fld_append_lo (m := 6) (k := 6) _ _ 0 6 (by decide)).trans <| fld_whole x1,
    (fld_append_hi (m := 21) (k := 11) _ _ 14 6 (by decide)).trans <| (fld_append_hi (m := 18) (k := 3) _ _ 3 6 (by decide)).trans <| (fld_append_lo (m := 12) (k := 6) _ _ 0 6 (by decide)).trans <| fld_whole x2,
    (fld_append_hi (m := 21) (k := 11) _ _ 11 3 (by decide)).trans <| (fld_append_lo (m := 18) (k := 3) _ _ 0 3 (by decide)).trans <| fld_whole x3,
    (fld_append_lo (m := 21) (k := 11) _ _ 0 11 (by decide)).trans <| fld_whole x4⟩

theorem layout_6_6_20 (x0 : BitVec 6) (x1 : BitVec 6) (x2 : BitVec 20) :
    fld (x0 ++ x1 ++ x2 : Code) 26 6 = x0 ∧
    fld (x0 ++ x1 ++ x2 : Code) 20 6 = x1 ∧
    fld (x0 ++ x1 ++ x2 : Code) 0 20 = x2 := by
  exact ⟨(fld_append_hi (m := 12) (k := 20) _ _ 26 6 (by decide)).trans <| (fld_append_hi (m := 6) (k := 6) _ _ 6 6 (by decide)).trans <| fld_whole x0,
    (fld_append_hi (m := 12) (k := 20) _ _ 20 6 (by decide)).trans <| (fld_append_lo (m := 6) (k := 6) _ _ 0 6 (by decide)).trans <| fld_whole x1,
    (fld_append_lo (m := 12) (k := 20) _ _ 0 20 (by decide)).trans <| fld_whole x2⟩

theorem layout_6_6_6_3_2_3_6 (x0 : BitVec 6) (x1 : BitVec 6) (x2 : BitVec 6) (x3 : BitVec 3) (x4 : BitVec 2) (x5 : BitVec 3) (x6 : BitVec 6) :
    fld (x0 ++ x1 ++ x2 ++ x3 ++ x4 ++ x5 ++ x6 : Code) 26 6 = x0 ∧
    fld (x0 ++ x1 ++ x2 ++ x3 ++ x4 ++ x5 ++ x6 : Code) 20 6 = x1 ∧
    fld (x0 ++ x1 ++ x2 ++ x3 ++ x4 ++ x5 ++ x6 : Code) 14 6 = x2 ∧
    fld (x0 ++ x1 ++ x2 ++ x3 ++ x4 ++ x5 ++ x6 : Code) 11 3 = x3 ∧
    fld (x0 ++ x1 ++ x2 ++ x3 ++ x4 ++ x5 ++ x6 : Code) 9 2 = x4 ∧
    fld (x0 ++ x1 ++ x2 ++ x3 ++ x4 ++ x5 ++ x6 : Code) 6 3 = x5 ∧
    fld (x0 ++ x1 ++ x2 ++ x3 ++ x4 ++ x5 ++ x6 : Code) 0 6 = x6 := by
  exact ⟨(fld_append_hi (m := 26) (k := 6) _ _ 26 6 (by decide)).trans <| (fld_append_hi (m := 23) (k := 3) _ _ 20 6 (by decide)).trans <| (fld_append_hi (m := 21) (k := 2) _ _ 17 6 (by decide)).trans <| (fld_append_hi (m := 18) (k := 3) _ _ 15 6 (by decide)).trans <| (fld_append_hi (m := 12) (k := 6) _ _ 12 6 (by decide)).trans <| (fld_append_hi (m := 6) (k := 6) _ _ 6 6 (by decide)).trans <| fld_whole x0,
    (fld_append_hi (m := 26) (k := 6) _ _ 20 6 (by decide)).trans <| (fld_append_hi (m := 23) (k := 3) _ _ 14 6 (by decide)).trans <| (fld_append_hi (m := 21) (k := 2) _ _ 11 6 (by decide)).trans <| (fld_append_hi (m := 18) (k := 3) _ _ 9 6 (by decide)).trans <| (fld_append_hi (m := 12) (k := 6) _ _ 6 6 (by decide)).trans <| (fld_append_lo (m := 6) (k := 6) _ _ 0 6 (by decide)).trans <| fld_whole x1,
    (fld_append_hi (m := 26) (k := 6) _ _ 14 6 (by decide)).trans <| (fld_append_hi (m := 23) (k := 3) _ _ 8 6 (by decide)).trans <| (fld_append_hi (m := 21) (k := 2) _ _ 5 6 (by decide)).trans <| (fld_append_hi (m := 18) (k := 3) _ _ 3 6 (by decide)).trans <| (fld_append_lo (m := 12) (k := 6) _ _ 0 6 (by decide)).trans <| fld_whole x2,
    (fld_append_hi (m := 26) (k := 6) _ _ 11 3 (by decide)).trans <| (fld_append_hi (m := 23) (k := 3) _ _ 5 3 (by decide)).trans <| (fld_append_hi (m := 21) (k := 2) _ _ 2 3 (by decide)).trans <| (fld_append_lo (m := 18) (k := 3) _ _ 0 3 (by decide)).trans <| fld_whole x3,
    (fld_append_hi (m := 26) (k := 6) _ _ 9 2 (by decide)).trans <| (fld_append_hi (m := 23) (k := 3) _ _ 3 2 (by decide)).trans <| (fld_append_lo (m := 21) (k := 2) _ _ 0 2 (by decide)).trans <| fld_whole x4,
    (fld_append_hi (m := 26) (k := 6) _ _ 6 3 (by decide)).trans <| (fld_append_lo (m := 23) (k := 3) _ _ 0 3 (by decide)).trans <| fld_whole x5,
    (fld_append_lo (m := 26) (k := 6) _ _ 0 6 (by decide)).trans <| fld_whole x6⟩

theorem layout_6_6_6_3_2_3_3_3 (x0 : BitVec 6) (x1 : BitVec 6) (x2 : BitVec 6) (x3 : BitVec 3) (x4 : BitVec 2) (x5 : BitVec 3) (x6 : BitVec 3) (x7 : BitVec 3) :
    fld (x0 ++ x1 ++ x2 ++ x3 ++ x4 ++ x5 ++ x6 ++ x7 : Code) 26 6 = x0 ∧
    fld (x0 ++ x1 ++ x2 ++ x3 ++ x4 ++ x5 ++ x6 ++ x7 : Code) 20 6 = x1 ∧
    fld (x0 ++ x1 ++ x2 ++ x3 ++ x4 ++ x5 ++ x6 ++ x7 : Code) 14 6 = x2 ∧
    fld (x0 ++ x1 ++ x2 ++ x3 ++ x4 ++ x5 ++ x6 ++ x7 : Code) 11 3 = x3 ∧
    fld (x0 ++ x1 ++ x2 ++ x3 ++ x4 ++ x5 ++ x6 ++ x7 : Code) 9 2 = x4 ∧
    fld (x0 ++ x1 ++ x2 ++ x3 ++ x4 ++ x5 ++ x6 ++ x7 : Code) 6 3 = x5 ∧
    fld (x0 ++ x1 ++ x2 ++ x3 ++ x4 ++ x5 ++ x6 ++ x7 : Code) 3 3 = x6 ∧
    fld (x0 ++ x1 ++ x2 ++ x3 ++ x4 ++ x5 ++ x6 ++ x7 : Code) 0 3 = x7 := by
  exact ⟨(fld_append_hi (m := 29) (k := 3) _ _ 26 6 (by decide)).trans <| (fld_append_hi (m := 26) (k := 3) _ _ 23 6 (by decide)).trans <| (fld_append_hi (m := 23) (k := 3) _ _ 20 6 (by decide)).trans <| (fld_append_hi (m := 21) (k := 2) _ _ 17 6 (by decide)).trans <| (fld_append_hi (m := 18) (k := 3) _ _ 15 6 (by decide)).trans <| (fld_append_hi (m := 12) (k := 6) _ _ 12 6 (by decide)).trans <| (fld_append_hi (m := 6) (k := 6) _ _ 6 6 (by decide)).trans <| fld_whole x0,
    (fld_append_hi (m := 29) (k := 3) _ _ 20 6 (by decide)).trans <| (fld_append_hi (m := 26) (k := 3) _ _ 17 6 (by decide)).trans <| (fld_append_hi (m := 23) (k := 3) _ _ 14 6 (by decide)).trans <| (fld_append_hi (m := 21) (k := 2) _ _ 11 6 (by decide)).trans <| (fld_append_hi (m := 18) (k := 3) _ _ 9 6 (by decide)).trans <| (fld_append_hi (m := 12) (k := 6) _ _ 6 6 (by decide)).trans <| (fld_append_lo (m := 6) (k := 6) _ _ 0 6 (by decide)).trans <| fld_whole x1,
    (fld_append_hi (m := 29) (k := 3) _ _ 14 6 (by decide)).trans <| (fld_append_hi (m := 26) (k := 3) _ _ 11 6 (by decide)).trans <| (fld_append_hi (m := 23) (k := 3) _ _ 8 6 (by decide)).trans <| (fld_append_hi (m := 21) (k := 2) _ _ 5 6 (by decide)).trans <| (fld_append_hi (m := 18) (k := 3) _ _ 3 6 (by decide)).trans <| (fld_append_lo (m := 12) (k := 6) _ _ 0 6 (by decide)).trans <| fld_whole x2,
    (fld_append_hi (m := 29) (k := 3) _ _ 11 3 (by decide)).trans <| (fld_append_hi (m := 26) (k := 3) _ _ 8 3 (by decide)).trans <| (fld_append_hi (m := 23) (k := 3) _ _ 5 3 (by decide)).trans <| (fld_append_hi (m := 21) (k := 2) _ _ 2 3 (by decide)).trans <| (fld_append_lo (m := 18) (k := 3) _ _ 0 3 (by decide)).trans <| fld_whole x3,
    (fld_append_hi (m := 29) (k := 3) _ _ 9 2 (by decide)).trans <| (fld_append_hi (m := 26) (k := 3) _ _ 6 2 (by decide)).trans <| (fld_append_hi (m := 23) (k := 3) _ _ 3 2 (by decide)).trans <| (fld_append_lo (m := 21) (k := 2) _ _ 0 2 (by decide)).trans <| fld_whole x4,
    (fld_append_hi (m := 29) (k := 3) _ _ 6 3 (by decide)).trans <| (fld_append_hi (m := 26) (k := 3) _ _ 3 3 (by decide)).trans <| (fld_append_lo (m := 23) (k := 3) _ _ 0 3 (by decide)).trans <| fld_whole x5,
    (fld_append_hi (m := 29) (k := 3) _ _ 3 3 (by decide)).trans <| (fld_append_lo (m := 26) (k := 3) _ _ 0 3 (by decide)).trans <| fld_whole x6,
    (fld_append_lo (m := 29) (k := 3) _ _ 0 3 (by decide)).trans <| fld_whole x7⟩

theorem layout_6_6_6_6_3_2_3 (x0 : BitVec 6) (x1 : BitVec 6) (x2 : BitVec 6) (x3 : BitVec 6) (x4 : BitVec 3) (x5 : BitVec 2) (x6 : BitVec 3) :
    fld (x0 ++ x1 ++ x2 ++ x3 ++ x4 ++ x5 ++ x6 : Code) 26 6 = x0 ∧
    fld (x0 ++ x1 ++ x2 ++ x3 ++ x4 ++ x5 ++ x6 : Code) 20 6 = x1 ∧
    fld (x0 ++ x1 ++ x2 ++ x3 ++ x4 ++ x5 ++ x6 : Code) 14 6 = x2 ∧
    fld (x0 ++ x1 ++ x2 ++ x3 ++ x4 ++ x5 ++ x6 : Code) 8 6 = x3 ∧
    fld (x0 ++ x1 ++ x2 ++ x3 ++ x4 ++ x5 ++ x6 : Code) 5 3 = x4 ∧
    fld (x0 ++ x1 ++ x2 ++ x3 ++ x4 ++ x5 ++ x6 : Code) 3 2 = x5 ∧
    fld (x0 ++ x1 ++ x2 ++ x3 ++ x4 ++ x5 ++ x6 : Code) 0 3 = x6 := by
  exact ⟨(fld_append_hi (m := 29) (k := 3) _ _ 26 6 (by decide)).trans <| (fld_append_hi (m := 27) (k := 2) _ _ 23 6 (by decide)).trans <| (fld_append_hi (m := 24) (k := 3) _ _ 21 6 (by decide)).trans <| (fld_append_hi (m := 18) (k := 6) _ _ 18 6 (by decide)).trans <| (fld_append_hi (m := 12) (k := 6) _ _ 12 6 (by decide)).trans <| (fld_append_hi (m := 6) (k := 6) _ _ 6 6 (by decide)).trans <| fld_whole x0,
    (fld_append_hi (m := 29) (k := 3) _ _ 20 6 (by decide)).trans <| (fld_append_hi (m := 27) (k := 2) _ _ 17 6 (by decide)).trans <| (fld_append_hi (m := 24) (k := 3) _ _ 15 6 (by decide)).trans <| (fld_append_hi (m := 18) (k := 6) _ _ 12 6 (by decide)).trans <| (fld_append_hi (m := 12) (k := 6) _ _ 6 6 (by decide)).trans <| (fld_append_lo (m := 6) (k := 6) _ _ 0 6 (by decide)).trans <| fld_whole x1,
    (fld_append_hi (m := 29) (k := 3) _ _ 14 6 (by decide)).trans <| (fld_append_hi (m := 27) (k := 2) _ _ 11 6 (by decide)).trans <| (fld_append_hi (m := 24) (k := 3) _ _ 9 6 (by decide)).trans <| (fld_append_hi (m := 18) (k := 6) _ _ 6 6 (by decide)).trans <| (fld_append_lo (m := 12) (k := 6) _ _ 0 6 (by decide)).trans <| fld_whole x2,
    (fld_append_hi (m := 29) (k := 3) _ _ 8 6 (by decide)).trans <| (fld_append_hi (m := 27) (k := 2) _ _ 5 6 (by decide)).trans <| (fld_append_hi (m := 24) (k := 3) _ _ 3 6 (by decide)).trans <| (fld_append_lo (m := 18) (k := 6) _ _ 0 6 (by decide)).trans <| fld_whole x3,
    (fld_append_hi (m := 29) (k := 3) _ _ 5 3 (by decide)).trans <| (fld_append_hi (m := 27) (k := 2) _ _ 2 3 (by decide)).trans <| (fld_append_lo (m := 24) (k := 3) _ _ 0 3 (by decide)).trans <| fld_whole x4,
    (fld_append_hi (m := 29) (k := 3) _ _ 3 2 (by decide)).trans <| (fld_append_lo (m := 27) (k := 2) _ _ 0 2 (by decide)).trans <| fld_whole x5,
    (fld_append_lo (m := 29) (k := 3) _ _ 0 3 (by decide)).trans <| fld_whole x6⟩

theorem layout_6_12_3_2_3_6 (x0 : BitVec 6) (x1 : BitVec 12) (x2 : BitVec 3) (x3 : BitVec 2) (x4 : BitVec 3) (x5 : BitVec 6) :
    fld (x0 ++ x1 ++ x2 ++ x3 ++ x4 ++ x5 : Code) 26 6 = x0 ∧
    fld (x0 ++ x1 ++ x2 ++ x3 ++ x4 ++ x5 : Code) 14 12 = x1 ∧
    fld (x0 ++ x1 ++ x2 ++ x3 ++ x4 ++ x5 : Code) 11 3 = x2 ∧
    fld (x0 ++ x1 ++ x2 ++ x3 ++ x4 ++ x5 : Code) 9 2 = x3 ∧
    fld (x0 ++ x1 ++ x2 ++ x3 ++ x4 ++ x5 : Code) 6 3 = x4 ∧
    fld (x0 ++ x1 ++ x2 ++ x3 ++ x4 ++ x5 : Code) 0 6 = x5 := by
  exact ⟨(fld_append_hi (m := 26) (k := 6) _ _ 26 6 (by decide)).trans <| (fld_append_hi (m := 23) (k := 3) _ _ 20 6 (by decide)).trans <| (fld_append_hi (m := 21) (k := 2) _ _ 17 6 (by decide)).trans <| (fld_append_hi (m := 18) (k := 3) _ _ 15 6 (by decide)).trans <| (fld_append_hi (m := 6) (k := 12) _ _ 12 6 (by decide)).trans <| fld_whole x0,
    (fld_append_hi (m := 26) (k := 6) _ _ 14 12 (by decide)).trans <| (fld_append_hi (m := 23) (k := 3) _ _ 8 12 (by decide)).trans <| (fld_append_hi (m := 21) (k := 2) _ _ 5 12 (by decide)).trans <| (fld_append_hi (m := 18) (k := 3) _ _ 3 12 (by decide)).trans <| (fld_append_lo (m := 6) (k := 12) _ _ 0 12 (by decide)).trans <| fld_whole x1,
    (fld_append_hi (m := 26) (k := 6) _ _ 11 3 (by decide)).trans <| (fld_append_hi (m := 23) (k := 3) _ _ 5 3 (by decide)).trans <| (fld_append_hi (m := 21) (k := 2) _ _ 2 3 (by decide)).trans <| (fld_append_lo (m := 18) (k := 3) _ _ 0 3 (by decide)).trans <| fld_whole x2,
    (fld_append_hi (m := 26) (k := 6) _ _ 9 2 (by decide)).trans <| (fld_append_hi (m := 23) (k := 3) _ _ 3 2 (by decide)).trans <| (fld_append_lo (m := 21) (k := 2) _ _ 0 2 (by decide)).trans <| fld_whole x3,
    (fld_append_hi (m := 26) (k := 6) _ _ 6 3 (by decide)).trans <| (fld_append_lo (m := 23) (k := 3) _ _ 0 3 (by decide)).trans <| fld_whole x4,
    (fld_append_lo (m := 26) (k := 6) _ _ 0 6 (by decide)).trans <| fld_whole x5⟩

theorem layout_6_4_1_3_18 (x0 : BitVec 6) (x1 : BitVec 4) (x2 : BitVec 1) (x3 : BitVec 3) (x4 : BitVec 18) :
    fld (x0 ++ x1 ++ x2 ++ x3 ++ x4 : Code) 26 6 = x0 ∧
    fld (x0 ++ x1 ++ x2 ++ x3 ++ x4 : Code) 22 4 = x1 ∧
    fld (x0 ++ x1 ++ x2 ++ x3 ++ x4 : Code) 21 1 = x2 ∧
    fld (x0 ++ x1 ++ x2 ++ x3 ++ x4 : Code) 18 3 = x3 ∧
    fld (x0 ++ x1 ++ x2 ++ x3 ++ x4 : Code) 0 18 = x4 := by
  exact ⟨(fld_append_hi (m := 14) (k := 18) _ _ 26 6 (by decide)).trans <| (fld_append_hi (m := 11) (k := 3) _ _ 8 6 (by decide)).trans <| (fld_append_hi (m := 10) (k := 1) _ _ 5 6 (by decide)).trans <| (fld_append_hi (m := 6) (k := 4) _ _ 4 6 (by decide)).trans <| fld_whole x0,
    (fld_append_hi (m := 14) (k := 18) _ _ 22 4 (by decide)).trans <| (fld_append_hi (m := 11) (k := 3) _ _ 4 4 (by decide)).trans <| (fld_append_hi (m := 10) (k := 1) _ _ 1 4 (by decide)).trans <| (fld_append_lo (m := 6) (k := 4) _ _ 0 4 (by decide)).trans <| fld_whole x1,
    (fld_append_hi (m := 14) (k := 18) _ _ 21 1 (by decide)).trans <| (fld_append_hi (m := 11) (k := 3) _ _ 3 1 (by decide)).trans <| (fld_append_lo (m := 10) (k := 1) _ _ 0 1 (by decide)).trans <| fld_whole x2,
    (fld_append_hi (m := 14) (k := 18) _ _ 18 3 (by decide)).trans <| (fld_append_lo (m := 11) (k := 3) _ _ 0 3 (by decide)).trans <| fld_whole x3,
    (fld_append_lo (m := 14) (k := 18) _ _ 0 18 (by decide)).trans <| fld_whole x4⟩

theorem layout_6_4_1_3_6_6_6 (x0 : BitVec 6) (x1 : BitVec 4) (x2 : BitVec 1) (x3 : BitVec 3) (x4 : BitVec 6) (x5 : BitVec 6) (x6 : BitVec 6) :
    fld (x0 ++ x1 ++ x2 ++ x3 ++ x4 ++ x5 ++ x6 : Code) 26 6 = x0 ∧
    fld (x0 ++ x1 ++ x2 ++ x3 ++ x4 ++ x5 ++ x6 : Code) 22 4 = x1 ∧
    fld (x0 ++ x1 ++ x2 ++ x3 ++ x4 ++ x5 ++ x6 : Code) 21 1 = x2 ∧
    fld (x0 ++ x1 ++ x2 ++ x3 ++ x4 ++ x5 ++ x6 : Code) 18 3 = x3 ∧
    fld (x0 ++ x1 ++ x2 ++ x3 ++ x4 ++ x5 ++ x6 : Code) 12 6 = x4 ∧
    fld (x0 ++ x1 ++ x2 ++ x3 ++ x4 ++ x5 ++ x6 : Code) 6 6 = x5 ∧
    fld (x0 ++ x1 ++ x2 ++ x3 ++ x4 ++ x5 ++ x6 : Code) 0 6 = x6 := by
  exact ⟨(fld_append_hi (m := 26) (k := 6) _ _ 26 6 (by decide)).trans <| (fld_append_hi (m := 20) (k := 6) _ _ 20 6 (by decide)).trans <| (fld_append_hi (m := 14) (k := 6) _ _ 14 6 (by decide)).trans <| (fld_append_hi (m := 11) (k := 3) _ _ 8 6 (by decide)).trans <| (fld_append_hi (m := 10) (k := 1) _ _ 5 6 (by decide)).trans <| (fld_append_hi (m := 6) (k := 4) _ _ 4 6 (by decide)).trans <| fld_whole x0,
    (fld_append_hi (m := 26) (k := 6) _ _ 22 4 (by decide)).trans <| (fld_append_hi (m := 20) (k := 6) _ _ 16 4 (by decide)).trans <| (fld_append_hi (m := 14) (k := 6) _ _ 10 4 (by decide)).trans <| (fld_append_hi (m := 11) (k := 3) _ _ 4 4 (by decide)).trans <| (fld_append_hi (m := 10) (k := 1) _ _ 1 4 (by decide)).trans <| (fld_append_lo (m := 6) (k := 4) _ _ 0 4 (by decide)).trans <| fld_whole x1,
    (fld_append_hi (m := 26) (k := 6) _ _ 21 1 (by decide)).trans <| (fld_append_hi (m := 20) (k := 6) _ _ 15 1 (by decide)).trans <| (fld_append_hi (m := 14) (k := 6) _ _ 9 1 (by decide)).trans <| (fld_append_hi (m := 11) (k := 3) _ _ 3 1 (by decide)).trans <| (fld_append_lo (m := 10) (k := 1) _ _ 0 1 (by decide)).trans <| fld_whole x2,
    (fld_append_hi (m := 26) (k := 6) _ _ 18 3 (by decide)).trans <| (fld_append_hi (m := 20) (k := 6) _ _ 12 3 (by decide)).trans <| (fld_append_hi (m := 14) (k := 6) _ _ 6 3 (by decide)).trans <| (fld_append_lo (m := 11) (k := 3) _ _ 0 3 (by decide)).trans <| fld_whole x3,
    (fld_append_hi (m := 26) (k := 6) _ _ 12 6 (by decide)).trans <| (fld_append_hi (m := 20) (k := 6) _ _ 6 6 (by decide)).trans <| (fld_append_lo (m := 14) (k := 6) _ _ 0 6 (by decide)).trans <| fld_whole x4,
    (fld_append_hi (m := 26) (k := 6) _ _ 6 6 (by decide)).trans <| (fld_append_lo (m := 20) (k := 6) _ _ 0 6 (by decide)).trans <| fld_whole x5,
    (fld_append_lo (m := 26) (k := 6) _ _ 0 6 (by decide)).trans <| fld_whole x6⟩

theorem layout_6_4_1_3_6_4_8 (x0 : BitVec 6) (x1 : BitVec 4) (x2 : BitVec 1) (x3 : BitVec 3) (x4 : BitVec 6) (x5 : BitVec 4) (x6 : BitVec 8) :
    fld (x0 ++ x1 ++ x2 ++ x3 ++ x4 ++ x5 ++ x6 : Code) 26 6 = x0 ∧
    fld (x0 ++ x1 ++ x2 ++ x3 ++ x4 ++ x5 ++ x6 : Code) 22 4 = x1 ∧
    fld (x0 ++ x1 ++ x2 ++ x3 ++ x4 ++ x5 ++ x6 : Code) 21 1 = x2 ∧
    fld (x0 ++ x1 ++ x2 ++ x3 ++ x4 ++ x5 ++ x6 : Code) 18 3 = x3 ∧
    fld (x0 ++ x1 ++ x2 ++ x3 ++ x4 ++ x5 ++ x6 : Code) 12 6 = x4 ∧
    fld (x0 ++ x1 ++ x2 ++ x3 ++ x4 ++ x5 ++ x6 : Code) 8 4 = x5 ∧
    fld (x0 ++ x1 ++ x2 ++ x3 ++ x4 ++ x5 ++ x6 : Code) 0 8 = x6 := by
  exact ⟨(fld_append_hi (m := 24) (k := 8) _ _ 26 6 (by decide)).trans <| (fld_append_hi (m := 20) (k := 4) _ _ 18 6 (by decide)).trans <| (fld_append_hi (m := 14) (k := 6) _ _ 14 6 (by decide)).trans <| (fld_append_hi (m := 11) (k := 3) _ _ 8 6 (by decide)).trans <| (fld_append_hi (m := 10) (k := 1) _ _ 5 6 (by decide)).trans <| (fld_append_hi (m := 6) (k := 4) _ _ 4 6 (by decide)).trans <| fld_whole x0,
    (fld_append_hi (m := 24) (k := 8) _ _ 22 4 (by decide)).trans <| (fld_append_hi (m := 20) (k := 4) _ _ 14 4 (by decide)).trans <| (fld_append_hi (m := 14) (k := 6) _ _ 10 4 (by decide)).trans <| (fld_append_hi (m := 11) (k := 3) _ _ 4 4 (by decide)).trans <| (fld_append_hi (m := 10) (k := 1) _ _ 1 4 (by decide)).trans <| (fld_append_lo (m := 6) (k := 4) _ _ 0 4 (by decide)).trans <| fld_whole x1,
    (fld_append_hi (m := 24) (k := 8) _ _ 21 1 (by decide)).trans <| (fld_append_hi (m := 20) (k := 4) _ _ 13 1 (by decide)).trans <| (fld_append_hi (m := 14) (k := 6) _ _ 9 1 (by decide)).trans <| (fld_append_hi (m := 11) (k := 3) _ _ 3 1 (by decide)).trans <| (fld_append_lo (m := 10) (k := 1) _ _ 0 1 (by decide)).trans <| fld_whole x2,
    (fld_append_hi (m := 24) (k := 8) _ _ 18 3 (by decide)).trans <| (fld_append_hi (m := 20) (k := 4) _ _ 10 3 (by decide)).trans <| (fld_append_hi (m := 14) (k := 6) _ _ 6 3 (by decide)).trans <| (fld_append_lo (m := 11) (k := 3) _ _ 0 3 (by decide)).trans <| fld_whole x3,
    (fld_append_hi (m := 24) (k := 8) _ _ 12 6 (by decide)).trans <| (fld_append_hi (m := 20) (k := 4) _ _ 4 6 (by decide)).trans <| (fld_append_lo (m := 14) (k := 6) _ _ 0 6 (by decide)).trans <| fld_whole x4,
    (fld_append_hi (m := 24) (k := 8) _ _ 8 4 (by decide)).trans <| (fld_append_lo (m := 20) (k := 4) _ _ 0 4 (by decide)).trans <| fld_whole x5,
    (fld_append_lo (m := 24) (k := 8) _ _ 0 8 (by decide)).trans <| fld_whole x6⟩

theorem layout_6_5_3_8_10 (x0 : BitVec 6) (x1 : BitVec 5) (x2 : BitVec 3) (x3 : BitVec 8) (x4 : BitVec 10) :
    fld (x0 ++ x1 ++ x2 ++ x3 ++ x4 : Code) 26 6 = x0 ∧
    fld (x0 ++ x1 ++ x2 ++ x3 ++ x4 : Code) 21 5 = x1 ∧
    fld (x0 ++ x1 ++ x2 ++ x3 ++ x4 : Code) 18 3 = x2 ∧
    fld (x0 ++ x1 ++ x2 ++ x3 ++ x4 : Code) 10 8 = x3 ∧
    fld (x0 ++ x1 ++ x2 ++ x3 ++ x4 : Code) 0 10 = x4 := by
  exact ⟨(fld_append_hi (m := 22) (k := 10) _ _ 26 6 (by decide)).trans <| (fld_append_hi (m := 14) (k := 8) _ _ 16 6 (by decide)).trans <| (fld_append_hi (m := 11) (k := 3) _ _ 8 6 (by decide)).trans <| (fld_append_hi (m := 6) (k := 5) _ _ 5 6 (by decide)).trans <| fld_whole x0,
    (fld_append_hi (m := 22) (k := 10) _ _ 21 5 (by decide)).trans <| (fld_append_hi (m := 14) (k := 8) _ _ 11 5 (by decide)).trans <| (fld_append_hi (m := 11) (k := 3) _ _ 3 5 (by decide)).trans <| (fld_append_lo (m := 6) (k := 5) _ _ 0 5 (by decide)).trans <| fld_whole x1,
    (fld_append_hi (m := 22) (k := 10) _ _ 18 3 (by decide)).trans <| (fld_append_hi (m := 14) (k := 8) _ _ 8 3 (by decide)).trans <| (fld_append_lo (m := 11) (k := 3) _ _ 0 3 (by decide)).trans <| fld_whole x2,
    (fld_append_hi (m := 22) (k := 10) _ _ 10 8 (by decide)).trans <| (fld_append_lo (m := 14) (k := 8) _ _ 0 8 (by decide)).trans <| fld_whole x3,
    (fld_append_lo (m := 22) (k := 10) _ _ 0 10 (by decide)).trans <| fld_whole x4⟩

theorem layout_6_4_1_3_2_16 (x0 : BitVec 6) (x1 : BitVec 4) (x2 : BitVec 1) (x3 : BitVec 3) (x4 : BitVec 2) (x5 : BitVec 16) :
    fld (x0 ++ x1 ++ x2 ++ x3 ++ x4 ++ x5 : Code) 26 6 = x0 ∧
    fld (x0 ++ x1 ++ x2 ++ x3 ++ x4 ++ x5 : Code) 22 4 = x1 ∧
    fld (x0 ++ x1 ++ x2 ++ x3 ++ x4 ++ x5 : Code) 21 1 = x2 ∧
    fld (x0 ++ x1 ++ x2 ++ x3 ++ x4 ++ x5 : Code) 18 3 = x3 ∧
    fld (x0 ++ x1 ++ x2 ++ x3 ++ x4 ++ x5 : Code) 16 2 = x4 ∧
    fld (x0 ++ x1 ++ x2 ++ x3 ++ x4 ++ x5 : Code) 0 16 = x5 := by
  exact ⟨(fld_append_hi (m := 16) (k := 16) _ _ 26 6 (by decide)).trans <| (fld_append_hi (m := 14) (k := 2) _ _ 10 6 (by decide)).trans <| (fld_append_hi (m := 11) (k := 3) _ _ 8 6 (by decide)).trans <| (fld_append_hi (m := 10) (k := 1) _ _ 5 6 (by decide)).trans <| (fld_append_hi (m := 6) (k := 4) _ _ 4 6 (by decide)).trans <| fld_whole x0,
    (fld_append_hi (m := 16) (k := 16) _ _ 22 4 (by decide)).trans <| (fld_append_hi (m := 14) (k := 2) _ _ 6 4 (by decide)).trans <| (fld_append_hi (m := 11) (k := 3) _ _ 4 4 (by decide)).trans <| (fld_append_hi (m := 10) (k := 1) _ _ 1 4 (by decide)).trans <| (fld_append_lo (m := 6) (k := 4) _ _ 0 4 (by decide)).trans <| fld_whole x1,
    (fld_append_hi (m := 16) (k := 16) _ _ 21 1 (by decide)).trans <| (fld_append_hi (m := 14) (k := 2) _ _ 5 1 (by decide)).trans <| (fld_append_hi (m := 11) (k := 3) _ _ 3 1 (by decide)).trans <| (fld_append_lo (m := 10) (k := 1) _ _ 0 1 (by decide)).trans <| fld_whole x2,
    (fld_append_hi (m := 16) (k := 16) _ _ 18 3 (by decide)).trans <| (fld_append_hi (m := 14) (k := 2) _ _ 2 3 (by decide)).trans <| (fld_append_lo (m := 11) (k := 3) _ _ 0 3 (by decide)).trans <| fld_whole x3,
    (fld_append_hi (m := 16) (k := 16) _ _ 16 2 (by decide)).trans <| (fld_append_lo (m := 14) (k := 2) _ _ 0 2 (by decide)).trans <| fld_whole x4,
    (fld_append_lo (m := 16) (k := 16) _ _ 0 16 (by decide)).trans <| fld_whole x5⟩

theorem layout_6_5_3_18 (x0 : BitVec 6) (x1 : BitVec 5) (x2 : BitVec 3) (x3 : BitVec 18) :
    fld (x0 ++ x1 ++ x2 ++ x3 : Code) 26 6 = x0 ∧
    fld (x0 ++ x1 ++ x2 ++ x3 : Code) 21 5 = x1 ∧
    fld (x0 ++ x1 ++ x2 ++ x3 : Code) 18 3 = x2 ∧
    fld (x0 ++ x1 ++ x2 ++ x3 : Code) 0 18 = x3 := by
  exact ⟨(fld_append_hi (m := 14) (k := 18) _ _ 26 6 (by decide)).trans <| (fld_append_hi (m := 11) (k := 3) _ _ 8 6 (by decide)).trans <| (fld_append_hi (m := 6) (k := 5) _ _ 5 6 (by decide)).trans <| fld_whole x0,
    (fld_append_hi (m := 14) (k := 18) _ _ 21 5 (by decide)).trans <| (fld_append_hi (m := 11) (k := 3) _ _ 3 5 (by decide)).trans <| (fld_append_lo (m := 6) (k := 5) _ _ 0 5 (by decide)).trans <| fld_whole x1,
    (fld_append_hi (m := 14) (k := 18) _ _ 18 3 (by decide)).trans <| (fld_append_lo (m := 11) (k := 3) _ _ 0 3 (by decide)).trans <| fld_whole x2,
    (fld_append_lo (m := 14) (k := 18) _ _ 0 18 (by decide)).trans <| fld_whole x3⟩

theorem layout_6_4_1_3_14_4 (x0 : BitVec 6) (x1 : BitVec 4) (x2 : BitVec 1) (x3 : BitVec 3) (x4 : BitVec 14) (x5 : BitVec 4) :
    fld (x0 ++ x1 ++ x2 ++ x3 ++ x4 ++ x5 : Code) 26 6 = x0 ∧
    fld (x0 ++ x1 ++ x2 ++ x3 ++ x4 ++ x5 : Code) 22 4 = x1 ∧
    fld (x0 ++ x1 ++ x2 ++ x3 ++ x4 ++ x5 : Code) 21 1 = x2 ∧
    fld (x0 ++ x1 ++ x2 ++ x3 ++ x4 ++ x5 : Code) 18 3 = x3 ∧
    fld (x0 ++ x1 ++ x2 ++ x3 ++ x4 ++ x5 : Code) 4 14 = x4 ∧
    fld (x0 ++ x1 ++ x2 ++ x3 ++ x4 ++ x5 : Code) 0 4 = x5 := by
  exact ⟨(fld_append_hi (m := 28) (k := 4) _ _ 26 6 (by decide)).trans <| (fld_append_hi (m := 14) (k := 14) _ _ 22 6 (by decide)).trans <| (fld_append_hi (m := 11) (k := 3) _ _ 8 6 (by decide)).trans <| (fld_append_hi (m := 10) (k := 1) _ _ 5 6 (by decide)).trans <| (fld_append_hi (m := 6) (k := 4) _ _ 4 6 (by decide)).trans <| fld_whole x0,
    (fld_append_hi (m := 28) (k := 4) _ _ 22 4 (by decide)).trans <| (fld_append_hi (m := 14) (k := 14) _ _ 18 4 (by decide)).trans <| (fld_append_hi (m := 11) (k := 3) _ _ 4 4 (by decide)).trans <| (fld_append_hi (m := 10) (k := 1) _ _ 1 4 (by decide)).trans <| (fld_append_lo (m := 6) (k := 4) _ _ 0 4 (by decide)).trans <| fld_whole x1,
    (fld_append_hi (m := 28) (k := 4) _ _ 21 1 (by decide)).trans <| (fld_append_hi (m := 14) (k := 14) _ _ 17 1 (by decide)).trans <| (fld_append_hi (m := 11) (k := 3) _ _ 3 1 (by decide)).trans <| (fld_append_lo (m := 10) (k := 1) _ _ 0 1 (by decide)).trans <| fld_whole x2,
    (fld_append_hi (m := 28) (k := 4) _ _ 18 3 (by decide)).trans <| (fld_append_hi (m := 14) (k := 14) _ _ 14 3 (by decide)).trans <| (fld_append_lo (m := 11) (k := 3) _ _ 0 3 (by decide)).trans <| fld_whole x3,
    (fld_append_hi (m := 28) (k := 4) _ _ 4 14 (by decide)).trans <| (fld_append_lo (m := 14) (k := 14) _ _ 0 14 (by decide)).trans <| fld_whole x4,
    (fld_append_lo (m := 28) (k := 4) _ _ 0 4 (by decide)).trans <| fld_whole x5⟩

theorem layout_6_4_1_3_13_5 (x0 : BitVec 6) (x1 : BitVec 4) (x2 : BitVec 1) (x3 : BitVec 3) (x4 : BitVec 13) (x5 : BitVec 5) :
    fld (x0 ++ x1 ++ x2 ++ x3 ++ x4 ++ x5 : Code) 26 6 = x0 ∧
    fld (x0 ++ x1 ++ x2 ++ x3 ++ x4 ++ x5 : Code) 22 4 = x1 ∧
    fld (x0 ++ x1 ++ x2 ++ x3 ++ x4 ++ x5 : Code) 21 1 = x2 ∧
    fld (x0 ++ x1 ++ x2 ++ x3 ++ x4 ++ x5 : Code) 18 3 = x3 ∧
    fld (x0 ++ x1 ++ x2 ++ x3 ++ x4 ++ x5 : Code) 5 13 = x4 ∧
    fld (x0 ++ x1 ++ x2 ++ x3 ++ x4 ++ x5 : Code) 0 5 = x5 := by
  exact ⟨(fld_append_hi (m := 27) (k := 5) _ _ 26 6 (by decide)).trans <| (fld_append_hi (m := 14) (k := 13) _ _ 21 6 (by decide)).trans <| (fld_append_hi (m := 11) (k := 3) _ _ 8 6 (by decide)).trans <| (fld_append_hi (m := 10) (k := 1) _ _ 5 6 (by decide)).trans <| (fld_append_hi (m := 6) (k := 4) _ _ 4 6 (by decide)).trans <| fld_whole x0,
    (fld_append_hi (m := 27) (k := 5) _ _ 22 4 (by decide)).trans <| (fld_append_hi (m := 14) (k := 13) _ _ 17 4 (by decide)).trans <| (fld_append_hi (m := 11) (k := 3) _ _ 4 4 (by decide)).trans <| (fld_append_hi (m := 10) (k := 1) _ _ 1 4 (by decide)).trans <| (fld_append_lo (m := 6) (k := 4) _ _ 0 4 (by decide)).trans <| fld_whole x1,
    (fld_append_hi (m := 27) (k := 5) _ _ 21 1 (by decide)).trans <| (fld_append_hi (m := 14) (k := 13) _ _ 16 1 (by decide)).trans <| (fld_append_hi (m := 11) (k := 3) _ _ 3 1 (by decide)).trans <| (fld_append_lo (m := 10) (k := 1) _ _ 0 1 (by decide)).trans <| fld_whole x2,
    (fld_append_hi (m := 27) (k := 5) _ _ 18 3 (by decide)).trans <| (fld_append_hi (m := 14) (k := 13) _ _ 13 3 (by decide)).trans <| (fld_append_lo (m := 11) (k := 3) _ _ 0 3 (by decide)).trans <| fld_whole x3,
    (fld_append_hi (m := 27) (k := 5) _ _ 5 13 (by decide)).trans <| (fld_append_lo (m := 14) (k := 13) _ _ 0 13 (by decide)).trans <| fld_whole x4,
    (fld_append_lo (m := 27) (k := 5) _ _ 0 5 (by decide)).trans <| fld_whole x5⟩

theorem layout_6_4_1_3_8_6_4 (x0 : BitVec 6) (x1 : BitVec 4) (x2 : BitVec 1) (x3 : BitVec 3) (x4 : BitVec 8) (x5 : BitVec 6) (x6 : BitVec 4) :
    fld (x0 ++ x1 ++ x2 ++ x3 ++ x4 ++ x5 ++ x6 : Code) 26 6 = x0 ∧
    fld (x0 ++ x1 ++ x2 ++ x3 ++ x4 ++ x5 ++ x6 : Code) 22 4 = x1 ∧
    fld (x0 ++ x1 ++ x2 ++ x3 ++ x4 ++ x5 ++ x6 : Code) 21 1 = x2 ∧
    fld (x0 ++ x1 ++ x2 ++ x3 ++ x4 ++ x5 ++ x6 : Code) 18 3 = x3 ∧
    fld (x0 ++ x1 ++ x2 ++ x3 ++ x4 ++ x5 ++ x6 : Code) 10 8 = x4 ∧
    fld (x0 ++ x1 ++ x2 ++ x3 ++ x4 ++ x5 ++ x6 : Code) 4 6 = x5 ∧
    fld (x0 ++ x1 ++ x2 ++ x3 ++ x4 ++ x5 ++ x6 : Code) 0 4 = x6 := by
  exact ⟨(fld_append_hi (m := 28) (k := 4) _ _ 26 6 (by decide)).trans <| (fld_append_hi (m := 22) (k := 6) _ _ 22 6 (by decide)).trans <| (fld_append_hi (m := 14) (k := 8) _ _ 16 6 (by decide)).trans <| (fld_append_hi (m := 11) (k := 3) _ _ 8 6 (by decide)).trans <| (fld_append_hi (m := 10) (k := 1) _ _ 5 6 (by decide)).trans <| (fld_append_hi (m := 6) (k := 4) _ _ 4 6 (by decide)).trans <| fld_whole x0,
    (fld_append_hi (m := 28) (k := 4) _ _ 22 4 (by decide)).trans <| (fld_append_hi (m := 22) (k := 6) _ _ 18 4 (by decide)).trans <| (fld_append_hi (m := 14) (k := 8) _ _ 12 4 (by decide)).trans <| (fld_append_hi (m := 11) (k := 3) _ _ 4 4 (by decide)).trans <| (fld_append_hi (m := 10) (k := 1) _ _ 1 4 (by decide)).trans <| (fld_append_lo (m := 6) (k := 4) _ _ 0 4 (by decide)).trans <| fld_whole x1,
    (fld_append_hi (m := 28) (k := 4) _ _ 21 1 (by decide)).trans <| (fld_append_hi (m := 22) (k := 6) _ _ 17 1 (by decide)).trans <| (fld_append_hi (m := 14) (k := 8) _ _ 11 1 (by decide)).trans <| (fld_append_hi (m := 11) (k := 3) _ _ 3 1 (by decide)).trans <| (fld_append_lo (m := 10) (k := 1) _ _ 0 1 (by decide)).trans <| fld_whole x2,
    (fld_append_hi (m := 28) (k := 4) _ _ 18 3 (by decide)).trans <| (fld_append_hi (m := 22) (k := 6) _ _ 14 3 (by decide)).trans <| (fld_append_hi (m := 14) (k := 8) _ _ 8 3 (by decide)).trans <| (fld_append_lo (m := 11) (k := 3) _ _ 0 3 (by decide)).trans <| fld_whole x3,
    (fld_append_hi (m := 28) (k := 4) _ _ 10 8 (by decide)).trans <| (fld_append_hi (m := 22) (k := 6) _ _ 6 8 (by decide)).trans <| (fld_append_lo (m := 14) (k := 8) _ _ 0 8 (by decide)).trans <| fld_whole x4,
    (fld_append_hi (m := 28) (k := 4) _ _ 4 6 (by decide)).trans <| (fld_append_lo (m := 22) (k := 6) _ _ 0 6 (by decide)).trans <| fld_whole x5,
    (fld_append_lo (m := 28) (k := 4) _ _ 0 4 (by decide)).trans <| fld_whole x6⟩

theorem layout_6_4_1_3_8_6_3_1 (x0 : BitVec 6) (x1 : BitVec 4) (x2 : BitVec 1) (x3 : BitVec 3) (x4 : BitVec 8) (x5 : BitVec 6) (x6 : BitVec 3) (x7 : BitVec 1) :
    fld (x0 ++ x1 ++ x2 ++ x3 ++ x4 ++ x5 ++ x6 ++ x7 : Code) 26 6 = x0 ∧
    fld (x0 ++ x1 ++ x2 ++ x3 ++ x4 ++ x5 ++ x6 ++ x7 : Code) 22 4 = x1 ∧
    fld (x0 ++ x1 ++ x2 ++ x3 ++ x4 ++ x5 ++ x6 ++ x7 : Code) 21 1 = x2 ∧
    fld (x0 ++ x1 ++ x2 ++ x3 ++ x4 ++ x5 ++ x6 ++ x7 : Code) 18 3 = x3 ∧
    fld (x0 ++ x1 ++ x2 ++ x3 ++ x4 ++ x5 ++ x6 ++ x7 : Code) 10 8 = x4 ∧
    fld (x0 ++ x1 ++ x2 ++ x3 ++ x4 ++ x5 ++ x6 ++ x7 : Code) 4 6 = x5 ∧
    fld (x0 ++ x1 ++ x2 ++ x3 ++ x4 ++ x5 ++ x6 ++ x7 : Code) 1 3 = x6 ∧
    fld (x0 ++ x1 ++ x2 ++ x3 ++ x4 ++ x5 ++ x6 ++ x7 : Code) 0 1 = x7 := by
  exact ⟨(fld_append_hi (m := 31) (k := 1) _ _ 26 6 (by decide)).trans <| (fld_append_hi (m := 28) (k := 3) _ _ 25 6 (by decide)).trans <| (fld_append_hi (m := 22) (k := 6) _ _ 22 6 (by decide)).trans <| (fld_append_hi (m := 14) (k := 8) _ _ 16 6 (by decide)).trans <| (fld_append_hi (m := 11) (k := 3) _ _ 8 6 (by decide)).trans <| (fld_append_hi (m := 10) (k := 1) _ _ 5 6 (by decide)).trans <| (fld_append_hi (m := 6) (k := 4) _ _ 4 6 (by decide)).trans <| fld_whole x0,
    (fld_append_hi (m := 31) (k := 1) _ _ 22 4 (by decide)).trans <| (fld_append_hi (m := 28) (k := 3) _ _ 21 4 (by decide)).trans <| (fld_append_hi (m := 22) (k := 6) _ _ 18 4 (by decide)).trans <| (fld_append_hi (m := 14) (k := 8) _ _ 12 4 (by decide)).trans <| (fld_append_hi (m := 11) (k := 3) _ _ 4 4 (by decide)).trans <| (fld_append_hi (m := 10) (k := 1) _ _ 1 4 (by decide)).trans <| (fld_append_lo (m := 6) (k := 4) _ _ 0 4 (by decide)).trans <| fld_whole x1,
    (fld_append_hi (m := 31) (k := 1) _ _ 21 1 (by decide)).trans <| (fld_append_hi (m := 28) (k := 3) _ _ 20 1 (by decide)).trans <| (fld_append_hi (m := 22) (k := 6) _ _ 17 1 (by decide)).trans <| (fld_append_hi (m := 14) (k := 8) _ _ 11 1 (by decide)).trans <| (fld_append_hi (m := 11) (k := 3) _ _ 3 1 (by decide)).trans <| (fld_append_lo (m := 10) (k := 1) _ _ 0 1 (by decide)).trans <| fld_whole x2,
    (fld_append_hi (m := 31) (k := 1) _ _ 18 3 (by decide)).trans <| (fld_append_hi (m := 28) (k := 3) _ _ 17 3 (by decide)).trans <| (fld_append_hi (m := 22) (k := 6) _ _ 14 3 (by decide)).trans <| (fld_append_hi (m := 14) (k := 8) _ _ 8 3 (by decide)).trans <| (fld_append_lo (m := 11) (k := 3) _ _ 0 3 (by decide)).trans <| fld_whole x3,
    (fld_append_hi (m := 31) (k := 1) _ _ 10 8 (by decide)).trans <| (fld_append_hi (m := 28) (k := 3) _ _ 9 8 (by decide)).trans <| (fld_append_hi (m := 22) (k := 6) _ _ 6 8 (by decide)).trans <| (fld_append_lo (m := 14) (k := 8) _ _ 0 8 (by decide)).trans <| fld_whole x4,
    (fld_append_hi (m := 31) (k := 1) _ _ 4 6 (by decide)).trans <| (fld_append_hi (m := 28) (k := 3) _ _ 3 6 (by decide)).trans <| (fld_append_lo (m := 22) (k := 6) _ _ 0 6 (by decide)).trans <| fld_whole x5,
    (fld_append_hi (m := 31) (k := 1) _ _ 1 3 (by decide)).trans <| (fld_append_lo (m := 28) (k := 3) _ _ 0 3 (by decide)).trans <| fld_whole x6,
    (fld_append_lo (m := 31) (k := 1) _ _ 0 1 (by decide)).trans <| fld_whole x7⟩

theorem layout_6_4_1_3_6_12 (x0 : BitVec 6) (x1 : BitVec 4) (x2 : BitVec 1) (x3 : BitVec 3) (x4 : BitVec 6) (x5 : BitVec 12) :
    fld (x0 ++ x1 ++ x2 ++ x3 ++ x4 ++ x5 : Code) 26 6 = x0 ∧
    fld (x0 ++ x1 ++ x2 ++ x3 ++ x4 ++ x5 : Code) 22 4 = x1 ∧
    fld (x0 ++ x1 ++ x2 ++ x3 ++ x4 ++ x5 : Code) 21 1 = x2 ∧
    fld (x0 ++ x1 ++ x2 ++ x3 ++ x4 ++ x5 : Code) 18 3 = x3 ∧
    fld (x0 ++ x1 ++ x2 ++ x3 ++ x4 ++ x5 : Code) 12 6 = x4 ∧
    fld (x0 ++ x1 ++ x2 ++ x3 ++ x4 ++ x5 : Code) 0 12 = x5 := by
  exact ⟨(fld_append_hi (m := 20) (k := 12) _ _ 26 6 (by decide)).trans <| (fld_append_hi (m := 14) (k := 6) _ _ 14 6 (by decide)).trans <| (fld_append_hi (m := 11) (k := 3) _ _ 8 6 (by decide)).trans <| (fld_append_hi (m := 10) (k := 1) _ _ 5 6 (by decide)).trans <| (fld_append_hi (m := 6) (k := 4) _ _ 4 6 (by decide)).trans <| fld_whole x0,
    (fld_append_hi (m := 20) (k := 12) _ _ 22 4 (by decide)).trans <| (fld_append_hi (m := 14) (k := 6) _ _ 10 4 (by decide)).trans <| (fld_append_hi (m := 11) (k := 3) _ _ 4 4 (by decide)).trans <| (fld_append_hi (m := 10) (k := 1) _ _ 1 4 (by decide)).trans <| (fld_append_lo (m := 6) (k := 4) _ _ 0 4 (by decide)).trans <| fld_whole x1,
    (fld_append_hi (m := 20) (k := 12) _ _ 21 1 (by decide)).trans <| (fld_append_hi (m := 14) (k := 6) _ _ 9 1 (by decide)).trans <| (fld_append_hi (m := 11) (k := 3) _ _ 3 1 (by decide)).trans <| (fld_append_lo (m := 10) (k := 1) _ _ 0 1 (by decide)).trans <| fld_whole x2,
    (fld_append_hi (m := 20) (k := 12) _ _ 18 3 (by decide)).trans <| (fld_append_hi (m := 14) (k := 6) _ _ 6 3 (by decide)).trans <| (fld_append_lo (m := 11) (k := 3) _ _ 0 3 (by decide)).trans <| fld_whole x3,
    (fld_append_hi (m := 20) (k := 12) _ _ 12 6 (by decide)).trans <| (fld_append_lo (m := 14) (k := 6) _ _ 0 6 (by decide)).trans <| fld_whole x4,
    (fld_append_lo (m := 20) (k := 12) _ _ 0 12 (by decide)).trans <| fld_whole x5⟩

theorem layout_6_6_7_7_1_1_4 (x0 : BitVec 6) (x1 : BitVec 6) (x2 : BitVec 7) (x3 : BitVec 7) (x4 : BitVec 1) (x5 : BitVec 1) (x6 : BitVec 4) :
    fld (x0 ++ x1 ++ x2 ++ x3 ++ x4 ++ x5 ++ x6 : Code) 26 6 = x0 ∧
    fld (x0 ++ x1 ++ x2 ++ x3 ++ x4 ++ x5 ++ x6 : Code) 20 6 = x1 ∧
    fld (x0 ++ x1 ++ x2 ++ x3 ++ x4 ++ x5 ++ x6 : Code) 13 7 = x2 ∧
    fld (x0 ++ x1 ++ x2 ++ x3 ++ x4 ++ x5 ++ x6 : Code) 6 7 = x3 ∧
    fld (x0 ++ x1 ++ x2 ++ x3 ++ x4 ++ x5 ++ x6 : Code) 5 1 = x4 ∧
    fld (x0 ++ x1 ++ x2 ++ x3 ++ x4 ++ x5 ++ x6 : Code) 4 1 = x5 ∧
    fld (x0 ++ x1 ++ x2 ++ x3 ++ x4 ++ x5 ++ x6 : Code) 0 4 = x6 := by
  exact ⟨(fld_append_hi (m := 28) (k := 4) _ _ 26 6 (by decide)).trans <| (fld_append_hi (m := 27) (k := 1) _ _ 22 6 (by decide)).trans <| (fld_append_hi (m := 26) (k := 1) _ _ 21 6 (by decide)).trans <| (fld_append_hi (m := 19) (k := 7) _ _ 20 6 (by decide)).trans <| (fld_append_hi (m := 12) (k := 7) _ _ 13 6 (by decide)).trans <| (fld_append_hi (m := 6) (k := 6) _ _ 6 6 (by decide)).trans <| fld_whole x0,
    (fld_append_hi (m := 28) (k := 4) _ _ 20 6 (by decide)).trans <| (fld_append_hi (m := 27) (k := 1) _ _ 16 6 (by decide)).trans <| (fld_append_hi (m := 26) (k := 1) _ _ 15 6 (by decide)).trans <| (fld_append_hi (m := 19) (k := 7) _ _ 14 6 (by decide)).trans <| (fld_append_hi (m := 12) (k := 7) _ _ 7 6 (by decide)).trans <| (fld_append_lo (m := 6) (k := 6) _ _ 0 6 (by decide)).trans <| fld_whole x1,
    (fld_append_hi (m := 28) (k := 4) _ _ 13 7 (by decide)).trans <| (fld_append_hi (m := 27) (k := 1) _ _ 9 7 (by decide)).trans <| (fld_append_hi (m := 26) (k := 1) _ _ 8 7 (by decide)).trans <| (fld_append_hi (m := 19) (k := 7) _ _ 7 7 (by decide)).trans <| (fld_append_lo (m := 12) (k := 7) _ _ 0 7 (by decide)).trans <| fld_whole x2,
    (fld_append_hi (m := 28) (k := 4) _ _ 6 7 (by decide)).trans <| (fld_append_hi (m := 27) (k := 1) _ _ 2 7 (by decide)).trans <| (fld_append_hi (m := 26) (k := 1) _ _ 1 7 (by decide)).trans <| (fld_append_lo (m := 19) (k := 7) _ _ 0 7 (by decide)).trans <| fld_whole x3,
    (fld_append_hi (m := 28) (k := 4) _ _ 5 1 (by decide)).trans <| (fld_append_hi (m := 27) (k := 1) _ _ 1 1 (by decide)).trans <| (fld_append_lo (m := 26) (k := 1) _ _ 0 1 (by decide)).trans <| fld_whole x4,
    (fld_append_hi (m := 28) (k := 4) _ _ 4 1 (by decide)).trans <| (fld_append_lo (m := 27) (k := 1) _ _ 0 1 (by decide)).trans <| fld_whole x5,
    (fld_append_lo (m := 28) (k := 4) _ _ 0 4 (by decide)).trans <| fld_whole x6⟩

theorem layout_6_3_3_7_7_1_1_4 (x0 : BitVec 6) (x1 : BitVec 3) (x2 : BitVec 3) (x3 : BitVec 7) (x4 : BitVec 7) (x5 : BitVec 1) (x6 : BitVec 1) (x7 : BitVec 4) :
    fld (x0 ++ x1 ++ x2 ++ x3 ++ x4 ++ x5 ++ x6 ++ x7 : Code) 26 6 = x0 ∧
    fld (x0 ++ x1 ++ x2 ++ x3 ++ x4 ++ x5 ++ x6 ++ x7 : Code) 23 3 = x1 ∧
    fld (x0 ++ x1 ++ x2 ++ x3 ++ x4 ++ x5 ++ x6 ++ x7 : Code) 20 3 = x2 ∧
    fld (x0 ++ x1 ++ x2 ++ x3 ++ x4 ++ x5 ++ x6 ++ x7 : Code) 13 7 = x3 ∧
    fld (x0 ++ x1 ++ x2 ++ x3 ++ x4 ++ x5 ++ x6 ++ x7 : Code) 6 7 = x4 ∧
    fld (x0 ++ x1 ++ x2 ++ x3 ++ x4 ++ x5 ++ x6 ++ x7 : Code) 5 1 = x5 ∧
    fld (x0 ++ x1 ++ x2 ++ x3 ++ x4 ++ x5 ++ x6 ++ x7 : Code) 4 1 = x6 ∧
    fld (x0 ++ x1 ++ x2 ++ x3 ++ x4 ++ x5 ++ x6 ++ x7 : Code) 0 4 = x7 := by
  exact ⟨(fld_append_hi (m := 28) (k := 4) _ _ 26 6 (by decide)).trans <| (fld_append_hi (m := 27) (k := 1) _ _ 22 6 (by decide)).trans <| (fld_append_hi (m := 26) (k := 1) _ _ 21 6 (by decide)).trans <| (fld_append_hi (m := 19) (k := 7) _ _ 20 6 (by decide)).trans <| (fld_append_hi (m := 12) (k := 7) _ _ 13 6 (by decide)).trans <| (fld_append_hi (m := 9) (k := 3) _ _ 6 6 (by decide)).trans <| (fld_append_hi (m := 6) (k := 3) _ _ 3 6 (by decide)).trans <| fld_whole x0,
    (fld_append_hi (m := 28) (k := 4) _ _ 23 3 (by decide)).trans <| (fld_append_hi (m := 27) (k := 1) _ _ 19 3 (by decide)).trans <| (fld_append_hi (m := 26) (k := 1) _ _ 18 3 (by decide)).trans <| (fld_append_hi (m := 19) (k := 7) _ _ 17 3 (by decide)).trans <| (fld_append_hi (m := 12) (k := 7) _ _ 10 3 (by decide)).trans <| (fld_append_hi (m := 9) (k := 3) _ _ 3 3 (by decide)).trans <| (fld_append_lo (m := 6) (k := 3) _ _ 0 3 (by decide)).trans <| fld_whole x1,
    (fld_append_hi (m := 28) (k := 4) _ _ 20 3 (by decide)).trans <| (fld_append_hi (m := 27) (k := 1) _ _ 16 3 (by decide)).trans <| (fld_append_hi (m := 26) (k := 1) _ _ 15 3 (by decide)).trans <| (fld_append_hi (m := 19) (k := 7) _ _ 14 3 (by decide)).trans <| (fld_append_hi (m := 12) (k := 7) _ _ 7 3 (by decide)).trans <| (fld_append_lo (m := 9) (k := 3) _ _ 0 3 (by decide)).trans <| fld_whole x2,
    (fld_append_hi (m := 28) (k := 4) _ _ 13 7 (by decide)).trans <| (fld_append_hi (m := 27) (k := 1) _ _ 9 7 (by decide)).trans <| (fld_append_hi (m := 26) (k := 1) _ _ 8 7 (by decide)).trans <| (fld_append_hi (m := 19) (k := 7) _ _ 7 7 (by decide)).trans <| (fld_append_lo (m := 12) (k := 7) _ _ 0 7 (by decide)).trans <| fld_whole x3,
    (fld_append_hi (m := 28) (k := 4) _ _ 6 7 (by decide)).trans <| (fld_append_hi (m := 27) (k := 1) _ _ 2 7 (by decide)).trans <| (fld_append_hi (m := 26) (k := 1) _ _ 1 7 (by decide)).trans <| (fld_append_lo (m := 19) (k := 7) _ _ 0 7 (by decide)).trans <| fld_whole x4,
    (fld_append_hi (m := 28) (k := 4) _ _ 5 1 (by decide)).trans <| (fld_append_hi (m := 27) (k := 1) _ _ 1 1 (by decide)).trans <| (fld_append_lo (m := 26) (k := 1) _ _ 0 1 (by decide)).trans <| fld_whole x5,
    (fld_append_hi (m := 28) (k := 4) _ _ 4 1 (by decide)).trans <| (fld_append_lo (m := 27) (k := 1) _ _ 0 1 (by decide)).trans <| fld_whole x6,
    (fld_append_lo (m := 28) (k := 4) _ _ 0 4 (by decide)).trans <| fld_whole x7⟩

theorem layout_6_3_3_4_3_4_3_2_4 (x0 : BitVec 6) (x1 : BitVec 3) (x2 : BitVec 3) (x3 : BitVec 4) (x4 : BitVec 3) (x5 : BitVec 4) (x6 : BitVec 3) (x7 : BitVec 2) (x8 : BitVec 4) :
    fld (x0 ++ x1 ++ x2 ++ x3 ++ x4 ++ x5 ++ x6 ++ x7 ++ x8 : Code) 26 6 = x0 ∧
    fld (x0 ++ x1 ++ x2 ++ x3 ++ x4 ++ x5 ++ x6 ++ x7 ++ x8 : Code) 23 3 = x1 ∧
    fld (x0 ++ x1 ++ x2 ++ x3 ++ x4 ++ x5 ++ x6 ++ x7 ++ x8 : Code) 20 3 = x2 ∧
    fld (x0 ++ x1 ++ x2 ++ x3 ++ x4 ++ x5 ++ x6 ++ x7 ++ x8 : Code) 16 4 = x3 ∧
    fld (x0 ++ x1 ++ x2 ++ x3 ++ x4 ++ x5 ++ x6 ++ x7 ++ x8 : Code) 13 3 = x4 ∧
    fld (x0 ++ x1 ++ x2 ++ x3 ++ x4 ++ x5 ++ x6 ++ x7 ++ x8 : Code) 9 4 = x5 ∧
    fld (x0 ++ x1 ++ x2 ++ x3 ++ x4 ++ x5 ++ x6 ++ x7 ++ x8 : Code) 6 3 = x6 ∧
    fld (x0 ++ x1 ++ x2 ++ x3 ++ x4 ++ x5 ++ x6 ++ x7 ++ x8 : Code) 4 2 = x7 ∧
    fld (x0 ++ x1 ++ x2 ++ x3 ++ x4 ++ x5 ++ x6 ++ x7 ++ x8 : Code) 0 4 = x8 := by
  exact ⟨(fld_append_hi (m := 28) (k := 4) _ _ 26 6 (by decide)).trans <| (fld_append_hi (m := 26) (k := 2) _ _ 22 6 (by decide)).trans <| (fld_append_hi (m := 23) (k := 3) _ _ 20 6 (by decide)).trans <| (fld_append_hi (m := 19) (k := 4) _ _ 17 6 (by decide)).trans <| (fld_append_hi (m := 16) (k := 3) _ _ 13 6 (by decide)).trans <| (fld_append_hi (m := 12) (k := 4) _ _ 10 6 (by decide)).trans <| (fld_append_hi (m := 9) (k := 3) _ _ 6 6 (by decide)).trans <| (fld_append_hi (m := 6) (k := 3) _ _ 3 6 (by decide)).trans <| fld_whole x0,
    (fld_append_hi (m := 28) (k := 4) _ _ 23 3 (by decide)).trans <| (fld_append_hi (m := 26) (k := 2) _ _ 19 3 (by decide)).trans <| (fld_append_hi (m := 23) (k := 3) _ _ 17 3 (by decide)).trans <| (fld_append_hi (m := 19) (k := 4) _ _ 14 3 (by decide)).trans <| (fld_append_hi (m := 16) (k := 3) _ _ 10 3 (by decide)).trans <| (fld_append_hi (m := 12) (k := 4) _ _ 7 3 (by decide)).trans <| (fld_append_hi (m := 9) (k := 3) _ _ 3 3 (by decide)).trans <| (fld_append_lo (m := 6) (k := 3) _ _ 0 3 (by decide)).trans <| fld_whole x1,
    (fld_append_hi (m := 28) (k := 4) _ _ 20 3 (by decide)).trans <| (fld_append_hi (m := 26) (k := 2) _ _ 16 3 (by decide)).trans <| (fld_append_hi (m := 23) (k := 3) _ _ 14 3 (by decide)).trans <| (fld_append_hi (m := 19) (k := 4) _ _ 11 3 (by decide)).trans <| (fld_append_hi (m := 16) (k := 3) _ _ 7 3 (by decide)).trans <| (fld_append_hi (m := 12) (k := 4) _ _ 4 3 (by decide)).trans <| (fld_append_lo (m := 9) (k := 3) _ _ 0 3 (by decide)).trans <| fld_whole x2,
    (fld_append_hi (m := 28) (k := 4) _ _ 16 4 (by decide)).trans <| (fld_append_hi (m := 26) (k := 2) _ _ 12 4 (by decide)).trans <| (fld_append_hi (m := 23) (k := 3) _ _ 10 4 (by decide)).trans <| (fld_append_hi (m := 19) (k := 4) _ _ 7 4 (by decide)).trans <| (fld_append_hi (m := 16) (k := 3) _ _ 3 4 (by decide)).trans <| (fld_append_lo (m := 12) (k := 4) _ _ 0 4 (by decide)).trans <| fld_whole x3,
    (fld_append_hi (m := 28) (k := 4) _ _ 13 3 (by decide)).trans <| (fld_append_hi (m := 26) (k := 2) _ _ 9 3 (by decide)).trans <| (fld_append_hi (m := 23) (k := 3) _ _ 7 3 (by decide)).trans <| (fld_append_hi (m := 19) (k := 4) _ _ 4 3 (by decide)).trans <| (fld_append_lo (m := 16) (k := 3) _ _ 0 3 (by decide)).trans <| fld_whole x4,
    (fld_append_hi (m := 28) (k := 4) _ _ 9 4 (by decide)).trans <| (fld_append_hi (m := 26) (k := 2) _ _ 5 4 (by decide)).trans <| (fld_append_hi (m := 23) (k := 3) _ _ 3 4 (by decide)).trans <| (fld_append_lo (m := 19) (k := 4) _ _ 0 4 (by decide)).trans <| fld_whole x5,
    (fld_append_hi (m := 28) (k := 4) _ _ 6 3 (by decide)).trans <| (fld_append_hi (m := 26) (k := 2) _ _ 2 3 (by decide)).trans <| (fld_append_lo (m := 23) (k := 3) _ _ 0 3 (by decide)).trans <| fld_whole x6,
    (fld_append_hi (m := 28) (k := 4) _ _ 4 2 (by decide)).trans <| (fld_append_lo (m := 26) (k := 2) _ _ 0 2 (by decide)).trans <| fld_whole x7,
    (fld_append_lo (m := 28) (k := 4) _ _ 0 4 (by decide)).trans <| fld_whole x8⟩

theorem layout_6_6_7_8_1_4 (x0 : BitVec 6) (x1 : BitVec 6) (x2 : BitVec 7) (x3 : BitVec 8) (x4 : BitVec 1) (x5 : BitVec 4) :
    fld (x0 ++ x1 ++ x2 ++ x3 ++ x4 ++ x5 : Code) 26 6 = x0 ∧
    fld (x0 ++ x1 ++ x2 ++ x3 ++ x4 ++ x5 : Code) 20 6 = x1 ∧
    fld (x0 ++ x1 ++ x2 ++ x3 ++ x4 ++ x5 : Code) 13 7 = x2 ∧
    fld (x0 ++ x1 ++ x2 ++ x3 ++ x4 ++ x5 : Code) 5 8 = x3 ∧
    fld (x0 ++ x1 ++ x2 ++ x3 ++ x4 ++ x5 : Code) 4 1 = x4 ∧
    fld (x0 ++ x1 ++ x2 ++ x3 ++ x4 ++ x5 : Code) 0 4 = x5 := by
  exact ⟨(fld_append_hi (m := 28) (k := 4) _ _ 26 6 (by decide)).trans <| (fld_append_hi (m := 27) (k := 1) _ _ 22 6 (by decide)).trans <| (fld_append_hi (m := 19) (k := 8) _ _ 21 6 (by decide)).trans <| (fld_append_hi (m := 12) (k := 7) _ _ 13 6 (by decide)).trans <| (fld_append_hi (m := 6) (k := 6) _ _ 6 6 (by decide)).trans <| fld_whole x0,
    (fld_append_hi (m := 28) (k := 4) _ _ 20 6 (by decide)).trans <| (fld_append_hi (m := 27) (k := 1) _ _ 16 6 (by decide)).trans <| (fld_append_hi (m := 19) (k := 8) _ _ 15 6 (by decide)).trans <| (fld_append_hi (m := 12) (k := 7) _ _ 7 6 (by decide)).trans <| (fld_append_lo (m := 6) (k := 6) _ _ 0 6 (by decide)).trans <| fld_whole x1,
    (fld_append_hi (m := 28) (k := 4) _ _ 13 7 (by decide)).trans <| (fld_append_hi (m := 27) (k := 1) _ _ 9 7 (by decide)).trans <| (fld_append_hi (m := 19) (k := 8) _ _ 8 7 (by decide)).trans <| (fld_append_lo (m := 12) (k := 7) _ _ 0 7 (by decide)).trans <| fld_whole x2,
    (fld_append_hi (m := 28) (k := 4) _ _ 5 8 (by decide)).trans <| (fld_append_hi (m := 27) (k := 1) _ _ 1 8 (by decide)).trans <| (fld_append_lo (m := 19) (k := 8) _ _ 0 8 (by decide)).trans <| fld_whole x3,
    (fld_append_hi (m := 28) (k := 4) _ _ 4 1 (by decide)).trans <| (fld_append_lo (m := 27) (k := 1) _ _ 0 1 (by decide)).trans <| fld_whole x4,
    (fld_append_lo (m := 28) (k := 4) _ _ 0 4 (by decide)).trans <| fld_whole x5⟩

theorem layout_6_6_14_1_1_4 (x0 : BitVec 6) (x1 : BitVec 6) (x2 : BitVec 14) (x3 : BitVec 1) (x4 : BitVec 1) (x5 : BitVec 4) :
    fld (x0 ++ x1 ++ x2 ++ x3 ++ x4 ++ x5 : Code) 26 6 = x0 ∧
    fld (x0 ++ x1 ++ x2 ++ x3 ++ x4 ++ x5 : Code) 20 6 = x1 ∧
    fld (x0 ++ x1 ++ x2 ++ x3 ++ x4 ++ x5 : Code) 6 14 = x2 ∧
    fld (x0 ++ x1 ++ x2 ++ x3 ++ x4 ++ x5 : Code) 5 1 = x3 ∧
    fld (x0 ++ x1 ++ x2 ++ x3 ++ x4 ++ x5 : Code) 4 1 = x4 ∧
    fld (x0 ++ x1 ++ x2 ++ x3 ++ x4 ++ x5 : Code) 0 4 = x5 := by
  exact ⟨(fld_append_hi (m := 28) (k := 4) _ _ 26 6 (by decide)).trans <| (fld_append_hi (m := 27) (k := 1) _ _ 22 6 (by decide)).trans <| (fld_append_hi (m := 26) (k := 1) _ _ 21 6 (by decide)).trans <| (fld_append_hi (m := 12) (k := 14) _ _ 20 6 (by decide)).trans <| (fld_append_hi (m := 6) (k := 6) _ _ 6 6 (by decide)).trans <| fld_whole x0,
    (fld_append_hi (m := 28) (k := 4) _ _ 20 6 (by decide)).trans <| (fld_append_hi (m := 27) (k := 1) _ _ 16 6 (by decide)).trans <| (fld_append_hi (m := 26) (k := 1) _ _ 15 6 (by decide)).trans <| (fld_append_hi (m := 12) (k := 14) _ _ 14 6 (by decide)).trans <| (fld_append_lo (m := 6) (k := 6) _ _ 0 6 (by decide)).trans <| fld_whole x1,
    (fld_append_hi (m := 28) (k := 4) _ _ 6 14 (by decide)).trans <| (fld_append_hi (m := 27) (k := 1) _ _ 2 14 (by decide)).trans <| (fld_append_hi (m := 26) (k := 1) _ _ 1 14 (by decide)).trans <| (fld_append_lo (m := 12) (k := 14) _ _ 0 14 (by decide)).trans <| fld_whole x2,
    (fld_append_hi (m := 28) (k := 4) _ _ 5 1 (by decide)).trans <| (fld_append_hi (m := 27) (k := 1) _ _ 1 1 (by decide)).trans <| (fld_append_lo (m := 26) (k := 1) _ _ 0 1 (by decide)).trans <| fld_whole x3,
    (fld_append_hi (m := 28) (k := 4) _ _ 4 1 (by decide)).trans <| (fld_append_lo (m := 27) (k := 1) _ _ 0 1 (by decide)).trans <| fld_whole x4,
    (fld_append_lo (m := 28) (k := 4) _ _ 0 4 (by decide)).trans <| fld_whole x5⟩

theorem layout_6_6_7_7_2_4 (x0 : BitVec 6) (x1 : BitVec 6) (x2 : BitVec 7) (x3 : BitVec 7) (x4 : BitVec 2) (x5 : BitVec 4) :
    fld (x0 ++ x1 ++ x2 ++ x3 ++ x4 ++ x5 : Code) 26 6 = x0 ∧
    fld (x0 ++ x1 ++ x2 ++ x3 ++ x4 ++ x5 : Code) 20 6 = x1 ∧
    fld (x0 ++ x1 ++ x2 ++ x3 ++ x4 ++ x5 : Code) 13 7 = x2 ∧
    fld (x0 ++ x1 ++ x2 ++ x3 ++ x4 ++ x5 : Code) 6 7 = x3 ∧
    fld (x0 ++ x1 ++ x2 ++ x3 ++ x4 ++ x5 : Code) 4 2 = x4 ∧
    fld (x0 ++ x1 ++ x2 ++ x3 ++ x4 ++ x5 : Code) 0 4 = x5 := by
  exact ⟨(fld_append_hi (m := 28) (k := 4) _ _ 26 6 (by decide)).trans <| (fld_append_hi (m := 26) (k := 2) _ _ 22 6 (by decide)).trans <| (fld_append_hi (m := 19) (k := 7) _ _ 20 6 (by decide)).trans <| (fld_append_hi (m := 12) (k := 7) _ _ 13 6 (by decide)).trans <| (fld_append_hi (m := 6) (k := 6) _ _ 6 6 (by decide)).trans <| fld_whole x0,
    (fld_append_hi (m := 28) (k := 4) _ _ 20 6 (by decide)).trans <| (fld_append_hi (m := 26) (k := 2) _ _ 16 6 (by decide)).trans <| (fld_append_hi (m := 19) (k := 7) _ _ 14 6 (by decide)).trans <| (fld_append_hi (m := 12) (k := 7) _ _ 7 6 (by decide)).trans <| (fld_append_lo (m := 6) (k := 6) _ _ 0 6 (by decide)).trans <| fld_whole x1,
    (fld_append_hi (m := 28) (k := 4) _ _ 13 7 (by decide)).trans <| (fld_append_hi (m := 26) (k := 2) _ _ 9 7 (by decide)).trans <| (fld_append_hi (m := 19) (k := 7) _ _ 7 7 (by decide)).trans <| (fld_append_lo (m := 12) (k := 7) _ _ 0 7 (by decide)).trans <| fld_whole x2,
    (fld_append_hi (m := 28) (k := 4) _ _ 6 7 (by decide)).trans <| (fld_append_hi (m := 26) (k := 2) _ _ 2 7 (by decide)).trans <| (fld_append_lo (m := 19) (k := 7) _ _ 0 7 (by decide)).trans <| fld_whole x3,
    (fld_append_hi (m := 28) (k := 4) _ _ 4 2 (by decide)).trans <| (fld_append_lo (m := 26) (k := 2) _ _ 0 2 (by decide)).trans <| fld_whole x4,
    (fld_append_lo (m := 28) (k := 4) _ _ 0 4 (by decide)).trans <| fld_whole x5⟩

theorem layout_6_2_4_7_7_1_1_4 (x0 : BitVec 6) (x1 : BitVec 2) (x2 : BitVec 4) (x3 : BitVec 7) (x4 : BitVec 7) (x5 : BitVec 1) (x6 : BitVec 1) (x7 : BitVec 4) :
    fld (x0 ++ x1 ++ x2 ++ x3 ++ x4 ++ x5 ++ x6 ++ x7 : Code) 26 6 = x0 ∧
    fld (x0 ++ x1 ++ x2 ++ x3 ++ x4 ++ x5 ++ x6 ++ x7 : Code) 24 2 = x1 ∧
    fld (x0 ++ x1 ++ x2 ++ x3 ++ x4 ++ x5 ++ x6 ++ x7 : Code) 20 4 = x2 ∧
    fld (x0 ++ x1 ++ x2 ++ x3 ++ x4 ++ x5 ++ x6 ++ x7 : Code) 13 7 = x3 ∧
    fld (x0 ++ x1 ++ x2 ++ x3 ++ x4 ++ x5 ++ x6 ++ x7 : Code) 6 7 = x4 ∧
    fld (x0 ++ x1 ++ x2 ++ x3 ++ x4 ++ x5 ++ x6 ++ x7 : Code) 5 1 = x5 ∧
    fld (x0 ++ x1 ++ x2 ++ x3 ++ x4 ++ x5 ++ x6 ++ x7 : Code) 4 1 = x6 ∧
    fld (x0 ++ x1 ++ x2 ++ x3 ++ x4 ++ x5 ++ x6 ++ x7 : Code) 0 4 = x7 := by
  exact ⟨(fld_append_hi (m := 28) (k := 4) _ _ 26 6 (by decide)).trans <| (fld_append_hi (m := 27) (k := 1) _ _ 22 6 (by decide)).trans <| (fld_append_hi (m := 26) (k := 1) _ _ 21 6 (by decide)).trans <| (fld_append_hi (m := 19) (k := 7) _ _ 20 6 (by decide)).trans <| (fld_append_hi (m := 12) (k := 7) _ _ 13 6 (by decide)).trans <| (fld_append_hi (m := 8) (k := 4) _ _ 6 6 (by decide)).trans <| (fld_append_hi (m := 6) (k := 2) _ _ 2 6 (by decide)).trans <| fld_whole x0,
    (fld_append_hi (m := 28) (k := 4) _ _ 24 2 (by decide)).trans <| (fld_append_hi (m := 27) (k := 1) _ _ 20 2 (by decide)).trans <| (fld_append_hi (m := 26) (k := 1) _ _ 19 2 (by decide)).trans <| (fld_append_hi (m := 19) (k := 7) _ _ 18 2 (by decide)).trans <| (fld_append_hi (m := 12) (k := 7) _ _ 11 2 (by decide)).trans <| (fld_append_hi (m := 8) (k := 4) _ _ 4 2 (by decide)).trans <| (fld_append_lo (m := 6) (k := 2) _ _ 0 2 (by decide)).trans <| fld_whole x1,
    (fld_append_hi (m := 28) (k := 4) _ _ 20 4 (by decide)).trans <| (fld_append_hi (m := 27) (k := 1) _ _ 16 4 (by decide)).trans <| (fld_append_hi (m := 26) (k := 1) _ _ 15 4 (by decide)).trans <| (fld_append_hi (m := 19) (k := 7) _ _ 14 4 (by decide)).trans <| (fld_append_hi (m := 12) (k := 7) _ _ 7 4 (by decide)).trans <| (fld_append_lo (m := 8) (k := 4) _ _ 0 4 (by decide)).trans <| fld_whole x2,
    (fld_append_hi (m := 28) (k := 4) _ _ 13 7 (by decide)).trans <| (fld_append_hi (m := 27) (k := 1) _ _ 9 7 (by decide)).trans <| (fld_append_hi (m := 26) (k := 1) _ _ 8 7 (by decide)).trans <| (fld_append_hi (m := 19) (k := 7) _ _ 7 7 (by decide)).trans <| (fld_append_lo (m := 12) (k := 7) _ _ 0 7 (by decide)).trans <| fld_whole x3,
    (fld_append_hi (m := 28) (k := 4) _ _ 6 7 (by decide)).trans <| (fld_append_hi (m := 27) (k := 1) _ _ 2 7 (by decide)).trans <| (fld_append_hi (m := 26) (k := 1) _ _ 1 7 (by decide)).trans <| (fld_append_lo (m := 19) (k := 7) _ _ 0 7 (by decide)).trans <| fld_whole x4,
    (fld_append_hi (m := 28) (k := 4) _ _ 5 1 (by decide)).trans <| (fld_append_hi (m := 27) (k := 1) _ _ 1 1 (by decide)).trans <| (fld_append_lo (m := 26) (k := 1) _ _ 0 1 (by decide)).trans <| fld_whole x5,
    (fld_append_hi (m := 28) (k := 4) _ _ 4 1 (by decide)).trans <| (fld_append_lo (m := 27) (k := 1) _ _ 0 1 (by decide)).trans <| fld_whole x6,
    (fld_append_lo (m := 28) (k := 4) _ _ 0 4 (by decide)).trans <| fld_whole x7⟩

theorem layout_6_6_5_2_7_1_1_4 (x0 : BitVec 6) (x1 : BitVec 6) (x2 : BitVec 5) (x3 : BitVec 2) (x4 : BitVec 7) (x5 : BitVec 1) (x6 : BitVec 1) (x7 : BitVec 4) :
    fld (x0 ++ x1 ++ x2 ++ x3 ++ x4 ++ x5 ++ x6 ++ x7 : Code) 26 6 = x0 ∧
    fld (x0 ++ x1 ++ x2 ++ x3 ++ x4 ++ x5 ++ x6 ++ x7 : Code) 20 6 = x1 ∧
    fld (x0 ++ x1 ++ x2 ++ x3 ++ x4 ++ x5 ++ x6 ++ x7 : Code) 15 5 = x2 ∧
    fld (x0 ++ x1 ++ x2 ++ x3 ++ x4 ++ x5 ++ x6 ++ x7 : Code) 13 2 = x3 ∧
    fld (x0 ++ x1 ++ x2 ++ x3 ++ x4 ++ x5 ++ x6 ++ x7 : Code) 6 7 = x4 ∧
    fld (x0 ++ x1 ++ x2 ++ x3 ++ x4 ++ x5 ++ x6 ++ x7 : Code) 5 1 = x5 ∧
    fld (x0 ++ x1 ++ x2 ++ x3 ++ x4 ++ x5 ++ x6 ++ x7 : Code) 4 1 = x6 ∧
    fld (x0 ++ x1 ++ x2 ++ x3 ++ x4 ++ x5 ++ x6 ++ x7 : Code) 0 4 = x7 := by
  exact ⟨(fld_append_hi (m := 28) (k := 4) _ _ 26 6 (by decide)).trans <| (fld_append_hi (m := 27) (k := 1) _ _ 22 6 (by decide)).trans <| (fld_append_hi (m := 26) (k := 1) _ _ 21 6 (by decide)).trans <| (fld_append_hi (m := 19) (k := 7) _ _ 20 6 (by decide)).trans <| (fld_append_hi (m := 17) (k := 2) _ _ 13 6 (by decide)).trans <| (fld_append_hi (m := 12) (k := 5) _ _ 11 6 (by decide)).trans <| (fld_append_hi (m := 6) (k := 6) _ _ 6 6 (by decide)).trans <| fld_whole x0,
    (fld_append_hi (m := 28) (k := 4) _ _ 20 6 (by decide)).trans <| (fld_append_hi (m := 27) (k := 1) _ _ 16 6 (by decide)).trans <| (fld_append_hi (m := 26) (k := 1) _ _ 15 6 (by decide)).trans <| (fld_append_hi (m := 19) (k := 7) _ _ 14 6 (by decide)).trans <| (fld_append_hi (m := 17) (k := 2) _ _ 7 6 (by decide)).trans <| (fld_append_hi (m := 12) (k := 5) _ _ 5 6 (by decide)).trans <| (fld_append_lo (m := 6) (k := 6) _ _ 0 6 (by decide)).trans <| fld_whole x1,
    (fld_append_hi (m := 28) (k := 4) _ _ 15 5 (by decide)).trans <| (fld_append_hi (m := 27) (k := 1) _ _ 11 5 (by decide)).trans <| (fld_append_hi (m := 26) (k := 1) _ _ 10 5 (by decide)).trans <| (fld_append_hi (m := 19) (k := 7) _ _ 9 5 (by decide)).trans <| (fld_append_hi (m := 17) (k := 2) _ _ 2 5 (by decide)).trans <| (fld_append_lo (m := 12) (k := 5) _ _ 0 5 (by decide)).trans <| fld_whole x2,
    (fld_append_hi (m := 28) (k := 4) _ _ 13 2 (by decide)).trans <| (fld_append_hi (m := 27) (k := 1) _ _ 9 2 (by decide)).trans <| (fld_append_hi (m := 26) (k := 1) _ _ 8 2 (by decide)).trans <| (fld_append_hi (m := 19) (k := 7) _ _ 7 2 (by decide)).trans <| (fld_append_lo (m := 17) (k := 2) _ _ 0 2 (by decide)).trans <| fld_whole x3,
    (fld_append_hi (m := 28) (k := 4) _ _ 6 7 (by decide)).trans <| (fld_append_hi (m := 27) (k := 1) _ _ 2 7 (by decide)).trans <| (fld_append_hi (m := 26) (k := 1) _ _ 1 7 (by decide)).trans <| (fld_append_lo (m := 19) (k := 7) _ _ 0 7 (by decide)).trans <| fld_whole x4,
    (fld_append_hi (m := 28) (k := 4) _ _ 5 1 (by decide)).trans <| (fld_append_hi (m := 27) (k := 1) _ _ 1 1 (by decide)).trans <| (fld_append_lo (m := 26) (k := 1) _ _ 0 1 (by decide)).trans <| fld_whole x5,
    (fld_append_hi (m := 28) (k := 4) _ _ 4 1 (by decide)).trans <| (fld_append_lo (m := 27) (k := 1) _ _ 0 1 (by decide)).trans <| fld_whole x6,
    (fld_append_lo (m := 28) (k := 4) _ _ 0 4 (by decide)).trans <| fld_whole x7⟩

theorem layout_6_6_7_4_3_1_1_4 (x0 : BitVec 6) (x1 : BitVec 6) (x2 : BitVec 7) (x3 : BitVec 4) (x4 : BitVec 3) (x5 : BitVec 1) (x6 : BitVec 1) (x7 : BitVec 4) :
    fld (x0 ++ x1 ++ x2 ++ x3 ++ x4 ++ x5 ++ x6 ++ x7 : Code) 26 6 = x0 ∧
    fld (x0 ++ x1 ++ x2 ++ x3 ++ x4 ++ x5 ++ x6 ++ x7 : Code) 20 6 = x1 ∧
    fld (x0 ++ x1 ++ x2 ++ x3 ++ x4 ++ x5 ++ x6 ++ x7 : Code) 13 7 = x2 ∧
    fld (x0 ++ x1 ++ x2 ++ x3 ++ x4 ++ x5 ++ x6 ++ x7 : Code) 9 4 = x3 ∧
    fld (x0 ++ x1 ++ x2 ++ x3 ++ x4 ++ x5 ++ x6 ++ x7 : Code) 6 3 = x4 ∧
    fld (x0 ++ x1 ++ x2 ++ x3 ++ x4 ++ x5 ++ x6 ++ x7 : Code) 5 1 = x5 ∧
    fld (x0 ++ x1 ++ x2 ++ x3 ++ x4 ++ x5 ++ x6 ++ x7 : Code) 4 1 = x6 ∧
    fld (x0 ++ x1 ++ x2 ++ x3 ++ x4 ++ x5 ++ x6 ++ x7 : Code) 0 4 = x7 := by
  exact ⟨(fld_append_hi (m := 28) (k := 4) _ _ 26 6 (by decide)).trans <| (fld_append_hi (m := 27) (k := 1) _ _ 22 6 (by decide)).trans <| (fld_append_hi (m := 26) (k := 1) _ _ 21 6 (by decide)).trans <| (fld_append_hi (m := 23) (k := 3) _ _ 20 6 (by decide)).trans <| (fld_append_hi (m := 19) (k := 4) _ _ 17 6 (by decide)).trans <| (fld_append_hi (m := 12) (k := 7) _ _ 13 6 (by decide)).trans <| (fld_append_hi (m := 6) (k := 6) _ _ 6 6 (by decide)).trans <| fld_whole x0,
    (fld_append_hi (m := 28) (k := 4) _ _ 20 6 (by decide)).trans <| (fld_append_hi (m := 27) (k := 1) _ _ 16 6 (by decide)).trans <| (fld_append_hi (m := 26) (k := 1) _ _ 15 6 (by decide)).trans <| (fld_append_hi (m := 23) (k := 3) _ _ 14 6 (by decide)).trans <| (fld_append_hi (m := 19) (k := 4) _ _ 11 6 (by decide)).trans <| (fld_append_hi (m := 12) (k := 7) _ _ 7 6 (by decide)).trans <| (fld_append_lo (m := 6) (k := 6) _ _ 0 6 (by decide)).trans <| fld_whole x1,
    (fld_append_hi (m := 28) (k := 4) _ _ 13 7 (by decide)).trans <| (fld_append_hi (m := 27) (k := 1) _ _ 9 7 (by decide)).trans <| (fld_append_hi (m := 26) (k := 1) _ _ 8 7 (by decide)).trans <| (fld_append_hi (m := 23) (k := 3) _ _ 7 7 (by decide)).trans <| (fld_append_hi (m := 19) (k := 4) _ _ 4 7 (by decide)).trans <| (fld_append_lo (m := 12) (k := 7) _ _ 0 7 (by decide)).trans <| fld_whole x2,
    (fld_append_hi (m := 28) (k := 4) _ _ 9 4 (by decide)).trans <| (fld_append_hi (m := 27) (k := 1) _ _ 5 4 (by decide)).trans <| (fld_append_hi (m := 26) (k := 1) _ _ 4 4 (by decide)).trans <| (fld_append_hi (m := 23) (k := 3) _ _ 3 4 (by decide)).trans <| (fld_append_lo (m := 19) (k := 4) _ _ 0 4 (by decide)).trans <| fld_whole x3,
    (fld_append_hi (m := 28) (k := 4) _ _ 6 3 (by decide)).trans <| (fld_append_hi (m := 27) (k := 1) _ _ 2 3 (by decide)).trans <| (fld_append_hi (m := 26) (k := 1) _ _ 1 3 (by decide)).trans <| (fld_append_lo (m := 23) (k := 3) _ _ 0 3 (by decide)).trans <| fld_whole x4,
    (fld_append_hi (m := 28) (k := 4) _ _ 5 1 (by decide)).trans <| (fld_append_hi (m := 27) (k := 1) _ _ 1 1 (by decide)).trans <| (fld_append_lo (m := 26) (k := 1) _ _ 0 1 (by decide)).trans <| fld_whole x5,
    (fld_append_hi (m := 28) (k := 4) _ _ 4 1 (by decide)).trans <| (fld_append_lo (m := 27) (k := 1) _ _ 0 1 (by decide)).trans <| fld_whole x6,
    (fld_append_lo (m := 28) (k := 4) _ _ 0 4 (by decide)).trans <| fld_whole x7⟩

theorem layout_6_2_4_2_1_4_9_4 (x0 : BitVec 6) (x1 : BitVec 2) (x2 : BitVec 4) (x3 : BitVec 2) (x4 : BitVec 1) (x5 : BitVec 4) (x6 : BitVec 9) (x7 : BitVec 4) :
    fld (x0 ++ x1 ++ x2 ++ x3 ++ x4 ++ x5 ++ x6 ++ x7 : Code) 26 6 = x0 ∧
    fld (x0 ++ x1 ++ x2 ++ x3 ++ x4 ++ x5 ++ x6 ++ x7 : Code) 24 2 = x1 ∧
    fld (x0 ++ x1 ++ x2 ++ x3 ++ x4 ++ x5 ++ x6 ++ x7 : Code) 20 4 = x2 ∧
    fld (x0 ++ x1 ++ x2 ++ x3 ++ x4 ++ x5 ++ x6 ++ x7 : Code) 18 2 = x3 ∧
    fld (x0 ++ x1 ++ x2 ++ x3 ++ x4 ++ x5 ++ x6 ++ x7 : Code) 17 1 = x4 ∧
    fld (x0 ++ x1 ++ x2 ++ x3 ++ x4 ++ x5 ++ x6 ++ x7 : Code) 13 4 = x5 ∧
    fld (x0 ++ x1 ++ x2 ++ x3 ++ x4 ++ x5 ++ x6 ++ x7 : Code) 4 9 = x6 ∧
    fld (x0 ++ x1 ++ x2 ++ x3 ++ x4 ++ x5 ++ x6 ++ x7 : Code) 0 4 = x7 := by
  exact ⟨(fld_append_hi (m := 28) (k := 4) _ _ 26 6 (by decide)).trans <| (fld_append_hi (m := 19) (k := 9) _ _ 22 6 (by decide)).trans <| (fld_append_hi (m := 15) (k := 4) _ _ 13 6 (by decide)).trans <| (fld_append_hi (m := 14) (k := 1) _ _ 9 6 (by decide)).trans <| (fld_append_hi (m := 12) (k := 2) _ _ 8 6 (by decide)).trans <| (fld_append_hi (m := 8) (k := 4) _ _ 6 6 (by decide)).trans <| (fld_append_hi (m := 6) (k := 2) _ _ 2 6 (by decide)).trans <| fld_whole x0,
    (fld_append_hi (m := 28) (k := 4) _ _ 24 2 (by decide)).trans <| (fld_append_hi (m := 19) (k := 9) _ _ 20 2 (by decide)).trans <| (fld_append_hi (m := 15) (k := 4) _ _ 11 2 (by decide)).trans <| (fld_append_hi (m := 14) (k := 1) _ _ 7 2 (by decide)).trans <| (fld_append_hi (m := 12) (k := 2) _ _ 6 2 (by decide)).trans <| (fld_append_hi (m := 8) (k := 4) _ _ 4 2 (by decide)).trans <| (fld_append_lo (m := 6) (k := 2) _ _ 0 2 (by decide)).trans <| fld_whole x1,
    (fld_append_hi (m := 28) (k := 4) _ _ 20 4 (by decide)).trans <| (fld_append_hi (m := 19) (k := 9) _ _ 16 4 (by decide)).trans <| (fld_append_hi (m := 15) (k := 4) _ _ 7 4 (by decide)).trans <| (fld_append_hi (m := 14) (k := 1) _ _ 3 4 (by decide)).trans <| (fld_append_hi (m := 12) (k := 2) _ _ 2 4 (by decide)).trans <| (fld_append_lo (m := 8) (k := 4) _ _ 0 4 (by decide)).trans <| fld_whole x2,
    (fld_append_hi (m := 28) (k := 4) _ _ 18 2 (by decide)).trans <| (fld_append_hi (m := 19) (k := 9) _ _ 14 2 (by decide)).trans <| (fld_append_hi (m := 15) (k := 4) _ _ 5 2 (by decide)).trans <| (fld_append_hi (m := 14) (k := 1) _ _ 1 2 (by decide)).trans <| (fld_append_lo (m := 12) (k := 2) _ _ 0 2 (by decide)).trans <| fld_whole x3,
    (fld_append_hi (m := 28) (k := 4) _ _ 17 1 (by decide)).trans <| (fld_append_hi (m := 19) (k := 9) _ _ 13 1 (by decide)).trans <| (fld_append_hi (m := 15) (k := 4) _ _ 4 1 (by decide)).trans <| (fld_append_lo (m := 14) (k := 1) _ _ 0 1 (by decide)).trans <| fld_whole x4,
    (fld_append_hi (m := 28) (k := 4) _ _ 13 4 (by decide)).trans <| (fld_append_hi (m := 19) (k := 9) _ _ 9 4 (by decide)).trans <| (fld_append_lo (m := 15) (k := 4) _ _ 0 4 (by decide)).trans <| fld_whole x5,
    (fld_append_hi (m := 28) (k := 4) _ _ 4 9 (by decide)).trans <| (fld_append_lo (m := 19) (k := 9) _ _ 0 9 (by decide)).trans <| fld_whole x6,
    (fld_append_lo (m := 28) (k := 4) _ _ 0 4 (by decide)).trans <| fld_whole x7⟩

theorem layout_6_2_2_6_12_4 (x0 : BitVec 6) (x1 : BitVec 2) (x2 : BitVec 2) (x3 : BitVec 6) (x4 : BitVec 12) (x5 : BitVec 4) :
    fld (x0 ++ x1 ++ x2 ++ x3 ++ x4 ++ x5 : Code) 26 6 = x0 ∧
    fld (x0 ++ x1 ++ x2 ++ x3 ++ x4 ++ x5 : Code) 24 2 = x1 ∧
    fld (x0 ++ x1 ++ x2 ++ x3 ++ x4 ++ x5 : Code) 22 2 = x2 ∧
    fld (x0 ++ x1 ++ x2 ++ x3 ++ x4 ++ x5 : Code) 16 6 = x3 ∧
    fld (x0 ++ x1 ++ x2 ++ x3 ++ x4 ++ x5 : Code) 4 12 = x4 ∧
    fld (x0 ++ x1 ++ x2 ++ x3 ++ x4 ++ x5 : Code) 0 4 = x5 := by
  exact ⟨(fld_append_hi (m := 28) (k := 4) _ _ 26 6 (by decide)).trans <| (fld_append_hi (m := 16) (k := 12) _ _ 22 6 (by decide)).trans <| (fld_append_hi (m := 10) (k := 6) _ _ 10 6 (by decide)).trans <| (fld_append_hi (m := 8) (k := 2) _ _ 4 6 (by decide)).trans <| (fld_append_hi (m := 6) (k := 2) _ _ 2 6 (by decide)).trans <| fld_whole x0,
    (fld_append_hi (m := 28) (k := 4) _ _ 24 2 (by decide)).trans <| (fld_append_hi (m := 16) (k := 12) _ _ 20 2 (by decide)).trans <| (fld_append_hi (m := 10) (k := 6) _ _ 8 2 (by decide)).trans <| (fld_append_hi (m := 8) (k := 2) _ _ 2 2 (by decide)).trans <| (fld_append_lo (m := 6) (k := 2) _ _ 0 2 (by decide)).trans <| fld_whole x1,
    (fld_append_hi (m := 28) (k := 4) _ _ 22 2 (by decide)).trans <| (fld_append_hi (m := 16) (k := 12) _ _ 18 2 (by decide)).trans <| (fld_append_hi (m := 10) (k := 6) _ _ 6 2 (by decide)).trans <| (fld_append_lo (m := 8) (k := 2) _ _ 0 2 (by decide)).trans <| fld_whole x2,
    (fld_append_hi (m := 28) (k := 4) _ _ 16 6 (by decide)).trans <| (fld_append_hi (m := 16) (k := 12) _ _ 12 6 (by decide)).trans <| (fld_append_lo (m := 10) (k := 6) _ _ 0 6 (by decide)).trans <| fld_whole x3,
    (fld_append_hi (m := 28) (k := 4) _ _ 4 12 (by decide)).trans <| (fld_append_lo (m := 16) (k := 12) _ _ 0 12 (by decide)).trans <| fld_whole x4,
    (fld_append_lo (m := 28) (k := 4) _ _ 0 4 (by decide)).trans <| fld_whole x5⟩

theorem layout_6_2_4_16_4 (x0 : BitVec 6) (x1 : BitVec 2) (x2 : BitVec 4) (x3 : BitVec 16) (x4 : BitVec 4) :
    fld (x0 ++ x1 ++ x2 ++ x3 ++ x4 : Code) 26 6 = x0 ∧
    fld (x0 ++ x1 ++ x2 ++ x3 ++ x4 : Code) 24 2 = x1 ∧
    fld (x0 ++ x1 ++ x2 ++ x3 ++ x4 : Code) 20 4 = x2 ∧
    fld (x0 ++ x1 ++ x2 ++ x3 ++ x4 : Code) 4 16 = x3 ∧
    fld (x0 ++ x1 ++ x2 ++ x3 ++ x4 : Code) 0 4 = x4 := by
  exact ⟨(fld_append_hi (m := 28) (k := 4) _ _ 26 6 (by decide)).trans <| (fld_append_hi (m := 12) (k := 16) _ _ 22 6 (by decide)).trans <| (fld_append_hi (m := 8) (k := 4) _ _ 6 6 (by decide)).trans <| (fld_append_hi (m := 6) (k := 2) _ _ 2 6 (by decide)).trans <| fld_whole x0,
    (fld_append_hi (m := 28) (k := 4) _ _ 24 2 (by decide)).trans <| (fld_append_hi (m := 12) (k := 16) _ _ 20 2 (by decide)).trans <| (fld_append_hi (m := 8) (k := 4) _ _ 4 2 (by decide)).trans <| (fld_append_lo (m := 6) (k := 2) _ _ 0 2 (by decide)).trans <| fld_whole x1,
    (fld_append_hi (m := 28) (k := 4) _ _ 20 4 (by decide)).trans <| (fld_append_hi (m := 12) (k := 16) _ _ 16 4 (by decide)).trans <| (fld_append_lo (m := 8) (k := 4) _ _ 0 4 (by decide)).trans <| fld_whole x2,
    (fld_append_hi (m := 28) (k := 4) _ _ 4 16 (by decide)).trans <| (fld_append_lo (m := 12) (k := 16) _ _ 0 16 (by decide)).trans <| fld_whole x3,
    (fld_append_lo (m := 28) (k := 4) _ _ 0 4 (by decide)).trans <| fld_whole x4⟩

theorem layout_6_6_6_3_1_1_5_4 (x0 : BitVec 6) (x1 : BitVec 6) (x2 : BitVec 6) (x3 : BitVec 3) (x4 : BitVec 1) (x5 : BitVec 1) (x6 : BitVec 5) (x7 : BitVec 4) :
    fld (x0 ++ x1 ++ x2 ++ x3 ++ x4 ++ x5 ++ x6 ++ x7 : Code) 26 6 = x0 ∧
    fld (x0 ++ x1 ++ x2 ++ x3 ++ x4 ++ x5 ++ x6 ++ x7 : Code) 20 6 = x1 ∧
    fld (x0 ++ x1 ++ x2 ++ x3 ++ x4 ++ x5 ++ x6 ++ x7 : Code) 14 6 = x2 ∧
    fld (x0 ++ x1 ++ x2 ++ x3 ++ x4 ++ x5 ++ x6 ++ x7 : Code) 11 3 = x3 ∧
    fld (x0 ++ x1 ++ x2 ++ x3 ++ x4 ++ x5 ++ x6 ++ x7 : Code) 10 1 = x4 ∧
    fld (x0 ++ x1 ++ x2 ++ x3 ++ x4 ++ x5 ++ x6 ++ x7 : Code) 9 1 = x5 ∧
    fld (x0 ++ x1 ++ x2 ++ x3 ++ x4 ++ x5 ++ x6 ++ x7 : Code) 4 5 = x6 ∧
    fld (x0 ++ x1 ++ x2 ++ x3 ++ x4 ++ x5 ++ x6 ++ x7 : Code) 0 4 = x7 := by
  exact ⟨(fld_append_hi (m := 28) (k := 4) _ _ 26 6 (by decide)).trans <| (fld_append_hi (m := 23) (k := 5) _ _ 22 6 (by decide)).trans <| (fld_append_hi (m := 22) (k := 1) _ _ 17 6 (by decide)).trans <| (fld_append_hi (m := 21) (k := 1) _ _ 16 6 (by decide)).trans <| (fld_append_hi (m := 18) (k := 3) _ _ 15 6 (by decide)).trans <| (fld_append_hi (m := 12) (k := 6) _ _ 12 6 (by decide)).trans <| (fld_append_hi (m := 6) (k := 6) _ _ 6 6 (by decide)).trans <| fld_whole x0,
    (fld_append_hi (m := 28) (k := 4) _ _ 20 6 (by decide)).trans <| (fld_append_hi (m := 23) (k := 5) _ _ 16 6 (by decide)).trans <| (fld_append_hi (m := 22) (k := 1) _ _ 11 6 (by decide)).trans <| (fld_append_hi (m := 21) (k := 1) _ _ 10 6 (by decide)).trans <| (fld_append_hi (m := 18) (k := 3) _ _ 9 6 (by decide)).trans <| (fld_append_hi (m := 12) (k := 6) _ _ 6 6 (by decide)).trans <| (fld_append_lo (m := 6) (k := 6) _ _ 0 6 (by decide)).trans <| fld_whole x1,
    (fld_append_hi (m := 28) (k := 4) _ _ 14 6 (by decide)).trans <| (fld_append_hi (m := 23) (k := 5) _ _ 10 6 (by decide)).trans <| (fld_append_hi (m := 22) (k := 1) _ _ 5 6 (by decide)).trans <| (fld_append_hi (m := 21) (k := 1) _ _ 4 6 (by decide)).trans <| (fld_append_hi (m := 18) (k := 3) _ _ 3 6 (by decide)).trans <| (fld_append_lo (m := 12) (k := 6) _ _ 0 6 (by decide)).trans <| fld_whole x2,
    (fld_append_hi (m := 28) (k := 4) _ _ 11 3 (by decide)).trans <| (fld_append_hi (m := 23) (k := 5) _ _ 7 3 (by decide)).trans <| (fld_append_hi (m := 22) (k := 1) _ _ 2 3 (by decide)).trans <| (fld_append_hi (m := 21) (k := 1) _ _ 1 3 (by decide)).trans <| (fld_append_lo (m := 18) (k := 3) _ _ 0 3 (by decide)).trans <| fld_whole x3,
    (fld_append_hi (m := 28) (k := 4) _ _ 10 1 (by decide)).trans <| (fld_append_hi (m := 23) (k := 5) _ _ 6 1 (by decide)).trans <| (fld_append_hi (m := 22) (k := 1) _ _ 1 1 (by decide)).trans <| (fld_append_lo (m := 21) (k := 1) _ _ 0 1 (by decide)).trans <| fld_whole x4,
    (fld_append_hi (m := 28) (k := 4) _ _ 9 1 (by decide)).trans <| (fld_append_hi (m := 23) (k := 5) _ _ 5 1 (by decide)).trans <| (fld_append_lo (m := 22) (k := 1) _ _ 0 1 (by decide)).trans <| fld_whole x5,
    (fld_append_hi (m := 28) (k := 4) _ _ 4 5 (by decide)).trans <| (fld_append_lo (m := 23) (k := 5) _ _ 0 5 (by decide)).trans <| fld_whole x6,
    (fld_append_lo (m := 28) (k := 4) _ _ 0 4 (by decide)).trans <| fld_whole x7⟩

theorem layout_6_6_6_3_1_1_3_2_4 (x0 : BitVec 6) (x1 : BitVec 6) (x2 : BitVec 6) (x3 : BitVec 3) (x4 : BitVec 1) (x5 : BitVec 1) (x6 : BitVec 3) (x7 : BitVec 2) (x8 : BitVec 4) :
    fld (x0 ++ x1 ++ x2 ++ x3 ++ x4 ++ x5 ++ x6 ++ x7 ++ x8 : Code) 26 6 = x0 ∧
    fld (x0 ++ x1 ++ x2 ++ x3 ++ x4 ++ x5 ++ x6 ++ x7 ++ x8 : Code) 20 6 = x1 ∧
    fld (x0 ++ x1 ++ x2 ++ x3 ++ x4 ++ x5 ++ x6 ++ x7 ++ x8 : Code) 14 6 = x2 ∧
    fld (x0 ++ x1 ++ x2 ++ x3 ++ x4 ++ x5 ++ x6 ++ x7 ++ x8 : Code) 11 3 = x3 ∧
    fld (x0 ++ x1 ++ x2 ++ x3 ++ x4 ++ x5 ++ x6 ++ x7 ++ x8 : Code) 10 1 = x4 ∧
    fld (x0 ++ x1 ++ x2 ++ x3 ++ x4 ++ x5 ++ x6 ++ x7 ++ x8 : Code) 9 1 = x5 ∧
    fld (x0 ++ x1 ++ x2 ++ x3 ++ x4 ++ x5 ++ x6 ++ x7 ++ x8 : Code) 6 3 = x6 ∧
    fld (x0 ++ x1 ++ x2 ++ x3 ++ x4 ++ x5 ++ x6 ++ x7 ++ x8 : Code) 4 2 = x7 ∧
    fld (x0 ++ x1 ++ x2 ++ x3 ++ x4 ++ x5 ++ x6 ++ x7 ++ x8 : Code) 0 4 = x8 := by
  exact ⟨(fld_append_hi (m := 28) (k := 4) _ _ 26 6 (by decide)).trans <| (fld_append_hi (m := 26) (k := 2) _ _ 22 6 (by decide)).trans <| (fld_append_hi (m := 23) (k := 3) _ _ 20 6 (by decide)).trans <| (fld_append_hi (m := 22) (k := 1) _ _ 17 6 (by decide)).trans <| (fld_append_hi (m := 21) (k := 1) _ _ 16 6 (by decide)).trans <| (fld_append_hi (m := 18) (k := 3) _ _ 15 6 (by decide)).trans <| (fld_append_hi (m := 12) (k := 6) _ _ 12 6 (by decide)).trans <| (fld_append_hi (m := 6) (k := 6) _ _ 6 6 (by decide)).trans <| fld_whole x0,
    (fld_append_hi (m := 28) (k := 4) _ _ 20 6 (by decide)).trans <| (fld_append_hi (m := 26) (k := 2) _ _ 16 6 (by decide)).trans <| (fld_append_hi (m := 23) (k := 3) _ _ 14 6 (by decide)).trans <| (fld_append_hi (m := 22) (k := 1) _ _ 11 6 (by decide)).trans <| (fld_append_hi (m := 21) (k := 1) _ _ 10 6 (by decide)).trans <| (fld_append_hi (m := 18) (k := 3) _ _ 9 6 (by decide)).trans <| (fld_append_hi (m := 12) (k := 6) _ _ 6 6 (by decide)).trans <| (fld_append_lo (m := 6) (k := 6) _ _ 0 6 (by decide)).trans <| fld_whole x1,
    (fld_append_hi (m := 28) (k := 4) _ _ 14 6 (by decide)).trans <| (fld_append_hi (m := 26) (k := 2) _ _ 10 6 (by decide)).trans <| (fld_append_hi (m := 23) (k := 3) _ _ 8 6 (by decide)).trans <| (fld_append_hi (m := 22) (k := 1) _ _ 5 6 (by decide)).trans <| (fld_append_hi (m := 21) (k := 1) _ _ 4 6 (by decide)).trans <| (fld_append_hi (m := 18) (k := 3) _ _ 3 6 (by decide)).trans <| (fld_append_lo (m := 12) (k := 6) _ _ 0 6 (by decide)).trans <| fld_whole x2,
    (fld_append_hi (m := 28) (k := 4) _ _ 11 3 (by decide)).trans <| (fld_append_hi (m := 26) (k := 2) _ _ 7 3 (by decide)).trans <| (fld_append_hi (m := 23) (k := 3) _ _ 5 3 (by decide)).trans <| (fld_append_hi (m := 22) (k := 1) _ _ 2 3 (by decide)).trans <| (fld_append_hi (m := 21) (k := 1) _ _ 1 3 (by decide)).trans <| (fld_append_lo (m := 18) (k := 3) _ _ 0 3 (by decide)).trans <| fld_whole x3,
    (fld_append_hi (m := 28) (k := 4) _ _ 10 1 (by decide)).trans <| (fld_append_hi (m := 26) (k := 2) _ _ 6 1 (by decide)).trans <| (fld_append_hi (m := 23) (k := 3) _ _ 4 1 (by decide)).trans <| (fld_append_hi (m := 22) (k := 1) _ _ 1 1 (by decide)).trans <| (fld_append_lo (m := 21) (k := 1) _ _ 0 1 (by decide)).trans <| fld_whole x4,
    (fld_append_hi (m := 28) (k := 4) _ _ 9 1 (by decide)).trans <| (fld_append_hi (m := 26) (k := 2) _ _ 5 1 (by decide)).trans <| (fld_append_hi (m := 23) (k := 3) _ _ 3 1 (by decide)).trans <| (fld_append_lo (m := 22) (k := 1) _ _ 0 1 (by decide)).trans <| fld_whole x5,
    (fld_append_hi (m := 28) (k := 4) _ _ 6 3 (by decide)).trans <| (fld_append_hi (m := 26) (k := 2) _ _ 2 3 (by decide)).trans <| (fld_append_lo (m := 23) (k := 3) _ _ 0 3 (by decide)).trans <| fld_whole x6,
    (fld_append_hi (m := 28) (k := 4) _ _ 4 2 (by decide)).trans <| (fld_append_lo (m := 26) (k := 2) _ _ 0 2 (by decide)).trans <| fld_whole x7,
    (fld_append_lo (m := 28) (k := 4) _ _ 0 4 (by decide)).trans <| fld_whole x8⟩

theorem layout_6_6_3_1_6_5_1_4 (x0 : BitVec 6) (x1 : BitVec 6) (x2 : BitVec 3) (x3 : BitVec 1) (x4 : BitVec 6) (x5 : BitVec 5) (x6 : BitVec 1) (x7 : BitVec 4) :
    fld (x0 ++ x1 ++ x2 ++ x3 ++ x4 ++ x5 ++ x6 ++ x7 : Code) 26 6 = x0 ∧
    fld (x0 ++ x1 ++ x2 ++ x3 ++ x4 ++ x5 ++ x6 ++ x7 : Code) 20 6 = x1 ∧
    fld (x0 ++ x1 ++ x2 ++ x3 ++ x4 ++ x5 ++ x6 ++ x7 : Code) 17 3 = x2 ∧
    fld (x0 ++ x1 ++ x2 ++ x3 ++ x4 ++ x5 ++ x6 ++ x7 : Code) 16 1 = x3 ∧
    fld (x0 ++ x1 ++ x2 ++ x3 ++ x4 ++ x5 ++ x6 ++ x7 : Code) 10 6 = x4 ∧
    fld (x0 ++ x1 ++ x2 ++ x3 ++ x4 ++ x5 ++ x6 ++ x7 : Code) 5 5 = x5 ∧
    fld (x0 ++ x1 ++ x2 ++ x3 ++ x4 ++ x5 ++ x6 ++ x7 : Code) 4 1 = x6 ∧
    fld (x0 ++ x1 ++ x2 ++ x3 ++ x4 ++ x5 ++ x6 ++ x7 : Code) 0 4 = x7 := by
  exact ⟨(fld_append_hi (m := 28) (k := 4) _ _ 26 6 (by decide)).trans <| (fld_append_hi (m := 27) (k := 1) _ _ 22 6 (by decide)).trans <| (fld_append_hi (m := 22) (k := 5) _ _ 21 6 (by decide)).trans <| (fld_append_hi (m := 16) (k := 6) _ _ 16 6 (by decide)).trans <| (fld_append_hi (m := 15) (k := 1) _ _ 10 6 (by decide)).trans <| (fld_append_hi (m := 12) (k := 3) _ _ 9 6 (by decide)).trans <| (fld_append_hi (m := 6) (k := 6) _ _ 6 6 (by decide)).trans <| fld_whole x0,
    (fld_append_hi (m := 28) (k := 4) _ _ 20 6 (by decide)).trans <| (fld_append_hi (m := 27) (k := 1) _ _ 16 6 (by decide)).trans <| (fld_append_hi (m := 22) (k := 5) _ _ 15 6 (by decide)).trans <| (fld_append_hi (m := 16) (k := 6) _ _ 10 6 (by decide)).trans <| (fld_append_hi (m := 15) (k := 1) _ _ 4 6 (by decide)).trans <| (fld_append_hi (m := 12) (k := 3) _ _ 3 6 (by decide)).trans <| (fld_append_lo (m := 6) (k := 6) _ _ 0 6 (by decide)).trans <| fld_whole x1,
    (fld_append_hi (m := 28) (k := 4) _ _ 17 3 (by decide)).trans <| (fld_append_hi (m := 27) (k := 1) _ _ 13 3 (by decide)).trans <| (fld_append_hi (m := 22) (k := 5) _ _ 12 3 (by decide)).trans <| (fld_append_hi (m := 16) (k := 6) _ _ 7 3 (by decide)).trans <| (fld_append_hi (m := 15) (k := 1) _ _ 1 3 (by decide)).trans <| (fld_append_lo (m := 12) (k := 3) _ _ 0 3 (by decide)).trans <| fld_whole x2,
    (fld_append_hi (m := 28) (k := 4) _ _ 16 1 (by decide)).trans <| (fld_append_hi (m := 27) (k := 1) _ _ 12 1 (by decide)).trans <| (fld_append_hi (m := 22) (k := 5) _ _ 11 1 (by decide)).trans <| (fld_append_hi (m := 16) (k := 6) _ _ 6 1 (by decide)).trans <| (fld_append_lo (m := 15) (k := 1) _ _ 0 1 (by decide)).trans <| fld_whole x3,
    (fld_append_hi (m := 28) (k := 4) _ _ 10 6 (by decide)).trans <| (fld_append_hi (m := 27) (k := 1) _ _ 6 6 (by decide)).trans <| (fld_append_hi (m := 22) (k := 5) _ _ 5 6 (by decide)).trans <| (fld_append_lo (m := 16) (k := 6) _ _ 0 6 (by decide)).trans <| fld_whole x4,
    (fld_append_hi (m := 28) (k := 4) _ _ 5 5 (by decide)).trans <| (fld_append_hi (m := 27) (k := 1) _ _ 1 5 (by decide)).trans <| (fld_append_lo (m := 22) (k := 5) _ _ 0 5 (by decide)).trans <| fld_whole x5,
    (fld_append_hi (m := 28) (k := 4) _ _ 4 1 (by decide)).trans <| (fld_append_lo (m := 27) (k := 1) _ _ 0 1 (by decide)).trans <| fld_whole x6,
    (fld_append_lo (m := 28) (k := 4) _ _ 0 4 (by decide)).trans <| fld_whole x7⟩

theorem layout_6_2_1_3_7_9_4 (x0 : BitVec 6) (x1 : BitVec 2) (x2 : BitVec 1) (x3 : BitVec 3) (x4 : BitVec 7) (x5 : BitVec 9) (x6 : BitVec 4) :
    fld (x0 ++ x1 ++ x2 ++ x3 ++ x4 ++ x5 ++ x6 : Code) 26 6 = x0 ∧
    fld (x0 ++ x1 ++ x2 ++ x3 ++ x4 ++ x5 ++ x6 : Code) 24 2 = x1 ∧
    fld (x0 ++ x1 ++ x2 ++ x3 ++ x4 ++ x5 ++ x6 : Code) 23 1 = x2 ∧
    fld (x0 ++ x1 ++ x2 ++ x3 ++ x4 ++ x5 ++ x6 : Code) 20 3 = x3 ∧
    fld (x0 ++ x1 ++ x2 ++ x3 ++ x4 ++ x5 ++ x6 : Code) 13 7 = x4 ∧
    fld (x0 ++ x1 ++ x2 ++ x3 ++ x4 ++ x5 ++ x6 : Code) 4 9 = x5 ∧
    fld (x0 ++ x1 ++ x2 ++ x3 ++ x4 ++ x5 ++ x6 : Code) 0 4 = x6 := by
  exact ⟨(fld_append_hi (m := 28) (k := 4) _ _ 26 6 (by decide)).trans <| (fld_append_hi (m := 19) (k := 9) _ _ 22 6 (by decide)).trans <| (fld_append_hi (m := 12) (k := 7) _ _ 13 6 (by decide)).trans <| (fld_append_hi (m := 9) (k := 3) _ _ 6 6 (by decide)).trans <| (fld_append_hi (m := 8) (k := 1) _ _ 3 6 (by decide)).trans <| (fld_append_hi (m := 6) (k := 2) _ _ 2 6 (by decide)).trans <| fld_whole x0,
    (fld_append_hi (m := 28) (k := 4) _ _ 24 2 (by decide)).trans <| (fld_append_hi (m := 19) (k := 9) _ _ 20 2 (by decide)).trans <| (fld_append_hi (m := 12) (k := 7) _ _ 11 2 (by decide)).trans <| (fld_append_hi (m := 9) (k := 3) _ _ 4 2 (by decide)).trans <| (fld_append_hi (m := 8) (k := 1) _ _ 1 2 (by decide)).trans <| (fld_append_lo (m := 6) (k := 2) _ _ 0 2 (by decide)).trans <| fld_whole x1,
    (fld_append_hi (m := 28) (k := 4) _ _ 23 1 (by decide)).trans <| (fld_append_hi (m := 19) (k := 9) _ _ 19 1 (by decide)).trans <| (fld_append_hi (m := 12) (k := 7) _ _ 10 1 (by decide)).trans <| (fld_append_hi (m := 9) (k := 3) _ _ 3 1 (by decide)).trans <| (fld_append_lo (m := 8) (k := 1) _ _ 0 1 (by decide)).trans <| fld_whole x2,
    (fld_append_hi (m := 28) (k := 4) _ _ 20 3 (by decide)).trans <| (fld_append_hi (m := 19) (k := 9) _ _ 16 3 (by decide)).trans <| (fld_append_hi (m := 12) (k := 7) _ _ 7 3 (by decide)).trans <| (fld_append_lo (m := 9) (k := 3) _ _ 0 3 (by decide)).trans <| fld_whole x3,
    (fld_append_hi (m := 28) (k := 4) _ _ 13 7 (by decide)).trans <| (fld_append_hi (m := 19) (k := 9) _ _ 9 7 (by decide)).trans <| (fld_append_lo (m := 12) (k := 7) _ _ 0 7 (by decide)).trans <| fld_whole x4,
    (fld_append_hi (m := 28) (k := 4) _ _ 4 9 (by decide)).trans <| (fld_append_lo (m := 19) (k := 9) _ _ 0 9 (by decide)).trans <| fld_whole x5,
    (fld_append_lo (m := 28) (k := 4) _ _ 0 4 (by decide)).trans <| fld_whole x6⟩

theorem layout_6_3_8_11_4 (x0 : BitVec 6) (x1 : BitVec 3) (x2 : BitVec 8) (x3 : BitVec 11) (x4 : BitVec 4) :
    fld (x0 ++ x1 ++ x2 ++ x3 ++ x4 : Code) 26 6 = x0 ∧
    fld (x0 ++ x1 ++ x2 ++ x3 ++ x4 : Code) 23 3 = x1 ∧
    fld (x0 ++ x1 ++ x2 ++ x3 ++ x4 : Code) 15 8 = x2 ∧
    fld (x0 ++ x1 ++ x2 ++ x3 ++ x4 : Code) 4 11 = x3 ∧
    fld (x0 ++ x1 ++ x2 ++ x3 ++ x4 : Code) 0 4 = x4 := by
  exact ⟨(fld_append_hi (m := 28) (k := 4) _ _ 26 6 (by decide)).trans <| (fld_append_hi (m := 17) (k := 11) _ _ 22 6 (by decide)).trans <| (fld_append_hi (m := 9) (k := 8) _ _ 11 6 (by decide)).trans <| (fld_append_hi (m := 6) (k := 3) _ _ 3 6 (by decide)).trans <| fld_whole x0,
    (fld_append_hi (m := 28) (k := 4) _ _ 23 3 (by decide)).trans <| (fld_append_hi (m := 17) (k := 11) _ _ 19 3 (by decide)).trans <| (fld_append_hi (m := 9) (k := 8) _ _ 8 3 (by decide)).trans <| (fld_append_lo (m := 6) (k := 3) _ _ 0 3 (by decide)).trans <| fld_whole x1,
    (fld_append_hi (m := 28) (k := 4) _ _ 15 8 (by decide)).trans <| (fld_append_hi (m := 17) (k := 11) _ _ 11 8 (by decide)).trans <| (fld_append_lo (m := 9) (k := 8) _ _ 0 8 (by decide)).trans <| fld_whole x2,
    (fld_append_hi (m := 28) (k := 4) _ _ 4 11 (by decide)).trans <| (fld_append_lo (m := 17) (k := 11) _ _ 0 11 (by decide)).trans <| fld_whole x3,
    (fld_append_lo (m := 28) (k := 4) _ _ 0 4 (by decide)).trans <| fld_whole x4⟩

theorem layout_6_3_8_8_2_1_4 (x0 : BitVec 6) (x1 : BitVec 3) (x2 : BitVec 8) (x3 : BitVec 8) (x4 : BitVec 2) (x5 : BitVec 1) (x6 : BitVec 4) :
    fld (x0 ++ x1 ++ x2 ++ x3 ++ x4 ++ x5 ++ x6 : Code) 26 6 = x0 ∧
    fld (x0 ++ x1 ++ x2 ++ x3 ++ x4 ++ x5 ++ x6 : Code) 23 3 = x1 ∧
    fld (x0 ++ x1 ++ x2 ++ x3 ++ x4 ++ x5 ++ x6 : Code) 15 8 = x2 ∧
    fld (x0 ++ x1 ++ x2 ++ x3 ++ x4 ++ x5 ++ x6 : Code) 7 8 = x3 ∧
    fld (x0 ++ x1 ++ x2 ++ x3 ++ x4 ++ x5 ++ x6 : Code) 5 2 = x4 ∧
    fld (x0 ++ x1 ++ x2 ++ x3 ++ x4 ++ x5 ++ x6 : Code) 4 1 = x5 ∧
    fld (x0 ++ x1 ++ x2 ++ x3 ++ x4 ++ x5 ++ x6 : Code) 0 4 = x6 := by
  exact ⟨(fld_append_hi (m := 28) (k := 4) _ _ 26 6 (by decide)).trans <| (fld_append_hi (m := 27) (k := 1) _ _ 22 6 (by decide)).trans <| (fld_append_hi (m := 25) (k := 2) _ _ 21 6 (by decide)).trans <| (fld_append_hi (m := 17) (k := 8) _ _ 19 6 (by decide)).trans <| (fld_append_hi (m := 9) (k := 8) _ _ 11 6 (by decide)).trans <| (fld_append_hi (m := 6) (k := 3) _ _ 3 6 (by decide)).trans <| fld_whole x0,
    (fld_append_hi (m := 28) (k := 4) _ _ 23 3 (by decide)).trans <| (fld_append_hi (m := 27) (k := 1) _ _ 19 3 (by decide)).trans <| (fld_append_hi (m := 25) (k := 2) _ _ 18 3 (by decide)).trans <| (fld_append_hi (m := 17) (k := 8) _ _ 16 3 (by decide)).trans <| (fld_append_hi (m := 9) (k := 8) _ _ 8 3 (by decide)).trans <| (fld_append_lo (m := 6) (k := 3) _ _ 0 3 (by decide)).trans <| fld_whole x1,
    (fld_append_hi (m := 28) (k := 4) _ _ 15 8 (by decide)).trans <| (fld_append_hi (m := 27) (k := 1) _ _ 11 8 (by decide)).trans <| (fld_append_hi (m := 25) (k := 2) _ _ 10 8 (by decide)).trans <| (fld_append_hi (m := 17) (k := 8) _ _ 8 8 (by decide)).trans <| (fld_append_lo (m := 9) (k := 8) _ _ 0 8 (by decide)).trans <| fld_whole x2,
    (fld_append_hi (m := 28) (k := 4) _ _ 7 8 (by decide)).trans <| (fld_append_hi (m := 27) (k := 1) _ _ 3 8 (by decide)).trans <| (fld_append_hi (m := 25) (k := 2) _ _ 2 8 (by decide)).trans <| (fld_append_lo (m := 17) (k := 8) _ _ 0 8 (by decide)).trans <| fld_whole x3,
    (fld_append_hi (m := 28) (k := 4) _ _ 5 2 (by decide)).trans <| (fld_append_hi (m := 27) (k := 1) _ _ 1 2 (by decide)).trans <| (fld_append_lo (m := 25) (k := 2) _ _ 0 2 (by decide)).trans <| fld_whole x4,
    (fld_append_hi (m := 28) (k := 4) _ _ 4 1 (by decide)).trans <| (fld_append_lo (m := 27) (k := 1) _ _ 0 1 (by decide)).trans <| fld_whole x5,
    (fld_append_lo (m := 28) (k := 4) _ _ 0 4 (by decide)).trans <| fld_whole x6⟩

theorem layout_6_3_8_8_1_2_4 (x0 : BitVec 6) (x1 : BitVec 3) (x2 : BitVec 8) (x3 : BitVec 8) (x4 : BitVec 1) (x5 : BitVec 2) (x6 : BitVec 4) :
    fld (x0 ++ x1 ++ x2 ++ x3 ++ x4 ++ x5 ++ x6 : Code) 26 6 = x0 ∧
    fld (x0 ++ x1 ++ x2 ++ x3 ++ x4 ++ x5 ++ x6 : Code) 23 3 = x1 ∧
    fld (x0 ++ x1 ++ x2 ++ x3 ++ x4 ++ x5 ++ x6 : Code) 15 8 = x2 ∧
    fld (x0 ++ x1 ++ x2 ++ x3 ++ x4 ++ x5 ++ x6 : Code) 7 8 = x3 ∧
    fld (x0 ++ x1 ++ x2 ++ x3 ++ x4 ++ x5 ++ x6 : Code) 6 1 = x4 ∧
    fld (x0 ++ x1 ++ x2 ++ x3 ++ x4 ++ x5 ++ x6 : Code) 4 2 = x5 ∧
    fld (x0 ++ x1 ++ x2 ++ x3 ++ x4 ++ x5 ++ x6 : Code) 0 4 = x6 := by
  exact ⟨(fld_append_hi (m := 28) (k := 4) _ _ 26 6 (by decide)).trans <| (fld_append_hi (m := 26) (k := 2) _ _ 22 6 (by decide)).trans <| (fld_append_hi (m := 25) (k := 1) _ _ 20 6 (by decide)).trans <| (fld_append_hi (m := 17) (k := 8) _ _ 19 6 (by decide)).trans <| (fld_append_hi (m := 9) (k := 8) _ _ 11 6 (by decide)).trans <| (fld_append_hi (m := 6) (k := 3) _ _ 3 6 (by decide)).trans <| fld_whole x0,
    (fld_append_hi (m := 28) (k := 4) _ _ 23 3 (by decide)).trans <| (fld_append_hi (m := 26) (k := 2) _ _ 19 3 (by decide)).trans <| (fld_append_hi (m := 25) (k := 1) _ _ 17 3 (by decide)).trans <| (fld_append_hi (m := 17) (k := 8) _ _ 16 3 (by decide)).trans <| (fld_append_hi (m := 9) (k := 8) _ _ 8 3 (by decide)).trans <| (fld_append_lo (m := 6) (k := 3) _ _ 0 3 (by decide)).trans <| fld_whole x1,
    (fld_append_hi (m := 28) (k := 4) _ _ 15 8 (by decide)).trans <| (fld_append_hi (m := 26) (k := 2) _ _ 11 8 (by decide)).trans <| (fld_append_hi (m := 25) (k := 1) _ _ 9 8 (by decide)).trans <| (fld_append_hi (m := 17) (k := 8) _ _ 8 8 (by decide)).trans <| (fld_append_lo (m := 9) (k := 8) _ _ 0 8 (by decide)).trans <| fld_whole x2,
    (fld_append_hi (m := 28) (k := 4) _ _ 7 8 (by decide)).trans <| (fld_append_hi (m := 26) (k := 2) _ _ 3 8 (by decide)).trans <| (fld_append_hi (m := 25) (k := 1) _ _ 1 8 (by decide)).trans <| (fld_append_lo (m := 17) (k := 8) _ _ 0 8 (by decide)).trans <| fld_whole x3,
    (fld_append_hi (m := 28) (k := 4) _ _ 6 1 (by decide)).trans <| (fld_append_hi (m := 26) (k := 2) _ _ 2 1 (by decide)).trans <| (fld_append_lo (m := 25) (k := 1) _ _ 0 1 (by decide)).trans <| fld_whole x4,
    (fld_append_hi (m := 28) (k := 4) _ _ 4 2 (by decide)).trans <| (fld_append_lo (m := 26) (k := 2) _ _ 0 2 (by decide)).trans <| fld_whole x5,
    (fld_append_lo (m := 28) (k := 4) _ _ 0 4 (by decide)).trans <| fld_whole x6⟩

theorem layout_6_11_8_3_4 (x0 : BitVec 6) (x1 : BitVec 11) (x2 : BitVec 8) (x3 : BitVec 3) (x4 : BitVec 4) :
    fld (x0 ++ x1 ++ x2 ++ x3 ++ x4 : Code) 26 6 = x0 ∧
    fld (x0 ++ x1 ++ x2 ++ x3 ++ x4 : Code) 15 11 = x1 ∧
    fld (x0 ++ x1 ++ x2 ++ x3 ++ x4 : Code) 7 8 = x2 ∧
    fld (x0 ++ x1 ++ x2 ++ x3 ++ x4 : Code) 4 3 = x3 ∧
    fld (x0 ++ x1 ++ x2 ++ x3 ++ x4 : Code) 0 4 = x4 := by
  exact ⟨(fld_append_hi (m := 28) (k := 4) _ _ 26 6 (by decide)).trans <| (fld_append_hi (m := 25) (k := 3) _ _ 22 6 (by decide)).trans <| (fld_append_hi (m := 17) (k := 8) _ _ 19 6 (by decide)).trans <| (fld_append_hi (m := 6) (k := 11) _ _ 11 6 (by decide)).trans <| fld_whole x0,
    (fld_append_hi (m := 28) (k := 4) _ _ 15 11 (by decide)).trans <| (fld_append_hi (m := 25) (k := 3) _ _ 11 11 (by decide)).trans <| (fld_append_hi (m := 17) (k := 8) _ _ 8 11 (by decide)).trans <| (fld_append_lo (m := 6) (k := 11) _ _ 0 11 (by decide)).trans <| fld_whole x1,
    (fld_append_hi (m := 28) (k := 4) _ _ 7 8 (by decide)).trans <| (fld_append_hi (m := 25) (k := 3) _ _ 3 8 (by decide)).trans <| (fld_append_lo (m := 17) (k := 8) _ _ 0 8 (by decide)).trans <| fld_whole x2,
    (fld_append_hi (m := 28) (k := 4) _ _ 4 3 (by decide)).trans <| (fld_append_lo (m := 25) (k := 3) _ _ 0 3 (by decide)).trans <| fld_whole x3,
    (fld_append_lo (m := 28) (k := 4) _ _ 0 4 (by decide)).trans <| fld_whole x4⟩

theorem layout_6_3_4_4_5_3_3_4 (x0 : BitVec 6) (x1 : BitVec 3) (x2 : BitVec 4) (x3 : BitVec 4) (x4 : BitVec 5) (x5 : BitVec 3) (x6 : BitVec 3) (x7 : BitVec 4) :
    fld (x0 ++ x1 ++ x2 ++ x3 ++ x4 ++ x5 ++ x6 ++ x7 : Code) 26 6 = x0 ∧
    fld (x0 ++ x1 ++ x2 ++ x3 ++ x4 ++ x5 ++ x6 ++ x7 : Code) 23 3 = x1 ∧
    fld (x0 ++ x1 ++ x2 ++ x3 ++ x4 ++ x5 ++ x6 ++ x7 : Code) 19 4 = x2 ∧
    fld (x0 ++ x1 ++ x2 ++ x3 ++ x4 ++ x5 ++ x6 ++ x7 : Code) 15 4 = x3 ∧
    fld (x0 ++ x1 ++ x2 ++ x3 ++ x4 ++ x5 ++ x6 ++ x7 : Code) 10 5 = x4 ∧
    fld (x0 ++ x1 ++ x2 ++ x3 ++ x4 ++ x5 ++ x6 ++ x7 : Code) 7 3 = x5 ∧
    fld (x0 ++ x1 ++ x2 ++ x3 ++ x4 ++ x5 ++ x6 ++ x7 : Code) 4 3 = x6 ∧
    fld (x0 ++ x1 ++ x2 ++ x3 ++ x4 ++ x5 ++ x6 ++ x7 : Code) 0 4 = x7 := by
  exact ⟨(fld_append_hi (m := 28) (k := 4) _ _ 26 6 (by decide)).trans <| (fld_append_hi (m := 25) (k := 3) _ _ 22 6 (by decide)).trans <| (fld_append_hi (m := 22) (k := 3) _ _ 19 6 (by decide)).trans <| (fld_append_hi (m := 17) (k := 5) _ _ 16 6 (by decide)).trans <| (fld_append_hi (m := 13) (k := 4) _ _ 11 6 (by decide)).trans <| (fld_append_hi (m := 9) (k := 4) _ _ 7 6 (by decide)).trans <| (fld_append_hi (m := 6) (k := 3) _ _ 3 6 (by decide)).trans <| fld_whole x0,
    (fld_append_hi (m := 28) (k := 4) _ _ 23 3 (by decide)).trans <| (fld_append_hi (m := 25) (k := 3) _ _ 19 3 (by decide)).trans <| (fld_append_hi (m := 22) (k := 3) _ _ 16 3 (by decide)).trans <| (fld_append_hi (m := 17) (k := 5) _ _ 13 3 (by decide)).trans <| (fld_append_hi (m := 13) (k := 4) _ _ 8 3 (by decide)).trans <| (fld_append_hi (m := 9) (k := 4) _ _ 4 3 (by decide)).trans <| (fld_append_lo (m := 6) (k := 3) _ _ 0 3 (by decide)).trans <| fld_whole x1,
    (fld_append_hi (m := 28) (k := 4) _ _ 19 4 (by decide)).trans <| (fld_append_hi (m := 25) (k := 3) _ _ 15 4 (by decide)).trans <| (fld_append_hi (m := 22) (k := 3) _ _ 12 4 (by decide)).trans <| (fld_append_hi (m := 17) (k := 5) _ _ 9 4 (by decide)).trans <| (fld_append_hi (m := 13) (k := 4) _ _ 4 4 (by decide)).trans <| (fld_append_lo (m := 9) (k := 4) _ _ 0 4 (by decide)).trans <| fld_whole x2,
    (fld_append_hi (m := 28) (k := 4) _ _ 15 4 (by decide)).trans <| (fld_append_hi (m := 25) (k := 3) _ _ 11 4 (by decide)).trans <| (fld_append_hi (m := 22) (k := 3) _ _ 8 4 (by decide)).trans <| (fld_append_hi (m := 17) (k := 5) _ _ 5 4 (by decide)).trans <| (fld_append_lo (m := 13) (k := 4) _ _ 0 4 (by decide)).trans <| fld_whole x3,
    (fld_append_hi (m := 28) (k := 4) _ _ 10 5 (by decide)).trans <| (fld_append_hi (m := 25) (k := 3) _ _ 6 5 (by decide)).trans <| (fld_append_hi (m := 22) (k := 3) _ _ 3 5 (by decide)).trans <| (fld_append_lo (m := 17) (k := 5) _ _ 0 5 (by decide)).trans <| fld_whole x4,
    (fld_append_hi (m := 28) (k := 4) _ _ 7 3 (by decide)).trans <| (fld_append_hi (m := 25) (k := 3) _ _ 3 3 (by decide)).trans <| (fld_append_lo (m := 22) (k := 3) _ _ 0 3 (by decide)).trans <| fld_whole x5,
    (fld_append_hi (m := 28) (k := 4) _ _ 4 3 (by decide)).trans <| (fld_append_lo (m := 25) (k := 3) _ _ 0 3 (by decide)).trans <| fld_whole x6,
    (fld_append_lo (m := 28) (k := 4) _ _ 0 4 (by decide)).trans <| fld_whole x7⟩

theorem layout_6_9_2_11_4 (x0 : BitVec 6) (x1 : BitVec 9) (x2 : BitVec 2) (x3 : BitVec 11) (x4 : BitVec 4) :
    fld (x0 ++ x1 ++ x2 ++ x3 ++ x4 : Code) 26 6 = x0 ∧
    fld (x0 ++ x1 ++ x2 ++ x3 ++ x4 : Code) 17 9 = x1 ∧
    fld (x0 ++ x1 ++ x2 ++ x3 ++ x4 : Code) 15 2 = x2 ∧
    fld (x0 ++ x1 ++ x2 ++ x3 ++ x4 : Code) 4 11 = x3 ∧
    fld (x0 ++ x1 ++ x2 ++ x3 ++ x4 : Code) 0 4 = x4 := by
  exact ⟨(fld_append_hi (m := 28) (k := 4) _ _ 26 6 (by decide)).trans <| (fld_append_hi (m := 17) (k := 11) _ _ 22 6 (by decide)).trans <| (fld_append_hi (m := 15) (k := 2) _ _ 11 6 (by decide)).trans <| (fld_append_hi (m := 6) (k := 9) _ _ 9 6 (by decide)).trans <| fld_whole x0,
    (fld_append_hi (m := 28) (k := 4) _ _ 17 9 (by decide)).trans <| (fld_append_hi (m := 17) (k := 11) _ _ 13 9 (by decide)).trans <| (fld_append_hi (m := 15) (k := 2) _ _ 2 9 (by decide)).trans <| (fld_append_lo (m := 6) (k := 9) _ _ 0 9 (by decide)).trans <| fld_whole x1,
    (fld_append_hi (m := 28) (k := 4) _ _ 15 2 (by decide)).trans <| (fld_append_hi (m := 17) (k := 11) _ _ 11 2 (by decide)).trans <| (fld_append_lo (m := 15) (k := 2) _ _ 0 2 (by decide)).trans <| fld_whole x2,
    (fld_append_hi (m := 28) (k := 4) _ _ 4 11 (by decide)).trans <| (fld_append_lo (m := 17) (k := 11) _ _ 0 11 (by decide)).trans <| fld_whole x3,
    (fld_append_lo (m := 28) (k := 4) _ _ 0 4 (by decide)).trans <| fld_whole x4⟩

theorem layout_6_3_4_4_8_1_1_1_4 (x0 : BitVec 6) (x1 : BitVec 3) (x2 : BitVec 4) (x3 : BitVec 4) (x4 : BitVec 8) (x5 : BitVec 1) (x6 : BitVec 1) (x7 : BitVec 1) (x8 : BitVec 4) :
    fld (x0 ++ x1 ++ x2 ++ x3 ++ x4 ++ x5 ++ x6 ++ x7 ++ x8 : Code) 26 6 = x0 ∧
    fld (x0 ++ x1 ++ x2 ++ x3 ++ x4 ++ x5 ++ x6 ++ x7 ++ x8 : Code) 23 3 = x1 ∧
    fld (x0 ++ x1 ++ x2 ++ x3 ++ x4 ++ x5 ++ x6 ++ x7 ++ x8 : Code) 19 4 = x2 ∧
    fld (x0 ++ x1 ++ x2 ++ x3 ++ x4 ++ x5 ++ x6 ++ x7 ++ x8 : Code) 15 4 = x3 ∧
    fld (x0 ++ x1 ++ x2 ++ x3 ++ x4 ++ x5 ++ x6 ++ x7 ++ x8 : Code) 7 8 = x4 ∧
    fld (x0 ++ x1 ++ x2 ++ x3 ++ x4 ++ x5 ++ x6 ++ x7 ++ x8 : Code) 6 1 = x5 ∧
    fld (x0 ++ x1 ++ x2 ++ x3 ++ x4 ++ x5 ++ x6 ++ x7 ++ x8 : Code) 5 1 = x6 ∧
    fld (x0 ++ x1 ++ x2 ++ x3 ++ x4 ++ x5 ++ x6 ++ x7 ++ x8 : Code) 4 1 = x7 ∧
    fld (x0 ++ x1 ++ x2 ++ x3 ++ x4 ++ x5 ++ x6 ++ x7 ++ x8 : Code) 0 4 = x8 := by
  exact ⟨(fld_append_hi (m := 28) (k := 4) _ _ 26 6 (by decide)).trans <| (fld_append_hi (m := 27) (k := 1) _ _ 22 6 (by decide)).trans <| (fld_append_hi (m := 26) (k := 1) _ _ 21 6 (by decide)).trans <| (fld_append_hi (m := 25) (k := 1) _ _ 20 6 (by decide)).trans <| (fld_append_hi (m := 17) (k := 8) _ _ 19 6 (by decide)).trans <| (fld_append_hi (m := 13) (k := 4) _ _ 11 6 (by decide)).trans <| (fld_append_hi (m := 9) (k := 4) _ _ 7 6 (by decide)).trans <| (fld_append_hi (m := 6) (k := 3) _ _ 3 6 (by decide)).trans <| fld_whole x0,
    (fld_append_hi (m := 28) (k := 4) _ _ 23 3 (by decide)).trans <| (fld_append_hi (m := 27) (k := 1) _ _ 19 3 (by decide)).trans <| (fld_append_hi (m := 26) (k := 1) _ _ 18 3 (by decide)).trans <| (fld_append_hi (m := 25) (k := 1) _ _ 17 3 (by decide)).trans <| (fld_append_hi (m := 17) (k := 8) _ _ 16 3 (by decide)).trans <| (fld_append_hi (m := 13) (k := 4) _ _ 8 3 (by decide)).trans <| (fld_append_hi (m := 9) (k := 4) _ _ 4 3 (by decide)).trans <| (fld_append_lo (m := 6) (k := 3) _ _ 0 3 (by decide)).trans <| fld_whole x1,
    (fld_append_hi (m := 28) (k := 4) _ _ 19 4 (by decide)).trans <| (fld_append_hi (m := 27) (k := 1) _ _ 15 4 (by decide)).trans <| (fld_append_hi (m := 26) (k := 1) _ _ 14 4 (by decide)).trans <| (fld_append_hi (m := 25) (k := 1) _ _ 13 4 (by decide)).trans <| (fld_append_hi (m := 17) (k := 8) _ _ 12 4 (by decide)).trans <| (fld_append_hi (m := 13) (k := 4) _ _ 4 4 (by decide)).trans <| (fld_append_lo (m := 9) (k := 4) _ _ 0 4 (by decide)).trans <| fld_whole x2,
    (fld_append_hi (m := 28) (k := 4) _ _ 15 4 (by decide)).trans <| (fld_append_hi (m := 27) (k := 1) _ _ 11 4 (by decide)).trans <| (fld_append_hi (m := 26) (k := 1) _ _ 10 4 (by decide)).trans <| (fld_append_hi (m := 25) (k := 1) _ _ 9 4 (by decide)).trans <| (fld_append_hi (m := 17) (k := 8) _ _ 8 4 (by decide)).trans <| (fld_append_lo (m := 13) (k := 4) _ _ 0 4 (by decide)).trans <| fld_whole x3,
    (fld_append_hi (m := 28) (k := 4) _ _ 7 8 (by decide)).trans <| (fld_append_hi (m := 27) (k := 1) _ _ 3 8 (by decide)).trans <| (fld_append_hi (m := 26) (k := 1) _ _ 2 8 (by decide)).trans <| (fld_append_hi (m := 25) (k := 1) _ _ 1 8 (by decide)).trans <| (fld_append_lo (m := 17) (k := 8) _ _ 0 8 (by decide)).trans <| fld_whole x4,
    (fld_append_hi (m := 28) (k := 4) _ _ 6 1 (by decide)).trans <| (fld_append_hi (m := 27) (k := 1) _ _ 2 1 (by decide)).trans <| (fld_append_hi (m := 26) (k := 1) _ _ 1 1 (by decide)).trans <| (fld_append_lo (m := 25) (k := 1) _ _ 0 1 (by decide)).trans <| fld_whole x5,
    (fld_append_hi (m := 28) (k := 4) _ _ 5 1 (by decide)).trans <| (fld_append_hi (m := 27) (k := 1) _ _ 1 1 (by decide)).trans <| (fld_append_lo (m := 26) (k := 1) _ _ 0 1 (by decide)).trans <| fld_whole x6,
    (fld_append_hi (m := 28) (k := 4) _ _ 4 1 (by decide)).trans <| (fld_append_lo (m := 27) (k := 1) _ _ 0 1 (by decide)).trans <| fld_whole x7,
    (fld_append_lo (m := 28) (k := 4) _ _ 0 4 (by decide)).trans <| fld_whole x8⟩

theorem layout_6_3_19_4 (x0 : BitVec 6) (x1 : BitVec 3) (x2 : BitVec 19) (x3 : BitVec 4) :
    fld (x0 ++ x1 ++ x2 ++ x3 : Code) 26 6 = x0 ∧
    fld (x0 ++ x1 ++ x2 ++ x3 : Code) 23 3 = x1 ∧
    fld (x0 ++ x1 ++ x2 ++ x3 : Code) 4 19 = x2 ∧
    fld (x0 ++ x1 ++ x2 ++ x3 : Code) 0 4 = x3 := by
  exact ⟨(fld_append_hi (m := 28) (k := 4) _ _ 26 6 (by decide)).trans <| (fld_append_hi (m := 9) (k := 19) _ _ 22 6 (by decide)).trans <| (fld_append_hi (m := 6) (k := 3) _ _ 3 6 (by decide)).trans <| fld_whole x0,
    (fld_append_hi (m := 28) (k := 4) _ _ 23 3 (by decide)).trans <| (fld_append_hi (m := 9) (k := 19) _ _ 19 3 (by decide)).trans <| (fld_append_lo (m := 6) (k := 3) _ _ 0 3 (by decide)).trans <| fld_whole x1,
    (fld_append_hi (m := 28) (k := 4) _ _ 4 19 (by decide)).trans <| (fld_append_lo (m := 9) (k := 19) _ _ 0 19 (by decide)).trans <| fld_whole x2,
    (fld_append_lo (m := 28) (k := 4) _ _ 0 4 (by decide)).trans <| fld_whole x3⟩

theorem layout_6_3_7_1_8_3_4 (x0 : BitVec 6) (x1 : BitVec 3) (x2 : BitVec 7) (x3 : BitVec 1) (x4 : BitVec 8) (x5 : BitVec 3) (x6 : BitVec 4) :
    fld (x0 ++ x1 ++ x2 ++ x3 ++ x4 ++ x5 ++ x6 : Code) 26 6 = x0 ∧
    fld (x0 ++ x1 ++ x2 ++ x3 ++ x4 ++ x5 ++ x6 : Code) 23 3 = x1 ∧
    fld (x0 ++ x1 ++ x2 ++ x3 ++ x4 ++ x5 ++ x6 : Code) 16 7 = x2 ∧
    fld (x0 ++ x1 ++ x2 ++ x3 ++ x4 ++ x5 ++ x6 : Code) 15 1 = x3 ∧
    fld (x0 ++ x1 ++ x2 ++ x3 ++ x4 ++ x5 ++ x6 : Code) 7 8 = x4 ∧
    fld (x0 ++ x1 ++ x2 ++ x3 ++ x4 ++ x5 ++ x6 : Code) 4 3 = x5 ∧
    fld (x0 ++ x1 ++ x2 ++ x3 ++ x4 ++ x5 ++ x6 : Code) 0 4 = x6 := by
  exact ⟨(fld_append_hi (m := 28) (k := 4) _ _ 26 6 (by decide)).trans <| (fld_append_hi (m := 25) (k := 3) _ _ 22 6 (by decide)).trans <| (fld_append_hi (m := 17) (k := 8) _ _ 19 6 (by decide)).trans <| (fld_append_hi (m := 16) (k := 1) _ _ 11 6 (by decide)).trans <| (fld_append_hi (m := 9) (k := 7) _ _ 10 6 (by decide)).trans <| (fld_append_hi (m := 6) (k := 3) _ _ 3 6 (by decide)).trans <| fld_whole x0,
    (fld_append_hi (m := 28) (k := 4) _ _ 23 3 (by decide)).trans <| (fld_append_hi (m := 25) (k := 3) _ _ 19 3 (by decide)).trans <| (fld_append_hi (m := 17) (k := 8) _ _ 16 3 (by decide)).trans <| (fld_append_hi (m := 16) (k := 1) _ _ 8 3 (by decide)).trans <| (fld_append_hi (m := 9) (k := 7) _ _ 7 3 (by decide)).trans <| (fld_append_lo (m := 6) (k := 3) _ _ 0 3 (by decide)).trans <| fld_whole x1,
    (fld_append_hi (m := 28) (k := 4) _ _ 16 7 (by decide)).trans <| (fld_append_hi (m := 25) (k := 3) _ _ 12 7 (by decide)).trans <| (fld_append_hi (m := 17) (k := 8) _ _ 9 7 (by decide)).trans <| (fld_append_hi (m := 16) (k := 1) _ _ 1 7 (by decide)).trans <| (fld_append_lo (m := 9) (k := 7) _ _ 0 7 (by decide)).trans <| fld_whole x2,
    (fld_append_hi (m := 28) (k := 4) _ _ 15 1 (by decide)).trans <| (fld_append_hi (m := 25) (k := 3) _ _ 11 1 (by decide)).trans <| (fld_append_hi (m := 17) (k := 8) _ _ 8 1 (by decide)).trans <| (fld_append_lo (m := 16) (k := 1) _ _ 0 1 (by decide)).trans <| fld_whole x3,
    (fld_append_hi (m := 28) (k := 4) _ _ 7 8 (by decide)).trans <| (fld_append_hi (m := 25) (k := 3) _ _ 3 8 (by decide)).trans <| (fld_append_lo (m := 17) (k := 8) _ _ 0 8 (by decide)).trans <| fld_whole x4,
    (fld_append_hi (m := 28) (k := 4) _ _ 4 3 (by decide)).trans <| (fld_append_lo (m := 25) (k := 3) _ _ 0 3 (by decide)).trans <| fld_whole x5,
    (fld_append_lo (m := 28) (k := 4) _ _ 0 4 (by decide)).trans <| fld_whole x6⟩

theorem layout_6_10_1_8_3_4 (x0 : BitVec 6) (x1 : BitVec 10) (x2 : BitVec 1) (x3 : BitVec 8) (x4 : BitVec 3) (x5 : BitVec 4) :
    fld (x0 ++ x1 ++ x2 ++ x3 ++ x4 ++ x5 : Code) 26 6 = x0 ∧
    fld (x0 ++ x1 ++ x2 ++ x3 ++ x4 ++ x5 : Code) 16 10 = x1 ∧
    fld (x0 ++ x1 ++ x2 ++ x3 ++ x4 ++ x5 : Code) 15 1 = x2 ∧
    fld (x0 ++ x1 ++ x2 ++ x3 ++ x4 ++ x5 : Code) 7 8 = x3 ∧
    fld (x0 ++ x1 ++ x2 ++ x3 ++ x4 ++ x5 : Code) 4 3 = x4 ∧
    fld (x0 ++ x1 ++ x2 ++ x3 ++ x4 ++ x5 : Code) 0 4 = x5 := by
  exact ⟨(fld_append_hi (m := 28) (k := 4) _ _ 26 6 (by decide)).trans <| (fld_append_hi (m := 25) (k := 3) _ _ 22 6 (by decide)).trans <| (fld_append_hi (m := 17) (k := 8) _ _ 19 6 (by decide)).trans <| (fld_append_hi (m := 16) (k := 1) _ _ 11 6 (by decide)).trans <| (fld_append_hi (m := 6) (k := 10) _ _ 10 6 (by decide)).trans <| fld_whole x0,
    (fld_append_hi (m := 28) (k := 4) _ _ 16 10 (by decide)).trans <| (fld_append_hi (m := 25) (k := 3) _ _ 12 10 (by decide)).trans <| (fld_append_hi (m := 17) (k := 8) _ _ 9 10 (by decide)).trans <| (fld_append_hi (m := 16) (k := 1) _ _ 1 10 (by decide)).trans <| (fld_append_lo (m := 6) (k := 10) _ _ 0 10 (by decide)).trans <| fld_whole x1,
    (fld_append_hi (m := 28) (k := 4) _ _ 15 1 (by decide)).trans <| (fld_append_hi (m := 25) (k := 3) _ _ 11 1 (by decide)).trans <| (fld_append_hi (m := 17) (k := 8) _ _ 8 1 (by decide)).trans <| (fld_append_lo (m := 16) (k := 1) _ _ 0 1 (by decide)).trans <| fld_whole x2,
    (fld_append_hi (m := 28) (k := 4) _ _ 7 8 (by decide)).trans <| (fld_append_hi (m := 25) (k := 3) _ _ 3 8 (by decide)).trans <| (fld_append_lo (m := 17) (k := 8) _ _ 0 8 (by decide)).trans <| fld_whole x3,
    (fld_append_hi (m := 28) (k := 4) _ _ 4 3 (by decide)).trans <| (fld_append_lo (m := 25) (k := 3) _ _ 0 3 (by decide)).trans <| fld_whole x4,
    (fld_append_lo (m := 28) (k := 4) _ _ 0 4 (by decide)).trans <| fld_whole x5⟩

theorem layout_6_11_8_2_1_4 (x0 : BitVec 6) (x1 : BitVec 11) (x2 : BitVec 8) (x3 : BitVec 2) (x4 : BitVec 1) (x5 : BitVec 4) :
    fld (x0 ++ x1 ++ x2 ++ x3 ++ x4 ++ x5 : Code) 26 6 = x0 ∧
    fld (x0 ++ x1 ++ x2 ++ x3 ++ x4 ++ x5 : Code) 15 11 = x1 ∧
    fld (x0 ++ x1 ++ x2 ++ x3 ++ x4 ++ x5 : Code) 7 8 = x2 ∧
    fld (x0 ++ x1 ++ x2 ++ x3 ++ x4 ++ x5 : Code) 5 2 = x3 ∧
    fld (x0 ++ x1 ++ x2 ++ x3 ++ x4 ++ x5 : Code) 4 1 = x4 ∧
    fld (x0 ++ x1 ++ x2 ++ x3 ++ x4 ++ x5 : Code) 0 4 = x5 := by
  exact ⟨(fld_append_hi (m := 28) (k := 4) _ _ 26 6 (by decide)).trans <| (fld_append_hi (m := 27) (k := 1) _ _ 22 6 (by decide)).trans <| (fld_append_hi (m := 25) (k := 2) _ _ 21 6 (by decide)).trans <| (fld_append_hi (m := 17) (k := 8) _ _ 19 6 (by decide)).trans <| (fld_append_hi (m := 6) (k := 11) _ _ 11 6 (by decide)).trans <| fld_whole x0,
    (fld_append_hi (m := 28) (k := 4) _ _ 15 11 (by decide)).trans <| (fld_append_hi (m := 27) (k := 1) _ _ 11 11 (by decide)).trans <| (fld_append_hi (m := 25) (k := 2) _ _ 10 11 (by decide)).trans <| (fld_append_hi (m := 17) (k := 8) _ _ 8 11 (by decide)).trans <| (fld_append_lo (m := 6) (k := 11) _ _ 0 11 (by decide)).trans <| fld_whole x1,
    (fld_append_hi (m := 28) (k := 4) _ _ 7 8 (by decide)).trans <| (fld_append_hi (m := 27) (k := 1) _ _ 3 8 (by decide)).trans <| (fld_append_hi (m := 25) (k := 2) _ _ 2 8 (by decide)).trans <| (fld_append_lo (m := 17) (k := 8) _ _ 0 8 (by decide)).trans <| fld_whole x2,
    (fld_append_hi (m := 28) (k := 4) _ _ 5 2 (by decide)).trans <| (fld_append_hi (m := 27) (k := 1) _ _ 1 2 (by decide)).trans <| (fld_append_lo (m := 25) (k := 2) _ _ 0 2 (by decide)).trans <| fld_whole x3,
    (fld_append_hi (m := 28) (k := 4) _ _ 4 1 (by decide)).trans <| (fld_append_lo (m := 27) (k := 1) _ _ 0 1 (by decide)).trans <| fld_whole x4,
    (fld_append_lo (m := 28) (k := 4) _ _ 0 4 (by decide)).trans <| fld_whole x5⟩

theorem layout_6_3_17_1_1_4 (x0 : BitVec 6) (x1 : BitVec 3) (x2 : BitVec 17) (x3 : BitVec 1) (x4 : BitVec 1) (x5 : BitVec 4) :
    fld (x0 ++ x1 ++ x2 ++ x3 ++ x4 ++ x5 : Code) 26 6 = x0 ∧
    fld (x0 ++ x1 ++ x2 ++ x3 ++ x4 ++ x5 : Code) 23 3 = x1 ∧
    fld (x0 ++ x1 ++ x2 ++ x3 ++ x4 ++ x5 : Code) 6 17 = x2 ∧
    fld (x0 ++ x1 ++ x2 ++ x3 ++ x4 ++ x5 : Code) 5 1 = x3 ∧
    fld (x0 ++ x1 ++ x2 ++ x3 ++ x4 ++ x5 : Code) 4 1 = x4 ∧
    fld (x0 ++ x1 ++ x2 ++ x3 ++ x4 ++ x5 : Code) 0 4 = x5 := by
  exact ⟨(fld_append_hi (m := 28) (k := 4) _ _ 26 6 (by decide)).trans <| (fld_append_hi (m := 27) (k := 1) _ _ 22 6 (by decide)).trans <| (fld_append_hi (m := 26) (k := 1) _ _ 21 6 (by decide)).trans <| (fld_append_hi (m := 9) (k := 17) _ _ 20 6 (by decide)).trans <| (fld_append_hi (m := 6) (k := 3) _ _ 3 6 (by decide)).trans <| fld_whole x0,
    (fld_append_hi (m := 28) (k := 4) _ _ 23 3 (by decide)).trans <| (fld_append_hi (m := 27) (k := 1) _ _ 19 3 (by decide)).trans <| (fld_append_hi (m := 26) (k := 1) _ _ 18 3 (by decide)).trans <| (fld_append_hi (m := 9) (k := 17) _ _ 17 3 (by decide)).trans <| (fld_append_lo (m := 6) (k := 3) _ _ 0 3 (by decide)).trans <| fld_whole x1,
    (fld_append_hi (m := 28) (k := 4) _ _ 6 17 (by decide)).trans <| (fld_append_hi (m := 27) (k := 1) _ _ 2 17 (by decide)).trans <| (fld_append_hi (m := 26) (k := 1) _ _ 1 17 (by decide)).trans <| (fld_append_lo (m := 9) (k := 17) _ _ 0 17 (by decide)).trans <| fld_whole x2,
    (fld_append_hi (m := 28) (k := 4) _ _ 5 1 (by decide)).trans <| (fld_append_hi (m := 27) (k := 1) _ _ 1 1 (by decide)).trans <| (fld_append_lo (m := 26) (k := 1) _ _ 0 1 (by decide)).trans <| fld_whole x3,
    (fld_append_hi (m := 28) (k := 4) _ _ 4 1 (by decide)).trans <| (fld_append_lo (m := 27) (k := 1) _ _ 0 1 (by decide)).trans <| fld_whole x4,
    (fld_append_lo (m := 28) (k := 4) _ _ 0 4 (by decide)).trans <| fld_whole x5⟩

theorem layout_6_21_1_4 (x0 : BitVec 6) (x1 : BitVec 21) (x2 : BitVec 1) (x3 : BitVec 4) :
    fld (x0 ++ x1 ++ x2 ++ x3 : Code) 26 6 = x0 ∧
    fld (x0 ++ x1 ++ x2 ++ x3 : Code) 5 21 = x1 ∧
    fld (x0 ++ x1 ++ x2 ++ x3 : Code) 4 1 = x2 ∧
    fld (x0 ++ x1 ++ x2 ++ x3 : Code) 0 4 = x3 := by
  exact ⟨(fld_append_hi (m := 28) (k := 4) _ _ 26 6 (by decide)).trans <| (fld_append_hi (m := 27) (k := 1) _ _ 22 6 (by decide)).trans <| (fld_append_hi (m := 6) (k := 21) _ _ 21 6 (by decide)).trans <| fld_whole x0,
    (fld_append_hi (m := 28) (k := 4) _ _ 5 21 (by decide)).trans <| (fld_append_hi (m := 27) (k := 1) _ _ 1 21 (by decide)).trans <| (fld_append_lo (m := 6) (k := 21) _ _ 0 21 (by decide)).trans <| fld_whole x1,
    (fld_append_hi (m := 28) (k := 4) _ _ 4 1 (by decide)).trans <| (fld_append_lo (m := 27) (k := 1) _ _ 0 1 (by decide)).trans <| fld_whole x2,
    (fld_append_lo (m := 28) (k := 4) _ _ 0 4 (by decide)).trans <| fld_whole x3⟩

theorem layout_6_6_16_4 (x0 : BitVec 6) (x1 : BitVec 6) (x2 : BitVec 16) (x3 : BitVec 4) :
    fld (x0 ++ x1 ++ x2 ++ x3 : Code) 26 6 = x0 ∧
    fld (x0 ++ x1 ++ x2 ++ x3 : Code) 20 6 = x1 ∧
    fld (x0 ++ x1 ++ x2 ++ x3 : Code) 4 16 = x2 ∧
    fld (x0 ++ x1 ++ x2 ++ x3 : Code) 0 4 = x3 := by
  exact ⟨(fld_append_hi (m := 28) (k := 4) _ _ 26 6 (by decide)).trans <| (fld_append_hi (m := 12) (k := 16) _ _ 22 6 (by decide)).trans <| (fld_append_hi (m := 6) (k := 6) _ _ 6 6 (by decide)).trans <| fld_whole x0,
    (fld_append_hi (m := 28) (k := 4) _ _ 20 6 (by decide)).trans <| (fld_append_hi (m := 12) (k := 16) _ _ 16 6 (by decide)).trans <| (fld_append_lo (m := 6) (k := 6) _ _ 0 6 (by decide)).trans <| fld_whole x1,
    (fld_append_hi (m := 28) (k := 4) _ _ 4 16 (by decide)).trans <| (fld_append_lo (m := 12) (k := 16) _ _ 0 16 (by decide)).trans <| fld_whole x2,
    (fld_append_lo (m := 28) (k := 4) _ _ 0 4 (by decide)).trans <| fld_whole x3⟩

theorem layout_6_2_6_2_12_4 (x0 : BitVec 6) (x1 : BitVec 2) (x2 : BitVec 6) (x3 : BitVec 2) (x4 : BitVec 12) (x5 : BitVec 4) :
    fld (x0 ++ x1 ++ x2 ++ x3 ++ x4 ++ x5 : Code) 26 6 = x0 ∧
    fld (x0 ++ x1 ++ x2 ++ x3 ++ x4 ++ x5 : Code) 24 2 = x1 ∧
    fld (x0 ++ x1 ++ x2 ++ x3 ++ x4 ++ x5 : Code) 18 6 = x2 ∧
    fld (x0 ++ x1 ++ x2 ++ x3 ++ x4 ++ x5 : Code) 16 2 = x3 ∧
    fld (x0 ++ x1 ++ x2 ++ x3 ++ x4 ++ x5 : Code) 4 12 = x4 ∧
    fld (x0 ++ x1 ++ x2 ++ x3 ++ x4 ++ x5 : Code) 0 4 = x5 := by
  exact ⟨(fld_append_hi (m := 28) (k := 4) _ _ 26 6 (by decide)).trans <| (fld_append_hi (m := 16) (k := 12) _ _ 22 6 (by decide)).trans <| (fld_append_hi (m := 14) (k := 2) _ _ 10 6 (by decide)).trans <| (fld_append_hi (m := 8) (k := 6) _ _ 8 6 (by decide)).trans <| (fld_append_hi (m := 6) (k := 2) _ _ 2 6 (by decide)).trans <| fld_whole x0,
    (fld_append_hi (m := 28) (k := 4) _ _ 24 2 (by decide)).trans <| (fld_append_hi (m := 16) (k := 12) _ _ 20 2 (by decide)).trans <| (fld_append_hi (m := 14) (k := 2) _ _ 8 2 (by decide)).trans <| (fld_append_hi (m := 8) (k := 6) _ _ 6 2 (by decide)).trans <| (fld_append_lo (m := 6) (k := 2) _ _ 0 2 (by decide)).trans <| fld_whole x1,
    (fld_append_hi (m := 28) (k := 4) _ _ 18 6 (by decide)).trans <| (fld_append_hi (m := 16) (k := 12) _ _ 14 6 (by decide)).trans <| (fld_append_hi (m := 14) (k := 2) _ _ 2 6 (by decide)).trans <| (fld_append_lo (m := 8) (k := 6) _ _ 0 6 (by decide)).trans <| fld_whole x2,
    (fld_append_hi (m := 28) (k := 4) _ _ 16 2 (by decide)).trans <| (fld_append_hi (m := 16) (k := 12) _ _ 12 2 (by decide)).trans <| (fld_append_lo (m := 14) (k := 2) _ _ 0 2 (by decide)).trans <| fld_whole x3,
    (fld_append_hi (m := 28) (k := 4) _ _ 4 12 (by decide)).trans <| (fld_append_lo (m := 16) (k := 12) _ _ 0 12 (by decide)).trans <| fld_whole x4,
    (fld_append_lo (m := 28) (k := 4) _ _ 0 4 (by decide)).trans <| fld_whole x5⟩

theorem layout_6_4_4_3_1_1_2_7_4 (x0 : BitVec 6) (x1 : BitVec 4) (x2 : BitVec 4) (x3 : BitVec 3) (x4 : BitVec 1) (x5 : BitVec 1) (x6 : BitVec 2) (x7 : BitVec 7) (x8 : BitVec 4) :
    fld (x0 ++ x1 ++ x2 ++ x3 ++ x4 ++ x5 ++ x6 ++ x7 ++ x8 : Code) 26 6 = x0 ∧
    fld (x0 ++ x1 ++ x2 ++ x3 ++ x4 ++ x5 ++ x6 ++ x7 ++ x8 : Code) 22 4 = x1 ∧
    fld (x0 ++ x1 ++ x2 ++ x3 ++ x4 ++ x5 ++ x6 ++ x7 ++ x8 : Code) 18 4 = x2 ∧
    fld (x0 ++ x1 ++ x2 ++ x3 ++ x4 ++ x5 ++ x6 ++ x7 ++ x8 : Code) 15 3 = x3 ∧
    fld (x0 ++ x1 ++ x2 ++ x3 ++ x4 ++ x5 ++ x6 ++ x7 ++ x8 : Code) 14 1 = x4 ∧
    fld (x0 ++ x1 ++ x2 ++ x3 ++ x4 ++ x5 ++ x6 ++ x7 ++ x8 : Code) 13 1 = x5 ∧
    fld (x0 ++ x1 ++ x2 ++ x3 ++ x4 ++ x5 ++ x6 ++ x7 ++ x8 : Code) 11 2 = x6 ∧
    fld (x0 ++ x1 ++ x2 ++ x3 ++ x4 ++ x5 ++ x6 ++ x7 ++ x8 : Code) 4 7 = x7 ∧
    fld (x0 ++ x1 ++ x2 ++ x3 ++ x4 ++ x5 ++ x6 ++ x7 ++ x8 : Code) 0 4 = x8 := by
  exact ⟨(fld_append_hi (m := 28) (k := 4) _ _ 26 6 (by decide)).trans <| (fld_append_hi (m := 21) (k := 7) _ _ 22 6 (by decide)).trans <| (fld_append_hi (m := 19) (k := 2) _ _ 15 6 (by decide)).trans <| (fld_append_hi (m := 18) (k := 1) _ _ 13 6 (by decide)).trans <| (fld_append_hi (m := 17) (k := 1) _ _ 12 6 (by decide)).trans <| (fld_append_hi (m := 14) (k := 3) _ _ 11 6 (by decide)).trans <| (fld_append_hi (m := 10) (k := 4) _ _ 8 6 (by decide)).trans <| (fld_append_hi (m := 6) (k := 4) _ _ 4 6 (by decide)).trans <| fld_whole x0,
    (fld_append_hi (m := 28) (k := 4) _ _ 22 4 (by decide)).trans <| (fld_append_hi (m := 21) (k := 7) _ _ 18 4 (by decide)).trans <| (fld_append_hi (m := 19) (k := 2) _ _ 11 4 (by decide)).trans <| (fld_append_hi (m := 18) (k := 1) _ _ 9 4 (by decide)).trans <| (fld_append_hi (m := 17) (k := 1) _ _ 8 4 (by decide)).trans <| (fld_append_hi (m := 14) (k := 3) _ _ 7 4 (by decide)).trans <| (fld_append_hi (m := 10) (k := 4) _ _ 4 4 (by decide)).trans <| (fld_append_lo (m := 6) (k := 4) _ _ 0 4 (by decide)).trans <| fld_whole x1,
    (fld_append_hi (m := 28) (k := 4) _ _ 18 4 (by decide)).trans <| (fld_append_hi (m := 21) (k := 7) _ _ 14 4 (by decide)).trans <| (fld_append_hi (m := 19) (k := 2) _ _ 7 4 (by decide)).trans <| (fld_append_hi (m := 18) (k := 1) _ _ 5 4 (by decide)).trans <| (fld_append_hi (m := 17) (k := 1) _ _ 4 4 (by decide)).trans <| (fld_append_hi (m := 14) (k := 3) _ _ 3 4 (by decide)).trans <| (fld_append_lo (m := 10) (k := 4) _ _ 0 4 (by decide)).trans <| fld_whole x2,
    (fld_append_hi (m := 28) (k := 4) _ _ 15 3 (by decide)).trans <| (fld_append_hi (m := 21) (k := 7) _ _ 11 3 (by decide)).trans <| (fld_append_hi (m := 19) (k := 2) _ _ 4 3 (by decide)).trans <| (fld_append_hi (m := 18) (k := 1) _ _ 2 3 (by decide)).trans <| (fld_append_hi (m := 17) (k := 1) _ _ 1 3 (by decide)).trans <| (fld_append_lo (m := 14) (k := 3) _ _ 0 3 (by decide)).trans <| fld_whole x3,
    (fld_append_hi (m := 28) (k := 4) _ _ 14 1 (by decide)).trans <| (fld_append_hi (m := 21) (k := 7) _ _ 10 1 (by decide)).trans <| (fld_append_hi (m := 19) (k := 2) _ _ 3 1 (by decide)).trans <| (fld_append_hi (m := 18) (k := 1) _ _ 1 1 (by decide)).trans <| (fld_append_lo (m := 17) (k := 1) _ _ 0 1 (by decide)).trans <| fld_whole x4,
    (fld_append_hi (m := 28) (k := 4) _ _ 13 1 (by decide)).trans <| (fld_append_hi (m := 21) (k := 7) _ _ 9 1 (by decide)).trans <| (fld_append_hi (m := 19) (k := 2) _ _ 2 1 (by decide)).trans <| (fld_append_lo (m := 18) (k := 1) _ _ 0 1 (by decide)).trans <| fld_whole x5,
    (fld_append_hi (m := 28) (k := 4) _ _ 11 2 (by decide)).trans <| (fld_append_hi (m := 21) (k := 7) _ _ 7 2 (by decide)).trans <| (fld_append_lo (m := 19) (k := 2) _ _ 0 2 (by decide)).trans <| fld_whole x6,
    (fld_append_hi (m := 28) (k := 4) _ _ 4 7 (by decide)).trans <| (fld_append_lo (m := 21) (k := 7) _ _ 0 7 (by decide)).trans <| fld_whole x7,
    (fld_append_lo (m := 28) (k := 4) _ _ 0 4 (by decide)).trans <| fld_whole x8⟩

theorem layout_6_3_3_1_8_7_4 (x0 : BitVec 6) (x1 : BitVec 3) (x2 : BitVec 3) (x3 : BitVec 1) (x4 : BitVec 8) (x5 : BitVec 7) (x6 : BitVec 4) :
    fld (x0 ++ x1 ++ x2 ++ x3 ++ x4 ++ x5 ++ x6 : Code) 26 6 = x0 ∧
    fld (x0 ++ x1 ++ x2 ++ x3 ++ x4 ++ x5 ++ x6 : Code) 23 3 = x1 ∧
    fld (x0 ++ x1 ++ x2 ++ x3 ++ x4 ++ x5 ++ x6 : Code) 20 3 = x2 ∧
    fld (x0 ++ x1 ++ x2 ++ x3 ++ x4 ++ x5 ++ x6 : Code) 19 1 = x3 ∧
    fld (x0 ++ x1 ++ x2 ++ x3 ++ x4 ++ x5 ++ x6 : Code) 11 8 = x4 ∧
    fld (x0 ++ x1 ++ x2 ++ x3 ++ x4 ++ x5 ++ x6 : Code) 4 7 = x5 ∧
    fld (x0 ++ x1 ++ x2 ++ x3 ++ x4 ++ x5 ++ x6 : Code) 0 4 = x6 := by
  exact ⟨(fld_append_hi (m := 28) (k := 4) _ _ 26 6 (by decide)).trans <| (fld_append_hi (m := 21) (k := 7) _ _ 22 6 (by decide)).trans <| (fld_append_hi (m := 13) (k := 8) _ _ 15 6 (by decide)).trans <| (fld_append_hi (m := 12) (k := 1) _ _ 7 6 (by decide)).trans <| (fld_append_hi (m := 9) (k := 3) _ _ 6 6 (by decide)).trans <| (fld_append_hi (m := 6) (k := 3) _ _ 3 6 (by decide)).trans <| fld_whole x0,
    (fld_append_hi (m := 28) (k := 4) _ _ 23 3 (by decide)).trans <| (fld_append_hi (m := 21) (k := 7) _ _ 19 3 (by decide)).trans <| (fld_append_hi (m := 13) (k := 8) _ _ 12 3 (by decide)).trans <| (fld_append_hi (m := 12) (k := 1) _ _ 4 3 (by decide)).trans <| (fld_append_hi (m := 9) (k := 3) _ _ 3 3 (by decide)).trans <| (fld_append_lo (m := 6) (k := 3) _ _ 0 3 (by decide)).trans <| fld_whole x1,
    (fld_append_hi (m := 28) (k := 4) _ _ 20 3 (by decide)).trans <| (fld_append_hi (m := 21) (k := 7) _ _ 16 3 (by decide)).trans <| (fld_append_hi (m := 13) (k := 8) _ _ 9 3 (by decide)).trans <| (fld_append_hi (m := 12) (k := 1) _ _ 1 3 (by decide)).trans <| (fld_append_lo (m := 9) (k := 3) _ _ 0 3 (by decide)).trans <| fld_whole x2,
    (fld_append_hi (m := 28) (k := 4) _ _ 19 1 (by decide)).trans <| (fld_append_hi (m := 21) (k := 7) _ _ 15 1 (by decide)).trans <| (fld_append_hi (m := 13) (k := 8) _ _ 8 1 (by decide)).trans <| (fld_append_lo (m := 12) (k := 1) _ _ 0 1 (by decide)).trans <| fld_whole x3,
    (fld_append_hi (m := 28) (k := 4) _ _ 11 8 (by decide)).trans <| (fld_append_hi (m := 21) (k := 7) _ _ 7 8 (by decide)).trans <| (fld_append_lo (m := 13) (k := 8) _ _ 0 8 (by decide)).trans <| fld_whole x4,
    (fld_append_hi (m := 28) (k := 4) _ _ 4 7 (by decide)).trans <| (fld_append_lo (m := 21) (k := 7) _ _ 0 7 (by decide)).trans <| fld_whole x5,
    (fld_append_lo (m := 28) (k := 4) _ _ 0 4 (by decide)).trans <| fld_whole x6⟩

theorem layout_6_22_4 (x0 : BitVec 6) (x1 : BitVec 22) (x2 : BitVec 4) :
    fld (x0 ++ x1 ++ x2 : Code) 26 6 = x0 ∧
    fld (x0 ++ x1 ++ x2 : Code) 4 22 = x1 ∧
    fld (x0 ++ x1 ++ x2 : Code) 0 4 = x2 := by
  exact ⟨(fld_append_hi (m := 28) (k := 4) _ _ 26 6 (by decide)).trans <| (fld_append_hi (m := 6) (k := 22) _ _ 22 6 (by decide)).trans <| fld_whole x0,
    (fld_append_hi (m := 28) (k := 4) _ _ 4 22 (by decide)).trans <| (fld_append_lo (m := 6) (k := 22) _ _ 0 22 (by decide)).trans <| fld_whole x1,
    (fld_append_lo (m := 28) (k := 4) _ _ 0 4 (by decide)).trans <| fld_whole x2⟩

theorem layout_6_8_2_12_4 (x0 : BitVec 6) (x1 : BitVec 8) (x2 : BitVec 2) (x3 : BitVec 12) (x4 : BitVec 4) :
    fld (x0 ++ x1 ++ x2 ++ x3 ++ x4 : Code) 26 6 = x0 ∧
    fld (x0 ++ x1 ++ x2 ++ x3 ++ x4 : Code) 18 8 = x1 ∧
    fld (x0 ++ x1 ++ x2 ++ x3 ++ x4 : Code) 16 2 = x2 ∧
    fld (x0 ++ x1 ++ x2 ++ x3 ++ x4 : Code) 4 12 = x3 ∧
    fld (x0 ++ x1 ++ x2 ++ x3 ++ x4 : Code) 0 4 = x4 := by
  exact ⟨(fld_append_hi (m := 28) (k := 4) _ _ 26 6 (by decide)).trans <| (fld_append_hi (m := 16) (k := 12) _ _ 22 6 (by decide)).trans <| (fld_append_hi (m := 14) (k := 2) _ _ 10 6 (by decide)).trans <| (fld_append_hi (m := 6) (k := 8) _ _ 8 6 (by decide)).trans <| fld_whole x0,
    (fld_append_hi (m := 28) (k := 4) _ _ 18 8 (by decide)).trans <| (fld_append_hi (m := 16) (k := 12) _ _ 14 8 (by decide)).trans <| (fld_append_hi (m := 14) (k := 2) _ _ 2 8 (by decide)).trans <| (fld_append_lo (m := 6) (k := 8) _ _ 0 8 (by decide)).trans <| fld_whole x1,
    (fld_append_hi (m := 28) (k := 4) _ _ 16 2 (by decide)).trans <| (fld_append_hi (m := 16) (k := 12) _ _ 12 2 (by decide)).trans <| (fld_append_lo (m := 14) (k := 2) _ _ 0 2 (by decide)).trans <| fld_whole x2,
    (fld_append_hi (m := 28) (k := 4) _ _ 4 12 (by decide)).trans <| (fld_append_lo (m := 16) (k := 12) _ _ 0 12 (by decide)).trans <| fld_whole x3,
    (fld_append_lo (m := 28) (k := 4) _ _ 0 4 (by decide)).trans <| fld_whole x4⟩

theorem layout_6_6_6_3_7_4 (x0 : BitVec 6) (x1 : BitVec 6) (x2 : BitVec 6) (x3 : BitVec 3) (x4 : BitVec 7) (x5 : BitVec 4) :
    fld (x0 ++ x1 ++ x2 ++ x3 ++ x4 ++ x5 : Code) 26 6 = x0 ∧
    fld (x0 ++ x1 ++ x2 ++ x3 ++ x4 ++ x5 : Code) 20 6 = x1 ∧
    fld (x0 ++ x1 ++ x2 ++ x3 ++ x4 ++ x5 : Code) 14 6 = x2 ∧
    fld (x0 ++ x1 ++ x2 ++ x3 ++ x4 ++ x5 : Code) 11 3 = x3 ∧
    fld (x0 ++ x1 ++ x2 ++ x3 ++ x4 ++ x5 : Code) 4 7 = x4 ∧
    fld (x0 ++ x1 ++ x2 ++ x3 ++ x4 ++ x5 : Code) 0 4 = x5 := by
  exact ⟨(fld_append_hi (m := 28) (k := 4) _ _ 26 6 (by decide)).trans <| (fld_append_hi (m := 21) (k := 7) _ _ 22 6 (by decide)).trans <| (fld_append_hi (m := 18) (k := 3) _ _ 15 6 (by decide)).trans <| (fld_append_hi (m := 12) (k := 6) _ _ 12 6 (by decide)).trans <| (fld_append_hi (m := 6) (k := 6) _ _ 6 6 (by decide)).trans <| fld_whole x0,
    (fld_append_hi (m := 28) (k := 4) _ _ 20 6 (by decide)).trans <| (fld_append_hi (m := 21) (k := 7) _ _ 16 6 (by decide)).trans <| (fld_append_hi (m := 18) (k := 3) _ _ 9 6 (by decide)).trans <| (fld_append_hi (m := 12) (k := 6) _ _ 6 6 (by decide)).trans <| (fld_append_lo (m := 6) (k := 6) _ _ 0 6 (by decide)).trans <| fld_whole x1,
    (fld_append_hi (m := 28) (k := 4) _ _ 14 6 (by decide)).trans <| (fld_append_hi (m := 21) (k := 7) _ _ 10 6 (by decide)).trans <| (fld_append_hi (m := 18) (k := 3) _ _ 3 6 (by decide)).trans <| (fld_append_lo (m := 12) (k := 6) _ _ 0 6 (by decide)).trans <| fld_whole x2,
    (fld_append_hi (m := 28) (k := 4) _ _ 11 3 (by decide)).trans <| (fld_append_hi (m := 21) (k := 7) _ _ 7 3 (by decide)).trans <| (fld_append_lo (m := 18) (k := 3) _ _ 0 3 (by decide)).trans <| fld_whole x3,
    (fld_append_hi (m := 28) (k := 4) _ _ 4 7 (by decide)).trans <| (fld_append_lo (m := 21) (k := 7) _ _ 0 7 (by decide)).trans <| fld_whole x4,
    (fld_append_lo (m := 28) (k := 4) _ _ 0 4 (by decide)).trans <| fld_whole x5⟩

theorem layout_6_8_14_4 (x0 : BitVec 6) (x1 : BitVec 8) (x2 : BitVec 14) (x3 : BitVec 4) :
    fld (x0 ++ x1 ++ x2 ++ x3 : Code) 26 6 = x0 ∧
    fld (x0 ++ x1 ++ x2 ++ x3 : Code) 18 8 = x1 ∧
    fld (x0 ++ x1 ++ x2 ++ x3 : Code) 4 14 = x2 ∧
    fld (x0 ++ x1 ++ x2 ++ x3 : Code) 0 4 = x3 := by
  exact ⟨(fld_append_hi (m := 28) (k := 4) _ _ 26 6 (by decide)).trans <| (fld_append_hi (m := 14) (k := 14) _ _ 22 6 (by decide)).trans <| (fld_append_hi (m := 6) (k := 8) _ _ 8 6 (by decide)).trans <| fld_whole x0,
    (fld_append_hi (m := 28) (k := 4) _ _ 18 8 (by decide)).trans <| (fld_append_hi (m := 14) (k := 14) _ _ 14 8 (by decide)).trans <| (fld_append_lo (m := 6) (k := 8) _ _ 0 8 (by decide)).trans <| fld_whole x1,
    (fld_append_hi (m := 28) (k := 4) _ _ 4 14 (by decide)).trans <| (fld_append_lo (m := 14) (k := 14) _ _ 0 14 (by decide)).trans <| fld_whole x2,
    (fld_append_lo (m := 28) (k := 4) _ _ 0 4 (by decide)).trans <| fld_whole x3⟩

theorem layout_6_6_6_1_9_4 (x0 : BitVec 6) (x1 : BitVec 6) (x2 : BitVec 6) (x3 : BitVec 1) (x4 : BitVec 9) (x5 : BitVec 4) :
    fld (x0 ++ x1 ++ x2 ++ x3 ++ x4 ++ x5 : Code) 26 6 = x0 ∧
    fld (x0 ++ x1 ++ x2 ++ x3 ++ x4 ++ x5 : Code) 20 6 = x1 ∧
    fld (x0 ++ x1 ++ x2 ++ x3 ++ x4 ++ x5 : Code) 14 6 = x2 ∧
    fld (x0 ++ x1 ++ x2 ++ x3 ++ x4 ++ x5 : Code) 13 1 = x3 ∧
    fld (x0 ++ x1 ++ x2 ++ x3 ++ x4 ++ x5 : Code) 4 9 = x4 ∧
    fld (x0 ++ x1 ++ x2 ++ x3 ++ x4 ++ x5 : Code) 0 4 = x5 := by
  exact ⟨(fld_append_hi (m := 28) (k := 4) _ _ 26 6 (by decide)).trans <| (fld_append_hi (m := 19) (k := 9) _ _ 22 6 (by decide)).trans <| (fld_append_hi (m := 18) (k := 1) _ _ 13 6 (by decide)).trans <| (fld_append_hi (m := 12) (k := 6) _ _ 12 6 (by decide)).trans <| (fld_append_hi (m := 6) (k := 6) _ _ 6 6 (by decide)).trans <| fld_whole x0,
    (fld_append_hi (m := 28) (k := 4) _ _ 20 6 (by decide)).trans <| (fld_append_hi (m := 19) (k := 9) _ _ 16 6 (by decide)).trans <| (fld_append_hi (m := 18) (k := 1) _ _ 7 6 (by decide)).trans <| (fld_append_hi (m := 12) (k := 6) _ _ 6 6 (by decide)).trans <| (fld_append_lo (m := 6) (k := 6) _ _ 0 6 (by decide)).trans <| fld_whole x1,
    (fld_append_hi (m := 28) (k := 4) _ _ 14 6 (by decide)).trans <| (fld_append_hi (m := 19) (k := 9) _ _ 10 6 (by decide)).trans <| (fld_append_hi (m := 18) (k := 1) _ _ 1 6 (by decide)).trans <| (fld_append_lo (m := 12) (k := 6) _ _ 0 6 (by decide)).trans <| fld_whole x2,
    (fld_append_hi (m := 28) (k := 4) _ _ 13 1 (by decide)).trans <| (fld_append_hi (m := 19) (k := 9) _ _ 9 1 (by decide)).trans <| (fld_append_lo (m := 18) (k := 1) _ _ 0 1 (by decide)).trans <| fld_whole x3,
    (fld_append_hi (m := 28) (k := 4) _ _ 4 9 (by decide)).trans <| (fld_append_lo (m := 19) (k := 9) _ _ 0 9 (by decide)).trans <| fld_whole x4,
    (fld_append_lo (m := 28) (k := 4) _ _ 0 4 (by decide)).trans <| fld_whole x5⟩

namespace Laws

/-- A stream that admits the instruction decodes the instruction's own word to it, with every operand. -/
def Encoding.Statement (i : Instr) : Prop :=
  ∀ st : Stream, i.validIn st = true → i.wf st = true →
    ∃ e, encode i = some e ∧ decode st e.nib e.word = .ok i

theorem Encoding.add (d : BitVec 6) (a : BitVec 6) (b : BitVec 6) (w : Bool) (g : BitVec 4) : Encoding.Statement (.add d a b w g) := by
  intro st hv hw
  obtain ⟨h0, h1, h2, h3, h4, h5, h6⟩ := layout_6_6_6_6_3_1_4 0x1#6 d a b 0#3 (BitVec.ofBool w) g
  refine ⟨_, rfl, decode_of_form (n := false) (formOf_s hv (by rw [h0]; decide) ?_) (BitVec.and_zero) (fun _ => rfl) hw⟩
  simp only [formS, form, h0, h1, h2, h3, h4, bit_of_fld h5, h6, BitVec.reduceToNat]

theorem Encoding.sub (d : BitVec 6) (a : BitVec 6) (b : BitVec 6) (w : Bool) (g : BitVec 4) : Encoding.Statement (.sub d a b w g) := by
  intro st hv hw
  obtain ⟨h0, h1, h2, h3, h4, h5, h6⟩ := layout_6_6_6_6_3_1_4 0x1#6 d a b 1#3 (BitVec.ofBool w) g
  refine ⟨_, rfl, decode_of_form (n := false) (formOf_s hv (by rw [h0]; decide) ?_) (BitVec.and_zero) (fun _ => rfl) hw⟩
  simp only [formS, form, h0, h1, h2, h3, h4, bit_of_fld h5, h6, BitVec.reduceToNat]

theorem Encoding.and (d : BitVec 6) (a : BitVec 6) (b : BitVec 6) (w : Bool) (g : BitVec 4) : Encoding.Statement (.and d a b w g) := by
  intro st hv hw
  obtain ⟨h0, h1, h2, h3, h4, h5, h6⟩ := layout_6_6_6_6_3_1_4 0x1#6 d a b 2#3 (BitVec.ofBool w) g
  refine ⟨_, rfl, decode_of_form (n := false) (formOf_s hv (by rw [h0]; decide) ?_) (BitVec.and_zero) (fun _ => rfl) hw⟩
  simp only [formS, form, h0, h1, h2, h3, h4, bit_of_fld h5, h6, BitVec.reduceToNat]

theorem Encoding.or (d : BitVec 6) (a : BitVec 6) (b : BitVec 6) (w : Bool) (g : BitVec 4) : Encoding.Statement (.or d a b w g) := by
  intro st hv hw
  obtain ⟨h0, h1, h2, h3, h4, h5, h6⟩ := layout_6_6_6_6_3_1_4 0x1#6 d a b 3#3 (BitVec.ofBool w) g
  refine ⟨_, rfl, decode_of_form (n := false) (formOf_s hv (by rw [h0]; decide) ?_) (BitVec.and_zero) (fun _ => rfl) hw⟩
  simp only [formS, form, h0, h1, h2, h3, h4, bit_of_fld h5, h6, BitVec.reduceToNat]

theorem Encoding.xor (d : BitVec 6) (a : BitVec 6) (b : BitVec 6) (w : Bool) (g : BitVec 4) : Encoding.Statement (.xor d a b w g) := by
  intro st hv hw
  obtain ⟨h0, h1, h2, h3, h4, h5, h6⟩ := layout_6_6_6_6_3_1_4 0x1#6 d a b 4#3 (BitVec.ofBool w) g
  refine ⟨_, rfl, decode_of_form (n := false) (formOf_s hv (by rw [h0]; decide) ?_) (BitVec.and_zero) (fun _ => rfl) hw⟩
  simp only [formS, form, h0, h1, h2, h3, h4, bit_of_fld h5, h6, BitVec.reduceToNat]

theorem Encoding.andn (d : BitVec 6) (a : BitVec 6) (b : BitVec 6) (w : Bool) (g : BitVec 4) : Encoding.Statement (.andn d a b w g) := by
  intro st hv hw
  obtain ⟨h0, h1, h2, h3, h4, h5, h6⟩ := layout_6_6_6_6_3_1_4 0x1#6 d a b 5#3 (BitVec.ofBool w) g
  refine ⟨_, rfl, decode_of_form (n := false) (formOf_s hv (by rw [h0]; decide) ?_) (BitVec.and_zero) (fun _ => rfl) hw⟩
  simp only [formS, form, h0, h1, h2, h3, h4, bit_of_fld h5, h6, BitVec.reduceToNat]

theorem Encoding.min (d : BitVec 6) (a : BitVec 6) (b : BitVec 6) (w : Bool) (g : BitVec 4) : Encoding.Statement (.min d a b w g) := by
  intro st hv hw
  obtain ⟨h0, h1, h2, h3, h4, h5, h6⟩ := layout_6_6_6_6_3_1_4 0x1#6 d a b 6#3 (BitVec.ofBool w) g
  refine ⟨_, rfl, decode_of_form (n := false) (formOf_s hv (by rw [h0]; decide) ?_) (BitVec.and_zero) (fun _ => rfl) hw⟩
  simp only [formS, form, h0, h1, h2, h3, h4, bit_of_fld h5, h6, BitVec.reduceToNat]

theorem Encoding.max (d : BitVec 6) (a : BitVec 6) (b : BitVec 6) (w : Bool) (g : BitVec 4) : Encoding.Statement (.max d a b w g) := by
  intro st hv hw
  obtain ⟨h0, h1, h2, h3, h4, h5, h6⟩ := layout_6_6_6_6_3_1_4 0x1#6 d a b 7#3 (BitVec.ofBool w) g
  refine ⟨_, rfl, decode_of_form (n := false) (formOf_s hv (by rw [h0]; decide) ?_) (BitVec.and_zero) (fun _ => rfl) hw⟩
  simp only [formS, form, h0, h1, h2, h3, h4, bit_of_fld h5, h6, BitVec.reduceToNat]

theorem Encoding.minn (d : BitVec 6) (a : BitVec 6) (b : BitVec 6) (w : Bool) (g : BitVec 4) : Encoding.Statement (.minn d a b w g) := by
  intro st hv hw
  obtain ⟨h0, h1, h2, h3, h4, h5, h6⟩ := layout_6_6_6_6_3_1_4 0x2#6 d a b 0#3 (BitVec.ofBool w) g
  refine ⟨_, rfl, decode_of_form (n := false) (formOf_s hv (by rw [h0]; decide) ?_) (BitVec.and_zero) (fun _ => rfl) hw⟩
  simp only [formS, form, h0, h1, h2, h3, h4, bit_of_fld h5, h6, BitVec.reduceToNat]

theorem Encoding.maxn (d : BitVec 6) (a : BitVec 6) (b : BitVec 6) (w : Bool) (g : BitVec 4) : Encoding.Statement (.maxn d a b w g) := by
  intro st hv hw
  obtain ⟨h0, h1, h2, h3, h4, h5, h6⟩ := layout_6_6_6_6_3_1_4 0x2#6 d a b 1#3 (BitVec.ofBool w) g
  refine ⟨_, rfl, decode_of_form (n := false) (formOf_s hv (by rw [h0]; decide) ?_) (BitVec.and_zero) (fun _ => rfl) hw⟩
  simp only [formS, form, h0, h1, h2, h3, h4, bit_of_fld h5, h6, BitVec.reduceToNat]

theorem Encoding.shl (d : BitVec 6) (a : BitVec 6) (b : BitVec 6) (w : Bool) (g : BitVec 4) : Encoding.Statement (.shl d a b w g) := by
  intro st hv hw
  obtain ⟨h0, h1, h2, h3, h4, h5, h6⟩ := layout_6_6_6_6_3_1_4 0x2#6 d a b 2#3 (BitVec.ofBool w) g
  refine ⟨_, rfl, decode_of_form (n := false) (formOf_s hv (by rw [h0]; decide) ?_) (BitVec.and_zero) (fun _ => rfl) hw⟩
  simp only [formS, form, h0, h1, h2, h3, h4, bit_of_fld h5, h6, BitVec.reduceToNat]

theorem Encoding.shr (d : BitVec 6) (a : BitVec 6) (b : BitVec 6) (w : Bool) (g : BitVec 4) : Encoding.Statement (.shr d a b w g) := by
  intro st hv hw
  obtain ⟨h0, h1, h2, h3, h4, h5, h6⟩ := layout_6_6_6_6_3_1_4 0x2#6 d a b 3#3 (BitVec.ofBool w) g
  refine ⟨_, rfl, decode_of_form (n := false) (formOf_s hv (by rw [h0]; decide) ?_) (BitVec.and_zero) (fun _ => rfl) hw⟩
  simp only [formS, form, h0, h1, h2, h3, h4, bit_of_fld h5, h6, BitVec.reduceToNat]

theorem Encoding.sar (d : BitVec 6) (a : BitVec 6) (b : BitVec 6) (w : Bool) (g : BitVec 4) : Encoding.Statement (.sar d a b w g) := by
  intro st hv hw
  obtain ⟨h0, h1, h2, h3, h4, h5, h6⟩ := layout_6_6_6_6_3_1_4 0x2#6 d a b 4#3 (BitVec.ofBool w) g
  refine ⟨_, rfl, decode_of_form (n := false) (formOf_s hv (by rw [h0]; decide) ?_) (BitVec.and_zero) (fun _ => rfl) hw⟩
  simp only [formS, form, h0, h1, h2, h3, h4, bit_of_fld h5, h6, BitVec.reduceToNat]

theorem Encoding.rotr (d : BitVec 6) (a : BitVec 6) (b : BitVec 6) (w : Bool) (g : BitVec 4) : Encoding.Statement (.rotr d a b w g) := by
  intro st hv hw
  obtain ⟨h0, h1, h2, h3, h4, h5, h6⟩ := layout_6_6_6_6_3_1_4 0x2#6 d a b 5#3 (BitVec.ofBool w) g
  refine ⟨_, rfl, decode_of_form (n := false) (formOf_s hv (by rw [h0]; decide) ?_) (BitVec.and_zero) (fun _ => rfl) hw⟩
  simp only [formS, form, h0, h1, h2, h3, h4, bit_of_fld h5, h6, BitVec.reduceToNat]

theorem Encoding.clz (d : BitVec 6) (a : BitVec 6) (w : Bool) (g : BitVec 4) : Encoding.Statement (.clz d a w g) := by
  intro st hv hw
  obtain ⟨h0, h1, h2, h3, h4, h5, h6⟩ := layout_6_6_6_6_3_1_4 0x2#6 d a 0#6 6#3 (BitVec.ofBool w) g
  refine ⟨_, rfl, decode_of_form (n := false) (formOf_s hv (by rw [h0]; decide) ?_) (zero_field h3 (BitVec.and_zero) (z := 0x3f00#32) (by decide)) (fun _ => rfl) hw⟩
  simp only [formS, form, h0, h1, h2, h4, bit_of_fld h5, h6, BitVec.reduceToNat]

theorem Encoding.popc (d : BitVec 6) (a : BitVec 6) (w : Bool) (g : BitVec 4) : Encoding.Statement (.popc d a w g) := by
  intro st hv hw
  obtain ⟨h0, h1, h2, h3, h4, h5, h6⟩ := layout_6_6_6_6_3_1_4 0x2#6 d a 0#6 7#3 (BitVec.ofBool w) g
  refine ⟨_, rfl, decode_of_form (n := false) (formOf_s hv (by rw [h0]; decide) ?_) (zero_field h3 (BitVec.and_zero) (z := 0x3f00#32) (by decide)) (fun _ => rfl) hw⟩
  simp only [formS, form, h0, h1, h2, h4, bit_of_fld h5, h6, BitVec.reduceToNat]

theorem Encoding.mul (d : BitVec 6) (a : BitVec 6) (b : BitVec 6) (w : Bool) (g : BitVec 4) : Encoding.Statement (.mul d a b w g) := by
  intro st hv hw
  obtain ⟨h0, h1, h2, h3, h4, h5, h6⟩ := layout_6_6_6_6_3_1_4 0x3#6 d a b 0#3 (BitVec.ofBool w) g
  refine ⟨_, rfl, decode_of_form (n := false) (formOf_s hv (by rw [h0]; decide) ?_) (BitVec.and_zero) (fun _ => rfl) hw⟩
  simp only [formS, form, h0, h1, h2, h3, h4, bit_of_fld h5, h6, BitVec.reduceToNat]

theorem Encoding.mulh (d : BitVec 6) (a : BitVec 6) (b : BitVec 6) (w : Bool) (g : BitVec 4) : Encoding.Statement (.mulh d a b w g) := by
  intro st hv hw
  obtain ⟨h0, h1, h2, h3, h4, h5, h6⟩ := layout_6_6_6_6_3_1_4 0x3#6 d a b 1#3 (BitVec.ofBool w) g
  refine ⟨_, rfl, decode_of_form (n := false) (formOf_s hv (by rw [h0]; decide) ?_) (BitVec.and_zero) (fun _ => rfl) hw⟩
  simp only [formS, form, h0, h1, h2, h3, h4, bit_of_fld h5, h6, BitVec.reduceToNat]

theorem Encoding.mulhn (d : BitVec 6) (a : BitVec 6) (b : BitVec 6) (w : Bool) (g : BitVec 4) : Encoding.Statement (.mulhn d a b w g) := by
  intro st hv hw
  obtain ⟨h0, h1, h2, h3, h4, h5, h6⟩ := layout_6_6_6_6_3_1_4 0x3#6 d a b 2#3 (BitVec.ofBool w) g
  refine ⟨_, rfl, decode_of_form (n := false) (formOf_s hv (by rw [h0]; decide) ?_) (BitVec.and_zero) (fun _ => rfl) hw⟩
  simp only [formS, form, h0, h1, h2, h3, h4, bit_of_fld h5, h6, BitVec.reduceToNat]

theorem Encoding.div (d : BitVec 6) (a : BitVec 6) (b : BitVec 6) (w : Bool) (g : BitVec 4) : Encoding.Statement (.div d a b w g) := by
  intro st hv hw
  obtain ⟨h0, h1, h2, h3, h4, h5, h6⟩ := layout_6_6_6_6_3_1_4 0x3#6 d a b 3#3 (BitVec.ofBool w) g
  refine ⟨_, rfl, decode_of_form (n := false) (formOf_s hv (by rw [h0]; decide) ?_) (BitVec.and_zero) (fun _ => rfl) hw⟩
  simp only [formS, form, h0, h1, h2, h3, h4, bit_of_fld h5, h6, BitVec.reduceToNat]

theorem Encoding.divn (d : BitVec 6) (a : BitVec 6) (b : BitVec 6) (w : Bool) (g : BitVec 4) : Encoding.Statement (.divn d a b w g) := by
  intro st hv hw
  obtain ⟨h0, h1, h2, h3, h4, h5, h6⟩ := layout_6_6_6_6_3_1_4 0x3#6 d a b 4#3 (BitVec.ofBool w) g
  refine ⟨_, rfl, decode_of_form (n := false) (formOf_s hv (by rw [h0]; decide) ?_) (BitVec.and_zero) (fun _ => rfl) hw⟩
  simp only [formS, form, h0, h1, h2, h3, h4, bit_of_fld h5, h6, BitVec.reduceToNat]

theorem Encoding.rem (d : BitVec 6) (a : BitVec 6) (b : BitVec 6) (w : Bool) (g : BitVec 4) : Encoding.Statement (.rem d a b w g) := by
  intro st hv hw
  obtain ⟨h0, h1, h2, h3, h4, h5, h6⟩ := layout_6_6_6_6_3_1_4 0x3#6 d a b 5#3 (BitVec.ofBool w) g
  refine ⟨_, rfl, decode_of_form (n := false) (formOf_s hv (by rw [h0]; decide) ?_) (BitVec.and_zero) (fun _ => rfl) hw⟩
  simp only [formS, form, h0, h1, h2, h3, h4, bit_of_fld h5, h6, BitVec.reduceToNat]

theorem Encoding.remn (d : BitVec 6) (a : BitVec 6) (b : BitVec 6) (w : Bool) (g : BitVec 4) : Encoding.Statement (.remn d a b w g) := by
  intro st hv hw
  obtain ⟨h0, h1, h2, h3, h4, h5, h6⟩ := layout_6_6_6_6_3_1_4 0x3#6 d a b 6#3 (BitVec.ofBool w) g
  refine ⟨_, rfl, decode_of_form (n := false) (formOf_s hv (by rw [h0]; decide) ?_) (BitVec.and_zero) (fun _ => rfl) hw⟩
  simp only [formS, form, h0, h1, h2, h3, h4, bit_of_fld h5, h6, BitVec.reduceToNat]

theorem Encoding.cmp (d : BitVec 6) (a : BitVec 6) (b : BitVec 6) (cc : BitVec 3) (g : BitVec 4) : Encoding.Statement (.cmp d a b cc g) := by
  intro st hv hw
  obtain ⟨h0, h1, h2, h3, h4, h5, h6⟩ := layout_6_6_6_6_3_1_4 0x4#6 d a b cc 0#1 g
  refine ⟨_, rfl, decode_of_form (n := false) (formOf_s hv (by rw [h0]; decide) ?_) (zero_field h5 (BitVec.and_zero) (z := 0x10#32) (by decide)) (fun _ => rfl) hw⟩
  simp only [formS, form, h0, h1, h2, h3, h4, h6, BitVec.reduceToNat]

theorem Encoding.pand (d : BitVec 6) (a : BitVec 6) (b : BitVec 6) (g : BitVec 4) : Encoding.Statement (.pand d a b g) := by
  intro st hv hw
  obtain ⟨h0, h1, h2, h3, h4, h5, h6⟩ := layout_6_6_6_6_3_1_4 0x5#6 d a b 0#3 0#1 g
  refine ⟨_, rfl, decode_of_form (n := false) (formOf_s hv (by rw [h0]; decide) ?_) (zero_field h5 (BitVec.and_zero) (z := 0x10#32) (by decide)) (fun _ => rfl) hw⟩
  simp only [formS, form, h0, h1, h2, h3, h4, h6, BitVec.reduceToNat]

theorem Encoding.por (d : BitVec 6) (a : BitVec 6) (b : BitVec 6) (g : BitVec 4) : Encoding.Statement (.por d a b g) := by
  intro st hv hw
  obtain ⟨h0, h1, h2, h3, h4, h5, h6⟩ := layout_6_6_6_6_3_1_4 0x5#6 d a b 1#3 0#1 g
  refine ⟨_, rfl, decode_of_form (n := false) (formOf_s hv (by rw [h0]; decide) ?_) (zero_field h5 (BitVec.and_zero) (z := 0x10#32) (by decide)) (fun _ => rfl) hw⟩
  simp only [formS, form, h0, h1, h2, h3, h4, h6, BitVec.reduceToNat]

theorem Encoding.pxor (d : BitVec 6) (a : BitVec 6) (b : BitVec 6) (g : BitVec 4) : Encoding.Statement (.pxor d a b g) := by
  intro st hv hw
  obtain ⟨h0, h1, h2, h3, h4, h5, h6⟩ := layout_6_6_6_6_3_1_4 0x5#6 d a b 2#3 0#1 g
  refine ⟨_, rfl, decode_of_form (n := false) (formOf_s hv (by rw [h0]; decide) ?_) (zero_field h5 (BitVec.and_zero) (z := 0x10#32) (by decide)) (fun _ => rfl) hw⟩
  simp only [formS, form, h0, h1, h2, h3, h4, h6, BitVec.reduceToNat]

theorem Encoding.pnot (d : BitVec 6) (a : BitVec 6) (g : BitVec 4) : Encoding.Statement (.pnot d a g) := by
  intro st hv hw
  obtain ⟨h0, h1, h2, h3, h4, h5, h6⟩ := layout_6_6_6_6_3_1_4 0x5#6 d a 0#6 3#3 0#1 g
  refine ⟨_, rfl, decode_of_form (n := false) (formOf_s hv (by rw [h0]; decide) ?_) (zero_field h3 (zero_field h5 (BitVec.and_zero) (z := 0x10#32) (by decide)) (z := 0x3f10#32) (by decide)) (fun _ => rfl) hw⟩
  simp only [formS, form, h0, h1, h2, h4, h6, BitVec.reduceToNat]

theorem Encoding.ptos (d : BitVec 6) (w : Bool) (g : BitVec 4) : Encoding.Statement (.ptos d w g) := by
  intro st hv hw
  obtain ⟨h0, h1, h2, h3, h4, h5⟩ := layout_6_6_12_3_1_4 0x5#6 d 0#12 4#3 (BitVec.ofBool w) g
  refine ⟨_, rfl, decode_of_form (n := false) (formOf_s hv (by rw [h0]; decide) ?_) (zero_field h2 (BitVec.and_zero) (z := 0xfff00#32) (by decide)) (fun _ => rfl) hw⟩
  simp only [formS, form, h0, h1, h3, bit_of_fld h4, h5, BitVec.reduceToNat]

theorem Encoding.stop (a : BitVec 6) (g : BitVec 4) : Encoding.Statement (.stop a g) := by
  intro st hv hw
  obtain ⟨h0, h1, h2, h3, h4, h5, h6⟩ := layout_6_6_6_6_3_1_4 0x5#6 0#6 a 0#6 5#3 0#1 g
  refine ⟨_, rfl, decode_of_form (n := false) (formOf_s hv (by rw [h0]; decide) ?_) (zero_field h1 (zero_field h3 (zero_field h5 (BitVec.and_zero) (z := 0x10#32) (by decide)) (z := 0x3f10#32) (by decide)) (z := 0x3f03f10#32) (by decide)) (fun _ => rfl) hw⟩
  simp only [formS, form, h0, h2, h4, h6, BitVec.reduceToNat]

theorem Encoding.ptrmk (d : BitVec 6) (a : BitVec 6) (b : BitVec 6) (w : Bool) (g : BitVec 4) : Encoding.Statement (.ptrmk d a b w g) := by
  intro st hv hw
  obtain ⟨h0, h1, h2, h3, h4, h5, h6⟩ := layout_6_6_6_6_3_1_4 0x6#6 d a b 0#3 (BitVec.ofBool w) g
  refine ⟨_, rfl, decode_of_form (n := false) (formOf_s hv (by rw [h0]; decide) ?_) (BitVec.and_zero) (fun _ => rfl) hw⟩
  simp only [formS, form, h0, h1, h2, h3, h4, bit_of_fld h5, h6, BitVec.reduceToNat]

theorem Encoding.ptrsp (d : BitVec 6) (a : BitVec 6) (w : Bool) (g : BitVec 4) : Encoding.Statement (.ptrsp d a w g) := by
  intro st hv hw
  obtain ⟨h0, h1, h2, h3, h4, h5, h6⟩ := layout_6_6_6_6_3_1_4 0x6#6 d a 0#6 1#3 (BitVec.ofBool w) g
  refine ⟨_, rfl, decode_of_form (n := false) (formOf_s hv (by rw [h0]; decide) ?_) (zero_field h3 (BitVec.and_zero) (z := 0x3f00#32) (by decide)) (fun _ => rfl) hw⟩
  simp only [formS, form, h0, h1, h2, h4, bit_of_fld h5, h6, BitVec.reduceToNat]

theorem Encoding.ptrrk (d : BitVec 6) (a : BitVec 6) (w : Bool) (g : BitVec 4) : Encoding.Statement (.ptrrk d a w g) := by
  intro st hv hw
  obtain ⟨h0, h1, h2, h3, h4, h5, h6⟩ := layout_6_6_6_6_3_1_4 0x6#6 d a 0#6 2#3 (BitVec.ofBool w) g
  refine ⟨_, rfl, decode_of_form (n := false) (formOf_s hv (by rw [h0]; decide) ?_) (zero_field h3 (BitVec.and_zero) (z := 0x3f00#32) (by decide)) (fun _ => rfl) hw⟩
  simp only [formS, form, h0, h1, h2, h4, bit_of_fld h5, h6, BitVec.reduceToNat]

theorem Encoding.ptrof (d : BitVec 6) (a : BitVec 6) (w : Bool) (g : BitVec 4) : Encoding.Statement (.ptrof d a w g) := by
  intro st hv hw
  obtain ⟨h0, h1, h2, h3, h4, h5, h6⟩ := layout_6_6_6_6_3_1_4 0x6#6 d a 0#6 3#3 (BitVec.ofBool w) g
  refine ⟨_, rfl, decode_of_form (n := false) (formOf_s hv (by rw [h0]; decide) ?_) (zero_field h3 (BitVec.and_zero) (z := 0x3f00#32) (by decide)) (fun _ => rfl) hw⟩
  simp only [formS, form, h0, h1, h2, h4, bit_of_fld h5, h6, BitVec.reduceToNat]

theorem Encoding.ptradd (d : BitVec 6) (a : BitVec 6) (b : BitVec 6) (w : Bool) (g : BitVec 4) : Encoding.Statement (.ptradd d a b w g) := by
  intro st hv hw
  obtain ⟨h0, h1, h2, h3, h4, h5, h6⟩ := layout_6_6_6_6_3_1_4 0x6#6 d a b 4#3 (BitVec.ofBool w) g
  refine ⟨_, rfl, decode_of_form (n := false) (formOf_s hv (by rw [h0]; decide) ?_) (BitVec.and_zero) (fun _ => rfl) hw⟩
  simp only [formS, form, h0, h1, h2, h3, h4, bit_of_fld h5, h6, BitVec.reduceToNat]

theorem Encoding.fadd (d : BitVec 6) (a : BitVec 6) (b : BitVec 6) (w : Bool) (g : BitVec 4) : Encoding.Statement (.fadd d a b w g) := by
  intro st hv hw
  obtain ⟨h0, h1, h2, h3, h4, h5, h6⟩ := layout_6_6_6_6_3_1_4 0x7#6 d a b 0#3 (BitVec.ofBool w) g
  refine ⟨_, rfl, decode_of_form (n := false) (formOf_s hv (by rw [h0]; decide) ?_) (BitVec.and_zero) (fun _ => rfl) hw⟩
  simp only [formS, form, h0, h1, h2, h3, h4, bit_of_fld h5, h6, BitVec.reduceToNat]

theorem Encoding.fsub (d : BitVec 6) (a : BitVec 6) (b : BitVec 6) (w : Bool) (g : BitVec 4) : Encoding.Statement (.fsub d a b w g) := by
  intro st hv hw
  obtain ⟨h0, h1, h2, h3, h4, h5, h6⟩ := layout_6_6_6_6_3_1_4 0x7#6 d a b 1#3 (BitVec.ofBool w) g
  refine ⟨_, rfl, decode_of_form (n := false) (formOf_s hv (by rw [h0]; decide) ?_) (BitVec.and_zero) (fun _ => rfl) hw⟩
  simp only [formS, form, h0, h1, h2, h3, h4, bit_of_fld h5, h6, BitVec.reduceToNat]

theorem Encoding.fmul (d : BitVec 6) (a : BitVec 6) (b : BitVec 6) (w : Bool) (g : BitVec 4) : Encoding.Statement (.fmul d a b w g) := by
  intro st hv hw
  obtain ⟨h0, h1, h2, h3, h4, h5, h6⟩ := layout_6_6_6_6_3_1_4 0x7#6 d a b 2#3 (BitVec.ofBool w) g
  refine ⟨_, rfl, decode_of_form (n := false) (formOf_s hv (by rw [h0]; decide) ?_) (BitVec.and_zero) (fun _ => rfl) hw⟩
  simp only [formS, form, h0, h1, h2, h3, h4, bit_of_fld h5, h6, BitVec.reduceToNat]

theorem Encoding.ffma (d : BitVec 6) (a : BitVec 6) (b : BitVec 6) (w : Bool) (g : BitVec 4) : Encoding.Statement (.ffma d a b w g) := by
  intro st hv hw
  obtain ⟨h0, h1, h2, h3, h4, h5, h6⟩ := layout_6_6_6_6_3_1_4 0x7#6 d a b 3#3 (BitVec.ofBool w) g
  refine ⟨_, rfl, decode_of_form (n := false) (formOf_s hv (by rw [h0]; decide) ?_) (BitVec.and_zero) (fun _ => rfl) hw⟩
  simp only [formS, form, h0, h1, h2, h3, h4, bit_of_fld h5, h6, BitVec.reduceToNat]

theorem Encoding.fmin (d : BitVec 6) (a : BitVec 6) (b : BitVec 6) (w : Bool) (g : BitVec 4) : Encoding.Statement (.fmin d a b w g) := by
  intro st hv hw
  obtain ⟨h0, h1, h2, h3, h4, h5, h6⟩ := layout_6_6_6_6_3_1_4 0x7#6 d a b 4#3 (BitVec.ofBool w) g
  refine ⟨_, rfl, decode_of_form (n := false) (formOf_s hv (by rw [h0]; decide) ?_) (BitVec.and_zero) (fun _ => rfl) hw⟩
  simp only [formS, form, h0, h1, h2, h3, h4, bit_of_fld h5, h6, BitVec.reduceToNat]

theorem Encoding.fmax (d : BitVec 6) (a : BitVec 6) (b : BitVec 6) (w : Bool) (g : BitVec 4) : Encoding.Statement (.fmax d a b w g) := by
  intro st hv hw
  obtain ⟨h0, h1, h2, h3, h4, h5, h6⟩ := layout_6_6_6_6_3_1_4 0x7#6 d a b 5#3 (BitVec.ofBool w) g
  refine ⟨_, rfl, decode_of_form (n := false) (formOf_s hv (by rw [h0]; decide) ?_) (BitVec.and_zero) (fun _ => rfl) hw⟩
  simp only [formS, form, h0, h1, h2, h3, h4, bit_of_fld h5, h6, BitVec.reduceToNat]

theorem Encoding.fdiv (d : BitVec 6) (a : BitVec 6) (b : BitVec 6) (w : Bool) (g : BitVec 4) : Encoding.Statement (.fdiv d a b w g) := by
  intro st hv hw
  obtain ⟨h0, h1, h2, h3, h4, h5, h6⟩ := layout_6_6_6_6_3_1_4 0x7#6 d a b 6#3 (BitVec.ofBool w) g
  refine ⟨_, rfl, decode_of_form (n := false) (formOf_s hv (by rw [h0]; decide) ?_) (BitVec.and_zero) (fun _ => rfl) hw⟩
  simp only [formS, form, h0, h1, h2, h3, h4, bit_of_fld h5, h6, BitVec.reduceToNat]

theorem Encoding.fsqrt (d : BitVec 6) (a : BitVec 6) (w : Bool) (g : BitVec 4) : Encoding.Statement (.fsqrt d a w g) := by
  intro st hv hw
  obtain ⟨h0, h1, h2, h3, h4, h5, h6⟩ := layout_6_6_6_6_3_1_4 0x7#6 d a 0#6 7#3 (BitVec.ofBool w) g
  refine ⟨_, rfl, decode_of_form (n := false) (formOf_s hv (by rw [h0]; decide) ?_) (zero_field h3 (BitVec.and_zero) (z := 0x3f00#32) (by decide)) (fun _ => rfl) hw⟩
  simp only [formS, form, h0, h1, h2, h4, bit_of_fld h5, h6, BitVec.reduceToNat]

theorem Encoding.cvtif (d : BitVec 6) (a : BitVec 6) (w : Bool) (g : BitVec 4) : Encoding.Statement (.cvtif d a w g) := by
  intro st hv hw
  obtain ⟨h0, h1, h2, h3, h4, h5, h6⟩ := layout_6_6_6_6_3_1_4 0x8#6 d a 0#6 0#3 (BitVec.ofBool w) g
  refine ⟨_, rfl, decode_of_form (n := false) (formOf_s hv (by rw [h0]; decide) ?_) (zero_field h3 (BitVec.and_zero) (z := 0x3f00#32) (by decide)) (fun _ => rfl) hw⟩
  simp only [formS, form, h0, h1, h2, h4, bit_of_fld h5, h6, BitVec.reduceToNat]

theorem Encoding.cvtnf (d : BitVec 6) (a : BitVec 6) (w : Bool) (g : BitVec 4) : Encoding.Statement (.cvtnf d a w g) := by
  intro st hv hw
  obtain ⟨h0, h1, h2, h3, h4, h5, h6⟩ := layout_6_6_6_6_3_1_4 0x8#6 d a 0#6 1#3 (BitVec.ofBool w) g
  refine ⟨_, rfl, decode_of_form (n := false) (formOf_s hv (by rw [h0]; decide) ?_) (zero_field h3 (BitVec.and_zero) (z := 0x3f00#32) (by decide)) (fun _ => rfl) hw⟩
  simp only [formS, form, h0, h1, h2, h4, bit_of_fld h5, h6, BitVec.reduceToNat]

theorem Encoding.cvtfi (d : BitVec 6) (a : BitVec 6) (w : Bool) (g : BitVec 4) : Encoding.Statement (.cvtfi d a w g) := by
  intro st hv hw
  obtain ⟨h0, h1, h2, h3, h4, h5, h6⟩ := layout_6_6_6_6_3_1_4 0x8#6 d a 0#6 2#3 (BitVec.ofBool w) g
  refine ⟨_, rfl, decode_of_form (n := false) (formOf_s hv (by rw [h0]; decide) ?_) (zero_field h3 (BitVec.and_zero) (z := 0x3f00#32) (by decide)) (fun _ => rfl) hw⟩
  simp only [formS, form, h0, h1, h2, h4, bit_of_fld h5, h6, BitVec.reduceToNat]

theorem Encoding.cvtfiz (d : BitVec 6) (a : BitVec 6) (w : Bool) (g : BitVec 4) : Encoding.Statement (.cvtfiz d a w g) := by
  intro st hv hw
  obtain ⟨h0, h1, h2, h3, h4, h5, h6⟩ := layout_6_6_6_6_3_1_4 0x8#6 d a 0#6 3#3 (BitVec.ofBool w) g
  refine ⟨_, rfl, decode_of_form (n := false) (formOf_s hv (by rw [h0]; decide) ?_) (zero_field h3 (BitVec.and_zero) (z := 0x3f00#32) (by decide)) (fun _ => rfl) hw⟩
  simp only [formS, form, h0, h1, h2, h4, bit_of_fld h5, h6, BitVec.reduceToNat]

theorem Encoding.fcmpLt (d : BitVec 6) (a : BitVec 6) (b : BitVec 6) (g : BitVec 4) : Encoding.Statement (.fcmpLt d a b g) := by
  intro st hv hw
  obtain ⟨h0, h1, h2, h3, h4, h5, h6⟩ := layout_6_6_6_6_3_1_4 0x8#6 d a b 4#3 0#1 g
  refine ⟨_, rfl, decode_of_form (n := false) (formOf_s hv (by rw [h0]; decide) ?_) (zero_field h5 (BitVec.and_zero) (z := 0x10#32) (by decide)) (fun _ => rfl) hw⟩
  simp only [formS, form, h0, h1, h2, h3, h4, h6, BitVec.reduceToNat]

theorem Encoding.fcmpLe (d : BitVec 6) (a : BitVec 6) (b : BitVec 6) (g : BitVec 4) : Encoding.Statement (.fcmpLe d a b g) := by
  intro st hv hw
  obtain ⟨h0, h1, h2, h3, h4, h5, h6⟩ := layout_6_6_6_6_3_1_4 0x8#6 d a b 5#3 0#1 g
  refine ⟨_, rfl, decode_of_form (n := false) (formOf_s hv (by rw [h0]; decide) ?_) (zero_field h5 (BitVec.and_zero) (z := 0x10#32) (by decide)) (fun _ => rfl) hw⟩
  simp only [formS, form, h0, h1, h2, h3, h4, h6, BitVec.reduceToNat]

theorem Encoding.fcmpEq (d : BitVec 6) (a : BitVec 6) (b : BitVec 6) (g : BitVec 4) : Encoding.Statement (.fcmpEq d a b g) := by
  intro st hv hw
  obtain ⟨h0, h1, h2, h3, h4, h5, h6⟩ := layout_6_6_6_6_3_1_4 0x8#6 d a b 6#3 0#1 g
  refine ⟨_, rfl, decode_of_form (n := false) (formOf_s hv (by rw [h0]; decide) ?_) (zero_field h5 (BitVec.and_zero) (z := 0x10#32) (by decide)) (fun _ => rfl) hw⟩
  simp only [formS, form, h0, h1, h2, h3, h4, h6, BitVec.reduceToNat]

theorem Encoding.addi (d : BitVec 6) (a : BitVec 6) (imm : BitVec 14) (g : BitVec 4) : Encoding.Statement (.addi d a imm g) := by
  intro st hv hw
  obtain ⟨h0, h1, h2, h3⟩ := layout_6_6_6_14 0x10#6 d a imm
  refine ⟨_, rfl, decode_of_form (n := true) (formOf_s hv (by rw [h0]; decide) ?_) (BitVec.and_zero) nofun hw⟩
  simp only [formS, form, h0, h1, h2, h3, BitVec.reduceToNat]

theorem Encoding.andi (d : BitVec 6) (a : BitVec 6) (imm : BitVec 14) (g : BitVec 4) : Encoding.Statement (.andi d a imm g) := by
  intro st hv hw
  obtain ⟨h0, h1, h2, h3⟩ := layout_6_6_6_14 0x11#6 d a imm
  refine ⟨_, rfl, decode_of_form (n := true) (formOf_s hv (by rw [h0]; decide) ?_) (BitVec.and_zero) nofun hw⟩
  simp only [formS, form, h0, h1, h2, h3, BitVec.reduceToNat]

theorem Encoding.ori (d : BitVec 6) (a : BitVec 6) (imm : BitVec 14) (g : BitVec 4) : Encoding.Statement (.ori d a imm g) := by
  intro st hv hw
  obtain ⟨h0, h1, h2, h3⟩ := layout_6_6_6_14 0x12#6 d a imm
  refine ⟨_, rfl, decode_of_form (n := true) (formOf_s hv (by rw [h0]; decide) ?_) (BitVec.and_zero) nofun hw⟩
  simp only [formS, form, h0, h1, h2, h3, BitVec.reduceToNat]

theorem Encoding.xori (d : BitVec 6) (a : BitVec 6) (imm : BitVec 14) (g : BitVec 4) : Encoding.Statement (.xori d a imm g) := by
  intro st hv hw
  obtain ⟨h0, h1, h2, h3⟩ := layout_6_6_6_14 0x13#6 d a imm
  refine ⟨_, rfl, decode_of_form (n := true) (formOf_s hv (by rw [h0]; decide) ?_) (BitVec.and_zero) nofun hw⟩
  simp only [formS, form, h0, h1, h2, h3, BitVec.reduceToNat]

theorem Encoding.shli (d : BitVec 6) (a : BitVec 6) (imm : BitVec 14) (g : BitVec 4) : Encoding.Statement (.shli d a imm g) := by
  intro st hv hw
  obtain ⟨h0, h1, h2, h3⟩ := layout_6_6_6_14 0x14#6 d a imm
  refine ⟨_, rfl, decode_of_form (n := true) (formOf_s hv (by rw [h0]; decide) ?_) (BitVec.and_zero) nofun hw⟩
  simp only [formS, form, h0, h1, h2, h3, BitVec.reduceToNat]

theorem Encoding.shri (d : BitVec 6) (a : BitVec 6) (imm : BitVec 14) (g : BitVec 4) : Encoding.Statement (.shri d a imm g) := by
  intro st hv hw
  obtain ⟨h0, h1, h2, h3⟩ := layout_6_6_6_14 0x15#6 d a imm
  refine ⟨_, rfl, decode_of_form (n := true) (formOf_s hv (by rw [h0]; decide) ?_) (BitVec.and_zero) nofun hw⟩
  simp only [formS, form, h0, h1, h2, h3, BitVec.reduceToNat]

theorem Encoding.sari (d : BitVec 6) (a : BitVec 6) (imm : BitVec 14) (g : BitVec 4) : Encoding.Statement (.sari d a imm g) := by
  intro st hv hw
  obtain ⟨h0, h1, h2, h3⟩ := layout_6_6_6_14 0x16#6 d a imm
  refine ⟨_, rfl, decode_of_form (n := true) (formOf_s hv (by rw [h0]; decide) ?_) (BitVec.and_zero) nofun hw⟩
  simp only [formS, form, h0, h1, h2, h3, BitVec.reduceToNat]

theorem Encoding.cmpi (d : BitVec 6) (a : BitVec 6) (cc : BitVec 3) (imm : BitVec 11) (g : BitVec 4) : Encoding.Statement (.cmpi d a cc imm g) := by
  intro st hv hw
  obtain ⟨h0, h1, h2, h3, h4⟩ := layout_6_6_6_3_11 0x17#6 d a cc imm
  refine ⟨_, rfl, decode_of_form (n := true) (formOf_s hv (by rw [h0]; decide) ?_) (BitVec.and_zero) nofun hw⟩
  simp only [formS, form, h0, h1, h2, h3, h4, BitVec.reduceToNat]

theorem Encoding.lim (d : BitVec 6) (imm : BitVec 20) (g : BitVec 4) : Encoding.Statement (.lim d imm g) := by
  intro st hv hw
  obtain ⟨h0, h1, h2⟩ := layout_6_6_20 0x18#6 d imm
  refine ⟨_, rfl, decode_of_form (n := true) (formOf_s hv (by rw [h0]; decide) ?_) (BitVec.and_zero) nofun hw⟩
  simp only [formS, form, h0, h1, h2, BitVec.reduceToNat]

theorem Encoding.lih (d : BitVec 6) (imm : BitVec 20) (g : BitVec 4) : Encoding.Statement (.lih d imm g) := by
  intro st hv hw
  obtain ⟨h0, h1, h2⟩ := layout_6_6_20 0x19#6 d imm
  refine ⟨_, rfl, decode_of_form (n := true) (formOf_s hv (by rw [h0]; decide) ?_) (BitVec.and_zero) nofun hw⟩
  simp only [formS, form, h0, h1, h2, BitVec.reduceToNat]

theorem Encoding.ptri (d : BitVec 6) (a : BitVec 6) (imm : BitVec 14) (g : BitVec 4) : Encoding.Statement (.ptri d a imm g) := by
  intro st hv hw
  obtain ⟨h0, h1, h2, h3⟩ := layout_6_6_6_14 0x1a#6 d a imm
  refine ⟨_, rfl, decode_of_form (n := true) (formOf_s hv (by rw [h0]; decide) ?_) (BitVec.and_zero) nofun hw⟩
  simp only [formS, form, h0, h1, h2, h3, BitVec.reduceToNat]

theorem Encoding.lscr (d : BitVec 6) (imm : BitVec 14) (g : BitVec 4) : Encoding.Statement (.lscr d imm g) := by
  intro st hv hw
  obtain ⟨h0, h1, h2, h3⟩ := layout_6_6_6_14 0x1b#6 d 0#6 imm
  refine ⟨_, rfl, decode_of_form (n := true) (formOf_s hv (by rw [h0]; decide) ?_) (zero_field h2 (BitVec.and_zero) (z := 0xfc000#32) (by decide)) nofun hw⟩
  simp only [formS, form, h0, h1, h3, BitVec.reduceToNat]

theorem Encoding.ldb (d : BitVec 6) (a : BitVec 6) (cls : BitVec 3) (sem : BitVec 2) (sco : BitVec 3) (off : BitVec 6) (g : BitVec 4) : Encoding.Statement (.ldb d a cls sem sco off g) := by
  intro st hv hw
  obtain ⟨h0, h1, h2, h3, h4, h5, h6⟩ := layout_6_6_6_3_2_3_6 0x20#6 d a cls sem sco off
  refine ⟨_, rfl, decode_of_form (n := true) (formOf_s hv (by rw [h0]; decide) ?_) (BitVec.and_zero) nofun hw⟩
  simp only [formS, form, h0, h1, h2, h3, h4, h5, h6, BitVec.reduceToNat]

theorem Encoding.ldbn (d : BitVec 6) (a : BitVec 6) (cls : BitVec 3) (sem : BitVec 2) (sco : BitVec 3) (off : BitVec 6) (g : BitVec 4) : Encoding.Statement (.ldbn d a cls sem sco off g) := by
  intro st hv hw
  obtain ⟨h0, h1, h2, h3, h4, h5, h6⟩ := layout_6_6_6_3_2_3_6 0x21#6 d a cls sem sco off
  refine ⟨_, rfl, decode_of_form (n := true) (formOf_s hv (by rw [h0]; decide) ?_) (BitVec.and_zero) nofun hw⟩
  simp only [formS, form, h0, h1, h2, h3, h4, h5, h6, BitVec.reduceToNat]

theorem Encoding.ldh (d : BitVec 6) (a : BitVec 6) (cls : BitVec 3) (sem : BitVec 2) (sco : BitVec 3) (off : BitVec 6) (g : BitVec 4) : Encoding.Statement (.ldh d a cls sem sco off g) := by
  intro st hv hw
  obtain ⟨h0, h1, h2, h3, h4, h5, h6⟩ := layout_6_6_6_3_2_3_6 0x22#6 d a cls sem sco off
  refine ⟨_, rfl, decode_of_form (n := true) (formOf_s hv (by rw [h0]; decide) ?_) (BitVec.and_zero) nofun hw⟩
  simp only [formS, form, h0, h1, h2, h3, h4, h5, h6, BitVec.reduceToNat]

theorem Encoding.ldhn (d : BitVec 6) (a : BitVec 6) (cls : BitVec 3) (sem : BitVec 2) (sco : BitVec 3) (off : BitVec 6) (g : BitVec 4) : Encoding.Statement (.ldhn d a cls sem sco off g) := by
  intro st hv hw
  obtain ⟨h0, h1, h2, h3, h4, h5, h6⟩ := layout_6_6_6_3_2_3_6 0x23#6 d a cls sem sco off
  refine ⟨_, rfl, decode_of_form (n := true) (formOf_s hv (by rw [h0]; decide) ?_) (BitVec.and_zero) nofun hw⟩
  simp only [formS, form, h0, h1, h2, h3, h4, h5, h6, BitVec.reduceToNat]

theorem Encoding.ldw (d : BitVec 6) (a : BitVec 6) (cls : BitVec 3) (sem : BitVec 2) (sco : BitVec 3) (off : BitVec 6) (g : BitVec 4) : Encoding.Statement (.ldw d a cls sem sco off g) := by
  intro st hv hw
  obtain ⟨h0, h1, h2, h3, h4, h5, h6⟩ := layout_6_6_6_3_2_3_6 0x24#6 d a cls sem sco off
  refine ⟨_, rfl, decode_of_form (n := true) (formOf_s hv (by rw [h0]; decide) ?_) (BitVec.and_zero) nofun hw⟩
  simp only [formS, form, h0, h1, h2, h3, h4, h5, h6, BitVec.reduceToNat]

theorem Encoding.ldwn (d : BitVec 6) (a : BitVec 6) (cls : BitVec 3) (sem : BitVec 2) (sco : BitVec 3) (off : BitVec 6) (g : BitVec 4) : Encoding.Statement (.ldwn d a cls sem sco off g) := by
  intro st hv hw
  obtain ⟨h0, h1, h2, h3, h4, h5, h6⟩ := layout_6_6_6_3_2_3_6 0x25#6 d a cls sem sco off
  refine ⟨_, rfl, decode_of_form (n := true) (formOf_s hv (by rw [h0]; decide) ?_) (BitVec.and_zero) nofun hw⟩
  simp only [formS, form, h0, h1, h2, h3, h4, h5, h6, BitVec.reduceToNat]

theorem Encoding.ldd (d : BitVec 6) (a : BitVec 6) (cls : BitVec 3) (sem : BitVec 2) (sco : BitVec 3) (off : BitVec 6) (g : BitVec 4) : Encoding.Statement (.ldd d a cls sem sco off g) := by
  intro st hv hw
  obtain ⟨h0, h1, h2, h3, h4, h5, h6⟩ := layout_6_6_6_3_2_3_6 0x26#6 d a cls sem sco off
  refine ⟨_, rfl, decode_of_form (n := true) (formOf_s hv (by rw [h0]; decide) ?_) (BitVec.and_zero) nofun hw⟩
  simp only [formS, form, h0, h1, h2, h3, h4, h5, h6, BitVec.reduceToNat]

theorem Encoding.stb (d : BitVec 6) (a : BitVec 6) (cls : BitVec 3) (sem : BitVec 2) (sco : BitVec 3) (off : BitVec 6) (g : BitVec 4) : Encoding.Statement (.stb d a cls sem sco off g) := by
  intro st hv hw
  obtain ⟨h0, h1, h2, h3, h4, h5, h6⟩ := layout_6_6_6_3_2_3_6 0x27#6 d a cls sem sco off
  refine ⟨_, rfl, decode_of_form (n := true) (formOf_s hv (by rw [h0]; decide) ?_) (BitVec.and_zero) nofun hw⟩
  simp only [formS, form, h0, h1, h2, h3, h4, h5, h6, BitVec.reduceToNat]

theorem Encoding.sth (d : BitVec 6) (a : BitVec 6) (cls : BitVec 3) (sem : BitVec 2) (sco : BitVec 3) (off : BitVec 6) (g : BitVec 4) : Encoding.Statement (.sth d a cls sem sco off g) := by
  intro st hv hw
  obtain ⟨h0, h1, h2, h3, h4, h5, h6⟩ := layout_6_6_6_3_2_3_6 0x28#6 d a cls sem sco off
  refine ⟨_, rfl, decode_of_form (n := true) (formOf_s hv (by rw [h0]; decide) ?_) (BitVec.and_zero) nofun hw⟩
  simp only [formS, form, h0, h1, h2, h3, h4, h5, h6, BitVec.reduceToNat]

theorem Encoding.stw (d : BitVec 6) (a : BitVec 6) (cls : BitVec 3) (sem : BitVec 2) (sco : BitVec 3) (off : BitVec 6) (g : BitVec 4) : Encoding.Statement (.stw d a cls sem sco off g) := by
  intro st hv hw
  obtain ⟨h0, h1, h2, h3, h4, h5, h6⟩ := layout_6_6_6_3_2_3_6 0x29#6 d a cls sem sco off
  refine ⟨_, rfl, decode_of_form (n := true) (formOf_s hv (by rw [h0]; decide) ?_) (BitVec.and_zero) nofun hw⟩
  simp only [formS, form, h0, h1, h2, h3, h4, h5, h6, BitVec.reduceToNat]

theorem Encoding.std (d : BitVec 6) (a : BitVec 6) (cls : BitVec 3) (sem : BitVec 2) (sco : BitVec 3) (off : BitVec 6) (g : BitVec 4) : Encoding.Statement (.std d a cls sem sco off g) := by
  intro st hv hw
  obtain ⟨h0, h1, h2, h3, h4, h5, h6⟩ := layout_6_6_6_3_2_3_6 0x2a#6 d a cls sem sco off
  refine ⟨_, rfl, decode_of_form (n := true) (formOf_s hv (by rw [h0]; decide) ?_) (BitVec.and_zero) nofun hw⟩
  simp only [formS, form, h0, h1, h2, h3, h4, h5, h6, BitVec.reduceToNat]

theorem Encoding.ldl (d : BitVec 6) (a : BitVec 6) (cls : BitVec 3) (sem : BitVec 2) (sco : BitVec 3) (j : BitVec 3) (g : BitVec 4) : Encoding.Statement (.ldl d a cls sem sco j g) := by
  intro st hv hw
  obtain ⟨h0, h1, h2, h3, h4, h5, h6, h7⟩ := layout_6_6_6_3_2_3_3_3 0x2b#6 d a cls sem sco j 0#3
  refine ⟨_, rfl, decode_of_form (n := true) (formOf_s hv (by rw [h0]; decide) ?_) (zero_field h7 (BitVec.and_zero) (z := 0x7#32) (by decide)) nofun hw⟩
  simp only [formS, form, h0, h1, h2, h3, h4, h5, h6, BitVec.reduceToNat]

theorem Encoding.aadd (d : BitVec 6) (a : BitVec 6) (b : BitVec 6) (sem : BitVec 2) (sco : BitVec 3) (g : BitVec 4) : Encoding.Statement (.aadd d a b sem sco g) := by
  intro st hv hw
  obtain ⟨h0, h1, h2, h3, h4, h5, h6⟩ := layout_6_6_6_6_3_2_3 0x2c#6 d a b 0#3 sem sco
  refine ⟨_, rfl, decode_of_form (n := true) (formOf_s hv (by rw [h0]; decide) ?_) (BitVec.and_zero) nofun hw⟩
  simp only [formS, form, h0, h1, h2, h3, h4, h5, h6, BitVec.reduceToNat]

theorem Encoding.amin (d : BitVec 6) (a : BitVec 6) (b : BitVec 6) (sem : BitVec 2) (sco : BitVec 3) (g : BitVec 4) : Encoding.Statement (.amin d a b sem sco g) := by
  intro st hv hw
  obtain ⟨h0, h1, h2, h3, h4, h5, h6⟩ := layout_6_6_6_6_3_2_3 0x2c#6 d a b 1#3 sem sco
  refine ⟨_, rfl, decode_of_form (n := true) (formOf_s hv (by rw [h0]; decide) ?_) (BitVec.and_zero) nofun hw⟩
  simp only [formS, form, h0, h1, h2, h3, h4, h5, h6, BitVec.reduceToNat]

theorem Encoding.amax (d : BitVec 6) (a : BitVec 6) (b : BitVec 6) (sem : BitVec 2) (sco : BitVec 3) (g : BitVec 4) : Encoding.Statement (.amax d a b sem sco g) := by
  intro st hv hw
  obtain ⟨h0, h1, h2, h3, h4, h5, h6⟩ := layout_6_6_6_6_3_2_3 0x2c#6 d a b 2#3 sem sco
  refine ⟨_, rfl, decode_of_form (n := true) (formOf_s hv (by rw [h0]; decide) ?_) (BitVec.and_zero) nofun hw⟩
  simp only [formS, form, h0, h1, h2, h3, h4, h5, h6, BitVec.reduceToNat]

theorem Encoding.aminn (d : BitVec 6) (a : BitVec 6) (b : BitVec 6) (sem : BitVec 2) (sco : BitVec 3) (g : BitVec 4) : Encoding.Statement (.aminn d a b sem sco g) := by
  intro st hv hw
  obtain ⟨h0, h1, h2, h3, h4, h5, h6⟩ := layout_6_6_6_6_3_2_3 0x2c#6 d a b 3#3 sem sco
  refine ⟨_, rfl, decode_of_form (n := true) (formOf_s hv (by rw [h0]; decide) ?_) (BitVec.and_zero) nofun hw⟩
  simp only [formS, form, h0, h1, h2, h3, h4, h5, h6, BitVec.reduceToNat]

theorem Encoding.amaxn (d : BitVec 6) (a : BitVec 6) (b : BitVec 6) (sem : BitVec 2) (sco : BitVec 3) (g : BitVec 4) : Encoding.Statement (.amaxn d a b sem sco g) := by
  intro st hv hw
  obtain ⟨h0, h1, h2, h3, h4, h5, h6⟩ := layout_6_6_6_6_3_2_3 0x2c#6 d a b 4#3 sem sco
  refine ⟨_, rfl, decode_of_form (n := true) (formOf_s hv (by rw [h0]; decide) ?_) (BitVec.and_zero) nofun hw⟩
  simp only [formS, form, h0, h1, h2, h3, h4, h5, h6, BitVec.reduceToNat]

theorem Encoding.aand (d : BitVec 6) (a : BitVec 6) (b : BitVec 6) (sem : BitVec 2) (sco : BitVec 3) (g : BitVec 4) : Encoding.Statement (.aand d a b sem sco g) := by
  intro st hv hw
  obtain ⟨h0, h1, h2, h3, h4, h5, h6⟩ := layout_6_6_6_6_3_2_3 0x2c#6 d a b 5#3 sem sco
  refine ⟨_, rfl, decode_of_form (n := true) (formOf_s hv (by rw [h0]; decide) ?_) (BitVec.and_zero) nofun hw⟩
  simp only [formS, form, h0, h1, h2, h3, h4, h5, h6, BitVec.reduceToNat]

theorem Encoding.aor (d : BitVec 6) (a : BitVec 6) (b : BitVec 6) (sem : BitVec 2) (sco : BitVec 3) (g : BitVec 4) : Encoding.Statement (.aor d a b sem sco g) := by
  intro st hv hw
  obtain ⟨h0, h1, h2, h3, h4, h5, h6⟩ := layout_6_6_6_6_3_2_3 0x2c#6 d a b 6#3 sem sco
  refine ⟨_, rfl, decode_of_form (n := true) (formOf_s hv (by rw [h0]; decide) ?_) (BitVec.and_zero) nofun hw⟩
  simp only [formS, form, h0, h1, h2, h3, h4, h5, h6, BitVec.reduceToNat]

theorem Encoding.aswap (d : BitVec 6) (a : BitVec 6) (b : BitVec 6) (sem : BitVec 2) (sco : BitVec 3) (g : BitVec 4) : Encoding.Statement (.aswap d a b sem sco g) := by
  intro st hv hw
  obtain ⟨h0, h1, h2, h3, h4, h5, h6⟩ := layout_6_6_6_6_3_2_3 0x2c#6 d a b 7#3 sem sco
  refine ⟨_, rfl, decode_of_form (n := true) (formOf_s hv (by rw [h0]; decide) ?_) (BitVec.and_zero) nofun hw⟩
  simp only [formS, form, h0, h1, h2, h3, h4, h5, h6, BitVec.reduceToNat]

theorem Encoding.casW (d : BitVec 6) (a : BitVec 6) (b : BitVec 6) (sem : BitVec 2) (sco : BitVec 3) (g : BitVec 4) : Encoding.Statement (.casW d a b sem sco g) := by
  intro st hv hw
  obtain ⟨h0, h1, h2, h3, h4, h5, h6⟩ := layout_6_6_6_6_3_2_3 0x2d#6 d a b 0#3 sem sco
  refine ⟨_, rfl, decode_of_form (n := true) (formOf_s hv (by rw [h0]; decide) ?_) (BitVec.and_zero) nofun hw⟩
  simp only [formS, form, h0, h1, h2, h3, h4, h5, h6, BitVec.reduceToNat]

theorem Encoding.casD (d : BitVec 6) (a : BitVec 6) (b : BitVec 6) (sem : BitVec 2) (sco : BitVec 3) (g : BitVec 4) : Encoding.Statement (.casD d a b sem sco g) := by
  intro st hv hw
  obtain ⟨h0, h1, h2, h3, h4, h5, h6⟩ := layout_6_6_6_6_3_2_3 0x2d#6 d a b 1#3 sem sco
  refine ⟨_, rfl, decode_of_form (n := true) (formOf_s hv (by rw [h0]; decide) ?_) (BitVec.and_zero) nofun hw⟩
  simp only [formS, form, h0, h1, h2, h3, h4, h5, h6, BitVec.reduceToNat]

theorem Encoding.fence (cls : BitVec 3) (sem : BitVec 2) (sco : BitVec 3) (g : BitVec 4) : Encoding.Statement (.fence cls sem sco g) := by
  intro st hv hw
  obtain ⟨h0, h1, h2, h3, h4, h5⟩ := layout_6_12_3_2_3_6 0x2e#6 0#12 cls sem sco 0#6
  refine ⟨_, rfl, decode_of_form (n := true) (formOf_s hv (by rw [h0]; decide) ?_) (zero_field h1 (zero_field h5 (BitVec.and_zero) (z := 0x3f#32) (by decide)) (z := 0x3ffc03f#32) (by decide)) nofun hw⟩
  simp only [formS, form, h0, h2, h3, h4, BitVec.reduceToNat]

theorem Encoding.br (g : BitVec 4) (n : Bool) (off : BitVec 18) : Encoding.Statement (.br g n off) := by
  intro st hv hw
  obtain ⟨h0, h1, h2, h3, h4⟩ := layout_6_4_1_3_18 0x30#6 g (BitVec.ofBool n) 0#3 off
  refine ⟨_, rfl, decode_of_form (n := false) (formOf_control (by rw [h0]; decide) ?_ hv) (BitVec.and_zero) (fun _ => rfl) hw⟩
  simp only [formC, form, h0, h1, bit_of_fld h2, h3, h4, BitVec.reduceToNat]

theorem Encoding.call (g : BitVec 4) (n : Bool) (off : BitVec 18) : Encoding.Statement (.call g n off) := by
  intro st hv hw
  obtain ⟨h0, h1, h2, h3, h4⟩ := layout_6_4_1_3_18 0x31#6 g (BitVec.ofBool n) 0#3 off
  refine ⟨_, rfl, decode_of_form (n := false) (formOf_control (by rw [h0]; decide) ?_ hv) (BitVec.and_zero) (fun _ => rfl) hw⟩
  simp only [formC, form, h0, h1, bit_of_fld h2, h3, h4, BitVec.reduceToNat]

theorem Encoding.jmpr (g : BitVec 4) (n : Bool) (t : BitVec 6) (l : BitVec 6) : Encoding.Statement (.jmpr g n t l) := by
  intro st hv hw
  obtain ⟨h0, h1, h2, h3, h4, h5, h6⟩ := layout_6_4_1_3_6_6_6 0x32#6 g (BitVec.ofBool n) 0#3 t l 0#6
  refine ⟨_, rfl, decode_of_form (n := false) (formOf_control (by rw [h0]; decide) ?_ hv) (zero_field h6 (BitVec.and_zero) (z := 0x3f#32) (by decide)) (fun _ => rfl) hw⟩
  simp only [formC, form, h0, h1, bit_of_fld h2, h3, h4, h5, BitVec.reduceToNat]

theorem Encoding.loop (g : BitVec 4) (n : Bool) (off : BitVec 18) : Encoding.Statement (.loop g n off) := by
  intro st hv hw
  obtain ⟨h0, h1, h2, h3, h4⟩ := layout_6_4_1_3_18 0x33#6 g (BitVec.ofBool n) 0#3 off
  refine ⟨_, rfl, decode_of_form (n := false) (formOf_control (by rw [h0]; decide) ?_ hv) (BitVec.and_zero) (fun _ => rfl) hw⟩
  simp only [formC, form, h0, h1, bit_of_fld h2, h3, h4, BitVec.reduceToNat]

theorem Encoding.lset (g : BitVec 4) (n : Bool) (c : BitVec 6) (stages : BitVec 4) (imm : BitVec 8) : Encoding.Statement (.lset g n c stages imm) := by
  intro st hv hw
  obtain ⟨h0, h1, h2, h3, h4, h5, h6⟩ := layout_6_4_1_3_6_4_8 0x34#6 g (BitVec.ofBool n) 0#3 c stages imm
  refine ⟨_, rfl, decode_of_form (n := false) (formOf_control (by rw [h0]; decide) ?_ hv) (BitVec.and_zero) (fun _ => rfl) hw⟩
  simp only [formC, form, h0, h1, bit_of_fld h2, h3, h4, h5, h6, BitVec.reduceToNat]

theorem Encoding.rdvFin (grp : BitVec 8) : Encoding.Statement (.rdvFin grp) := by
  intro st hv hw
  obtain ⟨h0, h1, h2, h3, h4⟩ := layout_6_5_3_8_10 0x35#6 0#5 0#3 grp 0#10
  refine ⟨_, rfl, decode_of_form (n := false) (formOf_control (by rw [h0]; decide) ?_ hv) (zero_field h1 (zero_field h4 (BitVec.and_zero) (z := 0x3ff#32) (by decide)) (z := 0x3e003ff#32) (by decide)) (fun _ => rfl) hw⟩
  simp only [formC, form, h0, h2, h3, BitVec.reduceToNat]

theorem Encoding.rdvMid (grp : BitVec 8) : Encoding.Statement (.rdvMid grp) := by
  intro st hv hw
  obtain ⟨h0, h1, h2, h3, h4⟩ := layout_6_5_3_8_10 0x35#6 0#5 1#3 grp 0#10
  refine ⟨_, rfl, decode_of_form (n := false) (formOf_control (by rw [h0]; decide) ?_ hv) (zero_field h1 (zero_field h4 (BitVec.and_zero) (z := 0x3ff#32) (by decide)) (z := 0x3e003ff#32) (by decide)) (fun _ => rfl) hw⟩
  simp only [formC, form, h0, h2, h3, BitVec.reduceToNat]

theorem Encoding.exit (g : BitVec 4) (n : Bool) (code : BitVec 16) : Encoding.Statement (.exit g n code) := by
  intro st hv hw
  obtain ⟨h0, h1, h2, h3, h4, h5⟩ := layout_6_4_1_3_2_16 0x36#6 g (BitVec.ofBool n) 0#3 0#2 code
  refine ⟨_, rfl, decode_of_form (n := false) (formOf_control (by rw [h0]; decide) ?_ hv) (zero_field h4 (BitVec.and_zero) (z := 0x30000#32) (by decide)) (fun _ => rfl) hw⟩
  simp only [formC, form, h0, h1, bit_of_fld h2, h3, h5, BitVec.reduceToNat]

theorem Encoding.waitc (g : BitVec 4) (n : Bool) (cnt : BitVec 18) : Encoding.Statement (.waitc g n cnt) := by
  intro st hv hw
  obtain ⟨h0, h1, h2, h3, h4⟩ := layout_6_4_1_3_18 0x37#6 g (BitVec.ofBool n) 0#3 cnt
  refine ⟨_, rfl, decode_of_form (n := false) (formOf_control (by rw [h0]; decide) ?_ hv) (BitVec.and_zero) (fun _ => rfl) hw⟩
  simp only [formC, form, h0, h1, bit_of_fld h2, h3, h4, BitVec.reduceToNat]

theorem Encoding.yield : Encoding.Statement (.yield ) := by
  intro st hv hw
  obtain ⟨h0, h1, h2, h3⟩ := layout_6_5_3_18 0x38#6 0#5 0#3 0#18
  refine ⟨_, rfl, decode_of_form (n := false) (formOf_control (by rw [h0]; decide) ?_ hv) (zero_field h1 (zero_field h3 (BitVec.and_zero) (z := 0x3ffff#32) (by decide)) (z := 0x3e3ffff#32) (by decide)) (fun _ => rfl) hw⟩
  simp only [formC, form, h0, h2, BitVec.reduceToNat]

theorem Encoding.phase (g : BitVec 4) (n : Bool) (k : BitVec 4) : Encoding.Statement (.phase g n k) := by
  intro st hv hw
  obtain ⟨h0, h1, h2, h3, h4, h5⟩ := layout_6_4_1_3_14_4 0x39#6 g (BitVec.ofBool n) 0#3 0#14 k
  refine ⟨_, rfl, decode_of_form (n := false) (formOf_control (by rw [h0]; decide) ?_ hv) (zero_field h4 (BitVec.and_zero) (z := 0x3fff0#32) (by decide)) (fun _ => rfl) hw⟩
  simp only [formC, form, h0, h1, bit_of_fld h2, h3, h5, BitVec.reduceToNat]

theorem Encoding.lease (g : BitVec 4) (n : Bool) (cnt : BitVec 5) : Encoding.Statement (.lease g n cnt) := by
  intro st hv hw
  obtain ⟨h0, h1, h2, h3, h4, h5⟩ := layout_6_4_1_3_13_5 0x3a#6 g (BitVec.ofBool n) 0#3 0#13 cnt
  refine ⟨_, rfl, decode_of_form (n := false) (formOf_control (by rw [h0]; decide) ?_ hv) (zero_field h4 (BitVec.and_zero) (z := 0x3ffe0#32) (by decide)) (fun _ => rfl) hw⟩
  simp only [formC, form, h0, h1, bit_of_fld h2, h3, h5, BitVec.reduceToNat]

theorem Encoding.barInit (g : BitVec 4) (n : Bool) (bid : BitVec 8) (sc : BitVec 6) : Encoding.Statement (.barInit g n bid sc) := by
  intro st hv hw
  obtain ⟨h0, h1, h2, h3, h4, h5, h6⟩ := layout_6_4_1_3_8_6_4 0x3b#6 g (BitVec.ofBool n) 0#3 bid sc 0#4
  refine ⟨_, rfl, decode_of_form (n := false) (formOf_control (by rw [h0]; decide) ?_ hv) (zero_field h6 (BitVec.and_zero) (z := 0xf#32) (by decide)) (fun _ => rfl) hw⟩
  simp only [formC, form, h0, h1, bit_of_fld h2, h3, h4, h5, BitVec.reduceToNat]

theorem Encoding.barExpb (g : BitVec 4) (n : Bool) (bid : BitVec 8) (sc : BitVec 6) : Encoding.Statement (.barExpb g n bid sc) := by
  intro st hv hw
  obtain ⟨h0, h1, h2, h3, h4, h5, h6⟩ := layout_6_4_1_3_8_6_4 0x3b#6 g (BitVec.ofBool n) 1#3 bid sc 0#4
  refine ⟨_, rfl, decode_of_form (n := false) (formOf_control (by rw [h0]; decide) ?_ hv) (zero_field h6 (BitVec.and_zero) (z := 0xf#32) (by decide)) (fun _ => rfl) hw⟩
  simp only [formC, form, h0, h1, bit_of_fld h2, h3, h4, h5, BitVec.reduceToNat]

theorem Encoding.barArv (g : BitVec 4) (n : Bool) (bid : BitVec 8) (sco : BitVec 3) : Encoding.Statement (.barArv g n bid sco) := by
  intro st hv hw
  obtain ⟨h0, h1, h2, h3, h4, h5, h6, h7⟩ := layout_6_4_1_3_8_6_3_1 0x3b#6 g (BitVec.ofBool n) 2#3 bid 0#6 sco 0#1
  refine ⟨_, rfl, decode_of_form (n := false) (formOf_control (by rw [h0]; decide) ?_ hv) (zero_field h5 (zero_field h7 (BitVec.and_zero) (z := 0x1#32) (by decide)) (z := 0x3f1#32) (by decide)) (fun _ => rfl) hw⟩
  simp only [formC, form, h0, h1, bit_of_fld h2, h3, h4, h6, BitVec.reduceToNat]

theorem Encoding.barWait (g : BitVec 4) (n : Bool) (bid : BitVec 8) (sco : BitVec 3) : Encoding.Statement (.barWait g n bid sco) := by
  intro st hv hw
  obtain ⟨h0, h1, h2, h3, h4, h5, h6, h7⟩ := layout_6_4_1_3_8_6_3_1 0x3b#6 g (BitVec.ofBool n) 3#3 bid 0#6 sco 0#1
  refine ⟨_, rfl, decode_of_form (n := false) (formOf_control (by rw [h0]; decide) ?_ hv) (zero_field h5 (zero_field h7 (BitVec.and_zero) (z := 0x1#32) (by decide)) (z := 0x3f1#32) (by decide)) (fun _ => rfl) hw⟩
  simp only [formC, form, h0, h1, bit_of_fld h2, h3, h4, h6, BitVec.reduceToNat]

theorem Encoding.barAw (g : BitVec 4) (n : Bool) (bid : BitVec 8) (sco : BitVec 3) : Encoding.Statement (.barAw g n bid sco) := by
  intro st hv hw
  obtain ⟨h0, h1, h2, h3, h4, h5, h6, h7⟩ := layout_6_4_1_3_8_6_3_1 0x3b#6 g (BitVec.ofBool n) 4#3 bid 0#6 sco 0#1
  refine ⟨_, rfl, decode_of_form (n := false) (formOf_control (by rw [h0]; decide) ?_ hv) (zero_field h5 (zero_field h7 (BitVec.and_zero) (z := 0x1#32) (by decide)) (z := 0x3f1#32) (by decide)) (fun _ => rfl) hw⟩
  simp only [formC, form, h0, h1, bit_of_fld h2, h3, h4, h6, BitVec.reduceToNat]

theorem Encoding.mfsr (g : BitVec 4) (n : Bool) (d : BitVec 6) (reg : BitVec 12) : Encoding.Statement (.mfsr g n d reg) := by
  intro st hv hw
  obtain ⟨h0, h1, h2, h3, h4, h5⟩ := layout_6_4_1_3_6_12 0x3c#6 g (BitVec.ofBool n) 0#3 d reg
  refine ⟨_, rfl, decode_of_form (n := false) (formOf_control (by rw [h0]; decide) ?_ hv) (BitVec.and_zero) (fun _ => rfl) hw⟩
  simp only [formC, form, h0, h1, bit_of_fld h2, h3, h4, h5, BitVec.reduceToNat]

theorem Encoding.mtsr (g : BitVec 4) (n : Bool) (a : BitVec 6) (reg : BitVec 12) : Encoding.Statement (.mtsr g n a reg) := by
  intro st hv hw
  obtain ⟨h0, h1, h2, h3, h4, h5⟩ := layout_6_4_1_3_6_12 0x3c#6 g (BitVec.ofBool n) 1#3 a reg
  refine ⟨_, rfl, decode_of_form (n := false) (formOf_control (by rw [h0]; decide) ?_ hv) (BitVec.and_zero) (fun _ => rfl) hw⟩
  simp only [formC, form, h0, h1, bit_of_fld h2, h3, h4, h5, BitVec.reduceToNat]

theorem Encoding.trap (g : BitVec 4) (n : Bool) (code : BitVec 12) : Encoding.Statement (.trap g n code) := by
  intro st hv hw
  obtain ⟨h0, h1, h2, h3, h4, h5⟩ := layout_6_4_1_3_6_12 0x3c#6 g (BitVec.ofBool n) 2#3 0#6 code
  refine ⟨_, rfl, decode_of_form (n := false) (formOf_control (by rw [h0]; decide) ?_ hv) (zero_field h4 (BitVec.and_zero) (z := 0x3f000#32) (by decide)) (fun _ => rfl) hw⟩
  simp only [formC, form, h0, h1, bit_of_fld h2, h3, h5, BitVec.reduceToNat]

theorem Encoding.evnt (g : BitVec 4) (n : Bool) (code : BitVec 12) : Encoding.Statement (.evnt g n code) := by
  intro st hv hw
  obtain ⟨h0, h1, h2, h3, h4, h5⟩ := layout_6_4_1_3_6_12 0x3c#6 g (BitVec.ofBool n) 3#3 0#6 code
  refine ⟨_, rfl, decode_of_form (n := false) (formOf_control (by rw [h0]; decide) ?_ hv) (zero_field h4 (BitVec.and_zero) (z := 0x3f000#32) (by decide)) (fun _ => rfl) hw⟩
  simp only [formC, form, h0, h1, bit_of_fld h2, h3, h5, BitVec.reduceToNat]

theorem Encoding.tlbi (g : BitVec 4) (n : Bool) (a : BitVec 6) : Encoding.Statement (.tlbi g n a) := by
  intro st hv hw
  obtain ⟨h0, h1, h2, h3, h4, h5⟩ := layout_6_4_1_3_6_12 0x3c#6 g (BitVec.ofBool n) 4#3 a 0#12
  refine ⟨_, rfl, decode_of_form (n := false) (formOf_control (by rw [h0]; decide) ?_ hv) (zero_field h5 (BitVec.and_zero) (z := 0xfff#32) (by decide)) (fun _ => rfl) hw⟩
  simp only [formC, form, h0, h1, bit_of_fld h2, h3, h4, BitVec.reduceToNat]

theorem Encoding.dinv (g : BitVec 4) (n : Bool) (a : BitVec 6) : Encoding.Statement (.dinv g n a) := by
  intro st hv hw
  obtain ⟨h0, h1, h2, h3, h4, h5⟩ := layout_6_4_1_3_6_12 0x3c#6 g (BitVec.ofBool n) 5#3 a 0#12
  refine ⟨_, rfl, decode_of_form (n := false) (formOf_control (by rw [h0]; decide) ?_ hv) (zero_field h5 (BitVec.and_zero) (z := 0xfff#32) (by decide)) (fun _ => rfl) hw⟩
  simp only [formC, form, h0, h1, bit_of_fld h2, h3, h4, BitVec.reduceToNat]

theorem Encoding.halt (g : BitVec 4) (n : Bool) : Encoding.Statement (.halt g n) := by
  intro st hv hw
  obtain ⟨h0, h1, h2, h3, h4⟩ := layout_6_4_1_3_18 0x3c#6 g (BitVec.ofBool n) 6#3 0#18
  refine ⟨_, rfl, decode_of_form (n := false) (formOf_control (by rw [h0]; decide) ?_ hv) (zero_field h4 (BitVec.and_zero) (z := 0x3ffff#32) (by decide)) (fun _ => rfl) hw⟩
  simp only [formC, form, h0, h1, bit_of_fld h2, h3, BitVec.reduceToNat]

theorem Encoding.csave (g : BitVec 4) (n : Bool) (a : BitVec 6) : Encoding.Statement (.csave g n a) := by
  intro st hv hw
  obtain ⟨h0, h1, h2, h3, h4, h5⟩ := layout_6_4_1_3_6_12 0x3c#6 g (BitVec.ofBool n) 7#3 a 0#12
  refine ⟨_, rfl, decode_of_form (n := false) (formOf_control (by rw [h0]; decide) ?_ hv) (zero_field h5 (BitVec.and_zero) (z := 0xfff#32) (by decide)) (fun _ => rfl) hw⟩
  simp only [formC, form, h0, h1, bit_of_fld h2, h3, h4, BitVec.reduceToNat]

theorem Encoding.lhash (g : BitVec 4) (n : Bool) (d : BitVec 6) (a : BitVec 6) (b : BitVec 6) : Encoding.Statement (.lhash g n d a b) := by
  intro st hv hw
  obtain ⟨h0, h1, h2, h3, h4, h5, h6⟩ := layout_6_4_1_3_6_6_6 0x3d#6 g (BitVec.ofBool n) 0#3 d a b
  refine ⟨_, rfl, decode_of_form (n := false) (formOf_control (by rw [h0]; decide) ?_ hv) (BitVec.and_zero) (fun _ => rfl) hw⟩
  simp only [formC, form, h0, h1, bit_of_fld h2, h3, h4, h5, h6, BitVec.reduceToNat]

theorem Encoding.lgath (g : BitVec 4) (n : Bool) (d : BitVec 6) (a : BitVec 6) (b : BitVec 6) : Encoding.Statement (.lgath g n d a b) := by
  intro st hv hw
  obtain ⟨h0, h1, h2, h3, h4, h5, h6⟩ := layout_6_4_1_3_6_6_6 0x3d#6 g (BitVec.ofBool n) 1#3 d a b
  refine ⟨_, rfl, decode_of_form (n := false) (formOf_control (by rw [h0]; decide) ?_ hv) (BitVec.and_zero) (fun _ => rfl) hw⟩
  simp only [formC, form, h0, h1, bit_of_fld h2, h3, h4, h5, h6, BitVec.reduceToNat]

theorem Encoding.lpool (g : BitVec 4) (n : Bool) (d : BitVec 6) (a : BitVec 6) (b : BitVec 6) : Encoding.Statement (.lpool g n d a b) := by
  intro st hv hw
  obtain ⟨h0, h1, h2, h3, h4, h5, h6⟩ := layout_6_4_1_3_6_6_6 0x3d#6 g (BitVec.ofBool n) 2#3 d a b
  refine ⟨_, rfl, decode_of_form (n := false) (formOf_control (by rw [h0]; decide) ?_ hv) (BitVec.and_zero) (fun _ => rfl) hw⟩
  simp only [formC, form, h0, h1, bit_of_fld h2, h3, h4, h5, h6, BitVec.reduceToNat]

theorem Encoding.lscat (g : BitVec 4) (n : Bool) (d : BitVec 6) (a : BitVec 6) (b : BitVec 6) : Encoding.Statement (.lscat g n d a b) := by
  intro st hv hw
  obtain ⟨h0, h1, h2, h3, h4, h5, h6⟩ := layout_6_4_1_3_6_6_6 0x3d#6 g (BitVec.ofBool n) 3#3 d a b
  refine ⟨_, rfl, decode_of_form (n := false) (formOf_control (by rw [h0]; decide) ?_ hv) (BitVec.and_zero) (fun _ => rfl) hw⟩
  simp only [formC, form, h0, h1, bit_of_fld h2, h3, h4, h5, h6, BitVec.reduceToNat]

theorem Encoding.lhand (g : BitVec 4) (n : Bool) (d : BitVec 6) (a : BitVec 6) (b : BitVec 6) : Encoding.Statement (.lhand g n d a b) := by
  intro st hv hw
  obtain ⟨h0, h1, h2, h3, h4, h5, h6⟩ := layout_6_4_1_3_6_6_6 0x3d#6 g (BitVec.ofBool n) 4#3 d a b
  refine ⟨_, rfl, decode_of_form (n := false) (formOf_control (by rw [h0]; decide) ?_ hv) (BitVec.and_zero) (fun _ => rfl) hw⟩
  simp only [formC, form, h0, h1, bit_of_fld h2, h3, h4, h5, h6, BitVec.reduceToNat]

theorem Encoding.vadd (d : BitVec 6) (a : BitVec 7) (b : BitVec 7) (x : Bool) (w : Bool) (g : BitVec 4) : Encoding.Statement (.vadd d a b x w g) := by
  intro st hv hw
  obtain ⟨h0, h1, h2, h3, h4, h5, h6⟩ := layout_6_6_7_7_1_1_4 0x1#6 d a b (BitVec.ofBool x) (BitVec.ofBool w) g
  refine ⟨_, rfl, decode_of_form (n := false) (formOf_v hv (by rw [h0]; decide) ?_) (BitVec.and_zero) (fun _ => rfl) hw⟩
  simp only [formV, form, h0, h1, h2, h3, bit_of_fld h4, bit_of_fld h5, h6, BitVec.reduceToNat]

theorem Encoding.vsub (d : BitVec 6) (a : BitVec 7) (b : BitVec 7) (x : Bool) (w : Bool) (g : BitVec 4) : Encoding.Statement (.vsub d a b x w g) := by
  intro st hv hw
  obtain ⟨h0, h1, h2, h3, h4, h5, h6⟩ := layout_6_6_7_7_1_1_4 0x2#6 d a b (BitVec.ofBool x) (BitVec.ofBool w) g
  refine ⟨_, rfl, decode_of_form (n := false) (formOf_v hv (by rw [h0]; decide) ?_) (BitVec.and_zero) (fun _ => rfl) hw⟩
  simp only [formV, form, h0, h1, h2, h3, bit_of_fld h4, bit_of_fld h5, h6, BitVec.reduceToNat]

theorem Encoding.vmul (d : BitVec 6) (a : BitVec 7) (b : BitVec 7) (x : Bool) (w : Bool) (g : BitVec 4) : Encoding.Statement (.vmul d a b x w g) := by
  intro st hv hw
  obtain ⟨h0, h1, h2, h3, h4, h5, h6⟩ := layout_6_6_7_7_1_1_4 0x3#6 d a b (BitVec.ofBool x) (BitVec.ofBool w) g
  refine ⟨_, rfl, decode_of_form (n := false) (formOf_v hv (by rw [h0]; decide) ?_) (BitVec.and_zero) (fun _ => rfl) hw⟩
  simp only [formV, form, h0, h1, h2, h3, bit_of_fld h4, bit_of_fld h5, h6, BitVec.reduceToNat]

theorem Encoding.vfma (d : BitVec 6) (a : BitVec 7) (b : BitVec 7) (x : Bool) (w : Bool) (g : BitVec 4) : Encoding.Statement (.vfma d a b x w g) := by
  intro st hv hw
  obtain ⟨h0, h1, h2, h3, h4, h5, h6⟩ := layout_6_6_7_7_1_1_4 0x4#6 d a b (BitVec.ofBool x) (BitVec.ofBool w) g
  refine ⟨_, rfl, decode_of_form (n := false) (formOf_v hv (by rw [h0]; decide) ?_) (BitVec.and_zero) (fun _ => rfl) hw⟩
  simp only [formV, form, h0, h1, h2, h3, bit_of_fld h4, bit_of_fld h5, h6, BitVec.reduceToNat]

theorem Encoding.vfms (d : BitVec 6) (a : BitVec 7) (b : BitVec 7) (x : Bool) (w : Bool) (g : BitVec 4) : Encoding.Statement (.vfms d a b x w g) := by
  intro st hv hw
  obtain ⟨h0, h1, h2, h3, h4, h5, h6⟩ := layout_6_6_7_7_1_1_4 0x5#6 d a b (BitVec.ofBool x) (BitVec.ofBool w) g
  refine ⟨_, rfl, decode_of_form (n := false) (formOf_v hv (by rw [h0]; decide) ?_) (BitVec.and_zero) (fun _ => rfl) hw⟩
  simp only [formV, form, h0, h1, h2, h3, bit_of_fld h4, bit_of_fld h5, h6, BitVec.reduceToNat]

theorem Encoding.vmin (d : BitVec 6) (a : BitVec 7) (b : BitVec 7) (x : Bool) (w : Bool) (g : BitVec 4) : Encoding.Statement (.vmin d a b x w g) := by
  intro st hv hw
  obtain ⟨h0, h1, h2, h3, h4, h5, h6⟩ := layout_6_6_7_7_1_1_4 0x6#6 d a b (BitVec.ofBool x) (BitVec.ofBool w) g
  refine ⟨_, rfl, decode_of_form (n := false) (formOf_v hv (by rw [h0]; decide) ?_) (BitVec.and_zero) (fun _ => rfl) hw⟩
  simp only [formV, form, h0, h1, h2, h3, bit_of_fld h4, bit_of_fld h5, h6, BitVec.reduceToNat]

theorem Encoding.vmax (d : BitVec 6) (a : BitVec 7) (b : BitVec 7) (x : Bool) (w : Bool) (g : BitVec 4) : Encoding.Statement (.vmax d a b x w g) := by
  intro st hv hw
  obtain ⟨h0, h1, h2, h3, h4, h5, h6⟩ := layout_6_6_7_7_1_1_4 0x7#6 d a b (BitVec.ofBool x) (BitVec.ofBool w) g
  refine ⟨_, rfl, decode_of_form (n := false) (formOf_v hv (by rw [h0]; decide) ?_) (BitVec.and_zero) (fun _ => rfl) hw⟩
  simp only [formV, form, h0, h1, h2, h3, bit_of_fld h4, bit_of_fld h5, h6, BitVec.reduceToNat]

theorem Encoding.vun (d : BitVec 6) (a : BitVec 7) (fn : BitVec 7) (x : Bool) (w : Bool) (g : BitVec 4) : Encoding.Statement (.vun d a fn x w g) := by
  intro st hv hw
  obtain ⟨h0, h1, h2, h3, h4, h5, h6⟩ := layout_6_6_7_7_1_1_4 0x8#6 d a fn (BitVec.ofBool x) (BitVec.ofBool w) g
  refine ⟨_, rfl, decode_of_form (n := false) (formOf_v hv (by rw [h0]; decide) ?_) (BitVec.and_zero) (fun _ => rfl) hw⟩
  simp only [formV, form, h0, h1, h2, h3, bit_of_fld h4, bit_of_fld h5, h6, BitVec.reduceToNat]

theorem Encoding.vand (d : BitVec 6) (a : BitVec 7) (b : BitVec 7) (x : Bool) (w : Bool) (g : BitVec 4) : Encoding.Statement (.vand d a b x w g) := by
  intro st hv hw
  obtain ⟨h0, h1, h2, h3, h4, h5, h6⟩ := layout_6_6_7_7_1_1_4 0x9#6 d a b (BitVec.ofBool x) (BitVec.ofBool w) g
  refine ⟨_, rfl, decode_of_form (n := false) (formOf_v hv (by rw [h0]; decide) ?_) (BitVec.and_zero) (fun _ => rfl) hw⟩
  simp only [formV, form, h0, h1, h2, h3, bit_of_fld h4, bit_of_fld h5, h6, BitVec.reduceToNat]

theorem Encoding.vor (d : BitVec 6) (a : BitVec 7) (b : BitVec 7) (x : Bool) (w : Bool) (g : BitVec 4) : Encoding.Statement (.vor d a b x w g) := by
  intro st hv hw
  obtain ⟨h0, h1, h2, h3, h4, h5, h6⟩ := layout_6_6_7_7_1_1_4 0xa#6 d a b (BitVec.ofBool x) (BitVec.ofBool w) g
  refine ⟨_, rfl, decode_of_form (n := false) (formOf_v hv (by rw [h0]; decide) ?_) (BitVec.and_zero) (fun _ => rfl) hw⟩
  simp only [formV, form, h0, h1, h2, h3, bit_of_fld h4, bit_of_fld h5, h6, BitVec.reduceToNat]

theorem Encoding.vxor (d : BitVec 6) (a : BitVec 7) (b : BitVec 7) (x : Bool) (w : Bool) (g : BitVec 4) : Encoding.Statement (.vxor d a b x w g) := by
  intro st hv hw
  obtain ⟨h0, h1, h2, h3, h4, h5, h6⟩ := layout_6_6_7_7_1_1_4 0xb#6 d a b (BitVec.ofBool x) (BitVec.ofBool w) g
  refine ⟨_, rfl, decode_of_form (n := false) (formOf_v hv (by rw [h0]; decide) ?_) (BitVec.and_zero) (fun _ => rfl) hw⟩
  simp only [formV, form, h0, h1, h2, h3, bit_of_fld h4, bit_of_fld h5, h6, BitVec.reduceToNat]

theorem Encoding.vshl (d : BitVec 6) (a : BitVec 7) (b : BitVec 7) (x : Bool) (w : Bool) (g : BitVec 4) : Encoding.Statement (.vshl d a b x w g) := by
  intro st hv hw
  obtain ⟨h0, h1, h2, h3, h4, h5, h6⟩ := layout_6_6_7_7_1_1_4 0xc#6 d a b (BitVec.ofBool x) (BitVec.ofBool w) g
  refine ⟨_, rfl, decode_of_form (n := false) (formOf_v hv (by rw [h0]; decide) ?_) (BitVec.and_zero) (fun _ => rfl) hw⟩
  simp only [formV, form, h0, h1, h2, h3, bit_of_fld h4, bit_of_fld h5, h6, BitVec.reduceToNat]

theorem Encoding.vshr (d : BitVec 6) (a : BitVec 7) (b : BitVec 7) (x : Bool) (w : Bool) (g : BitVec 4) : Encoding.Statement (.vshr d a b x w g) := by
  intro st hv hw
  obtain ⟨h0, h1, h2, h3, h4, h5, h6⟩ := layout_6_6_7_7_1_1_4 0xd#6 d a b (BitVec.ofBool x) (BitVec.ofBool w) g
  refine ⟨_, rfl, decode_of_form (n := false) (formOf_v hv (by rw [h0]; decide) ?_) (BitVec.and_zero) (fun _ => rfl) hw⟩
  simp only [formV, form, h0, h1, h2, h3, bit_of_fld h4, bit_of_fld h5, h6, BitVec.reduceToNat]

theorem Encoding.vsar (d : BitVec 6) (a : BitVec 7) (b : BitVec 7) (x : Bool) (w : Bool) (g : BitVec 4) : Encoding.Statement (.vsar d a b x w g) := by
  intro st hv hw
  obtain ⟨h0, h1, h2, h3, h4, h5, h6⟩ := layout_6_6_7_7_1_1_4 0xe#6 d a b (BitVec.ofBool x) (BitVec.ofBool w) g
  refine ⟨_, rfl, decode_of_form (n := false) (formOf_v hv (by rw [h0]; decide) ?_) (BitVec.and_zero) (fun _ => rfl) hw⟩
  simp only [formV, form, h0, h1, h2, h3, bit_of_fld h4, bit_of_fld h5, h6, BitVec.reduceToNat]

theorem Encoding.vfsl (d : BitVec 6) (a : BitVec 7) (b : BitVec 7) (x : Bool) (w : Bool) (g : BitVec 4) : Encoding.Statement (.vfsl d a b x w g) := by
  intro st hv hw
  obtain ⟨h0, h1, h2, h3, h4, h5, h6⟩ := layout_6_6_7_7_1_1_4 0xf#6 d a b (BitVec.ofBool x) (BitVec.ofBool w) g
  refine ⟨_, rfl, decode_of_form (n := false) (formOf_v hv (by rw [h0]; decide) ?_) (BitVec.and_zero) (fun _ => rfl) hw⟩
  simp only [formV, form, h0, h1, h2, h3, bit_of_fld h4, bit_of_fld h5, h6, BitVec.reduceToNat]

theorem Encoding.vfsr (d : BitVec 6) (a : BitVec 7) (b : BitVec 7) (x : Bool) (w : Bool) (g : BitVec 4) : Encoding.Statement (.vfsr d a b x w g) := by
  intro st hv hw
  obtain ⟨h0, h1, h2, h3, h4, h5, h6⟩ := layout_6_6_7_7_1_1_4 0x10#6 d a b (BitVec.ofBool x) (BitVec.ofBool w) g
  refine ⟨_, rfl, decode_of_form (n := false) (formOf_v hv (by rw [h0]; decide) ?_) (BitVec.and_zero) (fun _ => rfl) hw⟩
  simp only [formV, form, h0, h1, h2, h3, bit_of_fld h4, bit_of_fld h5, h6, BitVec.reduceToNat]

theorem Encoding.vhar (d : BitVec 6) (a : BitVec 7) (x : Bool) (w : Bool) (g : BitVec 4) : Encoding.Statement (.vhar d a x w g) := by
  intro st hv hw
  obtain ⟨h0, h1, h2, h3, h4, h5, h6⟩ := layout_6_6_7_7_1_1_4 0x11#6 d a 0#7 (BitVec.ofBool x) (BitVec.ofBool w) g
  refine ⟨_, rfl, decode_of_form (n := false) (formOf_v hv (by rw [h0]; decide) ?_) (zero_field h3 (BitVec.and_zero) (z := 0x1fc0#32) (by decide)) (fun _ => rfl) hw⟩
  simp only [formV, form, h0, h1, h2, bit_of_fld h4, bit_of_fld h5, h6, BitVec.reduceToNat]

theorem Encoding.vihr (d : BitVec 6) (a : BitVec 7) (x : Bool) (w : Bool) (g : BitVec 4) : Encoding.Statement (.vihr d a x w g) := by
  intro st hv hw
  obtain ⟨h0, h1, h2, h3, h4, h5, h6⟩ := layout_6_6_7_7_1_1_4 0x12#6 d a 0#7 (BitVec.ofBool x) (BitVec.ofBool w) g
  refine ⟨_, rfl, decode_of_form (n := false) (formOf_v hv (by rw [h0]; decide) ?_) (zero_field h3 (BitVec.and_zero) (z := 0x1fc0#32) (by decide)) (fun _ => rfl) hw⟩
  simp only [formV, form, h0, h1, h2, bit_of_fld h4, bit_of_fld h5, h6, BitVec.reduceToNat]

theorem Encoding.vcmp (cc : BitVec 3) (mk : BitVec 3) (a : BitVec 7) (b : BitVec 7) (x : Bool) (g : BitVec 4) : Encoding.Statement (.vcmp cc mk a b x g) := by
  intro st hv hw
  obtain ⟨h0, h1, h2, h3, h4, h5, h6, h7⟩ := layout_6_3_3_7_7_1_1_4 0x13#6 cc mk a b (BitVec.ofBool x) 0#1 g
  refine ⟨_, rfl, decode_of_form (n := false) (formOf_v hv (by rw [h0]; decide) ?_) (zero_field h6 (BitVec.and_zero) (z := 0x10#32) (by decide)) (fun _ => rfl) hw⟩
  simp only [formV, form, h0, h1, h2, h3, h4, bit_of_fld h5, h7, BitVec.reduceToNat]

theorem Encoding.vsel (d : BitVec 6) (a : BitVec 7) (b : BitVec 7) (w : Bool) (g : BitVec 4) : Encoding.Statement (.vsel d a b w g) := by
  intro st hv hw
  obtain ⟨h0, h1, h2, h3, h4, h5, h6⟩ := layout_6_6_7_7_1_1_4 0x14#6 d a b 0#1 (BitVec.ofBool w) g
  refine ⟨_, rfl, decode_of_form (n := false) (formOf_v hv (by rw [h0]; decide) ?_) (zero_field h4 (BitVec.and_zero) (z := 0x20#32) (by decide)) (fun _ => rfl) hw⟩
  simp only [formV, form, h0, h1, h2, h3, bit_of_fld h5, h6, BitVec.reduceToNat]

theorem Encoding.vmsk (op : BitVec 3) (mk : BitVec 3) (ma : BitVec 3) (mb : BitVec 3) (g : BitVec 4) : Encoding.Statement (.vmsk op mk ma mb g) := by
  intro st hv hw
  obtain ⟨h0, h1, h2, h3, h4, h5, h6, h7, h8⟩ := layout_6_3_3_4_3_4_3_2_4 0x15#6 op mk 0#4 ma 0#4 mb 0#2 g
  refine ⟨_, rfl, decode_of_form (n := false) (formOf_v hv (by rw [h0]; decide) ?_) (zero_field h3 (zero_field h5 (zero_field h7 (BitVec.and_zero) (z := 0x30#32) (by decide)) (z := 0x1e30#32) (by decide)) (z := 0xf1e30#32) (by decide)) (fun _ => rfl) hw⟩
  simp only [formV, form, h0, h1, h2, h4, h6, h8, BitVec.reduceToNat]

theorem Encoding.vcomp (d : BitVec 6) (a : BitVec 7) (w : Bool) (g : BitVec 4) : Encoding.Statement (.vcomp d a w g) := by
  intro st hv hw
  obtain ⟨h0, h1, h2, h3, h4, h5⟩ := layout_6_6_7_8_1_4 0x16#6 d a 0#8 (BitVec.ofBool w) g
  refine ⟨_, rfl, decode_of_form (n := false) (formOf_v hv (by rw [h0]; decide) ?_) (zero_field h3 (BitVec.and_zero) (z := 0x1fe0#32) (by decide)) (fun _ => rfl) hw⟩
  simp only [formV, form, h0, h1, h2, bit_of_fld h4, h5, BitVec.reduceToNat]

theorem Encoding.vexpd (d : BitVec 6) (a : BitVec 7) (w : Bool) (g : BitVec 4) : Encoding.Statement (.vexpd d a w g) := by
  intro st hv hw
  obtain ⟨h0, h1, h2, h3, h4, h5⟩ := layout_6_6_7_8_1_4 0x17#6 d a 0#8 (BitVec.ofBool w) g
  refine ⟨_, rfl, decode_of_form (n := false) (formOf_v hv (by rw [h0]; decide) ?_) (zero_field h3 (BitVec.and_zero) (z := 0x1fe0#32) (by decide)) (fun _ => rfl) hw⟩
  simp only [formV, form, h0, h1, h2, bit_of_fld h4, h5, BitVec.reduceToNat]

theorem Encoding.vslu (d : BitVec 6) (a : BitVec 7) (n : BitVec 7) (x : Bool) (w : Bool) (g : BitVec 4) : Encoding.Statement (.vslu d a n x w g) := by
  intro st hv hw
  obtain ⟨h0, h1, h2, h3, h4, h5, h6⟩ := layout_6_6_7_7_1_1_4 0x18#6 d a n (BitVec.ofBool x) (BitVec.ofBool w) g
  refine ⟨_, rfl, decode_of_form (n := false) (formOf_v hv (by rw [h0]; decide) ?_) (BitVec.and_zero) (fun _ => rfl) hw⟩
  simp only [formV, form, h0, h1, h2, h3, bit_of_fld h4, bit_of_fld h5, h6, BitVec.reduceToNat]

theorem Encoding.vsld (d : BitVec 6) (a : BitVec 7) (n : BitVec 7) (x : Bool) (w : Bool) (g : BitVec 4) : Encoding.Statement (.vsld d a n x w g) := by
  intro st hv hw
  obtain ⟨h0, h1, h2, h3, h4, h5, h6⟩ := layout_6_6_7_7_1_1_4 0x19#6 d a n (BitVec.ofBool x) (BitVec.ofBool w) g
  refine ⟨_, rfl, decode_of_form (n := false) (formOf_v hv (by rw [h0]; decide) ?_) (BitVec.and_zero) (fun _ => rfl) hw⟩
  simp only [formV, form, h0, h1, h2, h3, bit_of_fld h4, bit_of_fld h5, h6, BitVec.reduceToNat]

theorem Encoding.vbrd (d : BitVec 6) (a : BitVec 7) (x : Bool) (w : Bool) (g : BitVec 4) : Encoding.Statement (.vbrd d a x w g) := by
  intro st hv hw
  obtain ⟨h0, h1, h2, h3, h4, h5, h6⟩ := layout_6_6_7_7_1_1_4 0x1a#6 d a 0#7 (BitVec.ofBool x) (BitVec.ofBool w) g
  refine ⟨_, rfl, decode_of_form (n := false) (formOf_v hv (by rw [h0]; decide) ?_) (zero_field h3 (BitVec.and_zero) (z := 0x1fc0#32) (by decide)) (fun _ => rfl) hw⟩
  simp only [formV, form, h0, h1, h2, bit_of_fld h4, bit_of_fld h5, h6, BitVec.reduceToNat]

theorem Encoding.viota (d : BitVec 6) (x : Bool) (w : Bool) (g : BitVec 4) : Encoding.Statement (.viota d x w g) := by
  intro st hv hw
  obtain ⟨h0, h1, h2, h3, h4, h5⟩ := layout_6_6_14_1_1_4 0x1b#6 d 0#14 (BitVec.ofBool x) (BitVec.ofBool w) g
  refine ⟨_, rfl, decode_of_form (n := false) (formOf_v hv (by rw [h0]; decide) ?_) (zero_field h2 (BitVec.and_zero) (z := 0xfffc0#32) (by decide)) (fun _ => rfl) hw⟩
  simp only [formV, form, h0, h1, bit_of_fld h3, bit_of_fld h4, h5, BitVec.reduceToNat]

theorem Encoding.vmvs (d : BitVec 6) (a : BitVec 7) (idx : BitVec 7) (g : BitVec 4) : Encoding.Statement (.vmvs d a idx g) := by
  intro st hv hw
  obtain ⟨h0, h1, h2, h3, h4, h5⟩ := layout_6_6_7_7_2_4 0x1c#6 d a idx 0#2 g
  refine ⟨_, rfl, decode_of_form (n := false) (formOf_v hv (by rw [h0]; decide) ?_) (zero_field h4 (BitVec.and_zero) (z := 0x30#32) (by decide)) (fun _ => rfl) hw⟩
  simp only [formV, form, h0, h1, h2, h3, h5, BitVec.reduceToNat]

theorem Encoding.vmsv (d : BitVec 6) (a : BitVec 7) (idx : BitVec 7) (x : Bool) (w : Bool) (g : BitVec 4) : Encoding.Statement (.vmsv d a idx x w g) := by
  intro st hv hw
  obtain ⟨h0, h1, h2, h3, h4, h5, h6⟩ := layout_6_6_7_7_1_1_4 0x1d#6 d a idx (BitVec.ofBool x) (BitVec.ofBool w) g
  refine ⟨_, rfl, decode_of_form (n := false) (formOf_v hv (by rw [h0]; decide) ?_) (BitVec.and_zero) (fun _ => rfl) hw⟩
  simp only [formV, form, h0, h1, h2, h3, bit_of_fld h4, bit_of_fld h5, h6, BitVec.reduceToNat]

theorem Encoding.vred (y : BitVec 2) (op : BitVec 4) (a : BitVec 7) (x : Bool) (g : BitVec 4) : Encoding.Statement (.vred y op a x g) := by
  intro st hv hw
  obtain ⟨h0, h1, h2, h3, h4, h5, h6, h7⟩ := layout_6_2_4_7_7_1_1_4 0x1e#6 y op a 0#7 (BitVec.ofBool x) 0#1 g
  refine ⟨_, rfl, decode_of_form (n := false) (formOf_v hv (by rw [h0]; decide) ?_) (zero_field h4 (zero_field h6 (BitVec.and_zero) (z := 0x10#32) (by decide)) (z := 0x1fd0#32) (by decide)) (fun _ => rfl) hw⟩
  simp only [formV, form, h0, h1, h2, h3, bit_of_fld h5, h7, BitVec.reduceToNat]

theorem Encoding.vmvy (d : BitVec 6) (y : BitVec 2) (x : Bool) (w : Bool) (g : BitVec 4) : Encoding.Statement (.vmvy d y x w g) := by
  intro st hv hw
  obtain ⟨h0, h1, h2, h3, h4, h5, h6, h7⟩ := layout_6_6_5_2_7_1_1_4 0x1f#6 d 0#5 y 0#7 (BitVec.ofBool x) (BitVec.ofBool w) g
  refine ⟨_, rfl, decode_of_form (n := false) (formOf_v hv (by rw [h0]; decide) ?_) (zero_field h2 (zero_field h4 (BitVec.and_zero) (z := 0x1fc0#32) (by decide)) (z := 0xf9fc0#32) (by decide)) (fun _ => rfl) hw⟩
  simp only [formV, form, h0, h1, h3, bit_of_fld h5, bit_of_fld h6, h7, BitVec.reduceToNat]

theorem Encoding.vcvt (d : BitVec 6) (a : BitVec 7) (ty : BitVec 4) (part : BitVec 3) (x : Bool) (w : Bool) (g : BitVec 4) : Encoding.Statement (.vcvt d a ty part x w g) := by
  intro st hv hw
  obtain ⟨h0, h1, h2, h3, h4, h5, h6, h7⟩ := layout_6_6_7_4_3_1_1_4 0x20#6 d a ty part (BitVec.ofBool x) (BitVec.ofBool w) g
  refine ⟨_, rfl, decode_of_form (n := false) (formOf_v hv (by rw [h0]; decide) ?_) (BitVec.and_zero) (fun _ => rfl) hw⟩
  simp only [formV, form, h0, h1, h2, h3, h4, bit_of_fld h5, bit_of_fld h6, h7, BitVec.reduceToNat]

theorem Encoding.vsetShape (ty : BitVec 4) (rm : BitVec 2) (sat : Bool) (gsl : BitVec 4) (g : BitVec 4) : Encoding.Statement (.vsetShape ty rm sat gsl g) := by
  intro st hv hw
  obtain ⟨h0, h1, h2, h3, h4, h5, h6, h7⟩ := layout_6_2_4_2_1_4_9_4 0x21#6 0#2 ty rm (BitVec.ofBool sat) gsl 0#9 g
  refine ⟨_, rfl, decode_of_form (n := false) (formOf_v hv (by rw [h0]; decide) ?_) (zero_field h6 (BitVec.and_zero) (z := 0x1ff0#32) (by decide)) (fun _ => rfl) hw⟩
  simp only [formV, form, h0, h1, h2, h3, bit_of_fld h4, h5, h7, BitVec.reduceToNat]

theorem Encoding.vsetTh (th : BitVec 2) (a : BitVec 6) (g : BitVec 4) : Encoding.Statement (.vsetTh th a g) := by
  intro st hv hw
  obtain ⟨h0, h1, h2, h3, h4, h5⟩ := layout_6_2_2_6_12_4 0x21#6 1#2 th a 0#12 g
  refine ⟨_, rfl, decode_of_form (n := false) (formOf_v hv (by rw [h0]; decide) ?_) (zero_field h4 (BitVec.and_zero) (z := 0xfff0#32) (by decide)) (fun _ => rfl) hw⟩
  simp only [formV, form, h0, h1, h2, h3, h5, BitVec.reduceToNat]

theorem Encoding.vsetTag (tag : BitVec 16) (g : BitVec 4) : Encoding.Statement (.vsetTag tag g) := by
  intro st hv hw
  obtain ⟨h0, h1, h2, h3, h4⟩ := layout_6_2_4_16_4 0x21#6 2#2 0#4 tag g
  refine ⟨_, rfl, decode_of_form (n := false) (formOf_v hv (by rw [h0]; decide) ?_) (zero_field h2 (BitVec.and_zero) (z := 0xf00000#32) (by decide)) (fun _ => rfl) hw⟩
  simp only [formV, form, h0, h1, h3, h4, BitVec.reduceToNat]

theorem Encoding.vld (d : BitVec 6) (a : BitVec 6) (cls : BitVec 3) (t : Bool) (u : Bool) (off : BitVec 5) (g : BitVec 4) : Encoding.Statement (.vld d a cls t u off g) := by
  intro st hv hw
  obtain ⟨h0, h1, h2, h3, h4, h5, h6, h7⟩ := layout_6_6_6_3_1_1_5_4 0x22#6 d a cls (BitVec.ofBool t) (BitVec.ofBool u) off g
  refine ⟨_, rfl, decode_of_form (n := false) (formOf_v hv (by rw [h0]; decide) ?_) (BitVec.and_zero) (fun _ => rfl) hw⟩
  simp only [formV, form, h0, h1, h2, h3, bit_of_fld h4, bit_of_fld h5, h6, h7, BitVec.reduceToNat]

theorem Encoding.vst (d : BitVec 6) (a : BitVec 6) (cls : BitVec 3) (u : Bool) (off : BitVec 5) (g : BitVec 4) : Encoding.Statement (.vst d a cls u off g) := by
  intro st hv hw
  obtain ⟨h0, h1, h2, h3, h4, h5, h6, h7⟩ := layout_6_6_6_3_1_1_5_4 0x23#6 d a cls 0#1 (BitVec.ofBool u) off g
  refine ⟨_, rfl, decode_of_form (n := false) (formOf_v hv (by rw [h0]; decide) ?_) (zero_field h4 (BitVec.and_zero) (z := 0x400#32) (by decide)) (fun _ => rfl) hw⟩
  simp only [formV, form, h0, h1, h2, h3, bit_of_fld h5, h6, h7, BitVec.reduceToNat]

theorem Encoding.vldl (d : BitVec 6) (a : BitVec 6) (cls : BitVec 3) (t : Bool) (j : BitVec 3) (r : BitVec 2) (g : BitVec 4) : Encoding.Statement (.vldl d a cls t j r g) := by
  intro st hv hw
  obtain ⟨h0, h1, h2, h3, h4, h5, h6, h7, h8⟩ := layout_6_6_6_3_1_1_3_2_4 0x24#6 d a cls (BitVec.ofBool t) 0#1 j r g
  refine ⟨_, rfl, decode_of_form (n := false) (formOf_v hv (by rw [h0]; decide) ?_) (BitVec.and_zero) (fun _ => rfl) hw⟩
  simp only [formV, form, h0, h1, h2, h3, bit_of_fld h4, h5, h6, h7, h8, BitVec.reduceToNat]

theorem Encoding.vldd (d : BitVec 6) (a : BitVec 6) (cls : BitVec 3) (t : Bool) (j : BitVec 3) (r : BitVec 2) (g : BitVec 4) : Encoding.Statement (.vldd d a cls t j r g) := by
  intro st hv hw
  obtain ⟨h0, h1, h2, h3, h4, h5, h6, h7, h8⟩ := layout_6_6_6_3_1_1_3_2_4 0x24#6 d a cls (BitVec.ofBool t) 1#1 j r g
  refine ⟨_, rfl, decode_of_form (n := false) (formOf_v hv (by rw [h0]; decide) ?_) (BitVec.and_zero) (fun _ => rfl) hw⟩
  simp only [formV, form, h0, h1, h2, h3, bit_of_fld h4, h5, h6, h7, h8, BitVec.reduceToNat]

theorem Encoding.vstl (d : BitVec 6) (a : BitVec 6) (cls : BitVec 3) (flat : Bool) (j : BitVec 3) (r : BitVec 2) (g : BitVec 4) : Encoding.Statement (.vstl d a cls flat j r g) := by
  intro st hv hw
  obtain ⟨h0, h1, h2, h3, h4, h5, h6, h7, h8⟩ := layout_6_6_6_3_1_1_3_2_4 0x25#6 d a cls 0#1 (BitVec.ofBool flat) j r g
  refine ⟨_, rfl, decode_of_form (n := false) (formOf_v hv (by rw [h0]; decide) ?_) (zero_field h4 (BitVec.and_zero) (z := 0x400#32) (by decide)) (fun _ => rfl) hw⟩
  simp only [formV, form, h0, h1, h2, h3, bit_of_fld h5, h6, h7, h8, BitVec.reduceToNat]

theorem Encoding.vlrg (d : BitVec 6) (k : BitVec 3) (s : Bool) (i : BitVec 6) (w : Bool) (g : BitVec 4) : Encoding.Statement (.vlrg d k s i w g) := by
  intro st hv hw
  obtain ⟨h0, h1, h2, h3, h4, h5, h6, h7⟩ := layout_6_6_3_1_6_5_1_4 0x26#6 d k (BitVec.ofBool s) i 0#5 (BitVec.ofBool w) g
  refine ⟨_, rfl, decode_of_form (n := false) (formOf_v hv (by rw [h0]; decide) ?_) (zero_field h5 (BitVec.and_zero) (z := 0x3e0#32) (by decide)) (fun _ => rfl) hw⟩
  simp only [formV, form, h0, h1, h2, bit_of_fld h3, h4, bit_of_fld h6, h7, BitVec.reduceToNat]

theorem Encoding.vthr (th : BitVec 2) (mk : BitVec 3) (a : BitVec 7) (g : BitVec 4) : Encoding.Statement (.vthr th mk a g) := by
  intro st hv hw
  obtain ⟨h0, h1, h2, h3, h4, h5, h6⟩ := layout_6_2_1_3_7_9_4 0x27#6 th 0#1 mk a 0#9 g
  refine ⟨_, rfl, decode_of_form (n := false) (formOf_v hv (by rw [h0]; decide) ?_) (zero_field h2 (zero_field h5 (BitVec.and_zero) (z := 0x1ff0#32) (by decide)) (z := 0x801ff0#32) (by decide)) (fun _ => rfl) hw⟩
  simp only [formV, form, h0, h1, h3, h4, h6, BitVec.reduceToNat]

theorem Encoding.mclm (sa : BitVec 8) (g : BitVec 4) : Encoding.Statement (.mclm sa g) := by
  intro st hv hw
  obtain ⟨h0, h1, h2, h3, h4⟩ := layout_6_3_8_11_4 0x1#6 0#3 sa 0#11 g
  refine ⟨_, rfl, decode_of_form (n := false) (formOf_m hv (by rw [h0]; decide) ?_) (zero_field h1 (zero_field h3 (BitVec.and_zero) (z := 0x7ff0#32) (by decide)) (z := 0x3807ff0#32) (by decide)) (fun _ => rfl) hw⟩
  simp only [formM, form, h0, h2, h4, BitVec.reduceToNat]

theorem Encoding.mrel (sa : BitVec 8) (g : BitVec 4) : Encoding.Statement (.mrel sa g) := by
  intro st hv hw
  obtain ⟨h0, h1, h2, h3, h4⟩ := layout_6_3_8_11_4 0x2#6 0#3 sa 0#11 g
  refine ⟨_, rfl, decode_of_form (n := false) (formOf_m hv (by rw [h0]; decide) ?_) (zero_field h1 (zero_field h3 (BitVec.and_zero) (z := 0x7ff0#32) (by decide)) (z := 0x3807ff0#32) (by decide)) (fun _ => rfl) hw⟩
  simp only [formM, form, h0, h2, h4, BitVec.reduceToNat]

theorem Encoding.mfil (sa : BitVec 8) (p : BitVec 8) (k : Bool) (g : BitVec 4) : Encoding.Statement (.mfil sa p k g) := by
  intro st hv hw
  obtain ⟨h0, h1, h2, h3, h4, h5, h6⟩ := layout_6_3_8_8_2_1_4 0x3#6 0#3 sa p 0#2 (BitVec.ofBool k) g
  refine ⟨_, rfl, decode_of_form (n := false) (formOf_m hv (by rw [h0]; decide) ?_) (zero_field h1 (zero_field h4 (BitVec.and_zero) (z := 0x60#32) (by decide)) (z := 0x3800060#32) (by decide)) (fun _ => rfl) hw⟩
  simp only [formM, form, h0, h2, h3, bit_of_fld h5, h6, BitVec.reduceToNat]

theorem Encoding.mma (ac : BitVec 3) (sa : BitVec 8) (sb : BitVec 8) (z : Bool) (g : BitVec 4) : Encoding.Statement (.mma ac sa sb z g) := by
  intro st hv hw
  obtain ⟨h0, h1, h2, h3, h4, h5, h6⟩ := layout_6_3_8_8_1_2_4 0x4#6 ac sa sb (BitVec.ofBool z) 0#2 g
  refine ⟨_, rfl, decode_of_form (n := false) (formOf_m hv (by rw [h0]; decide) ?_) (zero_field h5 (BitVec.and_zero) (z := 0x30#32) (by decide)) (fun _ => rfl) hw⟩
  simp only [formM, form, h0, h1, h2, h3, bit_of_fld h4, h6, BitVec.reduceToNat]

theorem Encoding.mmat (ac : BitVec 3) (sa : BitVec 8) (sb : BitVec 8) (z : Bool) (g : BitVec 4) : Encoding.Statement (.mmat ac sa sb z g) := by
  intro st hv hw
  obtain ⟨h0, h1, h2, h3, h4, h5, h6⟩ := layout_6_3_8_8_1_2_4 0x5#6 ac sa sb (BitVec.ofBool z) 0#2 g
  refine ⟨_, rfl, decode_of_form (n := false) (formOf_m hv (by rw [h0]; decide) ?_) (zero_field h5 (BitVec.and_zero) (z := 0x30#32) (by decide)) (fun _ => rfl) hw⟩
  simp only [formM, form, h0, h1, h2, h3, bit_of_fld h4, h6, BitVec.reduceToNat]

theorem Encoding.mcnv (ac : BitVec 3) (sa : BitVec 8) (sb : BitVec 8) (z : Bool) (g : BitVec 4) : Encoding.Statement (.mcnv ac sa sb z g) := by
  intro st hv hw
  obtain ⟨h0, h1, h2, h3, h4, h5, h6⟩ := layout_6_3_8_8_1_2_4 0x6#6 ac sa sb (BitVec.ofBool z) 0#2 g
  refine ⟨_, rfl, decode_of_form (n := false) (formOf_m hv (by rw [h0]; decide) ?_) (zero_field h5 (BitVec.and_zero) (z := 0x30#32) (by decide)) (fun _ => rfl) hw⟩
  simp only [formM, form, h0, h1, h2, h3, bit_of_fld h4, h6, BitVec.reduceToNat]

theorem Encoding.mwin (p : BitVec 8) (g : BitVec 4) : Encoding.Statement (.mwin p g) := by
  intro st hv hw
  obtain ⟨h0, h1, h2, h3, h4⟩ := layout_6_11_8_3_4 0x7#6 0#11 p 0#3 g
  refine ⟨_, rfl, decode_of_form (n := false) (formOf_m hv (by rw [h0]; decide) ?_) (zero_field h1 (zero_field h3 (BitVec.and_zero) (z := 0x70#32) (by decide)) (z := 0x3ff8070#32) (by decide)) (fun _ => rfl) hw⟩
  simp only [formM, form, h0, h2, h4, BitVec.reduceToNat]

theorem Encoding.mcfg (ta : BitVec 4) (tb : BitVec 4) (sco : BitVec 3) (g : BitVec 4) : Encoding.Statement (.mcfg ta tb sco g) := by
  intro st hv hw
  obtain ⟨h0, h1, h2, h3, h4, h5, h6, h7⟩ := layout_6_3_4_4_5_3_3_4 0x8#6 0#3 ta tb 0#5 sco 0#3 g
  refine ⟨_, rfl, decode_of_form (n := false) (formOf_m hv (by rw [h0]; decide) ?_) (zero_field h1 (zero_field h4 (zero_field h6 (BitVec.and_zero) (z := 0x70#32) (by decide)) (z := 0x7c70#32) (by decide)) (z := 0x3807c70#32) (by decide)) (fun _ => rfl) hw⟩
  simp only [formM, form, h0, h2, h3, h5, h7, BitVec.reduceToNat]

theorem Encoding.mrnd (rm : BitVec 2) (g : BitVec 4) : Encoding.Statement (.mrnd rm g) := by
  intro st hv hw
  obtain ⟨h0, h1, h2, h3, h4⟩ := layout_6_9_2_11_4 0x9#6 0#9 rm 0#11 g
  refine ⟨_, rfl, decode_of_form (n := false) (formOf_m hv (by rw [h0]; decide) ?_) (zero_field h1 (zero_field h3 (BitVec.and_zero) (z := 0x7ff0#32) (by decide)) (z := 0x3fe7ff0#32) (by decide)) (fun _ => rfl) hw⟩
  simp only [formM, form, h0, h2, h4, BitVec.reduceToNat]

theorem Encoding.mdrn (ac : BitVec 3) (ty : BitVec 4) (p : BitVec 8) (v : Bool) (k : Bool) (g : BitVec 4) : Encoding.Statement (.mdrn ac ty p v k g) := by
  intro st hv hw
  obtain ⟨h0, h1, h2, h3, h4, h5, h6, h7, h8⟩ := layout_6_3_4_4_8_1_1_1_4 0xa#6 ac 0#4 ty p 0#1 (BitVec.ofBool v) (BitVec.ofBool k) g
  refine ⟨_, rfl, decode_of_form (n := false) (formOf_m hv (by rw [h0]; decide) ?_) (zero_field h2 (zero_field h5 (BitVec.and_zero) (z := 0x40#32) (by decide)) (z := 0x780040#32) (by decide)) (fun _ => rfl) hw⟩
  simp only [formM, form, h0, h1, h3, h4, bit_of_fld h6, bit_of_fld h7, h8, BitVec.reduceToNat]

theorem Encoding.mzer (ac : BitVec 3) (g : BitVec 4) : Encoding.Statement (.mzer ac g) := by
  intro st hv hw
  obtain ⟨h0, h1, h2, h3⟩ := layout_6_3_19_4 0xb#6 ac 0#19 g
  refine ⟨_, rfl, decode_of_form (n := false) (formOf_m hv (by rw [h0]; decide) ?_) (zero_field h2 (BitVec.and_zero) (z := 0x7ffff0#32) (by decide)) (fun _ => rfl) hw⟩
  simp only [formM, form, h0, h1, h3, BitVec.reduceToNat]

theorem Encoding.mver (ac : BitVec 3) (p : BitVec 8) (g : BitVec 4) : Encoding.Statement (.mver ac p g) := by
  intro st hv hw
  obtain ⟨h0, h1, h2, h3, h4, h5, h6⟩ := layout_6_3_7_1_8_3_4 0xc#6 ac 0#7 0#1 p 0#3 g
  refine ⟨_, rfl, decode_of_form (n := false) (formOf_m hv (by rw [h0]; decide) ?_) (zero_field h2 (zero_field h5 (BitVec.and_zero) (z := 0x70#32) (by decide)) (z := 0x7f0070#32) (by decide)) (fun _ => rfl) hw⟩
  simp only [formM, form, h0, h1, h3, h4, h6, BitVec.reduceToNat]

theorem Encoding.mverTag (p : BitVec 8) (g : BitVec 4) : Encoding.Statement (.mverTag p g) := by
  intro st hv hw
  obtain ⟨h0, h1, h2, h3, h4, h5⟩ := layout_6_10_1_8_3_4 0xc#6 0#10 1#1 p 0#3 g
  refine ⟨_, rfl, decode_of_form (n := false) (formOf_m hv (by rw [h0]; decide) ?_) (zero_field h1 (zero_field h4 (BitVec.and_zero) (z := 0x70#32) (by decide)) (z := 0x3ff0070#32) (by decide)) (fun _ => rfl) hw⟩
  simp only [formM, form, h0, h2, h3, h5, BitVec.reduceToNat]

theorem Encoding.mlda (ac : BitVec 3) (p : BitVec 8) (k : Bool) (g : BitVec 4) : Encoding.Statement (.mlda ac p k g) := by
  intro st hv hw
  obtain ⟨h0, h1, h2, h3, h4, h5, h6⟩ := layout_6_3_8_8_2_1_4 0xd#6 ac 0#8 p 0#2 (BitVec.ofBool k) g
  refine ⟨_, rfl, decode_of_form (n := false) (formOf_m hv (by rw [h0]; decide) ?_) (zero_field h2 (zero_field h4 (BitVec.and_zero) (z := 0x60#32) (by decide)) (z := 0x7f8060#32) (by decide)) (fun _ => rfl) hw⟩
  simp only [formM, form, h0, h1, h3, bit_of_fld h5, h6, BitVec.reduceToNat]

theorem Encoding.lopn (p : BitVec 8) (k : Bool) (g : BitVec 4) : Encoding.Statement (.lopn p k g) := by
  intro st hv hw
  obtain ⟨h0, h1, h2, h3, h4, h5⟩ := layout_6_11_8_2_1_4 0x10#6 0#11 p 0#2 (BitVec.ofBool k) g
  refine ⟨_, rfl, decode_of_form (n := false) (formOf_m hv (by rw [h0]; decide) ?_) (zero_field h1 (zero_field h3 (BitVec.and_zero) (z := 0x60#32) (by decide)) (z := 0x3ff8060#32) (by decide)) (fun _ => rfl) hw⟩
  simp only [formM, form, h0, h2, bit_of_fld h4, h5, BitVec.reduceToNat]

theorem Encoding.lstp (ac : BitVec 3) (v : Bool) (g : BitVec 4) : Encoding.Statement (.lstp ac v g) := by
  intro st hv hw
  obtain ⟨h0, h1, h2, h3, h4, h5⟩ := layout_6_3_17_1_1_4 0x11#6 ac 0#17 (BitVec.ofBool v) 0#1 g
  refine ⟨_, rfl, decode_of_form (n := false) (formOf_m hv (by rw [h0]; decide) ?_) (zero_field h2 (zero_field h4 (BitVec.and_zero) (z := 0x10#32) (by decide)) (z := 0x7fffd0#32) (by decide)) (fun _ => rfl) hw⟩
  simp only [formM, form, h0, h1, bit_of_fld h3, h5, BitVec.reduceToNat]

theorem Encoding.lrd (ac : BitVec 3) (v : Bool) (g : BitVec 4) : Encoding.Statement (.lrd ac v g) := by
  intro st hv hw
  obtain ⟨h0, h1, h2, h3, h4, h5⟩ := layout_6_3_17_1_1_4 0x12#6 ac 0#17 (BitVec.ofBool v) 0#1 g
  refine ⟨_, rfl, decode_of_form (n := false) (formOf_m hv (by rw [h0]; decide) ?_) (zero_field h2 (zero_field h4 (BitVec.and_zero) (z := 0x10#32) (by decide)) (z := 0x7fffd0#32) (by decide)) (fun _ => rfl) hw⟩
  simp only [formM, form, h0, h1, bit_of_fld h3, h5, BitVec.reduceToNat]

theorem Encoding.lcls (k : Bool) (g : BitVec 4) : Encoding.Statement (.lcls k g) := by
  intro st hv hw
  obtain ⟨h0, h1, h2, h3⟩ := layout_6_21_1_4 0x13#6 0#21 (BitVec.ofBool k) g
  refine ⟨_, rfl, decode_of_form (n := false) (formOf_m hv (by rw [h0]; decide) ?_) (zero_field h1 (BitVec.and_zero) (z := 0x3ffffe0#32) (by decide)) (fun _ => rfl) hw⟩
  simp only [formM, form, h0, bit_of_fld h2, h3, BitVec.reduceToNat]

theorem Encoding.lwgt (k : Bool) (g : BitVec 4) : Encoding.Statement (.lwgt k g) := by
  intro st hv hw
  obtain ⟨h0, h1, h2, h3⟩ := layout_6_21_1_4 0x14#6 0#21 (BitVec.ofBool k) g
  refine ⟨_, rfl, decode_of_form (n := false) (formOf_m hv (by rw [h0]; decide) ?_) (zero_field h1 (BitVec.and_zero) (z := 0x3ffffe0#32) (by decide)) (fun _ => rfl) hw⟩
  simp only [formM, form, h0, bit_of_fld h2, h3, BitVec.reduceToNat]

theorem Encoding.tsrc (p : BitVec 6) (g : BitVec 4) : Encoding.Statement (.tsrc p g) := by
  intro st hv hw
  obtain ⟨h0, h1, h2, h3⟩ := layout_6_6_16_4 0x1#6 p 0#16 g
  refine ⟨_, rfl, decode_of_form (n := false) (formOf_t hv (by rw [h0]; decide) ?_) (zero_field h2 (BitVec.and_zero) (z := 0xffff0#32) (by decide)) (fun _ => rfl) hw⟩
  simp only [formT, form, h0, h1, h3, BitVec.reduceToNat]

theorem Encoding.tdst (p : BitVec 6) (g : BitVec 4) : Encoding.Statement (.tdst p g) := by
  intro st hv hw
  obtain ⟨h0, h1, h2, h3⟩ := layout_6_6_16_4 0x2#6 p 0#16 g
  refine ⟨_, rfl, decode_of_form (n := false) (formOf_t hv (by rw [h0]; decide) ?_) (zero_field h2 (BitVec.and_zero) (z := 0xffff0#32) (by decide)) (fun _ => rfl) hw⟩
  simp only [formT, form, h0, h1, h3, BitVec.reduceToNat]

theorem Encoding.tdim (dim : BitVec 2) (what : BitVec 2) (a : BitVec 6) (imm : BitVec 12) (g : BitVec 4) : Encoding.Statement (.tdim dim what a imm g) := by
  intro st hv hw
  obtain ⟨h0, h1, h2, h3, h4, h5⟩ := layout_6_2_2_6_12_4 0x3#6 dim what a imm g
  refine ⟨_, rfl, decode_of_form (n := false) (formOf_t hv (by rw [h0]; decide) ?_) (BitVec.and_zero) (fun _ => rfl) hw⟩
  simp only [formT, form, h0, h1, h2, h3, h4, h5, BitVec.reduceToNat]

theorem Encoding.tind (dim : BitVec 2) (p : BitVec 6) (iw : BitVec 2) (g : BitVec 4) : Encoding.Statement (.tind dim p iw g) := by
  intro st hv hw
  obtain ⟨h0, h1, h2, h3, h4, h5⟩ := layout_6_2_6_2_12_4 0x4#6 dim p iw 0#12 g
  refine ⟨_, rfl, decode_of_form (n := false) (formOf_t hv (by rw [h0]; decide) ?_) (zero_field h4 (BitVec.and_zero) (z := 0xfff0#32) (by decide)) (fun _ => rfl) hw⟩
  simp only [formT, form, h0, h1, h2, h3, h5, BitVec.reduceToNat]

theorem Encoding.tfmt (sty : BitVec 4) (dty : BitVec 4) (j : BitVec 3) (flat : Bool) (sat : Bool) (rm : BitVec 2) (g : BitVec 4) : Encoding.Statement (.tfmt sty dty j flat sat rm g) := by
  intro st hv hw
  obtain ⟨h0, h1, h2, h3, h4, h5, h6, h7, h8⟩ := layout_6_4_4_3_1_1_2_7_4 0x5#6 sty dty j (BitVec.ofBool flat) (BitVec.ofBool sat) rm 0#7 g
  refine ⟨_, rfl, decode_of_form (n := false) (formOf_t hv (by rw [h0]; decide) ?_) (zero_field h7 (BitVec.and_zero) (z := 0x7f0#32) (by decide)) (fun _ => rfl) hw⟩
  simp only [formT, form, h0, h1, h2, h3, bit_of_fld h4, bit_of_fld h5, h6, h8, BitVec.reduceToNat]

theorem Encoding.tsyn (acq : BitVec 3) (rel : BitVec 3) (ben : Bool) (bid : BitVec 8) (tag : BitVec 7) (g : BitVec 4) : Encoding.Statement (.tsyn acq rel ben bid tag g) := by
  intro st hv hw
  obtain ⟨h0, h1, h2, h3, h4, h5, h6⟩ := layout_6_3_3_1_8_7_4 0x6#6 acq rel (BitVec.ofBool ben) bid tag g
  refine ⟨_, rfl, decode_of_form (n := false) (formOf_t hv (by rw [h0]; decide) ?_) (BitVec.and_zero) (fun _ => rfl) hw⟩
  simp only [formT, form, h0, h1, h2, bit_of_fld h3, h4, h5, h6, BitVec.reduceToNat]

theorem Encoding.tcpy (g : BitVec 4) : Encoding.Statement (.tcpy g) := by
  intro st hv hw
  obtain ⟨h0, h1, h2⟩ := layout_6_22_4 0x8#6 0#22 g
  refine ⟨_, rfl, decode_of_form (n := false) (formOf_t hv (by rw [h0]; decide) ?_) (zero_field h1 (BitVec.and_zero) (z := 0x3fffff0#32) (by decide)) (fun _ => rfl) hw⟩
  simp only [formT, form, h0, h2, BitVec.reduceToNat]

theorem Encoding.tlvl (g : BitVec 4) : Encoding.Statement (.tlvl g) := by
  intro st hv hw
  obtain ⟨h0, h1, h2⟩ := layout_6_22_4 0x9#6 0#22 g
  refine ⟨_, rfl, decode_of_form (n := false) (formOf_t hv (by rw [h0]; decide) ?_) (zero_field h1 (BitVec.and_zero) (z := 0x3fffff0#32) (by decide)) (fun _ => rfl) hw⟩
  simp only [formT, form, h0, h2, BitVec.reduceToNat]

theorem Encoding.tenc (g : BitVec 4) : Encoding.Statement (.tenc g) := by
  intro st hv hw
  obtain ⟨h0, h1, h2⟩ := layout_6_22_4 0xa#6 0#22 g
  refine ⟨_, rfl, decode_of_form (n := false) (formOf_t hv (by rw [h0]; decide) ?_) (zero_field h1 (BitVec.and_zero) (z := 0x3fffff0#32) (by decide)) (fun _ => rfl) hw⟩
  simp only [formT, form, h0, h2, BitVec.reduceToNat]

theorem Encoding.tpak (g : BitVec 4) : Encoding.Statement (.tpak g) := by
  intro st hv hw
  obtain ⟨h0, h1, h2⟩ := layout_6_22_4 0xb#6 0#22 g
  refine ⟨_, rfl, decode_of_form (n := false) (formOf_t hv (by rw [h0]; decide) ?_) (zero_field h1 (BitVec.and_zero) (z := 0x3fffff0#32) (by decide)) (fun _ => rfl) hw⟩
  simp only [formT, form, h0, h2, BitVec.reduceToNat]

theorem Encoding.tunp (g : BitVec 4) : Encoding.Statement (.tunp g) := by
  intro st hv hw
  obtain ⟨h0, h1, h2⟩ := layout_6_22_4 0xc#6 0#22 g
  refine ⟨_, rfl, decode_of_form (n := false) (formOf_t hv (by rw [h0]; decide) ?_) (zero_field h1 (BitVec.and_zero) (z := 0x3fffff0#32) (by decide)) (fun _ => rfl) hw⟩
  simp only [formT, form, h0, h2, BitVec.reduceToNat]

theorem Encoding.tcol (grp : BitVec 8) (op : BitVec 2) (g : BitVec 4) : Encoding.Statement (.tcol grp op g) := by
  intro st hv hw
  obtain ⟨h0, h1, h2, h3, h4⟩ := layout_6_8_2_12_4 0xd#6 grp op 0#12 g
  refine ⟨_, rfl, decode_of_form (n := false) (formOf_t hv (by rw [h0]; decide) ?_) (zero_field h3 (BitVec.and_zero) (z := 0xfff0#32) (by decide)) (fun _ => rfl) hw⟩
  simp only [formT, form, h0, h1, h2, h4, BitVec.reduceToNat]

theorem Encoding.tkvf (p : BitVec 6) (r : BitVec 6) (pk : BitVec 3) (g : BitVec 4) : Encoding.Statement (.tkvf p r pk g) := by
  intro st hv hw
  obtain ⟨h0, h1, h2, h3, h4, h5⟩ := layout_6_6_6_3_7_4 0xe#6 p r pk 0#7 g
  refine ⟨_, rfl, decode_of_form (n := false) (formOf_t hv (by rw [h0]; decide) ?_) (zero_field h4 (BitVec.and_zero) (z := 0x7f0#32) (by decide)) (fun _ => rfl) hw⟩
  simp only [formT, form, h0, h1, h2, h3, h5, BitVec.reduceToNat]

theorem Encoding.tfil (p : BitVec 6) (g : BitVec 4) : Encoding.Statement (.tfil p g) := by
  intro st hv hw
  obtain ⟨h0, h1, h2, h3⟩ := layout_6_6_16_4 0xf#6 p 0#16 g
  refine ⟨_, rfl, decode_of_form (n := false) (formOf_t hv (by rw [h0]; decide) ?_) (zero_field h2 (BitVec.and_zero) (z := 0xffff0#32) (by decide)) (fun _ => rfl) hw⟩
  simp only [formT, form, h0, h1, h3, BitVec.reduceToNat]

theorem Encoding.tops (slot : BitVec 8) (g : BitVec 4) : Encoding.Statement (.tops slot g) := by
  intro st hv hw
  obtain ⟨h0, h1, h2, h3⟩ := layout_6_8_14_4 0x10#6 slot 0#14 g
  refine ⟨_, rfl, decode_of_form (n := false) (formOf_t hv (by rw [h0]; decide) ?_) (zero_field h2 (BitVec.and_zero) (z := 0x3fff0#32) (by decide)) (fun _ => rfl) hw⟩
  simp only [formT, form, h0, h1, h3, BitVec.reduceToNat]

theorem Encoding.tdrp (p : BitVec 6) (r : BitVec 6) (drop : Bool) (g : BitVec 4) : Encoding.Statement (.tdrp p r drop g) := by
  intro st hv hw
  obtain ⟨h0, h1, h2, h3, h4, h5⟩ := layout_6_6_6_1_9_4 0x11#6 p r (BitVec.ofBool drop) 0#9 g
  refine ⟨_, rfl, decode_of_form (n := false) (formOf_t hv (by rw [h0]; decide) ?_) (zero_field h4 (BitVec.and_zero) (z := 0x1ff0#32) (by decide)) (fun _ => rfl) hw⟩
  simp only [formT, form, h0, h1, h2, bit_of_fld h3, h5, BitVec.reduceToNat]

theorem Encoding.transferStart (id : Nat) : Encoding.Statement (.transferStart id) := nofun
theorem Encoding.transferComplete (id : Nat) : Encoding.Statement (.transferComplete id) := nofun
theorem Encoding.transferFault (id : Nat) (cause : BitVec 8) : Encoding.Statement (.transferFault id cause) := nofun
theorem Encoding.pageFaultService (id : Nat) (how : Service) : Encoding.Statement (.pageFaultService id how) := nofun
theorem Encoding.replyArrival (id : Nat) : Encoding.Statement (.replyArrival id) := nofun
theorem Encoding.freezeTimeout (gang : Nat) : Encoding.Statement (.freezeTimeout gang) := nofun
theorem Encoding.yieldSpacingFault (gang : Nat) : Encoding.Statement (.yieldSpacingFault gang) := nofun
theorem Encoding.joinRelease (vd grp : Nat) : Encoding.Statement (.joinRelease vd grp) := nofun
theorem Encoding.leaseTakeover (gang quad pos : Nat) (cnt : BitVec 5) : Encoding.Statement (.leaseTakeover gang quad pos cnt) := nofun
theorem Encoding.tileReady (gang rank : Nat) (flags : BitVec 5) : Encoding.Statement (.tileReady gang rank flags) := nofun
theorem Encoding.mfilStamp (gang quad slot : Nat) (tag : BitVec 16) : Encoding.Statement (.mfilStamp gang quad slot tag) := nofun
theorem Encoding.mdrnComplete (gang rank : Nat) (tile : BitVec 3) (rel : Bool) (sco : BitVec 3) : Encoding.Statement (.mdrnComplete gang rank tile rel sco) := nofun
theorem Encoding.barrierArrivalCount (vd bar : Nat) (gen : BitVec 16) : Encoding.Statement (.barrierArrivalCount vd bar gen) := nofun
theorem Encoding.loupeCommandComplete (id : Nat) : Encoding.Statement (.loupeCommandComplete id) := nofun
theorem Encoding.lhandComplete (id : Nat) : Encoding.Statement (.lhandComplete id) := nofun
theorem Encoding.loupeSliceEnd (die idx : Nat) : Encoding.Statement (.loupeSliceEnd die idx) := nofun
theorem Encoding.tlbiComplete (agent : Agent) : Encoding.Statement (.tlbiComplete agent) := nofun
theorem Encoding.preemptRequest (job : Nat) : Encoding.Statement (.preemptRequest job) := nofun
theorem Encoding.yieldHoldRelease (job : Nat) : Encoding.Statement (.yieldHoldRelease job) := nofun
theorem Encoding.contextSave (gang : Nat) : Encoding.Statement (.contextSave gang) := nofun
theorem Encoding.checkpoint (gang : Nat) : Encoding.Statement (.checkpoint gang) := nofun
theorem Encoding.haltRemoteStop (gang : Nat) : Encoding.Statement (.haltRemoteStop gang) := nofun
theorem Encoding.kernelEndJob (job : Nat) : Encoding.Statement (.kernelEndJob job) := nofun
theorem Encoding.kernelResumeInPlace (gang : Nat) (values : List (Nat × RegValue)) : Encoding.Statement (.kernelResumeInPlace gang values) := nofun
theorem Encoding.kernelSave (gang : Nat) : Encoding.Statement (.kernelSave gang) := nofun
theorem Encoding.lnotify (vd : Nat) (ptr : BitVec 64) : Encoding.Statement (.lnotify vd ptr) := nofun
theorem Encoding.bind (vd : Nat) : Encoding.Statement (.bind vd) := nofun
theorem Encoding.jobLoad (job : Nat) : Encoding.Statement (.jobLoad job) := nofun
theorem Encoding.startCycle (job : Nat) : Encoding.Statement (.startCycle job) := nofun
theorem Encoding.patternFrame (die cluster : Nat) : Encoding.Statement (.patternFrame die cluster) := nofun
theorem Encoding.forcedLowering (die cluster : Nat) : Encoding.Statement (.forcedLowering die cluster) := nofun
theorem Encoding.idleTimeout (vd : Nat) : Encoding.Statement (.idleTimeout vd) := nofun
theorem Encoding.collapse (vd : Nat) : Encoding.Statement (.collapse vd) := nofun
theorem Encoding.wakeDoorbell (vd : Nat) (peer : Bool) : Encoding.Statement (.wakeDoorbell vd peer) := nofun
theorem Encoding.wakeComplete (vd : Nat) : Encoding.Statement (.wakeComplete vd) := nofun
theorem Encoding.laneTestComplete (fault : LinkFault) (lane : Option (BitVec 8)) : Encoding.Statement (.laneTestComplete fault lane) := nofun
theorem Encoding.flgWrite (gang rank : Nat) (v : BitVec 64) : Encoding.Statement (.flgWrite gang rank v) := nofun
theorem Encoding.vwWrite (gang rank : Nat) (v : BitVec 64) : Encoding.Statement (.vwWrite gang rank v) := nofun
theorem Encoding.wdogWrite (vd : Nat) (v : BitVec 64) : Encoding.Statement (.wdogWrite vd v) := nofun
theorem Encoding.patWrite (die cluster : Nat) (k : BitVec 4) (v : BitVec 64) : Encoding.Statement (.patWrite die cluster k v) := nofun
theorem Encoding.nqheadWrite (vd : Nat) (v : BitVec 64) : Encoding.Statement (.nqheadWrite vd v) := nofun
theorem Encoding.nackWrite (vd : Nat) (v : BitVec 64) : Encoding.Statement (.nackWrite vd v) := nofun
theorem Encoding.registerWrite (vd : Nat) (reg : BitVec 12) (v : BitVec 64) : Encoding.Statement (.registerWrite vd reg v) := nofun
theorem Encoding.accessCommit (id : Nat) : Encoding.Statement (.accessCommit id) := nofun
theorem Encoding.viewBufferDrop (agent : Agent) (granule : Nat) : Encoding.Statement (.viewBufferDrop agent granule) := nofun
theorem Encoding.commandHalt (id : Nat) (va : BitVec 64) : Encoding.Statement (.commandHalt id va) := nofun
theorem Encoding.launch (q : CmdQueue) : Encoding.Statement (.launch q) := nofun
theorem Encoding.identify (q : CmdQueue) : Encoding.Statement (.identify q) := nofun
theorem Encoding.status (q : CmdQueue) : Encoding.Statement (.status q) := nofun
theorem Encoding.log (q : CmdQueue) : Encoding.Statement (.log q) := nofun
theorem Encoding.selftest (q : CmdQueue) : Encoding.Statement (.selftest q) := nofun
theorem Encoding.vdCreate (q : CmdQueue) : Encoding.Statement (.vdCreate q) := nofun
theorem Encoding.vdDestroy (q : CmdQueue) : Encoding.Statement (.vdDestroy q) := nofun
theorem Encoding.vdSleep (q : CmdQueue) : Encoding.Statement (.vdSleep q) := nofun
theorem Encoding.vdWake (q : CmdQueue) : Encoding.Statement (.vdWake q) := nofun
theorem Encoding.loadImage (q : CmdQueue) : Encoding.Statement (.loadImage q) := nofun
theorem Encoding.attest (q : CmdQueue) : Encoding.Statement (.attest q) := nofun
theorem Encoding.fwUpdate (q : CmdQueue) : Encoding.Statement (.fwUpdate q) := nofun
theorem Encoding.setCap (src : CapSource) : Encoding.Statement (.setCap src) := nofun
theorem Encoding.heldAccess (vd : Nat) (acc : OutsideAccess) : Encoding.Statement (.heldAccess vd acc) := nofun
theorem Encoding.outsideAgentAccess (vd : Nat) (acc : OutsideAccess) : Encoding.Statement (.outsideAgentAccess vd acc) := nofun
theorem Encoding.masterClockChange (die : Nat) (num den : Nat) : Encoding.Statement (.masterClockChange die num den) := nofun
theorem Encoding.kernelLaunch (vd : Nat) (ptr : LaunchPtr) : Encoding.Statement (.kernelLaunch vd ptr) := nofun
theorem Encoding.graphEdit (vd : Nat) (graph : BitVec 32) (records : List (BitVec 64)) : Encoding.Statement (.graphEdit vd graph records) := nofun
theorem Encoding.mirrorRepair (pa : Nat) (mirrorGood readback : Bool) : Encoding.Statement (.mirrorRepair pa mirrorGood readback) := nofun
theorem Encoding.linkRetry (fault : LinkFault) : Encoding.Statement (.linkRetry fault) := nofun
theorem Encoding.capLeaseExpiry : Encoding.Statement (.capLeaseExpiry) := nofun
theorem Encoding.reset : Encoding.Statement (.reset) := nofun
theorem Encoding.khbWrite : Encoding.Statement (.khbWrite) := nofun
theorem Encoding.kpanicWrite : Encoding.Statement (.kpanicWrite) := nofun
theorem Encoding.heartbeatTimeout : Encoding.Statement (.heartbeatTimeout) := nofun
theorem Encoding.kreadyWrite : Encoding.Statement (.kreadyWrite) := nofun
theorem Encoding.warmStartRetry : Encoding.Statement (.warmStartRetry) := nofun

end Laws
end Sys2Proof
end

