-- ==== Sys2Proof/Laws/Tables.lean ====
section
/-! SUPPORT. Tables and vectors: what an entry reads as after an update of that entry or of another. -/
namespace Sys2Proof.Machine

variable {α : Type}

@[simp] theorem tget_nil (k : Nat) : tget ([] : Tab α) k = none := rfl

@[simp] theorem tget_tset_self (t : Tab α) (k : Nat) (a : α) : tget (tset t k a) k = some a := by
  induction t with
  | nil => simp [tset, tget]
  | cons p r ih =>
    obtain ⟨j, b⟩ := p
    by_cases h : j = k <;> simp [tset, tget, h, ih]

theorem tget_tset_ne (t : Tab α) (k j : Nat) (a : α) (h : j ≠ k) : tget (tset t k a) j = tget t j := by
  induction t with
  | nil => simp [tset, tget, Ne.symm h]
  | cons p r ih =>
    obtain ⟨i, b⟩ := p
    by_cases hi : i = k
    · subst hi
      simp [tset, tget, Ne.symm h]
    · by_cases hj : i = j
      · subst hj
        simp [tset, tget, h]
      · simp [tset, tget, hi, hj, ih]

@[simp] theorem tget_tupd_self (t : Tab α) (k : Nat) (f : α → α) : tget (tupd t k f) k = (tget t k).map f := by
  unfold tupd
  split <;> simp [*]

theorem tget_tupd_ne (t : Tab α) (k j : Nat) (f : α → α) (h : j ≠ k) : tget (tupd t k f) j = tget t j := by
  unfold tupd
  split
  · rfl
  · exact tget_tset_ne _ _ _ _ h

theorem tset_tset (t : Tab α) (k : Nat) (a b : α) : tset (tset t k a) k b = tset t k b := by
  induction t with
  | nil => simp [tset]
  | cons p r ih =>
    obtain ⟨j, c⟩ := p
    by_cases h : j = k <;> simp [tset, h, ih]

theorem tupd_tupd (t : Tab α) (k : Nat) (f g : α → α) : tupd (tupd t k f) k g = tupd t k (fun a => g (f a)) := by
  cases h : tget t k with
  | none => simp [tupd, h]
  | some a => simp [tupd, h, tset_tset]

@[simp] theorem tget_tdel_self (t : Tab α) (k : Nat) : tget (tdel t k) k = none := by
  induction t with
  | nil => rfl
  | cons p r ih =>
    obtain ⟨j, b⟩ := p
    by_cases h : j = k
    · simpa [tdel, h] using ih
    · simpa [tdel, h, tget] using ih

theorem tget_tdel_ne (t : Tab α) (k j : Nat) (h : j ≠ k) : tget (tdel t k) j = tget t j := by
  induction t with
  | nil => rfl
  | cons p r ih =>
    obtain ⟨i, b⟩ := p
    by_cases hi : i = k
    · subst hi
      simpa [tdel, tget, Ne.symm h] using ih
    · by_cases hj : i = j
      · subst hj
        simp [tdel, tget, h]
      · simpa [tdel, tget, hi, hj] using ih

theorem vget_vset_self {n : Nat} (v : Vector α n) (i : Nat) (a d : α) (h : i < n) : vget (vset v i a) i d = a := by
  simp [vget, vset, h]

theorem vget_vset_ne {n : Nat} (v : Vector α n) (i j : Nat) (a d : α) (h : j ≠ i) : vget (vset v i a) j d = vget v j d := by
  simp [vget, vset, Ne.symm h]

theorem vget_vupd_self {n : Nat} (v : Vector α n) (i : Nat) (f : α → α) (d : α) (h : i < n) :
    vget (vupd v i f) i d = f (vget v i d) := by
  simp [vget, vupd, h]

theorem vget_vupd_ne {n : Nat} (v : Vector α n) (i j : Nat) (f : α → α) (d : α) (h : j ≠ i) :
    vget (vupd v i f) j d = vget v j d := by
  unfold vupd
  split
  · rfl
  · simp [vget, Ne.symm h]

theorem vupd_vupd {n : Nat} (v : Vector α n) (i : Nat) (f g : α → α) : vupd (vupd v i f) i g = vupd v i (fun a => g (f a)) := by
  by_cases h : i < n
  · simp [vupd, h]
  · simp [vupd, h]

end Sys2Proof.Machine
end

