-- ==== Sys2Proof/Laws/State.lean ====
section
/-! SUPPORT. What each update of the state leaves as it was, field by field, and what it makes of the field it is for. -/
namespace Sys2Proof.Machine

/-! ## The package -/

@[simp] theorem Mach.updGang_time (m : Mach) (g : Nat) (f : Gang → Gang) : (m.updGang g f).time = m.time := rfl
@[simp] theorem Mach.updGang_dies (m : Mach) (g : Nat) (f : Gang → Gang) : (m.updGang g f).dies = m.dies := rfl
@[simp] theorem Mach.updGang_vds (m : Mach) (g : Nat) (f : Gang → Gang) : (m.updGang g f).vds = m.vds := rfl
@[simp] theorem Mach.updGang_jobs (m : Mach) (g : Nat) (f : Gang → Gang) : (m.updGang g f).jobs = m.jobs := rfl
@[simp] theorem Mach.updGang_dev (m : Mach) (g : Nat) (f : Gang → Gang) : (m.updGang g f).dev = m.dev := rfl
@[simp] theorem Mach.updGang_host (m : Mach) (g : Nat) (f : Gang → Gang) : (m.updGang g f).host = m.host := rfl
@[simp] theorem Mach.updGang_mgmt (m : Mach) (g : Nat) (f : Gang → Gang) : (m.updGang g f).mgmt = m.mgmt := rfl
@[simp] theorem Mach.updGang_queue (m : Mach) (g : Nat) (f : Gang → Gang) : (m.updGang g f).queue = m.queue := rfl
@[simp] theorem Mach.updGang_replies (m : Mach) (g : Nat) (f : Gang → Gang) : (m.updGang g f).replies = m.replies := rfl
@[simp] theorem Mach.updGang_copies (m : Mach) (g : Nat) (f : Gang → Gang) : (m.updGang g f).copies = m.copies := rfl
@[simp] theorem Mach.updGang_early (m : Mach) (g : Nat) (f : Gang → Gang) : (m.updGang g f).early = m.early := rfl
@[simp] theorem Mach.updGang_released (m : Mach) (g : Nat) (f : Gang → Gang) : (m.updGang g f).released = m.released := rfl
@[simp] theorem Mach.updGang_heard (m : Mach) (g : Nat) (f : Gang → Gang) : (m.updGang g f).heard = m.heard := rfl
@[simp] theorem Mach.updGang_fenced (m : Mach) (g : Nat) (f : Gang → Gang) : (m.updGang g f).fenced = m.fenced := rfl
@[simp] theorem Mach.updGang_cmds (m : Mach) (g : Nat) (f : Gang → Gang) : (m.updGang g f).cmds = m.cmds := rfl
@[simp] theorem Mach.updGang_agenda (m : Mach) (g : Nat) (f : Gang → Gang) : (m.updGang g f).agenda = m.agenda := rfl
@[simp] theorem Mach.updGang_polls (m : Mach) (g : Nat) (f : Gang → Gang) : (m.updGang g f).polls = m.polls := rfl
@[simp] theorem Mach.updGang_inputs (m : Mach) (g : Nat) (f : Gang → Gang) : (m.updGang g f).inputs = m.inputs := rfl
@[simp] theorem Mach.updGang_strikes (m : Mach) (g : Nat) (f : Gang → Gang) : (m.updGang g f).strikes = m.strikes := rfl
@[simp] theorem Mach.updGang_hits (m : Mach) (g : Nat) (f : Gang → Gang) : (m.updGang g f).hits = m.hits := rfl
@[simp] theorem Mach.updGang_todo (m : Mach) (g : Nat) (f : Gang → Gang) : (m.updGang g f).todo = m.todo := rfl
@[simp] theorem Mach.updGang_ltodo (m : Mach) (g : Nat) (f : Gang → Gang) : (m.updGang g f).ltodo = m.ltodo := rfl
@[simp] theorem Mach.updGang_faulty (m : Mach) (g : Nat) (f : Gang → Gang) : (m.updGang g f).faulty = m.faulty := rfl
@[simp] theorem Mach.updGang_links (m : Mach) (g : Nat) (f : Gang → Gang) : (m.updGang g f).links = m.links := rfl
@[simp] theorem Mach.updGang_bad (m : Mach) (g : Nat) (f : Gang → Gang) : (m.updGang g f).bad = m.bad := rfl
@[simp] theorem Mach.updGang_io (m : Mach) (g : Nat) (f : Gang → Gang) : (m.updGang g f).io = m.io := rfl
@[simp] theorem Mach.updGang_away (m : Mach) (g : Nat) (f : Gang → Gang) : (m.updGang g f).away = m.away := rfl
@[simp] theorem Mach.updGang_touched (m : Mach) (g : Nat) (f : Gang → Gang) : (m.updGang g f).touched = m.touched := rfl
@[simp] theorem Mach.updGang_freeCtr (m : Mach) (g : Nat) (f : Gang → Gang) : (m.updGang g f).freeCtr = m.freeCtr := rfl
@[simp] theorem Mach.updGang_nextId (m : Mach) (g : Nat) (f : Gang → Gang) : (m.updGang g f).nextId = m.nextId := rfl

@[simp] theorem Mach.updCore_time (m : Mach) (g r : Nat) (f : Core → Core) : (m.updCore g r f).time = m.time := rfl
@[simp] theorem Mach.updCore_dies (m : Mach) (g r : Nat) (f : Core → Core) : (m.updCore g r f).dies = m.dies := rfl
@[simp] theorem Mach.updCore_vds (m : Mach) (g r : Nat) (f : Core → Core) : (m.updCore g r f).vds = m.vds := rfl
@[simp] theorem Mach.updCore_jobs (m : Mach) (g r : Nat) (f : Core → Core) : (m.updCore g r f).jobs = m.jobs := rfl
@[simp] theorem Mach.updCore_dev (m : Mach) (g r : Nat) (f : Core → Core) : (m.updCore g r f).dev = m.dev := rfl
@[simp] theorem Mach.updCore_host (m : Mach) (g r : Nat) (f : Core → Core) : (m.updCore g r f).host = m.host := rfl
@[simp] theorem Mach.updCore_mgmt (m : Mach) (g r : Nat) (f : Core → Core) : (m.updCore g r f).mgmt = m.mgmt := rfl
@[simp] theorem Mach.updCore_queue (m : Mach) (g r : Nat) (f : Core → Core) : (m.updCore g r f).queue = m.queue := rfl
@[simp] theorem Mach.updCore_replies (m : Mach) (g r : Nat) (f : Core → Core) : (m.updCore g r f).replies = m.replies := rfl
@[simp] theorem Mach.updCore_copies (m : Mach) (g r : Nat) (f : Core → Core) : (m.updCore g r f).copies = m.copies := rfl
@[simp] theorem Mach.updCore_early (m : Mach) (g r : Nat) (f : Core → Core) : (m.updCore g r f).early = m.early := rfl
@[simp] theorem Mach.updCore_released (m : Mach) (g r : Nat) (f : Core → Core) : (m.updCore g r f).released = m.released := rfl
@[simp] theorem Mach.updCore_heard (m : Mach) (g r : Nat) (f : Core → Core) : (m.updCore g r f).heard = m.heard := rfl
@[simp] theorem Mach.updCore_fenced (m : Mach) (g r : Nat) (f : Core → Core) : (m.updCore g r f).fenced = m.fenced := rfl
@[simp] theorem Mach.updCore_cmds (m : Mach) (g r : Nat) (f : Core → Core) : (m.updCore g r f).cmds = m.cmds := rfl
@[simp] theorem Mach.updCore_agenda (m : Mach) (g r : Nat) (f : Core → Core) : (m.updCore g r f).agenda = m.agenda := rfl
@[simp] theorem Mach.updCore_polls (m : Mach) (g r : Nat) (f : Core → Core) : (m.updCore g r f).polls = m.polls := rfl
@[simp] theorem Mach.updCore_inputs (m : Mach) (g r : Nat) (f : Core → Core) : (m.updCore g r f).inputs = m.inputs := rfl
@[simp] theorem Mach.updCore_strikes (m : Mach) (g r : Nat) (f : Core → Core) : (m.updCore g r f).strikes = m.strikes := rfl
@[simp] theorem Mach.updCore_hits (m : Mach) (g r : Nat) (f : Core → Core) : (m.updCore g r f).hits = m.hits := rfl
@[simp] theorem Mach.updCore_todo (m : Mach) (g r : Nat) (f : Core → Core) : (m.updCore g r f).todo = m.todo := rfl
@[simp] theorem Mach.updCore_ltodo (m : Mach) (g r : Nat) (f : Core → Core) : (m.updCore g r f).ltodo = m.ltodo := rfl
@[simp] theorem Mach.updCore_faulty (m : Mach) (g r : Nat) (f : Core → Core) : (m.updCore g r f).faulty = m.faulty := rfl
@[simp] theorem Mach.updCore_links (m : Mach) (g r : Nat) (f : Core → Core) : (m.updCore g r f).links = m.links := rfl
@[simp] theorem Mach.updCore_bad (m : Mach) (g r : Nat) (f : Core → Core) : (m.updCore g r f).bad = m.bad := rfl
@[simp] theorem Mach.updCore_io (m : Mach) (g r : Nat) (f : Core → Core) : (m.updCore g r f).io = m.io := rfl
@[simp] theorem Mach.updCore_away (m : Mach) (g r : Nat) (f : Core → Core) : (m.updCore g r f).away = m.away := rfl
@[simp] theorem Mach.updCore_touched (m : Mach) (g r : Nat) (f : Core → Core) : (m.updCore g r f).touched = m.touched := rfl
@[simp] theorem Mach.updCore_freeCtr (m : Mach) (g r : Nat) (f : Core → Core) : (m.updCore g r f).freeCtr = m.freeCtr := rfl
@[simp] theorem Mach.updCore_nextId (m : Mach) (g r : Nat) (f : Core → Core) : (m.updCore g r f).nextId = m.nextId := rfl

@[simp] theorem Mach.updJob_time (m : Mach) (j : Nat) (f : Job → Job) : (m.updJob j f).time = m.time := rfl
@[simp] theorem Mach.updJob_dies (m : Mach) (j : Nat) (f : Job → Job) : (m.updJob j f).dies = m.dies := rfl
@[simp] theorem Mach.updJob_vds (m : Mach) (j : Nat) (f : Job → Job) : (m.updJob j f).vds = m.vds := rfl
@[simp] theorem Mach.updJob_gangs (m : Mach) (j : Nat) (f : Job → Job) : (m.updJob j f).gangs = m.gangs := rfl
@[simp] theorem Mach.updJob_dev (m : Mach) (j : Nat) (f : Job → Job) : (m.updJob j f).dev = m.dev := rfl
@[simp] theorem Mach.updJob_host (m : Mach) (j : Nat) (f : Job → Job) : (m.updJob j f).host = m.host := rfl
@[simp] theorem Mach.updJob_mgmt (m : Mach) (j : Nat) (f : Job → Job) : (m.updJob j f).mgmt = m.mgmt := rfl
@[simp] theorem Mach.updJob_queue (m : Mach) (j : Nat) (f : Job → Job) : (m.updJob j f).queue = m.queue := rfl
@[simp] theorem Mach.updJob_replies (m : Mach) (j : Nat) (f : Job → Job) : (m.updJob j f).replies = m.replies := rfl
@[simp] theorem Mach.updJob_copies (m : Mach) (j : Nat) (f : Job → Job) : (m.updJob j f).copies = m.copies := rfl
@[simp] theorem Mach.updJob_early (m : Mach) (j : Nat) (f : Job → Job) : (m.updJob j f).early = m.early := rfl
@[simp] theorem Mach.updJob_released (m : Mach) (j : Nat) (f : Job → Job) : (m.updJob j f).released = m.released := rfl
@[simp] theorem Mach.updJob_heard (m : Mach) (j : Nat) (f : Job → Job) : (m.updJob j f).heard = m.heard := rfl
@[simp] theorem Mach.updJob_fenced (m : Mach) (j : Nat) (f : Job → Job) : (m.updJob j f).fenced = m.fenced := rfl
@[simp] theorem Mach.updJob_cmds (m : Mach) (j : Nat) (f : Job → Job) : (m.updJob j f).cmds = m.cmds := rfl
@[simp] theorem Mach.updJob_agenda (m : Mach) (j : Nat) (f : Job → Job) : (m.updJob j f).agenda = m.agenda := rfl
@[simp] theorem Mach.updJob_polls (m : Mach) (j : Nat) (f : Job → Job) : (m.updJob j f).polls = m.polls := rfl
@[simp] theorem Mach.updJob_inputs (m : Mach) (j : Nat) (f : Job → Job) : (m.updJob j f).inputs = m.inputs := rfl
@[simp] theorem Mach.updJob_strikes (m : Mach) (j : Nat) (f : Job → Job) : (m.updJob j f).strikes = m.strikes := rfl
@[simp] theorem Mach.updJob_hits (m : Mach) (j : Nat) (f : Job → Job) : (m.updJob j f).hits = m.hits := rfl
@[simp] theorem Mach.updJob_todo (m : Mach) (j : Nat) (f : Job → Job) : (m.updJob j f).todo = m.todo := rfl
@[simp] theorem Mach.updJob_ltodo (m : Mach) (j : Nat) (f : Job → Job) : (m.updJob j f).ltodo = m.ltodo := rfl
@[simp] theorem Mach.updJob_faulty (m : Mach) (j : Nat) (f : Job → Job) : (m.updJob j f).faulty = m.faulty := rfl
@[simp] theorem Mach.updJob_links (m : Mach) (j : Nat) (f : Job → Job) : (m.updJob j f).links = m.links := rfl
@[simp] theorem Mach.updJob_bad (m : Mach) (j : Nat) (f : Job → Job) : (m.updJob j f).bad = m.bad := rfl
@[simp] theorem Mach.updJob_io (m : Mach) (j : Nat) (f : Job → Job) : (m.updJob j f).io = m.io := rfl
@[simp] theorem Mach.updJob_away (m : Mach) (j : Nat) (f : Job → Job) : (m.updJob j f).away = m.away := rfl
@[simp] theorem Mach.updJob_touched (m : Mach) (j : Nat) (f : Job → Job) : (m.updJob j f).touched = m.touched := rfl
@[simp] theorem Mach.updJob_freeCtr (m : Mach) (j : Nat) (f : Job → Job) : (m.updJob j f).freeCtr = m.freeCtr := rfl
@[simp] theorem Mach.updJob_nextId (m : Mach) (j : Nat) (f : Job → Job) : (m.updJob j f).nextId = m.nextId := rfl

@[simp] theorem Mach.updVd_time (m : Mach) (v : Nat) (f : VDev → VDev) : (m.updVd v f).time = m.time := rfl
@[simp] theorem Mach.updVd_dies (m : Mach) (v : Nat) (f : VDev → VDev) : (m.updVd v f).dies = m.dies := rfl
@[simp] theorem Mach.updVd_jobs (m : Mach) (v : Nat) (f : VDev → VDev) : (m.updVd v f).jobs = m.jobs := rfl
@[simp] theorem Mach.updVd_gangs (m : Mach) (v : Nat) (f : VDev → VDev) : (m.updVd v f).gangs = m.gangs := rfl
@[simp] theorem Mach.updVd_dev (m : Mach) (v : Nat) (f : VDev → VDev) : (m.updVd v f).dev = m.dev := rfl
@[simp] theorem Mach.updVd_host (m : Mach) (v : Nat) (f : VDev → VDev) : (m.updVd v f).host = m.host := rfl
@[simp] theorem Mach.updVd_mgmt (m : Mach) (v : Nat) (f : VDev → VDev) : (m.updVd v f).mgmt = m.mgmt := rfl
@[simp] theorem Mach.updVd_queue (m : Mach) (v : Nat) (f : VDev → VDev) : (m.updVd v f).queue = m.queue := rfl
@[simp] theorem Mach.updVd_replies (m : Mach) (v : Nat) (f : VDev → VDev) : (m.updVd v f).replies = m.replies := rfl
@[simp] theorem Mach.updVd_copies (m : Mach) (v : Nat) (f : VDev → VDev) : (m.updVd v f).copies = m.copies := rfl
@[simp] theorem Mach.updVd_early (m : Mach) (v : Nat) (f : VDev → VDev) : (m.updVd v f).early = m.early := rfl
@[simp] theorem Mach.updVd_released (m : Mach) (v : Nat) (f : VDev → VDev) : (m.updVd v f).released = m.released := rfl
@[simp] theorem Mach.updVd_heard (m : Mach) (v : Nat) (f : VDev → VDev) : (m.updVd v f).heard = m.heard := rfl
@[simp] theorem Mach.updVd_fenced (m : Mach) (v : Nat) (f : VDev → VDev) : (m.updVd v f).fenced = m.fenced := rfl
@[simp] theorem Mach.updVd_cmds (m : Mach) (v : Nat) (f : VDev → VDev) : (m.updVd v f).cmds = m.cmds := rfl
@[simp] theorem Mach.updVd_agenda (m : Mach) (v : Nat) (f : VDev → VDev) : (m.updVd v f).agenda = m.agenda := rfl
@[simp] theorem Mach.updVd_polls (m : Mach) (v : Nat) (f : VDev → VDev) : (m.updVd v f).polls = m.polls := rfl
@[simp] theorem Mach.updVd_inputs (m : Mach) (v : Nat) (f : VDev → VDev) : (m.updVd v f).inputs = m.inputs := rfl
@[simp] theorem Mach.updVd_strikes (m : Mach) (v : Nat) (f : VDev → VDev) : (m.updVd v f).strikes = m.strikes := rfl
@[simp] theorem Mach.updVd_hits (m : Mach) (v : Nat) (f : VDev → VDev) : (m.updVd v f).hits = m.hits := rfl
@[simp] theorem Mach.updVd_todo (m : Mach) (v : Nat) (f : VDev → VDev) : (m.updVd v f).todo = m.todo := rfl
@[simp] theorem Mach.updVd_ltodo (m : Mach) (v : Nat) (f : VDev → VDev) : (m.updVd v f).ltodo = m.ltodo := rfl
@[simp] theorem Mach.updVd_faulty (m : Mach) (v : Nat) (f : VDev → VDev) : (m.updVd v f).faulty = m.faulty := rfl
@[simp] theorem Mach.updVd_links (m : Mach) (v : Nat) (f : VDev → VDev) : (m.updVd v f).links = m.links := rfl
@[simp] theorem Mach.updVd_bad (m : Mach) (v : Nat) (f : VDev → VDev) : (m.updVd v f).bad = m.bad := rfl
@[simp] theorem Mach.updVd_io (m : Mach) (v : Nat) (f : VDev → VDev) : (m.updVd v f).io = m.io := rfl
@[simp] theorem Mach.updVd_away (m : Mach) (v : Nat) (f : VDev → VDev) : (m.updVd v f).away = m.away := rfl
@[simp] theorem Mach.updVd_touched (m : Mach) (v : Nat) (f : VDev → VDev) : (m.updVd v f).touched = m.touched := rfl
@[simp] theorem Mach.updVd_freeCtr (m : Mach) (v : Nat) (f : VDev → VDev) : (m.updVd v f).freeCtr = m.freeCtr := rfl
@[simp] theorem Mach.updVd_nextId (m : Mach) (v : Nat) (f : VDev → VDev) : (m.updVd v f).nextId = m.nextId := rfl

@[simp] theorem Mach.updDie_time (m : Mach) (d : Nat) (f : Die → Die) : (m.updDie d f).time = m.time := rfl
@[simp] theorem Mach.updDie_vds (m : Mach) (d : Nat) (f : Die → Die) : (m.updDie d f).vds = m.vds := rfl
@[simp] theorem Mach.updDie_jobs (m : Mach) (d : Nat) (f : Die → Die) : (m.updDie d f).jobs = m.jobs := rfl
@[simp] theorem Mach.updDie_gangs (m : Mach) (d : Nat) (f : Die → Die) : (m.updDie d f).gangs = m.gangs := rfl
@[simp] theorem Mach.updDie_dev (m : Mach) (d : Nat) (f : Die → Die) : (m.updDie d f).dev = m.dev := rfl
@[simp] theorem Mach.updDie_host (m : Mach) (d : Nat) (f : Die → Die) : (m.updDie d f).host = m.host := rfl
@[simp] theorem Mach.updDie_mgmt (m : Mach) (d : Nat) (f : Die → Die) : (m.updDie d f).mgmt = m.mgmt := rfl
@[simp] theorem Mach.updDie_queue (m : Mach) (d : Nat) (f : Die → Die) : (m.updDie d f).queue = m.queue := rfl
@[simp] theorem Mach.updDie_replies (m : Mach) (d : Nat) (f : Die → Die) : (m.updDie d f).replies = m.replies := rfl
@[simp] theorem Mach.updDie_copies (m : Mach) (d : Nat) (f : Die → Die) : (m.updDie d f).copies = m.copies := rfl
@[simp] theorem Mach.updDie_early (m : Mach) (d : Nat) (f : Die → Die) : (m.updDie d f).early = m.early := rfl
@[simp] theorem Mach.updDie_released (m : Mach) (d : Nat) (f : Die → Die) : (m.updDie d f).released = m.released := rfl
@[simp] theorem Mach.updDie_heard (m : Mach) (d : Nat) (f : Die → Die) : (m.updDie d f).heard = m.heard := rfl
@[simp] theorem Mach.updDie_fenced (m : Mach) (d : Nat) (f : Die → Die) : (m.updDie d f).fenced = m.fenced := rfl
@[simp] theorem Mach.updDie_cmds (m : Mach) (d : Nat) (f : Die → Die) : (m.updDie d f).cmds = m.cmds := rfl
@[simp] theorem Mach.updDie_agenda (m : Mach) (d : Nat) (f : Die → Die) : (m.updDie d f).agenda = m.agenda := rfl
@[simp] theorem Mach.updDie_polls (m : Mach) (d : Nat) (f : Die → Die) : (m.updDie d f).polls = m.polls := rfl
@[simp] theorem Mach.updDie_inputs (m : Mach) (d : Nat) (f : Die → Die) : (m.updDie d f).inputs = m.inputs := rfl
@[simp] theorem Mach.updDie_strikes (m : Mach) (d : Nat) (f : Die → Die) : (m.updDie d f).strikes = m.strikes := rfl
@[simp] theorem Mach.updDie_hits (m : Mach) (d : Nat) (f : Die → Die) : (m.updDie d f).hits = m.hits := rfl
@[simp] theorem Mach.updDie_todo (m : Mach) (d : Nat) (f : Die → Die) : (m.updDie d f).todo = m.todo := rfl
@[simp] theorem Mach.updDie_ltodo (m : Mach) (d : Nat) (f : Die → Die) : (m.updDie d f).ltodo = m.ltodo := rfl
@[simp] theorem Mach.updDie_faulty (m : Mach) (d : Nat) (f : Die → Die) : (m.updDie d f).faulty = m.faulty := rfl
@[simp] theorem Mach.updDie_links (m : Mach) (d : Nat) (f : Die → Die) : (m.updDie d f).links = m.links := rfl
@[simp] theorem Mach.updDie_bad (m : Mach) (d : Nat) (f : Die → Die) : (m.updDie d f).bad = m.bad := rfl
@[simp] theorem Mach.updDie_io (m : Mach) (d : Nat) (f : Die → Die) : (m.updDie d f).io = m.io := rfl
@[simp] theorem Mach.updDie_away (m : Mach) (d : Nat) (f : Die → Die) : (m.updDie d f).away = m.away := rfl
@[simp] theorem Mach.updDie_touched (m : Mach) (d : Nat) (f : Die → Die) : (m.updDie d f).touched = m.touched := rfl
@[simp] theorem Mach.updDie_freeCtr (m : Mach) (d : Nat) (f : Die → Die) : (m.updDie d f).freeCtr = m.freeCtr := rfl
@[simp] theorem Mach.updDie_nextId (m : Mach) (d : Nat) (f : Die → Die) : (m.updDie d f).nextId = m.nextId := rfl

@[simp] theorem Mach.updCluster_time (m : Mach) (d k : Nat) (f : Cluster → Cluster) : (m.updCluster d k f).time = m.time := rfl
@[simp] theorem Mach.updCluster_vds (m : Mach) (d k : Nat) (f : Cluster → Cluster) : (m.updCluster d k f).vds = m.vds := rfl
@[simp] theorem Mach.updCluster_jobs (m : Mach) (d k : Nat) (f : Cluster → Cluster) : (m.updCluster d k f).jobs = m.jobs := rfl
@[simp] theorem Mach.updCluster_gangs (m : Mach) (d k : Nat) (f : Cluster → Cluster) : (m.updCluster d k f).gangs = m.gangs := rfl
@[simp] theorem Mach.updCluster_dev (m : Mach) (d k : Nat) (f : Cluster → Cluster) : (m.updCluster d k f).dev = m.dev := rfl
@[simp] theorem Mach.updCluster_host (m : Mach) (d k : Nat) (f : Cluster → Cluster) : (m.updCluster d k f).host = m.host := rfl
@[simp] theorem Mach.updCluster_mgmt (m : Mach) (d k : Nat) (f : Cluster → Cluster) : (m.updCluster d k f).mgmt = m.mgmt := rfl
@[simp] theorem Mach.updCluster_queue (m : Mach) (d k : Nat) (f : Cluster → Cluster) : (m.updCluster d k f).queue = m.queue := rfl
@[simp] theorem Mach.updCluster_replies (m : Mach) (d k : Nat) (f : Cluster → Cluster) : (m.updCluster d k f).replies = m.replies := rfl
@[simp] theorem Mach.updCluster_copies (m : Mach) (d k : Nat) (f : Cluster → Cluster) : (m.updCluster d k f).copies = m.copies := rfl
@[simp] theorem Mach.updCluster_early (m : Mach) (d k : Nat) (f : Cluster → Cluster) : (m.updCluster d k f).early = m.early := rfl
@[simp] theorem Mach.updCluster_released (m : Mach) (d k : Nat) (f : Cluster → Cluster) : (m.updCluster d k f).released = m.released := rfl
@[simp] theorem Mach.updCluster_heard (m : Mach) (d k : Nat) (f : Cluster → Cluster) : (m.updCluster d k f).heard = m.heard := rfl
@[simp] theorem Mach.updCluster_fenced (m : Mach) (d k : Nat) (f : Cluster → Cluster) : (m.updCluster d k f).fenced = m.fenced := rfl
@[simp] theorem Mach.updCluster_cmds (m : Mach) (d k : Nat) (f : Cluster → Cluster) : (m.updCluster d k f).cmds = m.cmds := rfl
@[simp] theorem Mach.updCluster_agenda (m : Mach) (d k : Nat) (f : Cluster → Cluster) : (m.updCluster d k f).agenda = m.agenda := rfl
@[simp] theorem Mach.updCluster_polls (m : Mach) (d k : Nat) (f : Cluster → Cluster) : (m.updCluster d k f).polls = m.polls := rfl
@[simp] theorem Mach.updCluster_inputs (m : Mach) (d k : Nat) (f : Cluster → Cluster) : (m.updCluster d k f).inputs = m.inputs := rfl
@[simp] theorem Mach.updCluster_strikes (m : Mach) (d k : Nat) (f : Cluster → Cluster) : (m.updCluster d k f).strikes = m.strikes := rfl
@[simp] theorem Mach.updCluster_hits (m : Mach) (d k : Nat) (f : Cluster → Cluster) : (m.updCluster d k f).hits = m.hits := rfl
@[simp] theorem Mach.updCluster_todo (m : Mach) (d k : Nat) (f : Cluster → Cluster) : (m.updCluster d k f).todo = m.todo := rfl
@[simp] theorem Mach.updCluster_ltodo (m : Mach) (d k : Nat) (f : Cluster → Cluster) : (m.updCluster d k f).ltodo = m.ltodo := rfl
@[simp] theorem Mach.updCluster_faulty (m : Mach) (d k : Nat) (f : Cluster → Cluster) : (m.updCluster d k f).faulty = m.faulty := rfl
@[simp] theorem Mach.updCluster_links (m : Mach) (d k : Nat) (f : Cluster → Cluster) : (m.updCluster d k f).links = m.links := rfl
@[simp] theorem Mach.updCluster_bad (m : Mach) (d k : Nat) (f : Cluster → Cluster) : (m.updCluster d k f).bad = m.bad := rfl
@[simp] theorem Mach.updCluster_io (m : Mach) (d k : Nat) (f : Cluster → Cluster) : (m.updCluster d k f).io = m.io := rfl
@[simp] theorem Mach.updCluster_away (m : Mach) (d k : Nat) (f : Cluster → Cluster) : (m.updCluster d k f).away = m.away := rfl
@[simp] theorem Mach.updCluster_touched (m : Mach) (d k : Nat) (f : Cluster → Cluster) : (m.updCluster d k f).touched = m.touched := rfl
@[simp] theorem Mach.updCluster_freeCtr (m : Mach) (d k : Nat) (f : Cluster → Cluster) : (m.updCluster d k f).freeCtr = m.freeCtr := rfl
@[simp] theorem Mach.updCluster_nextId (m : Mach) (d k : Nat) (f : Cluster → Cluster) : (m.updCluster d k f).nextId = m.nextId := rfl

@[simp] theorem Mach.updLoupe_time (m : Mach) (d i : Nat) (f : LoupeCore → LoupeCore) : (m.updLoupe d i f).time = m.time := rfl
@[simp] theorem Mach.updLoupe_vds (m : Mach) (d i : Nat) (f : LoupeCore → LoupeCore) : (m.updLoupe d i f).vds = m.vds := rfl
@[simp] theorem Mach.updLoupe_jobs (m : Mach) (d i : Nat) (f : LoupeCore → LoupeCore) : (m.updLoupe d i f).jobs = m.jobs := rfl
@[simp] theorem Mach.updLoupe_gangs (m : Mach) (d i : Nat) (f : LoupeCore → LoupeCore) : (m.updLoupe d i f).gangs = m.gangs := rfl
@[simp] theorem Mach.updLoupe_dev (m : Mach) (d i : Nat) (f : LoupeCore → LoupeCore) : (m.updLoupe d i f).dev = m.dev := rfl
@[simp] theorem Mach.updLoupe_host (m : Mach) (d i : Nat) (f : LoupeCore → LoupeCore) : (m.updLoupe d i f).host = m.host := rfl
@[simp] theorem Mach.updLoupe_mgmt (m : Mach) (d i : Nat) (f : LoupeCore → LoupeCore) : (m.updLoupe d i f).mgmt = m.mgmt := rfl
@[simp] theorem Mach.updLoupe_queue (m : Mach) (d i : Nat) (f : LoupeCore → LoupeCore) : (m.updLoupe d i f).queue = m.queue := rfl
@[simp] theorem Mach.updLoupe_replies (m : Mach) (d i : Nat) (f : LoupeCore → LoupeCore) : (m.updLoupe d i f).replies = m.replies := rfl
@[simp] theorem Mach.updLoupe_copies (m : Mach) (d i : Nat) (f : LoupeCore → LoupeCore) : (m.updLoupe d i f).copies = m.copies := rfl
@[simp] theorem Mach.updLoupe_early (m : Mach) (d i : Nat) (f : LoupeCore → LoupeCore) : (m.updLoupe d i f).early = m.early := rfl
@[simp] theorem Mach.updLoupe_released (m : Mach) (d i : Nat) (f : LoupeCore → LoupeCore) : (m.updLoupe d i f).released = m.released := rfl
@[simp] theorem Mach.updLoupe_heard (m : Mach) (d i : Nat) (f : LoupeCore → LoupeCore) : (m.updLoupe d i f).heard = m.heard := rfl
@[simp] theorem Mach.updLoupe_fenced (m : Mach) (d i : Nat) (f : LoupeCore → LoupeCore) : (m.updLoupe d i f).fenced = m.fenced := rfl
@[simp] theorem Mach.updLoupe_cmds (m : Mach) (d i : Nat) (f : LoupeCore → LoupeCore) : (m.updLoupe d i f).cmds = m.cmds := rfl
@[simp] theorem Mach.updLoupe_agenda (m : Mach) (d i : Nat) (f : LoupeCore → LoupeCore) : (m.updLoupe d i f).agenda = m.agenda := rfl
@[simp] theorem Mach.updLoupe_polls (m : Mach) (d i : Nat) (f : LoupeCore → LoupeCore) : (m.updLoupe d i f).polls = m.polls := rfl
@[simp] theorem Mach.updLoupe_inputs (m : Mach) (d i : Nat) (f : LoupeCore → LoupeCore) : (m.updLoupe d i f).inputs = m.inputs := rfl
@[simp] theorem Mach.updLoupe_strikes (m : Mach) (d i : Nat) (f : LoupeCore → LoupeCore) : (m.updLoupe d i f).strikes = m.strikes := rfl
@[simp] theorem Mach.updLoupe_hits (m : Mach) (d i : Nat) (f : LoupeCore → LoupeCore) : (m.updLoupe d i f).hits = m.hits := rfl
@[simp] theorem Mach.updLoupe_todo (m : Mach) (d i : Nat) (f : LoupeCore → LoupeCore) : (m.updLoupe d i f).todo = m.todo := rfl
@[simp] theorem Mach.updLoupe_ltodo (m : Mach) (d i : Nat) (f : LoupeCore → LoupeCore) : (m.updLoupe d i f).ltodo = m.ltodo := rfl
@[simp] theorem Mach.updLoupe_faulty (m : Mach) (d i : Nat) (f : LoupeCore → LoupeCore) : (m.updLoupe d i f).faulty = m.faulty := rfl
@[simp] theorem Mach.updLoupe_links (m : Mach) (d i : Nat) (f : LoupeCore → LoupeCore) : (m.updLoupe d i f).links = m.links := rfl
@[simp] theorem Mach.updLoupe_bad (m : Mach) (d i : Nat) (f : LoupeCore → LoupeCore) : (m.updLoupe d i f).bad = m.bad := rfl
@[simp] theorem Mach.updLoupe_io (m : Mach) (d i : Nat) (f : LoupeCore → LoupeCore) : (m.updLoupe d i f).io = m.io := rfl
@[simp] theorem Mach.updLoupe_away (m : Mach) (d i : Nat) (f : LoupeCore → LoupeCore) : (m.updLoupe d i f).away = m.away := rfl
@[simp] theorem Mach.updLoupe_touched (m : Mach) (d i : Nat) (f : LoupeCore → LoupeCore) : (m.updLoupe d i f).touched = m.touched := rfl
@[simp] theorem Mach.updLoupe_freeCtr (m : Mach) (d i : Nat) (f : LoupeCore → LoupeCore) : (m.updLoupe d i f).freeCtr = m.freeCtr := rfl
@[simp] theorem Mach.updLoupe_nextId (m : Mach) (d i : Nat) (f : LoupeCore → LoupeCore) : (m.updLoupe d i f).nextId = m.nextId := rfl

@[simp] theorem Mach.updCtx_time (m : Mach) (d i c : Nat) (f : LoupeCtx → LoupeCtx) : (m.updCtx d i c f).time = m.time := rfl
@[simp] theorem Mach.updCtx_vds (m : Mach) (d i c : Nat) (f : LoupeCtx → LoupeCtx) : (m.updCtx d i c f).vds = m.vds := rfl
@[simp] theorem Mach.updCtx_jobs (m : Mach) (d i c : Nat) (f : LoupeCtx → LoupeCtx) : (m.updCtx d i c f).jobs = m.jobs := rfl
@[simp] theorem Mach.updCtx_gangs (m : Mach) (d i c : Nat) (f : LoupeCtx → LoupeCtx) : (m.updCtx d i c f).gangs = m.gangs := rfl
@[simp] theorem Mach.updCtx_dev (m : Mach) (d i c : Nat) (f : LoupeCtx → LoupeCtx) : (m.updCtx d i c f).dev = m.dev := rfl
@[simp] theorem Mach.updCtx_host (m : Mach) (d i c : Nat) (f : LoupeCtx → LoupeCtx) : (m.updCtx d i c f).host = m.host := rfl
@[simp] theorem Mach.updCtx_mgmt (m : Mach) (d i c : Nat) (f : LoupeCtx → LoupeCtx) : (m.updCtx d i c f).mgmt = m.mgmt := rfl
@[simp] theorem Mach.updCtx_queue (m : Mach) (d i c : Nat) (f : LoupeCtx → LoupeCtx) : (m.updCtx d i c f).queue = m.queue := rfl
@[simp] theorem Mach.updCtx_replies (m : Mach) (d i c : Nat) (f : LoupeCtx → LoupeCtx) : (m.updCtx d i c f).replies = m.replies := rfl
@[simp] theorem Mach.updCtx_copies (m : Mach) (d i c : Nat) (f : LoupeCtx → LoupeCtx) : (m.updCtx d i c f).copies = m.copies := rfl
@[simp] theorem Mach.updCtx_early (m : Mach) (d i c : Nat) (f : LoupeCtx → LoupeCtx) : (m.updCtx d i c f).early = m.early := rfl
@[simp] theorem Mach.updCtx_released (m : Mach) (d i c : Nat) (f : LoupeCtx → LoupeCtx) : (m.updCtx d i c f).released = m.released := rfl
@[simp] theorem Mach.updCtx_heard (m : Mach) (d i c : Nat) (f : LoupeCtx → LoupeCtx) : (m.updCtx d i c f).heard = m.heard := rfl
@[simp] theorem Mach.updCtx_fenced (m : Mach) (d i c : Nat) (f : LoupeCtx → LoupeCtx) : (m.updCtx d i c f).fenced = m.fenced := rfl
@[simp] theorem Mach.updCtx_cmds (m : Mach) (d i c : Nat) (f : LoupeCtx → LoupeCtx) : (m.updCtx d i c f).cmds = m.cmds := rfl
@[simp] theorem Mach.updCtx_agenda (m : Mach) (d i c : Nat) (f : LoupeCtx → LoupeCtx) : (m.updCtx d i c f).agenda = m.agenda := rfl
@[simp] theorem Mach.updCtx_polls (m : Mach) (d i c : Nat) (f : LoupeCtx → LoupeCtx) : (m.updCtx d i c f).polls = m.polls := rfl
@[simp] theorem Mach.updCtx_inputs (m : Mach) (d i c : Nat) (f : LoupeCtx → LoupeCtx) : (m.updCtx d i c f).inputs = m.inputs := rfl
@[simp] theorem Mach.updCtx_strikes (m : Mach) (d i c : Nat) (f : LoupeCtx → LoupeCtx) : (m.updCtx d i c f).strikes = m.strikes := rfl
@[simp] theorem Mach.updCtx_hits (m : Mach) (d i c : Nat) (f : LoupeCtx → LoupeCtx) : (m.updCtx d i c f).hits = m.hits := rfl
@[simp] theorem Mach.updCtx_todo (m : Mach) (d i c : Nat) (f : LoupeCtx → LoupeCtx) : (m.updCtx d i c f).todo = m.todo := rfl
@[simp] theorem Mach.updCtx_ltodo (m : Mach) (d i c : Nat) (f : LoupeCtx → LoupeCtx) : (m.updCtx d i c f).ltodo = m.ltodo := rfl
@[simp] theorem Mach.updCtx_faulty (m : Mach) (d i c : Nat) (f : LoupeCtx → LoupeCtx) : (m.updCtx d i c f).faulty = m.faulty := rfl
@[simp] theorem Mach.updCtx_links (m : Mach) (d i c : Nat) (f : LoupeCtx → LoupeCtx) : (m.updCtx d i c f).links = m.links := rfl
@[simp] theorem Mach.updCtx_bad (m : Mach) (d i c : Nat) (f : LoupeCtx → LoupeCtx) : (m.updCtx d i c f).bad = m.bad := rfl
@[simp] theorem Mach.updCtx_io (m : Mach) (d i c : Nat) (f : LoupeCtx → LoupeCtx) : (m.updCtx d i c f).io = m.io := rfl
@[simp] theorem Mach.updCtx_away (m : Mach) (d i c : Nat) (f : LoupeCtx → LoupeCtx) : (m.updCtx d i c f).away = m.away := rfl
@[simp] theorem Mach.updCtx_touched (m : Mach) (d i c : Nat) (f : LoupeCtx → LoupeCtx) : (m.updCtx d i c f).touched = m.touched := rfl
@[simp] theorem Mach.updCtx_freeCtr (m : Mach) (d i c : Nat) (f : LoupeCtx → LoupeCtx) : (m.updCtx d i c f).freeCtr = m.freeCtr := rfl
@[simp] theorem Mach.updCtx_nextId (m : Mach) (d i c : Nat) (f : LoupeCtx → LoupeCtx) : (m.updCtx d i c f).nextId = m.nextId := rfl

@[simp] theorem Mach.updCmd_time (m : Mach) (k : Nat) (f : Cmd → Cmd) : (m.updCmd k f).time = m.time := rfl
@[simp] theorem Mach.updCmd_dies (m : Mach) (k : Nat) (f : Cmd → Cmd) : (m.updCmd k f).dies = m.dies := rfl
@[simp] theorem Mach.updCmd_vds (m : Mach) (k : Nat) (f : Cmd → Cmd) : (m.updCmd k f).vds = m.vds := rfl
@[simp] theorem Mach.updCmd_jobs (m : Mach) (k : Nat) (f : Cmd → Cmd) : (m.updCmd k f).jobs = m.jobs := rfl
@[simp] theorem Mach.updCmd_gangs (m : Mach) (k : Nat) (f : Cmd → Cmd) : (m.updCmd k f).gangs = m.gangs := rfl
@[simp] theorem Mach.updCmd_dev (m : Mach) (k : Nat) (f : Cmd → Cmd) : (m.updCmd k f).dev = m.dev := rfl
@[simp] theorem Mach.updCmd_host (m : Mach) (k : Nat) (f : Cmd → Cmd) : (m.updCmd k f).host = m.host := rfl
@[simp] theorem Mach.updCmd_mgmt (m : Mach) (k : Nat) (f : Cmd → Cmd) : (m.updCmd k f).mgmt = m.mgmt := rfl
@[simp] theorem Mach.updCmd_queue (m : Mach) (k : Nat) (f : Cmd → Cmd) : (m.updCmd k f).queue = m.queue := rfl
@[simp] theorem Mach.updCmd_replies (m : Mach) (k : Nat) (f : Cmd → Cmd) : (m.updCmd k f).replies = m.replies := rfl
@[simp] theorem Mach.updCmd_copies (m : Mach) (k : Nat) (f : Cmd → Cmd) : (m.updCmd k f).copies = m.copies := rfl
@[simp] theorem Mach.updCmd_early (m : Mach) (k : Nat) (f : Cmd → Cmd) : (m.updCmd k f).early = m.early := rfl
@[simp] theorem Mach.updCmd_released (m : Mach) (k : Nat) (f : Cmd → Cmd) : (m.updCmd k f).released = m.released := rfl
@[simp] theorem Mach.updCmd_heard (m : Mach) (k : Nat) (f : Cmd → Cmd) : (m.updCmd k f).heard = m.heard := rfl
@[simp] theorem Mach.updCmd_fenced (m : Mach) (k : Nat) (f : Cmd → Cmd) : (m.updCmd k f).fenced = m.fenced := rfl
@[simp] theorem Mach.updCmd_agenda (m : Mach) (k : Nat) (f : Cmd → Cmd) : (m.updCmd k f).agenda = m.agenda := rfl
@[simp] theorem Mach.updCmd_polls (m : Mach) (k : Nat) (f : Cmd → Cmd) : (m.updCmd k f).polls = m.polls := rfl
@[simp] theorem Mach.updCmd_inputs (m : Mach) (k : Nat) (f : Cmd → Cmd) : (m.updCmd k f).inputs = m.inputs := rfl
@[simp] theorem Mach.updCmd_strikes (m : Mach) (k : Nat) (f : Cmd → Cmd) : (m.updCmd k f).strikes = m.strikes := rfl
@[simp] theorem Mach.updCmd_hits (m : Mach) (k : Nat) (f : Cmd → Cmd) : (m.updCmd k f).hits = m.hits := rfl
@[simp] theorem Mach.updCmd_todo (m : Mach) (k : Nat) (f : Cmd → Cmd) : (m.updCmd k f).todo = m.todo := rfl
@[simp] theorem Mach.updCmd_ltodo (m : Mach) (k : Nat) (f : Cmd → Cmd) : (m.updCmd k f).ltodo = m.ltodo := rfl
@[simp] theorem Mach.updCmd_faulty (m : Mach) (k : Nat) (f : Cmd → Cmd) : (m.updCmd k f).faulty = m.faulty := rfl
@[simp] theorem Mach.updCmd_links (m : Mach) (k : Nat) (f : Cmd → Cmd) : (m.updCmd k f).links = m.links := rfl
@[simp] theorem Mach.updCmd_bad (m : Mach) (k : Nat) (f : Cmd → Cmd) : (m.updCmd k f).bad = m.bad := rfl
@[simp] theorem Mach.updCmd_io (m : Mach) (k : Nat) (f : Cmd → Cmd) : (m.updCmd k f).io = m.io := rfl
@[simp] theorem Mach.updCmd_away (m : Mach) (k : Nat) (f : Cmd → Cmd) : (m.updCmd k f).away = m.away := rfl
@[simp] theorem Mach.updCmd_touched (m : Mach) (k : Nat) (f : Cmd → Cmd) : (m.updCmd k f).touched = m.touched := rfl
@[simp] theorem Mach.updCmd_freeCtr (m : Mach) (k : Nat) (f : Cmd → Cmd) : (m.updCmd k f).freeCtr = m.freeCtr := rfl
@[simp] theorem Mach.updCmd_nextId (m : Mach) (k : Nat) (f : Cmd → Cmd) : (m.updCmd k f).nextId = m.nextId := rfl

@[simp] theorem Mach.updBar_time (m : Mach) (v k : Nat) (f : Barrier → Barrier) : (m.updBar v k f).time = m.time := rfl
@[simp] theorem Mach.updBar_dies (m : Mach) (v k : Nat) (f : Barrier → Barrier) : (m.updBar v k f).dies = m.dies := rfl
@[simp] theorem Mach.updBar_jobs (m : Mach) (v k : Nat) (f : Barrier → Barrier) : (m.updBar v k f).jobs = m.jobs := rfl
@[simp] theorem Mach.updBar_gangs (m : Mach) (v k : Nat) (f : Barrier → Barrier) : (m.updBar v k f).gangs = m.gangs := rfl
@[simp] theorem Mach.updBar_dev (m : Mach) (v k : Nat) (f : Barrier → Barrier) : (m.updBar v k f).dev = m.dev := rfl
@[simp] theorem Mach.updBar_host (m : Mach) (v k : Nat) (f : Barrier → Barrier) : (m.updBar v k f).host = m.host := rfl
@[simp] theorem Mach.updBar_mgmt (m : Mach) (v k : Nat) (f : Barrier → Barrier) : (m.updBar v k f).mgmt = m.mgmt := rfl
@[simp] theorem Mach.updBar_queue (m : Mach) (v k : Nat) (f : Barrier → Barrier) : (m.updBar v k f).queue = m.queue := rfl
@[simp] theorem Mach.updBar_replies (m : Mach) (v k : Nat) (f : Barrier → Barrier) : (m.updBar v k f).replies = m.replies := rfl
@[simp] theorem Mach.updBar_copies (m : Mach) (v k : Nat) (f : Barrier → Barrier) : (m.updBar v k f).copies = m.copies := rfl
@[simp] theorem Mach.updBar_early (m : Mach) (v k : Nat) (f : Barrier → Barrier) : (m.updBar v k f).early = m.early := rfl
@[simp] theorem Mach.updBar_released (m : Mach) (v k : Nat) (f : Barrier → Barrier) : (m.updBar v k f).released = m.released := rfl
@[simp] theorem Mach.updBar_heard (m : Mach) (v k : Nat) (f : Barrier → Barrier) : (m.updBar v k f).heard = m.heard := rfl
@[simp] theorem Mach.updBar_fenced (m : Mach) (v k : Nat) (f : Barrier → Barrier) : (m.updBar v k f).fenced = m.fenced := rfl
@[simp] theorem Mach.updBar_cmds (m : Mach) (v k : Nat) (f : Barrier → Barrier) : (m.updBar v k f).cmds = m.cmds := rfl
@[simp] theorem Mach.updBar_agenda (m : Mach) (v k : Nat) (f : Barrier → Barrier) : (m.updBar v k f).agenda = m.agenda := rfl
@[simp] theorem Mach.updBar_polls (m : Mach) (v k : Nat) (f : Barrier → Barrier) : (m.updBar v k f).polls = m.polls := rfl
@[simp] theorem Mach.updBar_inputs (m : Mach) (v k : Nat) (f : Barrier → Barrier) : (m.updBar v k f).inputs = m.inputs := rfl
@[simp] theorem Mach.updBar_strikes (m : Mach) (v k : Nat) (f : Barrier → Barrier) : (m.updBar v k f).strikes = m.strikes := rfl
@[simp] theorem Mach.updBar_hits (m : Mach) (v k : Nat) (f : Barrier → Barrier) : (m.updBar v k f).hits = m.hits := rfl
@[simp] theorem Mach.updBar_todo (m : Mach) (v k : Nat) (f : Barrier → Barrier) : (m.updBar v k f).todo = m.todo := rfl
@[simp] theorem Mach.updBar_ltodo (m : Mach) (v k : Nat) (f : Barrier → Barrier) : (m.updBar v k f).ltodo = m.ltodo := rfl
@[simp] theorem Mach.updBar_faulty (m : Mach) (v k : Nat) (f : Barrier → Barrier) : (m.updBar v k f).faulty = m.faulty := rfl
@[simp] theorem Mach.updBar_links (m : Mach) (v k : Nat) (f : Barrier → Barrier) : (m.updBar v k f).links = m.links := rfl
@[simp] theorem Mach.updBar_bad (m : Mach) (v k : Nat) (f : Barrier → Barrier) : (m.updBar v k f).bad = m.bad := rfl
@[simp] theorem Mach.updBar_io (m : Mach) (v k : Nat) (f : Barrier → Barrier) : (m.updBar v k f).io = m.io := rfl
@[simp] theorem Mach.updBar_away (m : Mach) (v k : Nat) (f : Barrier → Barrier) : (m.updBar v k f).away = m.away := rfl
@[simp] theorem Mach.updBar_touched (m : Mach) (v k : Nat) (f : Barrier → Barrier) : (m.updBar v k f).touched = m.touched := rfl
@[simp] theorem Mach.updBar_freeCtr (m : Mach) (v k : Nat) (f : Barrier → Barrier) : (m.updBar v k f).freeCtr = m.freeCtr := rfl
@[simp] theorem Mach.updBar_nextId (m : Mach) (v k : Nat) (f : Barrier → Barrier) : (m.updBar v k f).nextId = m.nextId := rfl

@[simp] theorem Mach.updAway_time (m : Mach) (g r : Nat) (f : AwayRank → AwayRank) : (m.updAway g r f).time = m.time := rfl
@[simp] theorem Mach.updAway_vds (m : Mach) (g r : Nat) (f : AwayRank → AwayRank) : (m.updAway g r f).vds = m.vds := rfl
@[simp] theorem Mach.updAway_jobs (m : Mach) (g r : Nat) (f : AwayRank → AwayRank) : (m.updAway g r f).jobs = m.jobs := rfl
@[simp] theorem Mach.updAway_gangs (m : Mach) (g r : Nat) (f : AwayRank → AwayRank) : (m.updAway g r f).gangs = m.gangs := rfl
@[simp] theorem Mach.updAway_dev (m : Mach) (g r : Nat) (f : AwayRank → AwayRank) : (m.updAway g r f).dev = m.dev := rfl
@[simp] theorem Mach.updAway_host (m : Mach) (g r : Nat) (f : AwayRank → AwayRank) : (m.updAway g r f).host = m.host := rfl
@[simp] theorem Mach.updAway_mgmt (m : Mach) (g r : Nat) (f : AwayRank → AwayRank) : (m.updAway g r f).mgmt = m.mgmt := rfl
@[simp] theorem Mach.updAway_queue (m : Mach) (g r : Nat) (f : AwayRank → AwayRank) : (m.updAway g r f).queue = m.queue := rfl
@[simp] theorem Mach.updAway_replies (m : Mach) (g r : Nat) (f : AwayRank → AwayRank) : (m.updAway g r f).replies = m.replies := rfl
@[simp] theorem Mach.updAway_copies (m : Mach) (g r : Nat) (f : AwayRank → AwayRank) : (m.updAway g r f).copies = m.copies := rfl
@[simp] theorem Mach.updAway_early (m : Mach) (g r : Nat) (f : AwayRank → AwayRank) : (m.updAway g r f).early = m.early := rfl
@[simp] theorem Mach.updAway_released (m : Mach) (g r : Nat) (f : AwayRank → AwayRank) : (m.updAway g r f).released = m.released := rfl
@[simp] theorem Mach.updAway_heard (m : Mach) (g r : Nat) (f : AwayRank → AwayRank) : (m.updAway g r f).heard = m.heard := rfl
@[simp] theorem Mach.updAway_fenced (m : Mach) (g r : Nat) (f : AwayRank → AwayRank) : (m.updAway g r f).fenced = m.fenced := rfl
@[simp] theorem Mach.updAway_cmds (m : Mach) (g r : Nat) (f : AwayRank → AwayRank) : (m.updAway g r f).cmds = m.cmds := rfl
@[simp] theorem Mach.updAway_agenda (m : Mach) (g r : Nat) (f : AwayRank → AwayRank) : (m.updAway g r f).agenda = m.agenda := rfl
@[simp] theorem Mach.updAway_polls (m : Mach) (g r : Nat) (f : AwayRank → AwayRank) : (m.updAway g r f).polls = m.polls := rfl
@[simp] theorem Mach.updAway_inputs (m : Mach) (g r : Nat) (f : AwayRank → AwayRank) : (m.updAway g r f).inputs = m.inputs := rfl
@[simp] theorem Mach.updAway_strikes (m : Mach) (g r : Nat) (f : AwayRank → AwayRank) : (m.updAway g r f).strikes = m.strikes := rfl
@[simp] theorem Mach.updAway_hits (m : Mach) (g r : Nat) (f : AwayRank → AwayRank) : (m.updAway g r f).hits = m.hits := rfl
@[simp] theorem Mach.updAway_todo (m : Mach) (g r : Nat) (f : AwayRank → AwayRank) : (m.updAway g r f).todo = m.todo := rfl
@[simp] theorem Mach.updAway_ltodo (m : Mach) (g r : Nat) (f : AwayRank → AwayRank) : (m.updAway g r f).ltodo = m.ltodo := rfl
@[simp] theorem Mach.updAway_faulty (m : Mach) (g r : Nat) (f : AwayRank → AwayRank) : (m.updAway g r f).faulty = m.faulty := rfl
@[simp] theorem Mach.updAway_links (m : Mach) (g r : Nat) (f : AwayRank → AwayRank) : (m.updAway g r f).links = m.links := rfl
@[simp] theorem Mach.updAway_bad (m : Mach) (g r : Nat) (f : AwayRank → AwayRank) : (m.updAway g r f).bad = m.bad := rfl
@[simp] theorem Mach.updAway_io (m : Mach) (g r : Nat) (f : AwayRank → AwayRank) : (m.updAway g r f).io = m.io := rfl
@[simp] theorem Mach.updAway_touched (m : Mach) (g r : Nat) (f : AwayRank → AwayRank) : (m.updAway g r f).touched = m.touched := rfl
@[simp] theorem Mach.updAway_freeCtr (m : Mach) (g r : Nat) (f : AwayRank → AwayRank) : (m.updAway g r f).freeCtr = m.freeCtr := rfl
@[simp] theorem Mach.updAway_nextId (m : Mach) (g r : Nat) (f : AwayRank → AwayRank) : (m.updAway g r f).nextId = m.nextId := rfl
@[simp] theorem Mach.updAway_dies (m : Mach) (g r : Nat) (f : AwayRank → AwayRank) : (m.updAway g r f).dies = m.dies := rfl
@[simp] theorem Mach.updAway_away (m : Mach) (g r : Nat) (f : AwayRank → AwayRank) :
    (m.updAway g r f).away = tupd m.away g (fun a => { a with ranks := a.ranks.modify r f }) := rfl

@[simp] theorem Mach.schedule_time (m : Mach) (c : Clock) (n : Nat) (i : Instr) : (m.schedule c n i).time = m.time := rfl
@[simp] theorem Mach.schedule_dies (m : Mach) (c : Clock) (n : Nat) (i : Instr) : (m.schedule c n i).dies = m.dies := rfl
@[simp] theorem Mach.schedule_vds (m : Mach) (c : Clock) (n : Nat) (i : Instr) : (m.schedule c n i).vds = m.vds := rfl
@[simp] theorem Mach.schedule_jobs (m : Mach) (c : Clock) (n : Nat) (i : Instr) : (m.schedule c n i).jobs = m.jobs := rfl
@[simp] theorem Mach.schedule_gangs (m : Mach) (c : Clock) (n : Nat) (i : Instr) : (m.schedule c n i).gangs = m.gangs := rfl
@[simp] theorem Mach.schedule_dev (m : Mach) (c : Clock) (n : Nat) (i : Instr) : (m.schedule c n i).dev = m.dev := rfl
@[simp] theorem Mach.schedule_host (m : Mach) (c : Clock) (n : Nat) (i : Instr) : (m.schedule c n i).host = m.host := rfl
@[simp] theorem Mach.schedule_mgmt (m : Mach) (c : Clock) (n : Nat) (i : Instr) : (m.schedule c n i).mgmt = m.mgmt := rfl
@[simp] theorem Mach.schedule_queue (m : Mach) (c : Clock) (n : Nat) (i : Instr) : (m.schedule c n i).queue = m.queue := rfl
@[simp] theorem Mach.schedule_replies (m : Mach) (c : Clock) (n : Nat) (i : Instr) : (m.schedule c n i).replies = m.replies := rfl
@[simp] theorem Mach.schedule_copies (m : Mach) (c : Clock) (n : Nat) (i : Instr) : (m.schedule c n i).copies = m.copies := rfl
@[simp] theorem Mach.schedule_early (m : Mach) (c : Clock) (n : Nat) (i : Instr) : (m.schedule c n i).early = m.early := rfl
@[simp] theorem Mach.schedule_released (m : Mach) (c : Clock) (n : Nat) (i : Instr) : (m.schedule c n i).released = m.released := rfl
@[simp] theorem Mach.schedule_heard (m : Mach) (c : Clock) (n : Nat) (i : Instr) : (m.schedule c n i).heard = m.heard := rfl
@[simp] theorem Mach.schedule_fenced (m : Mach) (c : Clock) (n : Nat) (i : Instr) : (m.schedule c n i).fenced = m.fenced := rfl
@[simp] theorem Mach.schedule_cmds (m : Mach) (c : Clock) (n : Nat) (i : Instr) : (m.schedule c n i).cmds = m.cmds := rfl
@[simp] theorem Mach.schedule_polls (m : Mach) (c : Clock) (n : Nat) (i : Instr) : (m.schedule c n i).polls = m.polls := rfl
@[simp] theorem Mach.schedule_inputs (m : Mach) (c : Clock) (n : Nat) (i : Instr) : (m.schedule c n i).inputs = m.inputs := rfl
@[simp] theorem Mach.schedule_strikes (m : Mach) (c : Clock) (n : Nat) (i : Instr) : (m.schedule c n i).strikes = m.strikes := rfl
@[simp] theorem Mach.schedule_hits (m : Mach) (c : Clock) (n : Nat) (i : Instr) : (m.schedule c n i).hits = m.hits := rfl
@[simp] theorem Mach.schedule_todo (m : Mach) (c : Clock) (n : Nat) (i : Instr) : (m.schedule c n i).todo = m.todo := rfl
@[simp] theorem Mach.schedule_ltodo (m : Mach) (c : Clock) (n : Nat) (i : Instr) : (m.schedule c n i).ltodo = m.ltodo := rfl
@[simp] theorem Mach.schedule_faulty (m : Mach) (c : Clock) (n : Nat) (i : Instr) : (m.schedule c n i).faulty = m.faulty := rfl
@[simp] theorem Mach.schedule_links (m : Mach) (c : Clock) (n : Nat) (i : Instr) : (m.schedule c n i).links = m.links := rfl
@[simp] theorem Mach.schedule_bad (m : Mach) (c : Clock) (n : Nat) (i : Instr) : (m.schedule c n i).bad = m.bad := rfl
@[simp] theorem Mach.schedule_io (m : Mach) (c : Clock) (n : Nat) (i : Instr) : (m.schedule c n i).io = m.io := rfl
@[simp] theorem Mach.schedule_away (m : Mach) (c : Clock) (n : Nat) (i : Instr) : (m.schedule c n i).away = m.away := rfl
@[simp] theorem Mach.schedule_touched (m : Mach) (c : Clock) (n : Nat) (i : Instr) : (m.schedule c n i).touched = m.touched := rfl
@[simp] theorem Mach.schedule_freeCtr (m : Mach) (c : Clock) (n : Nat) (i : Instr) : (m.schedule c n i).freeCtr = m.freeCtr := rfl
@[simp] theorem Mach.schedule_nextId (m : Mach) (c : Clock) (n : Nat) (i : Instr) : (m.schedule c n i).nextId = m.nextId := rfl

@[simp] theorem Mach.scheduleDrawn_time (m : Mach) (k : Nat) (i : Instr) : (m.scheduleDrawn k i).time = m.time := rfl
@[simp] theorem Mach.scheduleDrawn_dies (m : Mach) (k : Nat) (i : Instr) : (m.scheduleDrawn k i).dies = m.dies := rfl
@[simp] theorem Mach.scheduleDrawn_vds (m : Mach) (k : Nat) (i : Instr) : (m.scheduleDrawn k i).vds = m.vds := rfl
@[simp] theorem Mach.scheduleDrawn_jobs (m : Mach) (k : Nat) (i : Instr) : (m.scheduleDrawn k i).jobs = m.jobs := rfl
@[simp] theorem Mach.scheduleDrawn_gangs (m : Mach) (k : Nat) (i : Instr) : (m.scheduleDrawn k i).gangs = m.gangs := rfl
@[simp] theorem Mach.scheduleDrawn_dev (m : Mach) (k : Nat) (i : Instr) : (m.scheduleDrawn k i).dev = m.dev := rfl
@[simp] theorem Mach.scheduleDrawn_host (m : Mach) (k : Nat) (i : Instr) : (m.scheduleDrawn k i).host = m.host := rfl
@[simp] theorem Mach.scheduleDrawn_mgmt (m : Mach) (k : Nat) (i : Instr) : (m.scheduleDrawn k i).mgmt = m.mgmt := rfl
@[simp] theorem Mach.scheduleDrawn_queue (m : Mach) (k : Nat) (i : Instr) : (m.scheduleDrawn k i).queue = m.queue := rfl
@[simp] theorem Mach.scheduleDrawn_replies (m : Mach) (k : Nat) (i : Instr) : (m.scheduleDrawn k i).replies = m.replies := rfl
@[simp] theorem Mach.scheduleDrawn_copies (m : Mach) (k : Nat) (i : Instr) : (m.scheduleDrawn k i).copies = m.copies := rfl
@[simp] theorem Mach.scheduleDrawn_early (m : Mach) (k : Nat) (i : Instr) : (m.scheduleDrawn k i).early = m.early := rfl
@[simp] theorem Mach.scheduleDrawn_released (m : Mach) (k : Nat) (i : Instr) : (m.scheduleDrawn k i).released = m.released := rfl
@[simp] theorem Mach.scheduleDrawn_heard (m : Mach) (k : Nat) (i : Instr) : (m.scheduleDrawn k i).heard = m.heard := rfl
@[simp] theorem Mach.scheduleDrawn_fenced (m : Mach) (k : Nat) (i : Instr) : (m.scheduleDrawn k i).fenced = m.fenced := rfl
@[simp] theorem Mach.scheduleDrawn_cmds (m : Mach) (k : Nat) (i : Instr) : (m.scheduleDrawn k i).cmds = m.cmds := rfl
@[simp] theorem Mach.scheduleDrawn_polls (m : Mach) (k : Nat) (i : Instr) : (m.scheduleDrawn k i).polls = m.polls := rfl
@[simp] theorem Mach.scheduleDrawn_inputs (m : Mach) (k : Nat) (i : Instr) : (m.scheduleDrawn k i).inputs = m.inputs := rfl
@[simp] theorem Mach.scheduleDrawn_strikes (m : Mach) (k : Nat) (i : Instr) : (m.scheduleDrawn k i).strikes = m.strikes := rfl
@[simp] theorem Mach.scheduleDrawn_hits (m : Mach) (k : Nat) (i : Instr) : (m.scheduleDrawn k i).hits = m.hits := rfl
@[simp] theorem Mach.scheduleDrawn_todo (m : Mach) (k : Nat) (i : Instr) : (m.scheduleDrawn k i).todo = m.todo := rfl
@[simp] theorem Mach.scheduleDrawn_ltodo (m : Mach) (k : Nat) (i : Instr) : (m.scheduleDrawn k i).ltodo = m.ltodo := rfl
@[simp] theorem Mach.scheduleDrawn_faulty (m : Mach) (k : Nat) (i : Instr) : (m.scheduleDrawn k i).faulty = m.faulty := rfl
@[simp] theorem Mach.scheduleDrawn_links (m : Mach) (k : Nat) (i : Instr) : (m.scheduleDrawn k i).links = m.links := rfl
@[simp] theorem Mach.scheduleDrawn_bad (m : Mach) (k : Nat) (i : Instr) : (m.scheduleDrawn k i).bad = m.bad := rfl
@[simp] theorem Mach.scheduleDrawn_io (m : Mach) (k : Nat) (i : Instr) : (m.scheduleDrawn k i).io = m.io := rfl
@[simp] theorem Mach.scheduleDrawn_away (m : Mach) (k : Nat) (i : Instr) : (m.scheduleDrawn k i).away = m.away := rfl
@[simp] theorem Mach.scheduleDrawn_touched (m : Mach) (k : Nat) (i : Instr) : (m.scheduleDrawn k i).touched = m.touched := rfl
@[simp] theorem Mach.scheduleDrawn_freeCtr (m : Mach) (k : Nat) (i : Instr) : (m.scheduleDrawn k i).freeCtr = m.freeCtr := rfl
@[simp] theorem Mach.scheduleDrawn_nextId (m : Mach) (k : Nat) (i : Instr) : (m.scheduleDrawn k i).nextId = m.nextId := rfl

@[simp] theorem Mach.unschedule_time (m : Mach) (i : Instr) : (m.unschedule i).time = m.time := rfl
@[simp] theorem Mach.unschedule_dies (m : Mach) (i : Instr) : (m.unschedule i).dies = m.dies := rfl
@[simp] theorem Mach.unschedule_vds (m : Mach) (i : Instr) : (m.unschedule i).vds = m.vds := rfl
@[simp] theorem Mach.unschedule_jobs (m : Mach) (i : Instr) : (m.unschedule i).jobs = m.jobs := rfl
@[simp] theorem Mach.unschedule_gangs (m : Mach) (i : Instr) : (m.unschedule i).gangs = m.gangs := rfl
@[simp] theorem Mach.unschedule_dev (m : Mach) (i : Instr) : (m.unschedule i).dev = m.dev := rfl
@[simp] theorem Mach.unschedule_host (m : Mach) (i : Instr) : (m.unschedule i).host = m.host := rfl
@[simp] theorem Mach.unschedule_mgmt (m : Mach) (i : Instr) : (m.unschedule i).mgmt = m.mgmt := rfl
@[simp] theorem Mach.unschedule_queue (m : Mach) (i : Instr) : (m.unschedule i).queue = m.queue := rfl
@[simp] theorem Mach.unschedule_replies (m : Mach) (i : Instr) : (m.unschedule i).replies = m.replies := rfl
@[simp] theorem Mach.unschedule_copies (m : Mach) (i : Instr) : (m.unschedule i).copies = m.copies := rfl
@[simp] theorem Mach.unschedule_early (m : Mach) (i : Instr) : (m.unschedule i).early = m.early := rfl
@[simp] theorem Mach.unschedule_released (m : Mach) (i : Instr) : (m.unschedule i).released = m.released := rfl
@[simp] theorem Mach.unschedule_heard (m : Mach) (i : Instr) : (m.unschedule i).heard = m.heard := rfl
@[simp] theorem Mach.unschedule_fenced (m : Mach) (i : Instr) : (m.unschedule i).fenced = m.fenced := rfl
@[simp] theorem Mach.unschedule_cmds (m : Mach) (i : Instr) : (m.unschedule i).cmds = m.cmds := rfl
@[simp] theorem Mach.unschedule_polls (m : Mach) (i : Instr) : (m.unschedule i).polls = m.polls := rfl
@[simp] theorem Mach.unschedule_inputs (m : Mach) (i : Instr) : (m.unschedule i).inputs = m.inputs := rfl
@[simp] theorem Mach.unschedule_strikes (m : Mach) (i : Instr) : (m.unschedule i).strikes = m.strikes := rfl
@[simp] theorem Mach.unschedule_hits (m : Mach) (i : Instr) : (m.unschedule i).hits = m.hits := rfl
@[simp] theorem Mach.unschedule_todo (m : Mach) (i : Instr) : (m.unschedule i).todo = m.todo := rfl
@[simp] theorem Mach.unschedule_ltodo (m : Mach) (i : Instr) : (m.unschedule i).ltodo = m.ltodo := rfl
@[simp] theorem Mach.unschedule_faulty (m : Mach) (i : Instr) : (m.unschedule i).faulty = m.faulty := rfl
@[simp] theorem Mach.unschedule_links (m : Mach) (i : Instr) : (m.unschedule i).links = m.links := rfl
@[simp] theorem Mach.unschedule_bad (m : Mach) (i : Instr) : (m.unschedule i).bad = m.bad := rfl
@[simp] theorem Mach.unschedule_io (m : Mach) (i : Instr) : (m.unschedule i).io = m.io := rfl
@[simp] theorem Mach.unschedule_away (m : Mach) (i : Instr) : (m.unschedule i).away = m.away := rfl
@[simp] theorem Mach.unschedule_touched (m : Mach) (i : Instr) : (m.unschedule i).touched = m.touched := rfl
@[simp] theorem Mach.unschedule_freeCtr (m : Mach) (i : Instr) : (m.unschedule i).freeCtr = m.freeCtr := rfl
@[simp] theorem Mach.unschedule_nextId (m : Mach) (i : Instr) : (m.unschedule i).nextId = m.nextId := rfl

@[simp] theorem Mach.notify_time (m : Mach) (n : Notice) : (m.notify n).time = m.time := rfl
@[simp] theorem Mach.notify_dies (m : Mach) (n : Notice) : (m.notify n).dies = m.dies := rfl
@[simp] theorem Mach.notify_vds (m : Mach) (n : Notice) : (m.notify n).vds = m.vds := rfl
@[simp] theorem Mach.notify_jobs (m : Mach) (n : Notice) : (m.notify n).jobs = m.jobs := rfl
@[simp] theorem Mach.notify_gangs (m : Mach) (n : Notice) : (m.notify n).gangs = m.gangs := rfl
@[simp] theorem Mach.notify_dev (m : Mach) (n : Notice) : (m.notify n).dev = m.dev := rfl
@[simp] theorem Mach.notify_host (m : Mach) (n : Notice) : (m.notify n).host = m.host := rfl
@[simp] theorem Mach.notify_queue (m : Mach) (n : Notice) : (m.notify n).queue = m.queue := rfl
@[simp] theorem Mach.notify_replies (m : Mach) (n : Notice) : (m.notify n).replies = m.replies := rfl
@[simp] theorem Mach.notify_copies (m : Mach) (n : Notice) : (m.notify n).copies = m.copies := rfl
@[simp] theorem Mach.notify_early (m : Mach) (n : Notice) : (m.notify n).early = m.early := rfl
@[simp] theorem Mach.notify_released (m : Mach) (n : Notice) : (m.notify n).released = m.released := rfl
@[simp] theorem Mach.notify_heard (m : Mach) (n : Notice) : (m.notify n).heard = m.heard := rfl
@[simp] theorem Mach.notify_fenced (m : Mach) (n : Notice) : (m.notify n).fenced = m.fenced := rfl
@[simp] theorem Mach.notify_cmds (m : Mach) (n : Notice) : (m.notify n).cmds = m.cmds := rfl
@[simp] theorem Mach.notify_agenda (m : Mach) (n : Notice) : (m.notify n).agenda = m.agenda := rfl
@[simp] theorem Mach.notify_polls (m : Mach) (n : Notice) : (m.notify n).polls = m.polls := rfl
@[simp] theorem Mach.notify_inputs (m : Mach) (n : Notice) : (m.notify n).inputs = m.inputs := rfl
@[simp] theorem Mach.notify_strikes (m : Mach) (n : Notice) : (m.notify n).strikes = m.strikes := rfl
@[simp] theorem Mach.notify_hits (m : Mach) (n : Notice) : (m.notify n).hits = m.hits := rfl
@[simp] theorem Mach.notify_todo (m : Mach) (n : Notice) : (m.notify n).todo = m.todo := rfl
@[simp] theorem Mach.notify_ltodo (m : Mach) (n : Notice) : (m.notify n).ltodo = m.ltodo := rfl
@[simp] theorem Mach.notify_faulty (m : Mach) (n : Notice) : (m.notify n).faulty = m.faulty := rfl
@[simp] theorem Mach.notify_links (m : Mach) (n : Notice) : (m.notify n).links = m.links := rfl
@[simp] theorem Mach.notify_bad (m : Mach) (n : Notice) : (m.notify n).bad = m.bad := rfl
@[simp] theorem Mach.notify_io (m : Mach) (n : Notice) : (m.notify n).io = m.io := rfl
@[simp] theorem Mach.notify_away (m : Mach) (n : Notice) : (m.notify n).away = m.away := rfl
@[simp] theorem Mach.notify_touched (m : Mach) (n : Notice) : (m.notify n).touched = m.touched := rfl
@[simp] theorem Mach.notify_freeCtr (m : Mach) (n : Notice) : (m.notify n).freeCtr = m.freeCtr := rfl
@[simp] theorem Mach.notify_nextId (m : Mach) (n : Notice) : (m.notify n).nextId = m.nextId := rfl

@[simp] theorem Mach.fresh_time (m : Mach) : m.fresh.time = m.time := rfl
@[simp] theorem Mach.fresh_dies (m : Mach) : m.fresh.dies = m.dies := rfl
@[simp] theorem Mach.fresh_vds (m : Mach) : m.fresh.vds = m.vds := rfl
@[simp] theorem Mach.fresh_jobs (m : Mach) : m.fresh.jobs = m.jobs := rfl
@[simp] theorem Mach.fresh_gangs (m : Mach) : m.fresh.gangs = m.gangs := rfl
@[simp] theorem Mach.fresh_dev (m : Mach) : m.fresh.dev = m.dev := rfl
@[simp] theorem Mach.fresh_host (m : Mach) : m.fresh.host = m.host := rfl
@[simp] theorem Mach.fresh_mgmt (m : Mach) : m.fresh.mgmt = m.mgmt := rfl
@[simp] theorem Mach.fresh_queue (m : Mach) : m.fresh.queue = m.queue := rfl
@[simp] theorem Mach.fresh_replies (m : Mach) : m.fresh.replies = m.replies := rfl
@[simp] theorem Mach.fresh_copies (m : Mach) : m.fresh.copies = m.copies := rfl
@[simp] theorem Mach.fresh_early (m : Mach) : m.fresh.early = m.early := rfl
@[simp] theorem Mach.fresh_released (m : Mach) : m.fresh.released = m.released := rfl
@[simp] theorem Mach.fresh_heard (m : Mach) : m.fresh.heard = m.heard := rfl
@[simp] theorem Mach.fresh_fenced (m : Mach) : m.fresh.fenced = m.fenced := rfl
@[simp] theorem Mach.fresh_cmds (m : Mach) : m.fresh.cmds = m.cmds := rfl
@[simp] theorem Mach.fresh_agenda (m : Mach) : m.fresh.agenda = m.agenda := rfl
@[simp] theorem Mach.fresh_polls (m : Mach) : m.fresh.polls = m.polls := rfl
@[simp] theorem Mach.fresh_inputs (m : Mach) : m.fresh.inputs = m.inputs := rfl
@[simp] theorem Mach.fresh_strikes (m : Mach) : m.fresh.strikes = m.strikes := rfl
@[simp] theorem Mach.fresh_hits (m : Mach) : m.fresh.hits = m.hits := rfl
@[simp] theorem Mach.fresh_todo (m : Mach) : m.fresh.todo = m.todo := rfl
@[simp] theorem Mach.fresh_ltodo (m : Mach) : m.fresh.ltodo = m.ltodo := rfl
@[simp] theorem Mach.fresh_faulty (m : Mach) : m.fresh.faulty = m.faulty := rfl
@[simp] theorem Mach.fresh_links (m : Mach) : m.fresh.links = m.links := rfl
@[simp] theorem Mach.fresh_bad (m : Mach) : m.fresh.bad = m.bad := rfl
@[simp] theorem Mach.fresh_io (m : Mach) : m.fresh.io = m.io := rfl
@[simp] theorem Mach.fresh_away (m : Mach) : m.fresh.away = m.away := rfl
@[simp] theorem Mach.fresh_touched (m : Mach) : m.fresh.touched = m.touched := rfl
@[simp] theorem Mach.fresh_nextId (m : Mach) : m.fresh.nextId = m.nextId := rfl

@[simp] theorem Mach.updSeq_time (m : Mach) (a : Agent) (f : Seq → Seq) : (m.updSeq a f).time = m.time := by cases a <;> rfl
@[simp] theorem Mach.updSeq_vds (m : Mach) (a : Agent) (f : Seq → Seq) : (m.updSeq a f).vds = m.vds := by cases a <;> rfl
@[simp] theorem Mach.updSeq_jobs (m : Mach) (a : Agent) (f : Seq → Seq) : (m.updSeq a f).jobs = m.jobs := by cases a <;> rfl
@[simp] theorem Mach.updSeq_dev (m : Mach) (a : Agent) (f : Seq → Seq) : (m.updSeq a f).dev = m.dev := by cases a <;> rfl
@[simp] theorem Mach.updSeq_host (m : Mach) (a : Agent) (f : Seq → Seq) : (m.updSeq a f).host = m.host := by cases a <;> rfl
@[simp] theorem Mach.updSeq_mgmt (m : Mach) (a : Agent) (f : Seq → Seq) : (m.updSeq a f).mgmt = m.mgmt := by cases a <;> rfl
@[simp] theorem Mach.updSeq_queue (m : Mach) (a : Agent) (f : Seq → Seq) : (m.updSeq a f).queue = m.queue := by cases a <;> rfl
@[simp] theorem Mach.updSeq_replies (m : Mach) (a : Agent) (f : Seq → Seq) : (m.updSeq a f).replies = m.replies := by cases a <;> rfl
@[simp] theorem Mach.updSeq_copies (m : Mach) (a : Agent) (f : Seq → Seq) : (m.updSeq a f).copies = m.copies := by cases a <;> rfl
@[simp] theorem Mach.updSeq_early (m : Mach) (a : Agent) (f : Seq → Seq) : (m.updSeq a f).early = m.early := by cases a <;> rfl
@[simp] theorem Mach.updSeq_released (m : Mach) (a : Agent) (f : Seq → Seq) : (m.updSeq a f).released = m.released := by cases a <;> rfl
@[simp] theorem Mach.updSeq_heard (m : Mach) (a : Agent) (f : Seq → Seq) : (m.updSeq a f).heard = m.heard := by cases a <;> rfl
@[simp] theorem Mach.updSeq_fenced (m : Mach) (a : Agent) (f : Seq → Seq) : (m.updSeq a f).fenced = m.fenced := by cases a <;> rfl
@[simp] theorem Mach.updSeq_cmds (m : Mach) (a : Agent) (f : Seq → Seq) : (m.updSeq a f).cmds = m.cmds := by cases a <;> rfl
@[simp] theorem Mach.updSeq_agenda (m : Mach) (a : Agent) (f : Seq → Seq) : (m.updSeq a f).agenda = m.agenda := by cases a <;> rfl
@[simp] theorem Mach.updSeq_polls (m : Mach) (a : Agent) (f : Seq → Seq) : (m.updSeq a f).polls = m.polls := by cases a <;> rfl
@[simp] theorem Mach.updSeq_inputs (m : Mach) (a : Agent) (f : Seq → Seq) : (m.updSeq a f).inputs = m.inputs := by cases a <;> rfl
@[simp] theorem Mach.updSeq_strikes (m : Mach) (a : Agent) (f : Seq → Seq) : (m.updSeq a f).strikes = m.strikes := by cases a <;> rfl
@[simp] theorem Mach.updSeq_hits (m : Mach) (a : Agent) (f : Seq → Seq) : (m.updSeq a f).hits = m.hits := by cases a <;> rfl
@[simp] theorem Mach.updSeq_todo (m : Mach) (a : Agent) (f : Seq → Seq) : (m.updSeq a f).todo = m.todo := by cases a <;> rfl
@[simp] theorem Mach.updSeq_ltodo (m : Mach) (a : Agent) (f : Seq → Seq) : (m.updSeq a f).ltodo = m.ltodo := by cases a <;> rfl
@[simp] theorem Mach.updSeq_faulty (m : Mach) (a : Agent) (f : Seq → Seq) : (m.updSeq a f).faulty = m.faulty := by cases a <;> rfl
@[simp] theorem Mach.updSeq_links (m : Mach) (a : Agent) (f : Seq → Seq) : (m.updSeq a f).links = m.links := by cases a <;> rfl
@[simp] theorem Mach.updSeq_bad (m : Mach) (a : Agent) (f : Seq → Seq) : (m.updSeq a f).bad = m.bad := by cases a <;> rfl
@[simp] theorem Mach.updSeq_io (m : Mach) (a : Agent) (f : Seq → Seq) : (m.updSeq a f).io = m.io := by cases a <;> rfl
@[simp] theorem Mach.updSeq_away (m : Mach) (a : Agent) (f : Seq → Seq) : (m.updSeq a f).away = m.away := by cases a <;> rfl
@[simp] theorem Mach.updSeq_touched (m : Mach) (a : Agent) (f : Seq → Seq) : (m.updSeq a f).touched = m.touched := by cases a <;> rfl
@[simp] theorem Mach.updSeq_freeCtr (m : Mach) (a : Agent) (f : Seq → Seq) : (m.updSeq a f).freeCtr = m.freeCtr := by cases a <;> rfl
@[simp] theorem Mach.updSeq_nextId (m : Mach) (a : Agent) (f : Seq → Seq) : (m.updSeq a f).nextId = m.nextId := by cases a <;> rfl

@[simp] theorem Mach.updGang_gangs (m : Mach) (g : Nat) (f : Gang → Gang) : (m.updGang g f).gangs = tupd m.gangs g f := rfl
@[simp] theorem Mach.updJob_jobs (m : Mach) (j : Nat) (f : Job → Job) : (m.updJob j f).jobs = tupd m.jobs j f := rfl
@[simp] theorem Mach.updVd_vds (m : Mach) (v : Nat) (f : VDev → VDev) : (m.updVd v f).vds = tupd m.vds v f := rfl
@[simp] theorem Mach.updCmd_cmds (m : Mach) (k : Nat) (f : Cmd → Cmd) : (m.updCmd k f).cmds = tupd m.cmds k f := rfl
@[simp] theorem Mach.schedule_agenda (m : Mach) (c : Clock) (n : Nat) (i : Instr) : (m.schedule c n i).agenda = m.agenda ++ [⟨c, n, i⟩] := rfl
@[simp] theorem Mach.scheduleDrawn_agenda (m : Mach) (k : Nat) (i : Instr) :
    (m.scheduleDrawn k i).agenda = m.agenda ++ [⟨.mc, m.time + m.draw k, i⟩] := rfl
@[simp] theorem Mach.notify_notices (m : Mach) (n : Notice) : (m.notify n).mgmt.notices = m.mgmt.notices ++ [n] := rfl
@[simp] theorem Mach.fresh_freeCtr (m : Mach) : m.fresh.freeCtr = m.freeCtr + 1 := rfl

/-! ## Who is there after an update -/

@[simp] theorem Mach.gang?_updGang_self (m : Mach) (g : Nat) (f : Gang → Gang) : (m.updGang g f).gang? g = (m.gang? g).map f :=
  tget_tupd_self m.gangs g f
theorem Mach.gang?_updGang_ne (m : Mach) (g h : Nat) (f : Gang → Gang) (hn : h ≠ g) : (m.updGang g f).gang? h = m.gang? h :=
  tget_tupd_ne m.gangs g h f hn
@[simp] theorem Mach.job?_updGang (m : Mach) (g j : Nat) (f : Gang → Gang) : (m.updGang g f).job? j = m.job? j := rfl
@[simp] theorem Mach.job?_updCore (m : Mach) (g r j : Nat) (f : Core → Core) : (m.updCore g r f).job? j = m.job? j := rfl
@[simp] theorem Mach.vd?_updGang (m : Mach) (g v : Nat) (f : Gang → Gang) : (m.updGang g f).vd? v = m.vd? v := rfl
@[simp] theorem Mach.vd?_updCore (m : Mach) (g r v : Nat) (f : Core → Core) : (m.updCore g r f).vd? v = m.vd? v := rfl
@[simp] theorem Mach.loupe?_updCore (m : Mach) (g r d i : Nat) (f : Core → Core) : (m.updCore g r f).loupe? d i = m.loupe? d i := rfl
@[simp] theorem Mach.ctx?_updCore (m : Mach) (g r d i c : Nat) (f : Core → Core) : (m.updCore g r f).ctx? d i c = m.ctx? d i c := rfl
@[simp] theorem Mach.cluster?_updCore (m : Mach) (g r d k : Nat) (f : Core → Core) : (m.updCore g r f).cluster? d k = m.cluster? d k := rfl
@[simp] theorem Mach.gang?_updCtx (m : Mach) (d i c g : Nat) (f : LoupeCtx → LoupeCtx) : (m.updCtx d i c f).gang? g = m.gang? g := rfl
@[simp] theorem Mach.core?_updCtx (m : Mach) (d i c g r : Nat) (f : LoupeCtx → LoupeCtx) : (m.updCtx d i c f).core? g r = m.core? g r := rfl
@[simp] theorem Mach.job?_updJob_self (m : Mach) (j : Nat) (f : Job → Job) : (m.updJob j f).job? j = (m.job? j).map f :=
  tget_tupd_self m.jobs j f
@[simp] theorem Mach.vd?_updVd_self (m : Mach) (v : Nat) (f : VDev → VDev) : (m.updVd v f).vd? v = (m.vd? v).map f :=
  tget_tupd_self m.vds v f

/-- A core after an update of it. -/
@[simp] theorem Mach.core?_updCore_self (m : Mach) (g r : Nat) (f : Core → Core) :
    (m.updCore g r f).core? g r = (m.core? g r).map f := by
  simp only [Mach.core?, Mach.updCore, Mach.gang?_updGang_self]
  cases m.gang? g with
  | none => rfl
  | some x => simp [Gang.updCore]

/-- Another core of the same gang. -/
theorem Mach.core?_updCore_rank (m : Mach) (g r k : Nat) (f : Core → Core) (hn : k ≠ r) :
    (m.updCore g r f).core? g k = m.core? g k := by
  simp only [Mach.core?, Mach.updCore, Mach.gang?_updGang_self]
  cases m.gang? g with
  | none => rfl
  | some x => simp [Gang.updCore, Ne.symm hn]

/-- A core of another gang. -/
theorem Mach.core?_updCore_gang (m : Mach) (g h r k : Nat) (f : Core → Core) (hn : h ≠ g) :
    (m.updCore g r f).core? h k = m.core? h k := by
  simp only [Mach.core?, Mach.updCore, Mach.gang?_updGang_ne m g h _ hn]

/-- What an update of a core leaves of its gang. -/
theorem Mach.gang?_updCore_self (m : Mach) (g r : Nat) (f : Core → Core) :
    (m.updCore g r f).gang? g = (m.gang? g).map (fun x => x.updCore r f) := Mach.gang?_updGang_self m g _

/-- Two updates of one core are one. -/
theorem Mach.updCore_updCore (m : Mach) (g r : Nat) (f h : Core → Core) :
    (m.updCore g r f).updCore g r h = m.updCore g r (fun c => h (f c)) := by
  simp only [Mach.updCore, Mach.updGang, tupd_tupd]
  congr 1
  congr 1
  funext x
  simp [Gang.updCore, List.modify_modify_eq, Function.comp_def]

/-! ## The scalar side -/

@[simp] theorem Seq.updRegs_sreg (q : Seq) (st : Stream) (f : StreamRegs → StreamRegs) : (q.updRegs st f).sreg = q.sreg := rfl
@[simp] theorem Seq.updRegs_preg (q : Seq) (st : Stream) (f : StreamRegs → StreamRegs) : (q.updRegs st f).preg = q.preg := rfl
@[simp] theorem Seq.updRegs_latch (q : Seq) (st : Stream) (f : StreamRegs → StreamRegs) : (q.updRegs st f).latch = q.latch := rfl
@[simp] theorem Seq.updRegs_pend (q : Seq) (st : Stream) (f : StreamRegs → StreamRegs) : (q.updRegs st f).pend = q.pend := rfl
@[simp] theorem Seq.updRegs_code (q : Seq) (st : Stream) (f : StreamRegs → StreamRegs) : (q.updRegs st f).code = q.code := rfl
@[simp] theorem Seq.updRegs_guards (q : Seq) (st : Stream) (f : StreamRegs → StreamRegs) : (q.updRegs st f).guards = q.guards := rfl

theorem stream_idx_lt (st : Stream) : st.idx < 4 := by cases st <;> decide

@[simp] theorem Seq.regs_updRegs_self (q : Seq) (st : Stream) (f : StreamRegs → StreamRegs) : (q.updRegs st f).regs st = f (q.regs st) := by
  simp [Seq.regs, Seq.updRegs, vget_vupd_self _ _ _ _ (stream_idx_lt st)]

theorem Seq.regs_updRegs_ne (q : Seq) (st k : Stream) (f : StreamRegs → StreamRegs) (hn : k.idx ≠ st.idx) :
    (q.updRegs st f).regs k = q.regs k := by
  simp [Seq.regs, Seq.updRegs, vget_vupd_ne _ _ _ _ _ hn]

theorem Seq.updRegs_updRegs (q : Seq) (st : Stream) (f h : StreamRegs → StreamRegs) :
    (q.updRegs st f).updRegs st h = q.updRegs st (fun r => h (f r)) := by
  simp [Seq.updRegs, vupd_vupd]

/-- s0 reads 0 whatever is written to it (R20). -/
@[simp] theorem Seq.phys_zero (q : Seq) : q.phys 0 = 0 := rfl
@[simp] theorem Seq.setS_zero (q : Seq) (v : Word) : q.setS 0 v = q := rfl
/-- p0 reads 1 and discards writes (R20). -/
@[simp] theorem Seq.readP_zero (q : Seq) : q.readP 0 = true := rfl
@[simp] theorem Seq.setP_zero (q : Seq) (v : Bool) : q.setP 0 v = q := rfl

theorem Seq.phys_setS_self (q : Seq) (n : Nat) (v : Word) (h0 : n ≠ 0) (hn : n < 56) : (q.setS n v).phys n = v := by
  simp [Seq.phys, Seq.setS, h0, vget_vset_self _ _ _ _ hn]

theorem Seq.phys_setS_ne (q : Seq) (n k : Nat) (v : Word) (hk : k ≠ n) : (q.setS n v).phys k = q.phys k := by
  unfold Seq.setS
  split
  · rfl
  · simp [Seq.phys, vget_vset_ne _ _ _ _ _ hk]

@[simp] theorem Seq.setS_preg (q : Seq) (n : Nat) (v : Word) : (q.setS n v).preg = q.preg := by unfold Seq.setS; split <;> rfl
@[simp] theorem Seq.setS_latch (q : Seq) (n : Nat) (v : Word) : (q.setS n v).latch = q.latch := by unfold Seq.setS; split <;> rfl
@[simp] theorem Seq.setS_strm (q : Seq) (n : Nat) (v : Word) : (q.setS n v).strm = q.strm := by unfold Seq.setS; split <;> rfl
@[simp] theorem Seq.setS_pend (q : Seq) (n : Nat) (v : Word) : (q.setS n v).pend = q.pend := by unfold Seq.setS; split <;> rfl
@[simp] theorem Seq.setP_sreg (q : Seq) (n : Nat) (v : Bool) : (q.setP n v).sreg = q.sreg := by unfold Seq.setP; split <;> rfl
@[simp] theorem Seq.setP_latch (q : Seq) (n : Nat) (v : Bool) : (q.setP n v).latch = q.latch := by unfold Seq.setP; split <;> rfl
@[simp] theorem Seq.setP_strm (q : Seq) (n : Nat) (v : Bool) : (q.setP n v).strm = q.strm := by unfold Seq.setP; split <;> rfl
@[simp] theorem Seq.setP_pend (q : Seq) (n : Nat) (v : Bool) : (q.setP n v).pend = q.pend := by unfold Seq.setP; split <;> rfl

/-! ## The state around a word -/

@[simp] theorem State.updSeq_iss (s : State) (f : Seq → Seq) : (s.updSeq f).iss = s.iss := rfl
@[simp] theorem State.updSeq_cur (s : State) (f : Seq → Seq) : (s.updSeq f).cur = s.cur := rfl
@[simp] theorem State.updSeq_time (s : State) (f : Seq → Seq) : (s.updSeq f).m.time = s.m.time := by simp [State.updSeq]
@[simp] theorem State.updSeq_vds (s : State) (f : Seq → Seq) : (s.updSeq f).m.vds = s.m.vds := by simp [State.updSeq]
@[simp] theorem State.updSeq_jobs (s : State) (f : Seq → Seq) : (s.updSeq f).m.jobs = s.m.jobs := by simp [State.updSeq]
@[simp] theorem State.updSeq_dev (s : State) (f : Seq → Seq) : (s.updSeq f).m.dev = s.m.dev := by simp [State.updSeq]
@[simp] theorem State.updSeq_host (s : State) (f : Seq → Seq) : (s.updSeq f).m.host = s.m.host := by simp [State.updSeq]
@[simp] theorem State.updSeq_mgmt (s : State) (f : Seq → Seq) : (s.updSeq f).m.mgmt = s.m.mgmt := by simp [State.updSeq]
@[simp] theorem State.updSeq_queue (s : State) (f : Seq → Seq) : (s.updSeq f).m.queue = s.m.queue := by simp [State.updSeq]
@[simp] theorem State.updSeq_replies (s : State) (f : Seq → Seq) : (s.updSeq f).m.replies = s.m.replies := by simp [State.updSeq]
@[simp] theorem State.updSeq_copies (s : State) (f : Seq → Seq) : (s.updSeq f).m.copies = s.m.copies := by simp [State.updSeq]
@[simp] theorem State.updSeq_early (s : State) (f : Seq → Seq) : (s.updSeq f).m.early = s.m.early := by simp [State.updSeq]
@[simp] theorem State.updSeq_released (s : State) (f : Seq → Seq) : (s.updSeq f).m.released = s.m.released := by simp [State.updSeq]
@[simp] theorem State.updSeq_heard (s : State) (f : Seq → Seq) : (s.updSeq f).m.heard = s.m.heard := by simp [State.updSeq]
@[simp] theorem State.updSeq_fenced (s : State) (f : Seq → Seq) : (s.updSeq f).m.fenced = s.m.fenced := by simp [State.updSeq]
@[simp] theorem State.updSeq_cmds (s : State) (f : Seq → Seq) : (s.updSeq f).m.cmds = s.m.cmds := by simp [State.updSeq]
@[simp] theorem State.updSeq_agenda (s : State) (f : Seq → Seq) : (s.updSeq f).m.agenda = s.m.agenda := by simp [State.updSeq]
@[simp] theorem State.updSeq_polls (s : State) (f : Seq → Seq) : (s.updSeq f).m.polls = s.m.polls := by simp [State.updSeq]
@[simp] theorem State.updSeq_inputs (s : State) (f : Seq → Seq) : (s.updSeq f).m.inputs = s.m.inputs := by simp [State.updSeq]
@[simp] theorem State.updSeq_strikes (s : State) (f : Seq → Seq) : (s.updSeq f).m.strikes = s.m.strikes := by simp [State.updSeq]
@[simp] theorem State.updSeq_hits (s : State) (f : Seq → Seq) : (s.updSeq f).m.hits = s.m.hits := by simp [State.updSeq]
@[simp] theorem State.updSeq_todo (s : State) (f : Seq → Seq) : (s.updSeq f).m.todo = s.m.todo := by simp [State.updSeq]
@[simp] theorem State.updSeq_ltodo (s : State) (f : Seq → Seq) : (s.updSeq f).m.ltodo = s.m.ltodo := by simp [State.updSeq]
@[simp] theorem State.updSeq_faulty (s : State) (f : Seq → Seq) : (s.updSeq f).m.faulty = s.m.faulty := by simp [State.updSeq]
@[simp] theorem State.updSeq_links (s : State) (f : Seq → Seq) : (s.updSeq f).m.links = s.m.links := by simp [State.updSeq]
@[simp] theorem State.updSeq_bad (s : State) (f : Seq → Seq) : (s.updSeq f).m.bad = s.m.bad := by simp [State.updSeq]
@[simp] theorem State.updSeq_io (s : State) (f : Seq → Seq) : (s.updSeq f).m.io = s.m.io := by simp [State.updSeq]
@[simp] theorem State.updSeq_away (s : State) (f : Seq → Seq) : (s.updSeq f).m.away = s.m.away := by simp [State.updSeq]
@[simp] theorem State.updSeq_touched (s : State) (f : Seq → Seq) : (s.updSeq f).m.touched = s.m.touched := by simp [State.updSeq]
@[simp] theorem State.updSeq_freeCtr (s : State) (f : Seq → Seq) : (s.updSeq f).m.freeCtr = s.m.freeCtr := by simp [State.updSeq]
@[simp] theorem State.updSeq_nextId (s : State) (f : Seq → Seq) : (s.updSeq f).m.nextId = s.m.nextId := by simp [State.updSeq]
@[simp] theorem State.updRegs_iss (s : State) (f : StreamRegs → StreamRegs) : (s.updRegs f).iss = s.iss := rfl
@[simp] theorem State.updRegs_cur (s : State) (f : StreamRegs → StreamRegs) : (s.updRegs f).cur = s.cur := rfl
@[simp] theorem State.updRegs_time (s : State) (f : StreamRegs → StreamRegs) : (s.updRegs f).m.time = s.m.time := by simp [State.updRegs]
@[simp] theorem State.updRegs_vds (s : State) (f : StreamRegs → StreamRegs) : (s.updRegs f).m.vds = s.m.vds := by simp [State.updRegs]
@[simp] theorem State.updRegs_jobs (s : State) (f : StreamRegs → StreamRegs) : (s.updRegs f).m.jobs = s.m.jobs := by simp [State.updRegs]
@[simp] theorem State.updRegs_dev (s : State) (f : StreamRegs → StreamRegs) : (s.updRegs f).m.dev = s.m.dev := by simp [State.updRegs]
@[simp] theorem State.updRegs_host (s : State) (f : StreamRegs → StreamRegs) : (s.updRegs f).m.host = s.m.host := by simp [State.updRegs]
@[simp] theorem State.updRegs_mgmt (s : State) (f : StreamRegs → StreamRegs) : (s.updRegs f).m.mgmt = s.m.mgmt := by simp [State.updRegs]
@[simp] theorem State.updRegs_queue (s : State) (f : StreamRegs → StreamRegs) : (s.updRegs f).m.queue = s.m.queue := by simp [State.updRegs]
@[simp] theorem State.updRegs_replies (s : State) (f : StreamRegs → StreamRegs) : (s.updRegs f).m.replies = s.m.replies := by simp [State.updRegs]
@[simp] theorem State.updRegs_copies (s : State) (f : StreamRegs → StreamRegs) : (s.updRegs f).m.copies = s.m.copies := by simp [State.updRegs]
@[simp] theorem State.updRegs_early (s : State) (f : StreamRegs → StreamRegs) : (s.updRegs f).m.early = s.m.early := by simp [State.updRegs]
@[simp] theorem State.updRegs_released (s : State) (f : StreamRegs → StreamRegs) : (s.updRegs f).m.released = s.m.released := by simp [State.updRegs]
@[simp] theorem State.updRegs_heard (s : State) (f : StreamRegs → StreamRegs) : (s.updRegs f).m.heard = s.m.heard := by simp [State.updRegs]
@[simp] theorem State.updRegs_fenced (s : State) (f : StreamRegs → StreamRegs) : (s.updRegs f).m.fenced = s.m.fenced := by simp [State.updRegs]
@[simp] theorem State.updRegs_cmds (s : State) (f : StreamRegs → StreamRegs) : (s.updRegs f).m.cmds = s.m.cmds := by simp [State.updRegs]
@[simp] theorem State.updRegs_agenda (s : State) (f : StreamRegs → StreamRegs) : (s.updRegs f).m.agenda = s.m.agenda := by simp [State.updRegs]
@[simp] theorem State.updRegs_polls (s : State) (f : StreamRegs → StreamRegs) : (s.updRegs f).m.polls = s.m.polls := by simp [State.updRegs]
@[simp] theorem State.updRegs_inputs (s : State) (f : StreamRegs → StreamRegs) : (s.updRegs f).m.inputs = s.m.inputs := by simp [State.updRegs]
@[simp] theorem State.updRegs_strikes (s : State) (f : StreamRegs → StreamRegs) : (s.updRegs f).m.strikes = s.m.strikes := by simp [State.updRegs]
@[simp] theorem State.updRegs_hits (s : State) (f : StreamRegs → StreamRegs) : (s.updRegs f).m.hits = s.m.hits := by simp [State.updRegs]
@[simp] theorem State.updRegs_todo (s : State) (f : StreamRegs → StreamRegs) : (s.updRegs f).m.todo = s.m.todo := by simp [State.updRegs]
@[simp] theorem State.updRegs_ltodo (s : State) (f : StreamRegs → StreamRegs) : (s.updRegs f).m.ltodo = s.m.ltodo := by simp [State.updRegs]
@[simp] theorem State.updRegs_faulty (s : State) (f : StreamRegs → StreamRegs) : (s.updRegs f).m.faulty = s.m.faulty := by simp [State.updRegs]
@[simp] theorem State.updRegs_links (s : State) (f : StreamRegs → StreamRegs) : (s.updRegs f).m.links = s.m.links := by simp [State.updRegs]
@[simp] theorem State.updRegs_bad (s : State) (f : StreamRegs → StreamRegs) : (s.updRegs f).m.bad = s.m.bad := by simp [State.updRegs]
@[simp] theorem State.updRegs_io (s : State) (f : StreamRegs → StreamRegs) : (s.updRegs f).m.io = s.m.io := by simp [State.updRegs]
@[simp] theorem State.updRegs_away (s : State) (f : StreamRegs → StreamRegs) : (s.updRegs f).m.away = s.m.away := by simp [State.updRegs]
@[simp] theorem State.updRegs_touched (s : State) (f : StreamRegs → StreamRegs) : (s.updRegs f).m.touched = s.m.touched := by simp [State.updRegs]
@[simp] theorem State.updRegs_freeCtr (s : State) (f : StreamRegs → StreamRegs) : (s.updRegs f).m.freeCtr = s.m.freeCtr := by simp [State.updRegs]
@[simp] theorem State.updRegs_nextId (s : State) (f : StreamRegs → StreamRegs) : (s.updRegs f).m.nextId = s.m.nextId := by simp [State.updRegs]
@[simp] theorem State.updCore_iss (s : State) (f : Core → Core) : (s.updCore f).iss = s.iss := by unfold State.updCore; split <;> rfl
@[simp] theorem State.updCore_cur (s : State) (f : Core → Core) : (s.updCore f).cur = s.cur := by unfold State.updCore; split <;> rfl
@[simp] theorem State.updCore_time (s : State) (f : Core → Core) : (s.updCore f).m.time = s.m.time := by unfold State.updCore; split <;> rfl
@[simp] theorem State.updCore_vds (s : State) (f : Core → Core) : (s.updCore f).m.vds = s.m.vds := by unfold State.updCore; split <;> rfl
@[simp] theorem State.updCore_jobs (s : State) (f : Core → Core) : (s.updCore f).m.jobs = s.m.jobs := by unfold State.updCore; split <;> rfl
@[simp] theorem State.updCore_dev (s : State) (f : Core → Core) : (s.updCore f).m.dev = s.m.dev := by unfold State.updCore; split <;> rfl
@[simp] theorem State.updCore_host (s : State) (f : Core → Core) : (s.updCore f).m.host = s.m.host := by unfold State.updCore; split <;> rfl
@[simp] theorem State.updCore_mgmt (s : State) (f : Core → Core) : (s.updCore f).m.mgmt = s.m.mgmt := by unfold State.updCore; split <;> rfl
@[simp] theorem State.updCore_queue (s : State) (f : Core → Core) : (s.updCore f).m.queue = s.m.queue := by unfold State.updCore; split <;> rfl
@[simp] theorem State.updCore_replies (s : State) (f : Core → Core) : (s.updCore f).m.replies = s.m.replies := by unfold State.updCore; split <;> rfl
@[simp] theorem State.updCore_copies (s : State) (f : Core → Core) : (s.updCore f).m.copies = s.m.copies := by unfold State.updCore; split <;> rfl
@[simp] theorem State.updCore_early (s : State) (f : Core → Core) : (s.updCore f).m.early = s.m.early := by unfold State.updCore; split <;> rfl
@[simp] theorem State.updCore_released (s : State) (f : Core → Core) : (s.updCore f).m.released = s.m.released := by unfold State.updCore; split <;> rfl
@[simp] theorem State.updCore_heard (s : State) (f : Core → Core) : (s.updCore f).m.heard = s.m.heard := by unfold State.updCore; split <;> rfl
@[simp] theorem State.updCore_fenced (s : State) (f : Core → Core) : (s.updCore f).m.fenced = s.m.fenced := by unfold State.updCore; split <;> rfl
@[simp] theorem State.updCore_cmds (s : State) (f : Core → Core) : (s.updCore f).m.cmds = s.m.cmds := by unfold State.updCore; split <;> rfl
@[simp] theorem State.updCore_agenda (s : State) (f : Core → Core) : (s.updCore f).m.agenda = s.m.agenda := by unfold State.updCore; split <;> rfl
@[simp] theorem State.updCore_polls (s : State) (f : Core → Core) : (s.updCore f).m.polls = s.m.polls := by unfold State.updCore; split <;> rfl
@[simp] theorem State.updCore_inputs (s : State) (f : Core → Core) : (s.updCore f).m.inputs = s.m.inputs := by unfold State.updCore; split <;> rfl
@[simp] theorem State.updCore_strikes (s : State) (f : Core → Core) : (s.updCore f).m.strikes = s.m.strikes := by unfold State.updCore; split <;> rfl
@[simp] theorem State.updCore_hits (s : State) (f : Core → Core) : (s.updCore f).m.hits = s.m.hits := by unfold State.updCore; split <;> rfl
@[simp] theorem State.updCore_todo (s : State) (f : Core → Core) : (s.updCore f).m.todo = s.m.todo := by unfold State.updCore; split <;> rfl
@[simp] theorem State.updCore_ltodo (s : State) (f : Core → Core) : (s.updCore f).m.ltodo = s.m.ltodo := by unfold State.updCore; split <;> rfl
@[simp] theorem State.updCore_faulty (s : State) (f : Core → Core) : (s.updCore f).m.faulty = s.m.faulty := by unfold State.updCore; split <;> rfl
@[simp] theorem State.updCore_links (s : State) (f : Core → Core) : (s.updCore f).m.links = s.m.links := by unfold State.updCore; split <;> rfl
@[simp] theorem State.updCore_bad (s : State) (f : Core → Core) : (s.updCore f).m.bad = s.m.bad := by unfold State.updCore; split <;> rfl
@[simp] theorem State.updCore_io (s : State) (f : Core → Core) : (s.updCore f).m.io = s.m.io := by unfold State.updCore; split <;> rfl
@[simp] theorem State.updCore_away (s : State) (f : Core → Core) : (s.updCore f).m.away = s.m.away := by unfold State.updCore; split <;> rfl
@[simp] theorem State.updCore_touched (s : State) (f : Core → Core) : (s.updCore f).m.touched = s.m.touched := by unfold State.updCore; split <;> rfl
@[simp] theorem State.updCore_freeCtr (s : State) (f : Core → Core) : (s.updCore f).m.freeCtr = s.m.freeCtr := by unfold State.updCore; split <;> rfl
@[simp] theorem State.updCore_nextId (s : State) (f : Core → Core) : (s.updCore f).m.nextId = s.m.nextId := by unfold State.updCore; split <;> rfl
@[simp] theorem State.updGang_iss (s : State) (f : Gang → Gang) : (s.updGang f).iss = s.iss := by unfold State.updGang; split <;> rfl
@[simp] theorem State.updGang_cur (s : State) (f : Gang → Gang) : (s.updGang f).cur = s.cur := by unfold State.updGang; split <;> rfl
@[simp] theorem State.updGang_time (s : State) (f : Gang → Gang) : (s.updGang f).m.time = s.m.time := by unfold State.updGang; split <;> rfl
@[simp] theorem State.updGang_vds (s : State) (f : Gang → Gang) : (s.updGang f).m.vds = s.m.vds := by unfold State.updGang; split <;> rfl
@[simp] theorem State.updGang_jobs (s : State) (f : Gang → Gang) : (s.updGang f).m.jobs = s.m.jobs := by unfold State.updGang; split <;> rfl
@[simp] theorem State.updGang_dev (s : State) (f : Gang → Gang) : (s.updGang f).m.dev = s.m.dev := by unfold State.updGang; split <;> rfl
@[simp] theorem State.updGang_host (s : State) (f : Gang → Gang) : (s.updGang f).m.host = s.m.host := by unfold State.updGang; split <;> rfl
@[simp] theorem State.updGang_mgmt (s : State) (f : Gang → Gang) : (s.updGang f).m.mgmt = s.m.mgmt := by unfold State.updGang; split <;> rfl
@[simp] theorem State.updGang_queue (s : State) (f : Gang → Gang) : (s.updGang f).m.queue = s.m.queue := by unfold State.updGang; split <;> rfl
@[simp] theorem State.updGang_replies (s : State) (f : Gang → Gang) : (s.updGang f).m.replies = s.m.replies := by unfold State.updGang; split <;> rfl
@[simp] theorem State.updGang_copies (s : State) (f : Gang → Gang) : (s.updGang f).m.copies = s.m.copies := by unfold State.updGang; split <;> rfl
@[simp] theorem State.updGang_early (s : State) (f : Gang → Gang) : (s.updGang f).m.early = s.m.early := by unfold State.updGang; split <;> rfl
@[simp] theorem State.updGang_released (s : State) (f : Gang → Gang) : (s.updGang f).m.released = s.m.released := by unfold State.updGang; split <;> rfl
@[simp] theorem State.updGang_heard (s : State) (f : Gang → Gang) : (s.updGang f).m.heard = s.m.heard := by unfold State.updGang; split <;> rfl
@[simp] theorem State.updGang_fenced (s : State) (f : Gang → Gang) : (s.updGang f).m.fenced = s.m.fenced := by unfold State.updGang; split <;> rfl
@[simp] theorem State.updGang_cmds (s : State) (f : Gang → Gang) : (s.updGang f).m.cmds = s.m.cmds := by unfold State.updGang; split <;> rfl
@[simp] theorem State.updGang_agenda (s : State) (f : Gang → Gang) : (s.updGang f).m.agenda = s.m.agenda := by unfold State.updGang; split <;> rfl
@[simp] theorem State.updGang_polls (s : State) (f : Gang → Gang) : (s.updGang f).m.polls = s.m.polls := by unfold State.updGang; split <;> rfl
@[simp] theorem State.updGang_inputs (s : State) (f : Gang → Gang) : (s.updGang f).m.inputs = s.m.inputs := by unfold State.updGang; split <;> rfl
@[simp] theorem State.updGang_strikes (s : State) (f : Gang → Gang) : (s.updGang f).m.strikes = s.m.strikes := by unfold State.updGang; split <;> rfl
@[simp] theorem State.updGang_hits (s : State) (f : Gang → Gang) : (s.updGang f).m.hits = s.m.hits := by unfold State.updGang; split <;> rfl
@[simp] theorem State.updGang_todo (s : State) (f : Gang → Gang) : (s.updGang f).m.todo = s.m.todo := by unfold State.updGang; split <;> rfl
@[simp] theorem State.updGang_ltodo (s : State) (f : Gang → Gang) : (s.updGang f).m.ltodo = s.m.ltodo := by unfold State.updGang; split <;> rfl
@[simp] theorem State.updGang_faulty (s : State) (f : Gang → Gang) : (s.updGang f).m.faulty = s.m.faulty := by unfold State.updGang; split <;> rfl
@[simp] theorem State.updGang_links (s : State) (f : Gang → Gang) : (s.updGang f).m.links = s.m.links := by unfold State.updGang; split <;> rfl
@[simp] theorem State.updGang_bad (s : State) (f : Gang → Gang) : (s.updGang f).m.bad = s.m.bad := by unfold State.updGang; split <;> rfl
@[simp] theorem State.updGang_io (s : State) (f : Gang → Gang) : (s.updGang f).m.io = s.m.io := by unfold State.updGang; split <;> rfl
@[simp] theorem State.updGang_away (s : State) (f : Gang → Gang) : (s.updGang f).m.away = s.m.away := by unfold State.updGang; split <;> rfl
@[simp] theorem State.updGang_touched (s : State) (f : Gang → Gang) : (s.updGang f).m.touched = s.m.touched := by unfold State.updGang; split <;> rfl
@[simp] theorem State.updGang_freeCtr (s : State) (f : Gang → Gang) : (s.updGang f).m.freeCtr = s.m.freeCtr := by unfold State.updGang; split <;> rfl
@[simp] theorem State.updGang_nextId (s : State) (f : Gang → Gang) : (s.updGang f).m.nextId = s.m.nextId := by unfold State.updGang; split <;> rfl
@[simp] theorem State.updIss_m (s : State) (f : Issue → Issue) : (s.updIss f).m = s.m := rfl
@[simp] theorem State.updIss_cur (s : State) (f : Issue → Issue) : (s.updIss f).cur = s.cur := rfl
@[simp] theorem State.updIss_iss (s : State) (f : Issue → Issue) : (s.updIss f).iss = s.iss.map f := rfl

end Sys2Proof.Machine
end

