-- ==== Sys2Proof/Laws/Words.lean ====
section
/-! SUPPORT. What issuing a word and running an event come to: one law for each way `State.word`, `State.jump` and `event`
can end. -/
namespace Sys2Proof.Machine

theorem find?_not_of_all {α : Type} {f : α → Bool} {l : List α} (h : l.all f = true) : l.find? (fun a => !f a) = none := by
  simp only [List.all_eq_true] at h
  simp only [List.find?_eq_none]
  intro a ha
  simp [h a ha]

/-- A word that takes effect: its own effect, then the next word. -/
theorem State.word_runs {s t : State} {decls : List Decl} {g : BitVec 4} {n : Bool} {body : State → Except Stop State}
    (h : Runs s decls g n) (hb : body s = .ok t) : s.word decls (s.guard g n) body = .next t.advance := by
  obtain ⟨⟨ha, hd, hg⟩, hf⟩ := h
  obtain ⟨q, hq⟩ := Option.isSome_iff_exists.mp ha
  simp only [State.word, hq, find?_not_of_all hd, hg, hb, State.fall, hf, if_true]

/-- A word that meets a fault or asks for a freeze. -/
theorem State.word_stops {s : State} {decls : List Decl} {g : BitVec 4} {n : Bool} {body : State → Except Stop State} {e : Stop}
    (h : Passes s decls g n) (hb : body s = .error e) : s.word decls (s.guard g n) body = .next (s.stopped e) := by
  obtain ⟨ha, hd, hg⟩ := h
  obtain ⟨q, hq⟩ := Option.isSome_iff_exists.mp ha
  simp only [State.word, hq, find?_not_of_all hd, hg, hb, if_true]

/-- A nullified word only passes. -/
theorem State.word_nullified {s : State} {decls : List Decl} {body : State → Except Stop State}
    (ha : (s.m.seq? s.cur).isSome = true) (hd : decls.all (fun d => d.ok s.hdr s.regs.rrb) = true) :
    s.word decls false body = .next (s.fall s) := by
  obtain ⟨q, hq⟩ := Option.isSome_iff_exists.mp ha
  simp [State.word, hq, find?_not_of_all hd]

/-- A word that names what is not declared, or may not be run. -/
theorem State.word_refused {s : State} {decls : List Decl} {on : Bool} {body : State → Except Stop State} {d : Decl}
    (ha : (s.m.seq? s.cur).isSome = true) (hd : decls.find? (fun d => !d.ok s.hdr s.regs.rrb) = some d) :
    s.word decls on body = .next (s.raise { cause := d.cause }) := by
  obtain ⟨q, hq⟩ := Option.isSome_iff_exists.mp ha
  simp [State.word, hq, hd]

/-- Everything a word can come to. -/
theorem State.word_cases {s t : State} {decls : List Decl} {on : Bool} {body : State → Except Stop State}
    (h : s.word decls on body = .next t) :
    (∃ d ∈ decls, d.ok s.hdr s.regs.rrb = false ∧ t = s.raise { cause := d.cause }) ∨
    (on = false ∧ t = s.fall s) ∨ (on = true ∧ ∃ e, body s = .error e ∧ t = s.stopped e) ∨
    (on = true ∧ ∃ u, body s = .ok u ∧ t = s.fall u) := by
  unfold State.word at h
  split at h
  · exact nomatch h
  · split at h
    · rename_i d hd
      have := List.find?_some hd
      exact .inl ⟨d, List.mem_of_find?_eq_some hd, by simpa using this, by simpa using h.symm⟩
    · split at h
      · rename_i hon
        split at h
        · rename_i e he
          exact .inr (.inr (.inl ⟨hon, e, he, by simpa using h.symm⟩))
        · rename_i u hu
          exact .inr (.inr (.inr ⟨hon, u, hu, by simpa using h.symm⟩))
      · rename_i hon
        exact .inr (.inl ⟨by simpa using hon, by simpa using h.symm⟩)

/-- A control word that leaves the PC itself. -/
theorem State.jump_runs {s t : State} {decls : List Decl} {g : BitVec 4} {n : Bool} {body : State → Except Stop State}
    (h : Passes s decls g n) (hb : body s.issued = .ok t) : s.jump decls (s.guard g n) body = .next t := by
  obtain ⟨ha, hd, hg⟩ := h
  obtain ⟨q, hq⟩ := Option.isSome_iff_exists.mp ha
  simp only [State.jump, hq, find?_not_of_all hd, hg, hb, if_true]

/-- A control word that meets a fault: none of its effect, its own cycle among it. -/
theorem State.jump_stops {s : State} {decls : List Decl} {g : BitVec 4} {n : Bool} {body : State → Except Stop State} {e : Stop}
    (h : Passes s decls g n) (hb : body s.issued = .error e) : s.jump decls (s.guard g n) body = .next (s.stopped e) := by
  obtain ⟨ha, hd, hg⟩ := h
  obtain ⟨q, hq⟩ := Option.isSome_iff_exists.mp ha
  simp only [State.jump, hq, find?_not_of_all hd, hg, hb, if_true]

/-- A nullified control word only passes. -/
theorem State.jump_nullified {s : State} {decls : List Decl} {body : State → Except Stop State}
    (ha : (s.m.seq? s.cur).isSome = true) (hd : decls.all (fun d => d.ok s.hdr s.regs.rrb) = true) :
    s.jump decls false body = .next (s.fall s) := by
  obtain ⟨q, hq⟩ := Option.isSome_iff_exists.mp ha
  simp [State.jump, hq, find?_not_of_all hd]

/-- Everything a control word can come to. -/
theorem State.jump_cases {s t : State} {decls : List Decl} {on : Bool} {body : State → Except Stop State}
    (h : s.jump decls on body = .next t) :
    (∃ d ∈ decls, d.ok s.hdr s.regs.rrb = false ∧ t = s.raise { cause := d.cause }) ∨
    (on = false ∧ t = s.fall s) ∨ (on = true ∧ ∃ e, body s.issued = .error e ∧ t = s.stopped e) ∨
    (on = true ∧ body s.issued = .ok t) := by
  unfold State.jump at h
  split at h
  · exact nomatch h
  · split at h
    · rename_i d hd
      have := List.find?_some hd
      exact .inl ⟨d, List.mem_of_find?_eq_some hd, by simpa using this, by simpa using h.symm⟩
    · split at h
      · rename_i hon
        split at h
        · rename_i e he
          exact .inr (.inr (.inl ⟨hon, e, he, by simpa using h.symm⟩))
        · rename_i u hu
          simp only [Host.Outcome.next.injEq] at h
          exact .inr (.inr (.inr ⟨hon, h ▸ hu⟩))
      · rename_i hon
        exact .inr (.inl ⟨by simpa using hon, by simpa using h.symm⟩)

/-- An event where it happens. -/
theorem event_next {m : Mach} {s : State} {enabled : Bool} (h : enabled = true) : event enabled m s = .next { s with m := m } := by
  simp [event, h]

/-- An event that came to a next state happened. -/
theorem event_cases {m : Mach} {s t : State} {enabled : Bool} (h : event enabled m s = .next t) :
    enabled = true ∧ t = { s with m := m } := by
  unfold event at h
  split at h
  · rename_i hen
    exact ⟨hen, by simpa using h.symm⟩
  · exact nomatch h

@[simp] theorem need_ok {c : BitVec 8} {a : Word} : need true c a = .ok () := rfl
@[simp] theorem need_error {c : BitVec 8} {a : Word} : need false c a = .error (.fault { cause := c, addr := a }) := rfl
@[simp] theorem await_ok {k : CauseKind} : await true k = .ok () := rfl
@[simp] theorem await_error {k : CauseKind} : await false k = .error (.hold k) := rfl

/-- A test passes just where its condition holds. -/
theorem need_eq_ok {ok : Bool} {c : BitVec 8} {a : Word} : need ok c a = .ok () ↔ ok = true := by cases ok <;> simp

/-- A step whose plan is the word of a stream, where no fault of a command in flight comes first, is the meaning of that word. -/
theorem step_word {s t : State} {i : Instr} (hp : s.plan = t.wordPlan) (hf : t.m.inFlight t.cur = none)
    (hd : t.seq.decodeAt t.cur.strm = some i) : step s = exec i t := by
  have hw : t.wordPlan = .word i t := by unfold State.wordPlan; rw [hf, hd]; exact if_neg (by decide)
  unfold step; rw [hp, hw]

end Sys2Proof.Machine
end

