-- ==== Sys2Proof/Tests/Slice0.lean ====
section
/-! SUPPORT. Tests: words of the spec decoded, ill-formed words refused, instructions run once on small states, and for each
statement that has hypotheses a state that meets them. An expected value is the spec's own, by the rule named. -/
namespace Sys2Proof.Tests
open Sys2Proof Sys2Proof.Machine

/-! ## Small states -/

/-- The gang of the small states, and its job. -/
def G : Nat := State.reset.m.nextId

/-- A running gang of one core, or a Loupe member, whose stream stands at word 0 of two words, in an ec that has issued
nothing yet. -/
def base (st : Stream) : State := { State.reset.atWord st 0 with cur := if st == .l then .loupe 0 0 0 else .core G 0 st }

/-- Scalars set. -/
def withS (s : State) (l : List (Nat × Word)) : State := s.updSeq (fun q => l.foldl (fun q p => q.setS p.1 p.2) q)
/-- The stream's registers changed. -/
def withR (s : State) (f : StreamRegs → StreamRegs) : State := s.updRegs f
/-- The core, the gang, the job and the virtual device changed. -/
def onCore (s : State) (f : Core → Core) : State := { s with m := s.m.updCore G 0 f }
def onGang (s : State) (f : Gang → Gang) : State := { s with m := s.m.updGang G f }
def onJob (s : State) (f : Job → Job) : State := { s with m := s.m.updJob (G + 1) f }
def onVd (s : State) (f : VDev → VDev) : State := { s with m := s.m.updVd 0 f }
/-- The core in a group 0, with a barrier 0. -/
def grouped (s : State) (b : Barrier) : State := onVd s (fun v => { v with groups := [(0, { cores := [(0, 1)] })], bars := [(0, b)] })
/-- A page of 64 KiB at 64 KiB in the S or T stream's TLB, with a leaf. -/
def paged (s : State) (leaf : Word) : State :=
  onVd (onCore s (fun c => { c with tlbS := [⟨65536, 65536, leaf, 65536⟩], tlbT := [⟨65536, 65536, leaf, 65536⟩] }))
    (fun v => { v with regions := [(0, 0)] })
def scr (off : Nat) : Word := mkPtr 1 0 off

/-- The state a step comes to. -/
def after (o : Host.Outcome State Fault Refusal) : Option State :=
  match o with
  | .next t => some t
  | _ => none

/-- The results on their way in the core of the word. -/
def writes (o : Host.Outcome State Fault Refusal) : List Write :=
  match after o with
  | some t => t.core.seq.pend.flatMap (·.writes)
  | none => []

/-- The faults of the ec. -/
def faults (o : Host.Outcome State Fault Refusal) : List (BitVec 8) :=
  match after o with
  | some t => ((t.iss.map (·.faults)).getD []).map (·.exc.cause)
  | none => []

/-! ## Ill-formed words (R31, R33-R36, R39, R41, R43-R45) -/

theorem test_illformed_destination : (Instr.add 56 0 0 false 0).wf .s = false := by decide
theorem test_illformed_discarded_destination : (Instr.add 8 0 0 true 0).wf .s = false := by decide
theorem test_illformed_predicate : (Instr.cmp 0 9 10 0 0).wf .s = false := by decide
theorem test_illformed_condition : (Instr.cmp 1 9 10 7 0).wf .s = false := by decide
theorem test_illformed_predicate_source : (Instr.pand 1 8 2 0).wf .s = false := by decide
theorem test_illformed_scope : (Instr.fence 0 1 6 0).wf .s = false := by decide
theorem test_illformed_plain_scope : (Instr.ldd 8 9 0 0 1 0 0).wf .s = false := by decide
theorem test_illformed_release_load : (Instr.ldd 8 9 0 2 1 0 0).wf .s = false := by decide
theorem test_illformed_acquire_store : (Instr.std 8 9 0 1 1 0 0).wf .s = false := by decide
theorem test_illformed_latch_in_T : (Instr.tsrc 56 0).wf .t = false := by decide
theorem test_illformed_vector_source : (Instr.vadd 1 72 2 false false 0).wf .v = false := by decide
theorem test_illformed_shift : (Instr.shli 8 9 64 0).wf .s = false := by decide
theorem test_illformed_loop : (Instr.loop 0 false 0).wf .s = false := by decide
theorem test_illformed_waitc : (Instr.waitc 0 false 0).wf .s = false := by decide
theorem test_illformed_register : (Instr.mfsr 0 false 8 0x7FF).wf .s = false := by decide
theorem test_illformed_matrix_scalar : (Instr.mwin 56 0).wf .m = false := by decide
theorem test_illformed_stream : (Instr.vadd 1 2 3 false false 0).validIn .s = false := by decide

/-! ## Words of the spec (R39-R45, R86, R89, R94, R175-R185, R203, R210, R211) -/

theorem test_decode_add : decode .s 0 0x04000000#32 = .ok (.add 0 0 0 false 0) := rfl
theorem test_decode_branches : decode .s 0 0xC003FFFB#32 = .ok (.br 0 false (-5)) ∧ decode .s 0 0xC0A00007#32 = .ok (.br 2 true 7) ∧
    decode .s 0 0xC4000028#32 = .ok (.call 0 false 40) ∧ decode .s 0 0xD0008300#32 = .ok (.lset 0 false 8 3 0) := ⟨rfl, rfl, rfl, rfl⟩
theorem test_decode_waits : decode .m 0 0xDC000003#32 = .ok (.waitc 0 false 3) ∧ decode .t 0 0xE0000000#32 = .ok .yield ∧
    decode .s 0 0xE8000001#32 = .ok (.lease 0 false 1) := ⟨rfl, rfl, rfl⟩
theorem test_decode_vector : decode .v 0 0x50903080#32 = .ok (.vsel 9 1 66 false 0) ∧ decode .v 0 0x6840E000#32 = .ok (.vbrd 4 7 false false 0) ∧
    decode .v 0 0x6C500000#32 = .ok (.viota 5 false false 0) ∧ decode .v 0 0x74410140#32 = .ok (.vmsv 4 8 5 false false 0) := ⟨rfl, rfl, rfl, rfl⟩
theorem test_decode_matrix : decode .m 0 0x2D800000#32 = .ok (.mzer 3 0) ∧ decode .m 0 0x24010000#32 = .ok (.mrnd 2 0) := ⟨rfl, rfl⟩
theorem test_decode_major_zero_refused : (decode .s 0 0#32).toOption = none := by decide
theorem test_decode_vector_word_in_S_refused : (decode .s 0 0xFC000000#32).toOption = none := by decide

/-! ## Instructions run once -/

/-- R143: the sum modulo 2^64. -/
theorem test_add_wraps :
    writes (exec (.add 8 9 10 false 0) (withS (base .s) [(9, 0xFFFFFFFFFFFFFFFF), (10, 1)])) = [.s 8 0] := by decide
theorem test_sar_ignores_high_bits :
    writes (exec (.sar 8 9 10 false 0) (withS (base .s) [(9, 0x8000000000000000), (10, 65)])) = [.s 8 0xC000000000000000] := by decide
/-- R144: the table of quotients. -/
theorem test_div_toward_zero : writes (exec (.div 8 9 10 false 0) (withS (base .s) [(9, -7), (10, 2)])) = [.s 8 (-3)] := by decide
theorem test_div_by_zero : writes (exec (.div 8 9 10 false 0) (withS (base .s) [(9, 7)])) = [.s 8 0xFFFFFFFFFFFFFFFF] := by decide
theorem test_div_overflow :
    writes (exec (.div 8 9 10 false 0) (withS (base .s) [(9, 0x8000000000000000), (10, -1)])) = [.s 8 0x8000000000000000] := by decide
theorem test_divn : writes (exec (.divn 8 9 10 false 0) (withS (base .s) [(9, -7), (10, 2)])) = [.s 8 0x7FFFFFFFFFFFFFFC] := by decide
theorem test_rem_sign : writes (exec (.rem 8 9 10 false 0) (withS (base .s) [(9, -7), (10, 2)])) = [.s 8 (-1)] := by decide
theorem test_mulh : writes (exec (.mulh 8 9 10 false 0) (withS (base .s) [(9, -1), (10, 3)])) = [.s 8 (-1)] := by decide
theorem test_mulhn : writes (exec (.mulhn 8 9 10 false 0) (withS (base .s) [(9, -1), (10, 3)])) = [.s 8 2] := by decide
/-- R146: LIM of −1, and LIH. -/
theorem test_lim : writes (exec (.lim 8 0xFFFFF 0) (base .s)) = [.s 8 0xFFFFFFFFFFFFF000] := by decide
theorem test_lih : writes (exec (.lih 6 0x123 0) (withS (base .s) [(6, 0x45679000)])) = [.s 6 0x12345679000] := by decide
/-- R147: CMPI.ltn compares against 2^64 − 1. -/
theorem test_cmpi_natural : writes (exec (.cmpi 1 6 4 (-1) 0) (base .s)) = [.p 1 true] := by decide
/-- R148: PTOS has bit 0 one. -/
theorem test_ptos : writes (exec (.ptos 8 false 0) (base .s)) = [.s 8 1] := by decide
/-- R151: an SCR pointer at offset 0x1F_FFF0 plus 16 passes, plus 17 does not. -/
theorem test_ptri_at_the_end : writes (exec (.ptri 8 9 16 0) (withS (base .s) [(9, scr 0x1FFFF0)])) = [.s 8 (scr 0x200000)] := by decide
theorem test_ptri_past_the_end : faults (exec (.ptri 8 9 17 0) (withS (base .s) [(9, scr 0x1FFFF0)])) = [0x03] := by decide
/-- R153: 1 + 1, and −0 below +0. -/
theorem test_fadd : writes (exec (.fadd 8 9 10 false 0) (withS (base .s) [(9, 0x3F800000), (10, 0x3F800000)])) = [.s 8 0x40000000] := by
  decide
theorem test_fmin_zeros : writes (exec (.fmin 8 9 10 false 0) (withS (base .s) [(9, 0), (10, 0x80000000)])) = [.s 8 0x80000000] := by
  decide
/-- R154: 2^63 as an i64 saturates. -/
theorem test_cvtfi_saturates : writes (exec (.cvtfi 8 9 false 0) (withS (base .s) [(9, 0x5F000000)])) = [.s 8 0x7FFFFFFFFFFFFFFF] := by
  decide
/-- R156: a misaligned load; R19: a rank beyond the gang. -/
theorem test_load_misaligned : faults (exec (.ldd 8 9 0 0 0 0 0) (withS (base .s) [(9, scr 4)])) = [0x06] := by decide
theorem test_store_rank : faults (exec (.std 8 9 0 0 0 0 0) (withS (base .s) [(9, mkPtr 1 1 0)])) = [0x03] := by decide
/-- R89: LSET s8, 0, 3 with s8 = 0 leaves ES 2 and q0 0; a count above 2^32 faults. -/
theorem test_lset_zero : (after (exec (.lset 0 false 8 3 0) (base .s))).map (fun t => (t.regs.lc, t.regs.es, t.regs.q)) = some (0, 2, 0) := by
  decide
theorem test_lset_too_many : faults (exec (.lset 0 false 8 3 0) (withS (base .s) [(8, 0x100000001)])) = [0x07] := by decide
/-- R90: a back-edge on the epilogue shifts a 0 in and steps RRB. -/
theorem test_loop_drains : (after (exec (.loop 0 false (-1)) (withR (base .s) (fun r => { r with pc := 1, es := 2, q := 1 })))).map
    (fun t => (t.regs.pc, t.regs.es, t.regs.q, t.regs.rrb)) = some (0, 1, 2, 1) := by decide
/-- R84: a target before word 0. -/
theorem test_branch_before_start : faults (exec (.br 0 false (-1)) (base .s)) = [0x02] := by decide
theorem test_exit : (after (exec (.exit 0 false 7) (base .s))).map (fun t => t.regs.st) = some .ended := by decide +kernel
theorem test_trap : faults (exec (.trap 0 false 5) (base .s)) = [0x11] := by decide
theorem test_halt_unprivileged : faults (exec (.halt 0 false) (onJob (base .s) (fun j => { j with hdr := { j.hdr with priv := false } }))) = [0x12] := by
  decide
theorem test_nullified : writes (exec (.add 8 9 10 false 1) (base .s)) = [] := by decide
set_option maxRecDepth 4000 in
/-- R163: VSET.shape sets the element type and starts a group. -/
theorem test_vsetShape : (after (exec (.vsetShape 4 0 false 0 0) (base .v))).map (fun t => (t.shp.ty, t.regs.gcyc)) = some (4, 0) := by decide
/-- R211: a zeroed tile is busy 16 ec. -/
theorem test_mzer : (after (exec (.mzer 3 0) (base .m))).map (fun t => t.mat.portEnd) = some 16 := by decide
/-- R233: without a ladder LSTP faults. -/
theorem test_lstp_without_ladder : faults (exec (.lstp 0 false 0) (base .m)) = [0x14] := by decide
/-- R338: a LOUPE word on a gang core. -/
theorem test_lhash_on_a_core : faults (exec (.lhash 0 false 8 9 10) (base .s)) = [0x01] := by decide
/-- R397: the kernel returns 7 in s3 of the rank a TRAP stopped; a value for another rank is not written. -/
theorem test_trap_returns : ((after (exec (.kernelResumeInPlace G [(0, .s 3 7), (1, .s 3 9)])
    (onGang (base .s) (fun x => { x with run := .stopped, report := some { cause := 0x11, code := 5 } })))).bind (fun t => t.m.gang? G)).map
    (fun x => (x.run, x.cores.map (fun c => c.seq.phys 3))) = some (.running, [7]) := by decide
/-- R65: a watchdog of 27 is ignored, of 16 kept. -/
theorem test_wdog_out_of_range : (after (exec (.wdogWrite 0 27) (base .s))).map (fun t => (t.m.vd 0).wdog) = some 21 := by decide
theorem test_wdog_lowest : (after (exec (.wdogWrite 0 16) (base .s))).map (fun t => (t.m.vd 0).wdog) = some 16 := by decide
/-- R115: an empty entry is ignored. -/
theorem test_pattern_empty : (after (exec (.patWrite 0 0 3 0) (base .s))).map (fun t => t.m.cluster? 0 0 == (base .s).m.cluster? 0 0) = some true := by
  decide
/-- R379: a doorbell wakes a dormant virtual device. -/
theorem test_doorbell : (after (exec (.wakeDoorbell 0 false) (onVd (base .s) (fun v => { v with st := .dormant })))).map
    (fun t => (t.m.vd 0).st) = some .waking := by decide
/-- R264: a store commits its bytes, little-endian (R3). -/
theorem test_store_commits : Memory.read ((base .s).m.perform 7 { who := .agent (.core G 0 .s), vd := 0, cls := 0, seq := 0, op := .store (offs (natLE 2 0x1234)), loc := .dev 64 } true).dev 64 2
    = [0x34, 0x12] := by decide

/-- The first row of the worked 4 KiB read of 24_recovery.md: SYM 5, COUNT 1. -/
theorem test_correctedSymbol_log : (State.reset.m.strike (.symbol 1088 5)).mgmt.arrayLog.map (fun e =>
    (e.extractLsb' 64 8, e.extractLsb' 77 7, e.getLsbD 76)) = [(1, 5, false)] := by decide
/-- R404: a word that reads what cannot be corrected raises 0x10 there. -/
theorem test_uncorrectableRead : ({ base .s with m := (base .s).m.strike (.read (.core G 0 .s)) } : State).m.inFlight (.core G 0 .s)
    = some { cause := 0x10 } := by decide

/-! ## Witnesses: for each statement, states and operands that meet its hypotheses, clause by clause -/

/-- No ec is open, and a Loupe core is to be served. -/
def loupeTurn : State :=
  let s := State.reset.atWord .l 0xE8000001
  { s with iss := none, m := { s.m with agenda := [], todo := [], ltodo := [(0, 0)] } }

theorem witness_StepRunsDecodedWord_word : let s := State.reset.atWord .s 0xD0008300
    (s.iss.map (·.slots)) = some [.core G 0 .s] ∧ s.m.inFlight (.core G 0 .s) = none ∧ (base .s).m.inFlight (.core G 0 .s) = none ∧
    ({ s with cur := .core G 0 .s } : State).seq.decodeAt .s = some (.lset 0 false 8 3 0) := ⟨by decide, by decide, by decide, rfl⟩
theorem witness_StepRunsDecodedWord_illegal : let s := State.reset.atWord .s 0
    s.m.inFlight (.core G 0 .s) = none ∧ ({ s with cur := .core G 0 .s } : State).seq.decodeAt .s = none := ⟨by decide, rfl⟩
theorem witness_StepRunsDecodedWord_held :
    ((onCore { base .t with m := { (base .t).m with time := 1 } } (fun c => { c with held := [{ cause := 2, addr := 0, race := 0, resume := 0, goix := 0, strm := .t, at_ := 0 }] })).m.inFlight
      (.core G 0 .t)).isSome = true := by decide
theorem witness_StepRunsDecodedWord_loupe :
    let n := ((loupeTurn.m.loupe? 0 0).map (fun l => l.ctxs.length)).getD 0
    let m := (List.range n).foldl (fun m c => m.reachCtx 0 0 c) { loupeTurn.m.fresh with ltodo := [] }
    loupeTurn.iss = none ∧ loupeTurn.m.polls.find? (fun p => decide (p.1 ≤ loupeTurn.m.time) && p.2 == .phys) = none ∧ loupeTurn.m.agenda.find? (fun d => early d.ev && loupeTurn.m.isDue d) = none ∧ loupeTurn.m.todo = [] ∧
    loupeTurn.m.ltodo = [(0, 0)] ∧ m.serves 0 0 = some 0 ∧ m.idleEc (.loupe 0 0 0) = false ∧
    m.inFlight (.loupe 0 0 0) = none := by decide
theorem witness_DecodeOfEncode : (Instr.mfsr 15 true 55 0x104).validIn .s = true ∧ (Instr.mfsr 15 true 55 0x104).wf .s = true := by decide
theorem witness_EncodeOfDecode : decode .s 0 0xD0008300#32 = .ok (.lset 0 false 8 3 0) := rfl
theorem witness_StepKeepsMemoriesCanonical : (State.reset.atWord .s 0).memoriesWf = true ∧ Goes (step (State.reset.atWord .s 0)) :=
  ⟨by decide +kernel, _, rfl⟩
theorem witness_RotatingNames : let s := withR (base .s) (fun r => { r with pc := 1, lc := 1 })
    Passes s [] 0 ∧ s.regs.lc ≠ 0 ∧ 0 ≤ (s.regs.pc.toNat : Int) + (-1 : BitVec 18).toInt ∧
    (s.regs.pc.toNat : Int) + (-1 : BitVec 18).toInt < vget s.hdr.csz s.cur.strm.idx 0 := by decide

theorem witness_IntegerWords : Runs (base .s) (sn (dst 55 false ++ [55, 63])) 0 ∧ Runs (base .s) (sn (dst 0 true ++ [55])) 0 ∧
    Runs (base .s) (sn [55, 63]) 0 ∧ Runs (base .s) (sn [55]) 0 ∧ (1 : Word) ≠ 0 := by decide
theorem witness_MultiplyAndDivide : Runs (base .s) (sn (dst 55 false ++ [55, 63])) 0 := by decide
theorem witness_ComparesAndPredicates : Runs (base .s) (sn [55, 63]) 0 ∧ Runs (base .s) (sn [63]) 0 ∧ Runs (base .s) [] 0 ∧
    Runs (base .s) (sn (dst 0 true)) 0 := by decide
theorem witness_PointerWords : Runs (base .s) (sn (dst 8 false ++ [9, 10])) 0 ∧ Runs (base .l) (sn [8]) 0 ∧
    (∃ p, checkMade (base .s) 1 0 (2 ^ 21) 0 = .ok p) ∧ (∃ e, checkMade (base .s) 1 0 (2 ^ 21) 1 = .error (.fault e)) ∧
    (∃ e, checkMade (base .s) 1 1 0 0 = .error (.fault e)) ∧ (0 : Nat) < (base .s).m.gangSize (base .s).cur :=
  ⟨by decide, by decide, ⟨_, rfl⟩, ⟨_, rfl⟩, ⟨_, rfl⟩, by decide⟩
theorem witness_ScalarFloatWords : Runs (base .s) (sn [55, 55, 63]) 0 ∧ Runs (base .s) (sn (dst 0 true ++ [63])) 0 := by decide
theorem witness_ResultsLand : ∃ p : Pend, p.writes = [.s 55 7] ∧ p.latchS = some (7, 0, 7) ∧ p.latchV = none :=
  ⟨{ due := 1, strm := .s, seq := 0, pc := 0, writes := [.s 55 7], latchS := some (7, 0, 7) }, by decide⟩
theorem witness_LaterResultStays : ∃ p q : Pend, p.due = q.due ∧ p.writes = [.s 1 7] ∧ q.writes = [.s 1 8] ∧ p.strm.idx < q.strm.idx :=
  ⟨{ due := 1, strm := .v, seq := 0, pc := 0, writes := [.s 1 7] }, { due := 1, strm := .m, seq := 0, pc := 0, writes := [.s 1 8] }, by decide⟩

theorem witness_NullifiedWords : (Instr.add 8 9 10 false 1).guard? = some (1, false) ∧ ((base .s).m.seq? (base .s).cur).isSome = true ∧
    (base .s).guard 1 false = false ∧ (base .s).guard 0 true = false := by decide
/-- A job that declares eight scalars, nothing else, and one word of code. -/
def poor (st : Stream) : State := onJob (base st) (fun j => { j with hdr := { nsrg := 8, csz := Vector.replicate 4 1 } })
theorem witness_UndeclaredAndPrivilegedWords : Need.ok (poor .s).hdr (poor .s).regs.rrb (.s 8) = false ∧
    Need.ok (poor .v).hdr (poor .v).regs.rrb (.v 0) = false ∧ (poor .s).hdr.nbar ≤ 0 ∧ (poor .s).hdr.ngrp ≤ 0 ∧ (poor .m).hdr.nosl ≤ 0 ∧
    (poor .s).hdr.priv = false ∧ (sn [7]).all (fun d => d.ok (poor .s).hdr (poor .s).regs.rrb) = true ∧ (poor .s).falls = false ∧
    (poor .s).guard 0 false = true ∧ ((poor .s).m.seq? (poor .s).cur).isSome = true := by decide
theorem witness_ResultWordsFrame : (Instr.add 8 9 10 false 0).resultOnly = true ∧ (base .s).cur = .core G 0 .s ∧
    Goes (exec (.add 8 9 10 false 0) (base .s)) := ⟨by decide, by decide, _, rfl⟩
theorem witness_MemoryWordsFrame : (base .s).cur = .core G 0 .s ∧ (base .s).m.queue = [] ∧ (base .s).m.early = [] ∧ ptrSpace ((base .s).rd 9) ≠ 15 ∧
    Goes (exec (.std 8 9 0 0 0 0 0) (withS (base .s) [(9, scr 0)])) := ⟨by decide, by decide, by decide, by decide, _, rfl⟩
theorem witness_MemoryWordsFrame_full : (onVd (base .s) (fun v => { v with nqtail := v.nqhead - 1 })).m.mgmt.mirror = none ∧
    ((onVd (base .s) (fun v => { v with nqtail := v.nqhead - 1 })).m.vd (base .s).vd).nqFull = true := by decide
theorem witness_ScratchpadPlaces : ptrSpace (scr 0) = 1 ∧ ptrRank (scr 0) < (base .s).m.gangSize (base .s).cur ∧
    beyond (base .s).hdr (2 ^ 21 - 8) 8 = false ∧ ((2 : Int) ^ 21 - 8 + 8 ≤ 2 ^ 21) ∧ ((2 : Int) ^ 21 - 8) % 8 = 0 ∧ ((4 : Int) % 8 ≠ 0) ∧
    beyond { scrg := 1 } 4096 8 = true ∧ ¬ ((2 : Int) ^ 21 - 7 + 8 ≤ 2 ^ 21) := by decide

/-- A leaf of stacked memory, readable and writable: plain, or of trees of depth 1 in i32. -/
def plainLeaf : Word := 0x0000000000010007
def treeLeaf : Word := 0x0050000000010007
theorem witness_Loads : Runs (base .s) (sn [8, 9]) 0 ∧
    (∃ r, (base .s).reach .s (base .s).tlb (scr 8) 8 8 8 .read = .ok r ∧ leafDepth r.leaf = 0) ∧
    (∃ r, (paged (base .s) treeLeaf).reach .s (paged (base .s) treeLeaf).tlb 65536 65536 8 8 .read = .ok r ∧ leafDepth r.leaf ≠ 0) ∧
    (∃ e, (base .s).reach .s (base .s).tlb (scr 4) 4 8 8 .read = .error e) ∧
    (∃ k, (base .s).sysReach (mkPtr 15 0 0) 0 8 true = .ok k) ∧ (∃ e, (base .s).sysReach (mkPtr 15 0 4) 4 8 true = .error e) :=
  ⟨by decide, ⟨_, rfl, by decide⟩, ⟨_, rfl, by decide⟩, ⟨_, rfl⟩, ⟨_, rfl⟩, ⟨_, rfl⟩⟩
/-- A lens of trees of depth 1 in i32 over the first 4 KiB, and one of mxfp8 blocks. -/
def treeLens : Word := BitVec.ofNat 64 (4 + 1 * 16 + 1 * 256 + 16 * 2 ^ 29)
theorem witness_Loads_tree : let s := onCore (base .s) (fun c => { c with lens := vset c.lens 0 treeLens })
    s.ldlTree (scr 0) 0 = some (4, 1) ∧ ptrOff (scr 0) + 1 ≤ 2 ^ 21 ∧ beyond s.hdr 0 4 = false ∧ s.engine = .s ∧ (base .s).ldlTree (scr 0) 0 = none := by
  decide
/-- A gang of two cores. -/
def two (s : State) : State := onGang s (fun x => { x with cores := x.cores ++ x.cores })
theorem witness_Loads_ldl : (1 : Nat) < (two (base .s)).m.gangSize (base .s).cur ∧ (1 : Nat) ≠ (two (base .s)).rank ∧ ptrOff (mkPtr 1 1 0) + 1 ≤ 2 ^ 21 ∧
    (1 : Nat) < (2 : BitVec 3).toNat ∧ (1 : BitVec 3).toNat ≤ 1 ∧ ptrOff (scr 2) % tyBytes 4 ≠ 0 ∧ ptrOff (scr 4) % tyBytes 4 = 0 ∧
    beyond { scrg := 1 } 4096 4 = true ∧
    (∃ r, (paged (base .s) treeLeaf).reach .s (paged (base .s) treeLeaf).tlb 65536 65536 1 1 .read = .ok r ∧ leafDepth r.leaf = 1 ∧
      65536 % tyBytes (leafType r.leaf) = 0 ∧ 65537 % tyBytes (leafType r.leaf) ≠ 0) ∧
    (∃ r, (paged (base .s) treeLeaf).reach .s (paged (base .s) treeLeaf).tlb 65537 65537 1 1 .read = .ok r ∧ leafDepth r.leaf = 1) ∧
    (∃ r, (paged (base .s) plainLeaf).reach .s (paged (base .s) plainLeaf).tlb 65536 65536 1 1 .read = .ok r ∧ leafDepth r.leaf = 0) ∧
    (∃ e, (base .s).reach .s (base .s).tlb 64 64 1 1 .read = .error e) :=
  ⟨by decide, by decide, by decide, by decide, by decide, by decide, by decide, by decide, ⟨_, rfl, by decide⟩, ⟨_, rfl, by decide⟩,
    ⟨_, rfl, by decide⟩, ⟨_, rfl⟩⟩
theorem witness_Stores : Runs (base .s) (sn [8, 9]) 0 ∧
    (∃ r, (base .s).reach .s (base .s).tlb (scr 8) 8 8 8 .write = .ok r ∧ leafDepth r.leaf = 0) ∧
    (∃ r, (paged (base .s) treeLeaf).reach .s (paged (base .s) treeLeaf).tlb 65536 65536 8 8 .write = .ok r ∧ leafDepth r.leaf ≠ 0) ∧
    (∃ e, (base .s).reach .s (base .s).tlb (scr 4) 4 8 8 .write = .error e) ∧
    (∃ k, (base .s).sysReach (mkPtr 15 0 64) 64 8 false = .ok k) ∧ (∃ e, (base .s).sysReach (mkPtr 15 0 0) 0 8 false = .error e) :=
  ⟨by decide, ⟨_, rfl, by decide⟩, ⟨_, rfl, by decide⟩, ⟨_, rfl⟩, ⟨_, rfl⟩, ⟨_, rfl⟩⟩
theorem witness_AtomicsAndFences : Runs (base .s) (sn [8, 9, 10]) 0 ∧ Runs (base .s) [] 0 ∧
    (∃ r, (base .s).atomic (scr 8) 8 = .ok r) ∧ (∃ e, (base .s).atomic (scr 4) 8 = .error e) := ⟨by decide, by decide, ⟨_, rfl⟩, ⟨_, rfl⟩⟩
theorem witness_CommittedWrites : ∃ q : QEntry, q.loc = .dev 64 ∧ q.unit = 0 ∧ q.rel = false ∧ q.op = .store [(0, 1)] :=
  ⟨{ who := .agent (.core G 0 .s), vd := 0, cls := 0, seq := 0, op := .store [(0, 1)], loc := .dev 64 }, by decide⟩
theorem witness_CommittedWrites_errors : (base .s).m.faulty = [] ∧ (base .s).m.bad = none ∧
    linkHits { die := 0, layer := 0, chan := 1, group := 0, beat := 0, retry := 3 } 64 8 = true := by decide
/-- A mirror region of 64 KiB at the start of die 0. -/
def mirror0 : Mirror := { die := 0, base := 0, size := 65536 }
theorem witness_CommittedWrites_mirror : Memory.wf (base .s).m.dev = true ∧ (base .s).m.mgmt.mirror = none ∧
    mirror0.die < 4 ∧ mirror0.base + mirror0.size ≤ 2 ^ 44 ∧ mirror0.die * 2 ^ 44 + mirror0.base ≤ 65528 ∧
    65528 + 8 ≤ mirror0.die * 2 ^ 44 + mirror0.base + mirror0.size ∧ mirror0.die * 2 ^ 44 + mirror0.base + mirror0.size ≤ 65536 := by decide
theorem witness_ReadAfterWrite : Memory.wf (base .s).m.dev = true ∧ Memory.wf (base .s).m.host = true ∧ ((base .s).m.core? G 0).isSome = true := by
  decide

theorem witness_ControlTargets : let s := withR (base .s) (fun r => { r with pc := 1 })
    Passes s [] 0 ∧ Passes s (sn [1]) 0 ∧ Passes (base .v) [] 0 ∧ Passes s (sn ([9] ++ [8])) 0 ∧
    ((1 : Int) + (-1 : BitVec 18).toInt = 0) ∧ ((vget s.hdr.csz 0 0 : Nat) : Int) ≤ 1 + (1 : BitVec 18).toInt ∧ (1 : Int) + (-2 : BitVec 18).toInt < 0 := by
  decide
theorem witness_TakenBranches : Passes (base .s) (sn [1]) 0 ∧ Passes (base .v) [] 0 ∧ Passes (base .s) (sn ([9] ++ [8])) 0 ∧
    (base .v).regs.lnk.toNat < vget (base .v).hdr.csz 1 0 ∧ ((base .s).m.core? G 0).isSome = true ∧
    ((base .s).issued.rd 9).toNat < vget (base .s).hdr.csz 0 0 := by decide
theorem witness_TakenBranches_loupe : (base .l).cur = .loupe 0 0 0 ∧ Passes (base .l) [] 0 ∧ Passes (base .l) (sn [1]) 0 ∧
    Passes (base .l) (sn ([9] ++ [8])) 0 ∧ Passes (base .l) (sn ([9] ++ [])) 0 ∧ ((base .l).issued.rd 9).toNat < vget (base .l).hdr.csz 0 0 ∧
    0 ≤ ((base .l).regs.pc.toNat : Int) + (1 : BitVec 18).toInt ∧ ((base .l).regs.pc.toNat : Int) + (1 : BitVec 18).toInt < (vget (base .l).hdr.csz 0 0 : Nat) := by decide
theorem witness_LoopWords : Runs (base .s) (sn [8]) 0 ∧ ((withS (base .s) [(8, 0x100000000)]).rd 8).toNat ≤ 2 ^ 32 ∧
    2 ^ 32 < ((withS (base .s) [(8, 0x100000001)]).rd 8).toNat ∧
    Passes (withR (base .s) (fun r => { r with pc := 1, lc := 1 })) [] 0 ∧ (base .s).falls = true ∧ (base .s).regs.lc = 0 ∧ (base .s).regs.es = 0 := by
  decide
theorem witness_StreamWords : Runs (base .m) [] 0 ∧ (base .s).falls = true ∧ Passes (base .l) [] 0 ∧ Passes (base .s) [.name (.grp 0)] 0 ∧
    (grouped (base .s) {}).m.inGroup (.core G 0 .s) ((grouped (base .s) {}).m.group (.core G 0 .s) 0) = true ∧
    ((grouped (base .s) {}).m.vd 0).joins = [] ∧ ((base .s).m.vd? 0).isSome = true ∧
    (base .s).m.inGroup (.core G 0 .s) ((base .s).m.group (.core G 0 .s) 0) = false := by decide
theorem witness_BarrierWords : let s := grouped (base .s) { act := true, exp := 1, live := 1 }
    Runs s ([.name (.bar 0)] ++ sn [8]) 0 ∧ (s.m.bar 0 0).act = true ∧ (s.m.bar 0 0).orph = false ∧ (s.m.bar 0 0).brk = false ∧
    s.m.memberLive s.cur = true ∧ s.m.inGroup s.cur (s.m.group s.cur 0) = true ∧ s.m.arrRec s.cur 0 ≠ some 1 ∧
    s.m.arrRec s.cur 0 = none ∧ s.m.inPhase s.cur 0 0 0 = false ∧ (0 : Nat) < s.hdr.ngrp ∧ (s.m.jobOf s.cur).isSome = true := by decide
theorem witness_BarrierWords_others : ((grouped (base .s) {}).m.bar 0 0).act = false ∧
    ((grouped (base .s) { act := true, orph := true }).m.bar 0 0).orph = true ∧ ((grouped (base .s) { act := true, brk := true }).m.bar 0 0).brk = true ∧
    (grouped (base .s) { arr := 1 }).m.barIdle 0 0 = false ∧
    (onCore (grouped (base .s) { act := true }) (fun c => { c with arr := [(0, 0)] })).m.inPhase (.core G 0 .s) 0 0 0 = true ∧
    (onCore (grouped (base .s) { act := true }) (fun c => { c with arr := [(0, 0)] })).m.arrRec (.core G 0 .s) 0 = some 0 ∧
    ((grouped (base .s) { act := true, gen := 1 }).m.bar 0 0).passed 0 = true ∧ ((grouped (base .s) { act := true }).m.bar 0 0).passed 0 = false ∧
    2 ^ 56 ≤ ((grouped (base .s) { act := true, pend := 2 ^ 56 }).m.bar 0 0).pend := by decide
theorem witness_BarrierWords_idle : (grouped (base .s) {}).m.barIdle 0 0 = true := by decide +kernel
theorem witness_BarrierPhases : ((base .s).m.vd? 0).isSome = true ∧ ((grouped (base .s) { act := true, exp := 1, arr := 1 }).m.bar 0 0).arr = 1 ∧
    ((grouped (base .s) { act := true, exp := 2, arr := 1 }).m.bar 0 0).arr ≠ 2 := by decide
theorem witness_SystemRegisterWords : Runs (base .s) (sn [8] ++ [.priv]) 0 ∧ Runs (base .s) (sn [8] ++ []) 0 ∧ (base .s).cur = .core G 0 .s := by decide
theorem witness_FreezeWatchdog : ((base .s).m.vd? 0).isSome = true ∧ (poor .s).hdr.priv = false ∧
    (sn [7]).all (fun d => d.ok (poor .s).hdr (poor .s).regs.rrb) = true := by decide
theorem witness_RegisterEvents : ((base .s).m.core? G 0).isSome = true ∧ ((base .s).m.cluster? 3 3).isSome = true ∧ ((base .s).m.vd? 0).isSome = true ∧
    patCount (0 : BitVec 16) < patCount (patEntry 14) ∧ patCount (patEntry 14) ≤ patCount (patEntry 15) ∧
    ((onVd (base .s) (fun v => { v with regionCtr := [(0, { deferred := true })] })).m.vd 0).nqtail + 1 ≠ (0 : BitVec 8) := by decide
theorem witness_TrapAndMaintenanceWords : Passes (base .s) [.priv] 0 ∧ Passes (base .l) [.priv] 0 ∧ Runs (base .s) [] 0 ∧
    Runs (base .s) (sn [9] ++ [.priv]) 0 ∧ ptrSpace 0 = 0 ∧ ptrSpace (scr 0) ≠ 0 ∧ ptrOff 65536 % 65536 = 0 ∧ ptrOff 64 % 65536 ≠ 0 := by decide
/-- An ec whose one word faulted. -/
def faulted : State := { (base .s).updIss (fun i => { i with slots := [] }) with
  iss := some { gang := G, before := (base .s).m, slots := [], faults := [{ agent := .core G 0 .s, pc := 0, seq := 0, exc := { cause := 0x06 } }] } }
theorem witness_TakingTheStop : (faulted.iss.map (·.slots)) = some [] ∧ (faulted.iss.map (·.holds)) = some [] ∧ (faulted.m.gang? G).isSome = true ∧
    (faulted.iss.bind (fun i => (faulted.m.gang? G).bind (fun x => reported (i.faults ++ i.viewFaults faulted.m x ++ i.yieldFaults x)))).isSome = true ∧
    ((faulted.iss.map (fun i => (i.undo faulted.m).inFlight (.core G 0 .t))) = some none) := by decide
theorem witness_ReportOfAStop : (((onGang (base .s) (fun x => { x with report := some { time := 0 } })).m.gang? G).bind (fun x => if x.killed then none else x.report)).isSome = true ∧
    Memory.wf (base .s).m.dev = true := by decide
theorem witness_ResumedCores : (((base .s).m.gang? G).bind (fun x => x.cores[0]?)).isSome = true := by decide

theorem witness_LanewiseVectorWords : Runs (base .v) (vn [63, 63, 71]) 0 ∧ Runs (base .v) (vn [63, 71]) 0 ∧ Runs (base .v) (vn [71]) 0 ∧
    tyFloat 0 = true ∧ tyFloat 4 = false ∧ treeType 0 = true ∧ treeType 13 = false := by decide
theorem witness_VectorMoveWords : Runs (base .v) (vn [63, 71]) 0 ∧ Runs (base .v) [] 0 ∧ Runs (base .v) (vn [63] ++ sn [55]) 0 ∧
    Runs (base .v) (sn [55] ++ vn [71]) 0 := by decide
theorem witness_ConversionReductionAndShape : Runs (base .v) (vn [63, 71]) 0 ∧ Runs (base .v) [] 0 ∧ Runs (base .v) (sn [55]) 0 ∧
    (base .v).cur = .core G 0 .v ∧ (base .v).shp.lanes / 2 ^ (base .v).shp.gsl.toNat ≤ 64 ∧
    64 < ({ (base .v).shp with ty := 3 } : Shape).lanes / 2 ^ 0 ∧ max 32 (tyBits 3) / min 32 (tyBits 3) = 4 ∧ (base .v).mat.ladder = none := by decide
theorem witness_ConversionReductionAndShape_others : AccTy.i32 ≠ .f32 ∧ [some (1 : BitVec 32), none].length = 2 ^ 1 ∧
    (({ ptr := scr 0, n := 0, one := 0, two := 1, depth := 2, spb := 0, ver := 0, delta := [], omega := [] } : Ladder).digit 0 = 2) ∧
    (0 : Nat) < (2 : BitVec 5).toNat ∧ (0 : BitVec 20) &&& 1 = 0 := by decide
theorem witness_LiftingIsReversible : halving 4 = false ∧ halving 9 = false := by decide
/-- A scratchpad under a lens. -/
def lensed (l : Word) : State := onCore (base .v) (fun c => { c with lens := vset c.lens 0 l })
/-- A lens of mxfp8 blocks over the first 4 KiB, and a sound tree lens. -/
def blockLens : Word := BitVec.ofNat 64 (10 + 16 * 2 ^ 29)
theorem witness_VectorMemoryWords : Runs (base .v) (vn [1] ++ sn [9]) 0 ∧
    (base .v).rowCheck (scr 0) 0 false .plain 256 = .ok () ∧ (∃ e, (base .v).rowCheck (scr 4) 4 false .plain 256 = .error e) ∧
    lensUse ((lensed treeLens).lensOf (scr 0) 0) = .tree treeLens ∧ lensUse ((lensed blockLens).lensOf (scr 0) 0) = .block blockLens ∧
    (∃ l, (lensed treeLens).levelCheck (scr 0) 1 (fun l => treeBlocks l 0 1 0) = .ok l) ∧ (∃ e, (base .v).levelCheck (scr 0) 0 (fun l => treeBlocks l 0 0 0) = .error e) ∧
    (base .v).core.vec.vstlEnd ≤ (base .v).ec ∧ (base .v).ec < (onCore (base .v) (fun c => { c with vec := { c.vec with vstlEnd := 12 } })).core.vec.vstlEnd :=
  ⟨by decide, rfl, ⟨_, rfl⟩, by decide, by decide, ⟨_, rfl⟩, ⟨_, rfl⟩, by decide, by decide⟩

/-- A claimed, filled, tagged slot in the quad, now and when the ec began, a lease held, TAGM 5. -/
def armed (s : Slot) : State :=
  let t := onCore (onGang (base .m) (fun x => { x with quads := [{ slot := Vector.replicate 256 s }] }))
    (fun c => { c with mat := { c.mat with ta := 1, tb := 1, leasec := 3, tagm := 5 } })
  { t with iss := t.iss.map (fun i => { i with before := t.m }) }
theorem witness_MatrixConfigurationAndSlots : (base .m).cur = .core G 0 .m ∧ Runs (base .m) (sn [9]) 0 ∧ Runs (base .m) [.name (.slot 255)] 0 ∧
    (vget (base .m).quadThen.slot 0 {}).claimed = false ∧ (vget (armed { claimed := true }).quadThen.slot 0 {}).claimed = true ∧
    (vget (armed { claimed := true }).quadThen.slot 0 {}).readEnd ≤ (armed {}).ec ∧ (armed {}).ec < (vget (armed { claimed := true, fillEnd := 1 }).quadThen.slot 0 {}).fillEnd ∧
    (base .m).tileFree 0 = .ok () ∧ (base .m).mPtr (scr 0) 8192 = .ok () ∧ (((base .m).m.gang? G).bind (fun x => x.quads[0]?)).isSome = true :=
  ⟨by decide, by decide, by decide, by decide, by decide, by decide, by decide, rfl, rfl, by decide⟩
theorem witness_ArrayWords : let s := armed { claimed := true, tag := { tag := 5 } }
    Runs s [.name (.slot 0), .name (.slot 255)] 0 ∧ okPair s.mat.ta s.mat.tb = true ∧ tyBlock s.mat.tb.toNat = false ∧ s.quad.arrayEnd ≤ s.ec ∧
    s.tileFree 0 = .ok () ∧ (vget s.quad.slot 255 {}).fillEnd ≤ s.ec ∧ s.mat.leasec ≠ 0 ∧ (vget s.quadThen.slot 255 {}).claimed = true ∧
    (vget s.quadThen.slot 255 {}).tag.pending = false ∧ (vget s.quadThen.slot 255 {}).tag.tag = s.mat.tagm ∧ s.mat.tagm ≠ 0xFFFF :=
  ⟨by decide, by decide, by decide, by decide, rfl, by decide, by decide, by decide, by decide, by decide, by decide⟩
theorem witness_ArrayWords_stops : okPair (base .m).mat.ta (base .m).mat.tb = false ∧ (armed {}).ec < (1 : Nat) ∧
    (vget (armed {}).quadThen.slot 0 {}).claimed = false ∧ (vget (armed { claimed := true, tag := { pending := true } }).quadThen.slot 0 {}).tag.pending = true ∧
    (vget (armed { claimed := true, tag := { tag := 4 } }).quadThen.slot 0 {}).tag.tag ≠ (armed {}).mat.tagm ∧ (base .m).mat.leasec = 0 ∧
    (armed { claimed := true, tag := { tag := 5 } }).arrayCheck 0 false [0] = .ok () := ⟨by decide, by decide, by decide, by decide, by decide, by decide, rfl⟩
theorem witness_TileWords : Runs (base .m) [] 0 ∧ Runs (base .m) (sn [9]) 0 ∧ (base .m).mat.portEnd ≤ (base .m).ec ∧ (base .m).tileFree 7 = .ok () ∧
    (base .m).mPtr (scr 0) 16384 = .ok () ∧ (∃ e, (base .m).mPtr (scr 4) 16384 = .error e) ∧ vget (base .m).mat.tver 0 0 = vget (base .m).mat.texp 0 0 ∧
    ((base .m).m.core? G 0).isSome = true := ⟨by decide, by decide, by decide, rfl, rfl, ⟨_, rfl⟩, by decide, by decide⟩
/-- An open ladder of depth 2 with nothing in it. -/
def opened (one : BitVec 20) : State := onCore (base .m) (fun c => { c with mat := { c.mat with
  ladder := some { ptr := scr 0, n := 0, one := one, two := 0, depth := 2, spb := 0, ver := 0, delta := [], omega := [] } } })
theorem witness_LadderWords : Runs (base .m) (sn [9]) 0 ∧ Runs (base .m) [] 0 ∧ (base .m).mat.ladder = none ∧ (opened 0).mat.ladder ≠ none ∧
    (base .m).mat.portEnd ≤ (base .m).ec ∧ checkUse (base .m).m (base .m).cur .m (scr 0) 0 256 = .ok () ∧ ptrRank (scr 0) = 0 ∧
    ((opened 0).mat.ladder.map (·.stepOk)) = some true ∧ ((opened 0).mat.ladder.map (fun l => decide (l.d ≤ 6))) = some true ∧
    ((onCore (opened 0) (fun c => { c with mat := { c.mat with ladder := c.mat.ladder.map (fun l => { l with two := 2 }) } })).mat.ladder.map (·.stepOk)) = some false ∧ beyond (base .m).hdr 0 256 = false :=
  ⟨by decide, by decide, by decide, by decide, by decide, rfl, by decide, by decide, by decide, by decide, by decide⟩
/-- A scratchpad that begins with an LCB of a depth. -/
def described (d : Nat) : State := onCore (base .m) (fun c => { c with scr := Memory.write [] 0 (natLE 16 (d * 2 ^ 72)) })
theorem witness_LadderWords_opened :
    lopnFault (described 1).hdr (described 1).mat.close (scr 0) ((described 1).lcbRead 0 256 true).2 = none ∧
    lopnFault (described 0).hdr (described 0).mat.close (scr 0) ((described 0).lcbRead 0 256 false).2 = some 0x14 := by decide +kernel
theorem witness_LadderWords_others : ((onCore (described 1) (fun c => { c with worn := [3] })).mAcquire true).lcbSound 0 256 = false ∧
    ((described 1).mAcquire true).lcbSound 0 256 = true ∧ ptrRank (mkPtr 1 1 0) ≠ (two (base .m)).rank ∧
    checkUse (two (base .m)).m (two (base .m)).cur .m (mkPtr 1 1 0) 0 256 = .ok () ∧
    (let u := (onCore (opened 0) (fun c => { c with mat := { c.mat with texp := vset c.mat.texp 0 5 } })).mat
     vget u.tver 0 0 ≠ vget u.texp 0 0 ∧ u.ladder.map (·.stepOk) = some true) ∧
    (base .m).ec < (onCore (opened 0) (fun c => { c with mat := { c.mat with portEnd := 9 } })).mat.portEnd ∧
    checkUse (base .m).m (base .m).cur .m (mkPtr 1 2 0) 0 256 ≠ .ok () :=
  ⟨by decide +kernel, by decide +kernel, by decide, rfl, by decide, by decide, by intro h; cases h⟩
theorem witness_LadderDigits : ((opened 0).mat.ladder.map (fun l => decide (1 ≤ l.d) && decide (l.d ≤ 20) && l.ok && l.stepOk)) = some true := by decide
theorem witness_TransferConfiguration : (base .t).cur = .core G 0 .t ∧ Runs (base .t) (sn [9]) 0 ∧ Runs (base .t) [.name (.bar 255)] 0 := by decide
/-- One KiB to be copied within the scratchpad. -/
def copying : State := onCore (base .t) (fun c => { c with tset := { c.tset with src := scr 0, dst := scr 65536, ext := #v[256, 1, 1, 1], dty := 0, sty := 0 } })
theorem witness_TransferGoWords : Runs (base .t) [] 0 ∧ Runs (base .t) [.name (.grp 255)] 0 ∧ Runs (base .t) [.name (.slot 255)] 0 ∧
    Runs (base .t) (sn [9, 10]) 0 ∧ ((base .t).m.cmdsOf (.t (base .t).gno (base .t).rank)).length < 4 ∧
    (∃ t, copying.go .tcpy [] none = .ok t) ∧ (∃ e, (onCore copying (fun c => { c with tset := { c.tset with sty := 15 } })).go .tcpy [] none = .error e) ∧
    (∃ h, (paged (base .t) plainLeaf).kvHeader 65536 = .ok h) ∧ (∃ e, (base .t).kvHeader (scr 0) = .error e) :=
  ⟨by decide, by decide, by decide, by decide, by decide, ⟨_, rfl⟩, ⟨_, rfl⟩, ⟨_, rfl⟩, ⟨_, rfl⟩⟩
theorem witness_LoupeWords : (base .s).cur = .core G 0 .s ∧ (base .l).cur = .loupe 0 0 0 ∧ Runs (base .l) (sn [8, 9, 10]) 0 ∧
    (base .l).lready.lptr [2] 0x03 (mkPtr 2 0 0) 32 = .ok () ∧ (∃ e, (base .l).lready.lptr [2] 0x03 (scr 0) 16 = .error e) ∧ ptrOff (mkPtr 2 0 0) % 32 = 0 :=
  ⟨by decide, by decide, by decide, rfl, ⟨_, rfl⟩, by decide⟩

/-- A Loupe member whose partition begins with some bytes, with s8, s9 and s10 set. -/
def member (bytes : List Byte) (d q : Word) : State :=
  let s := withS (base .l) [(8, d), (9, mkPtr 2 0 0), (10, q)]
  { s with m := s.m.updCtx 0 0 0 (fun x => { x with mem := Memory.write [] 0 bytes }) }
def lpe (n : Nat) : Word := mkPtr 2 0 n
/-- A check that passes. -/
def fine {α : Type} (e : Except Stop α) : Bool := match e with | .ok _ => true | .error _ => false
/-- A descriptor of one row of 4 bytes. -/
def oneRow (dst : Word) : List Byte := natLE 8 (1 + 2 ^ 32) ++ natLE 8 (lpe 256).toNat ++ natLE 8 (lpe 512).toNat ++ natLE 8 dst.toNat
theorem witness_LoupeWords_lhash : let s := (member (natLE 8 1 ++ natLE 8 (lpe 4096).toNat) 0 0).lready
    let h := s.lread (lpe 0) 16
    fine (s.lptr [2] 0x03 (lpe 0) 16) = true ∧ fine (s.lfield [0, 2] (BitVec.ofNat 64 (descBits h 64 64)) 8 8) = true ∧ descBits h 7 57 = 0 ∧
    descBits h 0 6 = 1 ∧ fine (s.lprobes (BitVec.ofNat 64 (descBits h 64 64)) 0 1 8) = true := by decide +kernel
theorem witness_LoupeWords_lgath : let s := (member (oneRow (lpe 1024)) 0 0).lready
    let h := s.lread (lpe 0) 32
    fine (s.lptr [2] 0x03 (lpe 0) 32) = true ∧ fine (s.lfield [2] (rowDst h) (rowLen h * rowN h) 1) = true ∧ fine (s.lfield [0, 2] (rowBase h) 1 64) = true ∧
    fine (s.lfield [2] (rowList h) (4 * rowN h) 4) = true ∧ rowFieldsOk h = true ∧ (s.lindices h 0 (rowN h)).toOption = some [0] := by decide +kernel
theorem witness_LoupeWords_lpool : let s := (member (oneRow (lpe 1024) ++ natLE 4 0 ++ natLE 4 1) 0 (lpe 32)).lready
    let h := s.lread (lpe 0) 32
    fine (s.lptr [2] 0x03 (lpe 32) (4 * (rowN h + 1))) = true ∧ words4 (s.lread (lpe 32) (4 * (rowN h + 1))) = [0, 1] ∧
    fine (s.lfield [2] (rowDst h) (rowLen h * rowN h) 1) = true ∧ fine (s.lfield [2] (rowList h) 4 4) = true ∧ (s.lindices h 0 1).toOption = some [0] := by decide +kernel
theorem witness_LoupeWords_lscat : let s := (member (oneRow 0) 0 (lpe 2048)).lready
    let h := s.lread (lpe 0) 32
    fine (s.lptr [2] 0x03 (lpe 2048) (rowN h * rowLen h)) = true ∧ rowDst h = 0 ∧ fine (s.lfield [2] (rowList h) (4 * rowN h) 4) = true ∧
    rowFieldsOk h = true ∧ (s.lindices h 0 (rowN h)).toOption = some [0] := by decide +kernel
theorem witness_LoupeWords_lhand : let ctl : Word := BitVec.ofNat 64 (64 * 2 ^ 36)
    let s := (member [] ctl (scr 0)).lready
    s.m.gangOf (s.m.jobNo s.cur) (handGang ctl) = some G ∧ (s.m.gang? G).map (·.cores.length) = some 1 ∧ handNb ctl = 64 ∧ fld ctl 57 7 = 0 ∧
    fine (s.lptr [2] 0x03 (lpe 0) 64) = true ∧ handSco ctl = 0 ∧ handBen ctl = false ∧ handBid ctl = 0 ∧ beyond s.hdr 0 64 = false ∧
    fine (s.bindBar false 0) = true := by decide +kernel

theorem witness_OrderingEvents : let m := { (base .s).m with
      queue := [(7, { who := .agent (.core G 0 .s), vd := 0, cls := 0, seq := 0, op := .fence, loc := .dev 0 })]
      copies := [{ who := .agent (.core G 0 .s), gran := 3, va := 192, data := [] }] }
    (tget m.queue 7).any (fun q => !m.fresh.stalled q.loc q.op.size q.op.isStore q.walk && (m.fresh.blockers 7 q).isEmpty && !q.mayHurry) = true ∧
    m.copiesOf (.core G 0 .s) 3 ≠ [] := by decide
theorem witness_OrderingEvents_reply : let n := (base .s).m.newReply (.agent (base .s).cur) 0
    ((tget n.2.replies n.1).map (fun r => (r.missing, r.arrived, r.page))) = some (0, false, none) := by decide
theorem witness_OrderingEvents_bars : (tget ((grouped (base .s) {}).m.vd 0).bars 0).isSome = true ∧
    (let s := onJob (onVd (base .s) (fun v => { v with joins := [(0, { fin := false, arrived := [], closedAt := some 0 })] })) (fun j => { j with hdr := { j.hdr with ngrp := 1 } })
     (tget (s.m.vd 0).joins 0).bind (·.closedAt) = some 0 ∧
     (s.m.jobs.find? (fun p => p.2.vd == 0 && decide (p.2.grpBase ≤ 0) && decide (0 < p.2.grpBase + p.2.hdr.ngrp) && (p.2.st == .running || p.2.st == .stopped || p.2.st == .bound))).isSome = true) ∧
    (((onGang (base .s) (fun x => { x with causes := [{ kind := .lease 0 0 4, rank := 0, strm := .m, pc := 0, seq := 0, began := 0 }] })).m.gang? G).map
      (fun x => x.causes.any (fun c => c.kind == .lease 0 0 4) && (x.cores[0]?).isSome)) = some true := by decide

/-- Transfers new, done, failed and halted, and a Loupe command done. -/
def busy : Mach := { (base .t).m with cmds := [
  (1, { owner := .t G 0, op := .tcpy, vd := 0, job := G + 1, started := true }), (2, { owner := .t G 0, op := .tcpy, vd := 0, job := G + 1, units := 1 }),
  (3, { owner := .t G 0, op := .tcpy, vd := 0, job := G + 1, err := some (0x10, 0, 0) }),
  (4, { owner := .t G 0, op := .tcpy, vd := 0, job := G + 1, halted := some (0, true) }),
  (5, { owner := .l 0 0 0, op := .lhash 0 0, vd := 0, job := G + 1, started := true })] }
theorem witness_TransferEvents : ((tget busy.cmds 1).map (fun c => c.owner == .t G 0 && c.finished)) = some true ∧
    (busy.cmdsOf (.t G 0)).head?.map (·.1) = some 1 ∧ ((tget busy.cmds 2).map (fun c => !c.started && c.acq == 7 && c.err.isNone && c.units != 0)) = some true ∧
    ((tget busy.cmds 3).map (fun c => c.err.isSome)) = some true ∧ ((tget busy.cmds 4).map (fun c => c.halted == some (0, true))) = some true ∧
    ((tget busy.cmds 5).map (fun c => c.owner == .l 0 0 0 && c.finished)) = some true ∧
    ((busy.loupe? 0 0).map (fun l => decide (l.sliceEnd ≤ busy.dieCycles 0))) = some true := by decide
theorem witness_LaunchEvents : ((base .s).m.vd? 0).isSome = true ∧ (1 : BitVec 32) ≠ 0 ∧
    (let s := onGang (onJob (base .s) (fun j => { j with st := .bound })) (fun x => { x with run := .loaded })
     (s.m.job? (G + 1)).any (fun j => j.st == .bound && (s.m.boundOnly j).isEmpty && j.gangs.any (fun g => (s.m.gang? g).any (fun x => x.run == .loaded))) = true) ∧
    (let s := onGang (onJob (base .s) (fun j => { j with st := .bound })) (fun x => { x with run := .bound })
     (s.m.job? (G + 1)).any (fun j => j.isBound && j.st == .bound && !(s.m.boundOnly j).isEmpty && j.saved.isEmpty &&
       (s.m.boundOnly j).any (fun g => (s.m.gang? g).any s.m.recordBad))) = true ∧
    (let s := onGang (base .s) (fun x => { x with run := .bound })
     (s.m.job? (G + 1)).any (fun j => j.isBound && j.st != .bound && !(s.m.boundOnly j).isEmpty)) = true ∧
    ((base .s).m.gang? G).any (fun x => !x.resume) = true ∧ ((base .s).m.job? (G + 1)).any (fun j => decide (0 < j.hdr.gsize)) = true ∧
    (base .s).m.waitingBack 0 = [] ∧
    ({ (base .s).m with mgmt := { (base .s).m.mgmt with booted := true, hold := false } } : Mach).bindPaused 0 = false ∧
    (base .s).m.fresh.ranked 0 = [] := by decide
/-- A launch waits, with clusters and save areas free for it. -/
def waiting : Mach :=
  let m := ((base .s).m.dropGang G).updVd 0 (fun v => { v with launches := [G + 1], saveAreas := [0], clusters := [(0, 0)] })
  { m.updJob (G + 1) (fun j => { j with st := .queued, gangs := [], hdr := { j.hdr with ngang := 1, gsize := 1, nbar := 0, ngrp := 0 } }) with
    mgmt := { m.mgmt with booted := true } }
theorem witness_LaunchEvents_bind : waiting.bindPaused 0 = false ∧ (waiting.fresh.ranked 0).map (·.1) = [G + 1] ∧
    (waiting.fresh.ranked 0).map (fun p => (waiting.fresh.fits 0 p.2).isSome) = [true] := by decide +kernel
/-- The waiting launch where no cluster is owned; a gang whose bind record is sound. -/
theorem witness_LaunchEvents_waits : let m := waiting.updVd 0 (fun v => { v with clusters := [] })
    m.bindPaused 0 = false ∧ m.waitingBack 0 = [] ∧ (m.fresh.ranked 0).map (fun p => (m.fresh.fits 0 p.2).isNone) = [true] := by decide +kernel
theorem witness_LaunchEvents_sound :
    let s := onGang (onJob (base .s) (fun j => { j with st := .bound, saved := [(G, 0)] })) (fun x => { x with run := .bound })
    let m := s.m.updDie 0 (fun d => { d with slots := vset d.slots 0 { quads := 1, size := 0, valid := true } })
    (m.job? (G + 1)).any (fun j => j.st == .bound && !(m.boundOnly j).isEmpty && !j.saved.isEmpty &&
      !(m.boundOnly j).any (fun g => (m.gang? g).any m.recordBad)) = true := by decide
/-- A saved gang whose save area holds a codeword that cannot be corrected. -/
theorem witness_LaunchEvents_lost :
    let s := onGang (onJob (base .s) (fun j => { j with st := .bound })) (fun x => { x with run := .bound, resume := true })
    let m := s.m.updDie 0 (fun d => { d with slots := vset d.slots 0 { quads := 1, size := 0, valid := true } })
    let m : Mach := { m with faulty := ((m.gang? G).map (fun x => x.save.toNat / 64)).toList }
    (m.job? (G + 1)).any (fun j => j.st == .bound && !(m.boundOnly j).isEmpty &&
      !(m.boundOnly j).any (fun g => (m.gang? g).any m.recordBad) && m.imagesBad j (m.boundOnly j)) = true := by decide
theorem witness_StopEvents : let c : Cause := { kind := .checkpoint, rank := 0, strm := .s, pc := 0, seq := 0, began := 0 }
    oldestCause [c] = some c ∧
    ((onGang (base .s) (fun x => { x with causes := [{ c with kind := .version 0 }], frozen := 2 ^ 21 })).m.gang? G).any (fun x =>
      (onGang (base .s) (fun x => { x with causes := [{ c with kind := .version 0 }], frozen := 2 ^ 21 })).m.watchdog G x) = true ∧
    ((onGang (base .s) (fun x => { x with cyc := 2 ^ 24 })).m.gang? G).any (fun x =>
      x.run == .running && (onGang (base .s) (fun x => { x with cyc := 2 ^ 24 })).m.spacingMet G x) = true := by decide
theorem witness_StopEvents_stopped :
    ((onGang (base .s) (fun x => { x with run := .stopped, report := some { cause := 0x11, time := 0 } })).m.gang? G).any (fun x =>
      x.run == .stopped && !x.killed && x.report.any (fun r => resumable r.cause) && x.report.any (fun r => savable r.cause)) = true ∧
    ((base .s).m.job? (G + 1)).any (fun j => j.ending.isNone) = true ∧
    (((base .l).m.updCtx 0 0 0 (fun x => { x with run := .tlbi 0 })).ctx? 0 0 0).map (·.run) = some (.tlbi 0) ∧
    (((onGang (base .s) (fun x => { x with run := .stopped, report := some { cause := 0x11, time := 0 } })).m.job? (G + 1)).bind
      (onGang (base .s) (fun x => { x with run := .stopped, report := some { cause := 0x11, time := 0 } })).m.stopCause) = some 0x11 ∧
    ((({ (base .s).m with mgmt := { (base .s).m.mgmt with notices := [.page 9 0 false 0 (.agent (.core G 0 .s)) 0] } } : Mach).mgmt.notices.find? (Notice.isPage 9)).isSome) = true ∧
    (((onGang (base .s) (fun x => { x with haltAt := some 0 })).m.gang? G).bind (·.haltAt)) = some 0 ∧
    ([({ kind := .tlbi 0, rank := 0, strm := .s, pc := 0, seq := 0, began := 0 } : Cause)].find? (fun c => c.rank == 0 && (c.kind.tlbi?).isSome)).isSome = true := by decide
theorem witness_StopEvents_kept : let m := (onJob (base .s) (fun j => { j with kept := [G + 9], saved := [(G + 9, 0)] })).m
    m.gang? (G + 9) = none ∧ (m.jobs.find? (fun p => p.2.kept.contains (G + 9))).any (fun p => p.2.ending.isNone && (tget p.2.saved (G + 9)).isSome) = true := by
  decide
theorem witness_SaveEvents : ((base .s).m.job? (G + 1)).any Job.isBound = true ∧
    (let c : Cause := { kind := .yieldHold, rank := 0, strm := .s, pc := 0, seq := 0, began := 0 }
     let s := onGang (base .s) (fun x => { x with run := .yielded, causes := [c] })
     ((s.m.job? (G + 1)).any (fun j => s.m.allStand j && j.gangs.any (fun g => (s.m.gang? g).any Gang.isHeld))) = true) ∧
    (let s := onGang (base .s) (fun x => { x with run := .yielded, quads := [], cores := [], wrote := some 640 })
     (s.m.gang? G).any (fun x => x.run == .yielded && x.wrote.isSome && (s.m.job? x.job).any (fun j => (s.m.savePiece x { j with loupes := [] }).isNone && j.ending.isNone)) = true) ∧
    (let s := onGang (base .s) (fun x => { x with run := .draining .check, pck := some 65536, quads := [], cores := [], wrote := some 640 })
     s.m.drained G = true ∧ (s.m.gang? G).any (fun x => x.pck.isSome && x.wrote.isSome && !(x.causes.any (fun c => c.kind.isPage)) &&
       (s.m.job? x.job).any (fun j => (s.m.checkPiece x j).isNone)) = true) := by decide
/-- A checkpoint whose first piece is written where nothing is mapped, or past the end of the address space. -/
theorem witness_SaveEvents_fault : let b : Piece := { off := 0, bytes := [] }
    (match (base .s).m.writeThrough 0 65536 b with | .error (c, _) => c == 0x04 | .ok _ => false) = true ∧
    (match (base .s).m.writeThrough 0 (BitVec.ofNat 64 (2 ^ 54 - 64)) b with | .error (c, _) => c == 0x03 | .ok _ => false) = true ∧
    (let s := onGang (base .s) (fun x => { x with run := .draining .check, pck := some 65536, quads := [], cores := [], wrote := some 0 })
     (s.m.gang? G).any (fun x => (s.m.job? x.job).any (fun j => (s.m.checkPiece x j).any (fun b =>
       match s.m.writeThrough 0 65536 b with | .error (c, _) => c == 0x04 | .ok _ => false))) = true) := by decide +kernel

/-- A command in a queue of one entry. -/
def queued (q : CmdQueue) (opc : Byte) : Mach :=
  match q with
  | .mctp => { (base .s).m with mgmt := { (base .s).m.mgmt with mctpIn := [(opc, [])] } }
  | .phys => { (base .s).m with host := Memory.write [] 4096 [opc], mgmt := { (base .s).m.mgmt with qbase := 4096, qsize := 2, qhead := 0, qtail := 1 } }
  | .vf v => { (base .s).m.updVd v (fun d => { d with qbase := 4096, qsize := 2, qhead := 0, qtail := 1 }) with host := Memory.write [] 4096 [opc] }
theorem witness_QueueCommands : (List.range 13).all (fun k => (((queued .phys (BitVec.ofNat 8 (k + 1))).headCmd .phys).map (·.opc)) == some (k + 1)) = true ∧
    (List.range 13).all (fun k => (((queued (.vf 0) (BitVec.ofNat 8 (k + 1))).headCmd (.vf 0)).map (·.opc)) == some (k + 1)) = true ∧
    (List.range 13).all (fun k => (((queued .mctp (BitVec.ofNat 8 (k + 1))).headCmd .mctp).map (·.opc)) == some (k + 1)) = true ∧
    Memory.wf (queued .phys 1).host = true := by decide +kernel
/-- A queue of the physical function with a VD-CREATE, on a booted package with no virtual device. -/
theorem witness_QueueCommands_create : let m := { queued .phys 5 with vds := [], mgmt := { (queued .phys 5).mgmt with booted := true } }
    (m.headCmd .phys).map (·.opc) = some 5 ∧ (m.fresh.popCmd .phys).mgmt.booted = true ∧ (m.fresh.popCmd .phys).vd? 0 = none ∧
    (m.fresh.popCmd .phys).vds = [] := by decide +kernel
theorem witness_QueueCommands_wakes : ((queued (.vf 0) 8).headCmd (.vf 0)).map HostCmd.target = some 0 ∧
    ((queued (.vf 0) 8).vd 0).wperm.getLsbD 0 = false ∧ (((queued (.vf 0) 8).updVd 0 (fun v => { v with wperm := 1 })).vd 0).wperm.getLsbD 0 = true ∧
    ((queued .phys 6).fresh.popCmd .phys).vds ≠ [] ∧ ((queued .phys 6).vd? 0).map (·.closing) = some none ∧
    (((queued .phys 6).updVd 0 (fun v => { v with closing := some ⟨.phys, 0⟩ })).vd? 0).any (fun v => v.closing.isSome) = true ∧
    ((queued .phys 6).vd? 5) = none ∧ ((queued .phys 7).vd? 0).map (·.st) = some .active := by decide +kernel
theorem witness_PowerAndSleepEvents : ((base .s).m.cluster? 0 0).isSome = true ∧ (base .s).m.time = (base .s).m.frameTime 0 ((base .s).m.frameNo 0) ∧
    ((15 : BitVec 4) - 1 < 15) ∧ (base .s).m.mgmt.capSeq = none ∧ (1 ≤ ((1 : BitVec 32) - 0).toNat ∧ ((1 : BitVec 32) - 0).toNat < 2 ^ 31) ∧
    (base .s).m.gangs.all (fun p => p.2.die != 1) = true ∧ ((base .s).m.vd? 0).isSome = true ∧
    (onJob (base .s) (fun j => { j with st := .saved })).m.isIdle 0 = true := by decide
/-- A write of QTAIL by the host, of a virtual device that is not active, and of one that is. -/
theorem witness_PowerAndSleepEvents_outside : let acc : OutsideAccess := { who := .host, write := true, pa := regSpace, data := natLE 8 0 }
    (base .s).m.reaches 0 acc = true ∧ (base .s).m.holdsOut 0 acc = false ∧
    (onVd (base .s) (fun v => { v with st := .dormant })).m.reaches 0 acc = true ∧
    (onVd (base .s) (fun v => { v with st := .dormant })).m.holdsOut 0 acc = true ∧
    (onVd (base .s) (fun v => { v with st := .waking })).m.vds.all (fun p => p.2.heldAcc.isEmpty) = true := by decide
theorem witness_PowerAndSleepEvents_steps :
    ((onJob (onVd (base .s) (fun v => { v with st := .collapsing, step := 1, wake := 1 })) (fun j => { j with st := .saved })).m.jobsOf 0).all (fun p => !p.2.isBound) = true ∧
    ((onVd (base .s) (fun v => { v with st := .collapsing, step := 2 })).m.vd? 0).any (fun v => v.step == 2 && v.wakeAt.isNone && v.closing.isNone &&
      v.clusters.all (fun (d, k) => ((base .s).m.cluster? d k).all (fun c => c.ballast.isNone))) = true ∧
    ((onVd (base .s) (fun v => { v with st := .collapsing, step := 3 })).m.vd? 0).map (fun v => (v.st, v.step, v.wakeAt)) = some (.collapsing, 3, none) ∧
    ({ State.reset.m.mgmt with booted := true } : Mgmt).booted = true ∧ ({ State.reset.m.mgmt with booted := false } : Mgmt).capSeq = none ∧
    (base .s).m.gangs.any (fun p => p.2.die == 0) = true ∧ ({ (base .s).m with time := 2 ^ 20 } : Mach).dieCycles 0 = 2 ^ 20 ∧
    ((onVd (base .s) (fun v => { v with st := .waking, step := 2 })).m.vd? 0).map (fun v => (v.st, v.step)) = some (.waking, 2) ∧
    ((onVd (base .s) (fun v => { v with st := .waking })).m.vd? 0).map (fun v => (v.st, v.step)) = some (.waking, 1) ∧
    ((onVd (base .s) (fun v => { v with st := .dormant, closing := some ⟨.phys, 0⟩ })).m.vd 0).closing.isSome = true := by decide
/-- A failed transfer that is the first of its channel, and the last retry of one. -/
def badLink (retry : BitVec 2) : LinkFault := { die := 0, layer := 0, chan := 1, group := 4, beat := 0, retry := retry }
theorem witness_HealthErrorsAndReset_links : (base .s).m.linkNext (badLink 0) = true ∧
    ({ (base .s).m with links := [(badLink 2, 0)] } : Mach).linkNext (badLink 3) = true := by decide
theorem witness_HealthErrorsAndReset_trapped : let m := { (base .s).m with io := { (base .s).m.io with monitor := [3] }, mgmt := { (base .s).m.mgmt with mirror := some mirror0 } }
    m.io.monitor.contains (200 / 64) = true ∧ m.mgmt.mirror = some mirror0 ∧ mirror0.twin (200 / 64 * 64) = some (2 ^ 45 + 192) ∧
    m.faulty.contains ((2 ^ 45 + 192) / 64) = false ∧ ({ m with faulty := [(2 ^ 45 + 192) / 64] } : Mach).faulty.contains ((2 ^ 45 + 192) / 64) = true ∧
    m.mgmt.remaps = [] ∧ ((base .s).m.gang? G).any (fun x => ((base .s).m.cluster? x.die x.cluster).isSome) = true := by decide
theorem witness_HealthErrorsAndReset : (State.reset.m.mgmt.hold = false ∨ State.reset.m.mgmt.hold = true) ∧
    ({ State.reset.m.mgmt with hold := true } : Mgmt).hold = true ∧ ({ State.reset.m.mgmt with hold := false } : Mgmt).dead = false ∧
    laneIn 4 140 = true ∧ State.reset.m.mgmt.swaps = [] ∧ State.reset.m.mgmt.remaps = [] ∧
    (mirror0.twin 65535).isSome = true ∧ mirror0.twin 65536 = none ∧ (0 : Nat) + 2000 * mcPerMs ≤ 7200000000 ∧ ((base .s).m.core? G 0).isSome = true := by decide

end Sys2Proof.Tests
end

section
/-! PROOFS. That every memory is in canonical form (R3; log entry 5) after reset and is kept so by every step, and that a read gives
what was last written. `Canon` says of each part of the package that its memories are in canonical form; each function of the model
that a step goes through has a lemma that it keeps `Canon`, in the order of the model's own text. -/
namespace Sys2Proof.Machine

-- One thread: the text is long, and every thread takes a share of the memory it may use.
set_option Elab.async false

section

/-! # The canonical form of each part of the package (R3; log entry 5) -/

/-! ## Tables, vectors and lists -/

/-- What holds of every entry of a table. -/
def Tab.Each {α : Type} (P : α → Prop) (t : Tab α) : Prop := ∀ p ∈ t, P p.2

section
variable {α : Type} {P : α → Prop}

theorem Tab.Each.nil : Tab.Each P ([] : Tab α) := by simp [Tab.Each]

theorem Tab.Each.cons {k : Nat} {a : α} {t : Tab α} (ha : P a) (h : Tab.Each P t) : Tab.Each P ((k, a) :: t) := by
  intro p hp
  rcases List.mem_cons.mp hp with rfl | hp
  · exact ha
  · exact h p hp

theorem Tab.Each.append {t u : Tab α} (h : Tab.Each P t) (hu : Tab.Each P u) : Tab.Each P (t ++ u) := by
  intro p hp
  rcases List.mem_append.mp hp with hp | hp
  · exact h p hp
  · exact hu p hp

theorem Tab.Each.filter {t : Tab α} (f : Nat × α → Bool) (h : Tab.Each P t) : Tab.Each P (t.filter f) :=
  fun p hp => h p (List.mem_filter.mp hp).1

theorem Tab.Each.tdel {t : Tab α} {k : Nat} (h : Tab.Each P t) : Tab.Each P (tdel t k) := h.filter _

theorem Tab.Each.of_tget {t : Tab α} {k : Nat} {a : α} (h : Tab.Each P t) (ha : tget t k = some a) : P a := by
  induction t with
  | nil => cases ha
  | cons p t ih =>
    obtain ⟨j, b⟩ := p
    simp only [tget] at ha
    split at ha
    · exact Option.some.inj ha ▸ h (j, b) (by simp)
    · exact ih (fun q hq => h q (List.mem_cons_of_mem _ hq)) ha

theorem Tab.Each.tset {t : Tab α} {k : Nat} {a : α} (h : Tab.Each P t) (ha : P a) : Tab.Each P (tset t k a) := by
  induction t with
  | nil => exact Tab.Each.nil.cons ha
  | cons p t ih =>
    obtain ⟨j, b⟩ := p
    have ht : Tab.Each P t := fun q hq => h q (List.mem_cons_of_mem _ hq)
    simp only [Machine.tset]
    split
    · exact ht.cons ha
    · exact (ih ht).cons (h (j, b) (by simp))

theorem Tab.Each.tupd {t : Tab α} {k : Nat} {f : α → α} (h : Tab.Each P t) (hf : ∀ a, P a → P (f a)) :
    Tab.Each P (tupd t k f) := by
  unfold Machine.tupd
  split
  · exact h
  · next ha => exact h.tset (hf _ (h.of_tget ha))

theorem forall_mem_vupd {n i : Nat} {v : Vector α n} {f : α → α} (h : ∀ a ∈ v, P a) (hf : ∀ a, P a → P (f a)) :
    ∀ a ∈ vupd v i f, P a := by
  unfold vupd
  split
  · exact h
  · next b hb =>
    intro a ha
    obtain ⟨j, hj, rfl⟩ := Vector.mem_iff_getElem.mp ha
    rw [Vector.getElem_setIfInBounds]
    split
    · exact hf b (h b (Vector.mem_of_getElem? hb))
    · exact h _ (Vector.getElem_mem _)

theorem forall_mem_modify {i : Nat} {l : List α} {f : α → α} (h : ∀ a ∈ l, P a) (hf : ∀ a, P a → P (f a)) :
    ∀ a ∈ l.modify i f, P a := by
  intro a ha
  obtain ⟨j, hj, rfl⟩ := List.mem_iff_getElem.mp ha
  rw [List.getElem_modify]
  split
  · exact hf _ (h _ (List.getElem_mem _))
  · exact h _ (List.getElem_mem _)

/-- What holds of a part of a pair, once the pair has been taken apart. -/
theorem of_fst {β : Type} {p : α × β} {a : α} {b : β} (e : p = (a, b)) (h : P p.1) : P a := by
  subst e
  exact h

theorem of_snd {β : Type} {p : β × α} {a : α} {b : β} (e : p = (b, a)) (h : P p.2) : P a := by
  subst e
  exact h

theorem ite_keeps {p : Prop} [Decidable p] {a b : α} (ha : P a) (hb : P b) : P (if p then a else b) :=
  iteInduction (fun _ => ha) fun _ => hb

/-- What holds of the start and is kept by each round of a fold holds of its end. -/
theorem foldl_keeps {β : Type} {f : α → β → α} {a : α} {l : List β} (h : P a) (hf : ∀ a b, P a → P (f a b)) : P (l.foldl f a) :=
  List.foldlRecOn l f h fun a ha b _ => hf a b ha

end

/-! ## The predicates -/

/-- The scratchpad of a core is in canonical form. -/
structure Core.Canon (c : Core) : Prop where
  scr : Memory.wf c.scr = true

/-- The scratchpads of a gang are. -/
structure Gang.Canon (x : Gang) : Prop where
  cores : ∀ c ∈ x.cores, c.Canon

/-- The partition of a Loupe context is. -/
structure LoupeCtx.Canon (x : LoupeCtx) : Prop where
  mem : Memory.wf x.mem = true

/-- The partitions of a Loupe core are. -/
structure LoupeCore.Canon (l : LoupeCore) : Prop where
  ctxs : ∀ x ∈ l.ctxs, x.Canon

/-- The scratchpad of a core that no gang holds is. -/
structure CoreSram.Canon (x : CoreSram) : Prop where
  scr : Memory.wf x.scr = true

/-- The scratchpads of a cluster that no gang holds are. -/
structure Cluster.Canon (c : Cluster) : Prop where
  sram : Tab.Each CoreSram.Canon c.sram

/-- The partitions and the free scratchpads of a die are. -/
structure Die.Canon (d : Die) : Prop where
  loupes : ∀ l ∈ d.loupes, l.Canon
  clusters : ∀ c ∈ d.clusters, c.Canon

/-- Every memory of the package is in canonical form. -/
structure Mach.Canon (m : Mach) : Prop where
  dev : Memory.wf m.dev = true
  host : Memory.wf m.host = true
  gangs : Tab.Each Gang.Canon m.gangs
  dies : ∀ d ∈ m.dies, d.Canon

/-- The same of a state, and of the package its ec began with. -/
structure State.Canon (s : State) : Prop where
  m : s.m.Canon
  before : ∀ i, s.iss = some i → i.before.Canon

theorem Gang.canon_iff (x : Gang) : x.Canon ↔ x.memoriesWf = true := by
  have (c : Core) : c.Canon ↔ Memory.wf c.scr = true := ⟨Core.Canon.scr, Core.Canon.mk⟩
  simp only [Gang.memoriesWf, List.all_eq_true, ← this]
  exact ⟨Gang.Canon.cores, Gang.Canon.mk⟩

theorem Die.canon_iff (d : Die) : d.Canon ↔
    (∀ l ∈ d.loupes, ∀ x ∈ l.ctxs, Memory.wf x.mem = true) ∧ ∀ c ∈ d.clusters, ∀ p ∈ c.sram, Memory.wf p.2.scr = true :=
  ⟨fun h => ⟨fun l hl x hx => ((h.loupes l hl).ctxs x hx).mem, fun c hc p hp => ((h.clusters c hc).sram p hp).scr⟩,
    fun ⟨hl, hc⟩ => ⟨fun l h => ⟨fun x hx => ⟨hl l h x hx⟩⟩, fun c h => ⟨fun p hp => ⟨hc c h p hp⟩⟩⟩⟩

theorem Mach.canon_iff (m : Mach) : m.Canon ↔ m.memoriesWf = true := by
  simp only [Mach.memoriesWf, Bool.and_eq_true, List.all_eq_true, Vector.mem_toList_iff, ← Gang.canon_iff, ← Die.canon_iff]
  exact ⟨fun h => ⟨⟨⟨h.dev, h.host⟩, h.gangs⟩, h.dies⟩, fun ⟨⟨⟨hdev, hhost⟩, hgangs⟩, hdies⟩ => ⟨hdev, hhost, hgangs, hdies⟩⟩

theorem State.canon_iff (s : State) : s.Canon ↔ s.memoriesWf = true := by
  have : s.Canon ↔ s.m.Canon ∧ ∀ i, s.iss = some i → i.before.Canon := ⟨fun h => ⟨h.m, h.before⟩, fun h => ⟨h.1, h.2⟩⟩
  rw [this, State.memoriesWf, Bool.and_eq_true, Mach.canon_iff]
  cases s.iss <;> simp [Mach.canon_iff]

/-! ## What leaves every memory as it was

`h.congr` is the canonical form of a part whose memories are those of a canonical one, whatever else has changed. -/

theorem Core.Canon.congr {c d : Core} (h : c.Canon) (hs : d.scr = c.scr := by rfl) : d.Canon := ⟨hs ▸ h.scr⟩

theorem Gang.Canon.congr {x y : Gang} (h : x.Canon) (hc : y.cores = x.cores := by rfl) : y.Canon := ⟨hc ▸ h.cores⟩

theorem LoupeCtx.Canon.congr {x y : LoupeCtx} (h : x.Canon) (hm : y.mem = x.mem := by rfl) : y.Canon := ⟨hm ▸ h.mem⟩

theorem LoupeCore.Canon.congr {k l : LoupeCore} (h : k.Canon) (hc : l.ctxs = k.ctxs := by rfl) : l.Canon := ⟨hc ▸ h.ctxs⟩

theorem CoreSram.Canon.congr {x y : CoreSram} (h : x.Canon) (hs : y.scr = x.scr := by rfl) : y.Canon := ⟨hs ▸ h.scr⟩

theorem Cluster.Canon.congr {c d : Cluster} (h : c.Canon) (hs : d.sram = c.sram := by rfl) : d.Canon := ⟨hs ▸ h.sram⟩

theorem Die.Canon.congr {d e : Die} (h : d.Canon) (hl : e.loupes = d.loupes := by rfl) (hc : e.clusters = d.clusters := by rfl) :
    e.Canon := ⟨hl ▸ h.loupes, hc ▸ h.clusters⟩

section
variable {m m' : Mach}

theorem Mach.Canon.congr (h : m.Canon) (hdev : m'.dev = m.dev := by rfl) (hhost : m'.host = m.host := by rfl)
    (hgangs : m'.gangs = m.gangs := by rfl) (hdies : m'.dies = m.dies := by rfl) : m'.Canon :=
  ⟨hdev ▸ h.dev, hhost ▸ h.host, hgangs ▸ h.gangs, hdies ▸ h.dies⟩

theorem Mach.Canon.ite {p : Prop} [Decidable p] (h : m.Canon) (h' : m'.Canon) : (if p then m else m').Canon := ite_keeps h h'

theorem Mach.Canon.foldl {α : Type} {f : Mach → α → Mach} {l : List α} (h : m.Canon) (hf : ∀ m a, m.Canon → (f m a).Canon) :
    (l.foldl f m).Canon := foldl_keeps h hf

/-! ## Parts changed -/

theorem Gang.Canon.updCore {x : Gang} {r : Nat} {f : Core → Core} (h : x.Canon) (hf : ∀ c, c.Canon → (f c).Canon) :
    (x.updCore r f).Canon := ⟨forall_mem_modify h.cores hf⟩

theorem Mach.Canon.updGang {g : Nat} {f : Gang → Gang} (h : m.Canon) (hf : ∀ x, x.Canon → (f x).Canon) : (m.updGang g f).Canon :=
  ⟨h.dev, h.host, h.gangs.tupd hf, h.dies⟩

theorem Mach.Canon.updCore {g r : Nat} {f : Core → Core} (h : m.Canon) (hf : ∀ c, c.Canon → (f c).Canon) : (m.updCore g r f).Canon :=
  h.updGang fun _ hx => hx.updCore hf

theorem Mach.Canon.updJob {j : Nat} {f : Job → Job} (h : m.Canon) : (m.updJob j f).Canon := h.congr

theorem Mach.Canon.updVd {v : Nat} {f : VDev → VDev} (h : m.Canon) : (m.updVd v f).Canon := h.congr

theorem Mach.Canon.updDie {d : Nat} {f : Die → Die} (h : m.Canon) (hf : ∀ d, d.Canon → (f d).Canon) : (m.updDie d f).Canon :=
  ⟨h.dev, h.host, h.gangs, forall_mem_vupd h.dies hf⟩

theorem Mach.Canon.updCluster {d k : Nat} {f : Cluster → Cluster} (h : m.Canon) (hf : ∀ c, c.Canon → (f c).Canon) :
    (m.updCluster d k f).Canon := h.updDie fun _ hx => ⟨hx.loupes, forall_mem_vupd hx.clusters hf⟩

theorem Mach.Canon.updLoupe {d i : Nat} {f : LoupeCore → LoupeCore} (h : m.Canon) (hf : ∀ l, l.Canon → (f l).Canon) :
    (m.updLoupe d i f).Canon := h.updDie fun _ hx => ⟨forall_mem_vupd hx.loupes hf, hx.clusters⟩

theorem Mach.Canon.updCtx {d i c : Nat} {f : LoupeCtx → LoupeCtx} (h : m.Canon) (hf : ∀ x, x.Canon → (f x).Canon) :
    (m.updCtx d i c f).Canon := h.updLoupe fun _ hx => ⟨forall_mem_modify hx.ctxs hf⟩

theorem Mach.Canon.updSeq {a : Agent} {f : Seq → Seq} (h : m.Canon) : (m.updSeq a f).Canon := by
  cases a with
  | core g r st => exact h.updCore fun _ hc => hc.congr
  | loupe d i c => exact h.updCtx fun _ hx => hx.congr

/-! ## Parts found -/

theorem Mach.Canon.gang? {g : Nat} {x : Gang} (h : m.Canon) (hx : m.gang? g = some x) : x.Canon := h.gangs.of_tget hx

theorem Mach.Canon.cluster? {d k : Nat} {c : Cluster} (h : m.Canon) (hc : m.cluster? d k = some c) : c.Canon := by
  obtain ⟨x, hx, hc⟩ := Option.bind_eq_some_iff.mp hc
  exact (h.dies x (Vector.mem_of_getElem? hx)).clusters c (Vector.mem_of_getElem? hc)

end

end

section

/-! # Reset, and what a read gives after a write (R3) -/

/-! ## Little-endian bytes -/

theorem natLE_length (n x : Nat) : (natLE n x).length = n := by
  induction n generalizing x with
  | zero => rfl
  | succ n ih => simp [natLE, ih]

theorem leNat_natLE (n x : Nat) : leNat (natLE n x) = x % 2 ^ (8 * n) := by
  induction n generalizing x with
  | zero => simp [natLE, leNat, Nat.mod_one]
  | succ n ih =>
    rw [natLE, leNat, ih, show 2 ^ (8 * (n + 1)) = 2 ^ 8 * 2 ^ (8 * n) by rw [← pow_add]; ring_nf, Nat.mod_mul]
    simp

/-! ## Bytes at offsets -/

theorem Memory.writeAt_zipIdx (bs : List Byte) (mem : Memory) (a k : Nat) :
    Memory.writeAt mem a ((bs.zipIdx k).map fun p => (p.2, p.1)) = Memory.write mem (a + k) bs := by
  induction bs generalizing mem k with
  | nil => rfl
  | cons b bs ih => exact ih (Memory.set mem (a + k) b) (k + 1)

/-- A byte string written at its offsets is written from the address on. -/
theorem Memory.writeAt_offs (mem : Memory) (a : Nat) (bs : List Byte) : Memory.writeAt mem a (offs bs) = Memory.write mem a bs :=
  Memory.writeAt_zipIdx bs mem a 0

theorem offset_lt_of_mem_offs {bs : List Byte} {p : Nat × Byte} (h : p ∈ offs bs) : p.1 < bs.length := by
  obtain ⟨⟨b, i⟩, hb, rfl⟩ := List.mem_map.mp h
  simpa using (List.mem_zipIdx hb).2.1

/-- Bytes written elsewhere do not change what a range reads. -/
theorem Memory.read_writeAt_ne {mem : Memory} {a o n : Nat} {data : List (Nat × Byte)}
    (h : ∀ i < n, ∀ p ∈ data, a + i ≠ o + p.1) : Memory.read (Memory.writeAt mem o data) a n = Memory.read mem a n :=
  List.map_congr_left fun i hi => Memory.get_writeAt_ne data mem o (a + i) (h i (List.mem_range.mp hi))

/-- The mirror copy of a byte lies two dies away, beyond the range the byte is written in. -/
theorem Mirror.twin_ne {r : Mirror} {pa n o i t : Nat} (hn : n ≤ 2 ^ 44) (ho : o < n) (hi : i < n) (ht : r.twin (pa + o) = some t) :
    pa + i ≠ t := by
  unfold Mirror.twin at ht
  split at ht
  · next h =>
    obtain ⟨hdie, -, -⟩ := h
    obtain rfl := Option.some.inj ht
    omega
  · cases ht

theorem Mach.read_devStore {m : Mach} {pa : Nat} {bs : List Byte} (h : Memory.wf m.dev = true) (hn : bs.length ≤ 2 ^ 44) :
    Memory.read (m.devStore pa (offs bs)).dev pa bs.length = bs := by
  unfold Mach.devStore
  extract_lets twins
  have htwins : ∀ i < bs.length, ∀ p ∈ twins, pa + i ≠ 0 + p.1 := by
    intro i hi p hp
    unfold twins at hp
    split at hp
    · cases hp
    · obtain ⟨⟨o, b⟩, hq, hp⟩ := List.mem_filterMap.mp hp
      obtain ⟨t, ht, rfl⟩ := Option.map_eq_some_iff.mp hp
      simpa using Mirror.twin_ne hn (offset_lt_of_mem_offs hq) hi ht
  rw [Memory.read_writeAt_ne htwins, Memory.writeAt_offs, Memory.read_write bs m.dev pa h]

/-! ## A write to a scratchpad, seen from any core -/

theorem Mach.core?_updCore_ne (m : Mach) {g r h k : Nat} (f : Core → Core) (hne : (h, k) ≠ (g, r)) :
    (m.updCore g r f).core? h k = m.core? h k := by
  by_cases hg : h = g
  · subst hg
    exact m.core?_updCore_rank h r k f fun e => hne (e ▸ rfl)
  · exact m.core?_updCore_gang g h r k f hg

theorem Mach.get_writeLoc_scr {m : Mach} {g r o : Nat} {data : List (Nat × Byte)} {h k n : Nat}
    (hne : (h, k) ≠ (g, r) ∨ ∀ p ∈ data, n ≠ o + p.1) :
    ((m.writeLoc (.scr g r o) data).core? h k).map (fun c => Memory.get c.scr n) =
      (m.core? h k).map (fun c => Memory.get c.scr n) := by
  unfold Mach.writeLoc
  by_cases e : (h, k) = (g, r)
  · obtain ⟨rfl, rfl⟩ := Prod.mk.inj e
    rw [Mach.core?_updCore_self, Option.map_map]
    congr 1
    funext c
    exact Memory.get_writeAt_ne data c.scr o n (hne.resolve_left fun hn => hn e)
  · rw [m.core?_updCore_ne _ e]

/-! ## The statements -/

theorem State.Canon.reset : State.reset.Canon := by
  refine ⟨⟨rfl, rfl, Tab.Each.nil, fun d hd => ?_⟩, fun _ h => nomatch h⟩
  obtain rfl := Vector.eq_of_mem_replicate hd
  refine ⟨fun l hl => ?_, fun c hc => ?_⟩
  · obtain rfl := Vector.eq_of_mem_replicate hl
    exact ⟨fun _ h => nomatch h⟩
  · obtain rfl := Vector.eq_of_mem_replicate hc
    exact ⟨Tab.Each.nil⟩

/-- Settles O5: no memory lists a byte after reset. -/
theorem resetMemoriesCanonical : Obligations.ResetMemoriesCanonical := (State.canon_iff _).mp State.Canon.reset

/-- Settles O25: the bytes of a number are written and read in the same order, a write of a byte leaves every other, and the
mirror copies of a device store lie two dies away from the bytes it writes. -/
theorem readAfterWrite : Obligations.ReadAfterWrite := by
  refine ⟨fun mem a n x h => ?_, fun mem a bs k => Memory.get_write_ne bs mem a k,
    fun _ _ _ _ _ _ _ _ _ => Mach.get_writeLoc_scr, ?_⟩
  · have := Memory.read_write (natLE n x) mem a h
    rw [natLE_length] at this
    rw [this, leNat_natLE]
  · rintro m l n hdev hhost (⟨pa, rfl⟩ | ⟨a, rfl⟩) hn bs rfl
    · exact Mach.read_devStore hdev hn
    · show Memory.read (Memory.writeAt m.host a (offs bs)) a bs.length = bs
      rw [Memory.writeAt_offs, Memory.read_write bs m.host a hhost]

end

section

/-! # Shared operations of the package -/

variable {m m' : Mach}

/-! ## Results landing in a core -/

theorem Core.write_scr (c : Core) (w : Write) : (c.write w).scr = c.scr := by cases w <;> rfl

theorem Core.Canon.write {c : Core} {w : Write} (h : c.Canon) : (c.write w).Canon := h.congr (c.write_scr w)

theorem Core.Canon.land {c : Core} {p : Pend} (h : c.Canon) : (c.land p).Canon := by
  have hw : (p.writes.foldl Core.write c).Canon := foldl_keeps h fun _ _ => Core.Canon.write
  unfold Core.land
  extract_lets
  split
  · exact hw.congr
  · split <;> exact hw.congr

theorem Core.Canon.groupSwitch {c : Core} {st : Stream} (h : c.Canon) : (c.groupSwitch st).Canon := by
  unfold Core.groupSwitch
  extract_lets
  split <;> exact h.congr

/-! ## Bookkeeping -/

theorem Mach.Canon.fresh (h : m.Canon) : m.fresh.Canon := h.congr
theorem Mach.Canon.schedule {clk : Clock} {at_ : Nat} {ev : Instr} (h : m.Canon) : (m.schedule clk at_ ev).Canon := h.congr
theorem Mach.Canon.scheduleDrawn {k : Nat} {ev : Instr} (h : m.Canon) : (m.scheduleDrawn k ev).Canon := h.congr
theorem Mach.Canon.notify {n : Notice} (h : m.Canon) : (m.notify n).Canon := h.congr
theorem Mach.Canon.newId (h : m.Canon) : m.newId.2.Canon := h.congr
theorem Mach.Canon.walksOf {k : Mach} (h : m.Canon) : (m.walksOf k).Canon := h.congr

/-! ## Device memory, host memory, walks -/

theorem Mach.Canon.devStore {pa : Nat} {data : List (Nat × Byte)} (h : m.Canon) : (m.devStore pa data).Canon :=
  ⟨Memory.wf_writeAt _ _ _ (Memory.wf_writeAt _ _ _ h.dev), h.host, h.gangs, h.dies⟩

theorem Mach.Canon.hostStore {a : Nat} {data : List (Nat × Byte)} (h : m.Canon) :
    ({ m with host := Memory.writeAt m.host a data } : Mach).Canon :=
  ⟨h.dev, Memory.wf_writeAt _ _ _ h.host, h.gangs, h.dies⟩

theorem Mach.Canon.trap {l : List Nat} (h : m.Canon) : (m.trap l).Canon := h.ite h.congr

theorem Mach.Canon.physStore {vd pa : Nat} {data : List (Nat × Byte)} (h : m.Canon) : (m.physStore vd pa data).Canon :=
  h.devStore.ite (h.hostStore.ite h)

theorem Mach.Canon.keepWalk {vd va : Nat} (h : m.Canon) : (m.keepWalk vd va).Canon := by
  unfold Mach.keepWalk
  split
  · exact h
  · exact h.updVd.ite h.trap.updVd

theorem Mach.Canon.dropWalks {vd : Nat} {a : Word} (h : m.Canon) : (m.dropWalks vd a).Canon := h.congr

theorem Mach.Canon.tlbNote {t : Tlb} {e : TlbEntry} (h : m.Canon) : (m.tlbNote t e).Canon := by
  cases t with
  | s g r | t g r => exact h.updCore fun _ hc => hc.congr
  | l d i c => exact h.updCtx fun _ hx => hx.congr
  | none => exact h

theorem Mach.Canon.walked {t : Tlb} {vd va : Nat} (h : m.Canon) : (m.walked t vd va).Canon := h.ite h.keepWalk

theorem Mach.Canon.stopLoupe {d i c : Nat} {e : Exc} {pc : BitVec 14} {kind : BitVec 2} (h : m.Canon) :
    (m.stopLoupe d i c e pc kind).Canon :=
  .notify (.updCtx h.congr fun _ hx => hx.congr)

theorem Mach.Canon.postPage {va : Word} {write : Bool} {vd : Nat} {who : Who} {goix : BitVec 14} (h : m.Canon) :
    (m.postPage va write vd who goix).2.Canon := h.congr

/-! ## Logs, the crash, the mirror region -/

theorem Mach.Canon.logArray {pa sym : Nat} {ue mirr : Bool} (h : m.Canon) : (m.logArray pa sym ue mirr).Canon := h.congr

theorem Mach.Canon.logLink {f : LinkFault} {lane : BitVec 8} {act : BitVec 2} {spare : Bool} {time : Nat} (h : m.Canon) :
    (m.logLink f lane act spare time).Canon := h.congr

theorem Mach.Canon.logBad {l : Loc} {n : Nat} (h : m.Canon) : (m.logBad l n).Canon := by
  unfold Mach.logBad
  split
  · exact h.foldl fun _ _ h => h.fresh.logArray
  · exact h

theorem Mach.Canon.crash (h : m.Canon) : m.crash.Canon := h.ite (.schedule h.congr)

theorem Memory.wf_blit {mem : Memory} {a n : Nat} {p : List (Nat × Byte)} (h : Memory.wf mem = true) :
    Memory.wf (Memory.blit mem a n p) = true := Memory.wf_writeAt _ _ _ (Memory.wf_filter _ _ h)

theorem Mach.Canon.fromMirror {r : Mirror} {pa n : Nat} (h : m.Canon) : (m.fromMirror r pa n).Canon := by
  unfold Mach.fromMirror
  extract_lets
  split
  · exact h
  · exact ⟨Memory.wf_blit h.dev, h.host, h.gangs, h.dies⟩

theorem Mach.Canon.repair {q : Nat} {good readback : Bool} (h : m.Canon) : (m.repair q good readback).Canon := by
  unfold Mach.repair
  extract_lets pa m1 sym _ m2
  have h2 : m2.Canon := h.congr
  split
  · exact h2
  · refine .ite (.crash h2.congr) ?_
    exact .ite h2.logArray.fromMirror (.fromMirror h2.logArray.fromMirror.congr)

theorem Mach.Canon.mend {l : Loc} {n : Nat} (h : m.Canon) : (m.mend l n).Canon := by
  unfold Mach.mend
  split
  · exact h.foldl fun _ _ h => h.fresh.repair
  · exact h

theorem Mach.Canon.mendWalk {t : Tlb} {vd va : Nat} (h : m.Canon) : (m.mendWalk t vd va).Canon := h.foldl fun _ _ h => h.mend

theorem Mach.Canon.trapFor {l : Loc} {n : Nat} (h : m.Canon) : (m.trapFor l n).Canon := by
  unfold Mach.trapFor
  split
  · exact h.trap
  · exact h

theorem Mach.Canon.serveMonitor (h : m.Canon) : m.serveMonitor.Canon := h.foldl fun _ _ h => h.ite h.fresh.scheduleDrawn

end

section

/-! # The operations of a word -/

variable {m m' : Mach} {s t : State}

/-! ## Computations that may stop -/

/-- What holds of the value of a computation that does not stop. -/
def Except.Holds {ε α : Type} (P : α → Prop) (x : Except ε α) : Prop := ∀ a, x = .ok a → P a

section
variable {ε α β : Type} {P : α → Prop} {Q : β → Prop}

theorem Except.Holds.ok {a : α} (h : P a) : Except.Holds P (.ok a : Except ε α) := fun _ e => Except.ok.inj e ▸ h

theorem Except.Holds.pure {a : α} (h : P a) : Except.Holds P (Pure.pure a : Except ε α) := .ok h

theorem Except.Holds.error {e : ε} : Except.Holds P (.error e : Except ε α) := fun _ h => nomatch h

theorem Except.Holds.bind {x : Except ε α} {f : α → Except ε β} (hx : Except.Holds P x) (hf : ∀ a, P a → Except.Holds Q (f a)) :
    Except.Holds Q (x >>= f) := by
  cases x with
  | error e => exact .error
  | ok a => exact hf a (hx a rfl)

theorem Except.Holds.map {x : Except ε α} {f : α → β} (hf : ∀ a, Q (f a)) : Except.Holds Q (x.map f) := by
  cases x with
  | error e => exact .error
  | ok a => exact .ok (hf a)

/-- What comes before may only stop. -/
theorem Except.Holds.seq {x : Except ε α} {f : α → Except ε β} (hf : ∀ a, Except.Holds Q (f a)) : Except.Holds Q (x >>= f) :=
  Except.Holds.bind (P := fun _ => True) (fun _ _ => trivial) fun a _ => hf a

theorem Except.Holds.ite {p : Prop} [Decidable p] {x y : Except ε α} (hx : Except.Holds P x) (hy : Except.Holds P y) :
    Except.Holds P (if p then x else y) := ite_keeps hx hy

end

/-- A step that comes to a next state comes to one whose memories are in canonical form. -/
def Keeps (o : Host.Outcome State Fault Refusal) : Prop := ∀ t, o = .next t → t.Canon

theorem Keeps.next (h : s.Canon) : Keeps (.next s) := fun _ e => Host.Outcome.next.inj e ▸ h
theorem Keeps.fault {f : Fault} : Keeps (.fault f) := fun _ h => nomatch h
theorem Keeps.refused {r : Refusal} : Keeps (.refused r) := fun _ h => nomatch h

theorem Keeps.ite {p : Prop} [Decidable p] {o o' : Host.Outcome State Fault Refusal} (h : Keeps o) (h' : Keeps o') :
    Keeps (if p then o else o') := by
  split
  · exact h
  · exact h'

/-! ## Updates of the state -/

/-- Another package, the ec being issued as before. -/
theorem State.Canon.withMach (h : s.Canon) (hm : m.Canon) : ({ s with m := m } : State).Canon := ⟨hm, h.before⟩

theorem State.Canon.ite {p : Prop} [Decidable p] (h : s.Canon) (h' : t.Canon) : (if p then s else t).Canon := ite_keeps h h'

theorem State.Canon.foldl {α : Type} {f : State → α → State} {l : List α} (h : s.Canon) (hf : ∀ s a, s.Canon → (f s a).Canon) :
    (l.foldl f s).Canon := foldl_keeps h hf

theorem State.Canon.updSeq {f : Seq → Seq} (h : s.Canon) : (s.updSeq f).Canon := h.withMach h.m.updSeq

theorem State.Canon.updRegs {f : StreamRegs → StreamRegs} (h : s.Canon) : (s.updRegs f).Canon := h.updSeq

theorem State.Canon.updCore {f : Core → Core} (h : s.Canon) (hf : ∀ c, c.Canon → (f c).Canon) : (s.updCore f).Canon := by
  unfold State.updCore
  split
  · exact h.withMach (h.m.updCore hf)
  · exact h

theorem State.Canon.updGang {f : Gang → Gang} (h : s.Canon) (hf : ∀ x, x.Canon → (f x).Canon) : (s.updGang f).Canon := by
  unfold State.updGang
  split
  · exact h.withMach (h.m.updGang hf)
  · exact h

/-- The ec being issued changed, but for the package it began with. -/
theorem State.Canon.updIss {f : Issue → Issue} (h : s.Canon) (hf : ∀ i, (f i).before = i.before := by intro; rfl) :
    (s.updIss f).Canon := by
  refine ⟨h.m, fun i hi => ?_⟩
  obtain ⟨j, hj, rfl⟩ := Option.map_eq_some_iff.mp hi
  exact hf j ▸ h.before j hj

/-! ## Faults and freezes of a word -/

theorem State.Canon.walkedTo {p : Word} (h : s.Canon) : (s.walkedTo p).Canon := h.withMach h.m.walked

theorem State.Canon.raise {e : Exc} (h : s.Canon) : (s.raise e).Canon := by
  unfold State.raise
  extract_lets s1
  have h1 : s1.Canon := h.walkedTo.ite h
  split
  · exact h1.updIss
  · exact h1.withMach h1.m.stopLoupe

theorem State.Canon.hold {k : CauseKind} (h : s.Canon) : (s.hold k).Canon := by
  unfold State.hold
  split
  · exact h.withMach (h.m.postPage.updCtx fun _ hx => hx.congr)
  · exact h.updIss

theorem State.Canon.freeze {k : CauseKind} (h : s.Canon) : (s.freeze k).Canon := h.updGang fun _ hx => hx.congr

theorem State.Canon.stopped {e : Stop} (h : s.Canon) : (s.stopped e).Canon := by
  unfold State.stopped
  split
  · exact h.raise
  · split
    · exact h.walkedTo.hold
    · exact h.hold

/-! ## Issue of a word -/

theorem State.Canon.issued (h : s.Canon) : s.issued.Canon := by
  unfold State.issued
  extract_lets s1 s2 m3
  have h2 : s2.Canon := h.updRegs.updIss
  have h3 : m3.Canon := by
    unfold m3
    split
    · exact h2.m
    · exact h2.m.updCtx fun _ hx => hx.congr
  exact h2.withMach h3.fresh

theorem State.Canon.advance (h : s.Canon) : s.advance.Canon := h.issued.updRegs

theorem State.Canon.fall (h : s.Canon) (ht : t.Canon) : (s.fall t).Canon := ht.advance.ite h.raise

/-- A word keeps the canonical form when its body does. -/
theorem State.Canon.word {decls : List Decl} {on : Bool} {body : State → Except Stop State} (h : s.Canon)
    (hb : Except.Holds State.Canon (body s)) : Keeps (s.word decls on body) := by
  unfold State.word
  split
  · exact .fault
  · split
    · exact .next h.raise
    · split
      · split
        · exact .next h.stopped
        · next t ht => exact .next (h.fall (hb t ht))
      · exact .next (h.fall h)

/-- A word that ends at a target of its own likewise. -/
theorem State.Canon.jump {decls : List Decl} {on : Bool} {body : State → Except Stop State} (h : s.Canon)
    (hb : Except.Holds State.Canon (body s.issued)) : Keeps (s.jump decls on body) := by
  unfold State.jump
  split
  · exact .fault
  · split
    · exact .next h.raise
    · split
      · split
        · exact .next h.stopped
        · next t ht => exact .next (hb t ht)
      · exact .next (h.fall h)

/-! ## Results of a word -/

theorem State.Canon.emit {lat : Nat} {p : Pend} (h : s.Canon) : (s.emit lat p).Canon := by
  unfold State.emit
  split
  · exact h.withMach (h.m.updCore fun _ hc => hc.congr)
  · exact h.updSeq

theorem State.Canon.resS {lat : Nat} {d : BitVec 6} {w : Bool} {v : Word} {f : Flags} (h : s.Canon) : (s.resS lat d w v f).Canon :=
  h.emit

theorem State.Canon.resP {lat d : Nat} {v : Bool} (h : s.Canon) : (s.resP lat d v).Canon := h.emit

theorem State.Canon.groupSwitch (h : s.Canon) : s.groupSwitch.Canon := by
  unfold State.groupSwitch
  split
  · exact h.updCore fun _ => Core.Canon.groupSwitch
  · exact h.updSeq

end

section

/-! # Scalar words, access counters, races, places -/

variable {m m' : Mach} {s t : State}

/-! ## Words that give scalar results -/

theorem State.Canon.sr2 {lat : Nat} {f : Word → Word → Word} {d a b : BitVec 6} {w : Bool} {g : BitVec 4} (h : s.Canon) :
    Keeps (sr2 lat f d a b w g s) := h.word (.ok h.resS)

theorem State.Canon.sr1 {lat : Nat} {f : Word → Word} {d a : BitVec 6} {w : Bool} {g : BitVec 4} (h : s.Canon) :
    Keeps (sr1 lat f d a w g s) := h.word (.ok h.resS)

theorem State.Canon.si1 {f : Word → Word} {d a : BitVec 6} {g : BitVec 4} (h : s.Canon) : Keeps (si1 f d a g s) :=
  h.word (.ok h.resS)

theorem State.Canon.pp2 {f : Bool → Bool → Bool} {d a b : BitVec 6} {g : BitVec 4} (h : s.Canon) : Keeps (pp2 f d a b g s) :=
  h.word (.ok h.resP)

theorem State.Canon.sf2 {lat : Nat} {f : BitVec 32 → BitVec 32 → BitVec 32 × Flags} {d a b : BitVec 6} {w : Bool} {g : BitVec 4}
    (h : s.Canon) : Keeps (sf2 lat f d a b w g s) := h.word (.ok h.resS)

theorem State.Canon.cvt1 {f : Word → Word × Flags} {d a : BitVec 6} {w : Bool} {g : BitVec 4} (h : s.Canon) :
    Keeps (cvt1 f d a w g s) := h.word (.ok h.resS)

theorem State.Canon.fcmp {f : Int → Bool} {d a b : BitVec 6} {g : BitVec 4} (h : s.Canon) : Keeps (fcmp f d a b g s) :=
  h.word (.ok h.resP)

/-- A pointer word, which checks the pointer it makes. -/
theorem State.Canon.wordMade {decls : List Decl} {on w : Bool} {d : BitVec 6} {x : State → Except Stop Word} (h : s.Canon) :
    Keeps (s.word decls on fun s => do return s.resS 1 d w (← x s)) := h.word (.seq fun _ => .pure h.resS)

/-! ## Access counters and notifications -/

theorem Mach.Canon.setRegion {vd region : Nat} {r : Region} (h : m.Canon) : (m.setRegion vd region r).Canon := by
  unfold Mach.setRegion
  extract_lets m1
  have h1 : m1.Canon := h.updVd
  split
  · exact h1
  · exact h1.devStore

theorem Mach.Canon.queueNotice {vd region : Nat} {r : Region} (h : m.Canon) : (m.queueNotice vd region r).Canon :=
  .setRegion (.updVd h.physStore)

theorem Mach.Canon.countTouch {vd va : Nat} {leaf : Word} (h : m.Canon) : (m.countTouch vd va leaf).Canon :=
  h.ite (.ite (.ite (.setRegion h.setRegion) (.queueNotice h.setRegion)) h.setRegion)

theorem Mach.Canon.countTouches {vd : Nat} {l : List Nat} {leaf : Word} (h : m.Canon) : (m.countTouches vd l leaf).Canon :=
  h.ite (h.foldl fun _ _ h => h.countTouch)

theorem Mach.Canon.countCmd {id vd : Nat} {l : List Nat} {leaf : Word} (h : m.Canon) : (m.countCmd id vd l leaf).Canon :=
  h.ite (h.foldl fun _ va h => h.ite (h.countTouch (vd := vd) (va := va) (leaf := leaf)).congr)

theorem Mach.Canon.moveDeferred {vd : Nat} (h : m.Canon) : (m.moveDeferred vd).Canon := h.foldl fun _ _ h => h.ite h.queueNotice

/-! ## The race checker -/

theorem Core.Canon.learn {c : Core} {p : Snap} (h : c.Canon) : (c.learn p).Canon := h.congr
theorem Core.Canon.bump {c : Core} (h : c.Canon) : c.bump.Canon := h.congr
theorem Mach.Canon.bumpVg {vd : Nat} (h : m.Canon) : (m.bumpVg vd).Canon := h.congr

theorem Mach.Canon.learnOutside {g r : Nat} (h : m.Canon) : (m.learnOutside g r).Canon := by
  unfold Mach.learnOutside
  split
  · exact h
  · exact h.bumpVg.updCore fun _ hc => hc.congr

theorem Mach.Canon.learnPv {g r : Nat} (h : m.Canon) : (m.learnPv g r).Canon := by
  unfold Mach.learnPv
  split
  · exact h
  · exact h.updCore fun _ hc => hc.learn

theorem Mach.Canon.publish {g : Nat} {p : Snap} (h : m.Canon) : (m.publish g p).Canon := h.updGang fun _ hx => hx.congr

theorem Mach.Canon.raceRelease {g r sco iv : Nat} {unit : Option Nat} (h : m.Canon) : (m.raceRelease g r sco iv unit).Canon := by
  unfold Mach.raceRelease
  split
  · next x c _ _ =>
    extract_lets p m1 m2
    have h1 : m1.Canon := h.updCore fun _ => Core.Canon.bump
    have h2 : m2.Canon := by
      unfold m2
      split
      · exact h1
      · exact h1.updCluster fun _ hk => hk.congr
    exact .ite h2.publish.bumpVg h2
  · exact h

theorem Mach.Canon.raceAcquireFence {g r : Nat} (h : m.Canon) : (m.raceAcquireFence g r).Canon :=
  h.learnPv.learnOutside.updCore fun _ => Core.Canon.bump

theorem Mach.Canon.setShadow {u : UnitRef} {e : Shadow} (h : m.Canon) : (m.setShadow u e).Canon := by
  cases u with
  | scr g r k => exact h.updCore fun _ hc => hc.congr
  | glb v k => exact h.updVd

theorem Mach.Canon.raceAcquire {x : RaceAcc} {u : UnitRef} {e : Shadow} (h : m.Canon) : (m.raceAcquire x u e).Canon := by
  unfold Mach.raceAcquire
  split
  · exact h
  · refine .ite h.raceAcquireFence (.ite ?_ h)
    extract_lets recs
    split
    · exact h.updCore fun _ hc => hc.learn.bump
    · exact h.learnPv.updCore fun _ hc => hc.congr

theorem Mach.Canon.raceAccess {x : RaceAcc} {u : UnitRef} {ptr : Word} (h : m.Canon) : (m.raceAccess x u ptr).1.Canon := by
  unfold Mach.raceAccess
  split
  · exact h
  · extract_lets job vg e m1 e1 e2 m2
    have h1 : m1.Canon := .ite h.raceAcquire h
    split
    · exact h1
    · exact .ite h1.setShadow.raceRelease h1.setShadow

theorem Mach.Canon.raceUnits {x : RaceAcc} {rank : Nat} {l : List Nat} (h : m.Canon) : (m.raceUnits x rank l).1.Canon := by
  induction l generalizing m with
  | nil => exact h
  | cons u us ih =>
    unfold Mach.raceUnits
    extract_lets key p
    have h1 : (m.raceAccess x (.scr x.gang rank key) p).1.Canon := h.raceAccess
    split
    · next heq => exact of_fst heq h1
    · next heq => exact ih (of_fst heq h1)

theorem Mach.Canon.learnStamp {g r : Nat} {t : TagState} (h : m.Canon) : (m.learnStamp g r t).Canon := by
  unfold Mach.learnStamp
  extract_lets m1
  have h1 : m1.Canon := h.learnPv
  split
  · exact h1
  · exact h1.learnOutside.ite (h1.updCore fun _ hc => hc.congr)

theorem Mach.Canon.outsideAccess {vd : Nat} {wr : Bool} {u : UnitRef} {job : Option (BitVec 16)} {amo rel : Bool} (h : m.Canon) :
    (m.outsideAccess vd wr u job amo rel).Canon := h.setShadow

/-! ## Places, queues, replies, view buffers -/

theorem Mach.Canon.writeLoc {l : Loc} {data : List (Nat × Byte)} (h : m.Canon) : (m.writeLoc l data).Canon := by
  cases l with
  | scr g r o => exact h.updCore fun _ hc => ⟨Memory.wf_writeAt _ _ _ hc.scr⟩
  | lpe d i c o => exact h.updCtx fun _ hx => ⟨Memory.wf_writeAt _ _ _ hx.mem⟩
  | dev pa => exact h.devStore
  | host a => exact h.hostStore
  | peer v o => exact h.congr
  | sys r => exact h

theorem Mach.Canon.enqueue {q : QEntry} {k : Nat} (h : m.Canon) : (m.enqueue q k).Canon := h.congr
theorem Mach.Canon.newReply {who : Who} {parts : Nat} (h : m.Canon) : (m.newReply who parts).2.Canon := h.congr

theorem Mach.Canon.fillReply {id : Nat} {bytes : List (Nat × Byte)} {fault : Option (BitVec 8 × Word × BitVec 128)} {own : Bool}
    {k : Nat} (h : m.Canon) : (m.fillReply id bytes fault own k).Canon := by
  unfold Mach.fillReply
  split
  · exact h
  · exact .ite (.scheduleDrawn h.congr) h.congr

theorem Mach.Canon.dropCopy {w : Who} {g : Nat} (h : m.Canon) : (m.dropCopy w g).Canon := h.congr
theorem Mach.Canon.addCopy {c : Copy} (h : m.Canon) : (m.addCopy c).Canon := h.congr

theorem Mach.Canon.readView {w : Who} {l : Loc} {n k va : Nat} (h : m.Canon) : (m.readView w l n k va).2.Canon := by
  unfold Mach.readView
  split
  · exact h
  · split
    · exact h
    · split
      · exact h
      · exact .ite h.addCopy h

theorem Mach.Canon.renewCopy {w : Who} {l : Loc} (h : m.Canon) : (m.renewCopy w l).Canon := by
  unfold Mach.renewCopy
  split
  · exact h
  · split
    · exact h
    · exact h.congr

theorem Mach.Canon.markSeen {id : Nat} {q : QEntry} (h : m.Canon) : (m.markSeen id q).Canon := h.ite h.congr
theorem Mach.Canon.prune {id : Nat} (h : m.Canon) : (m.prune id).Canon := h.ite h.congr
theorem Mach.Canon.noteWrite {q : QEntry} (h : m.Canon) : (m.noteWrite q).Canon := h.congr
theorem Mach.Canon.noteFence {q : QEntry} (h : m.Canon) : (m.noteFence q).Canon := h.congr
theorem Mach.Canon.acquired {w : Who} (h : m.Canon) : (m.acquired w).Canon := h.congr
theorem Mach.Canon.hear {w : Who} {l : List RelVal} (h : m.Canon) : (m.hear w l).Canon := h.ite h.congr
theorem Mach.Canon.acquireOf {w : Who} {sco : Nat} {l : List RelVal} (h : m.Canon) : (m.acquireOf w sco l).Canon :=
  h.acquired.ite h.hear
theorem Mach.Canon.readEarly {q : QEntry} (h : m.Canon) : (m.readEarly q).Canon := h.ite h.congr

theorem Mach.Canon.noteAgain {q : QEntry} (h : m.Canon) : (m.noteAgain q).Canon := by
  unfold Mach.noteAgain
  split
  · exact h.congr
  · exact h.congr
  · exact h.congr
  · exact h.congr
  · exact h

theorem Mach.Canon.noteOutside {q : QEntry} (h : m.Canon) : (QEntry.noteOutside m q).Canon := by
  unfold QEntry.noteOutside
  split
  · exact h
  · split
    · exact h
    · exact h.outsideAccess
  · split
    · exact h
    · exact h.outsideAccess

theorem Mach.Canon.noteUnchecked {q : QEntry} (h : m.Canon) : (QEntry.noteUnchecked m q).Canon := by
  unfold QEntry.noteUnchecked
  split
  · extract_lets m1
    have h1 : m1.Canon := .ite h.raceAcquireFence h
    exact .ite h1.raceRelease h1
  · exact h.noteOutside

theorem Mach.Canon.lateFault {q : QEntry} {cause : BitVec 8} {addr : Word} {race : BitVec 128} {redo : Redo} (h : m.Canon) :
    (m.lateFault q cause addr race redo).Canon := by
  unfold Mach.lateFault
  split
  · exact h.updCore fun _ hc => hc.congr
  · exact h.stopLoupe
  · exact h

theorem Mach.Canon.bumpOf {q : QEntry} (h : m.Canon) : (q.bumpOf m).Canon := by
  unfold QEntry.bumpOf
  split
  · exact h.updCore fun _ => Core.Canon.bump
  · exact h

end

section

/-! # Commits and what they force -/

variable {m m' : Mach} {s t : State}

/-- A write at its commit point. -/
theorem Mach.Canon.commitWrite {q : QEntry} {data : List (Nat × Byte)} (h : m.Canon) :
    (((m.writeLoc q.loc data).renewCopy q.who q.loc).noteWrite q).Canon := h.writeLoc.renewCopy.noteWrite

/-- What a released agent's entry publishes before it goes on. -/
theorem Mach.Canon.raceReleaseOf {q : QEntry} (h : m.Canon) :
    (match q.who with | .agent (.core g r _) => m.raceRelease g r 4 q.icnt none | _ => m).Canon := by
  split
  · exact h.raceRelease
  · exact h

theorem Mach.Canon.perform {id : Nat} {q : QEntry} {chk : Bool} (h : m.Canon) : (m.perform id q chk).Canon := by
  unfold Mach.perform
  extract_lets m0 m1 own m2 m3 err m4
  have h1 : m1.Canon := .prune h.congr
  have h2 : m2.Canon := .ite h1.mend h1
  have h3 : m3.Canon := h2.foldl fun _ _ h => h.mend
  have h4 : m4.Canon := .ite h3.logBad h3
  split
  next m5 rep heq =>
  have h5 : m5.Canon := by
    refine of_fst heq ?_
    split
    · exact .ite h4.bumpOf h4
    · split
      · exact h4.raceAccess
      · exact h4.noteUnchecked
  extract_lets +onlyGivenNames fault m6 vals m7 m8 m9
  have h6 : m6.Canon := .ite h5.noteAgain h5
  have h7 : m7.Canon := h6.readEarly
  have h8 : m8.Canon := .ite h7 (.ite h7.acquireOf (.ite h7 h7.hear))
  have h9 : m9.Canon := by
    unfold m9
    split
    · exact .ite h8.bumpVg h8
    · exact h8
  clear_value m9 fault
  split
  case h_1 => exact h9.readView.markSeen.fillReply
  case h_2 => exact h9.fillReply
  case h_3 =>
    split
    · exact h9.lateFault
    · exact h9.commitWrite
  case h_4 =>
    split
    · exact h9.lateFault
    · exact h9.writeLoc
  case h_5 => exact .fillReply (.ite h9 h9.commitWrite)
  case h_6 =>
    refine .fillReply (.ite h9 (.ite h9.commitWrite ?_))
    split
    · exact h9.dropCopy
    · exact h9
  case h_7 =>
    have hn : (if q.rel then m9.noteFence q else m9).Canon := .ite h9.noteFence h9
    refine .ite (.acquireOf ?_) ?_ <;> split
    · exact .ite (.raceAcquireFence (.ite hn.raceRelease hn)) (.ite hn.raceRelease hn)
    · exact hn
    · exact .ite (.raceAcquireFence (.ite hn.raceRelease hn)) (.ite hn.raceRelease hn)
    · exact hn
  case h_8 => exact h9.schedule
  case h_9 => exact h9.raceReleaseOf.updVd
  case h_10 => exact h9.raceReleaseOf.schedule
  case h_11 =>
    extract_lets +onlyGivenNames m10 m11
    have h10 : m10.Canon := .ite h9.publish h9
    have h11 : m11.Canon := .ite h10.bumpVg h10
    split
    · exact h11.schedule
    · exact h11

/-! ## Commit -/

theorem Mach.Canon.force {n id : Nat} (h : m.Canon) : (Mach.force n m id).Canon := by
  induction n generalizing m id with
  | zero => exact h
  | succ n ih =>
    unfold Mach.force
    split
    · exact h
    · next q hq =>
      have hf : ((m.blockers id q).foldl (fun m p => Mach.force n m p.1) m).Canon := h.foldl fun _ _ => ih
      exact .ite hf.fresh.perform hf

theorem Mach.Canon.forceAll {ids : List Nat} (h : m.Canon) : (m.forceAll ids).Canon := h.foldl fun _ _ h => h.force
theorem Mach.Canon.observe {w : Who} {acq : Option Nat} {l : Loc} {n : Nat} (h : m.Canon) : (m.observe w acq l n).Canon :=
  h.ite h.forceAll
theorem Mach.Canon.commitNow {q : QEntry} (h : m.Canon) : (m.commitNow q).Canon := .force h.congr
theorem Mach.Canon.loadNow {q : QEntry} (h : m.Canon) : (m.loadNow q).Canon := .perform (.forceAll h.congr)
theorem Mach.Canon.settleBank {g r : Nat} {cls : BitVec 3} (h : m.Canon) : (m.settleBank g r cls).Canon := h.forceAll
theorem Mach.Canon.flushWho {w : Who} (h : m.Canon) : (m.flushWho w).Canon := h.forceAll
theorem Mach.Canon.flushCore {g r ec : Nat} (h : m.Canon) : (m.flushCore g r ec).Canon := h.forceAll
theorem Mach.Canon.flushGang {g : Nat} (h : m.Canon) : (m.flushGang g).Canon := h.forceAll

theorem Mach.Canon.hurry {id : Nat} {q : QEntry} (h : m.Canon) : (m.hurry id q).Canon := by
  unfold Mach.hurry
  extract_lets late m1 deps place m2
  have h2 : m2.Canon := .perform (.fresh h.forceAll)
  exact .ite h2 h2.congr

theorem Mach.Canon.pass {id : Nat} {q : QEntry} {past : List Nat} (h : m.Canon) : (m.pass id q past).Canon :=
  .perform (.fresh (.forceAll h.congr))

/-! ## Events -/

theorem State.Canon.event {enabled : Bool} (h : s.Canon) (hm : m.Canon) : Keeps (event enabled m s) :=
  .ite (.next (h.withMach hm)) .fault

theorem State.Canon.execAccessCommit {id : Nat} (h : s.Canon) : Keeps (execAccessCommit id s) := by
  unfold Machine.execAccessCommit
  split
  · exact .fault
  · extract_lets m past wait
    have hm : m.Canon := h.m.fresh
    exact .next (h.withMach (.ite hm.trapFor.schedule (.ite hm.hurry (.ite hm.pass hm.force))))

theorem State.Canon.execViewBufferDrop {a : Agent} {granule : Nat} (h : s.Canon) : Keeps (execViewBufferDrop a granule s) := by
  unfold Machine.execViewBufferDrop
  extract_lets m
  split
  · exact .fault
  · exact .next (h.withMach h.m.congr)

theorem State.Canon.execReplyArrival {id : Nat} (h : s.Canon) : Keeps (execReplyArrival id s) := by
  unfold Machine.execReplyArrival
  split
  · exact h.event h.m.congr
  · exact .fault

end

section

/-! # Results delivered, stops, barriers and joins -/

variable {m m' : Mach} {s t : State}

/-! ## Results delivered -/

theorem Core.Canon.dropPend {c : Core} {p : Pend} (h : c.Canon) : (c.dropPend p).Canon := h.congr

theorem Mach.Canon.readFirst {g r : Nat} {p : Pend} {f : FirstRead} (h : m.Canon) : (m.readFirst g r p f).1.Canon := by
  unfold Mach.readFirst
  split
  · exact h
  · exact (h.foldl fun _ _ h => h.learnStamp).raceUnits

theorem Mach.Canon.defer {g r : Nat} {p : Pend} {e : BitVec 8 × Word × BitVec 128} {redo : Redo} (h : m.Canon) :
    (m.defer g r p e redo).Canon := h.updCore fun _ hc => hc.congr

theorem Mach.Canon.deliver {g r : Nat} {p : Pend} (h : m.Canon) : (m.deliver g r p).Canon := by
  unfold Mach.deliver
  split
  · exact h
  · extract_lets m1 q m2
    have h1 : m1.Canon := h.updCore fun _ => Core.Canon.dropPend
    have h2 : m2.Canon := h1.congr
    split
    · exact h2.defer
    · split
      · exact h2.updCore fun _ => Core.Canon.land
      · split
        · next heq => exact (of_fst heq h2.readFirst).defer
        · next heq => exact (of_fst heq h2.readFirst).updCore fun _ => Core.Canon.land

theorem Mach.Canon.deliverRank {g r : Nat} (h : m.Canon) : (m.deliverRank g r).Canon := by
  unfold Mach.deliverRank
  split
  · exact h.foldl fun _ _ h => h.deliver
  · exact h

theorem Mach.Canon.deliverAll {g : Nat} (h : m.Canon) : (m.deliverAll g).Canon := by
  unfold Mach.deliverAll
  split
  · exact h
  · exact h.foldl fun _ _ h => h.deliverRank

/-! ## Stops and resumption -/

theorem Mach.Canon.takeStop {g : Nat} {rep : Report} (h : m.Canon) : (m.takeStop g rep).Canon := h.updGang fun _ hx => hx.congr

theorem Mach.Canon.devWrite {a : Nat} {bs : List Byte} (h : m.Canon) : ({ m with dev := Memory.write m.dev a bs } : Mach).Canon :=
  ⟨Memory.wf_write _ _ _ h.dev, h.host, h.gangs, h.dies⟩

theorem Mach.Canon.postStop {g : Nat} (h : m.Canon) : (m.postStop g).Canon := by
  unfold Mach.postStop
  split
  · exact h
  · exact .ite (h.updGang fun _ hx => hx.congr) (.notify (.bumpVg (h.devWrite.updGang fun _ hx => hx.congr)))

theorem Core.Canon.resume {c : Core} (h : c.Canon) : c.resume.Canon :=
  (foldl_keeps h fun _ _ => Core.Canon.groupSwitch : (List.foldl Core.groupSwitch c [Stream.s, .v, .m, .t]).Canon).congr

theorem Core.Canon.drainHeld {c : Core} (h : c.Canon) : c.drainHeld.Canon := h.congr

theorem Gang.Canon.resumed {x : Gang} (h : x.Canon) : x.resumed.Canon :=
  ⟨List.forall_mem_map.mpr fun c hc => (h.cores c hc).resume.drainHeld⟩

/-! ## Tags, barriers -/

theorem Mach.Canon.updAway {g r : Nat} {f : AwayRank → AwayRank} (h : m.Canon) : (m.updAway g r f).Canon := h.congr

theorem Mach.Canon.updTarget {t : Target} {f : TagState → TagState} (h : m.Canon) : (m.updTarget t f).Canon := by
  cases t with
  | gran g r k => exact h.updCore fun _ hc => hc.congr
  | slot g q n => exact h.updGang fun _ hx => hx.congr

theorem Mach.Canon.updBar {vd k : Nat} {f : Barrier → Barrier} (h : m.Canon) : (m.updBar vd k f).Canon := h.updVd

theorem Mach.Canon.setArr {a : Agent} {bid : Nat} {v : Option (BitVec 16)} (h : m.Canon) : (m.setArr a bid v).Canon := by
  cases a with
  | core g r st => exact h.updAway.ite (h.updCore fun _ hc => hc.congr)
  | loupe d i c => exact h.updCtx fun _ hx => hx.congr

theorem Mach.Canon.testBar {vd k : Nat} (h : m.Canon) : (m.testBar vd k).Canon := .ite h.updBar.bumpVg h.updBar

theorem Mach.Canon.testBars (h : m.Canon) : m.testBars.Canon :=
  h.foldl fun _ _ h => h.foldl fun _ _ h => .ite h.testBar.testBar h.testBar

theorem Mach.Canon.orphanTest {vd k : Nat} (h : m.Canon) : (m.orphanTest vd k).Canon := by
  unfold Mach.orphanTest
  extract_lets b
  split
  · exact h
  · exact h.updBar.ite h

theorem Mach.Canon.orphan {vd k : Nat} (h : m.Canon) : (m.orphan vd k).Canon := h.updBar

theorem Mach.Canon.subBytes {vd k n : Nat} {gen : BitVec 16} (h : m.Canon) : (m.subBytes vd k gen n).Canon := h.updBar

theorem Mach.Canon.leaveBar {vd k bid : Nat} {a : Agent} {killed : Bool} (h : m.Canon) : (m.leaveBar vd k a bid killed).Canon := by
  unfold Mach.leaveBar
  extract_lets b ag m1
  have h1 : m1.Canon := h.updBar
  refine .ite ?_ h1
  split
  · exact h1.congr
  · exact h1.congr
  · exact h1.updBar

theorem Mach.Canon.leaveBars {j : Job} {a : Agent} {killed : Bool} (h : m.Canon) : (m.leaveBars j a killed).Canon :=
  h.foldl fun _ _ h => h.leaveBar.ite h

theorem Mach.Canon.orphanTests {j : Job} (h : m.Canon) : (m.orphanTests j).Canon := h.foldl fun _ _ h => h.orphanTest

theorem Mach.Canon.killMembers {j : Job} {l : List Agent} {dead : Mach → Mach} (h : m.Canon) (hd : ∀ m, m.Canon → (dead m).Canon) :
    (m.killMembers j l dead).Canon := .orphanTests (hd _ (h.foldl fun _ _ h => h.leaveBars))

theorem Mach.Canon.deadGang {g : Nat} (h : m.Canon) : (m.deadGang g).Canon := .updGang h.congr fun _ hx => hx.congr

theorem Mach.Canon.killGang {j : Job} {g : Nat} (h : m.Canon) : (m.killGang j g).Canon := h.killMembers fun _ => Mach.Canon.deadGang

theorem Mach.Canon.barInit {a : Agent} {vd k bid g : Nat} (h : m.Canon) : (m.barInit a vd k bid g).Canon := by
  unfold Mach.barInit
  split
  · exact h
  · exact h.updBar.foldl fun _ _ h => h.setArr

theorem Mach.Canon.barExpect {a : Agent} {vd k bid n : Nat} (h : m.Canon) :
    Except.Holds Mach.Canon (m.barExpect a vd k bid n) :=
  .ite (.ite (.ok h.updBar) .error) (.ite (.ok h.updBar) .error)

theorem Mach.Canon.phaseMerge {vd k : Nat} {gen : BitVec 16} {gang : Option Nat} {p : Snap} (h : m.Canon) :
    (m.phaseMerge vd k gen gang p).Canon := h.updBar

theorem Mach.Canon.phaseRel {vd k : Nat} {gen : BitVec 16} {v : RelVal} (h : m.Canon) : (m.phaseRel vd k gen v).Canon := h.updBar

theorem Mach.Canon.barArrive {a : Agent} {vd k bid seq n : Nat} {sco : BitVec 3} {pc : BitVec 14} (h : m.Canon) :
    (m.barArrive a vd k bid sco seq pc n).Canon := by
  unfold Mach.barArrive
  extract_lets b gen m1 m2
  have h1 : m1.Canon := h.setArr.phaseRel
  have h2 : m2.Canon := by
    unfold m2
    split
    · extract_lets m3
      have h3 : m3.Canon := by
        unfold m3
        split
        · exact h1.phaseMerge.updCore fun _ => Core.Canon.bump
        · exact h1
      exact .ite h3.bumpVg h3
    · exact h1.phaseMerge.bumpVg
  exact h2.enqueue

theorem Mach.Canon.learnPhase {g r : Nat} {p : Snap} {wide : Bool} (h : m.Canon) : (m.learnPhase g r p wide).Canon := by
  have h1 : (m.updCore g r fun c => (c.learn p).bump).Canon := h.updCore fun _ hc => hc.learn.bump
  exact .ite h1.learnOutside h1

theorem Mach.Canon.barAcquire {a : Agent} {vd k : Nat} {gen : BitVec 16} {sco : BitVec 3} (h : m.Canon) :
    (m.barAcquire a vd k gen sco).Canon := by
  cases a with
  | core g r st => exact h.acquireOf.learnPhase
  | loupe d i c => exact h.acquireOf

theorem State.Canon.execBarrierArrivalCount {vd bar : Nat} {gen : BitVec 16} (h : s.Canon) :
    Keeps (execBarrierArrivalCount vd bar gen s) := h.event h.m.updBar

/-! ## Joins -/

theorem Core.Canon.endStream {c : Core} {st : Stream} (h : c.Canon) : (c.endStream st).Canon := by
  unfold Core.endStream
  extract_lets
  split <;> exact h.congr

theorem Core.Canon.leaveJoin {c : Core} {g : Nat} {fin : Bool} (h : c.Canon) : (c.leaveJoin g fin).Canon := by
  refine foldl_keeps h fun c st hc => ?_
  split
  · split
    · extract_lets c1
      have h1 : c1.Canon := hc.groupSwitch
      split
      · exact h1.endStream
      · exact h1.congr
    · exact hc
  · exact hc

theorem Mach.Canon.joinLearn {g r : Nat} {n : Closing} (h : m.Canon) : (m.joinLearn g r n).Canon := by
  unfold Mach.joinLearn
  split
  · exact h
  · exact .updCore (.acquired (.ite h.learnPhase h)) fun _ hc => hc.congr

theorem Mach.Canon.joinLeave {g r : Nat} {n : Closing} (h : m.Canon) : (m.joinLeave g r n).Canon :=
  h.updAway.ite (h.joinLearn.updCore fun _ => Core.Canon.leaveJoin)

theorem Mach.Canon.missJoin {g : Nat} {n : Closing} (h : m.Canon) : (m.missJoin g n).Canon := h.congr

theorem Mach.Canon.comeBack {g : Nat} (h : m.Canon) : (m.comeBack g).Canon := by
  unfold Mach.comeBack
  split
  · exact h
  · refine .foldl (.foldl h.congr fun _ _ h => h.updCore fun _ hc => hc.congr) fun _ _ h => h.foldl fun _ _ h => h.joinLeave

theorem Mach.Canon.goAway {g : Nat} (h : m.Canon) : (m.goAway g).Canon := by
  unfold Mach.goAway
  split
  · exact h
  · exact h.congr

theorem Mach.Canon.joinFlush {g r k : Nat} {fin : Bool} (h : m.Canon) : (m.joinFlush g r k fin).Canon := by
  unfold Mach.joinFlush
  split
  · exact h
  · exact h.foldl fun _ _ h => h.flushWho

/-- Every gang changed. -/
theorem Mach.Canon.map_gangs {f : Nat × Gang → Gang} (h : m.Canon) (hf : ∀ p, p.2.Canon → (f p).Canon) :
    ({ m with gangs := m.gangs.map fun p => (p.1, f p) } : Mach).Canon := by
  refine ⟨h.dev, h.host, fun p hp => ?_, h.dies⟩
  obtain ⟨q, hq, rfl⟩ := List.mem_map.mp hp
  exact hf q (h.gangs q hq)

theorem Mach.Canon.joinRelease {j : Job} {k g : Nat} (h : m.Canon) : (m.joinRelease j k g).Canon := by
  unfold Mach.joinRelease
  split
  · exact h
  · extract_lets +onlyGivenNames cores wide of_ m1 m2 m3 m4 m5
    have h1 : m1.Canon := h.foldl fun _ _ h => h.joinFlush
    have h2 : m2.Canon := h1.foldl fun _ _ h => .joinLeave (.ite h.leaveBars h)
    have h3 : m3.Canon := h2.foldl fun _ _ h => h.missJoin
    have h4 : m4.Canon := h3.updVd
    refine .bumpVg (h4.map_gangs fun p hp => ?_)
    split
    · exact hp.congr
    · exact hp

theorem State.Canon.execJoinRelease {vd grp : Nat} (h : s.Canon) : Keeps (execJoinRelease vd grp s) := by
  unfold Machine.execJoinRelease
  split
  · exact .fault
  · split
    · exact .fault
    · exact h.event h.m.joinRelease

theorem Mach.Canon.joinsAfter {gang : Nat} (h : m.Canon) : (m.joinsAfter gang).Canon := by
  unfold Mach.joinsAfter
  split
  · exact h
  · refine .updGang (.foldl h fun _ _ h => ?_) fun _ hx => hx.congr
    exact .ite (.ite h.joinRelease h.updVd.schedule) h

end

section

/-! # System registers and control words -/

variable {m m' : Mach} {s t : State}

/-! ## System registers -/

theorem Cluster.Canon.takeHeld {k : Cluster} (h : k.Canon) : k.takeHeld.Canon := by
  unfold Cluster.takeHeld
  split
  · exact h.congr
  · exact h

theorem Mach.Canon.wantFrame {d k : Nat} (h : m.Canon) : (m.wantFrame d k).Canon := h.ite h.schedule

theorem Mach.Canon.recompute {d k : Nat} (h : m.Canon) : (m.recompute d k).Canon := .wantFrame (h.updCluster fun _ hc => hc.congr)

theorem State.Canon.later {ev : Instr} (h : s.Canon) : (s.later ev).Canon := by
  unfold State.later
  split <;> exact h.withMach h.m.schedule

theorem State.Canon.enqueue {q : QEntry} {k : Nat} (h : s.Canon) : ({ s with m := s.m.enqueue q k } : State).Canon :=
  h.withMach h.m.enqueue

theorem State.Canon.notifyLaunch {v : Word} (h : s.Canon) : (s.notifyLaunch v).Canon := h.enqueue

theorem State.Canon.sysWrite {reg : Nat} {v : Word} (h : s.Canon) : (s.sysWrite reg v).Canon :=
  h.updRegs.ite <| h.updRegs.ite <| h.updRegs.ite <| h.updRegs.ite <| (h.ite h.later).ite <| (h.ite h.later).ite <|
    h.notifyLaunch.ite <| h.later.ite <| h.later.ite <| h.later.ite <| h.later.ite <| h.later.ite <| h.later.ite <|
    (h.ite h.later).ite h.later

theorem State.Canon.execFlgWrite {gang rank : Nat} {v : Word} (h : s.Canon) : Keeps (execFlgWrite gang rank v s) :=
  h.event (h.m.updCore fun _ hc => hc.congr)

theorem State.Canon.execVwWrite {gang rank : Nat} {v : Word} (h : s.Canon) : Keeps (execVwWrite gang rank v s) :=
  h.event (h.m.updCore fun _ hc => hc.congr)

theorem State.Canon.execWdogWrite {vd : Nat} {v : Word} (h : s.Canon) : Keeps (execWdogWrite vd v s) := h.event h.m.updVd

theorem State.Canon.execPatWrite {die cluster : Nat} {k : BitVec 4} {v : Word} (h : s.Canon) :
    Keeps (execPatWrite die cluster k v s) := h.event (.wantFrame (h.m.updCluster fun _ hc => ite_keeps hc.congr hc))

theorem State.Canon.execNqheadWrite {vd : Nat} {v : Word} (h : s.Canon) : Keeps (execNqheadWrite vd v s) :=
  h.event h.m.updVd.moveDeferred

theorem State.Canon.execNackWrite {vd : Nat} {v : Word} (h : s.Canon) : Keeps (execNackWrite vd v s) := h.event h.m.setRegion.updVd

theorem State.Canon.execRegisterWrite {vd : Nat} {reg : BitVec 12} {v : Word} (h : s.Canon) : Keeps (execRegisterWrite vd reg v s) :=
  .ite (h.event h.m.congr) (h.event h.m.updVd)

/-! ## Control words -/

theorem State.Canon.branch {pc : BitVec 14} {bubbles : Nat} (h : s.Canon) : (s.branch pc bubbles).Canon := h.groupSwitch.updRegs

theorem State.Canon.link {l : Nat} (h : s.Canon) : (s.link l).Canon := by
  unfold State.link
  split
  · exact h.emit
  · exact h.emit
  · exact h.updRegs

theorem State.Canon.execBr {g : BitVec 4} {n : Bool} {off : BitVec 18} (h : s.Canon) : Keeps (execBr g n off s) :=
  h.jump (.seq fun _ => .pure h.issued.branch)

theorem State.Canon.execCall {g : BitVec 4} {n : Bool} {off : BitVec 18} (h : s.Canon) : Keeps (execCall g n off s) :=
  h.jump (.seq fun _ => .pure h.issued.link.branch)

theorem State.Canon.execJmpr {g : BitVec 4} {n : Bool} {t l : BitVec 6} (h : s.Canon) : Keeps (execJmpr g n t l s) :=
  h.jump (.seq fun _ => .pure (.branch (h.issued.link.ite h.issued)))

theorem State.Canon.loopBack {pc : BitVec 14} {q0 : Bool} {lc : BitVec 32} {es : BitVec 3} (h : s.Canon) :
    (s.loopBack pc q0 lc es).Canon := h.updRegs

theorem State.Canon.execLoop {g : BitVec 4} {n : Bool} {off : BitVec 18} (h : s.Canon) : Keeps (execLoop g n off s) :=
  h.jump (.ite (.seq fun _ => .pure h.issued.loopBack)
    (.ite (.seq fun _ => .pure h.issued.loopBack) (.seq fun _ => .pure h.issued.updRegs)))

theorem State.Canon.execLset {g : BitVec 4} {n : Bool} {c : BitVec 6} {stages : BitVec 4} {imm : BitVec 8} (h : s.Canon) :
    Keeps (execLset g n c stages imm s) := h.word (.seq fun _ => .pure h.updRegs)

theorem State.Canon.rendezvous {grp : Nat} {fin : Bool} (h : s.Canon) : Except.Holds State.Canon (s.rendezvous grp fin) :=
  .seq fun _ => .seq fun _ => .seq fun _ =>
    .pure (.updIss (.updRegs (.updCore (h.withMach h.m.updVd.bumpVg) fun _ => Core.Canon.bump)))

theorem State.Canon.execRdvFin {grp : BitVec 8} (h : s.Canon) : Keeps (execRdvFin grp s) := h.jump h.issued.rendezvous
theorem State.Canon.execRdvMid {grp : BitVec 8} (h : s.Canon) : Keeps (execRdvMid grp s) := h.jump h.issued.rendezvous

theorem Mach.Canon.noteExit {g : Nat} {x : ExitRec} (h : m.Canon) : (m.noteExit g x).Canon := by
  unfold Mach.noteExit
  split
  · exact h
  · exact h.ite h.updJob

theorem State.Canon.execExit {g : BitVec 4} {n : Bool} {code : BitVec 16} (h : s.Canon) : Keeps (execExit g n code s) := by
  refine h.jump ?_
  have hi := h.issued
  dsimp only
  split
  · refine .ok (hi.withMach (.noteExit (.updCore ?_ fun _ => Core.Canon.endStream)))
    split
    · exact hi.m.leaveBars
    · exact hi.m
  · refine .ok (hi.withMach (.updCtx ?_ fun _ hx => hx.congr))
    split
    · exact hi.m.leaveBars
    · exact hi.m

theorem State.Canon.execWaitc {g : BitVec 4} {n : Bool} {cnt : BitVec 18} (h : s.Canon) : Keeps (execWaitc g n cnt s) :=
  h.word (.ok h.updRegs)

theorem State.Canon.execYield (h : s.Canon) : Keeps (execYield s) := h.word (.ok h.updIss)

theorem State.Canon.execPhase {g : BitVec 4} {n : Bool} {k : BitVec 4} (h : s.Canon) : Keeps (execPhase g n k s) :=
  h.word (.ok h.updIss)

theorem State.Canon.execLease {g : BitVec 4} {n : Bool} {cnt : BitVec 5} (h : s.Canon) : Keeps (execLease g n cnt s) :=
  h.word (.ok h.updIss)

/-! ## Leases -/

theorem Gang.Canon.setLease {x : Gang} {quad pos : Nat} {n : BitVec 5} (h : x.Canon) : (x.setLease quad pos n).Canon :=
  h.updCore fun _ hc => hc.congr

theorem Gang.Canon.grant {x : Gang} {quad pos : Nat} {n : BitVec 5} (h : x.Canon) : (x.grant quad pos n).Canon :=
  (h.setLease (quad := quad) (pos := pos) (n := n)).congr

theorem Mach.Canon.arbitrate {g quad : Nat} {held : Option Nat} {reqs : List (Nat × BitVec 5)} (h : m.Canon) :
    (m.arbitrate g quad held reqs).Canon := by
  unfold Mach.arbitrate
  extract_lets m1
  have h1 : m1.Canon := h.foldl fun _ _ h => h.updGang fun _ => Gang.Canon.setLease
  split
  · exact h1
  · extract_lets rp
    split
    · exact h1
    · split
      · exact h1.updGang fun _ => Gang.Canon.grant
      · extract_lets own m2
        have h2 : m2.Canon := by
          unfold m2 own
          split
          · exact h1.updGang fun _ => Gang.Canon.grant
          · exact h1
        split
        · exact h2
        · exact .schedule (h2.updGang fun _ hx => hx.congr)

theorem Mach.Canon.arbiters {g : Nat} {before : Option Gang} {leases : List (Nat × Nat × BitVec 5)} (h : m.Canon) :
    (m.arbiters g before leases).Canon := h.foldl fun _ _ h => h.arbitrate

theorem State.Canon.execLeaseTakeover {gang quad pos : Nat} {cnt : BitVec 5} (h : s.Canon) :
    Keeps (execLeaseTakeover gang quad pos cnt s) := by
  refine h.event (h.m.updGang fun x hx => .grant ?_)
  split
  · exact .setLease hx.congr
  · exact hx.congr

/-! ## Barrier words -/

theorem State.Canon.execBarInit {g : BitVec 4} {n : Bool} {bid : BitVec 8} {sc : BitVec 6} (h : s.Canon) :
    Keeps (execBarInit g n bid sc s) := h.word (.seq fun _ => .seq fun _ => .pure (h.withMach h.m.barInit))

theorem State.Canon.execBarExpb {g : BitVec 4} {n : Bool} {bid : BitVec 8} {sc : BitVec 6} (h : s.Canon) :
    Keeps (execBarExpb g n bid sc s) := h.word (.seq fun _ => .bind h.m.barExpect fun _ hm => .pure (h.withMach hm))

theorem State.Canon.arrive {bid : BitVec 8} {sco : BitVec 3} (h : s.Canon) : Except.Holds State.Canon (s.arrive bid sco) :=
  .seq fun _ => .seq fun _ => .pure (h.withMach h.m.barArrive)

theorem State.Canon.barWait {bid : BitVec 8} {sco : BitVec 3} (h : s.Canon) : (s.barWait bid sco).Canon := by
  unfold State.barWait
  extract_lets k
  split
  · exact h.withMach h.m.barAcquire
  · split
    · exact h.freeze
    · exact h.withMach (h.m.updCtx fun _ hx => hx.congr)

theorem State.Canon.execBarArv {g : BitVec 4} {n : Bool} {bid : BitVec 8} {sco : BitVec 3} (h : s.Canon) :
    Keeps (execBarArv g n bid sco s) := h.word h.arrive

theorem State.Canon.execBarWait {g : BitVec 4} {n : Bool} {bid : BitVec 8} {sco : BitVec 3} (h : s.Canon) :
    Keeps (execBarWait g n bid sco s) := h.word (.seq fun _ => .pure h.barWait)

theorem State.Canon.execBarAw {g : BitVec 4} {n : Bool} {bid : BitVec 8} {sco : BitVec 3} (h : s.Canon) :
    Keeps (execBarAw g n bid sco s) := h.word (.bind h.arrive fun _ hs => .pure hs.barWait)

/-! ## TRAP, EVNT, TLBI, DINV, HALT, CSAVE -/

theorem State.Canon.execMfsr {g : BitVec 4} {n : Bool} {d : BitVec 6} {reg : BitVec 12} (h : s.Canon) : Keeps (execMfsr g n d reg s) :=
  h.word (.ok h.resS)

theorem State.Canon.execMtsr {g : BitVec 4} {n : Bool} {a : BitVec 6} {reg : BitVec 12} (h : s.Canon) : Keeps (execMtsr g n a reg s) :=
  h.word (.ok h.sysWrite)

theorem State.Canon.execTrap {g : BitVec 4} {n : Bool} {code : BitVec 12} (h : s.Canon) : Keeps (execTrap g n code s) := h.word .error

theorem State.Canon.execEvnt {g : BitVec 4} {n : Bool} {code : BitVec 12} (h : s.Canon) : Keeps (execEvnt g n code s) :=
  h.word (.ok h.enqueue)

theorem State.Canon.execTlbi {g : BitVec 4} {n : Bool} {a : BitVec 6} (h : s.Canon) : Keeps (execTlbi g n a s) := by
  refine h.word (.seq fun _ => ?_)
  extract_lets m1 s1
  have h1 : s1.Canon := h.withMach h.m.enqueue.schedule
  split
  · exact .pure h1.freeze
  · exact .pure (h1.withMach (h1.m.updCtx fun _ hx => hx.congr))

theorem Gang.Canon.tlbDrop {x : Gang} {a : Word} (h : x.Canon) : (x.tlbDrop a).Canon := ⟨List.forall_mem_map.mpr fun c hc => (h.cores c hc).congr⟩

theorem Die.Canon.tlbDrop {d : Die} {vd : Nat} {a : Word} (h : d.Canon) : (d.tlbDrop vd a).Canon := by
  refine ⟨fun l hl => ⟨fun x hx => ?_⟩, h.clusters⟩
  obtain ⟨k, hk, rfl⟩ := Vector.mem_map.mp hl
  obtain ⟨y, hy, rfl⟩ := List.mem_map.mp hx
  have hc : y.Canon := (h.loupes k hk).ctxs y hy
  split
  · exact hc.congr
  · exact hc

theorem Mach.Canon.tlbDrop {vd : Nat} {a : Word} (h : m.Canon) : (m.tlbDrop vd a).Canon := by
  have hg : ({ m with gangs := m.gangs.map fun (p : Nat × Gang) => (p.1, if p.2.vd == vd then p.2.tlbDrop a else p.2) } : Mach).Canon := by
    refine h.map_gangs fun p hp => ?_
    split
    · exact hp.tlbDrop
    · exact hp
  refine .dropWalks ⟨h.dev, h.host, hg.gangs, fun d hd => ?_⟩
  obtain ⟨e, he, rfl⟩ := Vector.mem_map.mp hd
  exact (h.dies e he).tlbDrop

theorem State.Canon.execTlbiComplete {agent : Agent} (h : s.Canon) : Keeps (execTlbiComplete agent s) := by
  unfold Machine.execTlbiComplete
  split
  · split
    · exact .fault
    · exact .next (h.withMach (h.m.flushWho.tlbDrop.updGang fun _ hx => hx.congr))
  · split
    · exact .fault
    · split
      · exact .next (h.withMach (h.m.flushWho.tlbDrop.updCtx fun _ hx => hx.congr))
      · exact .fault

theorem State.Canon.execDinv {g : BitVec 4} {n : Bool} {a : BitVec 6} (h : s.Canon) : Keeps (execDinv g n a s) :=
  h.word (.seq fun _ => .pure (.updIss (h.withMach h.m.congr)))

theorem Mach.Canon.haltOthers {a : Agent} (h : m.Canon) : (m.haltOthers a).Canon := by
  unfold Mach.haltOthers
  split
  · exact h
  · refine .updJob (h.foldl fun _ _ h => h.ite (h.updGang fun _ hx => hx.congr))

theorem State.Canon.execHalt {g : BitVec 4} {n : Bool} (h : s.Canon) : Keeps (execHalt g n s) := by
  unfold Machine.execHalt
  have hw := h.word (decls := [.priv]) (on := s.guard g n)
    (body := fun _ => .error (.fault { cause := 0x11, code := 0xFFF, halt := true })) .error
  split
  · exact hw
  · split
    · next t ht => exact .next (.ite ((hw t ht).withMach (hw t ht).m.haltOthers) (hw t ht))
    · exact hw

theorem State.Canon.execHaltRemoteStop {gang : Nat} (h : s.Canon) : Keeps (execHaltRemoteStop gang s) := by
  unfold Machine.execHaltRemoteStop
  split
  · exact .fault
  · exact h.event (.takeStop (h.m.updGang fun _ hx => hx.congr))

theorem State.Canon.execCsave {g : BitVec 4} {n : Bool} {a : BitVec 6} (h : s.Canon) : Keeps (execCsave g n a s) :=
  h.word (.seq fun _ => .seq fun _ => .pure (h.updGang fun _ hx => hx.congr))

end

section

/-! # Loads, stores and atomics -/

variable {m m' : Mach} {s t : State}

/-! ## Reaching a place -/

theorem Mach.Canon.translate {t : Tlb} {vd va : Nat} {k : AccKind} (h : m.Canon) :
    Except.Holds (fun p => p.2.Canon) (m.translate t vd va k) := by
  have hw : Except.Holds (fun p : TlbEntry × Mach => p.2.Canon) (match tlbFind (m.tlb t) va with
      | some e => Except.ok (e, m)
      | none => (m.walk vd va).map (fun e => (e, m.keepWalk vd va))) := by
    split
    · exact .ok h
    · exact .map fun _ => h.keepWalk
  unfold Mach.translate
  split
  · exact .error
  · next e m1 heq =>
    extract_lets pa m2
    have h2 : m2.Canon := .ite (hw _ heq).tlbNote (hw _ heq)
    exact .ite .error (.ite .error (.ok h2))

/-- A place is reached with every memory in canonical form. -/
abbrev Reach.Canon (r : Reach) : Prop := r.m.Canon

theorem State.Canon.reach {e : Engine} {tlb : Tlb} {p : Word} {off : Int} {size align : Nat} {k : AccKind} (h : s.Canon) :
    Except.Holds Reach.Canon (s.reach e tlb p off size align k) := by
  refine .seq fun _ => .seq fun _ => ?_
  split
  · split
    · exact .ite .error .error
    · next heq => exact .pure (h.m.translate _ heq).countTouches
  · exact .pure h.m
  · exact .seq fun _ => .pure h.m

/-! ## Accesses begun and settled -/

theorem State.Canon.startRead {q : QEntry} {k reply : Nat} (h : s.Canon) : (s.startRead q k reply).Canon := by
  unfold State.startRead
  split
  · exact .ite (.updIss (h.withMach h.m.settleBank.loadNow)) h.enqueue
  · exact h.enqueue

theorem State.Canon.startWrite {q : QEntry} {k : Nat} (h : s.Canon) : (s.startWrite q k).Canon := h.updIss.ite h.enqueue

theorem State.Canon.startAmo {q : QEntry} {k : Nat} (h : s.Canon) : (s.startAmo q k).Canon := by
  unfold State.startAmo
  split
  · exact h.updIss
  · exact h.enqueue

theorem Mach.Canon.checkLoad {q : QEntry} {reply : Nat} (h : m.Canon) : (m.checkLoad q reply).Canon := by
  unfold Mach.checkLoad
  split
  · exact h
  · split
    · next heq => exact of_fst heq h.raceAccess
    · next heq => exact (of_fst heq h.raceAccess : Mach.Canon _).congr

theorem Mach.Canon.checkRow {q : QEntry} {rank : Nat} {units : List Nat} (h : m.Canon) : (m.checkRow q rank units).Canon := by
  unfold Mach.checkRow
  extract_lets x
  split
  · next heq => exact of_fst heq h.raceUnits
  · next heq => exact (of_fst heq h.raceUnits).updCore fun _ hc => hc.congr

theorem Mach.Canon.checkLcb {q : QEntry} {old : Option Ladder} {units : List Nat} {snap : Option Snap} (h : m.Canon) :
    (m.checkLcb q old units snap).Canon := by
  unfold Mach.checkLcb
  extract_lets x
  split
  · next heq =>
    split
    · exact (of_fst heq h.raceUnits).publish
    · exact of_fst heq h.raceUnits
  · next heq => exact (of_fst heq h.raceUnits).lateFault.updCore fun _ hc => hc.congr

theorem Mach.Canon.settleOps {ops : List BankOp} (h : m.Canon) : (m.settleOps ops).Canon := by
  refine h.foldl fun m p h => ?_
  dsimp only
  split
  · exact h.commitNow
  · exact h.enqueue
  · exact h.checkLoad
  · exact h.checkRow
  · exact h.checkLcb

theorem State.Canon.resReply {lat : Nat} {d : BitVec 6} {id size : Nat} {sx : Bool} (h : s.Canon) :
    (s.resReply lat d id size sx).Canon := h.emit

/-! ## Loads and stores -/

theorem State.Canon.sysOrder {reg : Nat} {cls : BitVec 3} {sem : BitVec 2} {op : QOp} (h : s.Canon) :
    (s.sysOrder reg cls sem op).Canon := h.withMach h.m.forceAll

theorem State.Canon.sysRelease {sco : Nat} (h : s.Canon) : (s.sysRelease sco).Canon := by
  unfold State.sysRelease
  split
  · exact h.withMach h.m.raceRelease
  · exact h.withMach h.m.bumpVg

theorem State.Canon.sysAcquire (h : s.Canon) : s.sysAcquire.Canon := by
  unfold State.sysAcquire
  split
  · exact h.withMach h.m.raceAcquireFence.acquired
  · exact h.withMach h.m.acquired

theorem State.Canon.load {size : Nat} {sx : Bool} {d a : BitVec 6} {cls : BitVec 3} {sem : BitVec 2} {sco : BitVec 3} {off : BitVec 6}
    {g : BitVec 4} (h : s.Canon) : Keeps (load size sx d a cls sem sco off g s) := by
  refine h.word (.ite (.seq fun reg => ?_) (.bind h.reach fun r hr => .seq fun _ => ?_))
  · exact .pure (.resS (.ite h.sysOrder.sysAcquire h.sysOrder))
  · exact .pure (.resReply (.startRead (h.withMach hr.newReply)))

theorem State.Canon.store {size : Nat} {d a : BitVec 6} {cls : BitVec 3} {sem : BitVec 2} {sco : BitVec 3} {off : BitVec 6}
    {g : BitVec 4} (h : s.Canon) : Keeps (store size d a cls sem sco off g s) := by
  refine h.word (.ite (.seq fun reg => ?_) (.bind h.reach fun r hr => .seq fun _ => ?_))
  · exact .pure (.sysWrite (.ite h.sysOrder.sysRelease h.sysOrder))
  · exact .pure (.startWrite (h.withMach hr))

theorem State.Canon.execLdl {d a : BitVec 6} {cls : BitVec 3} {sem : BitVec 2} {sco j : BitVec 3} {g : BitVec 4} (h : s.Canon) :
    Keeps (execLdl d a cls sem sco j g s) := by
  refine h.word (.seq fun _ => .seq fun _ => .seq fun _ => ?_)
  extract_lets +onlyGivenNames jp
  have hj (r : Reach) (hr : r.Canon) : Except.Holds State.Canon (jp r) := by
    unfold jp
    split
    · exact .error
    · exact .seq fun _ => .seq fun _ => .seq fun _ => .pure (.resReply (.startRead (h.withMach hr.newReply)))
  exact .ite (.bind h.reach hj) (.bind (.pure h.m) hj)

/-! ## Atomics -/

theorem State.Canon.atomic {p : Word} {size : Nat} (h : s.Canon) :
    Except.Holds (fun x => x.1.Canon) (s.atomic p size) := by
  refine .seq fun _ => .seq fun _ => .seq fun _ => ?_
  extract_lets +onlyGivenNames jp
  have hj (u : Unit) : Except.Holds (fun x => x.1.Canon) (jp u) := .bind h.reach fun _ hr => .seq fun _ => .pure hr
  exact .ite (.seq hj) (hj ())

theorem State.Canon.amo {code : Nat} {d a b : BitVec 6} {sem : BitVec 2} {sco : BitVec 3} {g : BitVec 4} (h : s.Canon) :
    Keeps (amo code d a b sem sco g s) :=
  h.word (.bind h.atomic fun _ hr => .pure (.resReply (.startAmo (h.withMach hr.newReply))))

theorem State.Canon.cas {size : Nat} {d a b : BitVec 6} {sem : BitVec 2} {sco : BitVec 3} {g : BitVec 4} (h : s.Canon) :
    Keeps (cas size d a b sem sco g s) :=
  h.word (.bind h.atomic fun _ hr => .pure (.resReply (.startAmo (h.withMach hr.newReply))))

theorem State.Canon.execFence {cls : BitVec 3} {sem : BitVec 2} {sco : BitVec 3} {g : BitVec 4} (h : s.Canon) :
    Keeps (execFence cls sem sco g s) := h.word (.ok h.enqueue)

end

section

/-! # V words -/

variable {m m' : Mach} {s t : State}

/-! ## V words that touch no memory -/

theorem State.Canon.view {code : Nat} (h : s.Canon) : (s.view code).Canon := by
  unfold State.view
  split
  · exact h
  · exact h.updIss

theorem State.Canon.resV {lat : Nat} {d : BitVec 6} {w : Bool} {wr : Mask} {r : Row} {f : Flags} (h : s.Canon) :
    (s.resV lat d w wr r f).Canon := .emit (h.ite h.view)

theorem State.Canon.resLanes {lat : Nat} {d : BitVec 6} {x w : Bool} {l : List Lane} (h : s.Canon) : (s.resLanes lat d x w l).Canon :=
  h.resV

theorem State.Canon.resM {lat : Nat} {mk : BitVec 3} {x : Bool} {k : Mask} (h : s.Canon) : (s.resM lat mk x k).Canon := h.emit

theorem State.Canon.vr1 {lat : Nat} {ok : Nat → Bool} {f : Shape → Nat → Lane} {d : BitVec 6} {a : BitVec 7} {x w : Bool}
    {g : BitVec 4} (h : s.Canon) : Keeps (vr1 lat ok f d a x w g s) := h.word (.ok h.view.resLanes)

theorem State.Canon.vr2 {lat : Shape → Nat} {ok : Nat → Bool} {f : Shape → Nat → Nat → Lane} {d : BitVec 6} {a b : BitVec 7} {x w : Bool}
    {g : BitVec 4} (h : s.Canon) : Keeps (vr2 lat ok f d a b x w g s) := h.word (.ok h.view.view.resLanes)

theorem State.Canon.vr3 {lat : Shape → Nat} {f : Shape → Nat → Nat → Nat → Lane} {d : BitVec 6} {a b : BitVec 7} {x w : Bool}
    {g : BitVec 4} (h : s.Canon) : Keeps (vr3 lat f d a b x w g s) := h.word (.ok h.view.view.view.resLanes)

theorem State.Canon.vmove {lat : Nat} {f : State → List Nat → List Nat} {d : BitVec 6} {a : BitVec 7} {x w : Bool} {g : BitVec 4}
    (h : s.Canon) : Keeps (vmove lat f d a x w g s) := h.word (.ok h.view.resLanes)

theorem State.Canon.execVred {y : BitVec 2} {op : BitVec 4} {a : BitVec 7} {x : Bool} {g : BitVec 4} (h : s.Canon) :
    Keeps (execVred y op a x g s) := h.word (.ite (.ok h.emit) (.ok h.view.emit))

theorem State.Canon.execVsetShape {ty : BitVec 4} {rm : BitVec 2} {sat : Bool} {gsl g : BitVec 4} (h : s.Canon) :
    Keeps (execVsetShape ty rm sat gsl g s) :=
  h.jump (.seq fun _ => .pure (.updRegs (.groupSwitch (h.issued.updCore fun _ hc => hc.congr))))

theorem State.Canon.execVsetTh {th : BitVec 2} {a : BitVec 6} {g : BitVec 4} (h : s.Canon) : Keeps (execVsetTh th a g s) :=
  h.word (.ok (h.updCore fun _ hc => hc.congr))

theorem State.Canon.execVsetTag {tag : BitVec 16} {g : BitVec 4} (h : s.Canon) : Keeps (execVsetTag tag g s) :=
  h.word (.ok (h.updCore fun _ hc => hc.congr))

theorem State.Canon.execVlrg {d : BitVec 6} {k : BitVec 3} {sl : Bool} {i : BitVec 6} {w : Bool} {g : BitVec 4} (h : s.Canon) :
    Keeps (execVlrg d k sl i w g s) := h.word (.ok h.updIss.resV)

/-! ## V words that reach scratchpad -/

theorem State.Canon.ownRow {lat : Nat} {d : BitVec 6} {cls : BitVec 3} {t : Bool} {v : RowSpec} (h : s.Canon) :
    (s.ownRow lat d cls t v).Canon := by
  unfold State.ownRow
  extract_lets +onlyGivenNames s1 err
  have h1 : s1.Canon := h.withMach (h.m.settleBank.foldl fun _ _ h => h.observe)
  exact .emit (.view (h1.ite h1.updIss))

theorem State.Canon.farRow {d : BitVec 6} {cls : BitVec 3} {t : Bool} {p : Word} {v : RowSpec} (h : s.Canon) :
    (s.farRow d cls t p v).Canon := .emit (.view (h.withMach (h.m.newReply.foldl fun _ _ h => h.enqueue)))

theorem State.Canon.execVld {d a : BitVec 6} {cls : BitVec 3} {t u : Bool} {off : BitVec 5} {g : BitVec 4} (h : s.Canon) :
    Keeps (execVld d a cls t u off g s) := by
  refine h.word (.seq fun _ => ?_)
  extract_lets base
  split
  · exact .pure h.ownRow
  · exact .pure h.ownRow
  · exact .pure (h.ownRow.ite h.farRow)

theorem State.Canon.rowStore {p : Word} {cls : BitVec 3} {rank off : Nat} {data : List (Nat × Byte)} (h : s.Canon) :
    (s.rowStore p cls rank off data).Canon := h.foldl fun _ _ h => h.startWrite

theorem State.Canon.rowSpine {p : Word} {cls : BitVec 3} {l : Word} {level : Nat} {flat : Bool}
    {blocks : List (Nat × List (Nat × Nat))} (h : s.Canon) : (s.rowSpine p cls l level flat blocks).Canon :=
  h.foldl fun _ _ h => h.startWrite

theorem State.Canon.execVst {d a : BitVec 6} {cls : BitVec 3} {u : Bool} {off : BitVec 5} {g : BitVec 4} (h : s.Canon) :
    Keeps (execVst d a cls u off g s) := by
  refine h.word (.seq fun _ => .seq fun _ => ?_)
  extract_lets +onlyGivenNames row s1
  have h1 : s1.Canon := h.view
  split
  · exact .pure h1.rowStore.emit
  · exact .pure h1.rowSpine
  · exact .pure h1.rowStore

theorem State.Canon.execVldl {d a : BitVec 6} {cls : BitVec 3} {t : Bool} {j : BitVec 3} {r : BitVec 2} {g : BitVec 4} (h : s.Canon) :
    Keeps (execVldl d a cls t j r g s) := h.word (.seq fun _ => .pure h.ownRow)

theorem State.Canon.execVldd {d a : BitVec 6} {cls : BitVec 3} {t : Bool} {j : BitVec 3} {r : BitVec 2} {g : BitVec 4} (h : s.Canon) :
    Keeps (execVldd d a cls t j r g s) := h.word (.seq fun _ => .pure h.ownRow)

theorem State.Canon.execVstl {d a : BitVec 6} {cls : BitVec 3} {flat : Bool} {j : BitVec 3} {r : BitVec 2} {g : BitVec 4} (h : s.Canon) :
    Keeps (execVstl d a cls flat j r g s) :=
  h.word (.seq fun _ => .seq fun _ => .pure (.rowSpine (h.view.updCore fun _ hc => hc.congr)))

end

section

/-! # M words -/

variable {m m' : Mach} {s t : State}

/-! ## M words: array commands and configuration -/

theorem State.Canon.updQuad {f : Quad → Quad} (h : s.Canon) : (s.updQuad f).Canon := h.updGang fun _ hx => hx.congr
theorem State.Canon.updSlot {n : Nat} {f : Slot → Slot} (h : s.Canon) : (s.updSlot n f).Canon := h.updQuad
theorem State.Canon.updMat {f : MUnit → MUnit} (h : s.Canon) : (s.updMat f).Canon := h.updCore fun _ hc => hc.congr

theorem State.Canon.occupy {t : BitVec 3} {occ ready : Nat} {f : Flags} (h : s.Canon) : (s.occupy t occ ready f).Canon :=
  State.Canon.withMach h.updMat h.updMat.m.schedule

theorem State.Canon.holdPort {occ : Nat} (h : s.Canon) : (s.holdPort occ).Canon := h.updMat
theorem State.Canon.setTile {t : BitVec 3} {x : Tile} (h : s.Canon) : (s.setTile t x).Canon := h.updMat

theorem State.Canon.arrayRun {t : BitVec 3} {slots : List Nat} {occ : Nat} {x : Tile} {f : Flags} (h : s.Canon) :
    (s.arrayRun t slots occ x f).Canon := by
  unfold State.arrayRun
  extract_lets q m1 s1 s2 s3
  have h1 : s1.Canon := .updMat (h.withMach (h.m.foldl fun _ _ h => h.learnStamp))
  have h3 : s3.Canon := State.Canon.foldl (h1.updQuad (f := fun q => { q with arrayEnd := s1.ec + occ })) fun _ _ h => h.updSlot
  exact h3.setTile.occupy

theorem State.Canon.multiply {trans : Bool} {t : BitVec 3} {a b : BitVec 8} {z : Bool} {g : BitVec 4} (h : s.Canon) :
    Keeps (multiply trans t a b z g s) := h.word (.seq fun _ => .pure h.arrayRun)

theorem State.Canon.execMcnv {ac : BitVec 3} {sa sb : BitVec 8} {z : Bool} {g : BitVec 4} (h : s.Canon) :
    Keeps (execMcnv ac sa sb z g s) := h.word (.seq fun _ => .seq fun _ => .pure h.arrayRun)

theorem State.Canon.execMcfg {ta tb : BitVec 4} {sco : BitVec 3} {g : BitVec 4} (h : s.Canon) : Keeps (execMcfg ta tb sco g s) :=
  h.word (.ok h.updMat)

theorem State.Canon.execMrnd {rm : BitVec 2} {g : BitVec 4} (h : s.Canon) : Keeps (execMrnd rm g s) := h.word (.ok h.updMat)

theorem State.Canon.execMwin {p : BitVec 8} {g : BitVec 4} (h : s.Canon) : Keeps (execMwin p g s) :=
  h.word (.seq fun _ => .pure h.updMat)

theorem State.Canon.execMver {ac : BitVec 3} {p : BitVec 8} {g : BitVec 4} (h : s.Canon) : Keeps (execMver ac p g s) :=
  h.word (.seq fun _ => .pure h.updMat)

theorem State.Canon.execMverTag {p : BitVec 8} {g : BitVec 4} (h : s.Canon) : Keeps (execMverTag p g s) := h.word (.ok h.updMat)

theorem State.Canon.execMclm {sa : BitVec 8} {g : BitVec 4} (h : s.Canon) : Keeps (execMclm sa g s) :=
  h.word (.seq fun _ => .pure h.updSlot)

theorem State.Canon.execMrel {sa : BitVec 8} {g : BitVec 4} (h : s.Canon) : Keeps (execMrel sa g s) :=
  h.word (.seq fun _ => .seq fun _ => .pure h.updSlot)

/-! ## Beats -/

theorem Mach.Canon.mReady {g r off n : Nat} (h : m.Canon) : (m.mReady g r off n).Canon := h.settleBank.observe

theorem Mach.Canon.mRead {bank : Mach} {g r : Nat} {b : Beat} {off n : Nat} (h : m.Canon) : (m.mRead bank g r b off n).1.Canon := by
  unfold Mach.mRead
  extract_lets q
  split
  · dsimp only
    exact h.lateFault
  · split
    · next heq =>
      dsimp only
      exact (of_fst heq h.raceUnits).lateFault
    · next heq => exact of_fst heq h.raceUnits

theorem Mach.Canon.mWrite {g r : Nat} {b : Beat} {off : Nat} {bytes : List Byte} (h : m.Canon) : (m.mWrite g r b off bytes).Canon :=
  h.fresh.foldl fun _ _ h => .ite h.commitNow h.enqueue

theorem Mach.Canon.enqueueFar {q : QEntry} {k : Nat} (h : m.Canon) : (m.enqueueFar q k).Canon := h.congr

theorem Mach.Canon.mRequest {g r : Nat} {b : Beat} {n : Nat} (h : m.Canon) : (m.mRequest g r b n).1.Canon :=
  foldl_keeps (P := fun p : Mach × Beat => p.1.Canon) h fun _ _ h => h.newReply.fresh.foldl fun _ _ h => h.enqueueFar

theorem Mach.Canon.mEnd {g r : Nat} {b : Beat} {tile : Option (BitVec 3)} (h : m.Canon) : (m.mEnd g r b tile).Canon := by
  refine .ite (.ite h.commitNow ?_) h.enqueue
  split
  · exact h.schedule
  · exact h

theorem Core.Canon.setBeat {c : Core} {issue : Nat} {b : Beat} (h : c.Canon) : (c.setBeat issue b).Canon := h.congr

theorem Mach.Canon.beatWrite {g r : Nat} {b : Beat} (h : m.Canon) : (m.beatWrite g r b).Canon := by
  unfold Mach.beatWrite
  split
  · exact .updCore (.ite h.mWrite.mEnd h.mWrite) fun _ => Core.Canon.setBeat
  · exact h.mWrite.updCore fun _ => Core.Canon.setBeat
  · exact h

theorem Mach.Canon.payRows {g r ec : Nat} (h : m.Canon) : (m.payRows g r ec).Canon :=
  h.foldl fun _ _ h => h.foldl fun _ _ h => h.beatWrite.ite h

theorem Mach.Canon.acquireAt {g r ec : Nat} (h : m.Canon) : (m.acquireAt g r ec).Canon := h.payRows.flushCore

theorem State.Canon.mAcquire {k : Bool} (h : s.Canon) : (s.mAcquire k).Canon := .ite (h.withMach h.m.acquireAt.acquired) h

theorem State.Canon.startBeats {op : BeatOp} {p : Word} {n : Nat} {read k : Bool} (h : s.Canon) :
    (s.startBeats op p n read k).Canon := by
  unfold State.startBeats
  extract_lets b
  split
  next m1 b1 heq =>
  have h1 : m1.Canon := of_fst (P := Mach.Canon) heq (by
    split
    · exact h.m.mRequest
    · exact h.m)
  exact .updMat (h.withMach h1)

/-! ## M words: tile commands -/

theorem State.Canon.execMfil {sa p : BitVec 8} {k : Bool} {g : BitVec 4} (h : s.Canon) : Keeps (execMfil sa p k g s) :=
  have h1 (n : Nat) (op : BeatOp) (w : Word) (f : MUnit → MUnit) (f' : Slot → Slot) (j : Nat) :
      ((((s.mAcquire k).startBeats op w n true k).updMat f).updSlot j f').Canon := h.mAcquire.startBeats.updMat.updSlot
  h.word (.seq fun _ => .seq fun _ => .seq fun _ => .seq fun _ =>
    .pure (.withMach (h1 _ _ _ _ _ _) (h1 _ _ _ _ _ _).m.schedule))

theorem State.Canon.execMfilStamp {gang quad slot : Nat} {tag : BitVec 16} (h : s.Canon) : Keeps (execMfilStamp gang quad slot tag s) :=
  h.event h.m.updTarget

theorem State.Canon.execMzer {ac : BitVec 3} {g : BitVec 4} (h : s.Canon) : Keeps (execMzer ac g s) :=
  h.word (.seq fun _ => .seq fun _ => .pure h.setTile.holdPort.occupy)

theorem State.Canon.execMlda {ac : BitVec 3} {p : BitVec 8} {k : Bool} {g : BitVec 4} (h : s.Canon) : Keeps (execMlda ac p k g s) :=
  h.word (.seq fun _ => .seq fun _ => .seq fun _ => .pure h.mAcquire.startBeats.holdPort.occupy)

theorem State.Canon.execMdrn {ac : BitVec 3} {ty : BitVec 4} {p : BitVec 8} {v k : Bool} {g : BitVec 4} (h : s.Canon) :
    Keeps (execMdrn ac ty p v k g s) :=
  h.word (.seq fun _ => .seq fun _ => .seq fun _ => .seq fun _ => .pure h.startBeats.holdPort.occupy)

theorem State.Canon.execTileReady {gang rank : Nat} {flags : BitVec 5} (h : s.Canon) : Keeps (execTileReady gang rank flags s) :=
  h.event (h.m.updCore fun _ hc => hc.congr)

theorem State.Canon.execMdrnComplete {gang rank : Nat} {tile : BitVec 3} {rel : Bool} {sco : BitVec 3} (h : s.Canon) :
    Keeps (execMdrnComplete gang rank tile rel sco s) := h.event (h.m.updCore fun _ hc => hc.congr)

/-! ## The ladder -/

theorem State.Canon.mStore {b : Beat} {off : Nat} {bytes : List Byte} (h : s.Canon) : (s.mStore b off bytes).Canon :=
  h.foldl fun _ _ h => h.updIss

theorem State.Canon.lcbRead {off n : Nat} {k : Bool} (h : s.Canon) : (s.lcbRead off n k).1.Canon :=
  .updIss (h.withMach h.m.mReady)

theorem State.Canon.slotWrite {k j : Nat} {x : Tile} (h : s.Canon) : (s.slotWrite k j x).Canon := h.updMat
theorem State.Canon.holdLadder {occ : Nat} (h : s.Canon) : (s.holdLadder occ).Canon := h.holdPort.updMat
theorem State.Canon.startSpill {op : BeatOp} {n : Nat} (h : s.Canon) : (s.startSpill op n).Canon := h.updMat

theorem State.Canon.execLopn {p : BitVec 8} {k : Bool} {g : BitVec 4} (h : s.Canon) : Keeps (execLopn p k g s) := by
  refine h.word (.seq fun _ => .seq fun _ => .seq fun _ => .seq fun _ => .seq fun _ => .ite (.seq fun _ => ?_) ?_)
  · split
    next s1 c heq =>
    have h1 : s1.Canon := of_fst heq h.mAcquire.lcbRead
    split
    · exact .error
    · exact .pure h1.updMat.holdLadder
  · exact .pure h.mAcquire.startBeats.holdLadder

theorem State.Canon.execLstp {ac : BitVec 3} {v : Bool} {g : BitVec 4} (h : s.Canon) : Keeps (execLstp ac v g s) := by
  refine h.word (.seq fun l => .seq fun _ => .seq fun _ => .seq fun _ => .seq fun _ => ?_)
  extract_lets +onlyGivenNames x u
  split
  next s1 f heq =>
  have h1 : s1.Canon := of_fst (P := State.Canon) heq (by
    split
    · exact h.slotWrite
    · extract_lets t1
      have ht : t1.Canon := h.slotWrite
      split
      · exact ht.slotWrite
      · split
        · exact ht.startSpill
        · exact ht.startSpill)
  exact .pure h1.updMat.holdLadder.occupy

theorem State.Canon.execLrd {ac : BitVec 3} {v : Bool} {g : BitVec 4} (h : s.Canon) : Keeps (execLrd ac v g s) := by
  refine h.word (.seq fun l => .seq fun _ => .seq fun _ => .seq fun _ => ?_)
  extract_lets +onlyGivenNames zero
  split
  next s1 f heq =>
  have h1 : s1.Canon := of_fst (P := State.Canon) heq (by
    split
    · exact h.setTile
    · exact h.startSpill)
  exact .pure h1.holdLadder.occupy

theorem State.Canon.execLwgt {k : Bool} {g : BitVec 4} (h : s.Canon) : Keeps (execLwgt k g s) :=
  h.word (.seq fun _ => .seq fun _ => .ite (.seq fun _ => .pure h.mAcquire.lcbRead.updMat.holdLadder)
    (.pure h.mAcquire.startBeats.holdLadder))

theorem State.Canon.execLcls {k : Bool} {g : BitVec 4} (h : s.Canon) : Keeps (execLcls k g s) := by
  refine h.word (.seq fun l => .seq fun _ => ?_)
  extract_lets _ b s1 _ s2
  have h1 : s1.Canon := h.mStore.ite (h.withMach h.m.mWrite)
  have h2 : s2.Canon := .ite h1.enqueue h1
  exact .pure h2.updMat.holdLadder

/-! ## Beats from ec to ec -/

theorem Mach.Canon.beatData {g r : Nat} {b : Beat} {bytes : List Byte} (h : m.Canon) : (m.beatData g r b bytes).Canon := by
  unfold Mach.beatData
  split
  · exact h.updGang fun _ hx => hx.congr
  · exact h.updCore fun _ hc => hc.congr
  · exact h
  · exact h
  · exact h
  · extract_lets p close
    split
    · exact h.lateFault.updCore fun _ hc => hc.congr
    · exact h.updCore fun _ hc => hc.congr
  · exact h.updCore fun _ hc => hc.congr

theorem Mach.Canon.beatDone {g r : Nat} {b : Beat} {bytes : Option (List Byte)} (h : m.Canon) : (m.beatDone g r b bytes).Canon := by
  unfold Mach.beatDone
  extract_lets moot m1 b' m2
  have h1 : m1.Canon := by
    unfold m1
    split
    · exact h.beatData
    · exact h
  exact .updCore (.ite h1.publish h1) fun _ => Core.Canon.setBeat

theorem Mach.Canon.spillData {g r : Nat} {b : Beat} {bytes : List (List Byte)} (h : m.Canon) : (m.spillData g r b bytes).1.Canon := by
  unfold Mach.spillData
  extract_lets b'
  split
  · split
    extract_lets q new acc f
    split
    · exact h
    · exact .schedule (h.updCore fun _ hc => hc.congr)
  · exact h.schedule.ite h
  · exact h

theorem Mach.Canon.beatOwn {bank : Mach} {g r : Nat} {b : Beat} (h : m.Canon) : (m.beatOwn bank g r b).Canon := by
  unfold Mach.beatOwn
  split
  next m1 data heq =>
  have h1 : m1.Canon := of_fst heq
    (foldl_keeps (P := fun p : Mach × List (Option (List Byte)) => p.1.Canon) h fun _ _ h => h.mRead)
  extract_lets +onlyGivenNames got
  split
  · exact .updCore (.spillData (.ite h1 h1.fresh)) fun _ => Core.Canon.setBeat
  · exact .updCore (.spillData (.ite h1 h1.fresh)) fun _ => Core.Canon.setBeat
  · exact h1.beatDone

theorem Mach.Canon.beatFar {g r : Nat} {b : Beat} (h : m.Canon) : (m.beatFar g r b).Canon := by
  unfold Mach.beatFar
  split
  · exact h.beatDone
  · extract_lets m1
    have h1 : m1.Canon := h.congr
    split
    · exact h1.lateFault.beatDone
    · exact h1.beatDone

theorem Mach.Canon.eachRank {g : Nat} {f : Mach → Nat → Mach} (h : m.Canon) (hf : ∀ m r, m.Canon → (f m r).Canon) :
    (m.eachRank g f).Canon := h.foldl hf

theorem Mach.Canon.beatsArrived {g ec : Nat} (h : m.Canon) : (m.beatsArrived g ec).Canon :=
  h.eachRank fun _ _ h => h.foldl fun _ _ h => h.beatFar.ite h

theorem Mach.Canon.beatsReady {g ec : Nat} (h : m.Canon) : (m.beatsReady g ec).Canon :=
  h.eachRank fun _ _ h => h.foldl fun _ _ h => h.foldl fun _ _ h => h.mReady

theorem Mach.Canon.beatsRead {bank : Mach} {g ec : Nat} (h : m.Canon) : (m.beatsRead bank g ec).Canon :=
  h.eachRank fun _ _ h => h.foldl fun _ _ h => h.beatOwn

theorem Mach.Canon.beatsWrite {g ec : Nat} (h : m.Canon) : (m.beatsWrite g ec).Canon :=
  h.eachRank fun _ _ h => h.foldl fun _ _ h => h.beatWrite.ite h

theorem Mach.Canon.drainRank {g r : Nat} (h : m.Canon) : (m.drainRank g r).Canon :=
  h.foldl fun _ _ h => h.foldl fun _ _ h => h.beatWrite.ite (h.beatsReady.beatOwn.ite (h.beatFar.ite h))

theorem Mach.Canon.drainBeats {g : Nat} (h : m.Canon) : (m.drainBeats g).Canon := h.eachRank fun _ _ h => h.drainRank

end

section

/-! # Transfers -/

variable {m m' : Mach} {s t : State} {c : Cmd} {id : Nat}

/-! ## A command's accesses -/

theorem Except.Holds.foldlM {ε α β : Type} {P : α → Prop} {f : α → β → Except ε α} {l : List β} {a : α} (h : P a)
    (hf : ∀ a b, P a → Except.Holds P (f a b)) : Except.Holds P (l.foldlM f a) := by
  induction l generalizing a with
  | nil => exact .pure h
  | cons b l ih =>
    rw [List.foldlM_cons]
    exact .bind (hf a b h) fun _ h => ih h

/-- What comes with a package in canonical form. -/
abbrev MachCanon {α : Type} (x : α × Mach) : Prop := x.2.Canon

/-- What a command comes to with its package in canonical form. -/
abbrev StepCanon (x : Cmd × Mach × Nat) : Prop := x.2.1.Canon

theorem Mach.Canon.updCmd {f : Cmd → Cmd} (h : m.Canon) : (m.updCmd id f).Canon := h.congr

theorem Mach.Canon.cmdPlace {p : Word} {off : Int} {size : Nat} {k : AccKind} {tree : Option Nat} (h : m.Canon) :
    Except.Holds (fun x => x.2.2.Canon) (m.cmdPlace c p off size k tree) := by
  refine .seq fun _ => ?_
  split
  · extract_lets o q
    split
    · exact .ite .error .error
    · next heq => exact .ite .error (.ite (.ok (h.translate _ heq).countCmd) .error)
  · exact .seq fun _ => .pure h
  · exact .seq fun _ => .pure h

theorem Mach.Canon.cmdCheck {loc : Loc} {leaf : Word} {write : Bool} {n : Nat} {p : Word} {cas : Option Word} (h : m.Canon) :
    Except.Holds Mach.Canon (m.cmdCheck c loc leaf write n p cas) := by
  refine .ite .error (.ite .error ?_)
  split
  · exact .ok h.noteOutside
  · extract_lets x u
    clear_value u
    split
    · exact .ok h
    · split
      · next heq => exact .ok (of_fst heq h.raceAccess)
      · exact .error

theorem Mach.Canon.cmdBytes {loc : Loc} {n va : Nat} (h : m.Canon) : (m.cmdBytes c loc n va).2.Canon := by
  unfold Mach.cmdBytes
  extract_lets m1
  have h1 : m1.Canon := h.observe
  split
  · exact ite_keeps (P := MachCanon) h1 h1
  · exact h1.fresh.readView

theorem Mach.Canon.cmdRead {p : Word} {off : Int} {n : Nat} (h : m.Canon) : Except.Holds MachCanon (m.cmdRead c p off n) :=
  .ite .error (.foldlM h fun _ _ h => .bind h.cmdPlace fun _ h => .bind h.cmdCheck fun _ h => .pure h.cmdBytes)

theorem Mach.Canon.cmdStore {loc : Loc} {bytes : List Byte} (h : m.Canon) : (m.cmdStore c loc bytes).Canon :=
  (h.observe.writeLoc.renewCopy : Mach.Canon _).congr

theorem Mach.Canon.cmdWrite {p : Word} {off : Int} {bytes : List Byte} (h : m.Canon) :
    Except.Holds Mach.Canon (m.cmdWrite c p off bytes) :=
  .ite .error (.foldlM h fun _ _ h => .bind h.cmdPlace fun _ h => .bind h.cmdCheck fun _ h => .pure h.cmdStore)

theorem Mach.Canon.cmdSrcRow {r : Nat} (h : m.Canon) : Except.Holds MachCanon (m.cmdSrcRow c r) := by
  unfold Mach.cmdSrcRow
  split
  · exact .ok h
  · exact .bind h.cmdRead fun _ h => .pure h

/-! ## A command's end -/

theorem Mach.Canon.captureFirst (h : m.Canon) : (m.captureFirst id).Canon := by
  unfold Mach.captureFirst
  split
  · exact h
  · split
    · exact h
    · exact .ite h h.settleBank.updCmd

theorem Mach.Canon.cmdPublish (h : m.Canon) : (m.cmdPublish c).Canon := by
  unfold Mach.cmdPublish
  extract_lets gang m1 m2
  have h1 : m1.Canon := by
    unfold m1
    clear_value gang
    split
    · exact h.publish
    · exact h
  have h2 : m2.Canon := by
    unfold m2
    split
    · extract_lets m3
      exact .ite (.phaseRel h1.phaseMerge) h1.phaseMerge
    · exact h1
  exact .ite h2.bumpVg h2

theorem Mach.Canon.cmdGone (h : m.Canon) : (m.cmdGone id).Canon := h.congr

theorem Mach.Canon.cmdDone (h : m.Canon) : (m.cmdDone id c).Canon := by
  unfold Mach.cmdDone
  extract_lets m1 m2 m3
  have h2 : m2.Canon := .cmdPublish (h.foldl fun _ _ h => h.updTarget)
  have h3 : m3.Canon := by
    unfold m3
    split
    · exact h2.subBytes
    · exact h2
  exact h3.cmdGone

theorem Mach.Canon.cmdCancel {rec_ : Bool} {e : BitVec 8 × Word × BitVec 128} (h : m.Canon) : (m.cmdCancel id c rec_ e).Canon := by
  unfold Mach.cmdCancel
  extract_lets m1 m2 m3
  have h1 : m1.Canon := h.foldl fun _ _ h => h.updTarget
  have h2 : m2.Canon := by
    unfold m2
    split
    · exact h1.orphan
    · exact h1
  refine .ite h2.cmdGone ?_
  split
  · exact h2.cmdGone.updCore fun _ hc => hc.congr
  · exact h2.cmdGone.stopLoupe

theorem State.Canon.execTransferFault {cause : BitVec 8} (h : s.Canon) : Keeps (execTransferFault id cause s) := by
  unfold Machine.execTransferFault
  split
  · exact .fault
  · split
    · exact .fault
    · exact h.event h.m.cmdCancel

theorem State.Canon.execCommandHalt {va : BitVec 64} (h : s.Canon) : Keeps (execCommandHalt id va s) := by
  unfold Machine.execCommandHalt
  split
  · exact .fault
  · split
    · exact .fault
    · exact h.event h.m.postPage

/-! ## Moves -/

theorem Mach.Canon.cmdElems {row : Int} {i0 n : Nat} (h : m.Canon) : Except.Holds MachCanon (m.cmdElems c row i0 n) :=
  .ite (.foldlM h fun _ _ h => .bind h.cmdRead fun _ h => .pure h) (.bind h.cmdRead fun _ h => .pure h)

theorem Mach.Canon.cmdPut {off : Int} {bytes : List Byte} (h : m.Canon) : Except.Holds Mach.Canon (m.cmdPut c off bytes) := by
  unfold Mach.cmdPut
  split
  · exact .ite .error (.ok (h.updGang fun _ hx => hx.congr))
  · exact h.cmdWrite

theorem Mach.Canon.stepCopy {lim : Nat} (h : m.Canon) : Except.Holds StepCanon (m.stepCopy id c lim) := by
  unfold Mach.stepCopy
  extract_lets t x r i0 d sty dty
  split
  · exact .seq fun _ => .bind h.cmdPut fun _ h => .pure h
  · refine .bind h.cmdSrcRow fun _ h => .ite ?_ (.ite ?_ ?_)
    · exact .seq fun _ => .seq fun _ => .bind h.cmdRead fun _ h => .bind h.cmdPut fun _ h => .pure h
    · exact .seq fun _ => .seq fun _ => .bind h.cmdElems fun _ h => .bind h.cmdPut fun _ h => .pure h
    · exact .seq fun _ => .seq fun _ => .bind h.cmdElems fun _ h => .bind h.cmdPut fun _ h => .pure h

theorem Mach.Canon.cmdBlock {p : Word} {off : Int} {ty : Nat} {k : AccKind} (h : m.Canon) :
    Except.Holds (fun x => x.2.2.2.Canon) (m.cmdBlock c p off ty k) := by
  refine .bind h.cmdPlace fun x h => ?_
  obtain ⟨loc, leaf, m⟩ := x
  exact .ite .error (.bind h.cmdCheck fun _ h => .pure h)

theorem Mach.Canon.levelOf {off : Int} (h : m.Canon) : Except.Holds MachCanon (m.levelOf c off) :=
  .bind h.cmdBlock fun _ h => .pure h

theorem Mach.Canon.stepLevel {lim : Nat} (h : m.Canon) : Except.Holds StepCanon (m.stepLevel c lim) := by
  refine .seq fun _ => .bind h.cmdSrcRow fun _ h => .bind (P := MachCanon) (.foldlM h fun _ _ h => ?_) fun _ h => ?_
  · exact .bind h.levelOf fun _ h => .pure h
  · exact .bind h.cmdPut fun _ h => .pure h

theorem Mach.Canon.stepEncode (h : m.Canon) : Except.Holds StepCanon (m.stepEncode id c) := by
  refine .bind h.cmdBlock fun _ h => .bind (P := MachCanon) (.foldlM h fun _ _ h => ?_) fun _ h => ?_
  · exact .bind h.cmdSrcRow fun _ h => .seq fun _ => .bind h.cmdElems fun _ h => .pure h
  · exact .pure h.cmdStore

theorem Mach.Canon.stepPack (h : m.Canon) : Except.Holds StepCanon (m.stepPack id c) :=
  .bind h.cmdSrcRow fun _ h => .seq fun _ => .bind h.cmdRead fun _ h => .pure h

theorem Mach.Canon.stepUnpack (h : m.Canon) : Except.Holds StepCanon (m.stepUnpack id c) := by
  refine .bind h.cmdSrcRow fun _ h => .seq fun _ => .bind h.cmdRead fun _ h => .seq fun _ => .seq fun _ => .bind h.cmdRead fun _ h => ?_
  dsimp only
  split
  · exact .error
  · exact .seq fun _ => .seq fun _ => .bind h.cmdRead fun _ h => .pure h

theorem Mach.Canon.stepSegs {lim : Nat} (h : m.Canon) : Except.Holds StepCanon (m.stepSegs c lim) := by
  unfold Mach.stepSegs
  split
  · exact .ok h
  · exact .seq fun _ => .bind h.cmdPut fun _ h => .pure h

theorem Mach.Canon.cmdErr {cause : BitVec 8} {addr : Word} (h : m.Canon) : (m.cmdErr id cause addr).Canon := by
  unfold Mach.cmdErr
  split
  · exact h
  · exact h.ite h.congr

theorem Mach.Canon.readAll (h : m.Canon) : Except.Holds MachCanon (m.readAll id c) :=
  .foldlM h fun _ _ h => .bind h.cmdSrcRow fun _ h => .seq fun _ => .bind h.cmdRead fun _ h => .pure h

theorem Mach.Canon.stepCol {grp : BitVec 8} {op : BitVec 2} (h : m.Canon) : Except.Holds StepCanon (m.stepCol id c grp op) := by
  refine .ite (.bind h.readAll fun _ h => .pure h) (.ite ?_ (.ite .error (.ite .error (.ite .error (.ite .error (.pure ?_))))))
  · split
    exact .pure h
  · exact h.foldl fun _ _ h => h.ite h.updCmd

theorem Mach.Canon.colCancel {cause : BitVec 8} (h : m.Canon) : (m.colCancel id c cause).Canon := by
  unfold Mach.colCancel
  split
  · refine h.ite (h.foldl fun _ _ h => ?_)
    split
    · exact h.ite h.cmdErr
    · exact h
  · exact h

theorem Mach.Canon.fetchLength (h : m.Canon) : Except.Holds MachCanon (m.fetchLength c) := .bind h.cmdRead fun _ h => .pure h

theorem Mach.Canon.stepFetch {range : Word} {lim : Nat} (h : m.Canon) : Except.Holds StepCanon (m.stepFetch c range lim) := by
  unfold Mach.stepFetch
  extract_lets x nb i k b dst
  split
  · exact .bind h.fetchLength fun _ h => .pure h
  · refine .ite (.seq fun _ => .bind h.cmdRead fun _ h => .seq fun _ => .bind h.cmdWrite fun _ h => .pure h) (.seq fun _ => ?_)
    extract_lets +onlyGivenNames valid l jp
    have hj (x : List Byte × Mach) (h : MachCanon x) : Except.Holds StepCanon (jp x) := .bind h.cmdWrite fun _ h => .pure h
    exact .ite (.bind h.cmdRead hj) (.bind (.pure h) hj)
  · exact .error

theorem Mach.Canon.stepDrop {range : Word} {drop : Bool} (h : m.Canon) : Except.Holds StepCanon (m.stepDrop c range drop) := by
  refine .ite (.bind h.cmdRead fun _ h => .ite (.pure h) (.ite (.pure h) ?_)) (.ite ?_ ?_)
  · exact .seq fun _ => .seq fun _ => .pure h
  · exact .bind h.cmdRead fun _ h => .bind h.cmdWrite fun _ h => .pure h
  · exact .bind h.cmdWrite fun _ h => .pure h

theorem Mach.Canon.stepTransfer {lim : Nat} (h : m.Canon) : Except.Holds StepCanon (m.stepTransfer id c lim) := by
  unfold Mach.stepTransfer
  refine .ite h.stepSegs ?_
  generalize c.op = op
  cases op with
  | tcpy => exact h.stepCopy
  | tops slot => exact h.stepCopy
  | tfil v => exact h.stepCopy
  | tlvl => exact h.stepLevel
  | tenc => exact h.stepEncode
  | tpak => exact h.stepPack
  | tunp => exact h.stepUnpack
  | tcol grp op => exact h.stepCol
  | tkvf p range d => exact h.stepFetch
  | tdrp p range drop => exact h.stepDrop
  | _ => exact .error

theorem Mach.Canon.walkAhead (h : m.Canon) : (m.walkAhead c).Canon := by
  refine h.ite (h.foldl fun m p h => ?_)
  dsimp only
  refine h.ite ?_
  split
  · next heq => exact h.translate _ heq
  · exact h.walked

/-! ## T words and events -/

theorem State.Canon.tconf {decls : List Decl} {g : BitVec 4} {f : State → TSet → TSet} (h : s.Canon) : Keeps (tconf decls g f s) :=
  h.word (.ok (h.updCore fun _ hc => hc.congr))

theorem State.Canon.enqueueCmd {start : Nat} (h : s.Canon) : (s.enqueueCmd c start).Canon := by
  unfold State.enqueueCmd
  split
  next heq =>
    have h1 := of_snd (P := Mach.Canon) heq h.m.newId
    extract_lets m2 m3
    have h3 : m3.Canon := (h1.congr : m2.Canon).foldl fun _ _ h => h.updTarget
    split
    exact (h.withMach h3.schedule).updIss

theorem State.Canon.go {op : CmdOp} {l : List Byte} {bad : Option (BitVec 8 × Word × BitVec 128)} (h : s.Canon) :
    Except.Holds State.Canon (s.go op l bad) := by
  refine .seq fun _ => .seq fun _ => .seq fun _ => .seq fun bar => .seq fun _ => .seq fun _ => .seq fun _ => ?_
  refine .ite (.seq fun _ => .seq fun _ => ?_) ?_
  all_goals
    refine .seq fun _ => .seq fun _ => ?_
    generalize s.m.clusterOf s.gno = p
    obtain ⟨d, k⟩ := p
    refine .pure (.enqueueCmd ?_)
    split
    · exact h.updCore fun _ hc => hc.congr
    · exact h

theorem State.Canon.goWord {op : CmdOp} {decls : List Decl} {g : BitVec 4} (h : s.Canon) : Keeps (Machine.go op decls g s) := h.word h.go

theorem State.Canon.execTfil {p : BitVec 6} {g : BitVec 4} (h : s.Canon) : Keeps (execTfil p g s) := h.word h.go

theorem State.Canon.kvHeader {p : Word} (h : s.Canon) : Except.Holds (fun x => x.2.2.Canon) (s.kvHeader p) := by
  refine .seq fun _ => .bind h.reach fun r hr => .seq fun _ => ?_
  split
  · exact .pure h
  · extract_lets m1 l q
    split
    next m2 rep heq =>
      have h2 : m2.Canon := by
        refine of_fst (P := Mach.Canon) heq ?_
        split
        · exact hr.observe
        · exact hr.observe.raceAccess
      exact .pure ((h.withMach h2).updCore fun _ hc => hc.congr)

theorem State.Canon.kvGo {p r : BitVec 6} {g : BitVec 4} {op : Word → Word → CmdOp} (h : s.Canon) : Keeps (kvGo p r g op s) :=
  h.word (.seq fun _ => .bind h.kvHeader fun _ h => h.go)

theorem Mach.Canon.beforeMove (h : m.Canon) (hm : m.beforeMove c = some m') : m'.Canon := by
  unfold Mach.beforeMove at hm
  split at hm
  · exact Option.some.inj hm ▸ h
  · split at hm
    · exact Option.some.inj hm ▸ h
    · split at hm
      · cases hm
      · exact Option.some.inj hm ▸ h.acquireAt

theorem Mach.Canon.logCmd {cause : BitVec 8} {p : Word} (h : m.Canon) : (m.logCmd id cause p).Canon := by
  refine h.ite ?_
  split
  · exact h
  · split
    · exact h.logBad
    · exact h

theorem Mach.Canon.cmdStopped {e : CmdStop} (h : m.Canon) : (m.cmdStopped id e).Canon := by
  cases e with
  | full => exact h
  | wait k => exact h.walksOf
  | held l n k => exact h.walksOf.trapFor
  | halt va w k => exact h.walksOf.updCmd.schedule
  | fault e a r k => exact h.walksOf.logCmd.updCmd.schedule

theorem State.Canon.execTransferStart (h : s.Canon) : Keeps (execTransferStart id s) := by
  unfold Machine.execTransferStart
  split
  · exact .fault
  · split
    · exact .fault
    · extract_lets m1 m2 c2 m3
      have h2 : m2.Canon := .updCmd (.ite h.m.flushCore h.m.settleBank)
      generalize m2.clusterOf _ = p
      obtain ⟨d, k⟩ := p
      have h3 : m3.Canon := by
        unfold m3
        split
        · exact h2.schedule
        · refine h2.ite ?_
          split
          · next heq => exact (h2.fetchLength _ heq).updCmd
          · exact h2.cmdStopped
        · exact h2
      exact h.event (.ite h3.schedule h3)

theorem State.Canon.execTransferComplete (h : s.Canon) : Keeps (execTransferComplete id s) := by
  unfold Machine.execTransferComplete
  split
  · exact .fault
  · split
    · exact .fault
    · extract_lets m1 pend m2
      have h2 : m2.Canon := by
        unfold m2
        split
        · exact h.m.cmdDone.updCore fun _ hc => hc.congr
        · exact h.m.cmdDone
      exact h.event h2

theorem State.Canon.loupeWord {g : BitVec 4} {n : Bool} {d a b : BitVec 6} {body : State → Except Stop State} (h : s.Canon)
    (hb : Except.Holds State.Canon (body s)) : Keeps (loupeWord g n d a b body s) := by
  unfold Machine.loupeWord
  split
  · exact .ite (.next h.raise) .fault
  · exact h.word hb

end

section

/-! # Loupe commands and power -/

variable {m m' : Mach} {s t : State} {c : Cmd} {id : Nat}

/-! ## Loupe commands (R333-R345) -/

theorem State.Canon.lready (h : s.Canon) : s.lready.Canon := h.withMach h.m.flushWho

theorem State.Canon.llaunch (h : s.Canon) : (s.llaunch c).Canon := by
  unfold State.llaunch
  split
  next heq =>
    have h1 := of_snd (P := Mach.Canon) heq h.m.flushWho.newId
    extract_lets c' m2
    exact h.withMach ((h1.congr : m2.Canon).foldl fun _ _ h => h.updTarget)

section
variable {g : BitVec 4} {n : Bool} {d a b : BitVec 6}

theorem State.Canon.execLhash (h : s.Canon) : Keeps (execLhash g n d a b s) :=
  h.loupeWord (.seq fun _ => .seq fun _ => .seq fun _ => .seq fun _ => .seq fun _ => .pure h.lready.llaunch)

theorem State.Canon.execLgath (h : s.Canon) : Keeps (execLgath g n d a b s) :=
  h.loupeWord (.seq fun _ => .seq fun _ => .seq fun _ => .seq fun _ => .seq fun _ => .seq fun _ => .seq fun _ => .seq fun _ =>
    .seq fun _ => .pure h.lready.llaunch)

theorem State.Canon.execLpool (h : s.Canon) : Keeps (execLpool g n d a b s) :=
  h.loupeWord (.seq fun _ => .seq fun _ => .seq fun _ => .seq fun _ => .seq fun _ => .seq fun _ => .seq fun _ => .seq fun _ =>
    .seq fun _ => .seq fun _ => .seq fun _ => .pure h.lready.llaunch)

theorem State.Canon.execLscat (h : s.Canon) : Keeps (execLscat g n d a b s) :=
  h.loupeWord (.seq fun _ => .seq fun _ => .seq fun _ => .seq fun _ => .seq fun _ => .seq fun _ => .seq fun _ => .seq fun _ =>
    .seq fun _ => .seq fun _ => .pure h.lready.llaunch)

theorem State.Canon.execLhand (h : s.Canon) : Keeps (execLhand g n d a b s) := by
  refine h.loupeWord (.seq fun _ => .seq fun _ => .seq fun _ => .seq fun _ => .seq fun _ => .seq fun _ => .seq fun _ => .seq fun _ =>
    .seq fun _ => .seq fun _ => .pure ?_)
  have hl : ∀ c, (s.lready.llaunch c).Canon := fun _ => h.lready.llaunch
  split
  · exact .ite ((hl _).withMach (hl _).m.schedule) (hl _)
  · exact hl _

end

theorem Mach.Canon.stepHash {key : Word} (h : m.Canon) : Except.Holds MachCanon (m.stepHash c key) := by
  refine .bind h.cmdPlace fun x h => ?_
  obtain ⟨loc, leaf, m⟩ := x
  dsimp only
  split
  · exact .bind h.observe.cmdCheck fun _ h => .ite (.pure h) (.ite (.pure h.cmdStore) (.ite (.pure h) (.pure h)))
  · exact .bind h.cmdBytes.cmdCheck fun _ h => .ite (.pure h) (.ite (.pure h.cmdStore) (.ite (.pure h) (.pure h)))

theorem Mach.Canon.stepGather (h : m.Canon) : Except.Holds MachCanon (m.stepGather c) :=
  .seq fun _ => .bind h.cmdRead fun _ h => .bind (.foldlM h fun _ _ h => .ite h.cmdWrite (.pure h)) fun _ h => .pure h

theorem Mach.Canon.stepPool (h : m.Canon) : Except.Holds MachCanon (m.stepPool c) :=
  .ite (.seq fun _ => .bind h.cmdRead fun _ h => .pure h) (.bind h.cmdWrite fun _ h => .pure h)

theorem Mach.Canon.stepScatter {src : Word} (h : m.Canon) : Except.Holds MachCanon (m.stepScatter c src) := by
  refine .seq fun _ => .ite (.pure h) (.bind h.cmdRead fun _ h => .bind h.cmdPlace fun _ h => .bind h.cmdCheck fun _ h => ?_)
  exact .bind h.observe.cmdCheck fun _ h => .pure h.cmdStore

theorem Mach.Canon.stepHand {src dst ctl : Word} (h : m.Canon) : Except.Holds MachCanon (m.stepHand c src dst ctl) := by
  refine .bind h.cmdRead fun x h => ?_
  dsimp only
  split
  · exact .pure h
  · exact .bind h.cmdCheck fun _ h => .pure h.cmdStore

theorem Mach.Canon.stepLoupe (h : m.Canon) : Except.Holds MachCanon (m.stepLoupe c) := by
  unfold Mach.stepLoupe
  generalize c.op = op
  cases op with
  | lhash p key => exact h.stepHash
  | lgath p => exact h.stepGather
  | lpool p q => exact h.stepPool
  | lscat p src => exact h.stepScatter
  | lhand src dst ctl => exact h.stepHand
  | _ => exact .error

theorem State.Canon.execLoupeCommandComplete (h : s.Canon) : Keeps (execLoupeCommandComplete id s) := by
  unfold Machine.execLoupeCommandComplete
  split
  · exact .fault
  · split
    · exact .fault
    · exact h.event (h.m.cmdGone.updCtx fun _ hx => hx.congr)

theorem State.Canon.execLhandComplete (h : s.Canon) : Keeps (execLhandComplete id s) := by
  unfold Machine.execLhandComplete
  split
  · exact .fault
  · split
    · exact .fault
    · exact h.event h.m.cmdDone

theorem State.Canon.execLoupeSliceEnd {die idx : Nat} (h : s.Canon) : Keeps (execLoupeSliceEnd die idx s) := by
  unfold Machine.execLoupeSliceEnd
  split
  · exact .fault
  · extract_lets nxt m1 busy
    have h1 : m1.Canon := h.m.updLoupe fun _ hl => hl.congr
    exact h.event (.ite h1.schedule h1)

/-! ## Power -/

theorem Cluster.Canon.frame {c : Cluster} {n work : Nat} (h : c.Canon) : (c.frame n work).Canon := h.congr

theorem State.Canon.execPatternFrame {die cluster : Nat} (h : s.Canon) : Keeps (execPatternFrame die cluster s) := by
  unfold Machine.execPatternFrame
  split
  · exact .fault
  · extract_lets m1 on
    have h1 : m1.Canon := h.m.updCluster fun _ hc => hc.frame
    exact h.event (.ite h1.wantFrame h1)

theorem Mach.Canon.startRamp {d k : Nat} (h : m.Canon) : (m.startRamp d k).Canon := .wantFrame (h.updCluster fun _ hc => hc.congr)

theorem Mach.Canon.rampAfter {x : Gang} (h : m.Canon) : (m.rampAfter x).Canon := .ite h.startRamp h

theorem Mach.Canon.ballast {d k : Nat} {worked : Bool} (h : m.Canon) : (m.ballast d k worked).Canon :=
  .ite (.wantFrame (h.updCluster fun _ hc => hc.congr)) h

theorem State.Canon.execForcedLowering {die cluster : Nat} (h : s.Canon) : Keeps (execForcedLowering die cluster s) :=
  h.event h.m.recompute

theorem Mach.Canon.recordCap {d k : Nat} {cap : BitVec 4} (h : m.Canon) : (m.recordCap d k cap).Canon := by
  unfold Mach.recordCap
  split
  · exact h
  · have h1 : ∀ f : Cluster → Cluster, (∀ c, c.Canon → (f c).Canon) → (m.updCluster d k f).Canon := fun _ hf => h.updCluster hf
    refine .ite (h1 _ fun _ hc => hc.congr) (.ite (.schedule ?_) ?_)
    · exact h1 _ fun _ hc => hc.congr
    · exact h1 _ fun _ hc => hc.congr

theorem Mach.Canon.setBudget {watts : Nat} (h : m.Canon) : (m.setBudget watts).Canon :=
  .foldl h.congr fun _ _ h => h.recordCap

theorem Mach.Canon.capMessage {seq : BitVec 32} {watts leaseMs : Nat} (h : m.Canon) : (m.capMessage seq watts leaseMs).Canon :=
  .ite h.congr (.ite (.schedule (.setBudget h.congr)) h)

theorem State.Canon.execCapLeaseExpiry (h : s.Canon) : Keeps (execCapLeaseExpiry s) := h.event (.setBudget h.m.congr)

theorem Mach.Canon.retime {die : Nat} (h : m.Canon) : (m.retime die).Canon := by
  refine .foldl h.congr fun m e h => ?_
  split
  · exact h.wantFrame
  · exact h.schedule
  · split
    · exact h.schedule
    · exact h
  · exact h

theorem State.Canon.execMasterClockChange {die num den : Nat} (h : s.Canon) : Keeps (execMasterClockChange die num den s) :=
  h.event (.retime (h.m.updDie fun _ hd => hd.congr))

end

section

/-! # Images, the end of jobs, launches -/

variable {m m' : Mach} {s t : State}

/-! ## Images (R394): a slice of a memory is in canonical form -/

theorem Memory.wfFrom_shift {mem : Memory} {lo o : Nat} (h : Memory.wfFrom lo mem = true) (ho : ∀ c ∈ mem, o ≤ c.1) :
    Memory.wfFrom (lo - o) (mem.map fun c => (c.1 - o, c.2)) = true := by
  induction mem generalizing lo with
  | nil => rfl
  | cons c mem ih =>
    obtain ⟨k, b⟩ := c
    have hk : o ≤ k := ho (k, b) (by simp)
    simp only [Memory.wfFrom, Bool.and_eq_true, decide_eq_true_eq] at h
    obtain ⟨⟨hlo, hb⟩, hr⟩ := h
    have := ih hr fun c hc => ho c (by simp [hc])
    simp only [List.map_cons, Memory.wfFrom, Bool.and_eq_true, decide_eq_true_eq]
    exact ⟨⟨by omega, hb⟩, by rwa [show k - o + 1 = k + 1 - o by omega]⟩

theorem Part.wf_slice {p : Part} {o n : Nat} (h : Memory.wf p = true) : Memory.wf (p.slice o n) = true := by
  have := Memory.wfFrom_shift (o := o) (Memory.wf_filter (fun c => decide (o ≤ c.1) && decide (c.1 < o + n)) p h)
    (by simp only [List.mem_filter, Bool.and_eq_true, decide_eq_true_eq]; tauto)
  rwa [Nat.zero_sub] at this

theorem Mach.Canon.imageAt {a n : Nat} (h : m.Canon) : Memory.wf (m.imageAt a n) = true := Part.wf_slice h.dev

theorem Part.canon_core {p : Part} {im : Images} (h : Memory.wf p = true) : (p.core im).Canon := ⟨Part.wf_slice h⟩

theorem Part.canon_loupe {p : Part} {im : Images} {base : Nat} {x : LoupeCtx} (h : Memory.wf p = true) :
    (p.loupe im base x).Canon := ⟨Part.wf_slice h⟩

theorem Gang.canon_restored {x : Gang} {p : Part} {n : Nat} {im : Images} (h : Memory.wf p = true) : (x.restored p n im).Canon := by
  refine ⟨fun c hc => ?_⟩
  obtain ⟨r, -, rfl⟩ := List.mem_map.mp hc
  exact Part.canon_core (Part.wf_slice h)

/-! ## Reads and writes of the kernel -/

/-- What holds of the value of a read, or of the package a failed one leaves in canonical form. -/
structure ReadKeeps {α : Type} (P : α → Prop) (x : Except ReadErr α) : Prop where
  ok : ∀ a, x = .ok a → P a
  error : ∀ e, x = .error e → e.m.Canon

section
variable {α β : Type} {P : α → Prop} {Q : β → Prop}

theorem ReadKeeps.pure {a : α} (h : P a) : ReadKeeps P (.ok a) := ⟨fun _ e => Except.ok.inj e ▸ h, fun _ h => nomatch h⟩

theorem ReadKeeps.fail {e : ReadErr} (h : e.m.Canon) : ReadKeeps P (.error e) :=
  ⟨fun _ h => (nomatch h), fun _ h' => Except.error.inj h' ▸ h⟩

theorem ReadKeeps.bind {x : Except ReadErr α} {f : α → Except ReadErr β} (hx : ReadKeeps P x) (hf : ∀ a, P a → ReadKeeps Q (f a)) :
    ReadKeeps Q (x >>= f) := by
  cases x with
  | error e => exact .fail (hx.error e rfl)
  | ok a => exact hf a (hx.ok a rfl)

theorem ReadKeeps.ite {p : Prop} [Decidable p] {x y : Except ReadErr α} (hx : ReadKeeps P x) (hy : ReadKeeps P y) :
    ReadKeeps P (if p then x else y) := ite_keeps hx hy

theorem ReadKeeps.foldlM {f : α → β → Except ReadErr α} {l : List β} {a : α} (h : P a) (hf : ∀ a b, P a → ReadKeeps P (f a b)) :
    ReadKeeps P (l.foldlM f a) := by
  induction l generalizing a with
  | nil => exact .pure h
  | cons b l ih =>
    rw [List.foldlM_cons]
    exact .bind (hf a b h) fun _ h => ih h

end

theorem Mach.Canon.mgmtRead {vd : Nat} {p : Word} {n : Nat} {code : Bool} (h : m.Canon) :
    ReadKeeps MachCanon (m.mgmtRead vd p n code) := by
  refine .ite (.fail h) (.foldlM h fun x b h => ?_)
  obtain ⟨bs, m⟩ := x
  obtain ⟨lo, len⟩ := b
  have h1 : (m.mendWalk .none vd lo).Canon := Mach.Canon.mendWalk h
  dsimp only
  split
  · exact .fail h1.keepWalk
  · next heq =>
    have h2 := h1.translate _ heq
    exact .ite (.fail h2) (.ite (.fail h2) (.ite (.fail (Mach.Canon.mend h2).logBad) (.pure (Mach.Canon.mend h2))))

theorem Mach.Canon.mgmtAcquire {vd : Nat} {p : Word} (h : m.Canon) : (m.mgmtAcquire vd p).Canon := by
  unfold Mach.mgmtAcquire
  split
  · exact h.observe
  · exact h

theorem Mach.Canon.mgmtWrite {note : Bool} {vd : Nat} {p : Word} {bytes : List Byte} (h : m.Canon) :
    Except.Holds Mach.Canon (m.mgmtWrite note vd p bytes) := by
  refine .ite .error (.foldlM h fun m b h => .bind h.mendWalk.translate fun x h => .ite .error (.ite .error (.ok ?_)))
  obtain ⟨t, m⟩ := x
  refine .writeLoc ?_
  split
  · exact .ite (Mach.Canon.outsideAccess h) h
  · exact h

theorem Mach.Canon.finishEntry {r : CmdRef} {result : Word} {status : Nat} (h : m.Canon) : (m.finishEntry r result status).Canon := by
  unfold Mach.finishEntry
  split
  · exact h.congr
  · exact ⟨h.dev, Memory.wf_write _ _ _ (Memory.wf_write _ _ _ (Memory.wf_write _ _ _ h.host)), h.gangs, h.dies⟩

/-! ## Wake, idleness and the end of a launch -/

theorem Mach.Canon.startWake {vd since : Nat} (h : m.Canon) : (m.startWake vd since).Canon := h.congr

theorem Mach.Canon.wake {vd : Nat} (h : m.Canon) : (m.wake vd).Canon := by
  unfold Mach.wake
  split
  · exact h
  · refine .ite h ?_
    split
    · exact h
    · exact h
    · exact .ite h h.congr
    · exact h.startWake

theorem Mach.Canon.noteIdle {vd : Nat} (h : m.Canon) : (m.noteIdle vd).Canon := .ite h.congr h.congr

theorem Mach.Canon.wantBind {vd : Nat} (h : m.Canon) : (m.wantBind vd).Canon := .ite h h.congr

theorem Mach.Canon.finishNow {vd : Nat} {compl : Option Word} {ref : Option CmdRef} {w : Word} (h : m.Canon) :
    (m.finishNow vd compl ref w).Canon := by
  unfold Mach.finishNow
  extract_lets m1
  have h1 : m1.Canon := by
    unfold m1
    split
    · next heq =>
      obtain ⟨p, -, hp⟩ := Option.map_eq_some_iff.mp heq
      exact (h.mgmtWrite _ hp).bumpVg
    · exact h
  split
  · exact h1.finishEntry
  · exact h1

theorem Mach.Canon.finishLaunch {vd : Nat} {compl : Option Word} {ref : Option CmdRef} {w : Word} (h : m.Canon) :
    (m.finishLaunch vd compl ref w).Canon := by
  unfold Mach.finishLaunch
  split
  · exact h.updVd.wake
  · exact h.finishNow

/-! ## Gangs and jobs that end -/

theorem Mach.Canon.withdraw {d k : Nat} {worked : Bool} (h : m.Canon) : (m.withdraw d k worked).Canon := h.recompute.ballast

theorem Mach.Canon.leaveSram {x : Gang} (h : m.Canon) (hx : x.Canon) : (m.leaveSram x).Canon :=
  h.updCluster fun _ hc => ⟨List.foldlRecOn _ _ hc.sram fun _ ht _ hk => ht.tset ⟨(hx.cores _ (List.fst_mem_of_mem_zipIdx hk)).scr⟩⟩

theorem Mach.Canon.clearSlot {x : Gang} (h : m.Canon) : (m.clearSlot x).Canon := h.updDie fun _ hd => hd.congr

theorem Mach.Canon.dropGang {g : Nat} (h : m.Canon) : (m.dropGang g).Canon := by
  unfold Mach.dropGang
  split
  · exact h
  · next x hx =>
    extract_lets m1 m2 mine m3
    have h1 : m1.Canon := h.flushGang
    have hl : ((m1.gang? g).getD x).Canon := by
      cases hg : m1.gang? g with
      | none => exact h.gang? hx
      | some y => exact h1.gang? hg
    have h2 : m2.Canon := (h1.leaveSram hl).clearSlot
    have h3 : m3.Canon := ⟨h2.dev, h2.host, h2.gangs.tdel, h2.dies⟩
    exact .ite h3 h3.withdraw

theorem Mach.Canon.freeCtx {d i c : Nat} (h : m.Canon) : (m.freeCtx d i c).Canon := by
  unfold Mach.freeCtx
  extract_lets a m1 m2
  have h2 : m2.Canon := (h.flushWho : m1.Canon).congr
  exact h2.updCtx fun _ hx => hx.congr

theorem Mach.Canon.cancelCmds {id : Nat} (h : m.Canon) : (m.cancelCmds id).Canon := h.foldl fun _ _ h => h.cmdCancel

theorem Mach.Canon.endLoupes {j : Job} (h : m.Canon) : (m.endLoupes j).Canon := by
  refine h.foldl fun m p h => ?_
  dsimp only
  split
  · exact h.updCtx fun _ hx => hx.congr
  · exact h

theorem Mach.Canon.dropJob {id : Nat} (h : m.Canon) : (m.dropJob id).Canon := by
  unfold Mach.dropJob
  split
  · exact h
  · next j hj =>
    extract_lets m1 cmds m2 m3 m4 m5 m6 mgmt m7
    have h1 : m1.Canon := h.foldl fun _ _ h => h.flushGang
    have h3 : m3.Canon := h1.cancelCmds.killMembers fun _ h => h.endLoupes.foldl fun _ _ h => h.deadGang
    have h5 : m5.Canon := h3.updVd.foldl fun _ _ h => h.dropGang
    have h6 : m6.Canon := h5.foldl fun m p h => by
      dsimp only
      split
      · exact h.freeCtx
      · exact h
    exact (h6.congr : m7.Canon).wantBind.noteIdle

theorem Mach.Canon.endJob {id cls cause code : Nat} (h : m.Canon) : (m.endJob id cls cause code).Canon := by
  unfold Mach.endJob
  split
  · exact h
  · exact h.finishLaunch.dropJob

theorem Mach.Canon.endAsleep {id cls cause code : Nat} (h : m.Canon) : (m.endAsleep id cls cause code).Canon := by
  unfold Mach.endAsleep
  split
  · exact h
  · exact h.finishNow.dropJob

theorem Mach.Canon.endingGang {j : Job} {g : Nat} (h : m.Canon) : (m.endingGang j g).Canon := by
  unfold Mach.endingGang
  split
  · exact h
  · split
    · exact h.updGang fun _ hx => hx.congr
    · exact h.killGang.updGang fun _ hx => hx.congr
    all_goals exact h.killGang

theorem Mach.Canon.endStopped {id cls cause code : Nat} (h : m.Canon) : (m.endStopped id cls cause code).Canon := by
  unfold Mach.endStopped
  split
  · exact h
  · refine .ite h (.ite h.endJob ?_)
    exact Mach.Canon.killMembers (h.updJob.foldl fun _ _ h => h.endingGang) fun _ h => h.endLoupes

theorem Mach.Canon.jobEnds (h : m.Canon) : m.jobEnds.Canon := by
  refine Mach.Canon.foldl (h.foldl fun _ _ h => h.endJob) fun m p h => ?_
  split
  · exact h.endJob
  · exact h

/-! ## Launches captured -/

theorem Mach.Canon.dataImage {vd : Nat} {p : Word} {n : Nat} (h : m.Canon) : ReadKeeps MachCanon (m.dataImage vd p n) := by
  induction n generalizing m p with
  | zero => exact .fail h
  | succ n ih =>
    exact .bind h.mgmtRead fun _ h => .ite (.pure h) (.bind (Mach.Canon.mgmtRead h) fun _ h => .bind (ih h) fun _ h => .pure h)

theorem Mach.Canon.groupImage {vd : Nat} {p : Word} {n : Nat} (h : m.Canon) : ReadKeeps MachCanon (m.groupImage vd p n) := by
  induction n generalizing m p with
  | zero => exact .fail h
  | succ n ih => exact .bind h.mgmtRead fun _ h => .ite (.pure h) (.bind (ih h) fun _ h => .pure h)

theorem Mach.Canon.images {vd : Nat} {hd : Header} (h : m.Canon) : ReadKeeps MachCanon (m.images vd hd) := by
  unfold Mach.images
  extract_lets sec
  have hs (m : Mach) (n : Nat) (h : m.Canon) : ReadKeeps MachCanon (sec m n) := .bind h.mgmtRead fun _ h => .pure h
  refine .bind (hs m 0 h) fun _ h => .bind (hs _ 1 h) fun _ h => .bind (hs _ 2 h) fun _ h => .bind (hs _ 3 h) fun _ h =>
    .bind (Mach.Canon.mgmtRead h) fun _ h => .bind (Mach.Canon.dataImage h) fun _ h => .bind (Mach.Canon.groupImage h) fun _ h =>
    .ite ?_ ?_
  · exact .bind (P := MachCanon) (.pure h) fun _ h => .pure h
  · exact .bind (Mach.Canon.mgmtRead h) fun _ h => .pure h

theorem Mach.Canon.captureOne {vd : Nat} {ptr : Word} {kernel : Bool} {ref : Option CmdRef} {areas : List Nat} {l : LaunchOf}
    (h : m.Canon) : (m.captureOne vd ptr kernel ref areas l).Canon := by
  unfold Mach.captureOne
  split
  · exact h.finishLaunch
  · have hr : ReadKeeps MachCanon (if ptrOff ptr % 64 = 0 then m.mgmtRead vd ptr 64 false else .error ⟨0x13, m⟩) :=
      .ite h.mgmtRead (.fail h)
    split
    · next heq => exact (hr.error _ heq).finishLaunch
    · next b m1 heq =>
      have h1 : m1.Canon := hr.ok _ heq
      extract_lets r refuse
      have hrefuse (cls : Nat) (e : ReadErr) (he : e.m.Canon) : (refuse cls e).Canon := he.finishLaunch
      refine .ite (hrefuse _ _ h1) (.ite (hrefuse _ _ h1) ?_)
      split
      · next heq => exact hrefuse _ _ (h1.mgmtRead.error _ heq)
      · next hb m2 heq =>
        have h2 : m2.Canon := h1.mgmtRead.ok _ heq
        refine .ite (hrefuse _ _ h2) ?_
        extract_lets hd
        split
        · next heq => exact hrefuse _ _ (h2.images.error _ heq)
        · next im m3 heq =>
          have h3 : m3.Canon := h2.images.ok _ heq
          refine .ite (hrefuse _ _ h3) (.ite (hrefuse _ _ h3) ?_)
          have hr : ReadKeeps MachCanon (if r.argp = 0 then .ok (List.replicate r.arglen 0, m3) else m3.mgmtRead vd r.argp r.arglen false) :=
            .ite (.pure h3) h3.mgmtRead
          split
          · next heq => exact hrefuse _ _ (hr.error _ heq)
          · next args m4 heq =>
            have h4 : m4.Canon := hr.ok _ heq
            exact h4.congr.wake.wantBind

theorem Mach.Canon.closeLaunch {vd : Nat} {ptr : Word} {ref : Option CmdRef} (h : m.Canon) : (m.closeLaunch vd ptr ref).Canon := by
  unfold Mach.closeLaunch
  split
  next heq =>
    refine (of_snd (P := Mach.Canon) heq ?_).finishLaunch
    split
    · next hr => exact h.mgmtRead.ok _ hr
    · next hr => exact h.mgmtRead.error _ hr

theorem Mach.Canon.captureNow {vd : Nat} {ptr : Word} {kernel : Bool} {ref : Option CmdRef} {areas : List Nat} (h : m.Canon) :
    (m.captureNow vd ptr kernel ref areas).Canon := by
  unfold Mach.captureNow
  extract_lets m1
  split
  next heq =>
    have h2 := of_snd (P := Mach.Canon) heq h.mgmtAcquire.newId
    extract_lets r graph
    split
    exact Mach.Canon.foldl h2.captureOne fun _ _ h => h.captureOne

theorem Mach.Canon.capture {vd : Nat} {ptr : Word} {kernel : Bool} {ref : Option CmdRef} {areas : List Nat} (h : m.Canon) :
    (m.capture vd ptr kernel ref areas).Canon := by
  unfold Mach.capture
  split
  · exact h.captureNow
  · exact .ite h.closeLaunch (.ite h.updVd.wake h.captureNow)

theorem State.Canon.execLnotify {vd : Nat} {ptr : BitVec 64} (h : s.Canon) : Keeps (execLnotify vd ptr s) :=
  .next (h.withMach h.m.capture)

theorem State.Canon.execKernelLaunch {vd : Nat} {ptr : LaunchPtr} (h : s.Canon) : Keeps (execKernelLaunch vd ptr s) :=
  .next (h.withMach h.m.capture)

theorem State.Canon.execGraphEdit {vd : Nat} {graph : BitVec 32} {records : List (BitVec 64)} (h : s.Canon) :
    Keeps (execGraphEdit vd graph records s) := h.event h.m.updVd

end

section

/-! # Jobs bound and started -/

variable {m m' : Mach} {s t : State} {j : Job} {id : Nat}

/-! ## Jobs bound -/

theorem Gang.Canon.of_cores_nil {x : Gang} (h : x.cores = [] := by rfl) : x.Canon := ⟨fun c hc => by simp [h] at hc⟩

theorem Mach.Canon.bindGang {g : Nat} {x : Gang} (h : m.Canon) (hx : x.Canon) : (m.bindGang j g x).Canon := by
  unfold Mach.bindGang
  exact .updDie ⟨h.dev, h.host, h.gangs.append (.cons hx.congr .nil), h.dies⟩ fun _ hd => hd.congr

theorem Mach.Canon.bindSaved {g area : Nat} {x : Gang} (h : m.Canon) (hx : x.Canon) : (m.bindSaved j g area x).Canon :=
  h.bindGang hx.congr

theorem Mach.Canon.bindJob {place : List (Nat × Nat × BitVec 12)} {grp bar : Nat} {areas : List Nat} (h : m.Canon) :
    (m.bindJob id j place grp bar areas).Canon := by
  unfold Mach.bindJob
  extract_lets resume
  split
  next m1 gangs heq =>
    have h1 : m1.Canon := by
      refine of_fst (P := Mach.Canon) heq (foldl_keeps (P := fun p : Mach × List Nat => p.1.Canon) h fun p b h => ?_)
      obtain ⟨m, l⟩ := p
      obtain ⟨⟨⟨d, k, q⟩, a⟩, i⟩ := b
      dsimp only
      split
      · exact Mach.Canon.bindSaved h .of_cores_nil
      · exact Mach.Canon.bindGang (Mach.Canon.newId h) .of_cores_nil
    refine .scheduleDrawn (.updJob (.updVd (.foldl h1 fun m p h => ?_)))
    dsimp only
    split
    · exact h.updCtx fun _ hx => hx.congr
    · exact h

theorem Mach.Canon.bindAlone {g : Nat} (h : m.Canon) : (m.bindAlone id g).Canon := by
  unfold Mach.bindAlone
  split
  · exact h
  · split
    · exact (h.bindSaved .of_cores_nil).updJob.scheduleDrawn
    · exact h

theorem State.Canon.execBind {vd : Nat} (h : s.Canon) : Keeps (execBind vd s) := by
  unfold Machine.execBind
  extract_lets m1 m2 m3
  have h2 : m2.Canon := h.m.fresh.foldl fun _ _ h => h.bindAlone
  have h3 : m3.Canon := by
    unfold m3
    split
    · exact h2
    · split
      · exact h2.bindJob
      · split
        · exact .ite h2.scheduleDrawn h2
        · exact h2
  exact h.event (.ite h3 h3.schedule)

/-! ## Jobs loaded -/

theorem Core.canon_loadCore {hd : Header} {im : Images} {idx r vg : Nat} {base : CoreSram} (h : base.Canon) :
    (loadCore hd im idx r vg base).Canon :=
  ⟨Memory.wf_write _ _ _ (foldl_keeps (P := fun m => Memory.wf m = true) h.scr fun _ _ h => Memory.wf_write _ _ _ h)⟩

theorem Cluster.Canon.sramAt {c : Option Cluster} {k : Nat} (h : ∀ x, c = some x → x.Canon) :
    ((c.bind fun c => tget c.sram k).getD {}).Canon := by
  cases hk : c.bind fun c => tget c.sram k with
  | none => exact ⟨rfl⟩
  | some x =>
    obtain ⟨c, hc, hx⟩ := Option.bind_eq_some_iff.mp hk
    exact (h c hc).sram.of_tget hx

theorem Mach.Canon.savedImage {x : Gang} (h : m.Canon) : Memory.wf (m.savedImage j x) = true := h.imageAt

theorem Mach.Canon.loadGang {x : Gang} {vg : Nat} (h : m.Canon) : (m.loadGang j x vg).Canon := by
  unfold Mach.loadGang
  split
  · exact (Gang.canon_restored h.savedImage).resumed.congr
  · refine ⟨fun c hc => ?_⟩
    obtain ⟨r, -, rfl⟩ := List.mem_map.mp hc
    exact Core.canon_loadCore (Cluster.Canon.sramAt fun _ hc => h.cluster? hc)

theorem Mach.Canon.firstImage {p : Part} (h : m.Canon) (hp : m.firstImage j = some p) : Memory.wf p = true := by
  obtain ⟨x, -, hx⟩ := Option.bind_eq_some_iff.mp hp
  split at hx
  · exact Option.some.inj hx ▸ h.savedImage
  · cases hx

theorem Mach.Canon.loupeImage {p : Part} (h : m.Canon) (hp : m.loupeImage j = some p) : Memory.wf p = true :=
  h.firstImage (Option.filter_eq_some_iff.mp hp).1

theorem Mach.Canon.loadGroups {gangs : List Gang} {whole : Bool} (h : m.Canon) : (m.loadGroups j gangs whole).Canon :=
  h.foldl fun _ _ h => h.updVd

theorem Mach.Canon.loadWindows (h : m.Canon) : (m.loadWindows j).Canon :=
  Mach.Canon.foldl (h.loadGroups.foldl fun _ _ h => h.updVd) fun _ _ h => h.updVd

theorem Mach.Canon.loadLoupe {img : Option Part} {k d i : Nat} (h : m.Canon) (hi : ∀ p, img = some p → Memory.wf p = true) :
    (m.loadLoupe j img k d i).Canon := by
  unfold Mach.loadLoupe
  split
  · exact h
  · split
    · exact h.updCtx fun _ _ => Part.canon_loupe (Part.wf_slice (hi _ rfl))
    · exact h.updCtx fun _ hx => ⟨Memory.wf_write _ _ _ hx.mem⟩

theorem Mach.Canon.loadGlb (h : m.Canon) : Except.Holds Mach.Canon (m.loadGlb j) := .foldlM h fun _ _ h => h.mgmtWrite

theorem Mach.Canon.keepAsked {gangs : List Nat} (h : m.Canon) : (m.keepAsked id gangs).Canon := h.updJob

/-- Gangs taken out of the package leave the others as they were. -/
theorem Mach.Canon.filter_gangs {f : Nat × Gang → Bool} (h : m.Canon) : ({ m with gangs := m.gangs.filter f } : Mach).Canon :=
  ⟨h.dev, h.host, h.gangs.filter f, h.dies⟩

theorem Mach.Canon.refuseBind (h : m.Canon) : (m.refuseBind id j).Canon := by
  unfold Mach.refuseBind
  extract_lets m1 m2 m3 m4 m5
  have h3 : m3.Canon := (h.keepAsked.foldl fun _ _ h => h.clearSlot).filter_gangs
  have h4 : m4.Canon := h3.foldl fun m p h => by
    dsimp only
    split
    · exact h.freeCtx
    · exact h
  exact h4.updVd.updJob.notify.wantBind

theorem Mach.Canon.refuseAlone {gangs : List Nat} (h : m.Canon) : (m.refuseAlone id j gangs).Canon :=
  (h.keepAsked.foldl fun _ _ h => h.clearSlot).filter_gangs.updJob.notify.wantBind

theorem Mach.Canon.loadGangs {gangs : List Nat} (h : m.Canon) : (m.loadGangs j gangs).Canon :=
  Mach.Canon.foldl (h.foldl fun _ _ h => h.bumpVg) fun _ _ h => (h.updGang fun _ _ => h.loadGang).comeBack

theorem Mach.Canon.planStart {g : Nat} (h : m.Canon) : (m.planStart id g).Canon := h.schedule

theorem Mach.Canon.loadJob (h : m.Canon) : (m.loadJob id j).Canon := by
  unfold Mach.loadJob
  extract_lets img m1 m2
  have h2 : m2.Canon := h.loadGangs.loadWindows.foldl fun _ _ h' => h'.loadLoupe fun _ hp => h.loupeImage hp
  exact h2.updJob.planStart

theorem Mach.Canon.loadAlone {gangs : List Nat} (h : m.Canon) : (m.loadAlone id j gangs).Canon :=
  h.loadGangs.loadGroups.updJob.planStart

theorem Mach.Canon.readImages {gangs : List Nat} (h : m.Canon) : (m.readImages j gangs).Canon := h.foldl fun _ _ h => h.logBad

theorem State.Canon.execJobLoad {job : Nat} (h : s.Canon) : Keeps (execJobLoad job s) := by
  unfold Machine.execJobLoad
  split
  · exact .fault
  · extract_lets gangs bad
    refine .ite .fault (.ite (.next (h.withMach ?_)) (.ite (.next (h.withMach h.m.refuseBind)) (.ite (.next (h.withMach ?_)) ?_)))
    · exact .ite h.m.refuseAlone (.ite h.m.readImages.endStopped h.m.loadAlone)
    · exact h.m.readImages.endJob
    · split
      · exact .next (h.withMach h.m.endJob)
      · next heq =>
        refine .next (h.withMach (Mach.Canon.loadJob ?_))
        split at heq
        · exact h.m.loadGlb _ heq
        · exact Except.ok.inj heq ▸ h.m

/-! ## Jobs started and pre-empted -/

theorem Mach.Canon.startSlices {d i c : Nat} (h : m.Canon) : (m.startSlices d i c).Canon :=
  .ite h (.schedule (h.updLoupe fun _ hl => hl.congr))

theorem State.Canon.execStartCycle {job : Nat} (h : s.Canon) : Keeps (execStartCycle job s) := by
  unfold Machine.execStartCycle
  split
  · exact .fault
  · extract_lets gangs m1 m2 m3 m4
    have h2 : m2.Canon := h.m.updJob.foldl fun _ _ h => h.updGang fun _ hx => hx.congr
    have h3 : m3.Canon := h2.foldl fun _ _ h => h.recompute.startRamp
    refine h.event (h3.foldl fun m p h => ?_)
    dsimp only
    split
    · exact (h.updCtx fun _ hx => ite_keeps hx.congr hx).startSlices
    · exact h

theorem State.Canon.execPreemptRequest {job : Nat} (h : s.Canon) : Keeps (execPreemptRequest job s) := by
  unfold Machine.execPreemptRequest
  split
  · exact .fault
  · exact h.event (h.m.foldl fun _ _ h => h.updGang fun _ hx => hx.congr).updJob

end

section

/-! # The cycles of a gang -/

variable {m m' : Mach} {s t : State} {g : Nat} {x : Gang} {i : Issue}

/-! ## Freezes and results due before an ec -/

theorem Mach.Canon.endCauses (h : m.Canon) : (m.endCauses g x).Canon := by
  refine h.foldl fun m c h => .ite h ?_
  have h1 := h.updGang (g := g) (f := fun x => { x with causes := x.causes.filter (fun k => k != c) }) fun _ hx => hx.congr
  dsimp only
  split
  · exact h1.barAcquire
  · exact h1

theorem Mach.Canon.frozenMc (h : m.Canon) : (m.frozenMc g x).Canon := .ballast (h.updGang fun _ hx => hx.congr)

theorem Mach.Canon.dropHeld {l : List (Nat × HeldFault)} (h : m.Canon) : (m.dropHeld g l).Canon := by
  refine h.updGang fun x hx => ⟨fun c hc => ?_⟩
  obtain ⟨⟨k, i⟩, hk, rfl⟩ := List.mem_map.mp hc
  exact (hx.cores _ (List.fst_mem_of_mem_zipIdx hk)).congr

theorem Mach.Canon.raiseHeld {l : List (Nat × HeldFault)} (h : m.Canon) : (m.raiseHeld g x l).Canon := by
  unfold Mach.raiseHeld
  split
  · exact h
  · exact h.dropHeld.takeStop.updGang fun _ hx => hx.congr

theorem Mach.Canon.landDue {ec : Nat} (h : m.Canon) : (m.landDue g ec).Canon := by
  refine h.eachRank fun m r h => ?_
  split
  · exact h.foldl fun _ _ h => h.deliver
  · exact h

theorem Mach.Canon.mergeDue (h : m.Canon) : (m.mergeDue g x).Canon := .ite h.landDue.dropHeld h

theorem State.Canon.execFreezeTimeout {gang : Nat} (h : s.Canon) : Keeps (execFreezeTimeout gang s) := by
  unfold Machine.execFreezeTimeout
  split
  · exact .fault
  · split
    · exact .fault
    · exact h.event h.m.rampAfter.mergeDue.takeStop

/-! ## An ec begun and closed -/

theorem Mach.Canon.passIdle {a : Agent} (h : m.Canon) : (m.passIdle a).Canon := h.updSeq

theorem Mach.Canon.openEc (h : m.Canon) : (m.openEc g x).Canon :=
  ⟨h.foldl fun _ _ h => h.passIdle, fun _ e => Option.some.inj e ▸ h⟩

theorem State.Canon.execYieldSpacingFault {gang : Nat} (h : s.Canon) : Keeps (execYieldSpacingFault gang s) := by
  unfold Machine.execYieldSpacingFault
  split
  · exact .fault
  · extract_lets live late late' key
    split
    · exact .fault
    · exact h.event h.m.takeStop

theorem Issue.canon_undo (h : i.before.Canon) : (i.undo m).Canon := h.congr

theorem Issue.canon_held (h : i.before.Canon) : (i.held m).Canon := by
  refine Mach.Canon.foldl (Issue.canon_undo h) fun m c h => ?_
  split
  · exact h.postPage.updGang fun _ hx => hx.congr
  · exact h.updGang fun _ hx => hx.congr

theorem Issue.canon_stop {f : WordFault} (h : i.before.Canon) : (i.stop m x f).Canon := by
  unfold Issue.stop
  extract_lets u r rep
  have hu : u.Canon := Issue.canon_undo h
  refine .ite (.takeStop hu.congr) ?_
  split
  · exact .takeStop (hu.updCore fun _ hc => hc.congr)
  · have hs : ∀ v : Mach, v.Canon → (v.takeStop i.gang rep).Canon := fun _ hv => hv.takeStop
    have hf : (if f.exc.trap then u.updSeq f.agent (fun q => q.updRegs .s (fun r => { r with pc := f.pc + 1 })) else u).Canon :=
      .ite hu.updSeq hu
    exact .ite (hs _ hf).haltOthers (hs _ hf)

theorem Mach.Canon.farBeats {ec : Nat} (h : m.Canon) : (m.farBeats g ec).Canon := h.updGang fun _ hx => hx.congr

theorem Mach.Canon.settleIssue (h : m.Canon) : (i.settle m x).Canon := by
  unfold Issue.settle
  extract_lets g m1 bank m2 m3 m4 m5 m6 m7 m8 m9 m10
  have h7 : m7.Canon := .arbiters (h.beatsReady.settleOps.beatsRead.settleOps.beatsWrite.foldl fun _ _ h => h.captureFirst)
  have h8 : m8.Canon := by
    unfold m8
    split
    · exact .recompute (.updCluster (h7.updGang fun _ hx => hx.congr) fun _ hc => hc.takeHeld)
    · exact h7
  have h9 : m9.Canon := h8.foldl fun _ _ h => h.updCore fun _ hc => hc.congr
  have h10 : m10.Canon := h9.farBeats.updGang fun _ hx => hx.congr
  exact h10.joinsAfter

theorem Mach.Canon.yieldPoint {yields : List (Nat × Stream × BitVec 14)} (h : m.Canon) : (m.yieldPoint g yields).Canon := by
  unfold Mach.yieldPoint
  split
  · exact h
  · extract_lets take first
    generalize first.getD _ = p
    obtain ⟨r, st, pc⟩ := p
    refine h.updGang fun x hx => ?_
    dsimp only
    split
    all_goals exact hx.congr

theorem Mach.Canon.endGang (h : m.Canon) : (m.endGang g).Canon := by
  unfold Mach.endGang
  split
  · exact h
  · exact .ite (.withdraw (h.updGang fun _ hx => hx.congr)) h

theorem State.Canon.of_no_issue (h : s.m.Canon) (hi : s.iss = none := by rfl) : s.Canon := ⟨h, fun i e => by simp [hi] at e⟩

theorem State.Canon.closeEc (h : s.Canon) (hi : i.before.Canon) : (s.closeEc i).Canon := by
  unfold State.closeEc
  split
  · exact .of_no_issue h.m
  · extract_lets faults
    refine .ite (.of_no_issue (Issue.canon_held hi)) ?_
    split
    · exact .of_no_issue (Issue.canon_stop hi)
    · exact .of_no_issue (.endGang (.ite h.m.settleIssue h.m.settleIssue.yieldPoint))

/-! ## What a gang does in a master cycle -/

theorem Gang.Canon.settled (h : x.Canon) : x.settled.Canon :=
  ⟨List.forall_mem_map.mpr fun c hc => (h.cores c hc).congr⟩

theorem Mach.Canon.drain (h : m.Canon) : (m.drain g).Canon := h.drainBeats.flushGang.deliverAll

theorem Mach.Canon.standYielded (h : m.Canon) : (m.standYielded g).Canon := by
  unfold Mach.standYielded
  split
  · exact h
  · exact h.ballast.updGang fun _ hx => hx.settled.congr

theorem Mach.Canon.writeThrough {vd : Nat} {p : Word} {b : Piece} (h : m.Canon) :
    Except.Holds Mach.Canon (m.writeThrough vd p b) := by
  unfold Mach.writeThrough
  extract_lets o q
  refine .ite .error ?_
  split
  · exact .error
  · next heq => exact .ite .error (.ite .error (.ok (h.translate _ heq).writeLoc))

theorem Mach.Canon.pieceDone (h : m.Canon) : (m.pieceDone g).Canon := h.updGang fun _ hx => hx.congr

/-- A turn that changes the package, or leads to a state, leaves the memories in canonical form. -/
def Turn.Canon : Turn → Prop
  | .run _ | .due _ => True
  | .again m => m.Canon
  | .over s => s.Canon

theorem Turn.Canon.run {e : Instr} : (Turn.run e).Canon := trivial
theorem Turn.Canon.due {d : Due} : (Turn.due d).Canon := trivial
theorem Turn.Canon.again (h : m.Canon) : (Turn.again m).Canon := h
theorem Turn.Canon.over (h : m.Canon) : (Turn.over { m := m }).Canon := State.Canon.of_no_issue h

theorem Turn.Canon.ite {p : Prop} [Decidable p] {t u : Turn} (ht : t.Canon) (hu : u.Canon) : (if p then t else u).Canon :=
  ite_keeps ht hu

theorem Turn.Canon.stopTurn {t : Turn} (ht : t.Canon) : (m.stopTurn g x t).Canon := by
  unfold Mach.stopTurn
  split
  · exact .due
  · exact ht

theorem Mach.Canon.frozenTurn (h : m.Canon) : (m.frozenTurn g x).Canon :=
  .ite (.stopTurn .run) (.over (.frozenMc (.ite (h.updGang fun _ hx => hx.congr) h)))

theorem Mach.Canon.stopEnding (h : m.Canon) : (m.stopEnding g x).Canon := by
  unfold Mach.stopEnding
  split
  · exact h
  · exact h.killGang.updGang fun _ hx => hx.congr

theorem Mach.Canon.ecTurn (h : m.Canon) : (m.ecTurn g x).Canon := by
  refine .ite (.over h) (.ite (.again h.stopEnding) (.ite .run ?_))
  split
  · exact .due
  · split
    · exact .again (h.updGang fun _ hx => hx.congr)
    · split
      · exact .again h.raiseHeld
      · extract_lets m1
        have h1 : m1.Canon := h.beatsArrived.landDue
        split
        · exact .over h1
        · split
          · exact .again h1.raiseHeld
          · exact .ite .run (h1.openEc : State.Canon _)

theorem Mach.Canon.runTurn (h : m.Canon) : (m.runTurn g x).Canon := by
  refine .ite (.again h.endCauses) (.ite (.again (h.updGang fun _ hx => hx.congr)) ?_)
  split
  · exact h.frozenTurn
  · split
    · exact .stopTurn (.again h.rampAfter.mergeDue.takeStop)
    · exact .ite (.again (h.rampAfter.updGang fun _ hx => hx.congr)) h.ecTurn

theorem Mach.Canon.checkTurn (h : m.Canon) : (m.checkTurn g x).Canon := by
  unfold Mach.checkTurn
  extract_lets wait
  split
  · exact .again (h.updGang fun _ hx => hx.settled.congr)
  · refine .ite (.over h.frozenMc) ?_
    split
    · exact .run
    · refine .ite (.over h.trap.frozenMc) ?_
      split
      · exact .run
      · next heq => exact .over (h.writeThrough _ heq).pieceDone.frozenMc
  · exact .run

theorem Mach.Canon.saveTurn (h : m.Canon) : (m.saveTurn g x).Canon := by
  unfold Mach.saveTurn
  split
  · exact .over h
  · refine .ite (.over h) ?_
    split
    · exact .run
    · exact .over (.ite h h.devStore.pieceDone)

theorem Mach.Canon.drainTurn {a : After} (h : m.Canon) : (m.drainTurn g x a).Canon := by
  unfold Mach.drainTurn
  split
  · exact .due
  · refine .ite (.over h.frozenMc) (.ite .run (.ite .run (.ite ?_ ?_)))
    · split
      · exact .over (h.updGang fun _ hx => hx.settled).postStop
      · exact .over h.standYielded
      · exact h.checkTurn
      · exact h.checkTurn
    · exact .ite (.again h.drain) (.over (.ite h.drain h.drain.frozenMc))

theorem Mach.Canon.endedTurn (h : m.Canon) : (m.endedTurn g).Canon := by
  unfold Mach.endedTurn
  split
  · exact .due
  · extract_lets m1
    have h1 : m1.Canon := h.drain
    split
    · exact .over h1
    · refine .ite (.over h1) ?_
      split
      · exact .over h1.raiseHeld
      · split
        · exact .over (.ite h1.standYielded h1)
        · exact .over h1.dropHeld.takeStop

theorem Mach.Canon.turn (h : m.Canon) : (m.turn g).Canon := by
  unfold Mach.turn
  split
  · exact .over h
  · split
    · exact .over h
    · exact .over h
    · exact .over h
    · exact h.saveTurn
    · exact h.runTurn
    · exact h.drainTurn
    · exact h.endedTurn

end

section

/-! # Recovery -/

variable {m m' : Mach} {s t : State} {g : Nat} {x : Gang} {j : Job} {id : Nat}

/-! ## Saves and checkpoints -/

theorem Mach.Canon.saveGang (h : m.Canon) : (m.saveGang g).Canon := by
  unfold Mach.saveGang
  split
  · exact h
  · exact (h.keepAsked.updJob.goAway.updCluster fun _ hc => hc.congr).dropGang

theorem Mach.Canon.requeue {vd : Nat} (h : m.Canon) : (m.requeue vd id).Canon := h.updVd.wantBind

theorem Mach.Canon.shelve (h : m.Canon) : (m.shelve id).Canon := by
  unfold Mach.shelve
  split
  · exact h
  · extract_lets window m1 m2 m3 m4
    have h1 : m1.Canon := by
      unfold m1
      split
      · exact h.foldl fun _ _ h => h.devStore
      · exact h
    have h2 : m2.Canon := h1.foldl fun _ _ h => h.freeCtx
    have h4 : m4.Canon := h2.updVd.updJob
    exact .ite h4.requeue h4.noteIdle

theorem Mach.Canon.savedOne (h : m.Canon) : (m.savedOne id).Canon := by
  unfold Mach.savedOne
  split
  · exact h
  · exact .ite h.shelve (.ite (h.foldl fun _ _ h => h.updGang fun _ hx => hx.congr) h)

theorem State.Canon.execContextSave {gang : Nat} (h : s.Canon) : Keeps (execContextSave gang s) := by
  unfold Machine.execContextSave
  split
  · exact .fault
  · exact h.event h.m.saveGang.savedOne

theorem State.Canon.execYieldHoldRelease {job : Nat} (h : s.Canon) : Keeps (execYieldHoldRelease job s) := by
  unfold Machine.execYieldHoldRelease
  split
  · exact .fault
  · extract_lets free
    refine h.event (h.m.foldl fun m g h => ?_)
    split
    · exact .ite (.updGang (.ite h.rampAfter h) fun _ hx => hx.congr) h
    · exact h

theorem Mach.Canon.checked {a : After} (h : m.Canon) : (m.checked g x a).Canon := by
  refine .ite (.updGang (.ite h.rampAfter h) fun _ hx => ?_) (.updGang (.ite h.rampAfter h) fun _ hx => ?_)
  · exact hx.congr
  · exact hx.resumed.congr

theorem Mach.Canon.checkFails {cause : BitVec 8} {q : Word} (h : m.Canon) : (m.checkFails g x cause q).Canon := by
  refine .ite (h.keepWalk.postPage.updGang fun _ hx => hx.congr) ?_
  exact (h.keepWalk.fresh.rampAfter.updGang fun _ hx => hx.congr).takeStop

theorem State.Canon.execCheckpoint {gang : Nat} (h : s.Canon) : Keeps (execCheckpoint gang s) := by
  unfold Machine.execCheckpoint
  split
  · exact .fault
  · split
    · extract_lets end_
      have he : (end_.getD s.m).Canon := by
        unfold end_
        split
        · exact h.m.bumpVg.checked
        · split
          · exact h.m.checkFails
          · exact h.m
      exact h.event he
    · exact .fault

/-! ## Resumption after a stop -/

theorem Mach.Canon.acknowledge {f : Notice → Bool} (h : m.Canon) : (m.acknowledge f).Canon := h.congr

theorem State.Canon.execKernelEndJob {job : Nat} (h : s.Canon) : Keeps (execKernelEndJob job s) := by
  unfold Machine.execKernelEndJob
  split
  · exact .fault
  · exact .next (h.withMach h.m.endStopped)

theorem Core.Canon.returned {c : Core} {v : RegValue} (h : c.Canon) : (c.returned v).Canon := by
  cases v with
  | th n v => exact h.congr
  | s n v => exact h.write (w := .s n v)
  | p n v => exact h.write (w := .p n v)
  | v n v => exact h.write (w := .v n v)
  | m n v => exact h.write (w := .m n v)
  | tile t i v => exact h.write (w := .tile t i (BitVec.allOnes 256) v)

theorem Gang.Canon.returned {values : List (Nat × RegValue)} (h : x.Canon) : (x.returned values).Canon := by
  unfold Gang.returned
  split
  · refine ite_keeps ⟨forall_mem_modify h.cores fun _ hc => ?_⟩ h
    exact foldl_keeps hc fun _ _ hc => hc.returned
  · exact h

theorem LoupeCtx.Canon.resumed {x : LoupeCtx} {rank : Nat} {values : List (Nat × RegValue)} (h : x.Canon) :
    (x.resumed rank values).Canon := by
  unfold LoupeCtx.resumed
  split
  · exact ite_keeps h.congr h
  · exact h

theorem Mach.Canon.inFlightAgain {r : Nat} {p : Pend} (h : m.Canon) : (m.inFlightAgain g r p).Canon := h.updCore fun _ hc => hc.congr

theorem Mach.Canon.readAgain {r : Nat} {b : Beat} {spans : List (Nat × Nat)} (h : m.Canon) : (m.readAgain g r b spans).1.Canon := by
  refine foldl_keeps (P := fun p : Mach × Option (List Byte) => p.1.Canon) h fun p o h => ?_
  dsimp only
  split
  · dsimp only
    exact Mach.Canon.lateFault h
  · split
    · next heq =>
      dsimp only
      exact (of_fst (P := Mach.Canon) heq (Mach.Canon.raceUnits h)).lateFault
    · next heq => exact of_fst (P := Mach.Canon) heq (Mach.Canon.raceUnits h)

theorem Mach.Canon.beatAgain {r : Nat} {b : Beat} (h : m.Canon) : (m.beatAgain g r b).Canon := by
  unfold Mach.beatAgain
  extract_lets b' lcb spans
  split
  · next heq => exact of_fst (P := Mach.Canon) heq h.readAgain
  · next heq =>
    have h1 := of_fst (P := Mach.Canon) heq h.readAgain
    exact .ite h1.beatData.publish h1.beatData

theorem Mach.Canon.again {r : Nat} {d : Redo} (h : m.Canon) : (m.again g r d).Canon := by
  unfold Mach.again
  split
  · split
    next id m1 heq =>
      have h1 : m1.Canon := of_snd heq h.newReply
      exact .foldl (.inFlightAgain h1.congr) fun _ _ h => h.fresh.commitNow
  · split
    · extract_lets x
      split
      next heq => exact (of_fst (P := Mach.Canon) heq h.raceUnits).inFlightAgain
    · exact h
  · exact h.commitNow
  · exact h.beatAgain

theorem Mach.Canon.resumeGang {values : List (Nat × RegValue)} (h : m.Canon) : (m.resumeGang g x values).Canon :=
  Mach.Canon.foldl (h.updGang fun _ hx => hx.returned.resumed) fun _ _ h => h.again

theorem Mach.Canon.letGo (h : m.Canon) : (m.letGo id j g).Canon :=
  .ite (.ite h.updJob.requeue h.updJob) h.updJob.wantBind

theorem Mach.Canon.resumeLoupes {ls : List (Nat × Nat × Nat × LoupeCtx)} {values : List (Nat × RegValue)} (h : m.Canon) :
    (m.resumeLoupes ls values).Canon := h.foldl fun _ _ h => (h.updCtx fun _ hx => hx.resumed).startSlices

theorem State.Canon.execKernelResumeInPlace {gang : Nat} {values : List (Nat × RegValue)} (h : s.Canon) :
    Keeps (execKernelResumeInPlace gang values s) := by
  unfold Machine.execKernelResumeInPlace
  split
  · split
    · exact .fault
    · exact h.event h.m.letGo
  · exact h.event (.acknowledge (.updJob (.resumeLoupes (.ite h.m.resumeGang h.m))))

theorem State.Canon.execKernelSave {gang : Nat} (h : s.Canon) : Keeps (execKernelSave gang s) := by
  unfold Machine.execKernelSave
  split
  · exact .fault
  · exact h.event (h.m.updGang fun _ hx => hx.settled.congr).updJob.acknowledge

/-! ## Page faults served -/

theorem Mach.Canon.endService {va : Word} {who : Who} {fault : Option (BitVec 8)} (h : m.Canon) : (m.endService id va who fault).Canon := by
  have hgang (g : Nat) (w : Who) : (match m.gang? g with
      | none => m
      | some x =>
        match fault, x.causes.find? (Cause.isService id) with
        | some c, some k =>
          ((m.rampAfter x).updGang g (fun x => { x with pck := if w = Who.save g then none else x.pck })).takeStop g
            (x.mkReport m.time k.rank k.strm k.pc 0 { cause := c, addr := va })
        | _, _ => m.updGang g (fun x => { x with causes := x.causes.filter (fun c => !c.isService id) })).Canon := by
    split
    · exact h
    · split
      · exact (h.rampAfter.updGang fun _ hx => hx.congr).takeStop
      · exact h.updGang fun _ hx => hx.congr
  unfold Mach.endService
  split
  · exact hgang _ _
  · exact hgang _ _
  · split
    · exact h.stopLoupe
    · exact h.updCtx fun _ hx => hx.congr
  · split
    · exact h.updCmd.schedule
    · exact h.updCmd
  · exact h
  · exact h

theorem State.Canon.execPageFaultService {how : Service} (h : s.Canon) : Keeps (execPageFaultService id how s) := by
  unfold Machine.execPageFaultService
  split
  · extract_lets m1
    have h1 : m1.Canon := h.m.acknowledge
    refine .next (h.withMach ?_)
    cases how with
    | map => exact h1.dropWalks.endService
    | convert => exact h1.endService
    | refuse => exact h1.endService
    | kill => exact h1.endStopped
  · exact .fault

/-! ## The kernel's health -/

theorem Mach.Canon.watchHeart (h : m.Canon) : m.watchHeart.Canon := h.congr

theorem State.Canon.execKpanicWrite (h : s.Canon) : Keeps (execKpanicWrite s) := .next (h.withMach h.m.crash)

theorem State.Canon.execKhbWrite (h : s.Canon) : Keeps (execKhbWrite s) := .next (h.withMach (.ite h.m h.m.watchHeart))

theorem State.Canon.execHeartbeatTimeout (h : s.Canon) : Keeps (execHeartbeatTimeout s) := h.event h.m.crash

theorem State.Canon.execKreadyWrite (h : s.Canon) : Keeps (execKreadyWrite s) :=
  .next (h.withMach (.ite (.watchHeart (.foldl h.m.congr fun _ _ h => h.wantBind)) h.m))

theorem State.Canon.execWarmStartRetry (h : s.Canon) : Keeps (execWarmStartRetry s) := by
  unfold Machine.execWarmStartRetry
  extract_lets _ _ m1 _ m2 m3
  have h2 : m2.Canon := h.m.congr
  have h3 : m3.Canon := h2.foldl fun _ _ h => h.endJob
  exact h.event (.ite h2.schedule h3.congr)

/-! ## Errors of arrays and links -/

theorem Mach.Canon.strike {k : Strike} (h : m.Canon) : (m.strike k).Canon := by
  unfold Mach.strike
  split
  · exact .logArray h.congr
  · exact .ite h.congr h
  · split
    · exact h
    · exact h.updCluster fun _ hc => hc.congr
  · exact h.updCore fun _ hc => ite_keeps hc.congr hc
  · exact .ite h.congr h

theorem Mach.Canon.cmdMeets {c : Cmd} (h : m.Canon) (hm : m.cmdMeets id c = some m') : m'.Canon := by
  unfold Mach.cmdMeets at hm
  extract_lets now at hm
  split at hm
  · cases hm
  · split at hm
    · refine Option.some.inj hm ▸ ?_
      split
      · exact h.cmdStopped.colCancel
      · exact h.cmdStopped
    · cases hm

theorem Mach.Canon.pieceMeets (h : m.Canon) (hm : m.pieceMeets g x = some m') : m'.Canon := by
  unfold Mach.pieceMeets at hm
  split at hm
  case h_3 => cases hm
  all_goals
    obtain ⟨b, -, hb⟩ := Option.bind_eq_some_iff.mp hm
    split at hb
    · exact Option.some.inj hb ▸ h.checkFails
    · cases hb

theorem Mach.Canon.endAccess {f : LinkFault} (h : m.Canon) : (m.endAccess f).Canon := by
  unfold Mach.endAccess
  extract_lets m1 hit m2
  have h1 : m1.Canon := h.congr
  have h2 : m2.Canon := by
    unfold m2
    split
    · exact h1.force
    · split
      · next heq =>
        obtain ⟨p, -, hp⟩ := List.exists_of_findSome?_eq_some heq
        exact h1.cmdMeets hp
      · cases hf : m1.gangs.findSome? (fun p => m1.pieceMeets p.1 p.2) with
        | none => exact h1
        | some m' =>
          obtain ⟨p, -, hp⟩ := List.exists_of_findSome?_eq_some hf
          exact h1.pieceMeets hp
  exact h2.congr

theorem State.Canon.execMirrorRepair {pa : Nat} {good readback : Bool} (h : s.Canon) : Keeps (execMirrorRepair pa good readback s) :=
  h.event h.m.repair

theorem Mach.Canon.holdLink {f : LinkFault} {t : Nat} (h : m.Canon) : (m.holdLink f t).Canon := h.congr

theorem State.Canon.execLinkRetry {fault : LinkFault} (h : s.Canon) : Keeps (execLinkRetry fault s) :=
  h.event (.ite h.m.fresh.logLink.holdLink (.ite h.m.fresh.logLink.holdLink.schedule h.m.fresh.logLink.holdLink.schedule))

theorem State.Canon.execLaneTestComplete {fault : LinkFault} {lane : Option (BitVec 8)} (h : s.Canon) :
    Keeps (execLaneTestComplete fault lane s) := by
  unfold Machine.execLaneTestComplete
  extract_lets _ m1 t
  have h1 : m1.Canon := h.m.congr
  refine h.event ?_
  split
  · exact h1.logLink.endAccess
  · exact .ite h1.congr h1.logLink.endAccess

theorem Mach.Canon.syncRegistry (h : m.Canon) : m.syncRegistry.Canon := by
  unfold Mach.syncRegistry
  split
  · exact h
  · exact .ite h h.devStore

end

section

/-! # The host -/

variable {m m' : Mach} {s t : State} {q : CmdQueue} {vd : Nat}

/-! ## Commands of the host (R388) -/

theorem Mach.Canon.popCmd (h : m.Canon) : (m.popCmd q).Canon := by
  unfold Mach.popCmd
  split
  · exact h.congr
  · exact h.congr
  · exact h.updVd

theorem Mach.Canon.skipUnknown {n : Nat} (h : m.Canon) : (Mach.skipUnknown n m q).Canon := by
  induction n generalizing m with
  | zero => exact h
  | succ n ih =>
    unfold Mach.skipUnknown
    split
    · exact h
    · exact .ite h (ih h.popCmd.finishEntry)

theorem Mach.Canon.poll (h : m.Canon) : (m.poll q).Canon := by
  unfold Mach.poll
  extract_lets m1 open_
  have h1 : m1.Canon := h.skipUnknown
  refine .ite ?_ (.ite h1.congr h1)
  split
  · exact h1.noteIdle
  · exact h1
  · exact h1

theorem Mach.Canon.give {c : HostCmd} {bytes : List Byte} (h : m.Canon) : (m.give c bytes).Canon := by
  unfold Mach.give
  split
  · exact h.congr
  · exact .ite h ⟨h.dev, Memory.wf_write _ _ _ h.host, h.gangs, h.dies⟩

/-- A command keeps the canonical form when what it does does. -/
theorem State.Canon.hostCmd {opc : Nat} {allowed : Bool} {body : HostCmd → Mach → Mach × Option (Word × Nat)} (h : s.Canon)
    (hb : ∀ c m, m.Canon → (body c m).1.Canon) : Keeps (hostCmd opc q allowed body s) := by
  unfold Machine.hostCmd
  split
  · exact .fault
  · next c hc =>
    extract_lets m1 m2
    have h1 : m1.Canon := h.m.fresh.popCmd
    have h2 : m2.Canon := by
      refine .ite h1.finishEntry ?_
      split
      · next heq => exact (of_fst (P := Mach.Canon) heq (hb c m1 h1)).finishEntry
      · next heq => exact of_fst (P := Mach.Canon) heq (hb c m1 h1)
    exact .ite .fault (.next (h.withMach h2.poll))

theorem State.Canon.execIdentify (h : s.Canon) : Keeps (execIdentify q s) := h.hostCmd fun _ _ h => h.give
theorem State.Canon.execStatus (h : s.Canon) : Keeps (execStatus q s) := h.hostCmd fun _ _ h => h.give
theorem State.Canon.execLog (h : s.Canon) : Keeps (execLog q s) := h.hostCmd fun _ _ h => h.give
theorem State.Canon.execAttest (h : s.Canon) : Keeps (execAttest q s) := h.hostCmd fun _ _ h => h.give

theorem Cluster.Canon.powered {c : Cluster} {on : Bool} (h : c.Canon) : ({ c with powered := on } : Cluster).Canon := h.congr

theorem Mach.Canon.powerAll {on : Bool} (h : m.Canon) : (m.powerAll on).Canon := by
  refine ⟨h.dev, h.host, h.gangs, fun d hd => ?_⟩
  obtain ⟨e, he, rfl⟩ := Vector.mem_map.mp hd
  refine ⟨(h.dies e he).loupes, fun c hc => ?_⟩
  obtain ⟨k, hk, rfl⟩ := Vector.mem_map.mp hc
  exact ((h.dies e he).clusters k hk).powered

theorem State.Canon.execSelftest (h : s.Canon) : Keeps (execSelftest q s) := by
  refine h.hostCmd fun c m h => ?_
  dsimp only
  split
  · exact h
  · exact Mach.Canon.powerAll h.congr

theorem State.Canon.execSetCap {src : CapSource} (h : s.Canon) : Keeps (execSetCap src s) := by
  unfold Machine.execSetCap
  split
  · exact .next (h.withMach h.m.capMessage)
  · exact h.hostCmd fun _ _ h => h.capMessage

theorem LoupeCtx.Canon.of_mem_nil {x : LoupeCtx} (h : x.mem = [] := by rfl) : x.Canon := ⟨by rw [h]; rfl⟩

theorem forall_mem_set {α : Type} {P : α → Prop} {l : List α} {i : Nat} {a : α} (h : ∀ a ∈ l, P a) (ha : P a) : ∀ b ∈ l.set i a, P b :=
  fun b hb => (List.mem_or_eq_of_mem_set hb).elim (h b) fun e => e ▸ ha

theorem LoupeCore.Canon.assign {l : LoupeCore} {n c : Nat} (h : l.Canon) : (l.assign n c vd).Canon := by
  refine ⟨forall_mem_set ?_ .of_mem_nil⟩
  split
  · intro x hx
    rw [List.eq_of_mem_replicate hx]
    exact .of_mem_nil
  · exact h.ctxs

theorem State.Canon.execVdCreate (h : s.Canon) : Keeps (execVdCreate q s) := by
  refine h.hostCmd fun c m h => ?_
  split
  · exact h
  · extract_lets b
    split
    · exact h
    · next v hv =>
      extract_lets m1 m2 m3
      have h2 : m2.Canon :=
        Mach.Canon.foldl (h.foldl fun _ _ h => h.updLoupe fun _ hl => hl.assign) fun _ _ h => h.updCluster fun _ hc => hc.powered
      have h3 : m3.Canon := h2.congr
      exact h3.noteIdle

theorem State.Canon.execLoadImage (h : s.Canon) : Keeps (execLoadImage q s) := by
  refine h.hostCmd fun c m h => ?_
  split
  · next heq => exact h.mgmtWrite _ heq
  · exact h

theorem State.Canon.execLaunch (h : s.Canon) : Keeps (execLaunch q s) := h.hostCmd fun _ _ h => h.capture

/-! ## Sleep -/

theorem Mach.Canon.askBound (h : m.Canon) : (m.askBound vd).Canon := h.foldl fun _ _ h => h.schedule

theorem Mach.Canon.startCollapse (h : m.Canon) : (m.startCollapse vd).Canon := h.updVd.askBound.scheduleDrawn

theorem State.Canon.execIdleTimeout (h : s.Canon) : Keeps (execIdleTimeout vd s) := h.event h.m.startCollapse

theorem Mach.Canon.eachCtx {f : LoupeCtx → LoupeCtx} (h : m.Canon) (hf : ∀ x, x.Canon → (f x).Canon) : (m.eachCtx vd f).Canon :=
  h.foldl fun _ _ h => h.updCtx hf

theorem Cluster.canon_wakeFrom {c : Cluster} {p : Part} (h : Memory.wf p = true) : (c.wakeFrom p).Canon := by
  refine ⟨fun x hx => ?_⟩
  obtain ⟨k, -, rfl⟩ := List.mem_map.mp hx
  exact ⟨Part.wf_slice h⟩

theorem Mach.Canon.writeWake {v : VDev} (h : m.Canon) : (m.writeWake v).Canon := by
  refine h.foldl fun m p h => ?_
  dsimp only
  split
  · exact h
  · exact ⟨Memory.wf_blit h.dev, h.host, h.gangs, h.dies⟩

theorem Mach.Canon.gate {v : VDev} (h : m.Canon) : (m.gate vd v).Canon := by
  refine .updVd (.eachCtx (h.foldl fun m p h => h.updCluster fun c hc => ⟨ite_keeps hc.sram .nil⟩) fun _ hx => ite_keeps hx.congr hx)

theorem Mach.Canon.nextStep {step : Nat} (h : m.Canon) : (m.nextStep vd step).Canon := by
  unfold Mach.nextStep
  extract_lets m1
  have h1 : m1.Canon := h.updVd
  split
  · exact h1.startWake
  · exact .ite h1 h1.schedule

theorem State.Canon.execCollapse (h : s.Canon) : Keeps (execCollapse vd s) := by
  unfold Machine.execCollapse
  split
  · exact .fault
  · extract_lets m1 again m2 m3
    have h1 : m1.Canon := h.m.fresh
    have hagain (m : Mach) (h : m.Canon) : (again m).Canon := h.schedule
    have h2 : m2.Canon := .ite (h1.foldl fun _ _ h => h.endAsleep) h1
    have h3 : m3.Canon := by
      unfold m3
      split
      · exact .ite (.ite h1.nextStep (hagain _ h1.askBound)) h2.nextStep
      · exact .ite (hagain _ h1) (.nextStep (.ite h1.writeWake h1))
      · exact h1.gate.nextStep
    exact h.event h3

theorem State.Canon.execVdSleep (h : s.Canon) : Keeps (execVdSleep q s) := by
  unfold Machine.execVdSleep
  extract_lets t
  refine h.hostCmd fun c m h => ?_
  split
  · exact h
  · split
    · exact h
    · split
      · exact h
      · exact h.startCollapse
      · exact h
      · exact h

theorem Mach.Canon.ignoreWake (h : m.Canon) : (m.ignoreWake vd).Canon := h.congr

theorem State.Canon.execVdWake (h : s.Canon) : Keeps (execVdWake q s) := by
  unfold Machine.execVdWake
  extract_lets t may s1
  have h1 : s1.Canon := .ite h (h.withMach h.m.ignoreWake)
  refine h1.hostCmd fun c m h => ?_
  split
  · exact h.wake
  · exact h

theorem State.Canon.execWakeDoorbell {peer : Bool} (h : s.Canon) : Keeps (execWakeDoorbell vd peer s) := by
  unfold Machine.execWakeDoorbell
  split
  · exact .fault
  · exact .next (h.withMach (.ite h.m.ignoreWake h.m.wake))

/-! ## Accesses from outside -/

theorem Mach.Canon.regAccess {off x : Nat} (h : m.Canon) : (m.regAccess vd off x).Canon := by
  refine .ite ?_ ?_
  · dsimp only
    split
    · exact .poll h.congr
    · exact h.congr
    · exact h.congr
    · exact h
  · split
    · exact .ite h.updVd.poll h.updVd
    · exact h.wake
    · exact h

theorem Mach.Canon.peerAccess {off : Nat} {data : List Byte} (h : m.Canon) : (m.peerAccess vd off data).Canon := by
  unfold Mach.peerAccess
  extract_lets n
  split
  · exact h.updVd
  · exact h.updVd
  · exact h

theorem Mach.Canon.kernelRead {off : Nat} (h : m.Canon) : (m.kernelRead vd off).Canon :=
  .ite h.congr (.ite h.congr (.ite h.congr h))

theorem Mach.Canon.cacheLines {pa n : Nat} (h : m.Canon) : (m.cacheLines pa n).Canon := h.congr

theorem Mach.Canon.outside {acc : OutsideAccess} (h : m.Canon) : (m.outside vd acc).Canon := by
  unfold Mach.outside
  extract_lets _ n m1 m2 m3 m4
  have h1 : m1.Canon := h.foldl fun _ _ h => h.outsideAccess
  have h2 : m2.Canon := .ite h1.cacheLines h1
  have h3 : m3.Canon := h2.mend
  have h4 : m4.Canon := h3.logBad
  refine .ite (.ite (.poll h.congr) h) (.ite (.ite (.ite h.kernelRead h) (.ite h.peerAccess h.regAccess)) ?_)
  exact .ite h2.devStore (.ite h4.congr h3.congr)

theorem Mach.Canon.hostError {acc : OutsideAccess} (h : m.Canon) : (m.hostError acc).Canon := h.congr

theorem State.Canon.execHeldAccess {acc : OutsideAccess} (h : s.Canon) : Keeps (execHeldAccess vd acc s) :=
  h.event (.ite h.m.hostError h.m.updVd.wake)

theorem State.Canon.execOutsideAgentAccess {acc : OutsideAccess} (h : s.Canon) : Keeps (execOutsideAgentAccess vd acc s) :=
  h.event h.m.fresh.outside

theorem Mach.Canon.completeHeld {a : Held} (h : m.Canon) : (m.completeHeld vd a).Canon := by
  cases a with
  | access a => exact h.outside
  | launch ptr kernel ref areas => exact h.captureNow
  | finish p r w => exact h.finishNow

/-! ## Wake -/

theorem Cluster.Canon.poisoned {c : Cluster} {a : Nat} {bad : List Nat} (h : c.Canon) : (c.poisoned a bad).Canon := by
  refine ⟨fun x hx => ?_⟩
  obtain ⟨y, hy, rfl⟩ := List.mem_map.mp hx
  exact (h.sram y hy).congr

theorem Mach.Canon.wakeRead {d k a : Nat} (h : m.Canon) : (m.wakeRead d k a).Canon :=
  .logBad (h.updCluster fun _ _ => (Cluster.canon_wakeFrom h.imageAt).poisoned)

theorem Mach.Canon.powerUp {v : VDev} (h : m.Canon) : (m.powerUp vd v).Canon := by
  unfold Mach.powerUp
  extract_lets gated m1
  have h1 : m1.Canon := h.foldl fun m p h => by
    have h0 := h.updCluster (d := p.1.1) (k := p.1.2) (f := fun c => { c with powered := true }) fun _ hc => hc.powered
    refine .ite h ?_
    dsimp only
    split
    · exact .ite h0.wakeRead h0
    · exact h0
  exact .ite h1.updVd h1

theorem Mach.Canon.startRamps {v : VDev} (h : m.Canon) : (m.startRamps vd v).Canon :=
  .schedule (.updVd (h.powerUp.foldl fun _ _ h => h.startRamp))

theorem Mach.Canon.activate {v : VDev} (h : m.Canon) : (m.activate vd v).Canon := by
  refine .noteIdle (.wantBind (.poll (.foldl (.updVd (h.eachCtx fun _ hx => ite_keeps hx.congr hx)) fun _ _ h => ?_)))
  exact h.fresh.completeHeld

theorem State.Canon.execWakeComplete (h : s.Canon) : Keeps (execWakeComplete vd s) := by
  unfold Machine.execWakeComplete
  split
  · exact .fault
  · exact h.event (.ite h.m.fresh.activate h.m.fresh.startRamps)

end

section

/-! # The cycle of the machine -/

variable {m m' : Mach} {s t : State} {q : CmdQueue} {vd id : Nat}

/-! ## Virtual devices destroyed, and reset -/

/-- A package that comes with a value is in canonical form. -/
abbrev FstCanon {α : Type} (x : Mach × α) : Prop := x.1.Canon

theorem Mach.Canon.closeQueue {n : Nat} (h : m.Canon) : (Mach.closeQueue n m vd).Canon := by
  induction n generalizing m with
  | zero => exact h
  | succ n ih =>
    unfold Mach.closeQueue
    split
    · exact h
    · exact ih (.ite h.popCmd.closeLaunch h.popCmd)

theorem Mach.Canon.beginTeardown {ref : CmdRef} (h : m.Canon) : (m.beginTeardown vd ref).Canon := by
  refine .closeQueue (.foldl (.foldl h.updVd fun m a h => ?_) fun m p h => ?_)
  · split
    · exact h.hostError
    · exact h.closeLaunch
    · exact h.finishNow
  · exact .ite h.cancelCmds.endStopped.updJob h.endJob

theorem Mach.Canon.closeLate (h : m.Canon) : (m.closeLate vd).Canon := .closeQueue (h.foldl fun _ _ h => h.closeLaunch)

theorem LoupeCore.Canon.withdraw {l : LoupeCore} {c : Nat} (h : l.Canon) :
    LoupeCore.Canon (let l := { l with ctxs := l.ctxs.set c { vd := 16 } }
      if l.ctxs.all (fun x => x.vd == 16) then {} else l) :=
  ite_keeps ⟨fun _ h => nomatch h⟩ ⟨forall_mem_set h.ctxs .of_mem_nil⟩

theorem Mach.Canon.destroyVd {v : VDev} {ref : CmdRef} (h : m.Canon) : (m.destroyVd vd v ref).Canon := by
  unfold Mach.destroyVd
  extract_lets m1 m2 m3 mine
  have h1 : m1.Canon := h.foldl fun _ _ h => h.setRegion
  have h2 : m2.Canon := h1.foldl fun _ _ h => h.updLoupe fun _ hl => hl.withdraw
  have h3 : m3.Canon := h2.foldl fun _ _ h => h.updCluster fun _ _ => ⟨.nil⟩
  exact .finishEntry ⟨Memory.wf_filter _ _ h3.dev, h3.host, h3.gangs, h3.dies⟩

theorem Mach.Canon.finishTeardowns (h : m.Canon) : m.finishTeardowns.Canon := by
  refine h.foldl fun m p h => ?_
  split
  · exact .ite h.closeLate.destroyVd h
  · exact h

theorem State.Canon.execVdDestroy (h : s.Canon) : Keeps (execVdDestroy q s) := by
  refine h.hostCmd fun c m h => ?_
  split
  · exact h
  · split
    · exact h
    · exact h.beginTeardown

theorem State.Canon.execFwUpdate (h : s.Canon) : Keeps (execFwUpdate q s) :=
  h.hostCmd fun _ _ h => ite_keeps (P := FstCanon) h (ite_keeps (P := FstCanon) h (Mach.Canon.congr h))

theorem Mach.Canon.applyHeldCap (h : m.Canon) : m.applyHeldCap.Canon := by
  unfold Mach.applyHeldCap
  split
  · exact h
  · exact .schedule (.setBudget h.congr)

theorem State.Canon.execReset (h : s.Canon) : Keeps (execReset s) := by
  unfold Machine.execReset
  extract_lets g _ m1
  have h1 : m1.Canon := by
    refine ⟨rfl, h.m.host, .nil, fun d hd => ?_⟩
    obtain ⟨e, he, rfl⟩ := Vector.mem_map.mp hd
    exact (State.Canon.reset.m.dies e he).congr
  exact .next (.of_no_issue (.ite (.applyHeldCap h1.congr) h1.powerAll))

/-! ## What a master cycle does -/

theorem Mach.Canon.moveCmd {n lim : Nat} (h : m.Canon) : (Mach.moveCmd n m id lim).Canon := by
  induction n generalizing m lim with
  | zero => exact h
  | succ n ih =>
    unfold Mach.moveCmd
    split
    · exact h
    · refine .ite h ?_
      split
      · next heq =>
        have h1 := h.stepTransfer _ heq
        exact .ite (Mach.Canon.updCmd h1).walkAhead (ih (Mach.Canon.updCmd h1).walkAhead)
      · exact h.updCmd
      · exact h.cmdStopped.colCancel
      · exact h.cmdStopped

theorem Mach.Canon.settleLat {c : Cmd} (h : m.Canon) : (m.settleLat id c).Canon := by
  unfold Mach.settleLat
  split
  · refine .ite h ?_
    split
    · exact h
    · exact h.updCmd
  · exact h

theorem Mach.Canon.askComplete {d k p : Nat} (h : m.Canon) : (m.askComplete d k id p).Canon := by
  unfold Mach.askComplete
  split
  · exact h
  · exact .ite h.schedule h

theorem Mach.Canon.pulse {d k : Nat} (h : m.Canon) : (m.pulse d k).Canon := by
  refine .updCluster (h.foldl fun m id h => ?_) fun _ hc => hc.congr
  split
  · exact h
  · next m1 heq =>
    obtain ⟨c, -, rfl⟩ := Option.map_eq_some_iff.mp heq
    refine .askComplete ?_
    split
    · refine .ite ?_ h.settleLat
      split
      · next hb => exact (h.settleLat.fresh.beforeMove hb).updCmd.moveCmd
      · exact h.settleLat
    · exact h.settleLat

theorem Mach.Canon.stepLoupeCmd (h : m.Canon) : (m.stepLoupeCmd id).Canon := by
  unfold Mach.stepLoupeCmd
  split
  · exact h
  · refine .ite (.ite h h.fresh.scheduleDrawn) (.ite h ?_)
    split
    · next heq => exact (h.stepLoupe _ heq : Mach.Canon _).updCmd
    · exact h.cmdStopped

theorem Mach.Canon.tick (h : m.Canon) : m.tick.Canon := by
  unfold Mach.tick
  extract_lets m1 m2 m3 m4 t m5 turn
  have h2 : m2.Canon := h.fresh.foldl fun _ _ h => h.pulse
  have h3 : m3.Canon := h2.foldl fun _ _ h => h.stepLoupeCmd
  have h4 : m4.Canon := h3.testBars.jobEnds.finishTeardowns.serveMonitor.syncRegistry
  clear_value m4
  exact h4.congr

theorem Mach.Canon.deliverLoupe {d i c : Nat} {p : Pend} (h : m.Canon) : (m.deliverLoupe d i c p).Canon := by
  unfold Mach.deliverLoupe
  split
  · exact h
  · next id r _ =>
    refine .ite h ?_
    have h1 : Mach.Canon { m with replies := tdel m.replies id } := h.congr
    dsimp only
    split
    · exact (h1.updCtx fun _ hx => hx.congr).stopLoupe
    · exact (h1.updCtx fun _ hx => hx.congr).updCtx fun _ hx => hx.congr

theorem Mach.Canon.reachCtx {d i c : Nat} (h : m.Canon) : (m.reachCtx d i c).Canon := by
  unfold Mach.reachCtx
  split
  · exact h
  · extract_lets m1
    have h1 : m1.Canon := h.foldl fun _ _ h => h.deliverLoupe
    split
    · exact .ite (h1.barAcquire.updCtx fun _ hx => hx.congr) (.ite h1.stopLoupe (.ite h1.stopLoupe h1))
    · exact h1

/-! ## What a step is -/

/-- The states of a plan have every memory in canonical form. -/
def Plan.Canon : Plan → Prop
  | .word _ s | .quiet s => s.Canon
  | .event _ s els | .command _ s els => s.Canon ∧ els.Canon

theorem Plan.Canon.word {i : Instr} (h : s.Canon) : (Plan.word i s).Canon := h
theorem Plan.Canon.quiet (h : s.Canon) : (Plan.quiet s).Canon := h
theorem Plan.Canon.event {i : Instr} (h : s.Canon) (ht : t.Canon) : (Plan.event i s t).Canon := ⟨h, ht⟩
theorem Plan.Canon.command (h : s.Canon) (ht : t.Canon) : (Plan.command q s t).Canon := ⟨h, ht⟩

theorem Plan.Canon.ite {p : Prop} [Decidable p] {x y : Plan} (hx : x.Canon) (hy : y.Canon) : (if p then x else y).Canon :=
  ite_keeps hx hy

theorem State.Canon.wordPlan (h : s.Canon) : s.wordPlan.Canon := by
  refine .ite (.quiet h.raise) ?_
  split
  · exact .quiet h.raise
  · exact .word h

theorem State.Canon.without {d : Due} (h : s.Canon) : (s.without d).Canon := h.withMach h.m.congr

theorem State.Canon.gangPlan {g : Nat} {rest : List Nat} (h : s.Canon) : (s.gangPlan g rest).Canon := by
  unfold State.gangPlan
  extract_lets _ skip
  have hs : skip.Canon := h.withMach h.m.congr
  have ht := h.m.fresh.turn (g := g)
  split
  · exact .event (h.withMach h.m.fresh) hs
  · exact .event (h.withMach h.m.fresh).without (h.withMach h.m.fresh).without
  · next heq => exact .quiet (h.withMach (heq ▸ ht : (Turn.again _).Canon))
  · next t heq =>
    have ht : t.Canon := (heq ▸ ht : (Turn.over t).Canon)
    exact .quiet (ht.withMach ht.m.congr)

theorem State.Canon.loupePlan {d i : Nat} {rest : List (Nat × Nat)} (h : s.Canon) : (s.loupePlan d i rest).Canon := by
  unfold State.loupePlan
  extract_lets n _ m1
  have h1 : m1.Canon := .foldl h.m.congr fun _ _ h => h.reachCtx
  split
  · exact .quiet (h.withMach h1)
  · exact .ite (.quiet (h.withMach h1.passIdle)) (State.Canon.wordPlan ⟨h1, h.before⟩)

theorem State.Canon.pollPlan {p : Nat × CmdQueue} (h : s.Canon) : (s.pollPlan p).Canon := by
  unfold State.pollPlan
  extract_lets _ t
  have ht : t.Canon := h.withMach h.m.congr
  split
  · exact .ite (.quiet ht) (.ite (.quiet (ht.withMach ht.m.wake)) (.command ht ht))
  · exact .ite (.quiet ht) (.command ht ht)
  · exact .command ht ht

theorem State.Canon.inputPlan {p : Nat × Instr} (h : s.Canon) : (s.inputPlan p).Canon := by
  unfold State.inputPlan
  extract_lets _ t
  have ht : t.Canon := h.withMach h.m.congr
  split
  · exact .ite (.quiet (ht.withMach (.congr ht.m.trapFor))) (.event ht ht)
  · exact .ite (.event ht ht) (.quiet ht)

theorem State.Canon.idlePlan (h : s.Canon) : s.idlePlan.Canon := by
  unfold State.idlePlan
  extract_lets at_
  have hat (d : Due) : (at_ d).Canon := .event h.without h.without
  split
  · exact h.pollPlan
  · exact hat _
  · split
    · exact h.gangPlan
    · exact h.loupePlan
    · split
      · exact hat _
      · split
        · exact h.pollPlan
        · split
          · exact .quiet (h.withMach (.strike h.m.congr))
          · exact h.inputPlan
          · exact .quiet (h.withMach h.m.tick)

theorem State.Canon.plan (h : s.Canon) : s.plan.Canon := by
  unfold State.plan
  split
  · exact h.idlePlan
  · next i hi =>
    have hb := h.before i hi
    split
    · exact State.Canon.wordPlan ⟨h.m, fun j hj => Option.some.inj hj ▸ hb⟩
    · exact .quiet (h.closeEc hb)

theorem State.Canon.runCommand (h : s.Canon) : Keeps (runCommand q s) := by
  unfold Machine.runCommand
  split
  · exact h.execIdentify
  · exact h.execStatus
  · exact h.execLog
  · exact h.execSelftest
  · exact h.execVdCreate
  · exact h.execVdDestroy
  · exact h.execVdSleep
  · exact h.execVdWake
  · exact h.execLoadImage
  · exact h.execLaunch
  · exact h.execAttest
  · exact h.execSetCap
  · exact h.execFwUpdate
  · exact .fault

theorem Keeps.orElse {o : Host.Outcome State Fault Refusal} (ho : Keeps o) (h : s.Canon) : Keeps (orElse o s) := by
  cases o with
  | next t => exact ho
  | fault f => exact .next h
  | refused r => exact .refused

end

section

/-! # The step -/

variable {s : State}

/-! ## Every word, event and command keeps the canonical form -/

theorem State.Canon.execVun {d : BitVec 6} {a fn : BitVec 7} {x w : Bool} {g : BitVec 4} (h : s.Canon) : Keeps (execVun d a fn x w g s) := by
  unfold Machine.execVun
  exact h.vr1

theorem State.Canon.bitwise {f : Nat → Nat → Nat → Nat} {d : BitVec 6} {a b : BitVec 7} {x w : Bool} {g : BitVec 4} (h : s.Canon) :
    Keeps (bitwise f d a b x w g s) := h.vr2

theorem State.Canon.exec (h : s.Canon) (i : Instr) : Keeps (exec i s) := by
  unfold Machine.exec
  cases i <;> dsimp only
  case add | sub | and | or | xor | andn | min | max | minn | maxn | shl | shr | sar | rotr | mul | mulh | mulhn | div | divn |
      rem | remn => exact h.sr2
  case clz | popc | ptrsp | ptrrk | ptrof => exact h.sr1
  case pand | por | pxor => exact h.pp2
  case fadd | fsub | fmul | fmin | fmax | fdiv => exact h.sf2
  case cvtif | cvtnf | cvtfi | cvtfiz => exact h.cvt1
  case fcmpLt | fcmpLe | fcmpEq => exact h.fcmp
  case addi | andi | ori | xori | shli | shri | sari => exact h.si1
  case cmp | pnot | cmpi => exact h.word (.ok h.resP)
  case ptos | ffma | fsqrt | lim | lih | lscr => exact h.word (.ok h.resS)
  case stop => exact h.word (.ok h.emit)
  case ptrmk | ptradd | ptri => exact h.wordMade
  case ldb | ldbn | ldh | ldhn | ldw | ldwn | ldd => exact h.load
  case stb | sth | stw | std => exact h.store
  case ldl => exact h.execLdl
  case aadd | amin | amax | aminn | amaxn | aand | aor | aswap => exact h.amo
  case casW | casD => exact h.cas
  case fence => exact h.execFence
  case br => exact h.execBr
  case call => exact h.execCall
  case jmpr => exact h.execJmpr
  case loop => exact h.execLoop
  case lset => exact h.execLset
  case rdvFin => exact h.execRdvFin
  case rdvMid => exact h.execRdvMid
  case exit => exact h.execExit
  case waitc => exact h.execWaitc
  case yield => exact h.execYield
  case phase => exact h.execPhase
  case lease => exact h.execLease
  case barInit => exact h.execBarInit
  case barExpb => exact h.execBarExpb
  case barArv => exact h.execBarArv
  case barWait => exact h.execBarWait
  case barAw => exact h.execBarAw
  case mfsr => exact h.execMfsr
  case mtsr => exact h.execMtsr
  case trap => exact h.execTrap
  case evnt => exact h.execEvnt
  case tlbi => exact h.execTlbi
  case dinv => exact h.execDinv
  case halt => exact h.execHalt
  case csave => exact h.execCsave
  case lhash => exact h.execLhash
  case lgath => exact h.execLgath
  case lpool => exact h.execLpool
  case lscat => exact h.execLscat
  case lhand => exact h.execLhand
  case vun => exact h.execVun
  case vand | vor | vxor | vshl | vshr | vsar => exact h.bitwise
  case vadd | vsub | vmul | vmin | vmax => exact h.vr2
  case vfma | vfms | vfsl | vfsr => exact h.vr3
  case vcomp | vexpd | vslu | vsld => exact h.vmove
  case vhar | vihr => exact h.word (.ok h.view.resLanes)
  case vcmp => exact h.word (.ok h.view.view.resM)
  case vsel => exact h.word (.ok h.view.view.resV)
  case vmsk => exact h.word (.ok h.resM)
  case vbrd | viota => exact h.word (.ok h.resLanes)
  case vmvs => exact h.word (.ok h.view.emit)
  case vmsv | vmvy => exact h.word (.ok h.resV)
  case vcvt => exact h.word (.ok h.view.resV)
  case vthr => exact h.word (.ok h.view.resM)
  case vred => exact h.execVred
  case vsetShape => exact h.execVsetShape
  case vsetTh => exact h.execVsetTh
  case vsetTag => exact h.execVsetTag
  case vld => exact h.execVld
  case vst => exact h.execVst
  case vldl => exact h.execVldl
  case vldd => exact h.execVldd
  case vstl => exact h.execVstl
  case vlrg => exact h.execVlrg
  case mclm => exact h.execMclm
  case mrel => exact h.execMrel
  case mfil => exact h.execMfil
  case mma | mmat => exact h.multiply
  case mcnv => exact h.execMcnv
  case mwin => exact h.execMwin
  case mcfg => exact h.execMcfg
  case mrnd => exact h.execMrnd
  case mdrn => exact h.execMdrn
  case mzer => exact h.execMzer
  case mver => exact h.execMver
  case mverTag => exact h.execMverTag
  case mlda => exact h.execMlda
  case lopn => exact h.execLopn
  case lstp => exact h.execLstp
  case lrd => exact h.execLrd
  case lcls => exact h.execLcls
  case lwgt => exact h.execLwgt
  case tsrc | tdst | tdim | tind | tfmt | tsyn => exact h.tconf
  case tcpy | tlvl | tenc | tpak | tunp | tcol | tops => exact h.goWord
  case tkvf | tdrp => exact h.kvGo
  case tfil => exact h.execTfil
  case transferStart => exact h.execTransferStart
  case transferComplete => exact h.execTransferComplete
  case transferFault => exact h.execTransferFault
  case pageFaultService => exact h.execPageFaultService
  case replyArrival => exact h.execReplyArrival
  case freezeTimeout => exact h.execFreezeTimeout
  case yieldSpacingFault => exact h.execYieldSpacingFault
  case joinRelease => exact h.execJoinRelease
  case leaseTakeover => exact h.execLeaseTakeover
  case tileReady => exact h.execTileReady
  case mfilStamp => exact h.execMfilStamp
  case mdrnComplete => exact h.execMdrnComplete
  case barrierArrivalCount => exact h.execBarrierArrivalCount
  case loupeCommandComplete => exact h.execLoupeCommandComplete
  case lhandComplete => exact h.execLhandComplete
  case loupeSliceEnd => exact h.execLoupeSliceEnd
  case tlbiComplete => exact h.execTlbiComplete
  case preemptRequest => exact h.execPreemptRequest
  case yieldHoldRelease => exact h.execYieldHoldRelease
  case contextSave => exact h.execContextSave
  case checkpoint => exact h.execCheckpoint
  case haltRemoteStop => exact h.execHaltRemoteStop
  case mirrorRepair => exact h.execMirrorRepair
  case linkRetry => exact h.execLinkRetry
  case lnotify => exact h.execLnotify
  case bind => exact h.execBind
  case jobLoad => exact h.execJobLoad
  case startCycle => exact h.execStartCycle
  case patternFrame => exact h.execPatternFrame
  case forcedLowering => exact h.execForcedLowering
  case idleTimeout => exact h.execIdleTimeout
  case collapse => exact h.execCollapse
  case wakeDoorbell => exact h.execWakeDoorbell
  case wakeComplete => exact h.execWakeComplete
  case laneTestComplete => exact h.execLaneTestComplete
  case flgWrite => exact h.execFlgWrite
  case vwWrite => exact h.execVwWrite
  case wdogWrite => exact h.execWdogWrite
  case patWrite => exact h.execPatWrite
  case nqheadWrite => exact h.execNqheadWrite
  case nackWrite => exact h.execNackWrite
  case registerWrite => exact h.execRegisterWrite
  case accessCommit => exact h.execAccessCommit
  case viewBufferDrop => exact h.execViewBufferDrop
  case commandHalt => exact h.execCommandHalt
  case launch => exact h.execLaunch
  case identify => exact h.execIdentify
  case status => exact h.execStatus
  case log => exact h.execLog
  case selftest => exact h.execSelftest
  case vdCreate => exact h.execVdCreate
  case vdDestroy => exact h.execVdDestroy
  case vdSleep => exact h.execVdSleep
  case vdWake => exact h.execVdWake
  case loadImage => exact h.execLoadImage
  case attest => exact h.execAttest
  case fwUpdate => exact h.execFwUpdate
  case setCap => exact h.execSetCap
  case heldAccess => exact h.execHeldAccess
  case outsideAgentAccess => exact h.execOutsideAgentAccess
  case masterClockChange => exact h.execMasterClockChange
  case kernelEndJob => exact h.execKernelEndJob
  case kernelResumeInPlace => exact h.execKernelResumeInPlace
  case kernelSave => exact h.execKernelSave
  case kernelLaunch => exact h.execKernelLaunch
  case graphEdit => exact h.execGraphEdit
  case capLeaseExpiry => exact h.execCapLeaseExpiry
  case reset => exact h.execReset
  case khbWrite => exact h.execKhbWrite
  case kpanicWrite => exact h.execKpanicWrite
  case heartbeatTimeout => exact h.execHeartbeatTimeout
  case kreadyWrite => exact h.execKreadyWrite
  case warmStartRetry => exact h.execWarmStartRetry

theorem State.Canon.step (h : s.Canon) : Keeps (step s) := by
  have hp := h.plan
  unfold Machine.step
  split
  · next i t heq => exact State.Canon.exec (heq ▸ hp : (Plan.word i t).Canon) i
  · next i t els heq =>
    have ⟨ht, he⟩ : (Plan.event i t els).Canon := heq ▸ hp
    exact (ht.exec i).orElse he
  · next q t els heq =>
    have ⟨ht, he⟩ : (Plan.command q t els).Canon := heq ▸ hp
    exact ht.runCommand.orElse he
  · next t heq => exact .next (heq ▸ hp : (Plan.quiet t).Canon)

/-- Settles O6: the canonical form is kept by every function a step goes through, and so by the step. -/
theorem stepKeepsMemoriesCanonical : Obligations.StepKeepsMemoriesCanonical := by
  unfold Obligations.StepKeepsMemoriesCanonical
  intro s t hs ht
  exact (State.canon_iff t).mp (((State.canon_iff s).mpr hs).step t ht)

end

end Sys2Proof.Machine
end

section
/-! PROOFS. Which word a step is about (R12, R337), and what comes of it: it runs, is illegal (R31), or is stopped in flight (R320,
R404). -/
namespace Sys2Proof.Machine

/-! ## The plan of an agent's word -/

theorem State.wordPlan_eq_raise_inFlight {t : State} (hf : t.m.inFlight t.cur ≠ none) :
    t.wordPlan = .quiet (t.raise { cause := 0x10 }) :=
  if_pos (Option.isSome_iff_ne_none.mpr hf)

theorem State.wordPlan_eq_raise_illegal {t : State} (hf : t.m.inFlight t.cur = none)
    (hd : t.seq.decodeAt t.cur.strm = none) : t.wordPlan = .quiet (t.raise { cause := 0x01 }) := by
  unfold State.wordPlan
  rw [hf, hd]
  exact if_neg Bool.false_ne_true

/-! ## Whose word a step is about -/

/-- While an ec is being issued, the plan is about the word of its next stream. -/
theorem State.plan_of_issue {s : State} {i : Issue} {a : Agent} {rest : List Agent} (hi : s.iss = some i)
    (hs : i.slots = a :: rest) :
    s.plan = State.wordPlan { s with cur := a, iss := some { i with slots := rest } } := by
  simp only [State.plan, hi, hs]

/-- Between ec, when no command of the physical function, no early event and no gang comes first, it is a Loupe core's turn. -/
theorem State.plan_of_ltodo {s : State} {d i : Nat} {rest : List (Nat × Nat)} (hi : s.iss = none)
    (hp : s.m.polls.find? (fun p => decide (p.1 ≤ s.m.time) && p.2 == .phys) = none)
    (ha : s.m.agenda.find? (fun d => early d.ev && s.m.isDue d) = none) (ht : s.m.todo = [])
    (hl : s.m.ltodo = (d, i) :: rest) : s.plan = s.loupePlan d i rest := by
  simp only [State.plan, hi, State.idlePlan, hp, ha, ht, hl]

/-- On its turn a Loupe core runs the word of the context it serves, unless that context idles (R85, R94). -/
theorem State.loupePlan_of_serves {s : State} {m : Mach} {d i c : Nat} {rest : List (Nat × Nat)}
    (hm : (List.range (((s.m.loupe? d i).map (fun l => l.ctxs.length)).getD 0)).foldl (fun m c => m.reachCtx d i c)
      { s.m.fresh with ltodo := rest } = m)
    (hc : m.serves d i = some c) (hb : m.idleEc (.loupe d i c) = false) :
    s.loupePlan d i rest = State.wordPlan { s with m := m, cur := .loupe d i c } := by
  simp only [State.loupePlan, hm, hc, hb, Bool.false_eq_true, if_false]

/-! ## What the step comes to -/

theorem step_of_plan_quiet {s t : State} (hp : s.plan = .quiet t) : step s = .next t := by
  unfold step
  rw [hp]

/-- The word read is the one at the stream's PC, with its guard nibble in S (R31). -/
theorem Seq.decodeAt_of_getElem? {q : Seq} {st : Stream} {w : Code} (h : (vget q.code st.idx [])[(q.regs st).pc.toNat]? = some w) :
    q.decodeAt st = (decode st (if st.idx = 0 then q.guards.getD (q.regs st).pc.toNat 0 else 0) w).toOption := by
  simp only [Seq.decodeAt, List.getD_eq_getElem?_getD, h, Option.getD_some]

/-- Settles O1: the plan of the step is that of the word its agent stands at, which runs, is illegal, or is stopped in flight. -/
theorem stepRunsDecodedWord : Obligations.StepRunsDecodedWord := by
  unfold Obligations.StepRunsDecodedWord
  refine ⟨?issue, ?loupe, ?word⟩
  case issue =>
    intro s i a rest hi hs t
    have hp : s.plan = t.wordPlan := State.plan_of_issue hi hs
    refine ⟨fun hf ins hd => step_word hp hf hd, fun hf hd => ?_, fun hf => ?_⟩
    · exact step_of_plan_quiet (hp.trans (State.wordPlan_eq_raise_illegal hf hd))
    · exact step_of_plan_quiet (hp.trans (State.wordPlan_eq_raise_inFlight hf))
  case loupe =>
    intro s d i c rest ins n m t hi hq ha ht hl hc hb hf hd
    have hp : s.plan = t.wordPlan :=
      (State.plan_of_ltodo hi hq ha ht hl).trans (State.loupePlan_of_serves rfl hc hb)
    exact step_word hp hf hd
  case word =>
    rintro q st w l rfl hw
    exact Seq.decodeAt_of_getElem? hw

end Sys2Proof.Machine
end

section
/-! PROOFS. The registers of the running agent, as an update and the ec of its word leave them, and what a rotating name reaches (R21). -/
namespace Sys2Proof.Machine

/-! ## The running agent after an update of it -/

theorem getElem?_vupd_self {α : Type} {n : Nat} (v : Vector α n) (i : Nat) (f : α → α) : (vupd v i f)[i]? = v[i]?.map f := by
  unfold vupd
  split
  · next h => rw [h, Option.map_none]
  · next a h =>
    obtain ⟨hi, -⟩ := Vector.getElem?_eq_some_iff.mp h
    rw [h, Option.map_some, Vector.getElem?_setIfInBounds_self_of_lt hi]

theorem Mach.loupe?_updLoupe_self (m : Mach) (d i : Nat) (f : LoupeCore → LoupeCore) :
    (m.updLoupe d i f).loupe? d i = (m.loupe? d i).map f := by
  simp only [Mach.loupe?, Mach.updLoupe, Mach.updDie, getElem?_vupd_self]
  cases m.dies[d]? with
  | none => rfl
  | some x => exact getElem?_vupd_self _ _ _

@[simp] theorem Mach.ctx?_updCtx_self (m : Mach) (d i c : Nat) (f : LoupeCtx → LoupeCtx) :
    (m.updCtx d i c f).ctx? d i c = (m.ctx? d i c).map f := by
  simp only [Mach.ctx?, Mach.updCtx, Mach.loupe?_updLoupe_self]
  cases m.loupe? d i with
  | none => rfl
  | some x => simp

@[simp] theorem Mach.seq?_updSeq_self (m : Mach) (a : Agent) (f : Seq → Seq) : (m.updSeq a f).seq? a = (m.seq? a).map f := by
  cases a with
  | core g r st => simp [Mach.seq?, Mach.updSeq, Function.comp_def]
  | loupe d i c => simp [Mach.seq?, Mach.updSeq, Function.comp_def]

theorem Mach.hdr_updCore_self (m : Mach) (g r : Nat) (st : Stream) (f : Core → Core) :
    (m.updCore g r f).hdr (.core g r st) = m.hdr (.core g r st) := by
  simp only [Mach.hdr, Mach.jobOf, Mach.gang?_updCore_self, Option.bind_map]
  rfl

theorem Mach.hdr_updCtx_self (m : Mach) (d i c : Nat) {f : LoupeCtx → LoupeCtx} (hf : ∀ x, (f x).job = x.job := by intro; rfl) :
    (m.updCtx d i c f).hdr (.loupe d i c) = m.hdr (.loupe d i c) := by
  simp only [Mach.hdr, Mach.jobOf, Mach.ctx?_updCtx_self, Option.bind_map, Function.comp_def, hf]
  rfl

/-- The registers of an agent's streams change no declaration in force for it. -/
theorem Mach.hdr_updSeq_self (m : Mach) (a : Agent) (f : Seq → Seq) : (m.updSeq a f).hdr a = m.hdr a := by
  cases a with
  | core g r st => exact m.hdr_updCore_self g r st _
  | loupe d i c => exact m.hdr_updCtx_self d i c

theorem State.regs_updRegs {s : State} (ha : (s.m.seq? s.cur).isSome = true) (f : StreamRegs → StreamRegs) :
    (s.updRegs f).regs = f s.regs := by
  obtain ⟨q, hq⟩ := Option.isSome_iff_exists.mp ha
  simp [State.regs, State.seq, State.updRegs, State.updSeq, hq]

/-! ## The ec of a word -/

@[simp] theorem State.issued_cur (s : State) : s.issued.cur = s.cur := rfl

/-- A scalar side once the ec of a word of one of its streams is counted. -/
def Seq.countEc (q : Seq) (st : Stream) : Seq := q.updRegs st (fun r => { r with gcyc := r.gcyc + 1 })

theorem State.issued_core {s : State} {g r : Nat} {st : Stream} (hc : s.cur = .core g r st) :
    s.issued.m = (s.m.updSeq s.cur (·.countEc s.cur.strm)).fresh := by
  simp [State.issued, State.updRegs, State.updSeq, hc]
  rfl

theorem State.issued_loupe {s : State} {d i c : Nat} (hc : s.cur = .loupe d i c) :
    s.issued.m = ((s.m.updSeq s.cur (·.countEc s.cur.strm)).updCtx d i c (fun x => { x with nextSeq := x.nextSeq + 1 })).fresh := by
  simp [State.issued, State.updRegs, State.updSeq, hc]
  rfl

@[simp] theorem Mach.seq?_fresh (m : Mach) (a : Agent) : m.fresh.seq? a = m.seq? a := by cases a <;> rfl

@[simp] theorem Mach.hdr_fresh (m : Mach) (a : Agent) : m.fresh.hdr a = m.hdr a := by cases a <;> rfl

theorem State.seq?_issued (s : State) : s.issued.m.seq? s.cur = (s.m.seq? s.cur).map (·.countEc s.cur.strm) := by
  cases hc : s.cur with
  | core g r st => rw [State.issued_core hc, hc, Mach.seq?_fresh, Mach.seq?_updSeq_self]
  | loupe d i c =>
    rw [State.issued_loupe hc, hc, Mach.seq?_fresh, ← Mach.seq?_updSeq_self]
    simp [Mach.seq?, Function.comp_def]

theorem State.hdr_issued (s : State) : s.issued.hdr = s.hdr := by
  unfold State.hdr
  cases hc : s.cur with
  | core g r st => rw [State.issued_core hc, State.issued_cur, hc, Mach.hdr_fresh, Mach.hdr_updSeq_self]
  | loupe d i c =>
    rw [State.issued_loupe hc, State.issued_cur, hc, Mach.hdr_fresh, Mach.hdr_updCtx_self, Mach.hdr_updSeq_self]

theorem State.isSome_seq?_issued {s : State} (ha : (s.m.seq? s.cur).isSome = true) :
    (s.issued.m.seq? s.issued.cur).isSome = true := by
  rw [State.issued_cur, State.seq?_issued, Option.isSome_map, ha]

theorem State.regs_issued {s : State} (ha : (s.m.seq? s.cur).isSome = true) :
    s.issued.regs = { s.regs with gcyc := s.regs.gcyc + 1 } := by
  obtain ⟨q, hq⟩ := Option.isSome_iff_exists.mp ha
  simp only [State.regs, State.seq, State.issued_cur, State.seq?_issued, hq, Option.map_some, Option.getD_some]
  exact Seq.regs_updRegs_self _ _ _

/-! ## Rotating names (R21) -/

theorem physS_eq {rrb : BitVec 5} {k : Nat} (hk : 40 ≤ k) : (physS rrb k : Int) = 40 + ((k : Int) - 40 - rrb.toNat) % 16 := by
  have := rrb.isLt
  unfold physS
  rw [if_neg (by omega)]
  omega

theorem physV_eq {rrb : BitVec 5} {k : Nat} (hk : 32 ≤ k) : (physV rrb k : Int) = 32 + ((k : Int) - 32 - rrb.toNat) % 32 := by
  have := rrb.isLt
  unfold physV
  rw [if_neg (by omega)]
  omega

theorem physS_succ {rrb : BitVec 5} {k : Nat} (hk : 40 ≤ k) : physS (rrb + 1) (k + 1) = physS rrb k := by
  have hrrb := BitVec.toNat_add rrb 1
  zify
  rw [physS_eq hk, physS_eq (by omega), hrrb]
  simp
  omega

theorem physS_40_inj (a b : BitVec 5) : physS a 40 = physS b 40 ↔ a.toNat % 16 = b.toNat % 16 := by
  zify
  rw [physS_eq le_rfl, physS_eq le_rfl]
  omega

theorem Core.vplace_rotating {c : Core} {k : Nat} (hk : 32 ≤ k) : c.vplace k = .reg (physV (c.seq.regs .v).rrb k) := by
  unfold Core.vplace
  split
  · exact if_neg (by omega)
  · rfl

/-- A back-edge of LOOP within the section is taken. -/
theorem execLoop_back {s : State} {g : BitVec 4} {n : Bool} {off : BitVec 18} (h : Passes s [] g n) (hlc : s.regs.lc ≠ 0)
    (h0 : 0 ≤ s.regs.pc.toNat + off.toInt) (h1 : s.regs.pc.toNat + off.toInt < vget s.hdr.csz s.cur.strm.idx 0) :
    execLoop g n off s = .next (s.issued.loopBack (BitVec.ofInt 14 (s.regs.pc.toNat + off.toInt)) true (s.regs.lc - 1) s.regs.es) := by
  have htarget : s.issued.target (s.issued.relative off) = .ok (BitVec.ofInt 14 (s.regs.pc.toNat + off.toInt)) := by
    simp [State.target, State.relative, State.regs_issued h.1, State.hdr_issued, h0, h1]
  refine State.jump_runs h ?_
  dsimp only
  rw [if_pos (by simpa [State.regs_issued h.1] using hlc), htarget, State.regs_issued h.1]
  rfl

/-- Settles O8: arithmetic modulo 16 and 32 on the names, and the back-edge of LOOP, which steps RRB. -/
theorem rotatingNames : Obligations.RotatingNames := by
  refine ⟨fun _ _ hk _ => physS_eq hk, fun _ _ hk _ => physV_eq hk, fun _ _ hk _ => physS_succ hk, physS_40_inj,
    fun s k hk => if_pos hk, fun c u k hk hk' => ?_, fun s g n off h hlc h0 h1 => ?_⟩
  · simp [Core.readV, hk', Core.vplace_rotating hk]
  · refine ⟨_, execLoop_back h hlc h0 h1, ?_⟩
    dsimp only
    rw [State.loopBack, State.regs_updRegs (State.isSome_seq?_issued h.1), State.regs_issued h.1]
    exact BitVec.toNat_add _ _

end Sys2Proof.Machine
end

section
/-! PROOFS. What reset and a job's start leave (R20, R383), and how results land: in which register, latch and flag, and which of two
stays (R23, R70, R72). -/
namespace Sys2Proof.Machine

/-! ## Reset and start values -/

theorem vget_replicate_default {α : Type} (n i : Nat) (a : α) : vget (Vector.replicate n a) i a = a := by
  unfold vget
  rw [Vector.getElem?_replicate]
  split <;> rfl

theorem Seq.phys_start (n : Nat) : ({} : Seq).phys n = 0 := ite_eq_left_iff.mpr fun _ => vget_replicate_default 56 n 0

theorem Seq.readP_start {n : Nat} (hn : n < 8) : ({} : Seq).readP n = (n == 0) := by
  interval_cases n <;> rfl

theorem Seq.regs_start (st : Stream) : ({} : Seq).regs st = {} := vget_replicate_default 4 st.idx ({} : StreamRegs)

theorem Core.mask_start {n : Nat} (hn : n < 8) : ({} : Core).mask n = BitVec.allOnes 256 := by
  simp [Core.mask, vget, hn]

/-- Settles O7: the package after reset and a core at job start hold what their definitions give each field. -/
theorem resetAndStartValues : Obligations.ResetAndStartValues := by
  refine ⟨rfl, rfl, rfl, rfl, rfl, rfl, rfl, Seq.phys_start, fun _ => Seq.readP_start, fun st => ?_,
    fun n => vget_replicate_default 64 n 0, fun _ => Core.mask_start, fun n => vget_replicate_default 4 n 0,
    rfl, rfl, rfl, rfl, rfl, rfl, rfl, rfl, by decide, by decide⟩
  rw [Seq.regs_start]
  exact ⟨rfl, rfl, rfl, rfl, rfl, rfl⟩

/-! ## Results landing -/

theorem Core.land_seq (c : Core) (p : Pend) : (c.land p).seq = (p.writes.foldl Core.write c).seq.setLatch p.latchS := by
  unfold Core.land
  extract_lets
  split
  · rfl
  · split <;> rfl

theorem Core.land_of_no_latchV {c : Core} {p : Pend} (h : p.latchV = none) : c.land p =
    { p.writes.foldl Core.write c with
      seq := (p.writes.foldl Core.write c).seq.setLatch p.latchS, flg := (p.writes.foldl Core.write c).flg ||| p.flags } := by
  unfold Core.land
  rw [h]

/-- A write of a latch changes the latches alone. -/
theorem Seq.setLatch_eq (q : Seq) (l : Option (Nat × Nat × Word)) : q.setLatch l = { q with latch := (q.setLatch l).latch } := by
  unfold Seq.setLatch
  split
  · rfl
  · split <;> rfl

@[simp] theorem Seq.setLatch_phys (q : Seq) (l : Option (Nat × Nat × Word)) (n : Nat) : (q.setLatch l).phys n = q.phys n := by
  rw [Seq.setLatch_eq]
  rfl

@[simp] theorem Seq.setLatch_preg (q : Seq) (l : Option (Nat × Nat × Word)) : (q.setLatch l).preg = q.preg := by
  rw [Seq.setLatch_eq]

@[simp] theorem Seq.setLatch_strm (q : Seq) (l : Option (Nat × Nat × Word)) : (q.setLatch l).strm = q.strm := by
  rw [Seq.setLatch_eq]

theorem Seq.latch_setLatch_self (q : Seq) {k : Nat} (ser : Nat) (u : Word) (hk : k < 8) :
    vget (q.setLatch (some (k, ser, u))).latch k none = if (q.regs .s).gser = ser then some u else vget q.latch k none := by
  unfold Seq.setLatch
  dsimp only
  split
  · exact vget_vset_self _ _ _ _ hk
  · rfl

theorem Seq.latch_setLatch_ne (q : Seq) {k i : Nat} (ser : Nat) (u : Word) (hi : i ≠ k) :
    vget (q.setLatch (some (k, ser, u))).latch i none = vget q.latch i none := by
  unfold Seq.setLatch
  dsimp only
  split
  · exact vget_vset_ne _ _ _ _ _ hi
  · rfl

@[simp] theorem Seq.setS_regs (q : Seq) (n : Nat) (v : Word) (st : Stream) : (q.setS n v).regs st = q.regs st := by
  simp [Seq.regs]

theorem Seq.readP_setP_self (q : Seq) {j : Nat} (t : Bool) (hj : j < 8) (h0 : j ≠ 0) : (q.setP j t).readP j = t := by
  cases t <;> simp [Seq.setP, Seq.readP, h0, hj]

theorem Seq.readP_setP_ne (q : Seq) {j i : Nat} (t : Bool) (hi : i < 8) (hne : i ≠ j) : (q.setP j t).readP i = q.readP i := by
  unfold Seq.setP
  split
  · rfl
  · rcases Nat.lt_or_gt_of_ne hne with hlt | hgt
    · cases t <;> simp [Seq.readP, hi, hlt]
    · have hsub : i - j ≠ 0 := Nat.sub_ne_zero_of_lt hgt
      cases t <;> simp [Seq.readP, hi, hsub]

/-- Settles O14: the landing of a scalar result is one write of the scalar side, one of its latch, and one of FLG. -/
theorem resultsLand : Obligations.ResultsLand := by
  intro c p n v k ser u hn hk hw hs hv
  have hland : c.land p = { c with seq := (c.seq.setS n v).setLatch (some (k, ser, u)), flg := c.flg ||| p.flags } := by
    rw [Core.land_of_no_latchV hv, hw, hs]
    rfl
  rw [hland]
  refine ⟨fun h0 => ?_, rfl, fun i hi => ?_, ?_, ?_, fun i hi => ?_, rfl, ?_, rfl, rfl, rfl, rfl, fun j t hj => ⟨rfl, ?_, ?_⟩⟩
  · simp [Seq.phys_setS_self _ _ _ h0 hn]
  · simp [Seq.phys_setS_ne _ _ _ _ hi]
  · simp
  · simp [Seq.latch_setLatch_self _ _ _ hk]
  · simp [Seq.latch_setLatch_ne _ _ _ hi]
  · simp
  · exact Seq.readP_setP_self _ t hj
  · exact fun i hi hne => Seq.readP_setP_ne _ t hi hne

/-! ## Which of two results stays (R23) -/

theorem sortBy_pair {α : Type} (lt : α → α → Bool) (a b : α) : sortBy lt [a, b] = if lt b a then [b, a] else [a, b] := rfl

/-- Two results due together land in the order S, V, M, T, and within a stream by age. -/
theorem landOrder_pair {p q : Pend} (hd : p.due = q.due)
    (h : p.strm.idx < q.strm.idx ∨ (p.strm.idx = q.strm.idx ∧ p.seq < q.seq)) :
    landOrder [p, q] = [p, q] ∧ landOrder [q, p] = [p, q] := by
  simp only [landOrder, sortBy_pair, hd, lt_irrefl, decide_false, Bool.false_or, beq_self_eq_true, Bool.true_and, Bool.or_eq_true,
    Bool.and_eq_true, decide_eq_true_eq, beq_iff_eq]
  exact ⟨if_neg (by omega), if_pos h⟩

theorem Core.phys_land_scalar {c : Core} {p : Pend} {n : Nat} {v : Word} (h0 : n ≠ 0) (hn : n < 56) (hw : p.writes = [.s n v]) :
    (c.land p).seq.phys n = v := by
  rw [Core.land_seq, hw, Seq.setLatch_phys]
  exact Seq.phys_setS_self _ _ _ h0 hn

/-- Settles O15: the two land in one order, whichever came first, and the one that lands last stays. -/
theorem laterResultStays : Obligations.LaterResultStays := by
  intro c p q n v u h0 hn hd hp hq h
  obtain ⟨hpq, hqp⟩ := landOrder_pair hd h
  have hu : ([p, q].foldl Core.land c).seq.phys n = u := Core.phys_land_scalar h0.ne' hn hq
  rw [hpq, hqp]
  exact ⟨hu, hu⟩

end Sys2Proof.Machine
end

section
/-! PROOFS. What a word meets before its guard counts: names that are not declared, privilege (R31), the end of the section (R13).
Where a scratchpad pointer leads (R19, R112, R156). -/
namespace Sys2Proof.Machine

/-! ## Words refused -/

section
variable {s : State} {decls : List Decl} {on : Bool} {body : State → Except Stop State}

theorem find?_failing_append_of_all {h : Header} {rrb : BitVec 5} {l ds : List Decl} {d : Decl} (hl : l.all (fun d => d.ok h rrb) = true)
    (hd : d.ok h rrb = false) : (l ++ d :: ds).find? (fun d => !d.ok h rrb) = some d := by
  rw [List.find?_append, find?_not_of_all hl]
  simp [hd]

/-- A word whose declarations hold up to one that fails raises the cause of that one, whatever its guard. -/
theorem State.word_refused_first {l ds : List Decl} {d : Decl} (ha : (s.m.seq? s.cur).isSome = true)
    (hl : l.all (fun d => d.ok s.hdr s.regs.rrb) = true) (hd : d.ok s.hdr s.regs.rrb = false) :
    s.word (l ++ d :: ds) on body = .next (s.raise { cause := d.cause }) :=
  State.word_refused ha (find?_failing_append_of_all hl hd)

theorem State.word_refused_head {ds : List Decl} {d : Decl} (ha : (s.m.seq? s.cur).isSome = true)
    (hd : d.ok s.hdr s.regs.rrb = false) : s.word (d :: ds) on body = .next (s.raise { cause := d.cause }) :=
  State.word_refused_first (l := []) ha rfl hd

theorem State.jump_refused_head {ds : List Decl} {d : Decl} (ha : (s.m.seq? s.cur).isSome = true)
    (hd : d.ok s.hdr s.regs.rrb = false) : s.jump (d :: ds) on body = .next (s.raise { cause := d.cause }) := by
  obtain ⟨q, hq⟩ := Option.isSome_iff_exists.mp ha
  simp [State.jump, hq, hd]

/-- A word that would take effect, past which the section ends (R13). -/
theorem State.word_falls_off {t : State} (ha : (s.m.seq? s.cur).isSome = true) (hd : decls.all (fun d => d.ok s.hdr s.regs.rrb) = true)
    (hb : body s = .ok t) (hf : s.falls = false) : s.word decls true body = .next (s.raise { cause := 0x02 }) := by
  obtain ⟨q, hq⟩ := Option.isSome_iff_exists.mp ha
  simp [State.word, hq, find?_not_of_all hd, hb, State.fall, hf]

end

section
variable {h : Header} (rrb : BitVec 5) {n : Nat}

theorem Need.bar_not_ok (hn : h.nbar ≤ n) : Need.ok h rrb (.bar n) = false := decide_eq_false (Nat.not_lt.mpr hn)
theorem Need.grp_not_ok (hn : h.ngrp ≤ n) : Need.ok h rrb (.grp n) = false := decide_eq_false (Nat.not_lt.mpr hn)
theorem Need.slot_not_ok (hn : h.nosl ≤ n) : Need.ok h rrb (.slot n) = false := decide_eq_false (Nat.not_lt.mpr hn)

end

theorem sysDecl_of_privileged {reg : BitVec 12} (h : 0x800 ≤ reg.toNat) : sysDecl reg = [.priv] := if_pos h

/-- HALT of a job that is not privileged faults, and stops no other gang of its job. -/
theorem execHalt_unprivileged {s : State} {g : BitVec 4} {n : Bool} (ha : (s.m.seq? s.cur).isSome = true) (hp : s.hdr.priv = false) :
    execHalt g n s = .next (s.raise { cause := 0x12 }) := by
  unfold execHalt
  split
  · exact State.word_refused_head ha hp
  · rw [State.word_refused_head ha (d := .priv) hp]
    simp [hp, Decl.cause]

/-- Settles O17: the declaration that fails is the first of its word's to fail, and HALT faults before it stops anything. -/
theorem undeclaredAndPrivilegedWords : Obligations.UndeclaredAndPrivilegedWords := by
  intro s d a va vb vd bid grp sl reg x g n ha
  simp only [exec_addi, exec_vadd, exec_barWait, exec_rdvFin, exec_mclm, exec_mfsr, exec_mtsr, exec_tlbi, exec_halt, exec_waitc]
  refine ⟨fun h => ?_, fun h => ?_, fun h => ?_, fun h => ?_, fun h => ?_, fun hp hs => ⟨fun hr => ?_, ?_, ?_⟩, fun hf hg => ?_⟩
  · unfold execAddi si1
    exact State.word_refused_head (d := .name (.s _)) ha h
  · have htyped : [s.typed g true].all (fun d => d.ok s.hdr s.regs.rrb) = true := by simp [State.typed, Decl.ok]
    unfold execVadd vr2
    exact State.word_refused_first (d := .name (.v _)) ha htyped h
  · exact State.word_refused_head (d := .name (.bar _)) ha (Need.bar_not_ok s.regs.rrb h)
  · exact State.jump_refused_head (d := .name (.grp _)) ha (Need.grp_not_ok s.regs.rrb h)
  · exact State.word_refused_head (d := .name (.slot _)) ha (Need.slot_not_ok s.regs.rrb h)
  · simp only [execMfsr, execMtsr, sysDecl_of_privileged hr]
    exact ⟨State.word_refused_first (d := .priv) ha hs hp, State.word_refused_first (d := .priv) ha hs hp⟩
  · exact State.word_refused_first (ds := []) (d := .priv) ha hs hp
  · exact execHalt_unprivileged ha hp
  · simp only [execWaitc, hg]
    exact State.word_falls_off ha rfl rfl hf

/-! ## Scratchpad places -/

/-- Of the checks of R19 a scratchpad pointer of S can fail those of its rank and its range alone. -/
theorem checkUse_scratchpad {m : Mach} {a : Agent} {p : Word} {o : Int} {size : Nat} (hp : ptrSpace p = 1) :
    checkUse m a .s p o size = need (decide (ptrRank p < m.gangSize a ∧ 0 ≤ o ∧ o + size ≤ 2 ^ 21)) 0x03 p := by
  have hoff : offLimit 1 = 2 ^ 21 := rfl
  by_cases hr : ptrRank p < m.gangSize a
  · simp [checkUse, hp, spaceOk, hr, hoff]
    rfl
  · simp [checkUse, hp, spaceOk, hr]
    rfl

/-- The tests of a scratchpad pointer in their order, and the place it then names. -/
theorem State.reach_scratchpad {s : State} {k r : Nat} {p : Word} {o : Int} {size : Nat} {kind : AccKind} {st : Stream}
    (hc : s.cur = .core k r st) (hp : ptrSpace p = 1) : s.reach .s s.tlb p o size size kind = (do
      need (decide (ptrRank p < s.m.gangSize s.cur ∧ 0 ≤ o ∧ o + size ≤ 2 ^ 21)) 0x03 p
      need (o.toNat % size == 0) 0x06 p
      need (!beyond s.hdr o.toNat size) 0x02 p
      pure { loc := .scr k (ptrRank p) o.toNat, lat := if ptrRank p = r then 4 else 28, m := s.m }) := by
  unfold State.reach
  dsimp only
  rw [checkUse_scratchpad hp, hp, hc]
  simp only [Mach.place, beq_iff_eq, @eq_comm _ r]

/-- Settles O20: the three tests of a scratchpad pointer in their order: range, alignment, declared limit. -/
theorem scratchpadPlaces : Obligations.ScratchpadPlaces := by
  intro s k r p o size kind hc hp hsize
  rw [State.reach_scratchpad hc hp]
  refine ⟨fun hin => ?_, fun hout => ?_⟩
  · have halign : (o.toNat % size == 0) = decide (o % size = 0) := by
      obtain ⟨n, rfl⟩ := Int.eq_ofNat_of_zero_le hin.2.1
      rw [Int.toNat_natCast, beq_eq_decide]
      norm_cast
    simp only [hin, halign, and_self, decide_true]
    refine ⟨fun ⟨ha, hb⟩ => ?_, fun ha => ?_, fun ⟨ha, hb⟩ => ?_⟩
    · simp [ha, hb]
      rfl
    · simp [ha]
      rfl
    · simp [ha, hb]
      rfl
  · simp only [hout, decide_false]
    rfl

end Sys2Proof.Machine
end

section
/-! PROOFS. What a word that only gives results changes: its own core gains a result on its way, and its stream's registers go on. -/
namespace Sys2Proof.Machine

/-! ## Updates that change nothing -/

theorem tset_of_tget {α : Type} {t : Tab α} {k : Nat} {a : α} (h : tget t k = some a) : tset t k a = t := by
  induction t with
  | nil => cases h
  | cons p r ih =>
    obtain ⟨j, b⟩ := p
    by_cases hj : j = k <;> simp_all [tget, tset]

theorem tupd_id {α : Type} (t : Tab α) (k : Nat) : tupd t k (fun a => a) = t := by
  unfold tupd
  split
  · rfl
  · next h => exact tset_of_tget h

theorem vupd_id {α : Type} {n : Nat} (v : Vector α n) (i : Nat) : vupd v i (fun a => a) = v := by
  unfold vupd
  split
  · rfl
  · next a h =>
    obtain ⟨hi, rfl⟩ := Vector.getElem?_eq_some_iff.mp h
    ext j hj
    rw [Vector.getElem_setIfInBounds]
    split
    · next hij => simp only [hij]
    · rfl

theorem Mach.updCore_id (m : Mach) (g r : Nat) : m.updCore g r (fun c => c) = m := by
  have hgang : (fun x : Gang => x.updCore r (fun c => c)) = fun x => x := by
    funext x
    exact congrArg (fun l => { x with cores := l }) (List.modify_id r x.cores)
  rw [Mach.updCore, hgang, Mach.updGang, tupd_id]

/-! ## What a core gains -/

/-- The package, free values drawn up to the k-th (log entry 2). -/
def Mach.drawn (m : Mach) (k : Nat) : Mach := { m with freeCtr := k }

theorem Mach.updCore_drawn (m : Mach) (k g r : Nat) (f : Core → Core) : (m.drawn k).updCore g r f = (m.updCore g r f).drawn k := rfl

/-- A core with results more on their way and the registers of one of its streams changed. -/
def Core.gain (c : Core) (st : Stream) (new : List Pend) (f : StreamRegs → StreamRegs) : Core :=
  { c with seq := { c.seq.updRegs st f with pend := c.seq.pend ++ new } }

theorem Core.gain_nothing (c : Core) (st : Stream) : c.gain st [] (fun r => r) = c := by
  simp [Core.gain, Seq.updRegs, vupd_id]

theorem Core.gain_regs (c : Core) (st : Stream) (f : StreamRegs → StreamRegs) : c.gain st [] f = { c with seq := c.seq.updRegs st f } := by
  simp [Core.gain, Seq.updRegs]

theorem Core.gain_result (c : Core) (st : Stream) (p : Pend) :
    c.gain st [p] (fun r => r) = { c with seq := { c.seq with pend := c.seq.pend ++ [p] } } := by
  simp [Core.gain, Seq.updRegs, vupd_id]

theorem Core.gain_gain (c : Core) (st : Stream) (new more : List Pend) (f h : StreamRegs → StreamRegs) :
    (c.gain st new f).gain st more h = c.gain st (new ++ more) (fun r => h (f r)) := by
  simp [Core.gain, Seq.updRegs, vupd_vupd]

/-- From `s` on, a word of a core's stream has given at most `n` results: all else of the package stands, but the registers of
the stream and the numbers drawn. -/
structure Gains (g r : Nat) (st : Stream) (n : Nat) (s t : State) : Prop where
  cur : t.cur = .core g r st
  pkg : ∃ new f k, new.length ≤ n ∧ t.m = (s.m.updCore g r (fun c => c.gain st new f)).drawn k

section
variable {g r : Nat} {st : Stream} {n : Nat} {s t u : State}

theorem Gains.refl (hc : s.cur = .core g r st) : Gains g r st 0 s s :=
  ⟨hc, [], fun r => r, s.m.freeCtr, le_rfl, by simp only [Core.gain_nothing, Mach.updCore_id]; rfl⟩

theorem Gains.trans {k : Nat} (h : Gains g r st n s t) (h' : Gains g r st k t u) : Gains g r st (n + k) s u := by
  obtain ⟨-, new, f, c, hn, hm⟩ := h
  obtain ⟨hc, more, f', c', hk, hm'⟩ := h'
  refine ⟨hc, new ++ more, fun r => f' (f r), c', List.length_append ▸ Nat.add_le_add hn hk, ?_⟩
  rw [hm', hm, Mach.updCore_drawn, Mach.updCore_updCore]
  simp only [Core.gain_gain]
  rfl

/-- What changes the ec being issued alone. -/
theorem Gains.updIss (h : Gains g r st n s t) (f : Issue → Issue) : Gains g r st n s (t.updIss f) := ⟨h.cur, h.pkg⟩

theorem Gains.updRegs (h : Gains g r st n s t) (f : StreamRegs → StreamRegs) : Gains g r st n s (t.updRegs f) := by
  have hregs : Gains g r st 0 t (t.updRegs f) := by
    refine ⟨h.cur, [], f, t.m.freeCtr, le_rfl, ?_⟩
    simp only [State.updRegs, State.updSeq, h.cur, Mach.updSeq, Core.gain_regs]
    rfl
  exact h.trans hregs

theorem Gains.fresh (h : Gains g r st n s t) {u : State} (hc : u.cur = t.cur) (hm : u.m = t.m.fresh) : Gains g r st n s u := by
  obtain ⟨hcur, new, f, k, hn, hm'⟩ := h
  exact ⟨hc.trans hcur, new, f, k + 1, hn, by rw [hm, hm']; rfl⟩

theorem Gains.issued (h : Gains g r st n s t) : Gains g r st n s t.issued :=
  (h.updRegs fun r => { r with gcyc := r.gcyc + 1 }).fresh rfl (State.issued_core h.cur)

theorem Gains.advance (h : Gains g r st n s t) : Gains g r st n s t.advance := h.issued.updRegs _

theorem Gains.emit {lat : Nat} {p : Pend} (h : Gains g r st 0 s t) : Gains g r st 1 s (t.emit lat p) := by
  have hres : Gains g r st 1 t (t.emit lat p) := by
    simp only [State.emit, h.cur]
    refine ⟨rfl, [{ p with due := t.ec + lat, strm := st, seq := t.ec, pc := t.regs.pc }], fun r => r, t.m.freeCtr, le_rfl, ?_⟩
    simp only [Core.gain_result]
    rfl
  simpa using h.trans hres

/-! ## What a word gives -/

theorem Gains.mono {k : Nat} (h : Gains g r st n s t) (hk : n ≤ k) : Gains g r st k s t := by
  obtain ⟨hc, new, f, c, hn, hm⟩ := h
  exact ⟨hc, new, f, c, hn.trans hk, hm⟩

theorem Gains.raise {e : Exc} (h : Gains g r st n s t) (he : e.walked = false) : Gains g r st n s (t.raise e) := by
  simp only [State.raise, he, Bool.false_eq_true, if_false, h.cur]
  exact h.updIss _

theorem Gains.view {code : Nat} (h : Gains g r st n s t) : Gains g r st n s (t.view code) := by
  unfold State.view
  split
  · exact h
  · exact h.updIss _

theorem Gains.resS {lat : Nat} {d : BitVec 6} {w : Bool} {v : Word} {f : Flags} (h : Gains g r st 0 s t) :
    Gains g r st 1 s (t.resS lat d w v f) := h.emit

theorem Gains.resP {lat d : Nat} {v : Bool} (h : Gains g r st 0 s t) : Gains g r st 1 s (t.resP lat d v) := h.emit

theorem Gains.resV {lat : Nat} {d : BitVec 6} {w : Bool} {wr : Mask} {v : Row} {f : Flags} (h : Gains g r st 0 s t) :
    Gains g r st 1 s (t.resV lat d w wr v f) := .emit (ite_keeps (P := Gains g r st 0 s) h h.view)

theorem Gains.resLanes {lat : Nat} {d : BitVec 6} {x w : Bool} {l : List Lane} (h : Gains g r st 0 s t) :
    Gains g r st 1 s (t.resLanes lat d x w l) := h.resV

theorem Gains.resM {lat : Nat} {mk : BitVec 3} {x : Bool} {k : Mask} (h : Gains g r st 0 s t) :
    Gains g r st 1 s (t.resM lat mk x k) := h.emit

/-- A computation that comes to a value of which P holds, or to a fault met before any walk (R367). -/
def Yields {α : Type} (P : α → Prop) : Except Stop α → Prop
  | .ok a => P a
  | .error (.fault e) => e.walked = false
  | .error (.hold _) => False

theorem Yields.need {ok : Bool} {c : BitVec 8} {a : Word} : Yields (fun _ => True) (need ok c a) := by
  cases ok
  · rfl
  · trivial

theorem Yields.bind {α β : Type} {P : α → Prop} {Q : β → Prop} {x : Except Stop α} {f : α → Except Stop β} (hx : Yields P x)
    (hf : ∀ a, P a → Yields Q (f a)) : Yields Q (x >>= f) := by
  cases x with
  | error e => cases e <;> exact hx
  | ok a => exact hf a hx

theorem Yields.checkMade {space rank base : Nat} {add : Int} : Yields (fun _ => True) (checkMade s space rank base add) :=
  .bind .need fun _ _ => .bind .need fun _ _ => .bind .need fun _ _ => .bind .need fun _ _ => trivial

/-- A core that gains at most one result is one that a word only gives results to. -/
theorem Gains.onlyResults (h : Gains g r st 1 s t) (hc : s.cur = .core g r st) (ha : (s.m.core? g r).isSome = true) :
    OnlyResults s t g r st := by
  obtain ⟨hcur, new, f, k, hn, hm⟩ := h
  obtain ⟨c, hcore⟩ := Option.isSome_iff_exists.mp ha
  refine ⟨hcur.trans hc.symm, by rw [hm]; rfl, fun h => ?gang, fun h k hne => ?other, c, new, vupd c.seq.strm st.idx f, hcore, hn, ?own,
    fun j _ hj => vget_vupd_ne _ _ _ _ _ hj⟩
  case gang =>
    rw [hm]
    by_cases hg : h = g
    · subst hg
      refine (congrArg _ (Mach.gang?_updCore_self s.m h r _)).trans ?_
      rw [Option.map_map]
      rfl
    · exact congrArg _ (Mach.gang?_updGang_ne s.m g h _ hg)
  case other =>
    rw [hm]
    exact s.m.core?_updCore_ne _ hne
  case own =>
    rw [hm]
    refine (Mach.core?_updCore_self s.m g r _).trans ?_
    rw [hcore]
    rfl

/-- What a step may come to when a word only gives results. -/
def Gives (g r : Nat) (st : Stream) (s : State) (o : Host.Outcome State Fault Refusal) : Prop :=
  ∀ t, o = .next t → OnlyResults s t g r st

/-- A word whose body gives at most one result, or meets a fault, changes nothing else. -/
theorem Gains.word {decls : List Decl} {on : Bool} {body : State → Except Stop State} (h : Gains g r st 0 s s)
    (hb : Yields (Gains g r st 1 s) (body s)) : Gives g r st s (s.word decls on body) := by
  intro t ht
  have ha : (s.m.core? g r).isSome = true := by
    by_contra hn
    have hseq : s.m.seq? s.cur = none := by
      rw [h.cur]
      simpa [Mach.seq?] using hn
    simp [State.word, hseq] at ht
  have hs : Gains g r st 1 s s := h.mono (Nat.zero_le 1)
  refine Gains.onlyResults ?_ h.cur ha
  have hfall : ∀ u, Gains g r st 1 s u → Gains g r st 1 s (s.fall u) := fun u hu =>
    ite_keeps (P := Gains g r st 1 s) hu.advance (hs.raise rfl)
  obtain ⟨d, -, -, rfl⟩ | ⟨-, rfl⟩ | ⟨-, e, he, rfl⟩ | ⟨-, u, hu, rfl⟩ := State.word_cases ht
  · exact hs.raise rfl
  · exact hfall s hs
  · rw [he] at hb
    cases e with
    | fault x => exact hs.raise hb
    | hold k => exact hb.elim
  · rw [hu] at hb
    exact hfall u hb

/-! ## Every word that only gives results -/

theorem Gains.sr2 {lat : Nat} {f : Word → Word → Word} {d a b : BitVec 6} {w : Bool} {gd : BitVec 4} (h : Gains g r st 0 s s) :
    Gives g r st s (sr2 lat f d a b w gd s) := h.word h.resS

theorem Gains.sr1 {lat : Nat} {f : Word → Word} {d a : BitVec 6} {w : Bool} {gd : BitVec 4} (h : Gains g r st 0 s s) :
    Gives g r st s (sr1 lat f d a w gd s) := h.word h.resS

theorem Gains.si1 {f : Word → Word} {d a : BitVec 6} {gd : BitVec 4} (h : Gains g r st 0 s s) :
    Gives g r st s (si1 f d a gd s) := h.word h.resS

theorem Gains.pp2 {f : Bool → Bool → Bool} {d a b : BitVec 6} {gd : BitVec 4} (h : Gains g r st 0 s s) :
    Gives g r st s (pp2 f d a b gd s) := h.word h.resP

theorem Gains.sf2 {lat : Nat} {f : BitVec 32 → BitVec 32 → BitVec 32 × Flags} {d a b : BitVec 6} {w : Bool} {gd : BitVec 4}
    (h : Gains g r st 0 s s) : Gives g r st s (sf2 lat f d a b w gd s) := h.word h.resS

theorem Gains.cvt1 {f : Word → Word × Flags} {d a : BitVec 6} {w : Bool} {gd : BitVec 4} (h : Gains g r st 0 s s) :
    Gives g r st s (cvt1 f d a w gd s) := h.word h.resS

theorem Gains.fcmp {f : Int → Bool} {d a b : BitVec 6} {gd : BitVec 4} (h : Gains g r st 0 s s) :
    Gives g r st s (fcmp f d a b gd s) := h.word h.resP

theorem Gains.vr1 {lat : Nat} {ok : Nat → Bool} {f : Shape → Nat → Lane} {d : BitVec 6} {a : BitVec 7} {x w : Bool} {gd : BitVec 4}
    (h : Gains g r st 0 s s) : Gives g r st s (vr1 lat ok f d a x w gd s) := h.word h.view.resLanes

theorem Gains.vr2 {lat : Shape → Nat} {ok : Nat → Bool} {f : Shape → Nat → Nat → Lane} {d : BitVec 6} {a b : BitVec 7} {x w : Bool}
    {gd : BitVec 4} (h : Gains g r st 0 s s) : Gives g r st s (vr2 lat ok f d a b x w gd s) := h.word h.view.view.resLanes

theorem Gains.vr3 {lat : Shape → Nat} {f : Shape → Nat → Nat → Nat → Lane} {d : BitVec 6} {a b : BitVec 7} {x w : Bool} {gd : BitVec 4}
    (h : Gains g r st 0 s s) : Gives g r st s (vr3 lat f d a b x w gd s) := h.word h.view.view.view.resLanes

theorem Gains.bitwise {f : Nat → Nat → Nat → Nat} {d : BitVec 6} {a b : BitVec 7} {x w : Bool} {gd : BitVec 4}
    (h : Gains g r st 0 s s) : Gives g r st s (bitwise f d a b x w gd s) := h.vr2

theorem Gains.vmove {lat : Nat} {f : State → List Nat → List Nat} {d : BitVec 6} {a : BitVec 7} {x w : Bool} {gd : BitVec 4}
    (h : Gains g r st 0 s s) : Gives g r st s (vmove lat f d a x w gd s) := h.word h.view.resLanes

/-- A pointer word, which checks the pointer it makes. -/
theorem Gains.wordMade {decls : List Decl} {on w : Bool} {d : BitVec 6} {space rank base : State → Nat} {add : State → Int}
    (h : Gains g r st 0 s s) : Gives g r st s (s.word decls on fun s => do
      return s.resS 1 d w (← checkMade s (space s) (rank s) (base s) (add s))) :=
  h.word (.bind Yields.checkMade fun _ _ => h.resS)

theorem Gains.execVun {d : BitVec 6} {a fn : BitVec 7} {x w : Bool} {gd : BitVec 4} (h : Gains g r st 0 s s) :
    Gives g r st s (execVun d a fn x w gd s) := by
  unfold Machine.execVun
  exact h.vr1

theorem Gains.execVred {y : BitVec 2} {op : BitVec 4} {a : BitVec 7} {x : Bool} {gd : BitVec 4} (h : Gains g r st 0 s s) :
    Gives g r st s (execVred y op a x gd s) :=
  h.word (ite_keeps (P := Yields (Gains g r st 1 s)) h.emit h.view.emit)

theorem Gains.execVlrg {d : BitVec 6} {k : BitVec 3} {sl : Bool} {i : BitVec 6} {w : Bool} {gd : BitVec 4} (h : Gains g r st 0 s s) :
    Gives g r st s (execVlrg d k sl i w gd s) := h.word (h.updIss _).resV

theorem Gains.exec {i : Instr} (h : Gains g r st 0 s s) (hi : i.resultOnly = true) : Gives g r st s (exec i s) := by
  unfold Machine.exec
  cases i <;> dsimp only
  case add | sub | and | or | xor | andn | min | max | minn | maxn | shl | shr | sar | rotr | mul | mulh | mulhn | div | divn |
      rem | remn => exact h.sr2
  case clz | popc | ptrsp | ptrrk | ptrof => exact h.sr1
  case pand | por | pxor => exact h.pp2
  case fadd | fsub | fmul | fmin | fmax | fdiv => exact h.sf2
  case cvtif | cvtnf | cvtfi | cvtfiz => exact h.cvt1
  case fcmpLt | fcmpLe | fcmpEq => exact h.fcmp
  case addi | andi | ori | xori | shli | shri | sari => exact h.si1
  case cmp | pnot | cmpi => exact h.word h.resP
  case ptos | ffma | fsqrt | lim | lih | lscr | mfsr => exact h.word h.resS
  case stop => exact h.word h.emit
  case ptrmk | ptradd | ptri => exact h.wordMade
  case vun => exact h.execVun
  case vand | vor | vxor | vshl | vshr | vsar => exact h.bitwise
  case vadd | vsub | vmul | vmin | vmax => exact h.vr2
  case vfma | vfms | vfsl | vfsr => exact h.vr3
  case vcomp | vexpd | vslu | vsld => exact h.vmove
  case vhar | vihr => exact h.word h.view.resLanes
  case vcmp => exact h.word h.view.view.resM
  case vsel => exact h.word h.view.view.resV
  case vmsk => exact h.word h.resM
  case vbrd | viota => exact h.word h.resLanes
  case vmvs => exact h.word h.view.emit
  case vmsv | vmvy => exact h.word h.resV
  case vcvt => exact h.word h.view.resV
  case vthr => exact h.word h.view.resM
  case vred => exact h.execVred
  case vlrg => exact h.execVlrg
  all_goals exact absurd hi Bool.false_ne_true

end

/-- Settles O18: every such word runs a body that gives at most one result, or meets a fault before any walk. -/
theorem resultWordsFrame : Obligations.ResultWordsFrame :=
  fun _ _ t _ _ _ hi hc ht => (Gains.refl hc).exec hi t ht

end Sys2Proof.Machine
end

section
/-! PROOFS. The register events (R24, R99, R115, R359, R360, R374, R375, R433). -/
namespace Sys2Proof.Machine

/-! ## A virtual device after an update of it -/

theorem GoesTo.mono {o : Host.Outcome State Fault Refusal} {p q : State → Prop} (h : GoesTo o p) (hpq : ∀ t, p t → q t) : GoesTo o q :=
  let ⟨t, ht, hp⟩ := h
  ⟨t, ht, hpq t hp⟩

theorem Mach.vd_updVd {m : Mach} {v : Nat} (h : (m.vd? v).isSome = true) (f : VDev → VDev) : (m.updVd v f).vd v = f (m.vd v) := by
  obtain ⟨d, hd⟩ := Option.isSome_iff_exists.mp h
  simp [Mach.vd, hd]

theorem Mach.isSome_vd?_updVd (m : Mach) (v : Nat) (f : VDev → VDev) : ((m.updVd v f).vd? v).isSome = (m.vd? v).isSome := by
  simp

/-! ## The access counters of a virtual device (R373-R375) -/

@[simp] theorem Mach.devStore_vds (m : Mach) (pa : Nat) (data : List (Nat × Byte)) : (m.devStore pa data).vds = m.vds := rfl

@[simp] theorem Mach.physStore_vds (m : Mach) (vd pa : Nat) (data : List (Nat × Byte)) : (m.physStore vd pa data).vds = m.vds := by
  unfold Mach.physStore
  split
  · rfl
  · split <;> rfl

/-- A region's counter set is the device's own; the kernel's table is memory (log entry 81). -/
theorem Mach.setRegion_vds (m : Mach) (vd region : Nat) (r : Region) :
    (m.setRegion vd region r).vds = (m.updVd vd fun v => { v with regionCtr := tset v.regionCtr region r }).vds := by
  unfold Mach.setRegion
  extract_lets
  split <;> rfl

theorem Mach.vd?_of_vds {m k : Mach} (h : m.vds = k.vds) (v : Nat) : m.vd? v = k.vd? v := congrArg (tget · v) h

theorem Mach.vd_of_vds {m k : Mach} (h : m.vds = k.vds) (v : Nat) : m.vd v = k.vd v := congrArg (·.getD {}) (Mach.vd?_of_vds h v)

section
variable {m : Mach} {vd region : Nat} {r : Region}

theorem Mach.isSome_vd?_setRegion : ((m.setRegion vd region r).vd? vd).isSome = (m.vd? vd).isSome := by
  rw [Mach.vd?_of_vds (m.setRegion_vds vd region r), Mach.isSome_vd?_updVd]

theorem Mach.vd_setRegion (h : (m.vd? vd).isSome = true) :
    (m.setRegion vd region r).vd vd = { m.vd vd with regionCtr := tset (m.vd vd).regionCtr region r } := by
  rw [Mach.vd_of_vds (m.setRegion_vds vd region r), Mach.vd_updVd h]

/-- A notice moves NQTAIL and sets the region's pending bit, wherever NQBASE leads (R374; log entry 84). -/
theorem Mach.vd_queueNotice (h : (m.vd? vd).isSome = true) : (m.queueNotice vd region r).vd vd = { m.vd vd with
    nqtail := (m.vd vd).nqtail + 1
    regionCtr := tset (m.vd vd).regionCtr region { r with pending := true, deferred := false } } := by
  have hp := Mach.physStore_vds m vd ((m.vd vd).nqbase.toNat + 16 * (m.vd vd).nqtail.toNat) (offs (noticeBytes region r))
  unfold Mach.queueNotice
  extract_lets v m1
  have h1 : (m1.vd? vd).isSome = true := (Mach.vd?_of_vds hp vd).symm ▸ h
  have hv : m1.vd vd = m.vd vd := Mach.vd_of_vds hp vd
  rw [Mach.vd_setRegion (by rwa [Mach.isSome_vd?_updVd]), Mach.vd_updVd h1, hv]

theorem Mach.isSome_vd?_queueNotice : ((m.queueNotice vd region r).vd? vd).isSome = (m.vd? vd).isSome := by
  unfold Mach.queueNotice
  rw [Mach.isSome_vd?_setRegion, Mach.isSome_vd?_updVd, Mach.vd?_of_vds (Mach.physStore_vds ..)]

end

/-- Deferred regions moved into the ring leave its head where it was. -/
theorem Mach.nqhead_moveDeferred {m : Mach} {vd : Nat} (h : (m.vd? vd).isSome = true) :
    ((m.moveDeferred vd).vd vd).nqhead = (m.vd vd).nqhead := by
  unfold Mach.moveDeferred
  extract_lets l
  refine (foldl_keeps (P := fun k : Mach => (k.vd? vd).isSome = true ∧ (k.vd vd).nqhead = (m.vd vd).nqhead) ⟨h, rfl⟩ ?_).2
  rintro k p ⟨hk, hn⟩
  split
  · exact ⟨hk, hn⟩
  · rw [Mach.isSome_vd?_queueNotice, Mach.vd_queueNotice hk]
    exact ⟨hk, hn⟩

/-- A single deferred region moves into the ring unless it is full. -/
theorem Mach.moveDeferred_one {m : Mach} {vd x : Nat} {y : Region} (h : (m.vd vd).regionCtr = [(x, y)]) (hy : y.deferred = true)
    (hfull : (m.vd vd).nqFull = false) : m.moveDeferred vd = m.queueNotice vd x y := by
  have hl : (m.vd vd).regionCtr.filter (fun p => p.2.deferred) = [(x, y)] := by simp [h, hy]
  unfold Mach.moveDeferred
  rw [hl]
  exact if_neg (by simp [hfull])

theorem Mach.physStore_updVd (m : Mach) (v vd pa : Nat) (f : VDev → VDev) (data : List (Nat × Byte)) :
    (m.updVd v f).physStore vd pa data = (m.physStore vd pa data).updVd v f := by
  unfold Mach.physStore
  split
  · rfl
  · split <;> rfl

theorem Mach.setRegion_updVd_memories (m : Mach) (v vd region : Nat) (f : VDev → VDev) (r : Region) :
    ((m.updVd v f).setRegion vd region r).dev = (m.setRegion vd region r).dev ∧
    ((m.updVd v f).setRegion vd region r).host = (m.setRegion vd region r).host := by
  cases h : m.mgmt.mirror with
  | none => simp [Mach.setRegion, h]
  | some x => simp [Mach.setRegion, Mach.devStore, h]

/-- What a notice stores in device and in host memory: its entry at the ring's tail, and the region's counter in the kernel's table. -/
theorem Mach.queueNotice_memories (m : Mach) (vd region : Nat) (r : Region) :
    let u := (m.physStore vd ((m.vd vd).nqbase.toNat + 16 * (m.vd vd).nqtail.toNat) (offs (noticeBytes region r))).setRegion vd region
      { r with pending := true, deferred := false }
    (m.queueNotice vd region r).dev = u.dev ∧ (m.queueNotice vd region r).host = u.host :=
  Mach.setRegion_updVd_memories ..

/-- The same once the device's registers have changed, but for the place of the ring's tail. -/
theorem Mach.queueNotice_updVd_memories {m : Mach} {vd region : Nat} {r : Region} {f : VDev → VDev} (h : (m.vd? vd).isSome = true)
    (hb : (f (m.vd vd)).nqbase = (m.vd vd).nqbase := by rfl) (ht : (f (m.vd vd)).nqtail = (m.vd vd).nqtail := by rfl) :
    let u := (m.physStore vd ((m.vd vd).nqbase.toNat + 16 * (m.vd vd).nqtail.toNat) (offs (noticeBytes region r))).setRegion vd region
      { r with pending := true, deferred := false }
    ((m.updVd vd f).queueNotice vd region r).dev = u.dev ∧ ((m.updVd vd f).queueNotice vd region r).host = u.host := by
  intro u
  obtain ⟨hdev, hhost⟩ := (m.updVd vd f).queueNotice_memories vd region r
  rw [hdev, hhost, Mach.vd_updVd h, hb, ht, Mach.physStore_updVd]
  exact Mach.setRegion_updVd_memories ..

/-! ## The pattern table (R115) -/

theorem patOk_iff (p : Vector (BitVec 16) 16) : patOk p = true ↔
    ∀ j, j < 16 → vget p j 0 ≠ 0 ∧ (0 < j → patCount (vget p (j - 1) 0) ≤ patCount (vget p j 0)) := by
  simp only [patOk, List.all_eq_true, List.mem_range, Bool.and_eq_true, bne_iff_ne, Bool.or_eq_true, beq_iff_eq, decide_eq_true_eq]
  refine forall₂_congr fun j _ => and_congr_right fun _ => ?_
  rw [Nat.pos_iff_ne_zero, or_iff_not_imp_left]

theorem Mach.cluster?_updCluster_self (m : Mach) (d k : Nat) (f : Cluster → Cluster) :
    (m.updCluster d k f).cluster? d k = (m.cluster? d k).map f := by
  simp only [Mach.cluster?, Mach.updCluster, Mach.updDie, getElem?_vupd_self]
  cases m.dies[d]? with
  | none => rfl
  | some x => exact getElem?_vupd_self _ _ _

/-- A die's frames are counted by its clock, whatever its clusters hold (R116). -/
theorem Mach.frameTime_updCluster (m : Mach) (d k : Nat) (f : Cluster → Cluster) :
    (m.updCluster d k f).frameTime d ((m.updCluster d k f).frameNo d + 1) = m.frameTime d (m.frameNo d + 1) := by
  simp only [Mach.frameTime, Mach.frameNo, Mach.timeAt, Mach.dieCycles, Mach.updCluster, Mach.updDie, getElem?_vupd_self, Option.map_map,
    Function.comp_def, Die.timeOf, Die.cycles]

theorem Mach.wantFrame_dies (m : Mach) (d k : Nat) : (m.wantFrame d k).dies = m.dies := by
  unfold Mach.wantFrame
  extract_lets
  split <;> rfl

/-- The next frame of a cluster is awaited once it has been asked for. -/
theorem Mach.wantFrame_awaited (m : Mach) (d k : Nat) :
    (m.wantFrame d k).agenda.any (fun e => e.ev == .patternFrame d k && e.at_ == m.frameTime d (m.frameNo d + 1)) = true := by
  unfold Mach.wantFrame
  extract_lets at_
  split
  · assumption
  · simp [Mach.schedule, at_]

theorem execPatWrite_goesTo {s : State} {die cl : Nat} {k : BitVec 4} {v : Word} {c : Cluster} (hc : s.m.cluster? die cl = some c) :
    let p := vset c.patNew k.toNat (v.truncate 16)
    GoesTo (execPatWrite die cl k v s) (fun t => ∃ c', t.m.cluster? die cl = some c' ∧
      (patOk p = true → c' = { c with patNew := p }) ∧ (patOk p = false → c' = c) ∧
      t.m.agenda.any (fun e => e.ev == .patternFrame die cl && e.at_ == s.m.frameTime die (s.m.frameNo die + 1)) = true) := by
  intro p
  refine ⟨_, event_next (by simp [hc]), if patOk p then { c with patNew := p } else c, ?_, fun h => if_pos h,
    fun h => if_neg (by simp [h]), ?_⟩
  · refine (congrArg (fun d : Vector Die 4 => d[die]?.bind (fun x => x.clusters[cl]?)) (Mach.wantFrame_dies _ die cl)).trans ?_
    exact (Mach.cluster?_updCluster_self ..).trans (by rw [hc]; rfl)
  · rw [← s.m.frameTime_updCluster die cl]
    exact Mach.wantFrame_awaited ..

/-! ## The registers of a virtual device -/

section
variable {s : State} {vd : Nat} {v : Word}

theorem execNqheadWrite_goesTo (h : (s.m.vd? vd).isSome = true) :
    GoesTo (execNqheadWrite vd v s) (fun t => (t.m.vd vd).nqhead = v.truncate 8 ∧
      ∀ x y, (s.m.vd vd).regionCtr = [(x, y)] → y.deferred = true → (s.m.vd vd).nqtail + 1 ≠ v.truncate 8 →
        (t.m.vd vd).nqtail = (s.m.vd vd).nqtail + 1 ∧
        (t.m.vd vd).regionCtr = [(x, { y with pending := true, deferred := false })] ∧
        let u := (s.m.physStore vd ((s.m.vd vd).nqbase.toNat + 16 * (s.m.vd vd).nqtail.toNat) (offs (noticeBytes x y))).setRegion vd x
          { y with pending := true, deferred := false }
        t.m.dev = u.dev ∧ t.m.host = u.host) := by
  have hset := Mach.vd_updVd h (fun d => { d with nqhead := v.truncate 8 })
  have hthere : ((s.m.updVd vd fun d => { d with nqhead := v.truncate 8 }).vd? vd).isSome = true := by rwa [Mach.isSome_vd?_updVd]
  refine ⟨_, event_next h, (Mach.nqhead_moveDeferred hthere).trans (by rw [hset]), fun x y hone hdef hroom => ?_⟩
  have hmoved := Mach.moveDeferred_one (m := s.m.updVd vd fun d => { d with nqhead := v.truncate 8 }) (by rw [hset]; exact hone) hdef
    (by rw [hset]; simpa [VDev.nqFull] using hroom)
  dsimp only
  rw [hmoved, Mach.vd_queueNotice hthere, hset]
  refine ⟨rfl, ?_, Mach.queueNotice_updVd_memories h⟩
  rw [hone]
  simp [tset]

theorem execNackWrite_goesTo (h : (s.m.vd? vd).isSome = true) :
    GoesTo (execNackWrite vd v s) (fun t => tget (t.m.vd vd).regionCtr (ptrOff v / 2 ^ 21 * 2 ^ 21) = none) := by
  refine ⟨_, event_next h, ?_⟩
  dsimp only
  rw [Mach.vd_updVd (by rwa [Mach.isSome_vd?_setRegion])]
  exact tget_tdel_self _ _

/-- A virtual device once its register number n has been written (R359, R360, R374, R433). -/
def VDev.written (d : VDev) (n : Nat) (v : Word) : VDev :=
  if 0x810 ≤ n ∧ n < 0x818 then { d with xbase := vset d.xbase (n - 0x810) (v &&& 0x0000FFFFFFFFFF0F#64) }
  else if 0x818 ≤ n ∧ n < 0x820 then { d with xroot := vset d.xroot (n - 0x818) (v &&& 0xFFFFFFFFFFFFFF00#64) }
  else if n = 0x820 then { d with nqbase := v }
  else if n = 0x823 then { d with nthr := v.truncate 16 }
  else if n = 0x880 then { d with barsel := v &&& 0x3FF }
  else if n = 0x882 then { d with shsel := v }
  else d

theorem VDev.xbase_written (d : VDev) (v : Word) {j : Nat} (hj : j < 8) :
    vget (d.written (0x810 + j) v).xbase j 0 = v &&& 0x0000FFFFFFFFFF0F#64 := by
  rw [VDev.written, if_pos (by omega), Nat.add_sub_cancel_left]
  exact vget_vset_self _ _ _ _ hj

theorem VDev.xroot_written (d : VDev) (v : Word) {j : Nat} (hj : j < 8) :
    vget (d.written (0x818 + j) v).xroot j 0 = v &&& 0xFFFFFFFFFFFFFF00#64 := by
  rw [VDev.written, if_neg (by omega), if_pos (by omega), Nat.add_sub_cancel_left]
  exact vget_vset_self _ _ _ _ hj

/-- REGISTER_WRITE of any register but FLOOR is a write of the virtual device. -/
theorem execRegisterWrite_goesTo {reg : BitVec 12} {n : Nat} (h : (s.m.vd? vd).isSome = true) (hn : reg.toNat = n)
    (hfloor : n ≠ 0x825) : GoesTo (execRegisterWrite vd reg v s) (fun t => t.m.vd vd = (s.m.vd vd).written n v) := by
  refine ⟨_, (if_neg (hn ▸ hfloor)).trans (event_next h), ?_⟩
  dsimp only
  rw [hn, Mach.vd_updVd h]
  rfl

theorem execRegisterWrite_floor (h : (s.m.vd? vd).isSome = true) :
    GoesTo (execRegisterWrite vd 0x825 v s) (fun t => t.m.mgmt.floor = v.truncate 16) :=
  ⟨_, event_next h, rfl⟩

end

/-- Settles O34: each event is one update of a core, a cluster or a virtual device, and the ring takes a deferred region as a notice. -/
theorem registerEvents : Obligations.RegisterEvents := by
  intro s g r vd die cl k v
  simp only [exec_flgWrite, exec_vwWrite, exec_patWrite, exec_nqheadWrite, exec_nackWrite, exec_registerWrite]
  refine ⟨fun c hc => ?_, fun c hc => execPatWrite_goesTo hc, patOk_iff, fun hvd => ⟨execNqheadWrite_goesTo hvd, execNackWrite_goesTo hvd,
    fun j hj => ⟨?xbase, ?xroot⟩, ?nqbase, ?nthr, execRegisterWrite_floor hvd, ?barsel, ?shsel⟩⟩
  · have hcore : (s.m.core? g r).isSome = true := Option.isSome_of_eq_some hc
    exact ⟨event_next hcore, event_next hcore⟩
  case xbase =>
    have hreg : (BitVec.ofNat 12 (0x810 + j)).toNat = 0x810 + j := Nat.mod_eq_of_lt (by omega)
    exact (execRegisterWrite_goesTo hvd hreg (by omega)).mono fun t ht => ht ▸ VDev.xbase_written _ v hj
  case xroot =>
    have hreg : (BitVec.ofNat 12 (0x818 + j)).toNat = 0x818 + j := Nat.mod_eq_of_lt (by omega)
    exact (execRegisterWrite_goesTo hvd hreg (by omega)).mono fun t ht => ht ▸ VDev.xroot_written _ v hj
  case nqbase => exact (execRegisterWrite_goesTo hvd (n := 0x820) rfl (by decide)).mono fun t ht => ht ▸ rfl
  case nthr => exact (execRegisterWrite_goesTo hvd (n := 0x823) rfl (by decide)).mono fun t ht => ht ▸ rfl
  case barsel => exact (execRegisterWrite_goesTo hvd (n := 0x880) rfl (by decide)).mono fun t ht => ht ▸ rfl
  case shsel => exact (execRegisterWrite_goesTo hvd (n := 0x882) rfl (by decide)).mono fun t ht => ht ▸ rfl

end Sys2Proof.Machine
end

section
/-! PROOFS. The decoder and the encoder are inverse to each other (R30-R45). One way is the family Encoding of the laws; the other shows
of each map that the bits of a word are its opcode and form code, its zeros and the operands read from it. -/
namespace Sys2Proof

/-! ## From an instruction to its word and back -/

namespace Laws

/-- The laws of the family Encoding, together. -/
theorem Encoding.all (i : Instr) : Encoding.Statement i :=
  match i with
  | .add _ _ _ _ _ => Encoding.add _ _ _ _ _ | .sub _ _ _ _ _ => Encoding.sub _ _ _ _ _
  | .and _ _ _ _ _ => Encoding.and _ _ _ _ _ | .or _ _ _ _ _ => Encoding.or _ _ _ _ _
  | .xor _ _ _ _ _ => Encoding.xor _ _ _ _ _ | .andn _ _ _ _ _ => Encoding.andn _ _ _ _ _
  | .min _ _ _ _ _ => Encoding.min _ _ _ _ _ | .max _ _ _ _ _ => Encoding.max _ _ _ _ _
  | .minn _ _ _ _ _ => Encoding.minn _ _ _ _ _ | .maxn _ _ _ _ _ => Encoding.maxn _ _ _ _ _
  | .shl _ _ _ _ _ => Encoding.shl _ _ _ _ _ | .shr _ _ _ _ _ => Encoding.shr _ _ _ _ _
  | .sar _ _ _ _ _ => Encoding.sar _ _ _ _ _ | .rotr _ _ _ _ _ => Encoding.rotr _ _ _ _ _
  | .clz _ _ _ _ => Encoding.clz _ _ _ _ | .popc _ _ _ _ => Encoding.popc _ _ _ _ | .mul _ _ _ _ _ => Encoding.mul _ _ _ _ _
  | .mulh _ _ _ _ _ => Encoding.mulh _ _ _ _ _ | .mulhn _ _ _ _ _ => Encoding.mulhn _ _ _ _ _
  | .div _ _ _ _ _ => Encoding.div _ _ _ _ _ | .divn _ _ _ _ _ => Encoding.divn _ _ _ _ _
  | .rem _ _ _ _ _ => Encoding.rem _ _ _ _ _ | .remn _ _ _ _ _ => Encoding.remn _ _ _ _ _
  | .cmp _ _ _ _ _ => Encoding.cmp _ _ _ _ _ | .pand _ _ _ _ => Encoding.pand _ _ _ _ | .por _ _ _ _ => Encoding.por _ _ _ _
  | .pxor _ _ _ _ => Encoding.pxor _ _ _ _ | .pnot _ _ _ => Encoding.pnot _ _ _ | .ptos _ _ _ => Encoding.ptos _ _ _
  | .stop _ _ => Encoding.stop _ _ | .ptrmk _ _ _ _ _ => Encoding.ptrmk _ _ _ _ _ | .ptrsp _ _ _ _ => Encoding.ptrsp _ _ _ _
  | .ptrrk _ _ _ _ => Encoding.ptrrk _ _ _ _ | .ptrof _ _ _ _ => Encoding.ptrof _ _ _ _
  | .ptradd _ _ _ _ _ => Encoding.ptradd _ _ _ _ _ | .fadd _ _ _ _ _ => Encoding.fadd _ _ _ _ _
  | .fsub _ _ _ _ _ => Encoding.fsub _ _ _ _ _ | .fmul _ _ _ _ _ => Encoding.fmul _ _ _ _ _
  | .ffma _ _ _ _ _ => Encoding.ffma _ _ _ _ _ | .fmin _ _ _ _ _ => Encoding.fmin _ _ _ _ _
  | .fmax _ _ _ _ _ => Encoding.fmax _ _ _ _ _ | .fdiv _ _ _ _ _ => Encoding.fdiv _ _ _ _ _
  | .fsqrt _ _ _ _ => Encoding.fsqrt _ _ _ _ | .cvtif _ _ _ _ => Encoding.cvtif _ _ _ _
  | .cvtnf _ _ _ _ => Encoding.cvtnf _ _ _ _ | .cvtfi _ _ _ _ => Encoding.cvtfi _ _ _ _
  | .cvtfiz _ _ _ _ => Encoding.cvtfiz _ _ _ _ | .fcmpLt _ _ _ _ => Encoding.fcmpLt _ _ _ _
  | .fcmpLe _ _ _ _ => Encoding.fcmpLe _ _ _ _ | .fcmpEq _ _ _ _ => Encoding.fcmpEq _ _ _ _
  | .addi _ _ _ _ => Encoding.addi _ _ _ _ | .andi _ _ _ _ => Encoding.andi _ _ _ _ | .ori _ _ _ _ => Encoding.ori _ _ _ _
  | .xori _ _ _ _ => Encoding.xori _ _ _ _ | .shli _ _ _ _ => Encoding.shli _ _ _ _ | .shri _ _ _ _ => Encoding.shri _ _ _ _
  | .sari _ _ _ _ => Encoding.sari _ _ _ _ | .cmpi _ _ _ _ _ => Encoding.cmpi _ _ _ _ _ | .lim _ _ _ => Encoding.lim _ _ _
  | .lih _ _ _ => Encoding.lih _ _ _ | .ptri _ _ _ _ => Encoding.ptri _ _ _ _ | .lscr _ _ _ => Encoding.lscr _ _ _
  | .ldb _ _ _ _ _ _ _ => Encoding.ldb _ _ _ _ _ _ _ | .ldbn _ _ _ _ _ _ _ => Encoding.ldbn _ _ _ _ _ _ _
  | .ldh _ _ _ _ _ _ _ => Encoding.ldh _ _ _ _ _ _ _ | .ldhn _ _ _ _ _ _ _ => Encoding.ldhn _ _ _ _ _ _ _
  | .ldw _ _ _ _ _ _ _ => Encoding.ldw _ _ _ _ _ _ _ | .ldwn _ _ _ _ _ _ _ => Encoding.ldwn _ _ _ _ _ _ _
  | .ldd _ _ _ _ _ _ _ => Encoding.ldd _ _ _ _ _ _ _ | .stb _ _ _ _ _ _ _ => Encoding.stb _ _ _ _ _ _ _
  | .sth _ _ _ _ _ _ _ => Encoding.sth _ _ _ _ _ _ _ | .stw _ _ _ _ _ _ _ => Encoding.stw _ _ _ _ _ _ _
  | .std _ _ _ _ _ _ _ => Encoding.std _ _ _ _ _ _ _ | .ldl _ _ _ _ _ _ _ => Encoding.ldl _ _ _ _ _ _ _
  | .aadd _ _ _ _ _ _ => Encoding.aadd _ _ _ _ _ _ | .amin _ _ _ _ _ _ => Encoding.amin _ _ _ _ _ _
  | .amax _ _ _ _ _ _ => Encoding.amax _ _ _ _ _ _ | .aminn _ _ _ _ _ _ => Encoding.aminn _ _ _ _ _ _
  | .amaxn _ _ _ _ _ _ => Encoding.amaxn _ _ _ _ _ _ | .aand _ _ _ _ _ _ => Encoding.aand _ _ _ _ _ _
  | .aor _ _ _ _ _ _ => Encoding.aor _ _ _ _ _ _ | .aswap _ _ _ _ _ _ => Encoding.aswap _ _ _ _ _ _
  | .casW _ _ _ _ _ _ => Encoding.casW _ _ _ _ _ _ | .casD _ _ _ _ _ _ => Encoding.casD _ _ _ _ _ _
  | .fence _ _ _ _ => Encoding.fence _ _ _ _ | .br _ _ _ => Encoding.br _ _ _ | .call _ _ _ => Encoding.call _ _ _
  | .jmpr _ _ _ _ => Encoding.jmpr _ _ _ _ | .loop _ _ _ => Encoding.loop _ _ _ | .lset _ _ _ _ _ => Encoding.lset _ _ _ _ _
  | .rdvFin _ => Encoding.rdvFin _ | .rdvMid _ => Encoding.rdvMid _ | .exit _ _ _ => Encoding.exit _ _ _
  | .waitc _ _ _ => Encoding.waitc _ _ _ | .yield => Encoding.yield | .phase _ _ _ => Encoding.phase _ _ _
  | .lease _ _ _ => Encoding.lease _ _ _ | .barInit _ _ _ _ => Encoding.barInit _ _ _ _
  | .barExpb _ _ _ _ => Encoding.barExpb _ _ _ _ | .barArv _ _ _ _ => Encoding.barArv _ _ _ _
  | .barWait _ _ _ _ => Encoding.barWait _ _ _ _ | .barAw _ _ _ _ => Encoding.barAw _ _ _ _
  | .mfsr _ _ _ _ => Encoding.mfsr _ _ _ _ | .mtsr _ _ _ _ => Encoding.mtsr _ _ _ _ | .trap _ _ _ => Encoding.trap _ _ _
  | .evnt _ _ _ => Encoding.evnt _ _ _ | .tlbi _ _ _ => Encoding.tlbi _ _ _ | .dinv _ _ _ => Encoding.dinv _ _ _
  | .halt _ _ => Encoding.halt _ _ | .csave _ _ _ => Encoding.csave _ _ _ | .lhash _ _ _ _ _ => Encoding.lhash _ _ _ _ _
  | .lgath _ _ _ _ _ => Encoding.lgath _ _ _ _ _ | .lpool _ _ _ _ _ => Encoding.lpool _ _ _ _ _
  | .lscat _ _ _ _ _ => Encoding.lscat _ _ _ _ _ | .lhand _ _ _ _ _ => Encoding.lhand _ _ _ _ _
  | .vadd _ _ _ _ _ _ => Encoding.vadd _ _ _ _ _ _ | .vsub _ _ _ _ _ _ => Encoding.vsub _ _ _ _ _ _
  | .vmul _ _ _ _ _ _ => Encoding.vmul _ _ _ _ _ _ | .vfma _ _ _ _ _ _ => Encoding.vfma _ _ _ _ _ _
  | .vfms _ _ _ _ _ _ => Encoding.vfms _ _ _ _ _ _ | .vmin _ _ _ _ _ _ => Encoding.vmin _ _ _ _ _ _
  | .vmax _ _ _ _ _ _ => Encoding.vmax _ _ _ _ _ _ | .vun _ _ _ _ _ _ => Encoding.vun _ _ _ _ _ _
  | .vand _ _ _ _ _ _ => Encoding.vand _ _ _ _ _ _ | .vor _ _ _ _ _ _ => Encoding.vor _ _ _ _ _ _
  | .vxor _ _ _ _ _ _ => Encoding.vxor _ _ _ _ _ _ | .vshl _ _ _ _ _ _ => Encoding.vshl _ _ _ _ _ _
  | .vshr _ _ _ _ _ _ => Encoding.vshr _ _ _ _ _ _ | .vsar _ _ _ _ _ _ => Encoding.vsar _ _ _ _ _ _
  | .vfsl _ _ _ _ _ _ => Encoding.vfsl _ _ _ _ _ _ | .vfsr _ _ _ _ _ _ => Encoding.vfsr _ _ _ _ _ _
  | .vhar _ _ _ _ _ => Encoding.vhar _ _ _ _ _ | .vihr _ _ _ _ _ => Encoding.vihr _ _ _ _ _
  | .vcmp _ _ _ _ _ _ => Encoding.vcmp _ _ _ _ _ _ | .vsel _ _ _ _ _ => Encoding.vsel _ _ _ _ _
  | .vmsk _ _ _ _ _ => Encoding.vmsk _ _ _ _ _ | .vcomp _ _ _ _ => Encoding.vcomp _ _ _ _
  | .vexpd _ _ _ _ => Encoding.vexpd _ _ _ _ | .vslu _ _ _ _ _ _ => Encoding.vslu _ _ _ _ _ _
  | .vsld _ _ _ _ _ _ => Encoding.vsld _ _ _ _ _ _ | .vbrd _ _ _ _ _ => Encoding.vbrd _ _ _ _ _
  | .viota _ _ _ _ => Encoding.viota _ _ _ _ | .vmvs _ _ _ _ => Encoding.vmvs _ _ _ _
  | .vmsv _ _ _ _ _ _ => Encoding.vmsv _ _ _ _ _ _ | .vred _ _ _ _ _ => Encoding.vred _ _ _ _ _
  | .vmvy _ _ _ _ _ => Encoding.vmvy _ _ _ _ _ | .vcvt _ _ _ _ _ _ _ => Encoding.vcvt _ _ _ _ _ _ _
  | .vsetShape _ _ _ _ _ => Encoding.vsetShape _ _ _ _ _ | .vsetTh _ _ _ => Encoding.vsetTh _ _ _
  | .vsetTag _ _ => Encoding.vsetTag _ _ | .vld _ _ _ _ _ _ _ => Encoding.vld _ _ _ _ _ _ _
  | .vst _ _ _ _ _ _ => Encoding.vst _ _ _ _ _ _ | .vldl _ _ _ _ _ _ _ => Encoding.vldl _ _ _ _ _ _ _
  | .vldd _ _ _ _ _ _ _ => Encoding.vldd _ _ _ _ _ _ _ | .vstl _ _ _ _ _ _ _ => Encoding.vstl _ _ _ _ _ _ _
  | .vlrg _ _ _ _ _ _ => Encoding.vlrg _ _ _ _ _ _ | .vthr _ _ _ _ => Encoding.vthr _ _ _ _ | .mclm _ _ => Encoding.mclm _ _
  | .mrel _ _ => Encoding.mrel _ _ | .mfil _ _ _ _ => Encoding.mfil _ _ _ _ | .mma _ _ _ _ _ => Encoding.mma _ _ _ _ _
  | .mmat _ _ _ _ _ => Encoding.mmat _ _ _ _ _ | .mcnv _ _ _ _ _ => Encoding.mcnv _ _ _ _ _ | .mwin _ _ => Encoding.mwin _ _
  | .mcfg _ _ _ _ => Encoding.mcfg _ _ _ _ | .mrnd _ _ => Encoding.mrnd _ _ | .mdrn _ _ _ _ _ _ => Encoding.mdrn _ _ _ _ _ _
  | .mzer _ _ => Encoding.mzer _ _ | .mver _ _ _ => Encoding.mver _ _ _ | .mverTag _ _ => Encoding.mverTag _ _
  | .mlda _ _ _ _ => Encoding.mlda _ _ _ _ | .lopn _ _ _ => Encoding.lopn _ _ _ | .lstp _ _ _ => Encoding.lstp _ _ _
  | .lrd _ _ _ => Encoding.lrd _ _ _ | .lcls _ _ => Encoding.lcls _ _ | .lwgt _ _ => Encoding.lwgt _ _
  | .tsrc _ _ => Encoding.tsrc _ _ | .tdst _ _ => Encoding.tdst _ _ | .tdim _ _ _ _ _ => Encoding.tdim _ _ _ _ _
  | .tind _ _ _ _ => Encoding.tind _ _ _ _ | .tfmt _ _ _ _ _ _ _ => Encoding.tfmt _ _ _ _ _ _ _
  | .tsyn _ _ _ _ _ _ => Encoding.tsyn _ _ _ _ _ _ | .tcpy _ => Encoding.tcpy _ | .tlvl _ => Encoding.tlvl _
  | .tenc _ => Encoding.tenc _ | .tpak _ => Encoding.tpak _ | .tunp _ => Encoding.tunp _ | .tcol _ _ _ => Encoding.tcol _ _ _
  | .tkvf _ _ _ _ => Encoding.tkvf _ _ _ _ | .tfil _ _ => Encoding.tfil _ _ | .tops _ _ => Encoding.tops _ _
  | .tdrp _ _ _ _ => Encoding.tdrp _ _ _ _ | .transferStart _ => Encoding.transferStart _
  | .transferComplete _ => Encoding.transferComplete _ | .transferFault _ _ => Encoding.transferFault _ _
  | .pageFaultService _ _ => Encoding.pageFaultService _ _ | .replyArrival _ => Encoding.replyArrival _
  | .freezeTimeout _ => Encoding.freezeTimeout _ | .yieldSpacingFault _ => Encoding.yieldSpacingFault _
  | .joinRelease _ _ => Encoding.joinRelease _ _ | .leaseTakeover _ _ _ _ => Encoding.leaseTakeover _ _ _ _
  | .tileReady _ _ _ => Encoding.tileReady _ _ _ | .mfilStamp _ _ _ _ => Encoding.mfilStamp _ _ _ _
  | .mdrnComplete _ _ _ _ _ => Encoding.mdrnComplete _ _ _ _ _
  | .barrierArrivalCount _ _ _ => Encoding.barrierArrivalCount _ _ _
  | .loupeCommandComplete _ => Encoding.loupeCommandComplete _ | .lhandComplete _ => Encoding.lhandComplete _
  | .loupeSliceEnd _ _ => Encoding.loupeSliceEnd _ _ | .tlbiComplete _ => Encoding.tlbiComplete _
  | .preemptRequest _ => Encoding.preemptRequest _ | .yieldHoldRelease _ => Encoding.yieldHoldRelease _
  | .contextSave _ => Encoding.contextSave _ | .checkpoint _ => Encoding.checkpoint _
  | .haltRemoteStop _ => Encoding.haltRemoteStop _ | .kernelEndJob _ => Encoding.kernelEndJob _
  | .kernelResumeInPlace _ _ => Encoding.kernelResumeInPlace _ _ | .kernelSave _ => Encoding.kernelSave _
  | .lnotify _ _ => Encoding.lnotify _ _ | .bind _ => Encoding.bind _ | .jobLoad _ => Encoding.jobLoad _
  | .startCycle _ => Encoding.startCycle _ | .patternFrame _ _ => Encoding.patternFrame _ _
  | .forcedLowering _ _ => Encoding.forcedLowering _ _ | .idleTimeout _ => Encoding.idleTimeout _
  | .collapse _ => Encoding.collapse _ | .wakeDoorbell _ _ => Encoding.wakeDoorbell _ _
  | .wakeComplete _ => Encoding.wakeComplete _ | .laneTestComplete _ _ => Encoding.laneTestComplete _ _
  | .flgWrite _ _ _ => Encoding.flgWrite _ _ _ | .vwWrite _ _ _ => Encoding.vwWrite _ _ _
  | .wdogWrite _ _ => Encoding.wdogWrite _ _ | .patWrite _ _ _ _ => Encoding.patWrite _ _ _ _
  | .nqheadWrite _ _ => Encoding.nqheadWrite _ _ | .nackWrite _ _ => Encoding.nackWrite _ _
  | .registerWrite _ _ _ => Encoding.registerWrite _ _ _ | .accessCommit _ => Encoding.accessCommit _
  | .viewBufferDrop _ _ => Encoding.viewBufferDrop _ _ | .commandHalt _ _ => Encoding.commandHalt _ _
  | .launch _ => Encoding.launch _ | .identify _ => Encoding.identify _ | .status _ => Encoding.status _
  | .log _ => Encoding.log _ | .selftest _ => Encoding.selftest _ | .vdCreate _ => Encoding.vdCreate _
  | .vdDestroy _ => Encoding.vdDestroy _ | .vdSleep _ => Encoding.vdSleep _ | .vdWake _ => Encoding.vdWake _
  | .loadImage _ => Encoding.loadImage _ | .attest _ => Encoding.attest _ | .fwUpdate _ => Encoding.fwUpdate _
  | .setCap _ => Encoding.setCap _ | .heldAccess _ _ => Encoding.heldAccess _ _
  | .outsideAgentAccess _ _ => Encoding.outsideAgentAccess _ _ | .masterClockChange _ _ _ => Encoding.masterClockChange _ _ _
  | .kernelLaunch _ _ => Encoding.kernelLaunch _ _ | .graphEdit _ _ _ => Encoding.graphEdit _ _ _
  | .mirrorRepair _ _ _ => Encoding.mirrorRepair _ _ _ | .linkRetry _ => Encoding.linkRetry _
  | .capLeaseExpiry => Encoding.capLeaseExpiry | .reset => Encoding.reset | .khbWrite => Encoding.khbWrite
  | .kpanicWrite => Encoding.kpanicWrite | .heartbeatTimeout => Encoding.heartbeatTimeout
  | .kreadyWrite => Encoding.kreadyWrite | .warmStartRetry => Encoding.warmStartRetry

end Laws

/-- Settles O3: instruction by instruction, by the laws of the family Encoding. -/
theorem decodeOfEncode : Obligations.DecodeOfEncode := Laws.Encoding.all

/-! ## The fields of a word -/

/-- The field of `w` from bit `lo` up is `x`. -/
def At (w : Code) (lo : Nat) {n : Nat} (x : BitVec n) : Prop := fld w lo n = x

section
variable {w z : Code} {lo n k : Nat}

/-- A word holds a concatenation where it holds the low part and, above it, the high part. -/
theorem At.append {x : BitVec n} {y : BitVec k} : At w lo (x ++ y) ↔ At w (lo + k) x ∧ At w lo y := by
  have hjoin : fld w (lo + k) n ++ fld w lo k = fld w lo (n + k) := BitVec.extractLsb'_append_extractLsb'_eq_extractLsb' rfl
  refine ⟨fun h => ?_, fun ⟨hx, hy⟩ => by rw [At, ← hjoin, hx, hy]⟩
  have hxy : fld w (lo + k) n ++ fld w lo k = x ++ y := hjoin.trans h
  refine ⟨?_, ?_⟩
  · simpa [At, fld_append_hi, fld_whole] using congrArg (fld · k n) hxy
  · simpa [At, fld_append_lo, fld_whole] using congrArg (fld · 0 k) hxy

theorem At.fld : At w lo (fld w lo n) := rfl

theorem At.bit : At w lo (BitVec.ofBool (bit w lo)) := by
  apply BitVec.eq_of_getLsbD_eq
  intro i hi
  obtain rfl : i = 0 := by omega
  simp [Sys2Proof.fld, Sys2Proof.bit]

/-- A fixed code stands in a field just where the field's number is that code, which is what the maps test. -/
theorem At.code {c : Nat} : At w lo (BitVec.ofNat n c) ↔ (Sys2Proof.fld w lo n).toNat = c % 2 ^ n := by
  rw [At, ← BitVec.toNat_inj, BitVec.toNat_ofNat]

/-- A word that is clear under a mask has zero in every field that the mask covers. -/
theorem At.zero (hz : w &&& z = 0#32) (hm : fieldMask lo n &&& z = fieldMask lo n) : At w lo (0#n) := by
  have hclear : w &&& fieldMask lo n = 0#32 := by rw [← hm, BitVec.and_comm _ z, ← BitVec.and_assoc, hz, BitVec.zero_and]
  apply BitVec.eq_of_getLsbD_eq
  intro i hi
  have hbit := congrArg (BitVec.getLsbD · (lo + i)) hclear
  by_cases hlt : lo + i < 32
  · simpa [Sys2Proof.fld, fieldMask, hi, hlt] using hbit
  · simpa [Sys2Proof.fld, hi] using w.getLsbD_of_ge (lo + i) (by omega)

theorem At.eq {x : Code} (h : At w 0 x) : x = w := h.symm.trans (fld_whole w)

end

/-! ## Each map reads a word as the instruction that has this word -/

/-- What a map may answer to a word: an error, or a form whose instruction has this word, if the word is zero where the form wants it,
and the word's guard nibble, if the form holds its guard there; and a stream that `adm` names admits the instruction. -/
def Reads (adm : Instr → Stream → Bool) (nib : BitVec 4) (w : Code) (r : Except DecodeError Form) : Prop :=
  ∀ f, r = .ok f → (∀ st, adm f.instr st = true → f.instr.validIn st = true) ∧
    (w &&& f.zero = 0#32 → ∃ st, encode f.instr = some ⟨st, if f.nib then nib else 0#4, w⟩)

section
variable {adm : Instr → Stream → Bool} {nib : BitVec 4} {w : Code}

theorem Reads.error {e : DecodeError} : Reads adm nib w (.error e) := fun _ h => by cases h

theorem Reads.form {i : Instr} {z x : Code} {b : Bool} {est : Stream} (ha : ∀ st, adm i st = true → i.validIn st = true)
    (he : encode i = some ⟨est, if b then nib else 0#4, x⟩) (hx : w &&& z = 0#32 → At w 0 x) : Reads adm nib w (form i z b) := by
  rintro f ⟨⟩
  exact ⟨ha, fun hz => ⟨est, (hx hz).eq ▸ he⟩⟩

/-- The maps of R39, R41 and R43-R45. In each form the field of an operand is the operand, the opcode and the form code are the numbers
the map has tested, and every other bit is among those that must be zero. -/
theorem Reads.maps : Reads (fun i st => i.validIn st) nib w (formC w) ∧ Reads (fun _ st => st == .s || st == .l) nib w (formS nib w) ∧
    Reads (fun _ st => st == .v) nib w (formV w) ∧ Reads (fun _ st => st == .m) nib w (formM w) ∧
    Reads (fun _ st => st == .t) nib w (formT w) := by
  unfold formC formS formV formM formT
  refine ⟨?_, ?_, ?_, ?_, ?_⟩
  all_goals repeat' split
  any_goals exact .error
  all_goals
    refine .form (fun _ h => h) rfl fun hz => ?_
    simp only [At.append]
    simp (disch := decide) only [Nat.reduceAdd, Nat.reducePow, Nat.reduceMod, At.fld, At.bit, At.zero hz, At.code, and_self, *]

/-- A stream reads a control word by the map of R41, if it admits it, and any other word by its own map. -/
theorem formOf_reads {st : Stream} {f : Form} (h : formOf st nib w = .ok f) : f.instr.validIn st = true ∧
    (w &&& f.zero = 0#32 → ∃ st, encode f.instr = some ⟨st, if f.nib then nib else 0#4, w⟩) := by
  obtain ⟨hC, hS, hV, hM, hT⟩ := Reads.maps (nib := nib) (w := w)
  unfold formOf at h
  split at h
  · cases hc : formC w with
    | error e => simp [hc] at h
    | ok f' =>
      simp only [hc, ite_eq_iff] at h
      obtain ⟨hv, hf⟩ | ⟨-, hf⟩ := h
      · cases hf
        exact ⟨hv, (hC f hc).2⟩
      · exact nomatch hf
  · cases st with
    | s => exact (hS f h).imp_left (· .s rfl)
    | l => exact (hS f h).imp_left (· .l rfl)
    | v => exact (hV f h).imp_left (· .v rfl)
    | m => exact (hM f h).imp_left (· .m rfl)
    | t => exact (hT f h).imp_left (· .t rfl)

end

/-- A word that decodes has a form, and has passed the checks on it: the zeros, the guard nibble (R38) and the ranges. -/
theorem form_of_decode {st : Stream} {nib : BitVec 4} {w : Code} {i : Instr} (h : decode st nib w = .ok i) :
    ∃ f, formOf st nib w = .ok f ∧ f.instr = i ∧ w &&& f.zero = 0#32 ∧ (st = .s ∨ st = .l → f.nib = false → nib = 0#4) ∧
      i.wf st = true := by
  unfold decode at h
  cases hf : formOf st nib w with
  | error e => simp [hf] at h
  | ok f =>
    simp only [hf] at h
    split_ifs at h with hzero hnib hwf
    cases h
    refine ⟨f, rfl, rfl, by simpa using hzero, fun hst hb => ?_, hwf⟩
    rcases hst with rfl | rfl <;> simpa [hb] using hnib

/-- Settles O4: the form that a word is read by fixes every bit of the word, and in S and on a Loupe core its guard nibble. -/
theorem encodeOfDecode : Obligations.EncodeOfDecode := by
  intro st nib w i h
  obtain ⟨f, hf, rfl, hzero, hnib, hwf⟩ := form_of_decode h
  obtain ⟨hvalid, hword⟩ := formOf_reads hf
  obtain ⟨est, he⟩ := hword hzero
  refine ⟨hvalid, hwf, _, he, rfl, fun hst => ?_⟩
  cases hb : f.nib with
  | true => rfl
  | false => exact (hnib hst hb).symm

end Sys2Proof
end

section
/-! PROOFS. A word whose guard is false (R32): checks 3 to 5 of R31 come before the guard, and past them it only passes. -/
namespace Sys2Proof.Machine

/-- What a word whose guard is false comes to: it passes, or fails one of the checks of R31 that come before the guard. -/
def Nullified (s : State) (o : Host.Outcome State Fault Refusal) : Prop :=
  ∃ t, o = .next t ∧ (t = s.fall s ∨ ∃ c, (c = 0x01 ∨ c = 0x02 ∨ c = 0x12) ∧ t = s.raise { cause := c })

theorem Decl.cause_cases (d : Decl) : d.cause = 0x01 ∨ d.cause = 0x02 ∨ d.cause = 0x12 := by
  cases d with
  | form => exact .inl rfl
  | name => exact .inr (.inl rfl)
  | priv => exact .inr (.inr rfl)

section
variable {s : State} {g : BitVec 4} {n : Bool} {decls : List Decl} {body : State → Except Stop State}

theorem State.jump_refused {on : Bool} {d : Decl} (ha : (s.m.seq? s.cur).isSome = true)
    (hd : decls.find? (fun d => !d.ok s.hdr s.regs.rrb) = some d) : s.jump decls on body = .next (s.raise { cause := d.cause }) := by
  obtain ⟨q, hq⟩ := Option.isSome_iff_exists.mp ha
  simp [State.jump, hq, hd]

variable (ha : (s.m.seq? s.cur).isSome = true) (hg : s.guard g n = false)
include ha hg

theorem Nullified.word : Nullified s (s.word decls (s.guard g n) body) := by
  rw [hg]
  cases hd : decls.find? (fun d => !d.ok s.hdr s.regs.rrb) with
  | none => exact ⟨_, State.word_nullified ha (by simpa using hd), .inl rfl⟩
  | some d => exact ⟨_, State.word_refused ha hd, .inr ⟨_, d.cause_cases, rfl⟩⟩

theorem Nullified.jump : Nullified s (s.jump decls (s.guard g n) body) := by
  rw [hg]
  cases hd : decls.find? (fun d => !d.ok s.hdr s.regs.rrb) with
  | none => exact ⟨_, State.jump_nullified ha (by simpa using hd), .inl rfl⟩
  | some d => exact ⟨_, State.jump_refused ha hd, .inr ⟨_, d.cause_cases, rfl⟩⟩

/-- A LOUPE word is illegal on a gang core (R41), whatever its guard, and passes like any other on a Loupe core. -/
theorem Nullified.loupeWord {d a b : BitVec 6} : Nullified s (loupeWord g n d a b body s) := by
  unfold Machine.loupeWord
  split
  · exact ⟨_, if_pos ha, .inr ⟨_, .inl rfl, rfl⟩⟩
  · exact .word ha hg

/-- A nullified HALT stops no other gang of its job (R399). -/
theorem Nullified.execHalt : Nullified s (execHalt g n s) := by
  have hword {body} : Nullified s (s.word [.priv] (s.guard g n) body) := .word ha hg
  unfold Machine.execHalt
  split
  · exact hword
  · obtain ⟨t, ht, hc⟩ := hword
    exact ⟨t, by rw [ht, hg]; rfl, hc⟩

end

/-! ## The operations that several words share -/

section
variable {s : State} {d a b : BitVec 6} {vd : BitVec 6} {va vb : BitVec 7} {x w : Bool} {cls sco : BitVec 3} {sem : BitVec 2} {off : BitVec 6}
  {size lat code : Nat} {g : BitVec 4} (ha : (s.m.seq? s.cur).isSome = true) (hg : s.guard g = false)
include ha hg

theorem Nullified.sr2 {f} : Nullified s (sr2 lat f d a b w g s) := .word ha hg
theorem Nullified.sr1 {f} : Nullified s (sr1 lat f d a w g s) := .word ha hg
theorem Nullified.si1 {f} : Nullified s (si1 f d a g s) := .word ha hg
theorem Nullified.pp2 {f} : Nullified s (pp2 f d a b g s) := .word ha hg
theorem Nullified.sf2 {f} : Nullified s (sf2 lat f d a b w g s) := .word ha hg
theorem Nullified.cvt1 {f} : Nullified s (cvt1 f d a w g s) := .word ha hg
theorem Nullified.fcmp {f} : Nullified s (fcmp f d a b g s) := .word ha hg
theorem Nullified.load {sx} : Nullified s (load size sx d a cls sem sco off g s) := .word ha hg
theorem Nullified.store : Nullified s (store size d a cls sem sco off g s) := .word ha hg
theorem Nullified.amo : Nullified s (amo code d a b sem sco g s) := .word ha hg
theorem Nullified.cas : Nullified s (cas size d a b sem sco g s) := .word ha hg
theorem Nullified.vr1 {ok f} : Nullified s (vr1 lat ok f vd va x w g s) := .word ha hg
theorem Nullified.vr2 {lat ok f} : Nullified s (vr2 lat ok f vd va vb x w g s) := .word ha hg
theorem Nullified.vr3 {lat f} : Nullified s (vr3 lat f vd va vb x w g s) := .word ha hg
theorem Nullified.bitwise {f} : Nullified s (bitwise f vd va vb x w g s) := .vr2 ha hg
theorem Nullified.vmove {f} : Nullified s (vmove lat f vd va x w g s) := .word ha hg
theorem Nullified.multiply {trans ac sa sb z} : Nullified s (multiply trans ac sa sb z g s) := .word ha hg
theorem Nullified.tconf {decls f} : Nullified s (tconf decls g f s) := .word ha hg
theorem Nullified.go {op decls} : Nullified s (go op decls g s) := .word ha hg
theorem Nullified.kvGo {op} : Nullified s (kvGo a b g op s) := .word ha hg

theorem Nullified.execVun {fn : BitVec 7} : Nullified s (execVun vd va fn x w g s) := by
  unfold Machine.execVun
  exact .vr1 ha hg

end

theorem Nullified.exec {s : State} {i : Instr} {g : BitVec 4} {n : Bool} (ha : (s.m.seq? s.cur).isSome = true)
    (hi : i.guard? = some (g, n)) (hg : s.guard g n = false) : Nullified s (exec i s) := by
  unfold Machine.exec
  cases i <;> cases hi <;> dsimp only
  case add | sub | and | or | xor | andn | min | max | minn | maxn | shl | shr | sar | rotr | mul | mulh | mulhn | div | divn |
      rem | remn => exact .sr2 ha hg
  case clz | popc | ptrsp | ptrrk | ptrof => exact .sr1 ha hg
  case pand | por | pxor => exact .pp2 ha hg
  case fadd | fsub | fmul | fmin | fmax | fdiv => exact .sf2 ha hg
  case cvtif | cvtnf | cvtfi | cvtfiz => exact .cvt1 ha hg
  case fcmpLt | fcmpLe | fcmpEq => exact .fcmp ha hg
  case addi | andi | ori | xori | shli | shri | sari => exact .si1 ha hg
  case ldb | ldbn | ldh | ldhn | ldw | ldwn | ldd => exact .load ha hg
  case stb | sth | stw | std => exact .store ha hg
  case aadd | amin | amax | aminn | amaxn | aand | aor | aswap => exact .amo ha hg
  case casW | casD => exact .cas ha hg
  case br | call | jmpr | loop | exit | vsetShape => exact .jump ha hg
  case halt => exact .execHalt ha hg
  case lhash | lgath | lpool | lscat | lhand => exact .loupeWord ha hg
  case vun => exact .execVun ha hg
  case vadd | vsub | vmul | vmin | vmax => exact .vr2 ha hg
  case vfma | vfms | vfsl | vfsr => exact .vr3 ha hg
  case vand | vor | vxor | vshl | vshr | vsar => exact .bitwise ha hg
  case vcomp | vexpd | vslu | vsld => exact .vmove ha hg
  case mma | mmat => exact .multiply ha hg
  case tsrc | tdst | tdim | tind | tfmt | tsyn => exact .tconf ha hg
  case tcpy | tlvl | tenc | tpak | tunp | tcol | tops => exact .go ha hg
  case tkvf | tdrp => exact .kvGo ha hg
  -- The other words that have a guard each have a body of their own.
  all_goals exact .word ha hg

/-- Settles O16: a word whose guard is false ends at its checks, or falls through unchanged. -/
theorem nullifiedWords : Obligations.NullifiedWords :=
  fun _ _ _ _ hi ha hg => Nullified.exec ha hi hg

end Sys2Proof.Machine
end

section
/-! PROOFS. The freeze watchdog (R65), and a gang that resumes (R71, R394, R395). -/
namespace Sys2Proof.Machine

/-! ## The watchdog register (R65) -/

/-- LOG2 once a word has been written to WDOG. -/
theorem wdog_written_toNat (d : VDev) (v : Word) :
    (if 16 ≤ (fld v 0 5).toNat ∧ (fld v 0 5).toNat ≤ 26 then { d with wdog := BitVec.ofNat 5 (fld v 0 5).toNat } else d).wdog.toNat =
      if 16 ≤ v.toNat % 32 ∧ v.toNat % 32 ≤ 26 then v.toNat % 32 else d.wdog.toNat := by
  have hlog : (fld v 0 5).toNat = v.toNat % 32 := by simp [fld]
  rw [hlog]
  split
  · simp
  · rfl

theorem execWdogWrite_goesTo {s : State} {vd : Nat} {v : Word} (h : (s.m.vd? vd).isSome = true) :
    GoesTo (execWdogWrite vd v s) (fun t =>
      (t.m.vd vd).wdog.toNat = (if 16 ≤ v.toNat % 32 ∧ v.toNat % 32 ≤ 26 then v.toNat % 32 else (s.m.vd vd).wdog.toNat) ∧
      (∀ w, w ≠ vd → t.m.vd? w = s.m.vd? w) ∧ t.m.gangs = s.m.gangs ∧ t.m.dev = s.m.dev) := by
  refine ⟨_, event_next h, ?_, fun w hw => tget_tupd_ne _ _ _ _ hw, rfl, rfl⟩
  dsimp only
  rw [Mach.vd_updVd h]
  exact wdog_written_toNat _ v

/-- A privileged register is refused to a job that is not privileged, past the names of the word (R31, R98). -/
theorem execMtsr_unprivileged {s : State} {g : BitVec 4} {n : Bool} {a : BitVec 6} {reg : BitVec 12} (ha : (s.m.seq? s.cur).isSome = true)
    (hr : 0x800 ≤ reg.toNat) (hp : s.hdr.priv = false) (hs : (sn [a.toNat]).all (fun d => d.ok s.hdr s.regs.rrb) = true) :
    execMtsr g n a reg s = .next (s.raise { cause := 0x12 }) := by
  unfold execMtsr
  rw [sysDecl_of_privileged hr]
  exact State.word_refused_first (d := .priv) ha hs hp

/-- Settles O33: WDOG is one field of the virtual device, written by its event, read as it stands, and privileged by its number. -/
theorem freezeWatchdog : Obligations.FreezeWatchdog := by
  refine ⟨fun _ _ => rfl, rfl, fun s vd v h => execWdogWrite_goesTo h, fun s => ?read, fun s g n a ha hp hs => ?write,
    fun s v k r st hc => ?event⟩
  case read =>
    have hread : s.sysRead 0x800 = (s.m.vd s.vd).wdog.zeroExtend 64 := rfl
    rw [hread]
    simp
    omega
  case write => exact execMtsr_unprivileged ha (by decide) hp hs
  case event =>
    have hlater : s.sysWrite 0x800 v = s.later (.wdogWrite s.vd v) := rfl
    rw [hlater, State.later, hc]

/-! ## A resumed core (R71, R395) -/

/-- A resumed stream: it starts a new group at its recorded PC, with no bubble and no WAITC left. -/
def StreamRegs.resumed (r : StreamRegs) : StreamRegs := { r with gcyc := 0, gser := r.gser + 1, wait := 0, bub := 0 }

/-- A group switch of a stream changes its latches and its place in its group alone. -/
theorem Core.groupSwitch_eq (c : Core) (st : Stream) : c.groupSwitch st =
    { c with
      seq := { c.seq.updRegs st (fun r => { r with gcyc := 0, gser := r.gser + 1 }) with
        latch := if st.idx = 0 then Vector.replicate 8 none else c.seq.latch }
      vec := { c.vec with latch := if st = .v then Vector.replicate 8 none else c.vec.latch } } := by
  cases st <;> rfl

theorem getElem_vupd {α : Type} {n : Nat} (v : Vector α n) (i : Nat) (f : α → α) (j : Nat) (hj : j < n) :
    (vupd v i f)[j] = if j = i then f v[j] else v[j] := by
  by_cases hij : j = i
  · subst hij
    simp [vupd, hj]
  · have hne := vget_vupd_ne v i j f v[j] hij
    simpa [vget, hj, hij] using hne

/-- The streams of a core, each changed in its turn. -/
theorem vupd_all {α : Type} (v : Vector α 4) (f : α → α) : vupd (vupd (vupd (vupd v 0 f) 1 f) 2 f) 3 f = v.map f := by
  ext j hj
  interval_cases j <;> simp [getElem_vupd]

/-- A resume leaves a core but for its latches, and its streams but for their groups, bubbles and WAITCs. -/
theorem Core.resume_eq (c : Core) : c.resume =
    { c with
      seq := { c.seq with latch := Vector.replicate 8 none, strm := c.seq.strm.map StreamRegs.resumed }
      vec := { c.vec with latch := Vector.replicate 8 none } } := by
  have hstrm := congrArg (Vector.map fun r : StreamRegs => { r with wait := 0, bub := 0 })
    (vupd_all c.seq.strm fun r => { r with gcyc := 0, gser := r.gser + 1 })
  have hresumed := hstrm.trans (Vector.map_map : _ = c.seq.strm.map StreamRegs.resumed)
  simpa [Core.resume, Core.groupSwitch_eq, Seq.updRegs, Stream.idx] using hresumed

/-- The streams of a resumed core. -/
theorem Core.regs_resume (c : Core) (st : Stream) : c.resume.drainHeld.seq.regs st = (c.seq.regs st).resumed := by
  rw [Core.resume_eq]
  simp [Core.drainHeld, Seq.regs, vget, stream_idx_lt st]

/-- The core of a rank of a gang that has resumed. -/
theorem Gang.cores_resumed {x : Gang} {r : Nat} {c : Core} (h : x.cores[r]? = some c) :
    x.resumed.cores[r]? = some c.resume.drainHeld := by
  simp [Gang.resumed, h]

/-- Settles O38: a resume is a group switch of every stream, and leaves the registers of the core. -/
theorem resumedCores : Obligations.ResumedCores := by
  refine fun x => ⟨rfl, rfl, rfl, rfl, List.length_map _, fun r c hc => ⟨_, Gang.cores_resumed hc, ?_⟩⟩
  have hlatch : ∀ j, vget (c.resume.drainHeld.seq.latch) j none = none ∧
      vget (c.resume.drainHeld.vec.latch) j none = none := fun j => by
    rw [Core.resume_eq]
    exact ⟨vget_replicate_default 8 j none, vget_replicate_default 8 j none⟩
  refine ⟨rfl, rfl, rfl, rfl, rfl, rfl, fun j _ => hlatch j, fun st => ?_⟩
  rw [Core.regs_resume]
  exact ⟨rfl, rfl, rfl, rfl, rfl, rfl, rfl, rfl, rfl⟩

end Sys2Proof.Machine
end

section
/-! PROOFS. Taken branches (R71, R85-R88; log entries 10 and 49): what they leave of the core, or of the Loupe context, that runs them. -/
namespace Sys2Proof.Machine

/-! ## The core that a word runs on -/

/-- A word of a stream runs on a core. -/
structure State.OnCore (s : State) (k r : Nat) (st : Stream) (c : Core) : Prop where
  cur : s.cur = .core k r st
  there : s.m.core? k r = some c

/-- A core once the ec of a word of one of its streams is counted. -/
def Core.countEc (c : Core) (st : Stream) : Core := { c with seq := c.seq.countEc st }

/-- A core with one more result on its way. -/
def Core.send (c : Core) (p : Pend) : Core := { c with seq := { c.seq with pend := c.seq.pend ++ [p] } }

theorem Core.regs_countEc (c : Core) (st : Stream) :
    (c.countEc st).seq.regs st = { c.seq.regs st with gcyc := (c.seq.regs st).gcyc + 1 } := c.seq.regs_updRegs_self st _

section
variable {s : State} {k r : Nat} {st : Stream} {c : Core}

theorem State.OnCore.of_cur (hc : s.cur = .core k r st) (ha : (s.m.core? k r).isSome = true) : s.OnCore k r st s.core := by
  obtain ⟨c, hcore⟩ := Option.isSome_iff_exists.mp ha
  exact ⟨hc, by simp [State.core, hc, hcore]⟩

variable (h : s.OnCore k r st c)
include h

theorem State.OnCore.seq?_eq : s.m.seq? s.cur = some c.seq := by simp [h.cur, Mach.seq?, h.there]

theorem State.OnCore.isSome_seq? : (s.m.seq? s.cur).isSome = true := by rw [h.seq?_eq]; rfl

theorem State.OnCore.core_eq : s.core = c := by simp [State.core, h.cur, h.there]

theorem State.OnCore.seq_eq : s.seq = c.seq := by simp [State.seq, h.seq?_eq]

theorem State.OnCore.regs_eq : s.regs = c.seq.regs st := by simp [State.regs, h.seq_eq, h.cur, Agent.strm]

theorem State.OnCore.updCore (f : Core → Core) : (s.updCore f).OnCore k r st (f c) := by
  refine ⟨by simp [h.cur], ?_⟩
  simp [State.updCore, h.cur, h.there]

theorem State.OnCore.updSeq (f : Seq → Seq) : (s.updSeq f).OnCore k r st { c with seq := f c.seq } := by
  refine ⟨h.cur, ?_⟩
  simp [State.updSeq, h.cur, Mach.updSeq, h.there]

theorem State.OnCore.updRegs (f : StreamRegs → StreamRegs) : (s.updRegs f).OnCore k r st { c with seq := c.seq.updRegs st f } := by
  simpa only [State.updRegs, h.cur, Agent.strm] using h.updSeq fun q => q.updRegs st f

theorem State.OnCore.issued : s.issued.OnCore k r st (c.countEc st) := by
  refine ⟨h.cur, ?_⟩
  rw [State.issued_core h.cur]
  have hcore : (s.m.updSeq s.cur (·.countEc s.cur.strm)).core? k r = some (c.countEc st) := by
    simp [h.cur, Mach.updSeq, h.there, Agent.strm, Core.countEc]
  exact hcore

theorem State.OnCore.ec_issued : s.issued.ec = s.ec := by
  have hgang : s.issued.m.gang? k = (s.m.gang? k).map fun x => x.updCore r (·.countEc st) := by
    rw [State.issued_core h.cur, h.cur]
    exact s.m.gang?_updCore_self k r _
  simp only [State.ec, State.issued_cur, h.cur, Mach.ecOf, hgang, Option.map_map]
  rfl

theorem State.OnCore.emit (lat : Nat) (p : Pend) : (s.emit lat p).OnCore k r st
    (c.send { p with due := s.ec + lat, strm := st, seq := s.ec, pc := s.regs.pc }) := by
  simp only [State.emit, h.cur]
  exact ⟨rfl, by simp [h.there, Core.send]⟩

end

/-! ## Taken branches on a core -/

/-- A core one of whose streams goes on at a target, in a new group, after some bubbles. -/
def Core.branched (c : Core) (st : Stream) (t : BitVec 14) (bubbles : Nat) : Core :=
  { c.groupSwitch st with seq := (c.groupSwitch st).seq.updRegs st (fun r => { r with pc := t, bub := bubbles }) }

theorem Core.regs_branched (c : Core) (st : Stream) (t : BitVec 14) (b : Nat) : (c.branched st t b).seq.regs st =
    { c.seq.regs st with gcyc := 0, gser := (c.seq.regs st).gser + 1, pc := t, bub := b } := by
  simp only [Core.branched, Core.groupSwitch_eq, Seq.regs_updRegs_self]
  exact congrArg (fun q : StreamRegs => { q with pc := t, bub := b })
    (c.seq.regs_updRegs_self st fun r => { r with gcyc := 0, gser := r.gser + 1 })

theorem Core.pend_branched (c : Core) (st : Stream) (t : BitVec 14) (b : Nat) : (c.branched st t b).seq.pend = c.seq.pend := by
  simp only [Core.branched, Core.groupSwitch_eq]
  rfl

theorem Core.latch_branched {c : Core} {t : BitVec 14} {b : Nat} (j : Nat) :
    vget (c.branched .s t b).seq.latch j none = none ∧ vget (c.branched .v t b).vec.latch j none = none :=
  ⟨vget_replicate_default 8 j none, vget_replicate_default 8 j none⟩

section
variable {s u : State} {k r : Nat} {st : Stream} {c c' : Core}

theorem State.OnCore.branch (h : s.OnCore k r st c) (t : BitVec 14) (b : Nat) : (s.branch t b).OnCore k r st (c.branched st t b) := by
  have hsw : s.groupSwitch.OnCore k r st (c.groupSwitch st) := by
    simpa only [State.groupSwitch, h.cur] using h.updCore fun c => c.groupSwitch st
  exact hsw.updRegs _

/-- From `s` to `u` a stream has branched: after some bubbles it begins a new group, with its latches undefined (R71, R85). -/
def StartsGroup (s u : State) (st : Stream) (b : Nat) : Prop :=
  u.regs.bub = b ∧ u.regs.gcyc = 0 ∧ u.regs.gser = s.regs.gser + 1 ∧ u.regs.lc = s.regs.lc ∧ u.regs.es = s.regs.es ∧
    u.regs.q = s.regs.q ∧ u.regs.rrb = s.regs.rrb ∧ (st = .s → ∀ j, j < 8 → vget u.seq.latch j none = none) ∧
    (st = .v → ∀ j, j < 8 → vget u.core.vec.latch j none = none)

theorem State.OnCore.startsGroup {t : BitVec 14} {b g : Nat} {lnk : BitVec 14} (h : s.OnCore k r st c)
    (hu : u.OnCore k r st (c'.branched st t b)) (hr : c'.seq.regs st = { c.seq.regs st with gcyc := g, lnk := lnk }) :
    StartsGroup s u st b := by
  unfold StartsGroup
  rw [hu.regs_eq, Core.regs_branched, hr, h.regs_eq, hu.seq_eq, hu.core_eq]
  refine ⟨rfl, rfl, rfl, rfl, rfl, rfl, rfl, ?_, ?_⟩
  · rintro rfl j _
    exact (Core.latch_branched j).1
  · rintro rfl j _
    exact (Core.latch_branched j).2

/-- A branch to a word of the section (R84). -/
theorem State.target_issued {x : Int} (h0 : 0 ≤ x)
    (h1 : x < ((vget s.hdr.csz s.cur.strm.idx 0 : Nat) : Int)) : s.issued.target x = .ok (BitVec.ofInt 14 x) := by
  simp [State.target, State.hdr_issued, h0, h1]

theorem State.relative_issued (ha : (s.m.seq? s.cur).isSome = true) (off : BitVec 18) :
    s.issued.relative off = s.regs.pc.toNat + off.toInt := by
  simp [State.relative, State.regs_issued ha]

/-- CALL and JMPR in S leave the link on its way to a scalar, in no latch (R87). -/
theorem State.OnCore.link_scalar (h : s.OnCore k r .s c) (l : Nat) : ∃ p : Pend,
    (s.link l).OnCore k r .s (c.send p) ∧ p.due = s.ec + 1 ∧ p.latchS = none ∧
      p.writes = [.s (physS s.regs.rrb l) (BitVec.ofNat 64 (s.regs.pc.toNat + 1))] := by
  have hlink : s.link l = s.emit 1 { pend0 with writes := [.s (physS s.regs.rrb l) (BitVec.ofNat 64 (s.regs.pc.toNat + 1))] } := by
    simp only [State.link, h.cur, Agent.strm]
  rw [hlink]
  exact ⟨_, h.emit 1 _, rfl, rfl, rfl⟩

/-- A core with the link of a word of V, M or T in LNK. -/
def Core.setLnk (c : Core) (st : Stream) : Core := { c with seq := c.seq.updRegs st (fun r => { r with lnk := r.pc + 1 }) }

theorem Core.regs_setLnk (c : Core) (st : Stream) :
    (c.setLnk st).seq.regs st = { c.seq.regs st with lnk := (c.seq.regs st).pc + 1 } := c.seq.regs_updRegs_self st _

/-- CALL in V, M and T leaves it in LNK (R87). -/
theorem State.OnCore.link_lnk (h : s.OnCore k r st c) (hs : st ≠ .s) (hl : st ≠ .l) (l : Nat) :
    (s.link l).OnCore k r st (c.setLnk st) := by
  have hlink : s.link l = s.updRegs fun r => { r with lnk := r.pc + 1 } := by
    simp only [State.link, h.cur, Agent.strm]
  rw [hlink]
  exact h.updRegs _

end

section
variable {s : State} {k r : Nat} {st : Stream} {c : Core}

/-- A branch without a link leaves LNK and the results on their way. -/
theorem State.OnCore.branch_issued (h : s.OnCore k r st c) (t : BitVec 14) (b : Nat) :
    let u := s.issued.branch t b
    StartsGroup s u st b ∧ (u.regs.lnk = s.regs.lnk ∧ u.core.seq.pend = s.core.seq.pend) ∧ u.regs.pc = t := by
  intro u
  have hu := h.issued.branch t b
  refine ⟨h.startsGroup hu (c.regs_countEc st), ⟨?_, ?_⟩, ?_⟩
  · rw [hu.regs_eq, Core.regs_branched, Core.regs_countEc, h.regs_eq]
  · rw [hu.core_eq, Core.pend_branched, h.core_eq]
    rfl
  · rw [hu.regs_eq, Core.regs_branched]

/-- A link of S is on its way, and nothing of it is in LNK. -/
theorem State.OnCore.scalarLink_issued (h : s.OnCore k r .s c) (l : Nat) (t : BitVec 14) (b : Nat) :
    let u := (s.issued.link l).branch t b
    StartsGroup s u .s b ∧ u.regs.lnk = s.regs.lnk ∧ ∃ p, u.core.seq.pend = s.core.seq.pend ++ [p] ∧ p.due = s.ec + 1 ∧
      p.latchS = none ∧ p.writes = [.s (physS s.regs.rrb l) (BitVec.ofNat 64 (s.regs.pc.toNat + 1))] := by
  intro u
  obtain ⟨p, hlink, hdue, hlatch, hw⟩ := h.issued.link_scalar l
  have hregs : ((c.countEc .s).send p).seq.regs .s = { c.seq.regs .s with gcyc := (c.seq.regs .s).gcyc + 1 } := c.regs_countEc .s
  have hu := hlink.branch t b
  refine ⟨h.startsGroup hu hregs, ?_, p, ?_, ?_, hlatch, ?_⟩
  · rw [hu.regs_eq, Core.regs_branched, hregs, h.regs_eq]
  · rw [hu.core_eq, Core.pend_branched, h.core_eq]
    rfl
  · rw [hdue, h.ec_issued]
  · rw [hw, State.regs_issued h.isSome_seq?]

/-- A link of V, M or T stands in LNK, and no result of it is on its way. -/
theorem State.OnCore.lnkLink_issued (h : s.OnCore k r st c) (hs : st ≠ .s) (hl : st ≠ .l) (l : Nat) (t : BitVec 14) (b : Nat) :
    let u := (s.issued.link l).branch t b
    StartsGroup s u st b ∧ u.regs.lnk = s.regs.pc + 1 ∧ u.core.seq.pend = s.core.seq.pend := by
  intro u
  have hlink := h.issued.link_lnk hs hl l
  have hregs : ((c.countEc st).setLnk st).seq.regs st =
      { c.seq.regs st with gcyc := (c.seq.regs st).gcyc + 1, lnk := (c.seq.regs st).pc + 1 } := by
    rw [Core.regs_setLnk, Core.regs_countEc]
  have hu := hlink.branch t b
  refine ⟨h.startsGroup hu hregs, ?_, ?_⟩
  · rw [hu.regs_eq, Core.regs_branched, hregs, h.regs_eq]
  · rw [hu.core_eq, Core.pend_branched, h.core_eq]
    rfl

end

/-! ## Taken branches on a Loupe core -/

/-- A word runs on a Loupe context. -/
structure State.OnLoupe (s : State) (d i c : Nat) (q : Seq) : Prop where
  cur : s.cur = .loupe d i c
  there : s.m.seq? (.loupe d i c) = some q

/-- The word with the link written that it names, if it names one. -/
def State.linkOpt (s : State) (x : Option Nat) : State := x.elim s s.link

/-- A scalar side whose only stream goes on at a target, in a new group, after some bubbles. -/
def Seq.branched (q : Seq) (t : BitVec 14) (bubbles : Nat) : Seq :=
  (q.groupSwitch .s).updRegs .l (fun r => { r with pc := t, bub := bubbles })

/-- A scalar side with a link in the register it names, at once (log entry 10). -/
def Seq.linked (q : Seq) (x : Option Nat) (v : Word) : Seq := x.elim q fun l => q.setS (physS (q.regs .l).rrb l) v

theorem Seq.regs_branched (q : Seq) (t : BitVec 14) (b : Nat) : (q.branched t b).regs .l =
    { q.regs .l with gcyc := 0, gser := (q.regs .l).gser + 1, pc := t, bub := b } := by
  have hgroup : (q.groupSwitch .s).regs .l = { q.regs .l with gcyc := 0, gser := (q.regs .l).gser + 1 } :=
    q.regs_updRegs_self .l fun r => { r with gcyc := 0, gser := r.gser + 1 }
  rw [Seq.branched, Seq.regs_updRegs_self, hgroup]

theorem Seq.regs_linked (q : Seq) (x : Option Nat) (v : Word) : (q.linked x v).regs .l = q.regs .l := by
  cases x with
  | none => rfl
  | some l => exact q.setS_regs _ v .l

theorem physS_pos (rrb : BitVec 5) {l : Nat} (h : 0 < l) : physS rrb l ≠ 0 := by unfold physS; split <;> omega

theorem physS_lt (rrb : BitVec 5) (l : Nat) : physS rrb l < 56 := by unfold physS; split <;> omega

theorem Seq.phys_linked (q : Seq) {x : Option Nat} (hx : ∀ l, x = some l → 0 < l) (v : Word) (k : Nat) :
    (q.linked x v).phys k = if x.map (physS (q.regs .l).rrb) = some k then v else q.phys k := by
  cases x with
  | none => rfl
  | some l =>
    simp only [Option.map_some, Option.some.injEq]
    split
    · next hk =>
      subst hk
      exact q.phys_setS_self _ v (physS_pos _ (hx l rfl)) (physS_lt _ l)
    · next hk => exact q.phys_setS_ne _ k v (Ne.symm hk)

section
variable {s : State} {d i c : Nat} {q : Seq}

theorem State.OnLoupe.of_cur (hc : s.cur = .loupe d i c) (ha : (s.m.seq? s.cur).isSome = true) : s.OnLoupe d i c s.seq := by
  obtain ⟨q, hq⟩ := Option.isSome_iff_exists.mp ha
  exact ⟨hc, by rw [← hc, State.seq, hq]; rfl⟩

variable (h : s.OnLoupe d i c q)
include h

theorem State.OnLoupe.seq_eq : s.seq = q := by rw [State.seq, h.cur, h.there]; rfl

theorem State.OnLoupe.regs_eq : s.regs = q.regs .l := by rw [State.regs, h.seq_eq, h.cur]; rfl

theorem State.OnLoupe.updSeq (f : Seq → Seq) : (s.updSeq f).OnLoupe d i c (f q) := by
  refine ⟨h.cur, ?_⟩
  rw [State.updSeq, h.cur, Mach.seq?_updSeq_self, h.there]
  rfl

theorem State.OnLoupe.issued : s.issued.OnLoupe d i c (q.countEc .l) := by
  have hseq := s.seq?_issued
  rw [h.cur, h.there] at hseq
  exact ⟨h.cur, hseq⟩

theorem State.OnLoupe.linkOpt (x : Option Nat) :
    (s.linkOpt x).OnLoupe d i c (q.linked x (BitVec.ofNat 64 ((q.regs .l).pc.toNat + 1))) := by
  cases x with
  | none => exact h
  | some l =>
    have hland : s.link l = s.updSeq fun q' => q'.setS (physS (q.regs .l).rrb l) (BitVec.ofNat 64 ((q.regs .l).pc.toNat + 1)) := by
      simp only [State.link, h.cur, Agent.strm, State.emit, h.regs_eq]
      rfl
    have hlink := h.updSeq fun q' => q'.setS (physS (q.regs .l).rrb l) (BitVec.ofNat 64 ((q.regs .l).pc.toNat + 1))
    exact (show (s.linkOpt (some l)) = _ from hland) ▸ hlink

theorem State.OnLoupe.branch (t : BitVec 14) (b : Nat) : (s.branch t b).OnLoupe d i c (q.branched t b) := by
  have hsw : s.groupSwitch.OnLoupe d i c (q.groupSwitch .s) := by
    simpa only [State.groupSwitch, h.cur] using h.updSeq fun q => q.groupSwitch .s
  simpa only [State.branch, State.updRegs, hsw.cur, Agent.strm, Seq.branched] using
    hsw.updSeq fun q => q.updRegs .l fun r => { r with pc := t, bub := b }

/-- A branch of a Loupe program, with its link in its register at once. -/
theorem State.OnLoupe.branch_issued {x : Option Nat} (hx : ∀ l, x = some l → 0 < l) (t : BitVec 14) (b : Nat) :
    let u := (s.issued.linkOpt x).branch t b
    u.regs.pc = t ∧ u.regs.bub = b ∧ u.regs.gcyc = 0 ∧ u.regs.gser = s.regs.gser + 1 ∧
      (∀ j, j < 8 → vget u.seq.latch j none = none) ∧
      ∀ k, k < 56 → u.seq.phys k =
        if x.map (physS s.regs.rrb) = some k then BitVec.ofNat 64 (s.regs.pc.toNat + 1) else s.seq.phys k := by
  intro u
  have hu := (h.issued.linkOpt x).branch t b
  have hcount : (q.countEc .l).regs .l = { q.regs .l with gcyc := (q.regs .l).gcyc + 1 } := q.regs_updRegs_self .l _
  rw [hu.regs_eq, hu.seq_eq, Seq.regs_branched, Seq.regs_linked, hcount, h.regs_eq, h.seq_eq]
  refine ⟨rfl, rfl, rfl, rfl, fun j _ => vget_replicate_default 8 j none, fun k _ => ?_⟩
  have hphys := (q.countEc .l).phys_linked hx (BitVec.ofNat 64 ((q.regs .l).pc.toNat + 1)) k
  rw [hcount] at hphys
  exact hphys

end

/-! ## The words that branch (R86-R88) -/

section
variable {s : State} {g : BitVec 4} {n : Bool} {off : BitVec 18} {t l : BitVec 6}

/-- BR to a word of the section. -/
theorem execBr_taken (h : Passes s [] g n) (h0 : 0 ≤ s.regs.pc.toNat + off.toInt)
    (h1 : s.regs.pc.toNat + off.toInt < ((vget s.hdr.csz s.cur.strm.idx 0 : Nat) : Int)) :
    execBr g n off s = .next (s.issued.branch (BitVec.ofInt 14 (s.regs.pc.toNat + off.toInt)) 1) := by
  refine State.jump_runs h ?_
  rw [State.relative_issued h.1, State.target_issued h0 h1]
  rfl

/-- CALL to a word of the section. -/
theorem execCall_taken (h : Passes s (linkNeed s 1) g n) (h0 : 0 ≤ s.regs.pc.toNat + off.toInt)
    (h1 : s.regs.pc.toNat + off.toInt < ((vget s.hdr.csz s.cur.strm.idx 0 : Nat) : Int)) :
    execCall g n off s = .next ((s.issued.link 1).branch (BitVec.ofInt 14 (s.regs.pc.toNat + off.toInt)) 2) := by
  refine State.jump_runs h ?_
  rw [State.relative_issued h.1, State.target_issued h0 h1]
  rfl

theorem State.target_issued_nat {v : Nat} (h : v < vget s.hdr.csz s.cur.strm.idx 0) : s.issued.target v = .ok (BitVec.ofNat 14 v) := by
  rw [State.target_issued (Int.natCast_nonneg v) (by exact_mod_cast h), BitVec.ofInt_natCast]

/-- JMPR by a scalar of S or of a Loupe program, with its link, if it names one. -/
theorem execJmpr_scalar (hs : s.cur.strm = .s ∨ s.cur.strm = .l)
    (h : Passes s (sn ([t.toNat] ++ (if l = 0 then [] else [l.toNat]))) g n)
    (h1 : (s.issued.rd t.toNat).toNat < vget s.hdr.csz s.cur.strm.idx 0) :
    execJmpr g n t l s = .next ((s.issued.linkOpt (if l = 0 then none else some l.toNat)).branch
      (BitVec.ofNat 14 (s.issued.rd t.toNat).toNat) 2) := by
  refine State.jump_runs h ?_
  rcases hs with hs | hs
  all_goals
    simp only [State.issued_cur, hs, Bool.not_true, Bool.and_false, Bool.false_eq_true, if_false, Bool.true_and]
    rw [State.target_issued_nat h1]
    by_cases hl : l = 0
    · subst hl
      rfl
    · rw [if_neg hl, if_pos (by simpa using hl)]
      rfl

/-- JMPR by LNK, in V, M and T. -/
theorem execJmpr_lnk (hs : s.cur.strm = .v ∨ s.cur.strm = .m ∨ s.cur.strm = .t) (h : Passes s (sn [0]) g n)
    (h1 : s.regs.lnk.toNat < vget s.hdr.csz s.cur.strm.idx 0) :
    execJmpr g n 0 0 s = .next (s.issued.branch s.regs.lnk 2) := by
  have hlnk : s.issued.regs.lnk = s.regs.lnk := by rw [State.regs_issued h.1]
  refine State.jump_runs h ?_
  rcases hs with hs | hs | hs
  all_goals
    simp only [State.issued_cur, hs, hlnk]
    refine (congrArg (· >>= _) (State.target_issued_nat h1)).trans ?_
    rw [BitVec.ofNat_toNat, BitVec.setWidth_eq]
    rfl

end

theorem link_pos {l : BitVec 6} : ∀ k, (if l = 0 then none else some l.toNat) = some k → 0 < k := by
  intro k hk
  split at hk
  · cases hk
  · next hl =>
    cases hk
    exact Nat.pos_of_ne_zero fun h0 => hl (BitVec.eq_of_toNat_eq h0)

/-- Settles O27: each word is a link, if it leaves one, and then a branch: a group switch, the target and the bubbles. -/
theorem takenBranches : Obligations.TakenBranches := by
  intro s g n off t l k r st hc ha tgt new link no ok
  have h := State.OnCore.of_cur hc ha
  have hstrm : s.cur.strm = st := by rw [hc]; rfl
  simp only [exec_br, exec_call, exec_jmpr]
  refine ⟨fun hp hok => ?br, fun hp hl hok => ?call, fun hs hp hv => ?jmpr, fun hs hp hv => ?lnk, fun q d i c hq => ?loupe⟩
  case br =>
    obtain ⟨hnew, hno, -⟩ := h.branch_issued (BitVec.ofInt 14 tgt) 1
    exact ⟨_, execBr_taken hp hok.1 (hstrm ▸ hok.2), hnew, hno⟩
  case call =>
    have hneed : linkNeed s 1 = if st = .s then sn [1] else [] := by
      cases st <;> simp_all [linkNeed]
    refine ⟨_, execCall_taken (hneed ▸ hp) hok.1 (hstrm ▸ hok.2), ?_⟩
    by_cases hs : st = .s
    · subst hs
      obtain ⟨hnew, hlink⟩ := h.scalarLink_issued 1 (BitVec.ofInt 14 tgt) 2
      exact ⟨hnew, hlink⟩
    · obtain ⟨hnew, hlink⟩ := h.lnkLink_issued hs hl 1 (BitVec.ofInt 14 tgt) 2
      exact ⟨hnew, by simpa only [link, if_neg hs] using hlink⟩
  case jmpr =>
    subst hs
    refine ⟨_, execJmpr_scalar (.inl hstrm) hp (hstrm ▸ hv), ?_⟩
    by_cases hl : l = 0
    · obtain ⟨hnew, hno, -⟩ := h.branch_issued (BitVec.ofNat 14 (s.issued.rd t.toNat).toNat) 2
      simpa only [hl, if_true] using ⟨hnew, hno⟩
    · obtain ⟨hnew, hlink⟩ := h.scalarLink_issued l.toNat (BitVec.ofNat 14 (s.issued.rd t.toNat).toNat) 2
      simpa only [hl, if_false] using ⟨hnew, hlink⟩
  case lnk =>
    obtain ⟨hnew, hno, hpc⟩ := h.branch_issued s.regs.lnk 2
    exact ⟨_, execJmpr_lnk (hstrm ▸ hs) hp (hstrm ▸ hv), hnew, hno, hpc⟩
  case loupe =>
    have hloupe : q.cur.strm = .l := by rw [hq]; rfl
    refine ⟨fun h0 h1 => ⟨fun hp => ?_, fun hp => ?_⟩, fun hp hv => ?_⟩
    · have hgoes := (State.OnLoupe.of_cur hq hp.1).branch_issued (x := none) nofun
        (BitVec.ofInt 14 (q.regs.pc.toNat + off.toInt)) 1
      exact ⟨_, execBr_taken hp h0 (hloupe ▸ h1), hgoes⟩
    · have hneed : linkNeed q 1 = sn [1] := by rw [linkNeed, hloupe]
      have hgoes := (State.OnLoupe.of_cur hq hp.1).branch_issued (x := some 1) (by simp)
        (BitVec.ofInt 14 (q.regs.pc.toNat + off.toInt)) 2
      exact ⟨_, execCall_taken (hneed ▸ hp) h0 (hloupe ▸ h1), hgoes⟩
    · have hgoes := (State.OnLoupe.of_cur hq hp.1).branch_issued (link_pos (l := l)) (BitVec.ofNat 14 (q.issued.rd t.toNat).toNat) 2
      exact ⟨_, execJmpr_scalar (.inr hloupe) hp (hloupe ▸ hv), hgoes⟩

end Sys2Proof.Machine
end

section
/-! PROOFS. The words that end, hold or join a stream (R55, R73, R92-R96, R204; log entries 48 and 71). -/
namespace Sys2Proof.Machine

/-! ## What a word finds of its place: job, virtual device, groups and joins -/

/-- An agent finds in `k` the job, the virtual devices and the groups that it finds in `m`. -/
structure Mach.SamePlace (a : Agent) (m k : Mach) : Prop where
  job : k.jobOf a = m.jobOf a
  vdOf : k.vdOf a = m.vdOf a
  vds : k.vds = m.vds
  inGroup : ∀ grp, k.inGroup a grp = m.inGroup a grp

theorem Mach.SamePlace.group {a : Agent} {m k : Mach} (h : m.SamePlace a k) (g : Nat) : k.group a g = m.group a g := by
  simp only [Mach.group, h.job, h.vdOf, Mach.vd_of_vds h.vds]

theorem Mach.SamePlace.fresh {a : Agent} {m k : Mach} (h : m.SamePlace a k) : m.SamePlace a k.fresh := by
  obtain ⟨hjob, hvd, hvds, hgrp⟩ := h
  cases a <;> exact ⟨hjob, hvd, hvds, hgrp⟩

theorem Mach.gang?_of_gangs {m k : Mach} (h : m.gangs = k.gangs) (g : Nat) : m.gang? g = k.gang? g := congrArg (tget · g) h

theorem Mach.core?_of_gangs {m k : Mach} (h : m.gangs = k.gangs) (g r : Nat) : m.core? g r = k.core? g r := by
  simp only [Mach.core?, Mach.gang?_of_gangs h]

theorem Mach.ctx?_of_dies {m k : Mach} (h : m.dies = k.dies) (d i c : Nat) : m.ctx? d i c = k.ctx? d i c := by
  simp only [Mach.ctx?, Mach.loupe?, h]

theorem Mach.samePlace_updCore (m : Mach) (g r : Nat) (st : Stream) (f : Core → Core) :
    m.SamePlace (.core g r st) (m.updCore g r f) where
  job := by
    simp only [Mach.jobOf, Mach.gang?_updCore_self, Option.bind_map]
    rfl
  vdOf := by
    simp only [Mach.vdOf, Mach.gang?_updCore_self, Option.map_map]
    rfl
  vds := rfl
  inGroup grp := by
    have hshape : (m.updCore g r f).gangShape g = m.gangShape g := by
      simp only [Mach.gangShape, Mach.gang?_updCore_self, Option.map_map]
      cases htget : tget m.away g with
      | some a => simp only [Mach.updCore_away, htget]
      | none =>
        simp only [Mach.updCore_away, htget]
        exact congrArg (fun f => (m.gang? g).map f) (funext fun x => by simp [Gang.updCore])
    simp only [Mach.inGroup, hshape]

theorem Mach.samePlace_updCtx (m : Mach) (d i c : Nat) {f : LoupeCtx → LoupeCtx} (hj : ∀ x, (f x).job = x.job)
    (hv : ∀ x, (f x).vd = x.vd) : m.SamePlace (.loupe d i c) (m.updCtx d i c f) where
  job := by
    simp only [Mach.jobOf, Mach.ctx?_updCtx_self, Option.bind_map, Function.comp_def, hj]
    rfl
  vdOf := by simp only [Mach.vdOf, Mach.ctx?_updCtx_self, Option.map_map, Function.comp_def, hv]
  vds := rfl
  inGroup _ := rfl

theorem Mach.SamePlace.trans {a : Agent} {m k l : Mach} (h : m.SamePlace a k) (h' : k.SamePlace a l) : m.SamePlace a l :=
  ⟨h'.job.trans h.job, h'.vdOf.trans h.vdOf, h'.vds.trans h.vds, fun grp => (h'.inGroup grp).trans (h.inGroup grp)⟩

theorem State.samePlace_issued (s : State) : s.m.SamePlace s.cur s.issued.m := by
  cases hc : s.cur with
  | core g r st =>
    rw [State.issued_core hc, hc]
    exact (s.m.samePlace_updCore g r st _).fresh
  | loupe d i c =>
    rw [State.issued_loupe hc, hc]
    have hcount := s.m.samePlace_updCtx d i c (f := fun x => { x with seq := x.seq.countEc .l }) (fun _ => rfl) fun _ => rfl
    have hissue := Mach.samePlace_updCtx (s.m.updCtx d i c fun x => { x with seq := x.seq.countEc .l }) d i c
      (f := fun x => { x with nextSeq := x.nextSeq + 1 }) (fun _ => rfl) fun _ => rfl
    exact (hcount.trans hissue).fresh

theorem State.vd_issued (s : State) : s.issued.vd = s.vd := s.samePlace_issued.vdOf

/-! ## Joins (R55, R92) -/

/-- Number of the first group of the job's window, for the job of the word. -/
def State.grpBase (s : State) : Nat := ((s.m.jobOf s.cur).map (·.grpBase)).getD 0

/-- No other join, and none of the other form, is open of a group that the core of the word is in (R92). -/
def State.JoinFree (s : State) (grp : Nat) (fin : Bool) : Prop :=
  ∀ p ∈ (s.m.vd s.vd).joins, s.grpBase ≤ p.1 → p.1 < s.grpBase + s.hdr.ngrp →
    s.m.inGroup s.cur (s.m.group s.cur (p.1 - s.grpBase)) = true → p.1 = s.grpBase + grp ∧ p.2.fin = fin

/-- The core of the word is in a group. -/
def State.Member (s : State) (grp : Nat) : Prop := s.m.inGroup s.cur (s.m.group s.cur grp) = true

theorem State.grpBase_issued (s : State) : s.issued.grpBase = s.grpBase := by
  simp only [State.grpBase, State.issued_cur, s.samePlace_issued.job]

theorem State.member_issued {s : State} {grp : Nat} : s.issued.Member grp ↔ s.Member grp := by
  simp only [State.Member, State.issued_cur, s.samePlace_issued.inGroup, s.samePlace_issued.group]

theorem State.joinFree_issued {s : State} {grp : Nat} {fin : Bool} : s.issued.JoinFree grp fin ↔ s.JoinFree grp fin := by
  simp only [State.JoinFree, s.vd_issued, Mach.vd_of_vds s.samePlace_issued.vds, s.grpBase_issued, s.hdr_issued, State.issued_cur,
    s.samePlace_issued.inGroup, s.samePlace_issued.group]

/-- The same as a test. -/
def State.joinFree? (s : State) (grp : Nat) (fin : Bool) : Bool :=
  (s.m.vd s.vd).joins.all fun p => (p.1 == s.grpBase + grp && p.2.fin == fin) ||
    !(decide (s.grpBase ≤ p.1) && decide (p.1 < s.grpBase + s.hdr.ngrp) && s.m.inGroup s.cur (s.m.group s.cur (p.1 - s.grpBase)))

theorem State.joinFree?_iff {s : State} {grp : Nat} {fin : Bool} : s.joinFree? grp fin = true ↔ s.JoinFree grp fin := by
  simp only [State.joinFree?, List.all_eq_true, State.JoinFree]
  refine forall₂_congr fun p _ => ?_
  simp only [Bool.or_eq_true, Bool.and_eq_true, beq_iff_eq, Bool.not_eq_true', ← Bool.not_eq_true, decide_eq_true_eq]
  tauto

/-- The join of a group with one more stream arrived at it. -/
def State.joined (s : State) (grp : Nat) (fin : Bool) : Join :=
  let j := (tget (s.m.vd s.vd).joins (s.grpBase + grp)).getD { fin := fin, arrived := [] }
  { j with arrived := j.arrived ++ [(s.gno, s.rank, s.cur.strm)], pv := j.pv.merge s.snap }

/-- The package with the stream of the word arrived at the join of a group. -/
def State.joinedMach (s : State) (grp : Nat) (fin : Bool) : Mach :=
  (s.m.updVd s.vd fun v => { v with joins := tset (s.m.vd s.vd).joins (s.grpBase + grp) (s.joined grp fin) }).bumpVg s.vd

/-- The stream of the word arrived at the join of a group. -/
def State.arriveAt (s : State) (grp : Nat) (fin : Bool) : State :=
  ((State.updCore { s with m := s.joinedMach grp fin } Core.bump).updRegs fun r =>
    { r with st := .arrived grp fin, pc := if fin then r.pc else r.pc + 1 }).updIss fun i => { i with exempt := i.exempt + 1 }

/-- An RDV is its three tests and then the arrival. -/
theorem State.rendezvous_eq (s : State) (grp : Nat) (fin : Bool) : s.rendezvous grp fin = (do
    need (s.m.inGroup s.cur (s.m.group s.cur grp)) 0x07
    need (s.joinFree? grp fin) 0x07
    need (fin || s.falls) 0x02
    pure (s.arriveAt grp fin)) := rfl

theorem State.rendezvous_ok {s : State} {grp : Nat} {fin : Bool} (hm : s.Member grp) (hj : s.JoinFree grp fin)
    (hf : (fin || s.falls) = true) : s.rendezvous grp fin = .ok (s.arriveAt grp fin) := by
  rw [State.Member] at hm
  rw [s.rendezvous_eq, hm, State.joinFree?_iff.mpr hj, hf]
  rfl

/-- An RDV of a stream that is no member, or that another open join concerns. -/
theorem State.rendezvous_stops {s : State} {grp : Nat} {fin : Bool} (h : ¬ s.Member grp ∨ ¬ s.JoinFree grp fin) :
    s.rendezvous grp fin = .error (.fault { cause := 0x07 }) := by
  rw [s.rendezvous_eq]
  cases hm : s.m.inGroup s.cur (s.m.group s.cur grp) with
  | false => rfl
  | true =>
    have hfree := mt State.joinFree?_iff.mp (h.resolve_left fun hn => hn hm)
    rw [Bool.not_eq_true] at hfree
    rw [hfree]
    rfl

/-! ## A stream that has arrived -/

section
variable {s : State} {k r : Nat} {st : Stream} {c : Core}

theorem State.OnCore.withMach (h : s.OnCore k r st c) {m : Mach} (hg : m.gangs = s.m.gangs) : State.OnCore { s with m := m } k r st c :=
  ⟨h.cur, (Mach.core?_of_gangs hg k r).trans h.there⟩

theorem State.OnCore.arriveAt (h : s.OnCore k r st c) (grp : Nat) (fin : Bool) : (s.arriveAt grp fin).OnCore k r st
    { c.bump with seq := c.bump.seq.updRegs st fun x => { x with st := .arrived grp fin, pc := if fin then x.pc else x.pc + 1 } } := by
  have hm := ((h.withMach (m := s.joinedMach grp fin) rfl).updCore Core.bump).updRegs
    fun x => { x with st := .arrived grp fin, pc := if fin then x.pc else x.pc + 1 }
  exact ⟨hm.cur, hm.there⟩

/-- The stream stands arrived, with the PC of log entry 71. -/
theorem State.OnCore.regs_arriveAt (h : s.OnCore k r st c) (grp : Nat) (fin : Bool) :
    (s.arriveAt grp fin).regs.st = .arrived grp fin ∧ (s.arriveAt grp fin).regs.pc = if fin then s.regs.pc else s.regs.pc + 1 := by
  rw [(h.arriveAt grp fin).regs_eq, Seq.regs_updRegs_self, h.regs_eq]
  exact ⟨rfl, rfl⟩

theorem State.OnCore.vds_arriveAt (h : s.OnCore k r st c) (grp : Nat) (fin : Bool) :
    (s.arriveAt grp fin).m.vds = (s.joinedMach grp fin).vds := by
  simp [State.arriveAt, State.updCore, h.cur, State.updRegs, State.updSeq, Mach.updSeq]

/-- The join stands open with the stream in it. -/
theorem State.OnCore.joins_arriveAt (h : s.OnCore k r st c) (hv : (s.m.vd? s.vd).isSome = true) (grp : Nat) (fin : Bool) :
    tget ((s.arriveAt grp fin).m.vd s.vd).joins (s.grpBase + grp) = some (s.joined grp fin) := by
  rw [Mach.vd_of_vds (h.vds_arriveAt grp fin), State.joinedMach, Mach.bumpVg, Mach.vd_updVd (by simp [hv]), Mach.vd_updVd hv]
  exact tget_tset_self _ _ _

end

/-! ## An RDV, and the words that only leave a request -/

section
variable {s : State} {decls : List Decl} {body : State → Except Stop State}

/-- A word without a guard code that leaves the PC itself. -/
theorem State.jump_runs_unguarded {t : State} (h : Passes s decls 0) (hb : body s.issued = .ok t) :
    s.jump decls true body = .next t := by
  have hrun := State.jump_runs h hb
  rwa [h.2.2] at hrun

theorem State.jump_stops_unguarded {e : Stop} (h : Passes s decls 0) (hb : body s.issued = .error e) :
    s.jump decls true body = .next (s.stopped e) := by
  have hstop := State.jump_stops h hb
  rwa [h.2.2] at hstop

/-- A word without guard and declarations that takes effect. -/
theorem State.word_runs_plain {t : State} (ha : (s.m.seq? s.cur).isSome = true) (hf : s.falls = true) (hb : body s = .ok t) :
    s.word [] true body = .next t.advance := by
  obtain ⟨q, hq⟩ := Option.isSome_iff_exists.mp ha
  simp [State.word, hq, hb, State.fall, hf]

end

/-- The stream of the word stands arrived at a join, which it has opened if it is the first there (R55). -/
def StandsArrived (s : State) (grp : Nat) (fin : Bool) (u : State) : Prop :=
  ∀ a r st, s.cur = .core a r st → u.regs.st = .arrived grp fin ∧ u.regs.pc = (if fin then s.regs.pc else s.regs.pc + 1) ∧
    ∃ p, tget (u.m.vd s.vd).joins (s.grpBase + grp) = some p ∧ p.fin = fin ∧
      p.arrived = ((tget (s.m.vd s.vd).joins (s.grpBase + grp)).map (·.arrived)).getD [] ++ [(a, r, st)]

theorem mem_of_tget {α : Type} {t : Tab α} {k : Nat} {a : α} (h : tget t k = some a) : (k, a) ∈ t := by
  induction t with
  | nil => cases h
  | cons p r ih =>
    unfold tget at h
    split at h
    · next hk =>
      cases h
      exact hk ▸ List.mem_cons_self
    · exact List.mem_cons_of_mem _ (ih h)

/-- A join that is open of the group an RDV names has the form of the RDV. -/
theorem State.JoinFree.fin_eq {s : State} {grp : Nat} {fin : Bool} {j : Join} (h : s.JoinFree grp fin) (hm : s.Member grp)
    (hn : grp < s.hdr.ngrp) (hj : tget (s.m.vd s.vd).joins (s.grpBase + grp) = some j) : j.fin = fin :=
  (h (_, j) (mem_of_tget hj) (Nat.le_add_right _ _) (Nat.add_lt_add_left hn _) (by rwa [Nat.add_sub_cancel_left])).2

theorem State.OnCore.joined_eq {s : State} {k r : Nat} {st : Stream} {c : Core} {grp : Nat} {fin : Bool} (h : s.OnCore k r st c)
    (hfree : s.JoinFree grp fin) (hm : s.Member grp) (hn : grp < s.hdr.ngrp) : (s.joined grp fin).fin = fin ∧
      (s.joined grp fin).arrived = ((tget (s.m.vd s.vd).joins (s.grpBase + grp)).map (·.arrived)).getD [] ++ [(k, r, st)] := by
  have hwho : (s.gno, s.rank, s.cur.strm) = (k, r, st) := by simp [State.gno, State.rank, h.cur, Agent.strm]
  simp only [State.joined, hwho]
  cases hj : tget (s.m.vd s.vd).joins (s.grpBase + grp) with
  | none => exact ⟨rfl, rfl⟩
  | some j => exact ⟨hfree.fin_eq hm hn hj, rfl⟩

/-- An RDV of a member, which no open join keeps from it. -/
theorem State.OnCore.standsArrived {s : State} {k r : Nat} {st : Stream} {c : Core} {grp : Nat} {fin : Bool} (h : s.OnCore k r st c)
    (hv : (s.m.vd? s.vd).isSome = true) (hfree : s.JoinFree grp fin) (hm : s.Member grp) (hn : grp < s.hdr.ngrp) :
    StandsArrived s grp fin (s.arriveAt grp fin) := by
  intro a r' st' hc
  obtain ⟨rfl, rfl, rfl⟩ : k = a ∧ r = r' ∧ st = st' := by simpa [h.cur] using hc
  obtain ⟨hst, hpc⟩ := h.regs_arriveAt grp fin
  obtain ⟨hfin, harr⟩ := h.joined_eq hfree hm hn
  exact ⟨hst, hpc, _, h.joins_arriveAt hv grp fin, hfin, harr⟩

/-- The ec of a word changes nothing of where its stream will stand. -/
theorem StandsArrived.of_issued {s u : State} {grp : Nat} {fin : Bool} (ha : (s.m.seq? s.cur).isSome = true)
    (h : StandsArrived s.issued grp fin u) : StandsArrived s grp fin u := by
  simpa only [StandsArrived, State.issued_cur, State.regs_issued ha, s.vd_issued, Mach.vd_of_vds s.samePlace_issued.vds,
    s.grpBase_issued] using h

theorem State.rdv_goesTo {s : State} {a r : Nat} {st : Stream} {grp : Nat} {fin : Bool} (hc : s.cur = .core a r st)
    (hv : (s.m.vd? s.vd).isSome = true) (hp : Passes s [.name (.grp grp)] 0) (hm : s.Member grp) (hfree : s.JoinFree grp fin)
    (hf : (fin || s.falls) = true) :
    GoesTo (s.jump [.name (.grp grp)] true fun s => s.rendezvous grp fin) (StandsArrived s grp fin) := by
  have hcore : (s.m.core? a r).isSome = true := by simpa [hc, Mach.seq?] using hp.1
  have hn : grp < s.hdr.ngrp := by simpa [Decl.ok, Need.ok] using hp.2.1
  have hfalls : s.issued.falls = s.falls := by
    simp only [State.falls, State.regs_issued hp.1, s.hdr_issued, State.issued_cur]
  refine ⟨_, State.jump_runs_unguarded hp (State.rendezvous_ok (State.member_issued.mpr hm) (State.joinFree_issued.mpr hfree)
    (hfalls ▸ hf)), .of_issued hp.1 ?_⟩
  refine (State.OnCore.of_cur hc hcore).issued.standsArrived ?_ (State.joinFree_issued.mpr hfree) (State.member_issued.mpr hm)
    (s.hdr_issued ▸ hn)
  rw [s.vd_issued, Mach.vd?_of_vds s.samePlace_issued.vds, hv]

theorem State.rdv_stops {s : State} {grp : Nat} {fin : Bool} (hp : Passes s [.name (.grp grp)] 0)
    (h : ¬ s.Member grp ∨ ¬ s.JoinFree grp fin) :
    s.jump [.name (.grp grp)] true (fun s => s.rendezvous grp fin) = .next (s.raise { cause := 0x07 }) :=
  State.jump_stops_unguarded (e := .fault { cause := 0x07 }) hp
    (State.rendezvous_stops (h.imp (mt State.member_issued.mp) (mt State.joinFree_issued.mp)))

/-! ## The end of a stream (R93) -/

/-- The gangs, the jobs and the dies are the same. -/
def Mach.SameCores (m k : Mach) : Prop := k.gangs = m.gangs ∧ k.jobs = m.jobs ∧ k.dies = m.dies

theorem Mach.sameCores_leaveBar (m : Mach) (vd k : Nat) (a : Agent) (bid : Nat) (killed : Bool) :
    m.SameCores (m.leaveBar vd k a bid killed) := by
  unfold Mach.leaveBar
  dsimp only
  split
  · split <;> exact ⟨rfl, rfl, rfl⟩
  · exact ⟨rfl, rfl, rfl⟩

/-- A stream that leaves its barriers leaves cores, jobs and Loupe cores as they are. -/
theorem Mach.sameCores_leaveBars (m : Mach) (j : Job) (a : Agent) (killed : Bool) : m.SameCores (m.leaveBars j a killed) := by
  refine foldl_keeps (P := m.SameCores) ⟨rfl, rfl, rfl⟩ fun k bid hk => ite_keeps ?_ hk
  obtain ⟨hg, hj, hd⟩ := k.sameCores_leaveBar j.vd (j.barBase + bid) a bid killed
  obtain ⟨hg', hj', hd'⟩ := hk
  exact ⟨hg.trans hg', hj.trans hj', hd.trans hd'⟩

/-- What an EXIT notes of itself (R93). -/
def State.exitRec (s : State) (r : Nat) (st : Stream) (code : BitVec 16) : ExitRec :=
  { ec := s.ec, strm := st.idx, rank := r, gang := s.gang.idx.toNat, code := code }

section
variable {s : State} {g : BitVec 4} {n : Bool} {code : BitVec 16}

/-- EXIT of a gang's stream: it has left its barriers, it ends, and its code is noted. -/
theorem execExit_core {k r : Nat} {st : Stream} (hc : s.cur = .core k r st) (hp : Passes s [] g n) :
    ∃ m, s.issued.m.SameCores m ∧ execExit g n code s =
      .next { s.issued with m := (m.updCore k r (·.endStream st)).noteExit k (s.issued.exitRec r st code) } := by
  cases hj : s.issued.m.jobOf s.issued.cur with
  | none =>
    refine ⟨_, ⟨rfl, rfl, rfl⟩, State.jump_runs hp ?_⟩
    rw [State.issued_cur, hc] at hj
    simp only [State.issued_cur, hc, hj]
    rfl
  | some j =>
    rw [State.issued_cur, hc] at hj
    by_cases hs : st = .s
    · subst hs
      refine ⟨_, Mach.sameCores_leaveBars _ j s.issued.cur false, State.jump_runs hp ?_⟩
      simp only [State.issued_cur, hc, hj]
      rfl
    · refine ⟨_, ⟨rfl, rfl, rfl⟩, State.jump_runs hp ?_⟩
      cases st with
      | s => exact absurd rfl hs
      | _ =>
        simp only [State.issued_cur, hc]
        rfl

/-- EXIT of a Loupe program: its context holds the code. -/
theorem execExit_loupe {d i c : Nat} (hc : s.cur = .loupe d i c) (hp : Passes s [] g n) :
    ∃ m, s.issued.m.SameCores m ∧ execExit g n code s =
      .next { s.issued with m := m.updCtx d i c fun x => { x with run := .ended, exit := code } } := by
  cases hj : s.issued.m.jobOf s.issued.cur with
  | none =>
    refine ⟨_, ⟨rfl, rfl, rfl⟩, State.jump_runs hp ?_⟩
    rw [State.issued_cur, hc] at hj
    simp only [State.issued_cur, hc, hj]
  | some j =>
    refine ⟨_, Mach.sameCores_leaveBars _ j s.issued.cur false, State.jump_runs hp ?_⟩
    rw [State.issued_cur, hc] at hj
    simp only [State.issued_cur, hc, hj]

end

theorem Mach.gangs_noteExit (m : Mach) (g : Nat) (x : ExitRec) : (m.noteExit g x).gangs = m.gangs := by
  unfold Mach.noteExit
  split
  · rfl
  · exact ite_keeps (P := fun k : Mach => k.gangs = m.gangs) rfl rfl

/-- The code of a job once one more EXIT of it is noted. -/
def Job.exitAfter (j : Job) (x : ExitRec) : Option ExitRec :=
  if x.code = 0 then j.exit else some (match j.exit with | none => x | some o => o.first x)

theorem Mach.exit_noteExit (m : Mach) (g r : Nat) (st : Stream) (x : ExitRec) :
    ((m.noteExit g x).jobOf (.core g r st)).map (·.exit) = (m.jobOf (.core g r st)).map (·.exitAfter x) := by
  unfold Mach.noteExit Job.exitAfter
  split
  · next hg => simp only [Mach.jobOf, hg, Option.bind_none, Option.map_none]
  · next y hg =>
    by_cases hx : x.code = 0
    · simp only [hx, if_true]
    · simp only [hx, if_false, Mach.jobOf, Mach.gang?, Mach.updJob_gangs]
      rw [show tget m.gangs g = some y from hg]
      simp only [Option.bind_some, Mach.job?_updJob_self, Option.map_map, Function.comp_def] <;> rfl

theorem Core.regs_endStream (c : Core) (st : Stream) :
    (c.endStream st).seq.regs st = { c.seq.regs st with st := .ended } := by
  have hseq : (c.endStream st).seq = c.seq.updRegs st fun x => { x with st := .ended } := by
    unfold Core.endStream
    exact ite_keeps (P := fun k : Core => k.seq = c.seq.updRegs st fun x => { x with st := .ended }) rfl rfl
  rw [hseq, Seq.regs_updRegs_self]

/-- The package once the stream of the word has ended, from one in which it has left its barriers. -/
def State.ended (s : State) (k r : Nat) (st : Stream) (code : BitVec 16) (m : Mach) : State :=
  { s.issued with m := (m.updCore k r (·.endStream st)).noteExit k (s.issued.exitRec r st code) }

section
variable {s : State} {k r : Nat} {st : Stream} {c : Core} {m : Mach} (h : s.OnCore k r st c) (hm : s.issued.m.SameCores m)
  (code : BitVec 16)
include h

theorem State.OnCore.exitRec_issued : s.issued.exitRec r st code = s.exitRec r st code := by
  have hgang : s.issued.m.gang? k = (s.m.gang? k).map fun x => x.updCore r (·.countEc st) := by
    rw [State.issued_core h.cur, h.cur]
    exact s.m.gang?_updCore_self k r _
  have hidx : s.issued.gang.idx = s.gang.idx := by
    simp only [State.gang, State.issued_cur, h.cur, hgang]
    cases s.m.gang? k <;> rfl
  simp only [State.exitRec, h.ec_issued, hidx]

include hm

theorem State.OnCore.ended : (s.ended k r st code m).OnCore k r st ((c.countEc st).endStream st) := by
  refine ⟨h.cur, ?_⟩
  have hcore : (s.ended k r st code m).m.core? k r = (m.updCore k r (·.endStream st)).core? k r :=
    Mach.core?_of_gangs (Mach.gangs_noteExit _ _ _) k r
  have hsame : m.core? k r = some (c.countEc st) := (h.issued.withMach hm.1).there
  rw [hcore, Mach.core?_updCore_self, hsame]
  rfl

theorem State.OnCore.gang?_ended {b : Nat} (hb : b ≠ k) : (s.ended k r st code m).m.gang? b = s.m.gang? b := by
  have hnote : (s.ended k r st code m).m.gang? b = (m.updCore k r (·.endStream st)).gang? b :=
    Mach.gang?_of_gangs (Mach.gangs_noteExit _ _ _) b
  have hcount : s.issued.m.gang? b = s.m.gang? b := by
    rw [State.issued_core h.cur, h.cur]
    exact s.m.gang?_updGang_ne k b _ hb
  exact hnote.trans ((m.gang?_updGang_ne k b _ hb).trans ((Mach.gang?_of_gangs hm.1 b).trans hcount))

/-- The code that the job of the stream holds. -/
theorem State.OnCore.exit_ended : ((s.ended k r st code m).m.jobOf s.cur).map (·.exit) =
    (s.m.jobOf s.cur).map (·.exitAfter (s.exitRec r st code)) := by
  have hmjob : m.jobOf s.cur = s.m.jobOf s.cur := by
    rw [← s.samePlace_issued.job, h.cur]
    exact congrArg₂ (fun g j => (tget g k).bind fun x => tget j x.job) hm.1 hm.2.1
  have hend : (m.updCore k r (·.endStream st)).jobOf s.cur = s.m.jobOf s.cur := by
    rw [← hmjob, h.cur]
    exact (m.samePlace_updCore k r st _).job
  rw [← h.exitRec_issued code, ← hend, h.cur]
  exact Mach.exit_noteExit _ k r st _

end

theorem State.ctx?_issued {s : State} {d i c : Nat} (hc : s.cur = .loupe d i c) (ha : (s.m.seq? s.cur).isSome = true) :
    (s.issued.m.ctx? d i c).isSome = true := by
  have hseq := State.isSome_seq?_issued ha
  simpa [hc, Mach.seq?] using hseq

/-- Settles O29: a request or a wait is the word's own effect; EXIT and RDV are the end and the arrival of the stream. -/
theorem streamWords : Obligations.StreamWords := by
  intro s g n cnt k lc code grp base member free stands
  simp only [exec_waitc, exec_phase, exec_lease, exec_yield, exec_exit, exec_rdvFin, exec_rdvMid]
  refine ⟨fun hr => ⟨State.word_runs hr rfl, State.word_runs hr rfl, State.word_runs hr rfl⟩,
    fun ha hf => State.word_runs_plain ha hf rfl, ?exit, ?loupe, ?rdv, ?stops⟩
  case exit =>
    intro a r st hc hp
    have h := State.OnCore.of_cur hc (by simpa [hc, Mach.seq?] using hp.1)
    obtain ⟨m, hm, hexec⟩ := execExit_core (code := code) hc hp
    have hu := h.ended hm code
    refine ⟨_, hexec, ⟨?_, ?_⟩, ?_, fun b hb => h.gang?_ended hm code hb, h.exit_ended hm code⟩
    · exact (congrArg StreamRegs.st (hu.regs_eq.trans (Core.regs_endStream _ st))).trans rfl
    · refine (congrArg StreamRegs.pc (hu.regs_eq.trans (Core.regs_endStream _ st))).trans ?_
      rw [Core.regs_countEc, h.regs_eq]
    · rintro rfl
      have hmat := congrArg Core.mat hu.core_eq
      exact ⟨congrArg MUnit.leasec hmat, congrArg MUnit.ladder hmat⟩
  case loupe =>
    intro d i c hc hp
    obtain ⟨m, hm, hexec⟩ := execExit_loupe (code := code) hc hp
    refine ⟨_, hexec, ?_⟩
    obtain ⟨x, hx⟩ := Option.isSome_iff_exists.mp (State.ctx?_issued hc hp.1)
    rw [Mach.ctx?_updCtx_self, Mach.ctx?_of_dies hm.2.2, hx]
    rfl
  case rdv =>
    intro a r st hc hv hp hm
    exact ⟨fun hf => State.rdv_goesTo hc hv hp hm hf rfl, fun hf hfalls => State.rdv_goesTo hc hv hp hm hf hfalls⟩
  case stops =>
    exact fun hp => ⟨State.rdv_stops hp, State.rdv_stops hp⟩

end Sys2Proof.Machine
end

section
/-! PROOFS. The events of the memory order, of barriers, joins and leases (R60, R204, R264, R265, R270, R289, R294; log entry 9). -/
namespace Sys2Proof.Machine

/-! ## A queued access (R264) -/

/-- An entry that nothing keeps in its queue leaves it alone. -/
theorem Mach.force_unblocked {m : Mach} {id n : Nat} {q : QEntry} (hq : tget m.queue id = some q) (hb : m.blockers id q = []) :
    Mach.force (n + 1) m id = m.fresh.perform id q true := by
  simp [Mach.force, hq, hb]

section
variable {s : State} {id : Nat} {q : QEntry} (hq : tget s.m.queue id = some q)
include hq

theorem execAccessCommit_eq :
    let m := s.m.fresh
    let past := ((m.blockers id q).filter (fun p => m.mayPass p.2 q)).map (·.1)
    execAccessCommit id s = .next { s with
      m := if m.stalled q.loc q.op.size q.op.isStore q.walk then (m.trapFor q.loc q.op.size).schedule .mc (m.time + 1) (.accessCommit id)
        else if q.mayHurry && m.flip 12 then m.hurry id q
        else if !past.isEmpty && m.flip 14 then m.pass id q past
        else Mach.force (m.queue.length + 1) m id } := by
  simp only [execAccessCommit, hq]

/-- An access that nothing keeps and no repair or channel holds is performed. -/
theorem execAccessCommit_performs (hs : s.m.fresh.stalled q.loc q.op.size q.op.isStore q.walk = false)
    (hb : s.m.fresh.blockers id q = []) (hh : q.mayHurry = false) :
    execAccessCommit id s = .next { s with m := s.m.fresh.fresh.perform id q true } := by
  simp only [execAccessCommit_eq hq, hs, hb, hh, Bool.false_and, Bool.false_eq_true, if_false, List.filter_nil, List.map_nil,
    List.isEmpty_nil, Bool.not_true]
  rw [Mach.force_unblocked (show tget s.m.fresh.queue id = some q from hq) hb]

end

/-! ## Copies and replies (R60, R265) -/

theorem getD_mem_cons {α : Type} (c : α) (cs : List α) (n : Nat) : cs.getD n c ∈ c :: cs := by
  by_cases hn : n < cs.length
  · simp [List.getD, hn]
  · simp [List.getD, Nat.le_of_not_lt hn]

theorem execViewBufferDrop_goesTo {s : State} {a : Agent} {gran : Nat} (h : s.m.copiesOf a gran ≠ []) :
    GoesTo (execViewBufferDrop a gran s) (fun t => t.m = { s.m with copies := t.m.copies, freeCtr := t.m.freeCtr } ∧
      ∃ c, c ∈ s.m.copiesOf a gran ∧ t.m.copies = s.m.copies.erase c) := by
  obtain ⟨c, cs, hcs⟩ := List.exists_cons_of_ne_nil h
  have hfresh : s.m.fresh.copiesOf a gran = c :: cs := hcs
  simp only [execViewBufferDrop, hfresh, hcs]
  exact ⟨_, rfl, rfl, _, getD_mem_cons c cs _, rfl⟩

theorem execReplyArrival_goesTo {s : State} {id : Nat} {r : Reply} (h : tget s.m.replies id = some r) (hm : r.missing = 0)
    (ha : r.arrived = false) (hp : r.page = none) : GoesTo (execReplyArrival id s) (fun t =>
      tget t.m.replies id = some { r with arrived := true } ∧ t.m = { s.m with replies := t.m.replies }) := by
  simp only [execReplyArrival, h]
  exact ⟨_, event_next (by simp [hm, ha, hp]), tget_tset_self _ _ _, rfl⟩

/-! ## Barriers (R289, R294) -/

/-- A virtual device that has a barrier is there. -/
theorem Mach.isSome_vd?_of_bar {m : Mach} {vd k : Nat} {b : Barrier} (h : tget (m.vd vd).bars k = some b) : (m.vd? vd).isSome = true := by
  cases hv : m.vd? vd with
  | none => simp [Mach.vd, hv] at h
  | some _ => rfl

theorem Mach.bar_updBar {m : Mach} {vd k : Nat} {b : Barrier} (h : tget (m.vd vd).bars k = some b) (f : Barrier → Barrier) :
    tget ((m.updBar vd k f).vd vd).bars k = some (f b) := by
  rw [Mach.updBar, Mach.vd_updVd (m.isSome_vd?_of_bar h)]
  simp [h]

/-! ## The takeover of a lease (R204) -/

/-- A gang whose quad's array a core has taken over, once its freeze for it has ended. -/
def Gang.takenOver (x : Gang) (quad pos : Nat) (cnt : BitVec 5) : Gang :=
  let x := { x with causes := x.causes.filter (fun (c : Cause) => c.kind != CauseKind.lease quad pos cnt) }
  let x := match x.holder quad with | some h => x.setLease quad h 0 | none => x
  x.grant quad pos cnt

theorem Gang.causes_takenOver (x : Gang) (quad pos : Nat) (cnt : BitVec 5) :
    (x.takenOver quad pos cnt).causes = x.causes.filter (fun c => c.kind != .lease quad pos cnt) := by
  unfold Gang.takenOver
  dsimp only
  split <;> rfl

theorem Gang.leasec_setLease {x : Gang} {quad pos : Nat} {c : Core} (h : x.cores[4 * quad + pos]? = some c) (n : BitVec 5) :
    ((x.setLease quad pos n).cores[4 * quad + pos]?).map (·.mat.leasec) = some n := by
  simp [Gang.setLease, Gang.updCore, h]

/-- A lease given to one core leaves every core of the gang there. -/
theorem Gang.isSome_core_setLease (x : Gang) (quad pos i : Nat) (n : BitVec 5) :
    ((x.setLease quad pos n).cores[i]?).isSome = (x.cores[i]?).isSome := by
  simp only [Gang.setLease, Gang.updCore, List.getElem?_modify]
  split <;> simp

theorem Gang.leasec_takenOver {x : Gang} {quad pos : Nat} {c : Core} (h : x.cores[4 * quad + pos]? = some c) (cnt : BitVec 5) :
    ((x.takenOver quad pos cnt).cores[4 * quad + pos]?).map (·.mat.leasec) = some cnt := by
  unfold Gang.takenOver
  dsimp only
  split
  · next p _ =>
    obtain ⟨d, hd⟩ := Option.isSome_iff_exists.mp
      ((Gang.isSome_core_setLease { x with causes := x.causes.filter (fun (c : Cause) => c.kind != CauseKind.lease quad pos cnt) }
        quad p _ 0).trans (congrArg Option.isSome h))
    exact Gang.leasec_setLease hd cnt
  · exact Gang.leasec_setLease (x := { x with causes := _ }) h cnt

theorem execLeaseTakeover_eq {s : State} {g quad pos : Nat} {cnt : BitVec 5} {x : Gang} (hx : s.m.gang? g = some x)
    (hc : x.causes.any (fun c => c.kind == .lease quad pos cnt) = true) :
    execLeaseTakeover g quad pos cnt s = .next { s with m := s.m.updGang g (·.takenOver quad pos cnt) } :=
  event_next (m := s.m.updGang g (·.takenOver quad pos cnt)) (by rw [hx]; exact hc)

/-- Settles O53: each event by its law above. -/
theorem orderingEvents : Obligations.OrderingEvents := by
  intro s
  simp only [exec_accessCommit, exec_viewBufferDrop, exec_replyArrival, exec_barrierArrivalCount, exec_joinRelease, exec_leaseTakeover]
  refine ⟨fun id q hq => ⟨execAccessCommit_eq hq, execAccessCommit_performs hq⟩, fun a gran => execViewBufferDrop_goesTo,
    fun id r => execReplyArrival_goesTo, fun vd k gen b hb => ?arrival, fun vd grp jn p hj hc hp => ?join,
    fun g quad pos cnt x c hx hany hcore => ?lease, fun g quad pos cnt x hx hany => ⟨_, execLeaseTakeover_eq hx hany⟩⟩
  case arrival => exact ⟨_, event_next (by rw [hb]; rfl), s.m.bar_updBar hb _⟩
  case join =>
    simp only [execJoinRelease, hj, hp]
    exact event_next hc
  case lease =>
    have hgang : (s.m.updGang g (·.takenOver quad pos cnt)).gang? g = some (x.takenOver quad pos cnt) := by
      rw [Mach.gang?_updGang_self, hx]
      rfl
    refine ⟨_, execLeaseTakeover_eq hx hany, ?_, ?_⟩
    · rw [hgang, Option.map_some, x.causes_takenOver]
    · simpa only [Mach.core?, hgang, Option.bind_some] using Gang.leasec_takenOver hcore cnt

end Sys2Proof.Machine
end

section
/-! PROOFS. Launches: their capture, binding, loading and start (R53, R102-R113; log entries 17, 29, 43 and 77). -/
namespace Sys2Proof.Machine

/-! ## What an operation of the clusters and of the agenda leaves -/

/-- `k` is `m` but for the events to come, and the values drawn. -/
def Mach.SameButAgenda (m k : Mach) : Prop := ∃ agenda freeCtr, k = { m with agenda := agenda, freeCtr := freeCtr }

theorem Mach.SameButAgenda.eq {m k : Mach} (h : m.SameButAgenda k) : k = { m with agenda := k.agenda, freeCtr := k.freeCtr } := by
  obtain ⟨_, _, rfl⟩ := h
  rfl

/-- `k` is `m` but for the dies, the events to come and the values drawn. -/
def Mach.SameButDies (m k : Mach) : Prop :=
  ∃ dies agenda freeCtr, k = { m with dies := dies, agenda := agenda, freeCtr := freeCtr }

section
variable {m k : Mach}

theorem Mach.SameButDies.refl (m : Mach) : m.SameButDies m := ⟨_, _, _, rfl⟩

theorem Mach.SameButDies.updDie (h : m.SameButDies k) (d : Nat) (f : Die → Die) : m.SameButDies (k.updDie d f) := by
  obtain ⟨_, _, _, rfl⟩ := h
  exact ⟨_, _, _, rfl⟩

theorem Mach.SameButDies.schedule (h : m.SameButDies k) (clk : Clock) (n : Nat) (ev : Instr) : m.SameButDies (k.schedule clk n ev) := by
  obtain ⟨_, _, _, rfl⟩ := h
  exact ⟨_, _, _, rfl⟩

theorem Mach.SameButDies.wantFrame (h : m.SameButDies k) (d c : Nat) : m.SameButDies (k.wantFrame d c) :=
  ite_keeps (P := m.SameButDies) h (h.schedule ..)

theorem Mach.SameButDies.recompute (h : m.SameButDies k) (d c : Nat) : m.SameButDies (k.recompute d c) :=
  (h.updDie d _).wantFrame d c

theorem Mach.SameButDies.startRamp (h : m.SameButDies k) (d c : Nat) : m.SameButDies (k.startRamp d c) :=
  (h.updDie d _).wantFrame d c

theorem Mach.SameButDies.startSlices (h : m.SameButDies k) (d i c : Nat) : m.SameButDies (k.startSlices d i c) :=
  ite_keeps (P := m.SameButDies) h ((h.updDie d _).schedule ..)

theorem Mach.SameButDies.gangs (h : m.SameButDies k) : k.gangs = m.gangs := by
  obtain ⟨_, _, _, rfl⟩ := h
  rfl

theorem Mach.SameButDies.jobs (h : m.SameButDies k) : k.jobs = m.jobs := by
  obtain ⟨_, _, _, rfl⟩ := h
  rfl

end

/-- What one round of a fold brings about, and the others keep, holds of its end. -/
theorem foldl_reaches {α β : Type} {P Q : α → Prop} {f : α → β → α} {l : List β} {a : α} {b : β} (hb : b ∈ l) (h : P a)
    (hP : ∀ a b, P a → P (f a b)) (hQ : ∀ a, P a → Q (f a b)) (hkeep : ∀ a b, Q a → Q (f a b)) : Q (l.foldl f a) := by
  induction l generalizing a with
  | nil => cases hb
  | cons c l ih =>
    rcases List.mem_cons.mp hb with rfl | hmem
    · exact foldl_keeps (P := Q) (l := l) (a := f a b) (hQ a h) hkeep
    · exact ih hmem (hP a c h)

/-! ## Graph edits (R113) -/

theorem execGraphEdit_goesTo {s : State} {vd : Nat} {graph : BitVec 32} {l : List (BitVec 64)} (hv : (s.m.vd? vd).isSome = true)
    (hg : graph ≠ 0) : GoesTo (execGraphEdit vd graph l s) (fun t => tget (t.m.vd vd).graphs graph.toNat =
      some ((((tget (s.m.vd vd).graphs graph.toNat).map (·.1)).getD 0 + 1) % 65536, l)) := by
  refine ⟨_, event_next (by simpa [hv] using hg), ?_⟩
  dsimp only
  rw [Mach.vd_updVd hv]
  exact tget_tset_self _ _ _

/-! ## Binding (R105-R109) -/

/-- The package once the gangs saved alone that are to go on have been bound, where they can be placed. -/
def Mach.backBound (m : Mach) (vd : Nat) : Mach := (m.waitingBack vd).foldl (fun m p => m.bindAlone p.1 p.2) m

/-- The firmware looks again while any launch or saved gang waits. -/
def Mach.lookAgain (m : Mach) (vd : Nat) : Mach :=
  if (m.vd vd).launches.isEmpty && (m.waitingBack vd).isEmpty then m else m.schedule .mc (m.time + 1 + m.draw 44) (.bind vd)

theorem Mach.SameButAgenda.lookAgain {m k : Mach} (h : m.SameButAgenda k) (vd : Nat) : m.SameButAgenda (k.lookAgain vd) := by
  obtain ⟨_, _, rfl⟩ := h
  exact ite_keeps (P := m.SameButAgenda) ⟨_, _, rfl⟩ ⟨_, _, rfl⟩

section
variable {s : State} {vd id : Nat} {j : Job} {rest : List (Nat × Job)}
  (hv : (s.m.vd? vd).isSome = true) (hp : s.m.bindPaused vd = false)
include hv hp

/-- With no launch in rank. -/
theorem execBind_of_unranked (hr : (s.m.fresh.backBound vd).ranked vd = []) :
    execBind vd s = .next { s with m := (s.m.fresh.backBound vd).lookAgain vd } := by
  rw [Mach.backBound] at hr
  simp only [execBind, hr]
  exact event_next (by simp [hv, hp])

/-- The first in rank is bound where it fits. -/
theorem execBind_of_fits {p : List (Nat × Nat × BitVec 12)} {w : Nat × Nat} {a : List Nat}
    (hr : (s.m.fresh.backBound vd).ranked vd = (id, j) :: rest) (hf : (s.m.fresh.backBound vd).fits vd j = some (p, w, a)) :
    execBind vd s = .next { s with m := ((s.m.fresh.backBound vd).bindJob id j p w.1 w.2 a).lookAgain vd } := by
  rw [Mach.backBound] at hr hf
  simp only [execBind, hr, hf]
  exact event_next (by simp [hv, hp])

/-- Where it does not fit a bound job may be asked to make room. -/
theorem execBind_of_unfit (hr : (s.m.fresh.backBound vd).ranked vd = (id, j) :: rest) (hf : (s.m.fresh.backBound vd).fits vd j = none) :
    ∃ m, (s.m.fresh.backBound vd).SameButAgenda m ∧ execBind vd s = .next { s with m := m.lookAgain vd } := by
  rw [Mach.backBound] at hr hf
  simp only [execBind, hr, hf]
  refine ⟨_, ?_, event_next (by simp [hv, hp])⟩
  split
  · exact ite_keeps (P := Mach.SameButAgenda _) ⟨_, _, rfl⟩ ⟨_, _, rfl⟩
  · exact ⟨_, _, rfl⟩

theorem execBind_goes : Goes (execBind vd s) := by
  cases hr : (s.m.fresh.backBound vd).ranked vd with
  | nil => exact ⟨_, execBind_of_unranked hv hp hr⟩
  | cons q rest =>
    cases hf : (s.m.fresh.backBound vd).fits vd q.2 with
    | none =>
      obtain ⟨m, -, hexec⟩ := execBind_of_unfit hv hp hr hf
      exact ⟨_, hexec⟩
    | some f => exact ⟨_, execBind_of_fits hv hp hr hf⟩

end

/-! ## Loading (R110) -/

section
variable {s : State} {job : Nat} {j : Job} (hj : s.m.job? job = some j) (hb : j.isBound = true) (hg : s.m.boundOnly j ≠ [])
include hj hb hg

/-- The gangs of a job that runs are loaded beside the others. -/
theorem execJobLoad_alone (hst : j.st ≠ .bound) : execJobLoad job s = .next { s with
    m := if (s.m.boundOnly j).any (fun g => (s.m.gang? g).any s.m.recordBad) then s.m.refuseAlone job j (s.m.boundOnly j)
      else if s.m.imagesBad j (s.m.boundOnly j) then (s.m.readImages j (s.m.boundOnly j)).endStopped job 1 0x10 0
      else s.m.loadAlone job j (s.m.boundOnly j) } := by
  simp [execJobLoad, hj, hb, hg, hst]

variable (hst : j.st = .bound)
include hst

theorem execJobLoad_refused (hbad : (s.m.boundOnly j).any (fun g => (s.m.gang? g).any s.m.recordBad) = true) :
    execJobLoad job s = .next { s with m := s.m.refuseBind job j } := by
  simp only [execJobLoad, hj, hb, List.isEmpty_eq_false_iff.mpr hg, hst, hbad]
  rfl

variable (hbad : (s.m.boundOnly j).any (fun g => (s.m.gang? g).any s.m.recordBad) = false)
include hbad

theorem execJobLoad_lost (hlost : s.m.imagesBad j (s.m.boundOnly j) = true) :
    execJobLoad job s = .next { s with m := (s.m.readImages j (s.m.boundOnly j)).endJob job 1 0x10 0 } := by
  simp only [execJobLoad, hj, hb, List.isEmpty_eq_false_iff.mpr hg, hst, hbad, hlost]
  rfl

variable (hlost : s.m.imagesBad j (s.m.boundOnly j) = false)
include hlost

theorem execJobLoad_restored (hs : j.saved ≠ []) : execJobLoad job s = .next { s with m := s.m.loadJob job j } := by
  simp only [execJobLoad, hj, hb, List.isEmpty_eq_false_iff.mpr hg, hst, hbad, hlost, List.isEmpty_eq_false_iff.mpr hs]
  rfl

/-- A job that is loaded fresh writes its data first. -/
theorem execJobLoad_written {m : Mach} (hs : j.saved = []) (hm : s.m.loadGlb j = .ok m) :
    execJobLoad job s = .next { s with m := m.loadJob job j } := by
  simp only [execJobLoad, hj, hb, List.isEmpty_eq_false_iff.mpr hg, hst, hbad, hlost, hs, hm]
  rfl

theorem execJobLoad_unwritten {c : BitVec 8} (hs : j.saved = []) (hc : s.m.loadGlb j = .error c) :
    execJobLoad job s = .next { s with m := s.m.endJob job 3 c.toNat 0 } := by
  simp only [execJobLoad, hj, hb, List.isEmpty_eq_false_iff.mpr hg, hst, hbad, hlost, hs, hc]
  rfl

end

/-! ## A core at a fresh load (R20, R110) -/

theorem getElem?_vset {α : Type} {n : Nat} (v : Vector α n) (i k : Nat) (a : α) (hk : k < n) :
    (vset v i a)[k]? = if k = i then some a else v[k]? := by
  by_cases hi : k = i
  · subst hi
    simp [vset, hk]
  · simp [vset, Ne.symm hi, hi]

section
variable (code : Vector (List Code) 4) (guards : List (BitVec 4)) (live : Nat → Bool) (s2 s3 s4 s5 : Word)

/-- The scalars of a stream's core at load. -/
theorem loadSeq_sreg {k : Nat} (hk : k < 56) : (loadSeq code guards live s2 s3 s4 s5).sreg[k]? =
    if k = 5 then some s5 else if k = 4 then some s4 else if k = 3 then some s3 else if k = 2 then some s2 else some 0 := by
  simp only [loadSeq, getElem?_vset _ _ _ _ hk, Vector.getElem?_replicate, if_pos hk]

theorem loadSeq_regs (st : Stream) : (loadSeq code guards live s2 s3 s4 s5).regs st =
    { st := if live st.idx then .live else .unused } := by
  simp [loadSeq, Seq.regs, vget, stream_idx_lt st]

end

/-- A gang that does not go on from an image has fresh cores. -/
theorem Mach.cores_loadGang (m : Mach) {j : Job} {x : Gang} (vg : Nat) {r : Nat} (hx : x.resume = false) (hr : r < j.hdr.gsize) :
    (m.loadGang j x vg).run = .loaded ∧
      ∃ base, (m.loadGang j x vg).cores[r]? = some (loadCore j.hdr j.img x.idx.toNat r vg base) := by
  rw [Mach.loadGang, hx]
  exact ⟨rfl, _, by rw [if_neg Bool.false_ne_true, List.getElem?_map, List.getElem?_range hr]; rfl⟩

/-! ## The start (R53) -/

/-- Gangs that run from this master cycle on. -/
def Mach.startGangs (m : Mach) (l : List Nat) : Mach :=
  l.foldl (fun m g => m.updGang g (fun x => { x with run := .running, start := m.time })) m

theorem Mach.jobs_startGangs (m : Mach) (l : List Nat) : (m.startGangs l).jobs = m.jobs :=
  foldl_keeps (P := fun k : Mach => k.jobs = m.jobs) rfl fun _ _ h => h

/-- Whether and since when a gang runs. -/
def Mach.startOf (m : Mach) (g : Nat) : Option (RunState × Nat) := (m.gang? g).map fun x => (x.run, x.start)

theorem Mach.startOf_startGangs {m : Mach} {l : List Nat} {g : Nat} (hg : g ∈ l) (hx : (m.gang? g).isSome = true) :
    (m.startGangs l).startOf g = some (.running, m.time) := by
  have hkeep : ∀ (k : Mach) b, k.time = m.time ∧ (k.gang? g).isSome = true →
      (k.updGang b fun x => { x with run := .running, start := k.time }).time = m.time ∧
        ((k.updGang b fun x => { x with run := .running, start := k.time }).gang? g).isSome = true := by
    rintro k b ⟨ht, hk⟩
    refine ⟨ht, ?_⟩
    by_cases hb : g = b
    · simp [← hb, hk]
    · rw [Mach.gang?_updGang_ne _ _ _ _ hb, hk]
  have hend := foldl_reaches (P := fun k : Mach => k.time = m.time ∧ (k.gang? g).isSome = true)
    (Q := fun k : Mach => k.time = m.time ∧ k.startOf g = some (.running, m.time)) hg ⟨rfl, hx⟩ hkeep ?_ ?_
  · exact hend.2
  · rintro k ⟨ht, hk⟩
    obtain ⟨x, hx⟩ := Option.isSome_iff_exists.mp hk
    exact ⟨ht, by simp [Mach.startOf, hx, ht]⟩
  · rintro k b ⟨ht, hs⟩
    refine ⟨ht, ?_⟩
    by_cases hb : g = b
    · subst hb
      obtain ⟨x, hx, -⟩ := Option.map_eq_some_iff.mp hs
      simp [Mach.startOf, hx, ht]
    · rw [Mach.startOf, Mach.gang?_updGang_ne _ _ _ _ hb]
      exact hs

/-- The cluster of a gang that starts takes its pattern and ramps up. -/
def Mach.rampGang (m : Mach) (g : Nat) : Mach := (m.recompute (m.clusterOf g).1 (m.clusterOf g).2).startRamp (m.clusterOf g).1 (m.clusterOf g).2

/-- Once its gangs have started a job's clusters ramp up and its Loupe members take their turns. -/
def Mach.rampedUp (m : Mach) (j : Job) (gangs : List Nat) : Mach :=
  j.loupes.foldl (fun m p => match m.partition j.vd p.1 p.2 with
    | some (c, _) => (m.updCtx p.1 p.2 c (fun x => if x.run == .loaded then { x with run := .running } else x)).startSlices p.1 p.2 c
    | none => m) (gangs.foldl Mach.rampGang m)

theorem Mach.sameButDies_rampedUp (m : Mach) (j : Job) (gangs : List Nat) : m.SameButDies (m.rampedUp j gangs) := by
  refine foldl_keeps (foldl_keeps (.refl m) fun k g h => (h.recompute ..).startRamp ..) fun k p h => ?_
  split
  · exact (h.updDie p.1 _).startSlices ..
  · exact h

theorem execStartCycle_eq {s : State} {job : Nat} {j : Job} (hj : s.m.job? job = some j) :
    let gangs := j.gangs.filter (fun g => (s.m.gang? g).any (fun x => x.run == .loaded))
    execStartCycle job s = event (j.isBound && !gangs.isEmpty && (j.st != .bound || (s.m.boundOnly j).isEmpty))
      ((((s.m.updJob job (fun j => { j with st := if j.st = .bound then .running else j.st })).startGangs gangs)).rampedUp j gangs) s := by
  simp only [execStartCycle, hj] <;> rfl

/-- Settles O55: each event by its law above; a core at a fresh load field by field. -/
theorem launchEvents : Obligations.LaunchEvents := by
  intro s vd job
  simp only [exec_graphEdit, exec_bind, exec_jobLoad, exec_startCycle]
  refine ⟨fun p => ⟨rfl, fun areas => rfl⟩, fun hv => ⟨fun graph l hg => execGraphEdit_goesTo hv hg, fun hp => ?bind⟩,
    fun j hj hb hg => ?load, fun j x vg r hx hr => ?fresh, fun j hj hst hbo ⟨g0, x0, hg0, hx0, hr0⟩ => ?start⟩
  case bind =>
    refine ⟨execBind_goes hv hp, fun hr => ⟨_, execBind_of_unranked hv hp hr, ?_⟩,
      fun hback hr => ⟨_, execBind_of_unranked hv hp hr, ?_⟩,
      fun id j rest p w a hr hf => ⟨_, execBind_of_fits hv hp hr hf, ?_⟩, fun id j rest hr hf => ?_⟩
    · exact (Mach.SameButAgenda.lookAgain ⟨_, _, rfl⟩ vd).eq
    · have hb : s.m.SameButAgenda (s.m.fresh.backBound vd) := by
        rw [Mach.backBound, show s.m.fresh.waitingBack vd = [] from hback]
        exact ⟨_, _, rfl⟩
      obtain ⟨_, _, heq⟩ := hb.lookAgain vd
      dsimp only
      rw [heq]
      exact ⟨rfl, rfl⟩
    · exact (Mach.SameButAgenda.lookAgain ⟨_, _, rfl⟩ vd).eq
    · obtain ⟨m, hm, hexec⟩ := execBind_of_unfit hv hp hr hf
      exact ⟨_, hexec, (hm.lookAgain vd).eq⟩
  case load =>
    refine ⟨execJobLoad_alone hj hb hg, fun hst => execJobLoad_refused hj hb hg hst, fun hst => execJobLoad_lost hj hb hg hst,
      fun hst hbad hlost => execJobLoad_restored hj hb hg hst hbad hlost, fun hst hbad hlost hs => ?_⟩
    cases hm : s.m.loadGlb j with
    | ok m => exact execJobLoad_written hj hb hg hst hbad hlost hs hm
    | error c => exact execJobLoad_unwritten hj hb hg hst hbad hlost hs hm
  case fresh =>
    obtain ⟨hrun, base, hcore⟩ := s.m.cores_loadGang vg hx hr
    refine ⟨hrun, _, hcore, rfl, rfl, rfl, rfl, loadSeq_sreg (hk := by decide) .., loadSeq_sreg (hk := by decide) ..,
      loadSeq_sreg (hk := by decide) .., loadSeq_sreg (hk := by decide) .., fun k hk hne => ?_, fun st => ?_⟩
    · rw [loadCore, loadSeq_sreg _ _ _ _ _ _ _ hk]
      simp only [show k ≠ 5 by omega, show k ≠ 4 by omega, show k ≠ 3 by omega, show k ≠ 2 by omega, if_false]
    · rw [loadCore, loadSeq_regs]
      by_cases h0 : vget j.hdr.csz st.idx 0 = 0 <;> simp [h0]
  case start =>
    have hmem : ∀ g x, g ∈ j.gangs → s.m.gang? g = some x → x.run = .loaded →
        g ∈ j.gangs.filter (fun g => (s.m.gang? g).any (fun x => x.run == .loaded)) := fun g x hg hx hrun => by
      simp [hg, hx, hrun]
    have hramp := Mach.sameButDies_rampedUp
    refine ⟨_, (execStartCycle_eq hj).trans (event_next ?_), ?_, fun g x hg hx hrun => ?_⟩
    · have hne := List.isEmpty_eq_false_iff.mpr (List.ne_nil_of_mem (hmem g0 x0 hg0 hx0 hr0))
      simp only [hne, hbo, Job.isBound, hst]
      rfl
    · dsimp only
      rw [Mach.job?, (hramp _ _ _).jobs, Mach.jobs_startGangs]
      have hjob := s.m.job?_updJob_self job (fun j => { j with st := if j.st = .bound then .running else j.st })
      rw [Mach.job?, hj] at hjob
      rw [hjob]
      simp [hst]
    · dsimp only
      rw [Mach.gang?_of_gangs (hramp _ _ _).gangs]
      exact Mach.startOf_startGangs (hmem g x hg hx hrun) (congrArg Option.isSome hx)

end Sys2Proof.Machine
end

section
/-! PROOFS. What stops gangs, and what the kernel does with a stop (R65, R66, R75, R370, R371, R390-R399; log entries 41, 43, 85 and
87). -/
namespace Sys2Proof.Machine

/-! ## A yield that does not come in time (R75) -/

theorem insertFirst_ne_nil {α : Type} (lt : α → α → Bool) (a : α) (l : List α) : sortBy.insertFirst lt a l ≠ [] := by
  cases l with
  | nil => exact List.cons_ne_nil _ _
  | cons b r =>
    unfold sortBy.insertFirst
    split <;> exact List.cons_ne_nil _ _

theorem sortBy_ne_nil {α : Type} {lt : α → α → Bool} {l : List α} (h : l ≠ []) : sortBy lt l ≠ [] := by
  cases l with
  | nil => exact absurd rfl h
  | cons a r => exact insertFirst_ne_nil lt a _

/-- Of some streams those that are late, or all of them where none is. -/
theorem lateOr_ne_nil {α : Type} {l : List α} (h : l ≠ []) (late : α → Bool) :
    (if (l.filter late).isEmpty then l else l.filter late) ≠ [] := by
  split
  · exact h
  · next hne => exact fun h0 => hne (by rw [h0]; rfl)

/-- Where the spacing is met some stream is named. -/
theorem execYieldSpacingFault_names {s : State} {g : Nat} {x : Gang} (hx : s.m.gang? g = some x) (hr : x.run = .running)
    (hm : s.m.spacingMet g x = true) : ∃ r strm pc, execYieldSpacingFault g s = .next { s with
      m := s.m.takeStop g (x.mkReport s.m.time r strm pc 2 { cause := 0x0F }) } := by
  have hlive : s.m.liveAgents g x ≠ [] := by
    intro h0
    simp [Mach.spacingMet, h0] at hm
  unfold execYieldSpacingFault
  simp only [hx]
  split
  · next h0 => exact absurd (List.head?_eq_none_iff.mp h0) (sortBy_ne_nil (lateOr_ne_nil hlive _))
  · exact ⟨_, _, _, event_next (by simp [hr, hm])⟩

/-! ## What the kernel does with a stop (R394, R395) -/

theorem Mach.not_mem_acknowledge {m : Mach} {f : Notice → Bool} {n : Notice} (h : f n = true) : n ∉ (m.acknowledge f).mgmt.notices := by
  simp [Mach.acknowledge, h]

theorem Mach.sameButDies_resumeLoupes (m : Mach) (ls : List (Nat × Nat × Nat × LoupeCtx)) (vs : List (Nat × RegValue)) :
    m.SameButDies (m.resumeLoupes ls vs) :=
  foldl_keeps (P := m.SameButDies) (.refl m) fun _ _ h => (h.updDie ..).startSlices ..

/-- A gang with no reported access to execute again goes on where it stood. -/
theorem Mach.gang?_resumeGang {m : Mach} {g : Nat} {x : Gang} (hx : m.gang? g = some x) (hr : x.redo = []) (vs : List (Nat × RegValue)) :
    (m.resumeGang g x vs).gang? g = some (x.returned vs).resumed := by
  rw [Mach.resumeGang, hr, List.foldl_nil, Mach.gang?_updGang_self, hx]
  rfl

section
variable {s : State} {g : Nat} {x : Gang} (hx : s.m.gang? g = some x)
include hx

theorem execKernelResumeInPlace_goesTo {j : Job} (hj : s.m.job? x.job = some j) (he : j.ending = none) (hr : x.run = .stopped)
    (hc : x.report.any (fun r => resumable r.cause) = true) (vs : List (Nat × RegValue)) :
    GoesTo (execKernelResumeInPlace g vs s) (fun t =>
      (x.redo = [] → t.m.gang? g = some (x.returned vs).resumed) ∧ Notice.stop g ∉ t.m.mgmt.notices) := by
  simp only [execKernelResumeInPlace, hx, hj, Option.bind_some, Option.map_some, hr, hc]
  refine ⟨_, event_next (by simp [he]), fun hredo => ?_, Mach.not_mem_acknowledge (by simp)⟩
  exact (Mach.gang?_of_gangs (Mach.sameButDies_resumeLoupes ..).gangs g).trans (Mach.gang?_resumeGang hx hredo vs)

theorem execKernelSave_goesTo (hr : x.run = .stopped) (hk : x.killed = false) (hc : x.report.any (fun r => savable r.cause) = true) :
    GoesTo (execKernelSave g s) (fun t => (t.m.gang? g).map (·.run) = some .yielded ∧ Notice.stop g ∉ t.m.mgmt.notices ∧
      ∀ j, s.m.job? x.job = some j → (t.m.job? x.job).map (·.kept) = some (j.kept ++ [g])) := by
  simp only [execKernelSave, hx]
  refine ⟨_, event_next (by simp [hr, hk, hc]), ?_, Mach.not_mem_acknowledge (by simp), fun j hj => ?_⟩
  · have hgang := s.m.gang?_updGang_self g fun x => { x.settled with run := .yielded, wrote := some 0 }
    rw [hx] at hgang
    exact congrArg (Option.map (·.run)) hgang
  · have hjob := s.m.job?_updJob_self x.job fun j => { j with kept := j.kept ++ [g], why := x.report.map (·.cause) }
    rw [hj] at hjob
    exact congrArg (Option.map (·.kept)) hjob

/-- The cause that a TLBI's freeze stands for ends with the invalidations. -/
theorem execTlbiComplete_core {r : Nat} {st : Stream} {c : Cause}
    (hc : x.causes.find? (fun c => c.rank == r && (c.kind.tlbi?).isSome) = some c) :
    GoesTo (execTlbiComplete (.core g r st) s) (fun t => ∀ y, t.m.gang? g = some y → c ∉ y.causes) := by
  simp only [execTlbiComplete, hx, hc, Option.bind_some, Option.map_some]
  refine ⟨_, rfl, fun y hy => ?_⟩
  rw [Mach.gang?_updGang_self] at hy
  obtain ⟨z, -, rfl⟩ := Option.map_eq_some_iff.mp hy
  simp

end

theorem execTlbiComplete_loupe {s : State} {d i k : Nat} {x : LoupeCtx} {a : Word} (hx : s.m.ctx? d i k = some x) (hr : x.run = .tlbi a) :
    GoesTo (execTlbiComplete (.loupe d i k) s) (fun t => ∀ y, t.m.ctx? d i k = some y → y.run = .running) := by
  simp only [execTlbiComplete, hx, hr]
  refine ⟨_, rfl, fun y hy => ?_⟩
  rw [Mach.ctx?_updCtx_self] at hy
  obtain ⟨z, -, rfl⟩ := Option.map_eq_some_iff.mp hy
  rfl

/-- Settles O56: each event by its law above. -/
theorem stopEvents : Obligations.StopEvents := by
  intro s
  simp only [exec_freezeTimeout, exec_yieldSpacingFault, exec_haltRemoteStop, exec_tlbiComplete, exec_kernelSave,
    exec_kernelResumeInPlace, exec_kernelEndJob, exec_pageFaultService]
  refine ⟨fun g x hx => ⟨fun c hc hw => ?timeout, execYieldSpacingFault_names hx, fun due hd hle hr => ?halt,
      fun r st c hc => execTlbiComplete_core hx hc, execKernelSave_goesTo hx,
      fun j hj he hr hc vs => execKernelResumeInPlace_goesTo hx hj he hr hc vs⟩,
    fun g id j vs hg hk he hs => ?alone, fun d i k x a hx hr => execTlbiComplete_loupe hx hr, fun job c hc => ?endJob,
    fun id va w v who goix hn => ?page⟩
  case timeout =>
    simp only [execFreezeTimeout, hx, hc]
    exact event_next hw
  case halt =>
    simp only [execHaltRemoteStop, hx]
    exact event_next (by simp [hd, hle, hr])
  case alone =>
    simp only [execKernelResumeInPlace, hg, Option.bind_none, hk]
    exact event_next (by simp [he, hs])
  case endJob => simp only [execKernelEndJob, hc]
  case page =>
    refine ⟨?_, ?_, ?_, ?_⟩
    all_goals simp only [execPageFaultService, hn]

end Sys2Proof.Machine
end

section
/-! PROOFS. Pre-emption, saves and checkpoints (R76, R106, R400-R404; log entries 13 and 66). -/
namespace Sys2Proof.Machine

/-! ## Pre-emption (R76, R106) -/

/-- A gang asked in a master cycle: a request that stands already stays. -/
def Gang.asked (x : Gang) (now : Nat) : Gang := { x with preempt := some (x.preempt.getD now) }

/-- A gang asked in this master cycle. -/
def Mach.ask (m : Mach) (g : Nat) : Mach := m.updGang g (·.asked m.time)

/-- A request stands against a gang from a master cycle on, or would stand from it if it were asked now. -/
def Mach.AskedFrom (m : Mach) (g now since : Nat) : Prop := m.time = now ∧ ∃ x, m.gang? g = some x ∧ x.preempt.getD now = since

section
variable {m : Mach} {g now since : Nat}

theorem Mach.AskedFrom.ask_self (h : m.AskedFrom g now since) :
    (m.ask g).AskedFrom g now since ∧ ((m.ask g).gang? g).map (·.preempt) = some (some since) := by
  obtain ⟨rfl, x, hx, rfl⟩ := h
  have hnew : (m.ask g).gang? g = some (x.asked m.time) := by rw [Mach.ask, Mach.gang?_updGang_self, hx]; rfl
  exact ⟨⟨rfl, _, hnew, rfl⟩, congrArg (Option.map (·.preempt)) hnew⟩

theorem Mach.gang?_ask_ne {b : Nat} (hb : g ≠ b) : (m.ask b).gang? g = m.gang? g := m.gang?_updGang_ne b g _ hb

theorem Mach.AskedFrom.ask (h : m.AskedFrom g now since) (b : Nat) : (m.ask b).AskedFrom g now since := by
  by_cases hb : g = b
  · exact hb ▸ h.ask_self.1
  · exact ⟨h.1, (Mach.gang?_ask_ne hb).symm ▸ h.2⟩

/-- A gang is asked once, however often the job names it. -/
theorem Mach.AskedFrom.preempt_ask_all {l : List Nat} (h : m.AskedFrom g now since) (hg : g ∈ l) :
    ((l.foldl Mach.ask m).gang? g).map (·.preempt) = some (some since) := by
  have hend := foldl_reaches (P := fun k : Mach => k.AskedFrom g now since)
    (Q := fun k : Mach => k.AskedFrom g now since ∧ (k.gang? g).map (·.preempt) = some (some since)) hg h
    (fun k b hk => hk.ask b) (fun k hk => hk.ask_self) fun k b hk => ?_
  · exact hend.2
  · by_cases hb : g = b
    · exact hb ▸ hk.1.ask_self
    · exact ⟨hk.1.ask b, (Mach.gang?_ask_ne hb).symm ▸ hk.2⟩

end

theorem execPreemptRequest_goesTo {s : State} {job : Nat} {j : Job} (hj : s.m.job? job = some j)
    (hb : j.isBound = true ∨ j.saved ≠ []) :
    GoesTo (execPreemptRequest job s) (fun t => ∀ g x, g ∈ j.gangs → s.m.gang? g = some x →
      (t.m.gang? g).map (·.preempt) = some (some (x.preempt.getD s.m.time))) := by
  simp only [execPreemptRequest, hj]
  exact ⟨_, event_next (by simpa using hb), fun g x hg hx =>
    Mach.AskedFrom.preempt_ask_all ⟨rfl, x, hx, rfl⟩ hg⟩

/-! ## The hold at a yield point ends (R64, R76) -/

/-- A gang that is no longer held at its yield point. -/
def Gang.unheld (x : Gang) : Gang :=
  let l := x.causes.filter (fun c => c.kind != .yieldHold)
  { x with causes := l, frozen := if l.isEmpty then 0 else x.frozen, frozenAt := if l.isEmpty then none else x.frozenAt }

theorem Gang.isHeld_unheld (x : Gang) : x.unheld.isHeld = false := by
  simp [Gang.isHeld, Gang.unheld]

/-- One gang of a job let go, if it is held. -/
def Mach.letStand (m : Mach) (g : Nat) : Mach :=
  match m.gang? g with
  | some x => if x.isHeld then (if x.unheld.causes.isEmpty then m.rampAfter x else m).updGang g Gang.unheld else m
  | none => m

theorem Mach.SameButDies.rampAfter {m k : Mach} (h : m.SameButDies k) (x : Gang) : m.SameButDies (k.rampAfter x) :=
  ite_keeps (P := m.SameButDies) (h.startRamp ..) h

section
variable {m : Mach} {g : Nat} {x : Gang}

theorem Mach.letStand_of_held (hx : m.gang? g = some x) (hh : x.isHeld = true) : (m.letStand g).gang? g = some x.unheld := by
  have hramp : (if x.unheld.causes.isEmpty then m.rampAfter x else m).gangs = m.gangs :=
    (ite_keeps (P := m.SameButDies) (Mach.SameButDies.rampAfter (.refl m) x) (.refl m)).gangs
  simp only [Mach.letStand, hx, hh, if_true, Mach.gang?_updGang_self, Mach.gang?_of_gangs hramp, Option.map_some]

theorem Mach.letStand_of_unheld (hx : m.gang? g = some x) (hh : x.isHeld = false) : m.letStand g = m := by
  simp [Mach.letStand, hx, hh]

theorem Mach.letStand_ne {b : Nat} (hb : g ≠ b) : (m.letStand b).gang? g = m.gang? g := by
  unfold Mach.letStand
  split
  · next y _ =>
    refine ite_keeps (P := fun k : Mach => k.gang? g = m.gang? g) ?_ rfl
    rw [Mach.gang?_updGang_ne _ _ _ _ hb]
    exact Mach.gang?_of_gangs (ite_keeps (P := m.SameButDies) (Mach.SameButDies.rampAfter (.refl m) y) (.refl m)).gangs g
  · rfl

/-- A held gang is let go once, however often the job names it. -/
theorem Mach.gang?_letStand_all {l : List Nat} (hg : g ∈ l) (hx : m.gang? g = some x) (hh : x.isHeld = true) :
    (l.foldl Mach.letStand m).gang? g = some x.unheld := by
  have hfree : ∀ k : Mach, k.gang? g = some x.unheld → (k.letStand g).gang? g = some x.unheld := fun k hk => by
    rw [Mach.letStand_of_unheld hk x.isHeld_unheld, hk]
  have hone : ∀ k : Mach, k.gang? g = some x ∨ k.gang? g = some x.unheld → (k.letStand g).gang? g = some x.unheld :=
    fun k hk => hk.elim (fun h => Mach.letStand_of_held h hh) (hfree k)
  refine foldl_reaches (P := fun k : Mach => k.gang? g = some x ∨ k.gang? g = some x.unheld)
    (Q := fun k : Mach => k.gang? g = some x.unheld)
    hg (.inl hx) (fun k b hk => ?_) hone fun k b hk => ?_
  · by_cases hb : g = b
    · exact .inr (hb ▸ hone k hk)
    · rw [Mach.letStand_ne hb]
      exact hk
  · by_cases hb : g = b
    · exact hb ▸ hfree k hk
    · rw [Mach.letStand_ne hb, hk]

end

theorem execYieldHoldRelease_eq {s : State} {job : Nat} {j : Job} (hj : s.m.job? job = some j) :
    execYieldHoldRelease job s = event (s.m.allStand j && j.gangs.any (fun g => (s.m.gang? g).any Gang.isHeld))
      (j.gangs.foldl Mach.letStand s.m) s := by
  simp only [execYieldHoldRelease, hj] <;> rfl

/-! ## A gang leaves its cores (R401) -/

theorem Mach.SameButDies.withdraw {m k : Mach} (h : m.SameButDies k) (d c : Nat) (worked : Bool) : m.SameButDies (k.withdraw d c worked) :=
  ite_keeps (P := m.SameButDies) (((h.recompute d c).updDie d _).wantFrame d c) (h.recompute d c)

theorem Mach.gang?_dropGang (m : Mach) (g : Nat) : (m.dropGang g).gang? g = none := by
  unfold Mach.dropGang
  split
  · next h => exact h
  · extract_lets _ left _ dropped
    have hdel : dropped.gang? g = none := tget_tdel_self left.gangs g
    refine ite_keeps (P := fun n : Mach => n.gang? g = none) hdel ?_
    exact (Mach.gang?_of_gangs (Mach.SameButDies.withdraw (.refl dropped) ..).gangs g).trans hdel

theorem Mach.gang?_saveGang (m : Mach) (g : Nat) : (m.saveGang g).gang? g = none := by
  unfold Mach.saveGang
  split
  · next h => exact h
  · exact Mach.gang?_dropGang _ g

/-! ## Checkpoints (R400, R419) -/

/-- A walk leaves the gangs, the notices and the numbers. -/
theorem Mach.keepWalk_keeps (m : Mach) (vd va : Nat) : (m.keepWalk vd va).gangs = m.gangs ∧
    (m.keepWalk vd va).mgmt = m.mgmt ∧ (m.keepWalk vd va).nextId = m.nextId := by
  have htrap : ∀ l, (m.trap l).gangs = m.gangs ∧ (m.trap l).mgmt = m.mgmt ∧ (m.trap l).nextId = m.nextId := fun l =>
    ite_keeps (P := fun k : Mach => k.gangs = m.gangs ∧ k.mgmt = m.mgmt ∧ k.nextId = m.nextId) ⟨rfl, rfl, rfl⟩ ⟨rfl, rfl, rfl⟩
  unfold Mach.keepWalk
  split
  · exact ⟨rfl, rfl, rfl⟩
  · exact ite_keeps (P := fun k : Mach => k.gangs = m.gangs ∧ k.mgmt = m.mgmt ∧ k.nextId = m.nextId) ⟨rfl, rfl, rfl⟩ (htrap _)

/-- What a gang waits for while the page that a piece of its checkpoint met is serviced. -/
def Mach.pageWait (m : Mach) (x : Gang) (q : Word) : Cause :=
  { kind := .pageFault m.nextId q true, rank := 0, strm := .s, pc := 0, seq := x.cyc, began := (m.keepWalk x.vd (ptrOff q)).time }

/-- A page fault of a piece is posted, and the gang waits for its service. -/
theorem Mach.checkFails_page {m : Mach} {g : Nat} {x : Gang} (hx : m.gang? g = some x) (q : Word) :
    (m.checkFails g x 0x04 q).mgmt.notices = m.mgmt.notices ++ [.page m.nextId q true x.vd (.save g) 0] ∧
      ∃ k : Cause, k.kind = .pageFault m.nextId q true ∧
        ((m.checkFails g x 0x04 q).gang? g).map (·.causes) = some (x.causes ++ [k]) := by
  obtain ⟨hgangs, hmgmt, hid⟩ := m.keepWalk_keeps x.vd (ptrOff q)
  rw [Mach.checkFails, if_pos rfl, Mach.postPage, Mach.newId, hid]
  refine ⟨?_, m.pageWait x q, rfl, ?_⟩
  · exact congrArg (fun k : Mgmt => k.notices ++ [.page m.nextId q true x.vd (.save g) 0]) hmgmt
  · rw [Mach.gang?_updGang_self]
    have hkeep : (m.keepWalk x.vd (ptrOff q)).gang? g = some x := (Mach.gang?_of_gangs hgangs g).trans hx
    refine (congrArg (fun y : Option Gang => (y.map _).map _) hkeep).trans rfl

/-- Any other fault of a piece stops the gang. -/
theorem Mach.checkFails_stops {m : Mach} {g : Nat} {x : Gang} {c : BitVec 8} {q : Word} (hc : c ≠ 0x04) :
    ∃ rep : Report, rep.cause = c ∧ (reportsAddr c = true → rep.addr = q) ∧ m.checkFails g x c q =
      (((m.keepWalk x.vd (ptrOff q)).fresh.rampAfter x).updGang g (fun x => { x with pck := none })).takeStop g rep := by
  rw [Mach.checkFails, if_neg hc]
  exact ⟨_, rfl, fun h => if_pos h, rfl⟩

section
variable {s : State} {g : Nat} {x : Gang} {j : Job} {a : After} {p : Word} (hx : s.m.gang? g = some x) (hj : s.m.job? x.job = some j)
  (hr : x.run = .draining a) (ha : a = .check ∨ a = .checkThenSave) (hp : x.pck = some p) (hw : x.wrote.isSome = true)
  (hd : s.m.drained g = true) (hc : x.causes.any (fun c => c.kind.isPage) = false)
include hx hj hr ha hp hw hd hc

/-- The last piece is written. -/
theorem execCheckpoint_done (hn : s.m.checkPiece x j = none) :
    execCheckpoint g s = .next { s with m := (s.m.bumpVg x.vd).checked g x a } := by
  simp only [execCheckpoint, hx, hj, Option.bind_some, Option.map_some, hr, hp, hn]
  exact event_next (by rcases ha with rfl | rfl <;> simp [hw, hd, hc])

/-- A piece meets a fault. -/
theorem execCheckpoint_fails {b : Piece} {c : BitVec 8} {q : Word} (hn : s.m.checkPiece x j = some b)
    (he : s.m.writeThrough x.vd p b = .error (c, q)) : execCheckpoint g s = .next { s with m := s.m.checkFails g x c q } := by
  simp only [execCheckpoint, hx, hj, Option.bind_some, Option.map_some, hr, hp, hn, he]
  exact event_next (by rcases ha with rfl | rfl <;> simp [hw, hd, hc])

end

/-- Settles O57: each event by its law above. -/
theorem saveEvents : Obligations.SaveEvents := by
  intro s
  simp only [exec_preemptRequest, exec_yieldHoldRelease, exec_contextSave, exec_checkpoint]
  refine ⟨fun job j hj hb => execPreemptRequest_goesTo hj hb, fun job j hj hs hany => ?hold,
    fun g x j hx hj => ⟨fun hr hw hn he => ?save,
    fun a p hr ha hp hw hd hc => ⟨execCheckpoint_done hx hj hr ha hp hw hd hc, fun b c q hn he => ?fails⟩⟩⟩
  case hold =>
    refine ⟨_, (execYieldHoldRelease_eq hj).trans (event_next (by rw [hs, hany]; rfl)), fun g x hg hx hh => ?_⟩
    exact congrArg (Option.map fun y : Gang => (y.run, y.causes, y.frozen)) (Mach.gang?_letStand_all hg hx hh)
  case save =>
    refine ⟨?_, s.m.gang?_saveGang g⟩
    simp only [execContextSave, hx, hj, Option.bind_some, Option.map_some]
    exact event_next (by simp [hr, hw, hn, he])
  case fails =>
    refine ⟨execCheckpoint_fails hx hj hr ha hp hw hd hc hn he, ?_, Mach.checkFails_stops⟩
    rintro rfl
    exact Mach.checkFails_page hx q

end Sys2Proof.Machine
end

section
/-! PROOFS. The kernel's health, errors of memory and links, and reset (R79, R383, R404-R416; log entries 1, 5 and 17). -/
namespace Sys2Proof.Machine

/-! ## The kernel's health (R405-R407) -/

theorem Mach.crash_of_well {m : Mach} (hh : m.mgmt.hold = false) (hd : m.mgmt.dead = false) :
    m.crash.mgmt = { m.mgmt with hold := true, warm := true, warmAt := m.time, warmFails := 0 } ∧
      m.crash.io = { m.io with cores := Vector.replicate 16 false, cache := [] } := by
  rw [Mach.crash, hh, hd]
  exact ⟨rfl, rfl⟩

/-- After a crash the hold stands, or the kernel is dead. -/
theorem Mach.crash_holds (m : Mach) : m.crash.mgmt.hold = true ∨ m.crash.mgmt.dead = true := by
  unfold Mach.crash
  split
  · next h => simpa using h
  · exact .inl rfl

theorem Mach.SameButDies.wantBind {m k : Mach} (h : m.SameButDies k) (vd : Nat) : m.SameButDies (k.wantBind vd) :=
  ite_keeps (P := m.SameButDies) h (h.schedule ..)

/-- The kernel is there again: the hold ends, and the launches of every virtual device are looked at. -/
def Mach.kernelBack (m : Mach) : Mach :=
  let k := { m with
    mgmt := { m.mgmt with hold := false, warmFails := 0 }
    io := { m.io with cores := Vector.replicate 16 true } }.unschedule .warmStartRetry
  (k.vds.foldl (fun k v => k.wantBind v.1) k).watchHeart

theorem Mach.kernelBack_keeps (m : Mach) : m.kernelBack.mgmt = { m.mgmt with hold := false, warmFails := 0, khbAt := m.time } ∧
    m.kernelBack.io.cores = Vector.replicate 16 true := by
  obtain ⟨d, a, f, h⟩ : Mach.SameButDies _ ((Mach.unschedule { m with
    mgmt := { m.mgmt with hold := false, warmFails := 0 }
    io := { m.io with cores := Vector.replicate 16 true } } .warmStartRetry).vds.foldl (fun k v => k.wantBind v.1) _) :=
      foldl_keeps (P := Mach.SameButDies _) (.refl _) fun k v h => h.wantBind v.1
  rw [Mach.kernelBack, h]
  exact ⟨rfl, rfl⟩

section
variable {s : State}

theorem execKreadyWrite_eq (s : State) : execKreadyWrite s = .next { s with
    m := if s.m.mgmt.hold && !s.m.mgmt.dead && s.m.mgmt.kernelOk then s.m.kernelBack else s.m } := rfl

theorem execKreadyWrite_held (hh : s.m.mgmt.hold = true) (hd : s.m.mgmt.dead = false) : execKreadyWrite s = .next { s with
    m := if s.m.mgmt.kernelOk then s.m.kernelBack else s.m } := by
  rw [execKreadyWrite_eq, hh, hd]
  rfl

theorem execKreadyWrite_unheld (hh : s.m.mgmt.hold = false) : execKreadyWrite s = .next s := by
  rw [execKreadyWrite_eq, hh]
  rfl

/-- One more warm start has failed. -/
def Mach.warmFailed (m : Mach) : Mach :=
  { m with
    mgmt := { m.mgmt with warmFails := m.mgmt.warmFails + 1, warmAt := m.time }
    io := { m.io with cores := Vector.replicate 16 false, cache := [] } }

theorem execWarmStartRetry_eq (hh : s.m.mgmt.hold = true) (hd : s.m.mgmt.dead = false)
    (ht : s.m.mgmt.warmAt + 2000 * mcPerMs ≤ s.m.time) : execWarmStartRetry s = .next { s with
      m := if s.m.mgmt.warmFails + 1 < 3 then s.m.warmFailed.schedule .mc (s.m.time + 2000 * mcPerMs) .warmStartRetry
        else
          let m := s.m.warmFailed.jobs.foldl (fun m p => m.endJob p.1 4 0 0) s.m.warmFailed
          { m with mgmt := { m.mgmt with dead := true } } } :=
  event_next (by simp [hh, hd, ht])

theorem execKhbWrite_well (hh : s.m.mgmt.hold = false) (hd : s.m.mgmt.dead = false) :
    execKhbWrite s = .next { s with m := s.m.watchHeart } := by
  rw [execKhbWrite, hh, hd]
  rfl

end

/-! ## The mirror region (R408, R409) -/

/-- `k` is `m` but for device memory and its faulty lines. -/
def Mach.SameButDev (m k : Mach) : Prop := ∃ dev faulty, k = { m with dev := dev, faulty := faulty }

theorem Mach.sameButDev_fromMirror (m : Mach) (r : Mirror) (pa n : Nat) : m.SameButDev (m.fromMirror r pa n) := by
  unfold Mach.fromMirror
  extract_lets a
  split <;> exact ⟨_, _, rfl⟩

theorem Mach.dev_fromMirror {m k : Mach} (hd : k.dev = m.dev) (r : Mirror) (pa n : Nat) :
    (k.fromMirror r pa n).dev = (m.fromMirror r pa n).dev := by
  unfold Mach.fromMirror
  extract_lets a
  split
  · exact hd
  · simp only [hd]

/-- The monitor pair has taken up a line that cannot be corrected, and logged it; `mirr` where its mirror is good. -/
def Mach.takenUp (m : Mach) (q : Nat) (mirr : Bool) : Mach :=
  Mach.logArray { m.fresh with io := { m.io with monitor := m.io.monitor.filter (· != q) } } (q * 64) (m.fresh.draw 49) true mirr

/-- A page remapped to the next spare one, and copied from the mirror. -/
def Mach.remapped (m : Mach) (r : Mirror) (q : Nat) : Mach :=
  { m with mgmt := { m.mgmt with remaps := m.mgmt.remaps ++ [(q * 64 / 65536, m.mgmt.remaps.length)] } }.fromMirror r (q * 64) 65536

/-- A line that cannot be repaired: reads of it return 0x10. -/
def Mach.loseLine (m : Mach) (q : Nat) : Mach := { m with io := { m.io with lost := m.io.lost ++ [q] } }

/-- No spare page is left, or the line's page is remapped already. -/
def Mach.noRemap (m : Mach) (q : Nat) : Bool := m.mgmt.remaps.length ≥ 64 || m.mgmt.remaps.any (fun r => r.1 == q * 64 / 65536)

theorem Mach.crash_dev (m : Mach) : m.crash.dev = m.dev := by
  unfold Mach.crash
  split <;> rfl

theorem Mach.crash_lost (m : Mach) : m.crash.io.lost = m.io.lost := by
  unfold Mach.crash
  split <;> rfl

section
variable {m : Mach} {q : Nat} {r : Mirror} {tw : Nat} (hr : m.mgmt.mirror = some r) (ht : r.twin (q * 64) = some tw)
include hr ht

/-- The repair of a line of the mirror region. -/
theorem Mach.repair_eq (good readback : Bool) : m.repair q good readback =
    if !good || m.faulty.contains (tw / 64) then ((m.takenUp q false).loseLine q).crash
    else if readback || ((m.takenUp q true).fromMirror r (q * 64) 64).noRemap q then (m.takenUp q true).fromMirror r (q * 64) 64
    else ((m.takenUp q true).fromMirror r (q * 64) 64).remapped r q := by
  have hin : ({ m.fresh with io := { m.fresh.io with monitor := m.fresh.io.monitor.filter (· != q) } } : Mach).mgmt.mirror.filter
      (fun r => (r.twin (q * 64)).isSome) = some r := by
    simp [hr, ht]
  simp only [Mach.repair, hin, ht, Option.any_some, Mach.noRemap, ← Bool.or_assoc] <;> rfl

/-- With the mirror bad too the kernel has crashed, and the line is lost. -/
theorem Mach.repair_bad {good : Bool} (readback : Bool) (hb : good = false ∨ m.faulty.contains (tw / 64) = true) :
    ((m.repair q good readback).mgmt.hold = true ∨ (m.repair q good readback).mgmt.dead = true) ∧
      q ∈ (m.repair q good readback).io.lost ∧ (m.repair q good readback).dev = m.dev := by
  have hcond : (!good || m.faulty.contains (tw / 64)) = true := by rcases hb with rfl | hb <;> simp_all
  rw [Mach.repair_eq hr ht, hcond, if_pos rfl, Mach.crash_lost, Mach.crash_dev]
  exact ⟨Mach.crash_holds _, List.mem_append_right _ (List.mem_singleton.mpr rfl), rfl⟩

end

/-- What a repair from the mirror leaves. -/
def Mach.RepairKeeps (m k : Mach) (q : Nat) : Prop :=
  k.mgmt.hold = m.mgmt.hold ∧ k.queue = m.queue ∧ k.io.monitor.contains q = false

section
variable {q : Nat} {r : Mirror}

/-- A line written from its mirror. -/
theorem Mach.mended_keeps (m : Mach) (q : Nat) (r : Mirror) : m.RepairKeeps ((m.takenUp q true).fromMirror r (q * 64) 64) q ∧
    ((m.takenUp q true).fromMirror r (q * 64) 64).mgmt.remaps = m.mgmt.remaps := by
  obtain ⟨_, _, h⟩ := (m.takenUp q true).sameButDev_fromMirror r (q * 64) 64
  have hmon : (m.io.monitor.filter (· != q)).contains q = false := by simp
  rw [h]
  exact ⟨⟨rfl, rfl, hmon⟩, rfl⟩

theorem Mach.RepairKeeps.remapped {m k : Mach} (h : m.RepairKeeps k q) : m.RepairKeeps (k.remapped r q) q ∧
    (k.remapped r q).mgmt.remaps = k.mgmt.remaps ++ [(q * 64 / 65536, k.mgmt.remaps.length)] := by
  obtain ⟨_, _, heq⟩ := Mach.sameButDev_fromMirror { k with
    mgmt := { k.mgmt with remaps := k.mgmt.remaps ++ [(q * 64 / 65536, k.mgmt.remaps.length)] } } r (q * 64) 65536
  rw [Mach.remapped, heq]
  exact ⟨h, rfl⟩

end

section
variable {m : Mach} {q : Nat} {r : Mirror} {tw : Nat} (hr : m.mgmt.mirror = some r) (ht : r.twin (q * 64) = some tw)
  (hf : m.faulty.contains (tw / 64) = false)
include hr ht hf

/-- A line whose mirror is good and that reads back well. -/
theorem Mach.repair_read : m.repair q true true = (m.takenUp q true).fromMirror r (q * 64) 64 := by
  rw [Mach.repair_eq hr ht, hf]
  rfl

/-- One that does not read back is remapped, where a spare page is left. -/
theorem Mach.repair_unread : m.repair q true false =
    if ((m.takenUp q true).fromMirror r (q * 64) 64).noRemap q then (m.takenUp q true).fromMirror r (q * 64) 64
    else ((m.takenUp q true).fromMirror r (q * 64) 64).remapped r q := by
  rw [Mach.repair_eq hr ht, hf]
  rfl

theorem Mach.repair_good (readback : Bool) : m.RepairKeeps (m.repair q true readback) q := by
  have hmend := (m.mended_keeps q r).1
  cases readback with
  | true => rwa [Mach.repair_read hr ht hf]
  | false =>
    rw [Mach.repair_unread hr ht hf]
    exact ite_keeps (P := fun k => m.RepairKeeps k q) hmend hmend.remapped.1

theorem Mach.remaps_repair_unread (h0 : m.mgmt.remaps = []) : (m.repair q true false).mgmt.remaps = [(q * 64 / 65536, 0)] := by
  obtain ⟨hmend, hremaps⟩ := m.mended_keeps q r
  rw [h0] at hremaps
  rw [Mach.repair_unread hr ht hf, Mach.noRemap, hremaps, if_neg (by simp), hmend.remapped.2, hremaps]
  rfl

end

/-! ## Channels (R412, R414) -/

/-- `k` has logged a failed transfer of `m`, and has the memory and the gangs of `m`. -/
def Mach.Logged (m : Mach) (f : LinkFault) (k : Mach) : Prop :=
  k.mgmt = (m.logLink f 0xFF 0 false m.time).mgmt ∧ k.dev = m.dev ∧ k.gangs = m.gangs

/-- A failed transfer is logged, and its channel held. -/
theorem execLinkRetry_goesTo {s : State} {f : LinkFault} (hn : s.m.linkNext f = true) (h3 : f.retry ≠ 3) :
    GoesTo (execLinkRetry f s) (fun t => s.m.Logged f t.m) := by
  refine ⟨_, event_next (by simpa [hn] using h3), ?_⟩
  have hkeep : ∀ {p : Prop} [Decidable p] {a b : Mach}, s.m.Logged f a → s.m.Logged f b → s.m.Logged f (if p then a else b) :=
    ite_keeps
  exact hkeep ⟨rfl, rfl, rfl⟩ (hkeep ⟨rfl, rfl, rfl⟩ ⟨rfl, rfl, rfl⟩)

section
variable {s : State} {f : LinkFault} (hn : s.m.linkNext f = true) (h3 : f.retry = 3)
include hn h3

theorem execLaneTestComplete_none : Goes (execLaneTestComplete f none s) := ⟨_, event_next (by simp [hn, h3])⟩

variable {l : BitVec 8} (hl : laneIn f.group.toNat l.toNat = true)
include hl

theorem execLaneTestComplete_found : Goes (execLaneTestComplete f (some l) s) := ⟨_, event_next (by simp [hn, h3, hl])⟩

/-- The first lane of a channel that fails gets the first spare of its set. -/
theorem execLaneTestComplete_swaps (h0 : s.m.mgmt.swaps = []) : GoesTo (execLaneTestComplete f (some l) s) (fun t =>
    t.m.mgmt.swaps = [(f.die.toNat, f.layer.toNat, f.chan.toNat, l.toNat, 0)]) := by
  refine ⟨_, event_next (by simp [hn, h3, hl]), ?_⟩
  simp [h0, Mach.logLink, Mach.holdLink]

end

/-! ## Reset (R79, R383, R412, R416) -/

/-- `k` has the flash of `g`, and its lane swaps with others after them. -/
def Mgmt.SameFlash (g k : Mgmt) : Prop := k.flash = g.flash ∧ g.swaps <+: k.swaps

theorem Mgmt.SameFlash.badLane {g k : Mgmt} (h : g.SameFlash k) (l : Nat × Nat × Nat × Nat) : g.SameFlash (k.badLane l) := by
  obtain ⟨d, y, c, n⟩ := l
  exact ite_keeps (P := g.SameFlash) h (ite_keeps (P := g.SameFlash) ⟨h.1, h.2.trans (List.prefix_append _ _)⟩ h)

/-- A self-test keeps the flash and the spares in use. -/
theorem Mgmt.sameFlash_tested (g : Mgmt) : g.SameFlash g.tested :=
  foldl_keeps (P := g.SameFlash) ⟨rfl, List.prefix_rfl⟩ fun _ l hk => hk.badLane l

theorem Mgmt.sameFlash_boot (g : Mgmt) : g.SameFlash g.boot := Mgmt.sameFlash_tested _

theorem Mach.SameButDies.recordCap {m k : Mach} (h : m.SameButDies k) (d c : Nat) (cap : BitVec 4) :
    m.SameButDies (k.recordCap d c cap) := by
  unfold Mach.recordCap
  split
  · exact h
  · refine ite_keeps (P := m.SameButDies) (h.updDie ..) ?_
    exact ite_keeps (P := m.SameButDies) ((h.updDie ..).schedule ..) (h.updDie ..)

/-- `k` is `m` but for the dies, the events to come, the kernel's cores and the management core, which keeps its flash and its swaps. -/
def Mach.SameBoot (m k : Mach) : Prop := ∃ dies agenda freeCtr io g,
  k = { m with dies := dies, agenda := agenda, freeCtr := freeCtr, io := io, mgmt := g } ∧
    g.flash = m.mgmt.flash ∧ g.swaps = m.mgmt.swaps

theorem Mach.SameBoot.of_dies {m k l : Mach} (h : m.SameBoot k) (hl : k.SameButDies l) : m.SameBoot l := by
  obtain ⟨_, _, _, _, _, rfl, hg⟩ := h
  obtain ⟨_, _, _, rfl⟩ := hl
  exact ⟨_, _, _, _, _, rfl, hg⟩

theorem Mach.SameBoot.withMgmt {m k : Mach} (h : m.SameBoot k) {g : Mgmt} (hf : g.flash = k.mgmt.flash) (hs : g.swaps = k.mgmt.swaps) :
    m.SameBoot { k with mgmt := g } := by
  obtain ⟨_, _, _, _, _, rfl, hflash, hswaps⟩ := h
  exact ⟨_, _, _, _, _, rfl, hf.trans hflash, hs.trans hswaps⟩

theorem Mach.SameBoot.setBudget {m k : Mach} (h : m.SameBoot k) (watts : Nat) : m.SameBoot (k.setBudget watts) := by
  have hcaps : Mach.SameButDies { k with mgmt := { k.mgmt with budget := watts } } (k.setBudget watts) :=
    foldl_keeps (P := Mach.SameButDies _) (.refl _) fun _ _ hk => hk.recordCap ..
  exact (h.withMgmt (g := { k.mgmt with budget := watts }) rfl rfl).of_dies hcaps

/-- The cap message that has been held changes caps alone. -/
theorem Mach.SameBoot.applyHeldCap {m k : Mach} (h : m.SameBoot k) : m.SameBoot k.applyHeldCap := by
  unfold Mach.applyHeldCap
  split
  · exact h
  · next watts end_ _ =>
    have hheld := h.withMgmt (g := { k.mgmt with capHeld := none, leaseEnd := some end_ }) rfl rfl
    exact (hheld.setBudget watts).of_dies (.schedule (.refl _) ..)

/-- The package as a reset leaves it, before the boot decides on power. -/
def Mach.restarted (m : Mach) : Mach :=
  { Mach.reset with
    dies := Mach.reset.dies.map (fun d => { d with walkers := Vector.replicate 8 m.mgmt.boot.routine })
    time := m.time, host := m.host, agenda := [], inputs := m.inputs, strikes := m.strikes, freeCtr := m.freeCtr + 1, nextId := m.nextId
    mgmt := m.mgmt.boot }

/-- The package booted, or in the safe talkative state with its compute dies gated. -/
def Mach.rebooted (m : Mach) : Mach :=
  if m.restarted.mgmt.booted then
    Mach.applyHeldCap { m.restarted.watchHeart with io := { m.restarted.io with cores := Vector.replicate 16 true } }
  else m.restarted.powerAll false

theorem execReset_eq (s : State) : execReset s = .next { m := s.m.rebooted } := rfl

/-- The boot leaves the package as the reset did, but for power, caps and what is to come. -/
theorem execReset_goesTo (s : State) : GoesTo (execReset s) (fun t => t.iss = none ∧ s.m.restarted.SameBoot t.m) := by
  refine ⟨_, execReset_eq s, rfl, ite_keeps (P := s.m.restarted.SameBoot) ?_ ⟨_, _, _, _, _, rfl, rfl, rfl⟩⟩
  exact Mach.SameBoot.applyHeldCap ⟨_, _, _, _, _, rfl, rfl, rfl⟩

/-! ## Errors that arise (R404, R411) -/

/-- An error of a scratchpad stands in its doubleword. -/
theorem Mach.wornAt_strike {m : Mach} {g r n : Nat} {c : Core} (hc : m.core? g r = some c) (hn : n < 2 ^ 18) :
    (m.strike (.scratch g r n)).wornAt (.scr g r (8 * n)) 8 = true := by
  have hcore := m.core?_updCore_self g r fun c => if n < 2 ^ 18 && !c.worn.contains n then { c with worn := c.worn ++ [n] } else c
  rw [hc, Option.map_some] at hcore
  simp only [Mach.strike, Mach.wornAt, hcore, Option.any_some, List.any_eq_true]
  refine ⟨n, ?_, by simp⟩
  by_cases hw : n ∈ c.worn
  · simp [hw]
  · have hcond : (decide (n < 2 ^ 18) && !c.worn.contains n) = true := by
      rw [decide_eq_true hn]
      simpa using hw
    rw [hcond, if_pos rfl]
    exact List.mem_append_right _ (List.mem_singleton.mpr rfl)

/-- A doubleword written whole is worn no longer. -/
theorem Mach.wornAt_writeLoc (m : Mach) (g r n : Nat) :
    (m.writeLoc (.scr g r (8 * n)) (offs (List.replicate 8 0))).wornAt (.scr g r (8 * n)) 8 = false := by
  simp only [Mach.writeLoc, Mach.wornAt, Mach.core?_updCore_self]
  cases m.core? g r with
  | none => rfl
  | some c =>
    have hall : (List.range 8).all (fun i => (offs (List.replicate 8 0)).any fun p => 8 * n + p.1 == 8 * n + i) = true := by
      simp [offs, List.range_succ]
    have hkept : n ∉ (if c.worn.isEmpty then [] else c.worn.filter fun w =>
        !((List.range 8).all fun i => (offs (List.replicate 8 0)).any fun p => 8 * n + p.1 == 8 * w + i)) := by
      split
      · exact List.not_mem_nil
      · intro hn
        have hleft := (List.mem_filter.mp hn).2
        rw [hall] at hleft
        cases hleft
    rw [Option.map_some, Option.any_some, List.any_eq_false]
    intro w hw
    have hne : w ≠ n := fun h => hkept (h ▸ hw)
    simp only [Bool.and_eq_true, decide_eq_true_eq]
    omega

/-- An error of a core's memories or registers is counted for the core of its cluster. -/
theorem Mach.ecc_strike {m : Mach} {g r : Nat} {x : Gang} {c : Cluster} (hx : m.gang? g = some x)
    (hc : m.cluster? x.die x.cluster = some c) : ((m.strike (.bit g r)).cluster? x.die x.cluster).map
      (fun c => tget c.ecc (coreNo x.quadMask r)) = some (some ((tget c.ecc (coreNo x.quadMask r)).getD 0 + 1)) := by
  simp only [Mach.strike, hx, Mach.cluster?_updCluster_self, hc, Option.map_some, tget_tset_self]

/-- Settles O60: each event by its law above. -/
theorem healthErrorsAndReset : Obligations.HealthErrorsAndReset := by
  intro s
  simp only [exec_khbWrite, exec_kpanicWrite, exec_kreadyWrite, exec_heartbeatTimeout, exec_warmStartRetry, exec_mirrorRepair,
    exec_linkRetry, exec_laneTestComplete, exec_reset]
  refine ⟨?health, fun pa good readback r tw hm hr ht => ?mirror, fun f hn => ⟨execLinkRetry_goesTo hn, fun h3 => ?lane⟩, ?reset,
    fun pa sym => ⟨rfl, rfl, tget_tset_self _ _ _⟩, fun g r x c hx hc => Mach.ecc_strike hx hc,
    fun g r c hc n hn => ⟨Mach.wornAt_strike hc hn, Mach.wornAt_writeLoc ..⟩⟩
  case health =>
    refine ⟨⟨_, rfl⟩, fun hh hd => ⟨_, execKhbWrite_well hh hd, rfl⟩, ⟨_, rfl, s.m.crash_holds⟩, ⟨_, rfl⟩,
      fun hh hd => ⟨_, execKreadyWrite_held hh hd, ?_⟩, execKreadyWrite_unheld, fun hh hd ht => ?_, fun hh hd ht => ?_⟩
    · cases s.m.mgmt.kernelOk with
      | true => exact s.m.kernelBack_keeps
      | false => rfl
    · obtain ⟨hmgmt, hio⟩ := Mach.crash_of_well hh hd
      exact ⟨_, event_next (by simp [hh, hd, ht]), hmgmt, congrArg _ hio, congrArg _ hio⟩
    · have hexec := execWarmStartRetry_eq hh hd ht
      refine ⟨⟨_, hexec⟩, fun hlt => ⟨_, hexec, ?_⟩, fun hle => ⟨_, hexec, ?_⟩⟩
      · rw [if_pos (by omega)]
        rfl
      · rw [if_neg (by omega)]
  case mirror =>
    refine ⟨fun hgood hf => ⟨_, event_next hm, ?_⟩, fun hbad => ⟨_, event_next hm, Mach.repair_bad hr ht readback hbad⟩⟩
    subst hgood
    obtain ⟨hhold, hqueue, hmon⟩ := Mach.repair_good hr ht hf readback
    refine ⟨hhold, hqueue, hmon, ?_, ?_⟩
    · rintro rfl
      dsimp only
      rw [Mach.repair_read hr ht hf]
      exact ⟨(s.m.mended_keeps _ r).2, Mach.dev_fromMirror (m := s.m) (k := s.m.takenUp _ true) rfl ..⟩
    · rintro rfl h0
      exact Mach.remaps_repair_unread hr ht hf h0
  case lane =>
    exact ⟨execLaneTestComplete_none hn h3,
      fun l hl => ⟨execLaneTestComplete_found hn h3 hl, execLaneTestComplete_swaps hn h3 hl⟩⟩
  case reset =>
    obtain ⟨t, hexec, hiss, _, _, _, _, g, hm, hflash, hswaps⟩ := execReset_goesTo s
    obtain ⟨hboot, l, hl⟩ := s.m.mgmt.sameFlash_boot
    refine ⟨t, hexec, hiss, ?_⟩
    rw [hm]
    exact ⟨rfl, rfl, rfl, rfl, rfl, rfl, rfl, rfl, rfl, hflash.trans hboot, l, hswaps.trans hl.symm⟩

end Sys2Proof.Machine
end

section
/-! PROOFS. The words that the spec writes out, decoded (R86-R211), and the target of a control word (R84). -/
namespace Sys2Proof.Machine

/-! ## Words written out by the spec -/

/-- Settles O2: the decoder run on each word. -/
theorem wordsOfTheSpecDecode : Obligations.WordsOfTheSpecDecode :=
  ⟨rfl, rfl, rfl, rfl, rfl, rfl, rfl, rfl, rfl, rfl, rfl, rfl, rfl⟩

/-! ## The running agent is there after an update of the state -/

section
variable {s : State}

theorem State.isSome_seq?_updSeq (ha : (s.m.seq? s.cur).isSome = true) (f : Seq → Seq) :
    ((s.updSeq f).m.seq? (s.updSeq f).cur).isSome = true := by
  rw [State.updSeq_cur, State.updSeq, Mach.seq?_updSeq_self, Option.isSome_map, ha]

theorem State.isSome_seq?_updRegs (ha : (s.m.seq? s.cur).isSome = true) (f : StreamRegs → StreamRegs) :
    ((s.updRegs f).m.seq? (s.updRegs f).cur).isSome = true :=
  State.isSome_seq?_updSeq ha _

theorem State.OnCore.of_seq? {k r : Nat} {st : Stream} (hc : s.cur = .core k r st) (ha : (s.m.seq? s.cur).isSome = true) :
    s.OnCore k r st s.core :=
  .of_cur hc (by simpa [hc, Mach.seq?] using ha)

theorem State.isSome_seq?_emit (ha : (s.m.seq? s.cur).isSome = true) (lat : Nat) (p : Pend) :
    ((s.emit lat p).m.seq? (s.emit lat p).cur).isSome = true := by
  cases hc : s.cur with
  | core k r st => exact ((State.OnCore.of_seq? hc ha).emit lat p).isSome_seq?
  | loupe d i c =>
    simp only [State.emit, hc]
    exact State.isSome_seq?_updSeq ha _

theorem State.isSome_seq?_link (ha : (s.m.seq? s.cur).isSome = true) (l : Nat) :
    ((s.link l).m.seq? (s.link l).cur).isSome = true := by
  unfold State.link
  split
  · exact State.isSome_seq?_emit ha ..
  · exact State.isSome_seq?_emit ha ..
  · exact State.isSome_seq?_updRegs ha _

theorem State.isSome_seq?_groupSwitch (ha : (s.m.seq? s.cur).isSome = true) :
    (s.groupSwitch.m.seq? s.groupSwitch.cur).isSome = true := by
  cases hc : s.cur with
  | core k r st =>
    simp only [State.groupSwitch, hc]
    exact ((State.OnCore.of_seq? hc ha).updCore _).isSome_seq?
  | loupe d i c =>
    simp only [State.groupSwitch, hc]
    exact State.isSome_seq?_updSeq ha _

/-- A taken branch goes on at its target. -/
theorem State.pc_branch (ha : (s.m.seq? s.cur).isSome = true) (t : BitVec 14) (b : Nat) : (s.branch t b).regs.pc = t := by
  rw [State.branch, State.regs_updRegs (State.isSome_seq?_groupSwitch ha)]

/-- So does a back-edge. -/
theorem State.pc_loopBack (ha : (s.m.seq? s.cur).isSome = true) (t : BitVec 14) (q0 : Bool) (lc : BitVec 32) (es : BitVec 3) :
    (s.loopBack t q0 lc es).regs.pc = t := by
  rw [State.loopBack, State.regs_updRegs ha]

end

/-! ## The target of a control word (R84) -/

/-- R84 of what a control word comes to: it goes on at the target where that lies in the declared section, and else faults. -/
def State.Targets (s : State) (x : Int) (o : Host.Outcome State Fault Refusal) : Prop :=
  (0 ≤ x ∧ x < ((vget s.hdr.csz s.cur.strm.idx 0 : Nat) : Int) → GoesTo o (fun u => u.regs.pc = BitVec.ofInt 14 x)) ∧
  (x < 0 ∨ ((vget s.hdr.csz s.cur.strm.idx 0 : Nat) : Int) ≤ x → o = .next (s.raise { cause := 0x02 }))

/-- Streams whose words name a scalar for the link, and for the target of JMPR (R87, R88). -/
def State.linksScalar (s : State) : Bool := match s.cur.strm with | .s | .l => true | _ => false

theorem linkNeed_eq (s : State) (l : Nat) : linkNeed s l = if s.linksScalar then sn [l] else [] := by
  unfold linkNeed State.linksScalar
  cases s.cur.strm <;> rfl

section
variable {s : State} {g : BitVec 4} {n : Bool} {off : BitVec 18}

theorem State.target_issued_outside {x : Int} (h : x < 0 ∨ ((vget s.hdr.csz s.cur.strm.idx 0 : Nat) : Int) ≤ x) :
    s.issued.target x = .error (.fault { cause := 0x02 }) := by
  have hout : (decide (0 ≤ x) && decide (x < ((vget s.hdr.csz s.cur.strm.idx 0 : Nat) : Int))) = false := by
    simp only [Bool.and_eq_false_iff, decide_eq_false_iff_not]
    omega
  simp only [State.target, State.hdr_issued, State.issued_cur, hout]
  rfl

/-- A control word that goes on where its target says, and does nothing before it has found it, obeys R84. -/
theorem State.jump_targets {decls : List Decl} {body : State → Except Stop State} {x : Int} {go : BitVec 14 → State}
    (hp : Passes s decls g n) (hbody : body s.issued = s.issued.target x >>= fun t => pure (go t)) (hgo : ∀ t, (go t).regs.pc = t) :
    s.Targets x (s.jump decls (s.guard g n) body) := by
  refine ⟨fun ⟨h0, h1⟩ => ⟨_, State.jump_runs hp ?_, hgo _⟩, fun hout => State.jump_stops hp (e := .fault { cause := 0x02 }) ?_⟩
  · rw [hbody, State.target_issued h0 h1]
    rfl
  · rw [hbody, State.target_issued_outside hout]
    rfl

theorem execBr_targets (hp : Passes s [] g n) : s.Targets (s.regs.pc.toNat + off.toInt) (execBr g n off s) := by
  refine State.jump_targets hp (go := fun t => s.issued.branch t 1) ?_ fun t => State.pc_branch (State.isSome_seq?_issued hp.1) t 1
  rw [State.relative_issued hp.1]

theorem execCall_targets (hp : Passes s (linkNeed s 1) g n) : s.Targets (s.regs.pc.toNat + off.toInt) (execCall g n off s) := by
  refine State.jump_targets hp (go := fun t => (s.issued.link 1).branch t 2) ?_
    fun t => State.pc_branch (State.isSome_seq?_link (State.isSome_seq?_issued hp.1) 1) t 2
  rw [State.relative_issued hp.1]

/-- LOOP takes its back-edge while one of its counts is left. -/
theorem execLoop_targets (hp : Passes s [] g n) (hl : s.regs.lc ≠ 0 ∨ s.regs.es ≠ 0) :
    s.Targets (s.regs.pc.toNat + off.toInt) (execLoop g n off s) := by
  have ha := State.isSome_seq?_issued hp.1
  have hrel := State.relative_issued hp.1 off
  have hregs := State.regs_issued hp.1
  by_cases hlc : s.regs.lc = 0
  · have hes : s.regs.es ≠ 0 := hl.resolve_left (not_not.mpr hlc)
    refine State.jump_targets hp (go := fun t => s.issued.loopBack t false 0 (s.regs.es - 1)) ?_ fun t => State.pc_loopBack ha ..
    simp only [hregs, hrel]
    rw [if_neg (by simpa using hlc), if_pos (by simpa using hes)]
  · refine State.jump_targets hp (go := fun t => s.issued.loopBack t true (s.regs.lc - 1) s.regs.es) ?_ fun t => State.pc_loopBack ha ..
    simp only [hregs, hrel]
    rw [if_pos (by simpa using hlc)]

/-- JMPR goes by code 0 of V, M and T to LNK, else to the scalar's value (R88). -/
theorem execJmpr_targets {t l : BitVec 6} (hp : Passes s (sn ([t.toNat] ++ (if l = 0 then [] else [l.toNat]))) g n) :
    s.Targets (if t = 0 ∧ s.linksScalar = false then (s.regs.lnk.toNat : Int) else ((s.issued.rd t.toNat).toNat : Int))
      (execJmpr g n t l s) := by
  have ha := State.isSome_seq?_issued hp.1
  have hlnk : s.issued.regs.lnk = s.regs.lnk := by rw [State.regs_issued hp.1]
  refine State.jump_targets hp
    (go := fun t => (if s.linksScalar && l != 0 then s.issued.link l.toNat else s.issued).branch t 2) ?_ fun t =>
      State.pc_branch ?_ t 2
  · change s.issued.target ((if t = 0 && !s.linksScalar then s.issued.regs.lnk.toNat else (s.issued.rd t.toNat).toNat : Nat))
      >>= _ = _
    simp only [hlnk, Nat.cast_ite, Bool.and_eq_true, decide_eq_true_eq, Bool.not_eq_true']
    rfl
  · split
    · exact State.isSome_seq?_link ha _
    · exact ha

end

/-- Settles O26: each word finds its target before it does anything, so R84 decides it as `State.jump_targets` says. -/
theorem controlTargets : Obligations.ControlTargets := by
  intro s g n off t l tgt onS size reg at_
  simp only [at_, exec_br, exec_call, exec_jmpr, exec_loop]
  exact ⟨fun hp => ⟨execBr_targets hp, fun hl => execLoop_targets hp hl⟩, fun hp => execCall_targets (linkNeed_eq s 1 ▸ hp),
    fun hp => execJmpr_targets hp⟩

end Sys2Proof.Machine
end

section
/-! PROOFS. The loop words: what LSET and LOOP leave of the registers of their stream (R89, R90). -/
namespace Sys2Proof.Machine

section
variable {s : State} {g : BitVec 4} {n : Bool} {off : BitVec 18}

/-- A word that has passed leaves the registers it has made, one cycle and one word on. -/
theorem State.regs_advance (ha : (s.m.seq? s.cur).isSome = true) :
    s.advance.regs = { s.regs with gcyc := s.regs.gcyc + 1, pc := s.regs.pc + 1 } := by
  rw [State.advance, State.regs_updRegs (State.isSome_seq?_issued ha), State.regs_issued ha]

theorem State.falls_issued (ha : (s.m.seq? s.cur).isSome = true) : s.issued.falls = s.falls := by
  simp only [State.falls, State.regs_issued ha, State.hdr_issued, State.issued_cur]

/-- LSET of a count that LC holds. -/
theorem execLset_goesTo {c : BitVec 6} {stages : BitVec 4} {imm : BitVec 8} (h : Runs s (sn [c.toNat]) g n)
    (hc : (s.rd c.toNat).toNat + imm.toNat ≤ 2 ^ 32) :
    GoesTo (execLset g n c stages imm s) (fun u => u.regs = { s.regs with
      pc := s.regs.pc + 1, lc := BitVec.ofNat 32 ((s.rd c.toNat).toNat + imm.toNat - 1), es := BitVec.ofNat 3 (stages.toNat - 1)
      q := if (s.rd c.toNat).toNat + imm.toNat = 0 then 0 else 1, gcyc := s.regs.gcyc + 1 }) := by
  have ha := h.1.1
  refine ⟨_, State.word_runs h (t := s.updRegs fun r => { r with
    lc := BitVec.ofNat 32 ((s.rd c.toNat).toNat + imm.toNat - 1), es := BitVec.ofNat 3 (stages.toNat - 1)
    q := if (s.rd c.toNat).toNat + imm.toNat = 0 then 0 else 1 }) ?_, ?_⟩
  · dsimp only
    rw [decide_eq_true hc]
    rfl
  · dsimp only
    rw [State.regs_advance (State.isSome_seq?_updRegs ha _), State.regs_updRegs ha]

/-- LSET of a higher count. -/
theorem execLset_faults {c : BitVec 6} {stages : BitVec 4} {imm : BitVec 8} (h : Runs s (sn [c.toNat]) g n)
    (hc : 2 ^ 32 < (s.rd c.toNat).toNat + imm.toNat) :
    execLset g n c stages imm s = .next (s.raise { cause := 0x07 }) := by
  refine State.word_stops h.1 (e := .fault { cause := 0x07 }) ?_
  dsimp only
  rw [decide_eq_false (Nat.not_le.mpr hc)]
  rfl

/-- A back-edge of LOOP changes the loop registers and the PC, and is no group switch. -/
theorem State.regs_loopBack_issued (ha : (s.m.seq? s.cur).isSome = true) (t : BitVec 14) (q0 : Bool) (lc : BitVec 32) (es : BitVec 3) :
    (s.issued.loopBack t q0 lc es).regs = { s.regs with
      pc := t, lc := lc, es := es, q := (s.regs.q <<< 1) ||| (if q0 then 1 else 0), rrb := s.regs.rrb + 1, gcyc := s.regs.gcyc + 1 } := by
  rw [State.loopBack, State.regs_updRegs (State.isSome_seq?_issued ha), State.regs_issued ha]

/-- The back-edge of a stage that drains the pipeline. -/
theorem execLoop_drain (h : Passes s [] g n) (hlc : s.regs.lc = 0) (hes : s.regs.es ≠ 0) (h0 : 0 ≤ s.regs.pc.toNat + off.toInt)
    (h1 : s.regs.pc.toNat + off.toInt < ((vget s.hdr.csz s.cur.strm.idx 0 : Nat) : Int)) :
    execLoop g n off s = .next (s.issued.loopBack (BitVec.ofInt 14 (s.regs.pc.toNat + off.toInt)) false 0 (s.regs.es - 1)) := by
  refine State.jump_runs h ?_
  simp only [State.regs_issued h.1]
  rw [if_neg (by simpa using hlc), if_pos (by simpa using hes), State.relative_issued h.1, State.target_issued h0 h1]
  rfl

/-- LOOP at the end of both counts falls through. -/
theorem execLoop_done (h : Passes s [] g n) (hlc : s.regs.lc = 0) (hes : s.regs.es = 0) (hf : s.falls = true) :
    execLoop g n off s = .next (s.issued.updRegs fun r => { r with pc := r.pc + 1 }) := by
  refine State.jump_runs h ?_
  simp only [State.regs_issued h.1]
  rw [if_neg (by simpa using hlc), if_neg (by simpa using hes), State.falls_issued h.1, hf]
  rfl

end

/-- Settles O28: each word is one change of the registers of its stream, in the cases of its counts. -/
theorem loopWords : Obligations.LoopWords := by
  intro s g n c stages imm off count r tgt after
  simp only [exec_lset, exec_loop]
  refine ⟨fun h => ⟨fun h0 => ?none, fun hc => ?some, fun hc => execLset_faults h hc⟩,
    fun h => ⟨fun hlc ht => ?count, fun hlc hes ht => ?drain, fun hlc hes hf => ?done⟩⟩
  case none =>
    have hset := execLset_goesTo (stages := stages) h (show count ≤ 2 ^ 32 by omega)
    rwa [show (s.rd c.toNat).toNat + imm.toNat = 0 from h0] at hset
  case some =>
    have hset := execLset_goesTo (stages := stages) h hc.2
    rwa [if_neg (Nat.pos_iff_ne_zero.mp hc.1)] at hset
  case count => exact ⟨_, execLoop_back h hlc ht.1 ht.2, State.regs_loopBack_issued h.1 ..⟩
  case drain =>
    refine ⟨_, execLoop_drain h hlc hes ht.1 ht.2, ?_⟩
    have hregs := State.regs_loopBack_issued h.1 (BitVec.ofInt 14 tgt) false 0 (r.es - 1)
    rwa [if_neg Bool.false_ne_true, show (0 : BitVec 8) = 0#8 from rfl, BitVec.or_zero] at hregs
  case done =>
    refine ⟨_, execLoop_done h hlc hes hf, ?_⟩
    simp only [after]
    rw [State.regs_updRegs (State.isSome_seq?_issued h.1), State.regs_issued h.1, ← hlc, ← hes]

end Sys2Proof.Machine
end

section
/-! PROOFS. The system registers: what MFSR reads and MTSR writes (R98-R101; log entries 70 and 71). -/
namespace Sys2Proof.Machine

/-! ## Reading (R98, R100) -/

section
variable {s : State} {j n : Nat}

theorem State.sysRead_group {k r : Nat} {st : Stream} (hc : s.cur = .core k r st) (hj : j < 4) :
    s.sysRead (0x10 + j) = match vget s.core.gm j none with | none => 0 | some x => 0x100 ||| x.zeroExtend 64 := by
  have hgm : s.gm j = vget s.core.gm j none := by simp only [State.gm, hc]
  cases hread : vget s.core.gm j none <;>
    simp (disch := omega) only [State.sysRead, if_neg, if_pos, Nat.add_sub_cancel_left, hgm, hread]

/-- A core has the registers of all four of its streams. -/
theorem State.sysRead_stream {st : Stream} {f : Nat} (ho : s.onLoupe = false) (hn : n = 0x100 + 16 * st.idx + f) (hf : f < 16) :
    s.sysRead n = (s.seq.regs st).sys f := by
  have hst := stream_idx_lt st
  have hdiv : (n - 0x100) / 16 = st.idx := by omega
  have hmod : n % 16 = f := by omega
  simp (disch := omega) only [State.sysRead, if_neg, if_pos, ho, Bool.false_and, hdiv, hmod]
  rfl

theorem State.sysRead_tileVersion (hj : j < 8) : s.sysRead (0x200 + j) = (vget s.core.mat.tver j 0).zeroExtend 64 := by
  simp (disch := omega) only [State.sysRead, if_neg, if_pos, Nat.add_sub_cancel_left]

theorem State.sysRead_xbase (hj : j < 8) : s.sysRead (0x810 + j) = vget (s.m.vd s.vd).xbase j 0 := by
  simp (disch := omega) only [State.sysRead, if_neg, if_pos, Nat.add_sub_cancel_left]

theorem State.sysRead_xroot (hj : j < 8) : s.sysRead (0x818 + j) = vget (s.m.vd s.vd).xroot j 0 := by
  simp (disch := omega) only [State.sysRead, if_neg, if_pos, Nat.add_sub_cancel_left]

section
variable {c : Cluster} (ho : s.onLoupe = false) (hc : s.m.cluster? s.gang.die s.gang.cluster = some c)
include ho hc

theorem State.sysRead_pattern :
    s.sysRead 0xB = (c.capNow.zeroExtend 64 <<< 8) ||| (c.cur.zeroExtend 64 <<< 4) ||| s.gang.req.zeroExtend 64 := by
  simp [State.sysRead, ho, hc]

theorem State.sysRead_patternEntry (hj : j < 16) : s.sysRead (0x840 + j) = (vget c.patNew j 0).zeroExtend 64 := by
  simp (disch := omega) only [State.sysRead, if_neg, if_pos, Nat.add_sub_cancel_left, ho, hc]
  rfl

end

/-! ## Writing (R98-R100, R433) -/

theorem State.sysWrite_patternEntry (ho : s.onLoupe = false) (hj : j < 16) (x : Word) :
    s.sysWrite (0x840 + j) x = s.later (.patWrite s.gang.die s.gang.cluster (BitVec.ofNat 4 j) x) := by
  have hentry : BitVec.ofNat 4 (0x840 + j) = BitVec.ofNat 4 j := BitVec.eq_of_toNat_eq (by simp only [BitVec.toNat_ofNat]; omega)
  simp (disch := omega) only [State.sysWrite, if_neg, if_pos, ho, hentry]
  rfl

/-- The registers of the virtual device and of the kernel that one event writes (R433). -/
def plainRegisters : List Nat :=
  [0x810, 0x811, 0x812, 0x813, 0x814, 0x815, 0x816, 0x817, 0x818, 0x819, 0x81A, 0x81B, 0x81C, 0x81D, 0x81E, 0x81F,
    0x820, 0x823, 0x825, 0x880, 0x882]

theorem State.sysWrite_plain (hn : n ∈ plainRegisters) (x : Word) :
    s.sysWrite n x = s.later (.registerWrite s.vd (BitVec.ofNat 12 n) x) := by
  have hplain : (0x810 ≤ n ∧ n ≤ 0x820) ∨ n = 0x823 ∨ n = 0x825 ∨ n = 0x880 ∨ n = 0x882 := by
    simp only [plainRegisters, List.mem_cons, List.not_mem_nil, or_false] at hn
    omega
  simp (disch := omega) only [State.sysWrite, if_neg]

theorem State.sysWrite_notify (x : Word) : ∃ q : QEntry, q.op = .notify s.vd x ∧ q.rel = true ∧ q.sco = 4 ∧
    s.sysWrite 0x20 x = { s with m := s.m.enqueue q 10 } := by
  refine ⟨_, ?_, ?_, ?_, (rfl : s.notifyLaunch x = _)⟩ <;> rfl

end

/-- Settles O32: MFSR and MTSR are one read and one write, and each register by its number. -/
theorem systemRegisterWords : Obligations.SystemRegisterWords := by
  intro s g n d a reg pr
  refine ⟨fun h => (exec_mfsr ..).trans (State.word_runs h rfl), fun h => (exec_mtsr ..).trans (State.word_runs h rfl),
    fun k r st hc => ?_⟩
  have ho : s.onLoupe = false := by rw [State.onLoupe, hc]
  refine ⟨rfl, rfl, rfl, rfl, rfl, rfl, fun j hj => State.sysRead_group hc hj, fun st' => ?streams,
    fun t ht => State.sysRead_tileVersion ht,
    rfl, fun j hj => ⟨State.sysRead_xbase hj, State.sysRead_xroot hj⟩, rfl, rfl, rfl, rfl, rfl,
    fun c hcl => ⟨State.sysRead_pattern ho hcl, fun j hj => State.sysRead_patternEntry ho hcl hj⟩, rfl, rfl, fun x => ?write⟩
  case streams =>
    exact ⟨State.sysRead_stream (f := 0) ho (by omega) (by omega), State.sysRead_stream (f := 1) ho (by omega) (by omega),
      State.sysRead_stream (f := 2) ho (by omega) (by omega), State.sysRead_stream (f := 3) ho (by omega) (by omega),
      State.sysRead_stream (f := 4) ho (by omega) (by omega), State.sysRead_stream (f := 5) ho (by omega) (by omega)⟩
  case write =>
    intro next
    have hlater : ∀ ev, s.later ev = next ev := fun ev => by simp only [State.later, hc, next]
    have hflg : s.sysWrite 8 x = next (.flgWrite k r x) := by
      simp [State.sysWrite, ho, hlater, State.gno, State.rank, hc]
    have hvw : s.sysWrite 9 x = next (.vwWrite k r x) := by
      simp [State.sysWrite, ho, hlater, State.gno, State.rank, hc]
    exact ⟨rfl, rfl, rfl, rfl, hflg, hvw, State.sysWrite_notify x, hlater _, hlater _, hlater _, hlater _, hlater _, hlater _,
      fun j hj => (State.sysWrite_patternEntry ho hj x).trans (hlater _), fun w hw => (State.sysWrite_plain hw x).trans (hlater _)⟩

end Sys2Proof.Machine
end

section
/-! PROOFS. Power: pattern frames, caps, cap messages and master clocks (R96, R115-R120; log entry 28). -/
namespace Sys2Proof.Machine

/-! ## Clusters after an update (R115, R117) -/

theorem getElem?_vupd {α : Type} {n : Nat} (v : Vector α n) (i j : Nat) (f : α → α) :
    (vupd v i f)[j]? = if j = i then v[j]?.map f else v[j]? := by
  split
  · next h => rw [h, getElem?_vupd_self]
  · next h =>
    unfold vupd
    split
    · rfl
    · exact Vector.getElem?_setIfInBounds_ne (Ne.symm h)

theorem Mach.cluster?_updCluster (m : Mach) (d k e l : Nat) (f : Cluster → Cluster) :
    (m.updCluster d k f).cluster? e l = if e = d ∧ l = k then (m.cluster? e l).map f else m.cluster? e l := by
  simp only [Mach.cluster?, Mach.updCluster, Mach.updDie, getElem?_vupd]
  by_cases he : e = d
  · cases m.dies[e]? <;> simp [he, getElem?_vupd]
  · simp [he]

theorem Mach.cluster?_updCtx (m : Mach) (d i c e l : Nat) (f : LoupeCtx → LoupeCtx) : (m.updCtx d i c f).cluster? e l = m.cluster? e l := by
  simp only [Mach.cluster?, Mach.updCtx, Mach.updLoupe, Mach.updDie, getElem?_vupd]
  split
  · cases m.dies[e]? <;> rfl
  · rfl

theorem Mach.cluster?_of_dies {m k : Mach} (h : k.dies = m.dies) (d c : Nat) : k.cluster? d c = m.cluster? d c :=
  congrArg (fun x : Vector Die 4 => x[d]?.bind (fun y => y.clusters[c]?)) h

theorem Mach.cluster?_wantFrame (m : Mach) (d k e l : Nat) : (m.wantFrame d k).cluster? e l = m.cluster? e l :=
  Mach.cluster?_of_dies (m.wantFrame_dies d k) e l

/-! ## Pattern frames and caps (R96, R115, R117, R119) -/

/-- A running ramp only lowers the pattern. -/
theorem Cluster.rampAt_le (c : Cluster) (n : Nat) : c.rampAt n ≤ c.applied := by
  have hmin : (c.ramps.filter (fun r => decide (n < r + 450))).foldl (fun p r => min p (rampPat (n - r))) c.applied.toNat ≤ c.applied.toNat :=
    foldl_keeps (P := (· ≤ c.applied.toNat)) le_rfl fun p r hp => (min_le_left p _).trans hp
  rw [Cluster.rampAt, BitVec.le_def, BitVec.toNat_ofNat]
  exact (Nat.mod_le _ _).trans hmin

theorem execPatternFrame_goesTo {s : State} {d k : Nat} {c : Cluster} (hc : s.m.cluster? d k = some c)
    (ht : s.m.time = s.m.frameTime d (s.m.frameNo d)) :
    GoesTo (execPatternFrame d k s) (fun t => t.m.cluster? d k = some (c.frame (s.m.frameNo d) (s.m.work d k))) := by
  simp only [execPatternFrame, hc]
  refine ⟨_, event_next (beq_iff_eq.mpr ht), ?_⟩
  have hframe := s.m.cluster?_updCluster_self d k fun c => c.frame (s.m.frameNo d) (s.m.work d k)
  rw [hc] at hframe
  dsimp only
  split
  · exact (Mach.cluster?_wantFrame ..).trans hframe
  · exact hframe

/-- A recomputation point applies the cap that waits, and no higher pattern. -/
theorem Mach.cluster?_recompute {m : Mach} {d k : Nat} {c : Cluster} {cap : BitVec 4} {since : Nat} (hc : m.cluster? d k = some c)
    (hn : c.capNew = some (cap, since)) :
    ∃ c', (m.recompute d k).cluster? d k = some c' ∧ c'.cap = cap ∧ c'.capNew = none ∧ c'.applied ≤ cap := by
  have hdue : c.capDue = cap := by rw [Cluster.capDue, hn]
  refine ⟨_, (Mach.cluster?_wantFrame ..).trans ((Mach.cluster?_updCluster_self ..).trans (congrArg (Option.map _) hc)), hdue, rfl, ?_⟩
  dsimp only
  rw [hdue]
  split
  · exact Nat.le_refl _
  · split
    · next hle =>
      rw [BitVec.le_def, BitVec.toNat_ofNat]
      exact (Nat.mod_le _ _).trans hle
    · exact Nat.le_refl _

theorem execForcedLowering_goesTo {s : State} {d k : Nat} {c : Cluster} {cap : BitVec 4} {since : Nat} (hc : s.m.cluster? d k = some c)
    (hn : c.capNew = some (cap, since)) (hlt : cap < c.cap) (hw : since + 2 ^ 20 ≤ s.m.dieCycles d) :
    GoesTo (execForcedLowering d k s)
      (fun t => ∃ c', t.m.cluster? d k = some c' ∧ c'.cap = cap ∧ c'.capNew = none ∧ c'.applied ≤ cap) := by
  refine ⟨_, event_next ?_, Mach.cluster?_recompute hc hn⟩
  simp only [hc, hn, Option.map_some, Option.getD_some, decide_eq_true hlt, decide_eq_true hw, Bool.and_self]

/-! ## Cap messages (R120) -/

/-- A budget is recorded in the management core, and in the clusters. -/
theorem Mach.mgmt_setBudget (m : Mach) (watts : Nat) : (m.setBudget watts).mgmt = { m.mgmt with budget := watts } := by
  have hcaps : Mach.SameButDies { m with mgmt := { m.mgmt with budget := watts } } (m.setBudget watts) :=
    foldl_keeps (P := Mach.SameButDies _) (.refl _) fun _ _ hk => hk.recordCap ..
  obtain ⟨_, _, _, hk⟩ := hcaps
  rw [hk]

/-- A message newer than the last one of its sequence numbers, modulo 2^32. -/
def Mgmt.newer (g : Mgmt) (seq : BitVec 32) : Prop := ∀ last, g.capSeq = some last → 1 ≤ (seq - last).toNat ∧ (seq - last).toNat < 2 ^ 31

section
variable {m : Mach} {seq : BitVec 32} (watts ms : Nat)

theorem Mach.capMessage_old {last : BitVec 32} (hs : m.mgmt.capSeq = some last)
    (ho : ¬ (1 ≤ (seq - last).toNat ∧ (seq - last).toNat < 2 ^ 31)) : m.capMessage seq watts ms = m := by
  have hold : (decide (1 ≤ (seq - last).toNat) && decide ((seq - last).toNat < 2 ^ 31)) = false := by
    rw [← Bool.decide_and, decide_eq_false ho]
  simp only [Mach.capMessage, hs, hold]
  rfl

/-- In the safe talkative state a message is kept for later. -/
theorem Mach.capMessage_unbooted (hs : m.mgmt.capSeq = none) (hb : m.mgmt.booted = false) : m.capMessage seq watts ms =
    { m with mgmt := { m.mgmt with capSeq := some seq, capHeld := some (seq, watts, m.time + ms * mcPerMs) } } := by
  simp only [Mach.capMessage, hs, hb]
  rfl

theorem Mach.mgmt_capMessage_booted (hb : m.mgmt.booted = true) (hn : m.mgmt.newer seq) : (m.capMessage seq watts ms).mgmt =
    { m.mgmt with capSeq := some seq, leaseEnd := some (m.time + ms * mcPerMs), budget := watts } := by
  have hset : m.capMessage seq watts ms = (Mach.setBudget { m with mgmt := { m.mgmt with
      capSeq := some seq, leaseEnd := some (m.time + ms * mcPerMs) } } watts).schedule .mc (m.time + ms * mcPerMs) .capLeaseExpiry := by
    cases hs : m.mgmt.capSeq with
    | none =>
      simp only [Mach.capMessage, hs, hb]
      rfl
    | some last =>
      obtain ⟨h1, h2⟩ := hn last hs
      simp only [Mach.capMessage, hs, hb, decide_eq_true h1, decide_eq_true h2]
      rfl
  rw [hset, Mach.schedule_mgmt, Mach.mgmt_setBudget]

end

/-- An expired lease leaves the floor budget. -/
theorem execCapLeaseExpiry_goesTo {s : State} {e : Nat} (he : s.m.mgmt.leaseEnd = some e) (ht : e ≤ s.m.time) :
    GoesTo (execCapLeaseExpiry s) (fun t => t.m.mgmt = { s.m.mgmt with leaseEnd := none, budget := s.m.mgmt.floor.toNat }) :=
  ⟨_, event_next (by simp [he, ht]), Mach.mgmt_setBudget { s.m with mgmt := { s.m.mgmt with leaseEnd := none } } s.m.mgmt.floor.toNat⟩

/-! ## The master clock (R116) -/

/-- `k` is `m` but for the events to come. -/
def Mach.Rescheduled (m k : Mach) : Prop := ∃ agenda, k = { m with agenda := agenda }

section
variable {m k : Mach}

theorem Mach.Rescheduled.refl (m : Mach) : m.Rescheduled m := ⟨_, rfl⟩

theorem Mach.Rescheduled.schedule (h : m.Rescheduled k) (clk : Clock) (n : Nat) (ev : Instr) : m.Rescheduled (k.schedule clk n ev) := by
  obtain ⟨_, rfl⟩ := h
  exact ⟨_, rfl⟩

theorem Mach.Rescheduled.wantFrame (h : m.Rescheduled k) (d c : Nat) : m.Rescheduled (k.wantFrame d c) :=
  ite_keeps (P := m.Rescheduled) h (h.schedule ..)

theorem Mach.Rescheduled.eq (h : m.Rescheduled k) : k = { m with agenda := k.agenda } := by
  obtain ⟨_, rfl⟩ := h
  rfl

theorem Mach.Rescheduled.dieCycles (h : m.Rescheduled k) (d : Nat) : k.dieCycles d = m.dieCycles d := by
  obtain ⟨_, rfl⟩ := h
  rfl

/-- A new clock moves what is to come of its die, and nothing else. -/
theorem Mach.rescheduled_retime (m : Mach) (die : Nat) : m.Rescheduled (m.retime die) := by
  refine foldl_keeps (P := m.Rescheduled) ⟨_, rfl⟩ fun k e hk => ?_
  split
  · exact hk.wantFrame ..
  · exact hk.schedule ..
  · split
    · exact hk.schedule ..
    · exact hk
  · exact hk

end

/-- A die whose clock is set anew at a reading of TIME. -/
def Die.reclocked (d : Die) (num den time : Nat) : Die := { d with clkNum := num, clkDen := den, clkTime := time, clkCyc := d.cycles time }

theorem Die.cycles_reclocked (d : Die) (num den time : Nat) : (d.reclocked num den time).cycles time = d.cycles time := by
  rw [Die.cycles, Die.reclocked, Nat.sub_self, Nat.zero_mul, Nat.zero_div, Nat.add_zero]

theorem execMasterClockChange_goesTo {s : State} {die num den : Nat} (hg : s.m.gangs.all (fun p => p.2.die != die) = true)
    (hn : 0 < num) (hd : 0 < den) :
    GoesTo (execMasterClockChange die num den s) (fun t => t.m.dieCycles die = s.m.dieCycles die ∧
      t.m = { s.m.updDie die (fun d => d.reclocked num den s.m.time) with agenda := t.m.agenda }) := by
  have hnone : s.m.gangs.any (fun p => p.2.die == die) = false := by
    simpa only [List.any_eq_false, List.all_eq_true, bne_iff_ne, beq_iff_eq] using hg
  have hre := (s.m.updDie die fun d => d.reclocked num den s.m.time).rescheduled_retime die
  refine ⟨_, event_next (by simp [hnone, hn, hd]), (hre.dieCycles die).trans ?_, hre.eq⟩
  simp only [Mach.dieCycles, Mach.updDie, getElem?_vupd_self, Option.map_map, Function.comp_def, Die.cycles_reclocked]

theorem execMasterClockChange_refused {s : State} {die num den : Nat} (hg : s.m.gangs.any (fun p => p.2.die == die) = true) :
    execMasterClockChange die num den s = .fault .notEnabled := by
  simp [execMasterClockChange, event, hg]

end Sys2Proof.Machine
end

section
/-! PROOFS. Sleep: what an operation leaves of a virtual device, and the steps of its collapse (R376, R378, R382). -/
namespace Sys2Proof.Machine

/-! ## A virtual device through an operation -/

/-- What is read of a virtual device. -/
def Mach.VdReads {β : Type} (m : Mach) (vd : Nat) (φ : VDev → β) (b : β) : Prop := (m.vd? vd).map φ = some b

section
variable {β γ : Type} {m k : Mach} {vd : Nat} {φ : VDev → β} {b : β}

theorem Mach.VdReads.of_vd? {v : VDev} (h : m.vd? vd = some v) (φ : VDev → β) : m.VdReads vd φ (φ v) := by
  rw [Mach.VdReads, h, Option.map_some]

theorem Mach.VdReads.of_vds (h : m.VdReads vd φ b) (hk : k.vds = m.vds) : k.VdReads vd φ b :=
  (congrArg (Option.map φ) (Mach.vd?_of_vds hk vd)).trans h

/-- What an update makes of the device itself. -/
theorem Mach.VdReads.updVd_self (h : m.VdReads vd φ b) {f : VDev → VDev} {ψ : VDev → γ} {χ : β → γ} (hf : ∀ v, ψ (f v) = χ (φ v)) :
    (m.updVd vd f).VdReads vd ψ (χ b) := by
  obtain ⟨v, hv, rfl⟩ := Option.map_eq_some_iff.mp h
  rw [Mach.VdReads, Mach.vd?_updVd_self, hv, Option.map_some, Option.map_some, hf]

/-- An update of any device that leaves what is read. -/
theorem Mach.VdReads.updVd (h : m.VdReads vd φ b) (w : Nat) {f : VDev → VDev} (hf : ∀ v, φ (f v) = φ v := by intro; rfl) :
    (m.updVd w f).VdReads vd φ b := by
  by_cases hw : vd = w
  · subst hw
    exact h.updVd_self (χ := id) hf
  · exact (congrArg (Option.map φ) (tget_tupd_ne m.vds w vd f hw)).trans h

end

theorem Mach.SameButDies.vds {m k : Mach} (h : m.SameButDies k) : k.vds = m.vds := by
  obtain ⟨_, _, _, rfl⟩ := h
  rfl

theorem Mach.vds_eachCtx (m : Mach) (vd : Nat) (f : LoupeCtx → LoupeCtx) : (m.eachCtx vd f).vds = m.vds :=
  foldl_keeps (P := fun k : Mach => k.vds = m.vds) rfl fun _ _ hk => hk

/-! ## Sleep (R376, R378, R382) -/

theorem Mach.vds_askBound (m : Mach) (vd : Nat) : (m.askBound vd).vds = m.vds :=
  foldl_keeps (P := fun k : Mach => k.vds = m.vds) rfl fun _ _ hk => hk

theorem Mach.st_startCollapse {m : Mach} {vd : Nat} {v : VDev} (hv : m.vd? vd = some v) :
    (m.startCollapse vd).VdReads vd (·.st) .collapsing :=
  ((Mach.VdReads.of_vd? hv (·.st)).updVd_self (f := fun v => { v with st := .collapsing, step := 1, wakeAt := none })
    (χ := fun _ => VdState.collapsing) fun _ => rfl).of_vds (Mach.vds_askBound _ vd)

/-- With no wake accepted meanwhile a step of a collapse is followed by the next, or by nothing in DORMANT. -/
theorem Mach.rescheduled_nextStep {m : Mach} {vd : Nat} {v : VDev} (hv : m.vd? vd = some v) (hw : v.wakeAt = none) (n : Nat) :
    (m.updVd vd fun v => { v with step := n }).Rescheduled (m.nextStep vd n) := by
  have hwake : ((m.updVd vd fun v => { v with step := n }).vd vd).wakeAt = none := by
    rw [Mach.vd_updVd (by rw [hv]; rfl), Mach.vd, hv]
    exact hw
  simp only [Mach.nextStep, hwake]
  exact ite_keeps (P := Mach.Rescheduled _) (.refl _) (.schedule (.refl _) ..)

theorem Mach.Rescheduled.vds {m k : Mach} (h : m.Rescheduled k) : k.vds = m.vds := by
  obtain ⟨_, rfl⟩ := h
  rfl

theorem Mach.Rescheduled.dies {m k : Mach} (h : m.Rescheduled k) : k.dies = m.dies := by
  obtain ⟨_, rfl⟩ := h
  rfl

theorem Mach.Rescheduled.dev {m k : Mach} (h : m.Rescheduled k) : k.dev = m.dev := by
  obtain ⟨_, rfl⟩ := h
  rfl

/-- The state and the step of the device after it. -/
theorem Mach.step_nextStep {m : Mach} {vd : Nat} {v : VDev} (hv : m.vd? vd = some v) (hw : v.wakeAt = none) (n : Nat) :
    (m.nextStep vd n).VdReads vd (fun w => (w.st, w.step)) (v.st, n) :=
  ((Mach.VdReads.of_vd? hv (·.st)).updVd_self (χ := fun st => (st, n)) fun _ => rfl).of_vds (Mach.rescheduled_nextStep hv hw n).vds

/-! ### The wake image -/

theorem Mach.vds_writeWake (m : Mach) (v : VDev) : (m.writeWake v).vds = m.vds := by
  refine foldl_keeps (P := fun k : Mach => k.vds = m.vds) rfl fun k p hk => ?_
  dsimp only
  split
  · exact hk
  · exact hk

theorem Mach.writeWake_fresh (m : Mach) (v : VDev) : m.fresh.writeWake v = (m.writeWake v).fresh := by
  refine List.foldl_hom Mach.fresh fun k p => ?_
  obtain ⟨⟨d, c⟩, a⟩ := p
  have hc : k.fresh.cluster? d c = k.cluster? d c := rfl
  simp only [hc]
  cases k.cluster? d c <;> rfl

/-! ### The gates -/

/-- The clusters of a device without power. -/
def Mach.unpowered (m : Mach) (v : VDev) : Mach :=
  v.clusters.foldl (fun m (d, k) => m.updCluster d k (fun c =>
    { c with powered := false, sram := if v.wake = 1 then c.sram else [], quads := if v.wake = 1 then c.quads else [] })) m

theorem Mach.gate_eq (m : Mach) (vd : Nat) (v : VDev) : m.gate vd v =
    ((m.unpowered v).eachCtx vd (fun x => if x.run = .free then { x with run := .skipped } else x)).updVd vd (fun w => { w with
      st := .dormant, groups := if w.wake = 1 then w.groups else [], bars := if w.wake = 1 then w.bars else []
      joins := if w.wake = 3 then [] else w.joins }) := rfl

theorem Mach.vds_unpowered (m : Mach) (v : VDev) : (m.unpowered v).vds = m.vds :=
  foldl_keeps (P := fun k : Mach => k.vds = m.vds) rfl fun _ _ hk => hk

/-- The device is DORMANT, and no wake of it has been accepted where none had been. -/
theorem Mach.vd?_gate {m : Mach} {vd : Nat} {v w : VDev} (hw : m.vd? vd = some w) :
    ∃ u, (m.gate vd v).vd? vd = some u ∧ u.st = .dormant ∧ u.wakeAt = w.wakeAt := by
  rw [Mach.gate_eq, Mach.vd?_updVd_self, Mach.vd?_of_vds ((Mach.vds_eachCtx ..).trans (m.vds_unpowered v)), hw]
  exact ⟨_, rfl, rfl, rfl⟩

theorem Mach.cluster?_eachCtx (m : Mach) (vd d k : Nat) (f : LoupeCtx → LoupeCtx) : (m.eachCtx vd f).cluster? d k = m.cluster? d k :=
  foldl_keeps (P := fun n : Mach => n.cluster? d k = m.cluster? d k) rfl fun _ _ hn => (Mach.cluster?_updCtx ..).trans hn

/-- A cluster is not powered. -/
def Mach.Off (m : Mach) (d k : Nat) : Prop := ∀ c, m.cluster? d k = some c → c.powered = false

theorem Mach.Off.updCluster {m : Mach} {d k : Nat} (h : m.Off d k) (e l : Nat) {f : Cluster → Cluster} (hf : ∀ c, (f c).powered = false) :
    (m.updCluster e l f).Off d k := by
  intro c hc
  rw [Mach.cluster?_updCluster] at hc
  split at hc
  · obtain ⟨b, -, rfl⟩ := Option.map_eq_some_iff.mp hc
    exact hf b
  · exact h c hc

theorem Mach.off_updCluster_self (m : Mach) (d k : Nat) {f : Cluster → Cluster} (hf : ∀ c, (f c).powered = false) :
    (m.updCluster d k f).Off d k := by
  intro c hc
  rw [Mach.cluster?_updCluster_self] at hc
  obtain ⟨b, -, rfl⟩ := Option.map_eq_some_iff.mp hc
  exact hf b

theorem Mach.off_gate (m : Mach) (vd : Nat) {v : VDev} {p : Nat × Nat} (hp : p ∈ v.clusters) : (m.gate vd v).Off p.1 p.2 := by
  have hoff : (m.unpowered v).Off p.1 p.2 := foldl_reaches (P := fun _ => True) (Q := fun k : Mach => k.Off p.1 p.2) hp trivial
    (fun _ _ _ => trivial) (fun k _ => k.off_updCluster_self p.1 p.2 fun _ => rfl) fun _ _ hk => hk.updCluster _ _ fun _ => rfl
  intro c hc
  rw [Mach.gate_eq] at hc
  exact hoff c ((Mach.cluster?_eachCtx ..).symm.trans hc)

/-! ### The steps of a collapse -/

section
variable {s : State} {vd : Nat} {v : VDev} (hv : s.m.vd? vd = some v)
include hv

theorem execIdleTimeout_goesTo (hst : v.st = .active) (hc : v.closing = none) (hi : v.idleMs ≠ 0) (hidle : s.m.isIdle vd = true)
    (ht : v.idleSince + v.idleMs * mcPerMs ≤ s.m.time) :
    GoesTo (execIdleTimeout vd s) (fun t => (t.m.vd? vd).map (·.st) = some .collapsing) := by
  have hvd : s.m.vd vd = v := by rw [Mach.vd, hv]; rfl
  refine ⟨_, event_next ?_, Mach.st_startCollapse hv⟩
  rw [hvd, hv, hst, hc, hidle, decide_eq_true ht, bne_iff_ne.mpr hi]
  rfl

variable (hst : v.st = .collapsing) (hc : v.closing = none)
include hst hc

theorem execCollapse_goes : Goes (execCollapse vd s) := by
  simp only [execCollapse, hv]
  exact ⟨_, event_next (by rw [hst, hc]; rfl)⟩

theorem execCollapse_unbound (h1 : v.step = 1) (hw : v.wake ≠ 3) (hj : (s.m.jobsOf vd).all (fun p => !p.2.isBound) = true) :
    execCollapse vd s = .next { s with m := s.m.fresh.nextStep vd 2 } := by
  have hany : (s.m.fresh.jobsOf vd).any (fun p => p.2.isBound) = false := by
    change (s.m.jobsOf vd).any (fun p => p.2.isBound) = false
    simpa only [List.any_eq_false, List.all_eq_true, Bool.not_eq_true', Bool.not_eq_true] using hj
  simp only [execCollapse, hv, h1, hany, if_neg hw]
  exact event_next (by rw [hst, hc]; rfl)

theorem execCollapse_faded (h2 : v.step = 2)
    (hb : v.clusters.all (fun (d, k) => (s.m.cluster? d k).all (fun c => c.ballast.isNone)) = true) :
    execCollapse vd s = .next { s with m := (if v.wake = 2 then s.m.fresh.writeWake v else s.m.fresh).nextStep vd 3 } := by
  have hany : v.clusters.any (fun (d, k) => (s.m.fresh.cluster? d k).any (fun c => c.ballast.isSome)) = false := by
    simp only [List.any_eq_false, List.all_eq_true] at hb ⊢
    intro p hp
    have hnone := hb p hp
    change ¬ ((s.m.cluster? p.1 p.2).any fun c => c.ballast.isSome) = true
    cases hcl : s.m.cluster? p.1 p.2 with
    | none => simp
    | some c => simpa [hcl] using hnone
  simp only [execCollapse, hv, h2, hany, Bool.and_false]
  exact event_next (by rw [hst, hc]; rfl)

theorem execCollapse_gates (h3 : v.step = 3) : execCollapse vd s = .next { s with m := (s.m.fresh.gate vd v).nextStep vd 1 } := by
  simp only [execCollapse, hv, h3]
  exact event_next (by rw [hst, hc]; rfl)

variable (hw : v.wakeAt = none)
include hw

/-- Once the ballast has faded the next step comes, under W2 with the images written. -/
theorem execCollapse_goesTo_third (h2 : v.step = 2)
    (hb : v.clusters.all (fun (d, k) => (s.m.cluster? d k).all (fun c => c.ballast.isNone)) = true) :
    GoesTo (execCollapse vd s) (fun t => (t.m.vd? vd).map (fun w => (w.st, w.step)) = some (.collapsing, 3) ∧
      (v.wake = 2 → t.m.dev = (s.m.writeWake v).dev)) := by
  have hvd : (if v.wake = 2 then s.m.fresh.writeWake v else s.m.fresh).vd? vd = some v := by
    split
    · exact (Mach.vd?_of_vds (Mach.vds_writeWake ..) vd).trans hv
    · exact hv
  refine ⟨_, execCollapse_faded hv hst hc h2 hb, hst ▸ Mach.step_nextStep hvd hw 3, fun hwake => ?_⟩
  rw [if_pos hwake, Mach.writeWake_fresh] at hvd ⊢
  exact (Mach.rescheduled_nextStep hvd hw 3).dev

/-- The last step leaves the device dormant, with its clusters gated. -/
theorem execCollapse_goesTo_dormant (h3 : v.step = 3) :
    GoesTo (execCollapse vd s) (fun t => (t.m.vd? vd).map (·.st) = some .dormant ∧
      ∀ p c, p ∈ v.clusters → t.m.cluster? p.1 p.2 = some c → c.powered = false) := by
  obtain ⟨u, hu, hdormant, hwake⟩ := Mach.vd?_gate (m := s.m.fresh) (v := v) hv
  have hnext := Mach.rescheduled_nextStep hu (hwake.trans hw) 1
  refine ⟨_, execCollapse_gates hv hst hc h3, ?_, fun p c hp hcl => ?_⟩
  · exact ((Mach.VdReads.of_vd? hu (·.st)).updVd vd).of_vds hnext.vds |>.trans (congrArg some hdormant)
  · exact Mach.off_gate s.m.fresh vd hp c ((Mach.cluster?_of_dies hnext.dies ..).symm.trans hcl)

end

end Sys2Proof.Machine
end

section
/-! PROOFS. Wake, and accesses from outside (R325, R379-R382; log entry 89). -/
namespace Sys2Proof.Machine

/-! ## A wake and its doorbell (R379, R381) -/

/-- A dormant device begins to wake. -/
theorem Mach.st_wake_dormant {m : Mach} {vd : Nat} {v : VDev} (hv : m.vd? vd = some v) (hst : v.st = .dormant) (hc : v.closing = none) :
    (m.wake vd).VdReads vd (·.st) .waking := by
  have hwake : m.wake vd = m.startWake vd m.time := by simp [Mach.wake, hv, hst, hc]
  rw [hwake]
  exact (Mach.VdReads.of_vd? hv (·.st)).updVd_self (f := fun v => { v with st := .waking, step := 1, wakeAt := none })
    (χ := fun _ => VdState.waking) fun _ => rfl

theorem execWakeDoorbell_eq {s : State} {vd : Nat} {v : VDev} (hv : s.m.vd? vd = some v) (peer : Bool) :
    execWakeDoorbell vd peer s = .next { s with m := if peer && !v.wperm.getLsbD 16 then s.m.ignoreWake vd else s.m.wake vd } := by
  simp only [execWakeDoorbell, hv]

/-! ## The clusters of a waking device (R381) -/

theorem Mach.vds_logBad (m : Mach) (l : Loc) (n : Nat) : (m.logBad l n).vds = m.vds := by
  unfold Mach.logBad
  split
  · exact foldl_keeps (P := fun k : Mach => k.vds = m.vds) rfl fun _ _ hk => hk
  · rfl

theorem Mach.vds_wakeRead (m : Mach) (d k a : Nat) : (m.wakeRead d k a).vds = m.vds := Mach.vds_logBad ..

theorem VDev.st_readTables (v : VDev) (bs : List Byte) : (v.readTables bs).st = v.st := by
  unfold VDev.readTables
  generalize rdMany 256 rdGroup bs = p
  rfl

section
variable {m : Mach} {vd : Nat} {st : VdState} (h : m.VdReads vd (·.st) st)
include h

/-- Power and the return of SRAM and tables leave the state of the device. -/
theorem Mach.VdReads.powerUp (v : VDev) : (m.powerUp vd v).VdReads vd (·.st) st := by
  unfold Mach.powerUp
  extract_lets gated m1
  have h1 : m1.VdReads vd (·.st) st := h.of_vds <| foldl_keeps (P := fun k : Mach => k.vds = m.vds) rfl fun k p hk => by
    refine ite_keeps (P := fun k : Mach => k.vds = m.vds) hk ?_
    dsimp only
    split
    · exact ite_keeps (P := fun k : Mach => k.vds = m.vds) ((Mach.vds_wakeRead ..).trans hk) hk
    · exact hk
  exact ite_keeps (P := fun k : Mach => k.VdReads vd (·.st) st) (h1.updVd vd fun w => w.st_readTables _) h1

theorem Mach.VdReads.startRamps (v : VDev) : (m.startRamps vd v).VdReads vd (fun w => (w.st, w.step)) (st, 2) := by
  have hramps : (m.powerUp vd v).SameButDies (v.clusters.foldl (fun m (d, k) => m.startRamp d k) (m.powerUp vd v)) :=
    foldl_keeps (P := Mach.SameButDies _) (.refl _) fun _ _ hk => hk.startRamp ..
  exact ((h.powerUp v).of_vds hramps.vds).updVd_self (f := fun w => { w with step := 2 }) (χ := fun st => (st, 2)) fun _ => rfl

theorem Mach.VdReads.noteIdle (w : Nat) : (m.noteIdle w).VdReads vd (·.st) st :=
  ite_keeps (P := fun k : Mach => k.VdReads vd (·.st) st) (h.updVd w) (h.updVd w)

theorem Mach.VdReads.wantBind (w : Nat) : (m.wantBind w).VdReads vd (·.st) st :=
  h.of_vds (Mach.SameButDies.wantBind (.refl m) w).vds

theorem Mach.VdReads.popCmd (q : CmdQueue) : (m.popCmd q).VdReads vd (·.st) st := by
  unfold Mach.popCmd
  split
  · exact h
  · exact h
  · exact h.updVd _

theorem Mach.VdReads.finishEntry (r : CmdRef) (x : Word) (n : Nat) : (m.finishEntry r x n).VdReads vd (·.st) st := by
  unfold Mach.finishEntry
  split <;> exact h

omit h in
theorem Mach.VdReads.skipUnknown (n : Nat) (q : CmdQueue) {m : Mach} (h : m.VdReads vd (·.st) st) :
    (Mach.skipUnknown n m q).VdReads vd (·.st) st := by
  induction n generalizing m with
  | zero => exact h
  | succ n ih =>
    unfold Mach.skipUnknown
    split
    · exact h
    · exact ite_keeps (P := fun k : Mach => k.VdReads vd (·.st) st) h (ih ((h.popCmd q).finishEntry ..))

/-- The queue is looked at again, and no state changes. -/
theorem Mach.VdReads.poll (q : CmdQueue) : (m.poll q).VdReads vd (·.st) st := by
  unfold Mach.poll
  extract_lets m1 open_
  have h1 : m1.VdReads vd (·.st) st := .skipUnknown _ q h
  refine ite_keeps (P := fun k : Mach => k.VdReads vd (·.st) st) ?_ (ite_keeps (P := fun k : Mach => k.VdReads vd (·.st) st) h1 h1)
  split
  · exact h1.noteIdle _
  · exact h1
  · exact h1

/-- The device is ACTIVE, where nothing was held for it. -/
theorem Mach.VdReads.activate {v : VDev} (hheld : v.heldAcc = []) : (m.activate vd v).VdReads vd (·.st) .active := by
  have hctx := h.of_vds (m.vds_eachCtx vd fun x => if x.run = .skipped then { x with run := .free } else x)
  have hactive := hctx.updVd_self (f := fun v => { v with st := .active, heldAcc := [], step := 1, wakeAt := none })
    (χ := fun _ => VdState.active) (ψ := (·.st)) fun _ => rfl
  simp only [Mach.activate, hheld, List.foldl_nil]
  exact ((hactive.poll _).wantBind vd).noteIdle vd

end

/-! ## What a wake that is due brings about -/

theorem execWakeComplete_eq {s : State} {vd : Nat} {v : VDev} (hv : s.m.vd? vd = some v) (hst : v.st = .waking) (hc : v.closing = none) :
    execWakeComplete vd s = .next { s with m := if v.step = 2 then s.m.fresh.activate vd v else s.m.fresh.startRamps vd v } := by
  simp only [execWakeComplete, hv]
  exact event_next (by rw [hst, hc]; rfl)

/-! ## Accesses from outside (R325, R380) -/

section
variable {s : State} {vd : Nat} {acc : OutsideAccess}

/-- An access that is held is kept and wakes the device, or is an error where the device is torn down (R382). -/
theorem execHeldAccess_eq (hh : s.m.holdsOut vd acc = true) (hr : s.m.reaches vd acc = true) :
    execHeldAccess vd acc s = .next { s with
      m := if (s.m.vd vd).closing.isSome then s.m.hostError acc
        else (s.m.updVd vd (fun v => { v with heldAcc := v.heldAcc ++ [.access acc] })).wake vd } :=
  event_next (by rw [hh, hr]; rfl)

/-- An access that is not held is performed; device 16 stands for the physical function (R387). -/
theorem execOutsideAgentAccess_eq (hh : s.m.holdsOut vd acc = false) (hr : s.m.reaches vd acc = true)
    (hv : (s.m.vd? vd).isSome = true ∨ vd = 16) :
    execOutsideAgentAccess vd acc s = .next { s with m := s.m.fresh.outside vd acc } := by
  have hthere : ((s.m.vd? vd).isSome || vd == 16) = true := by simpa using hv
  exact event_next (by rw [hthere, hh, hr]; rfl)

end

/-- Settles O59: each event by its law above. -/
theorem powerAndSleepEvents : Obligations.PowerAndSleepEvents := by
  intro s
  simp only [exec_patternFrame, exec_forcedLowering, exec_setCap, exec_capLeaseExpiry, exec_masterClockChange, exec_idleTimeout,
    exec_collapse, exec_wakeDoorbell, exec_wakeComplete, exec_heldAccess, exec_outsideAgentAccess]
  refine ⟨fun d k c hc ht => (execPatternFrame_goesTo hc ht).mono fun t h => ⟨h, rfl, Cluster.rampAt_le ..⟩,
    fun d k c cap since => execForcedLowering_goesTo, fun seq w ms => ?cap, fun e => execCapLeaseExpiry_goesTo,
    fun die num den => execMasterClockChange_goesTo, fun die num den => execMasterClockChange_refused,
    fun vd v hv => ⟨execIdleTimeout_goesTo hv, fun hst hc => ?collapse, fun peer => ?doorbell, fun hst hc => ?wake⟩,
    fun vd acc hr => ?outside⟩
  case cap =>
    exact ⟨rfl, fun last hs ho => Mach.capMessage_old w ms hs ho, fun hs hb => Mach.capMessage_unbooted w ms hs hb,
      fun hb hn => Mach.mgmt_capMessage_booted w ms hb hn⟩
  case collapse =>
    refine ⟨execCollapse_goes hv hst hc, fun h1 hw hwake hj => ⟨_, execCollapse_unbound hv hst hc h1 hwake hj, ?_⟩,
      fun h2 hw hb => execCollapse_goesTo_third hv hst hc hw h2 hb, fun h3 hw => execCollapse_goesTo_dormant hv hst hc hw h3⟩
    exact hst ▸ Mach.step_nextStep (m := s.m.fresh) hv hw 2
  case doorbell =>
    have hexec := execWakeDoorbell_eq hv peer
    refine ⟨⟨_, hexec⟩, fun hst hc hp => ⟨_, hexec, ?_⟩, fun hp hbit => ⟨_, hexec, ?_⟩⟩
    · have hmay : (peer && !v.wperm.getLsbD 16) = false := by rcases hp with h | h <;> simp [h]
      rw [hmay]
      exact Mach.st_wake_dormant hv hst hc
    · rw [hp, hbit]
      exact ⟨rfl, rfl⟩
  case wake =>
    have hexec := execWakeComplete_eq hv hst hc
    have hwaking : s.m.fresh.VdReads vd (·.st) .waking := (Mach.VdReads.of_vd? hv (·.st)).trans (congrArg some hst)
    refine ⟨⟨_, hexec⟩, fun h2 => ⟨_, hexec, ?_⟩, fun h2 hheld => ⟨_, hexec, ?_⟩⟩
    · rw [if_neg h2]
      exact hwaking.startRamps v
    · rw [if_pos h2]
      exact hwaking.activate hheld
  case outside =>
    refine ⟨fun hh hc => ?_, fun hh hc => ?_, fun hh hv => execOutsideAgentAccess_eq hh hr hv⟩
    · rw [execHeldAccess_eq hh hr, hc]
      rfl
    · rw [execHeldAccess_eq hh hr, hc]
      rfl

end Sys2Proof.Machine
end

section
/-! PROOFS. What the words of scalar arithmetic give: products, quotients and remainders (R123, R144), and scalar f32 (R153, R154). -/
namespace Sys2Proof.Machine

/-! ## What a word of each kind gives -/

section
variable {s : State} {d a b : BitVec 6} {w : Bool} {g : BitVec 4} {lat : Nat}

theorem sr2_runs {f : Word → Word → Word} (h : Runs s (sn (dst d w ++ [a.toNat, b.toNat])) g) :
    sr2 lat f d a b w g s = .next (s.resS lat d w (f (s.rd a.toNat) (s.rd b.toNat))).advance :=
  State.word_runs h rfl

/-- The result `r` is zero-extended, and its flags go with it (R153). -/
theorem sf2_runs {f : BitVec 32 → BitVec 32 → BitVec 32 × Flags} {r : BitVec 32 × Flags}
    (h : Runs s (sn (dst d w ++ [a.toNat, b.toNat])) g) (hr : f (f32W (s.rd a.toNat)) (f32W (s.rd b.toNat)) = r) :
    sf2 lat f d a b w g s = .next (s.resS lat d w (r.1.zeroExtend 64) r.2).advance :=
  hr ▸ State.word_runs h rfl

theorem cvt1_runs {f : Word → Word × Flags} (h : Runs s (sn (dst d w ++ [a.toNat])) g) :
    cvt1 f d a w g s = .next (s.resS 3 d w (f (s.rd a.toNat)).1 (f (s.rd a.toNat)).2).advance :=
  State.word_runs h rfl

end

/-! ## The words -/

/-- Settles O10: each is a word of two sources, and its value function is the statement's (`divW` and `remW` settle a zero divisor). -/
theorem multiplyAndDivide : Obligations.MultiplyAndDivide := by
  intro s d a b w g h
  simp only [exec_mul, exec_mulh, exec_mulhn, exec_div, exec_divn, exec_rem, exec_remn]
  exact ⟨sr2_runs h, sr2_runs h, sr2_runs h, sr2_runs h, sr2_runs h, sr2_runs h, sr2_runs h⟩

/-- Settles O13: FADD to FDIV are words of two f32 sources; FFMA names s[D] as a third; FSQRT and the conversions have one. -/
theorem scalarFloatWords : Obligations.ScalarFloatWords := by
  intro s d a b w g
  simp only [exec_fadd, exec_fsub, exec_fmul, exec_fmin, exec_fmax, exec_fdiv, exec_ffma, exec_fsqrt, exec_cvtif, exec_cvtnf,
    exec_cvtfi, exec_cvtfiz]
  exact ⟨fun h => ⟨sf2_runs h rfl, sf2_runs h rfl, sf2_runs h rfl, sf2_runs h rfl, sf2_runs h rfl, sf2_runs h rfl⟩,
    fun h => State.word_runs h rfl, fun h => ⟨State.word_runs h rfl, cvt1_runs h, cvt1_runs h, cvt1_runs h, cvt1_runs h⟩⟩

end Sys2Proof.Machine
end

section
/-! PROOFS. What a memory word leaves unchanged while it issues (R155, R190, R264, R271, R278, R374, R408). -/
namespace Sys2Proof.Machine

/-! ## The bytes that access counters may write (R373, R374, R408; log entry 81) -/

/-- A byte of device memory that the access counters of a virtual device may write: of its notification ring, or of a counter of one
of its regions in the kernel's table. -/
def Mach.Counted (m : Mach) (vd n : Nat) : Prop :=
  ((m.vd vd).nqbase.toNat ≤ n ∧ n < (m.vd vd).nqbase.toNat + 4096) ∨ ∃ r region, m.mgmt.mirror = some r ∧
    r.die * 2 ^ 44 + r.base + Config.counterPlace vd region % r.size ≤ n ∧
    n < r.die * 2 ^ 44 + r.base + Config.counterPlace vd region % r.size + 8

/-- A byte of device memory that they do not write, in neither copy of the mirror region. -/
def Mach.Spares (m : Mach) (vd n : Nat) : Prop :=
  ¬ m.Counted vd n ∧ ∀ k, m.Counted vd k → m.mgmt.mirror.bind (·.twin k) ≠ some n

/-- A byte of host memory that no entry of the notification ring lies at. -/
def Mach.SparesHost (m : Mach) (vd n : Nat) : Prop :=
  ∀ k j, k < 256 → j < 16 → hostUnit ((m.vd vd).nqbase.toNat + 16 * k) = true → n ≠ ((m.vd vd).nqbase.toNat + 16 * k) % 2 ^ 44 + j

theorem Mach.get_devStore_ne {m : Mach} {pa n : Nat} {data : List (Nat × Byte)} (hn : ∀ p ∈ data, n ≠ pa + p.1)
    (ht : ∀ p ∈ data, m.mgmt.mirror.bind (·.twin (pa + p.1)) ≠ some n) :
    Memory.get (m.devStore pa data).dev n = Memory.get m.dev n := by
  unfold Mach.devStore
  extract_lets twins
  have htwins : ∀ p ∈ twins, n ≠ 0 + p.1 := by
    intro p hp
    unfold twins at hp
    split at hp
    · cases hp
    · next r hr =>
      obtain ⟨⟨o, b⟩, ho, hp⟩ := List.mem_filterMap.mp hp
      obtain ⟨a, ha, rfl⟩ := Option.map_eq_some_iff.mp hp
      rintro rfl
      exact ht (o, b) ho (by simp [hr, ha])
  exact (Memory.get_writeAt_ne _ _ _ _ htwins).trans (Memory.get_writeAt_ne _ _ _ _ hn)

/-! ## The frame of a memory word -/

/-- From `m` on, the package has changed as a memory word may change it at its issue: the registers of every core and every byte stand,
but for what the access counters of the virtual device write. -/
structure Mach.Frame (vd : Nat) (m k : Mach) : Prop where
  dies : k.dies = m.dies
  mirror : k.mgmt.mirror = m.mgmt.mirror
  ring : (k.vd vd).nqbase = (m.vd vd).nqbase
  full : (m.vd vd).nqFull = true → (k.vd vd).nqFull = true
  cores : ∀ g r, Option.Rel SameCore (m.core? g r) (k.core? g r)
  dev : ∀ n, m.Spares vd n → Memory.get k.dev n = Memory.get m.dev n
  host : ∀ n, m.SparesHost vd n → Memory.get k.host n = Memory.get m.host n
  quiet : (m.vd vd).nqFull = true → m.mgmt.mirror = none → k.dev = m.dev ∧ k.host = m.host

/-- The same before the access of the word itself is begun: the queues and the early releases stand too. -/
structure Mach.Kept (vd : Nat) (m k : Mach) : Prop extends Mach.Frame vd m k where
  queue : k.queue = m.queue
  early : k.early = m.early

theorem SameCore.refl (c : Core) : SameCore c c := by simp [SameCore]

theorem SameCore.trans {c d e : Core} (h : SameCore c d) (h' : SameCore d e) : SameCore c e := by
  unfold SameCore at *
  simp_all

theorem sameCore_rel_refl (o : Option Core) : Option.Rel SameCore o o := by
  cases o
  · exact .none
  · exact .some (.refl _)

/-- What a virtual device holds that an update of some virtual device leaves. -/
theorem Mach.vd_updVd_of_eq {α : Type} (p : VDev → α) {f : VDev → VDev} (hp : ∀ d, p (f d) = p d) (m : Mach) (v w : Nat) :
    p ((m.updVd v f).vd w) = p (m.vd w) := by
  by_cases h : w = v
  · subst h
    rw [Mach.vd, Mach.vd?_updVd_self, Mach.vd]
    cases m.vd? w with
    | none => rfl
    | some d => exact hp d
  · exact congrArg (fun o => p (Option.getD o {})) (tget_tupd_ne m.vds v w f h)

section
variable {vd : Nat} {m k k' : Mach}

theorem Mach.Frame.refl : Mach.Frame vd m m :=
  ⟨rfl, rfl, rfl, id, fun _ _ => sameCore_rel_refl _, fun _ _ => rfl, fun _ _ => rfl, fun _ _ => ⟨rfl, rfl⟩⟩

theorem Mach.Kept.refl : Mach.Kept vd m m := ⟨.refl, rfl, rfl⟩

/-- What leaves the memories, the cores, the virtual devices and the mirror region alone. -/
theorem Mach.Frame.congr (h : Mach.Frame vd m k) (hdies : k'.dies = k.dies := by rfl) (hgangs : k'.gangs = k.gangs := by rfl)
    (hvds : k'.vds = k.vds := by rfl) (hmgmt : k'.mgmt = k.mgmt := by rfl) (hdev : k'.dev = k.dev := by rfl)
    (hhost : k'.host = k.host := by rfl) : Mach.Frame vd m k' := by
  have hv : k'.vd vd = k.vd vd := Mach.vd_of_vds hvds vd
  have hcores (g r : Nat) : k'.core? g r = k.core? g r := by simp only [Mach.core?, Mach.gang?, hgangs]
  exact ⟨hdies.trans h.dies, (congrArg _ hmgmt).trans h.mirror, hv ▸ h.ring, hv ▸ h.full, fun g r => hcores g r ▸ h.cores g r,
    hdev ▸ h.dev, hhost ▸ h.host, hdev ▸ hhost ▸ h.quiet⟩

theorem Mach.Kept.congr (h : Mach.Kept vd m k) (hdies : k'.dies = k.dies := by rfl) (hgangs : k'.gangs = k.gangs := by rfl)
    (hvds : k'.vds = k.vds := by rfl) (hmgmt : k'.mgmt = k.mgmt := by rfl) (hdev : k'.dev = k.dev := by rfl)
    (hhost : k'.host = k.host := by rfl) (hqueue : k'.queue = k.queue := by rfl) (hearly : k'.early = k.early := by rfl) :
    Mach.Kept vd m k' :=
  ⟨h.toFrame.congr hdies hgangs hvds hmgmt hdev hhost, hqueue.trans h.queue, hearly.trans h.early⟩

/-- A core changed in what may change. -/
theorem Mach.Frame.updCore {g r : Nat} {f : Core → Core} (h : Mach.Frame vd m k) (hf : ∀ c, SameCore c (f c)) :
    Mach.Frame vd m (k.updCore g r f) := by
  refine ⟨h.dies, h.mirror, h.ring, h.full, fun g' r' => ?_, h.dev, h.host, h.quiet⟩
  have hcore := h.cores g' r'
  by_cases e : (g', r') = (g, r)
  · obtain ⟨rfl, rfl⟩ := Prod.mk.inj e
    rw [Mach.core?_updCore_self]
    generalize m.core? g' r' = x, k.core? g' r' = y at hcore ⊢
    cases hcore with
    | none => exact .none
    | some hs => exact .some (hs.trans (hf _))
  · rwa [k.core?_updCore_ne f e]

theorem Mach.Kept.updCore {g r : Nat} {f : Core → Core} (h : Mach.Kept vd m k) (hf : ∀ c, SameCore c (f c)) :
    Mach.Kept vd m (k.updCore g r f) := ⟨h.toFrame.updCore hf, h.queue, h.early⟩

/-- A virtual device changed while the ring is not full, the ring where it was. -/
theorem Mach.Kept.updRing {v : Nat} {f : VDev → VDev} (h : Mach.Kept vd m k) (hb : ∀ d, (f d).nqbase = d.nqbase)
    (hfree : (k.vd vd).nqFull = false) : Mach.Kept vd m (k.updVd v f) :=
  ⟨⟨h.dies, h.mirror, (Mach.vd_updVd_of_eq _ hb k v vd).trans h.ring, fun hm => absurd (h.full hm) (by simp [hfree]), h.cores, h.dev,
    h.host, h.quiet⟩, h.queue, h.early⟩

/-- A virtual device changed, its ring as it was. -/
theorem Mach.Kept.updVd {v : Nat} {f : VDev → VDev} (h : Mach.Kept vd m k) (hb : ∀ d, (f d).nqbase = d.nqbase := by intro; rfl)
    (hf : ∀ d, (f d).nqFull = d.nqFull := by intro; rfl) : Mach.Kept vd m (k.updVd v f) :=
  ⟨⟨h.dies, h.mirror, (Mach.vd_updVd_of_eq _ hb k v vd).trans h.ring, fun hm => (Mach.vd_updVd_of_eq _ hf k v vd).trans (h.full hm),
    h.cores, h.dev, h.host, h.quiet⟩, h.queue, h.early⟩

theorem Mach.Kept.ite {p : Prop} [Decidable p] (h : Mach.Kept vd m k) (h' : Mach.Kept vd m k') : Mach.Kept vd m (if p then k else k') :=
  ite_keeps h h'

theorem Mach.Frame.ite {p : Prop} [Decidable p] (h : Mach.Frame vd m k) (h' : Mach.Frame vd m k') :
    Mach.Frame vd m (if p then k else k') := ite_keeps h h'

/-! ## Access counters -/

theorem Mach.Frame.counted (h : Mach.Frame vd m k) {n : Nat} (hn : k.Counted vd n) : m.Counted vd n := by
  unfold Mach.Counted at *
  rwa [h.ring, h.mirror] at hn

/-- Bytes stored where the counters write, by a notice or for a mirror region. -/
theorem Mach.Kept.devStore {pa : Nat} {data : List (Nat × Byte)} (h : Mach.Kept vd m k) (hc : ∀ p ∈ data, k.Counted vd (pa + p.1))
    (hw : (k.vd vd).nqFull = true → k.mgmt.mirror ≠ none) : Mach.Kept vd m (k.devStore pa data) := by
  refine ⟨⟨h.dies, h.mirror, h.ring, h.full, h.cores, fun n hn => ?_, h.host, fun hf hm => ?_⟩, h.queue, h.early⟩
  · obtain ⟨hout, htwin⟩ := hn
    refine (Mach.get_devStore_ne (fun p hp e => hout (by rw [e]; exact h.counted (hc p hp))) fun p hp => ?_).trans (h.dev n ⟨hout, htwin⟩)
    rw [h.mirror]
    exact htwin _ (h.counted (hc p hp))
  · exact absurd (h.mirror.trans hm) (hw (h.full hf))

theorem Mach.Kept.setRegion {region : Nat} {r : Region} (h : Mach.Kept vd m k) : Mach.Kept vd m (k.setRegion vd region r) := by
  have h1 : Mach.Kept vd m (k.updVd vd fun v => { v with regionCtr := tset v.regionCtr region r }) :=
    h.updVd
  unfold Mach.setRegion
  extract_lets k1
  split
  · exact h1
  · next x hx =>
    refine h1.devStore (fun p hp => .inr ⟨x, region, hx, Nat.le_add_right _ _, Nat.add_lt_add_left ?_ _⟩) fun _ =>
      hx.trans_ne (Option.some_ne_none x)
    exact offset_lt_of_mem_offs hp

/-- A notice stored at the tail of a ring that is not full. -/
theorem Mach.Kept.storeNotice {data : List Byte} (h : Mach.Kept vd m k) (hl : data.length = 16) (hfree : (k.vd vd).nqFull = false) :
    Mach.Kept vd m (k.physStore vd ((k.vd vd).nqbase.toNat + 16 * (k.vd vd).nqtail.toNat) (offs data)) := by
  have htail : (k.vd vd).nqtail.toNat < 256 := (k.vd vd).nqtail.isLt
  have hoff : ∀ p ∈ offs data, p.1 < 16 := fun p hp => hl ▸ offset_lt_of_mem_offs hp
  unfold Mach.physStore
  split
  · refine h.devStore (fun p hp => .inl ⟨by omega, ?_⟩) fun hf => absurd hf (by simp [hfree])
    have := hoff p hp
    omega
  · split
    · next hu =>
      obtain ⟨hu, -⟩ := Bool.and_eq_true_iff.mp hu
      rw [h.ring] at hu
      refine ⟨⟨h.dies, h.mirror, h.ring, h.full, h.cores, h.dev, fun n hn => ?_, fun hf => ?_⟩, h.queue, h.early⟩
      · refine (Memory.get_writeAt_ne _ _ _ _ fun p hp => ?_).trans (h.host n hn)
        rw [h.ring]
        exact hn _ _ htail (hoff p hp) hu
      · exact absurd (h.full hf) (by simp [hfree])
    · exact h

theorem Mach.Kept.queueNotice {region : Nat} {r : Region} (h : Mach.Kept vd m k) (hfree : (k.vd vd).nqFull = false) :
    Mach.Kept vd m (k.queueNotice vd region r) := by
  unfold Mach.queueNotice
  refine .setRegion (.updRing (h.storeNotice (natLE_length 16 _) hfree) (fun _ => rfl) ?_)
  rwa [Mach.vd_of_vds (Mach.physStore_vds ..)]

theorem Mach.nqFull_setRegion (k : Mach) (vd region : Nat) (r : Region) :
    ((k.setRegion vd region r).vd vd).nqFull = (k.vd vd).nqFull := by
  rw [Mach.vd_of_vds (k.setRegion_vds vd region r)]
  refine Mach.vd_updVd_of_eq VDev.nqFull ?_ k vd vd
  intro d
  rfl

theorem Mach.Kept.countTouch {va : Nat} {leaf : Word} (h : Mach.Kept vd m k) : Mach.Kept vd m (k.countTouch vd va leaf) := by
  unfold Mach.countTouch
  refine h.ite ?_
  extract_lets v region r0 r1 k1 r2
  have h1 : Mach.Kept vd m k1 := h.setRegion
  have hv : (k1.vd vd).nqFull = v.nqFull := Mach.nqFull_setRegion ..
  refine .ite ?_ h1
  by_cases hfull : v.nqFull = true
  · rw [if_pos hfull]
    exact h1.setRegion
  · rw [if_neg hfull]
    exact h1.queueNotice (by simpa [hv] using hfull)

theorem Mach.Kept.countTouches {l : List Nat} {leaf : Word} (h : Mach.Kept vd m k) : Mach.Kept vd m (k.countTouches vd l leaf) :=
  h.ite (foldl_keeps h fun _ _ h => h.countTouch)

/-! ## Translation (R365-R368) -/

theorem Mach.Kept.trap {l : List Nat} (h : Mach.Kept vd m k) : Mach.Kept vd m (k.trap l) := h.ite h.congr

theorem Mach.Kept.keepWalk {v va : Nat} (h : Mach.Kept vd m k) : Mach.Kept vd m (k.keepWalk v va) := by
  unfold Mach.keepWalk
  split
  · exact h
  · exact h.updVd.ite h.trap.updVd

theorem Mach.Kept.walked {t : Tlb} {v va : Nat} (h : Mach.Kept vd m k) : Mach.Kept vd m (k.walked t v va) := h.ite h.keepWalk

theorem Mach.Kept.tlbNote {g r : Nat} {e : TlbEntry} (h : Mach.Kept vd m k) : Mach.Kept vd m (k.tlbNote (.s g r) e) :=
  h.updCore fun _ => by simp [SameCore]

theorem Mach.Kept.translate {g r v va : Nat} {a : AccKind} (h : Mach.Kept vd m k) :
    Except.Holds (fun p => Mach.Kept vd m p.2) (k.translate (.s g r) v va a) := by
  have hw : Except.Holds (fun p : TlbEntry × Mach => Mach.Kept vd m p.2) (match tlbFind (k.tlb (.s g r)) va with
      | some e => Except.ok (e, k)
      | none => (k.walk v va).map (fun e => (e, k.keepWalk v va))) := by
    split
    · exact .ok h
    · exact .map fun _ => h.keepWalk
  unfold Mach.translate
  split
  · exact .error
  · next e k1 heq =>
    extract_lets pa k2
    have h2 : Mach.Kept vd m k2 := .ite (hw _ heq).tlbNote (hw _ heq)
    exact .ite .error (.ite .error (.ok h2))

/-! ## Queues and replies -/

theorem Mach.Frame.enqueue {q : QEntry} {n : Nat} (h : Mach.Frame vd m k) : Mach.Frame vd m (k.enqueue q n) := h.congr

theorem Mach.Kept.newReply {w : Who} {parts : Nat} (h : Mach.Kept vd m k) : Mach.Kept vd m (k.newReply w parts).2 := h.congr

theorem Mach.Frame.fillReply {id : Nat} {bytes : List (Nat × Byte)} {fault : Option (BitVec 8 × Word × BitVec 128)} {own : Bool} {n : Nat}
    (h : Mach.Frame vd m k) : Mach.Frame vd m (k.fillReply id bytes fault own n) := by
  unfold Mach.fillReply
  split
  · exact h
  · exact .ite h.congr h.congr

theorem Mach.Frame.readView {w : Who} {l : Loc} {n i va : Nat} (h : Mach.Frame vd m k) : Mach.Frame vd m (k.readView w l n i va).2 := by
  unfold Mach.readView
  split
  · exact h
  · split
    · exact h
    · split
      · exact h
      · exact .ite h.congr h

theorem Mach.Frame.markSeen {id : Nat} {q : QEntry} (h : Mach.Frame vd m k) : Mach.Frame vd m (k.markSeen id q) := h.ite h.congr

theorem Mach.Frame.hear {w : Who} {l : List RelVal} (h : Mach.Frame vd m k) : Mach.Frame vd m (k.hear w l) := h.ite h.congr

theorem Mach.Frame.acquireOf {w : Who} {sco : Nat} {l : List RelVal} (h : Mach.Frame vd m k) : Mach.Frame vd m (k.acquireOf w sco l) :=
  .ite h.congr h.hear

theorem Mach.Frame.readEarly {q : QEntry} (h : Mach.Frame vd m k) : Mach.Frame vd m (k.readEarly q) := h.ite h.congr

theorem Mach.Frame.prune {id : Nat} (h : Mach.Frame vd m k) : Mach.Frame vd m (k.prune id) := h.ite h.congr

theorem Mach.Frame.noteAgain {q : QEntry} (h : Mach.Frame vd m k) : Mach.Frame vd m (k.noteAgain q) := by
  unfold Mach.noteAgain
  split
  · exact h.congr
  · exact h.congr
  · exact h.congr
  · exact h.congr
  · exact h

/-! ## A load of the own bank (R265, R271) -/

theorem ownBank_agent {g r : Nat} {st : Stream} {l : Loc} (hb : ownBank (.agent (.core g r st)) l = true) : l.space = 1 := by
  cases l with
  | scr => rfl
  | lpe | dev | host | peer | sys => cases hb

/-- A scratchpad has no lines that the monitor pair repairs, and none that are logged. -/
theorem Mach.mend_scratchpad {l : Loc} (hl : l.space = 1) (n : Nat) : k.mend l n = k := by
  cases l with
  | scr => rfl
  | lpe | dev | host | peer | sys => cases hl

theorem Mach.logBad_scratchpad {l : Loc} (hl : l.space = 1) (n : Nat) : k.logBad l n = k := by
  cases l with
  | scr => rfl
  | lpe | dev | host | peer | sys => cases hl

theorem QOp.isLoad_cases {q : QOp} (h : q.isLoad = true) : (∃ n r o, q = .load n r o) ∨ ∃ ty d j r, q = .ldl ty d j r := by
  cases q <;> simp_all [QOp.isLoad]

/-- A load of the own bank is performed: its reply comes, and no byte and no register changes. -/
theorem Mach.Frame.perform_load {g r id : Nat} {st : Stream} {q : QEntry} (h : Mach.Frame vd m k) (hload : q.op.isLoad = true)
    (hwho : q.who = .agent (.core g r st)) (hloc : q.loc.space = 1) (hwalk : q.walk = []) :
    Mach.Frame vd m (k.perform id q false) := by
  unfold Mach.perform
  extract_lets m0 m1 own m2 m3 err m4
  have h1 : Mach.Frame vd m m1 := .prune h.congr
  have h2 : Mach.Frame vd m m2 := .ite ((Mach.mend_scratchpad hloc _).symm ▸ h1) h1
  have h3 : Mach.Frame vd m m3 := by
    unfold m3
    rw [hwalk]
    exact h2
  have h4 : Mach.Frame vd m m4 := .ite ((Mach.logBad_scratchpad hloc _).symm ▸ h3) h3
  have hends : q.endsInterval = false := by
    obtain ⟨n, r, o, e⟩ | ⟨ty, d, j, r, e⟩ := QOp.isLoad_cases hload <;> simp [QEntry.endsInterval, e]
  split
  next m5 rep heq =>
  have h5 : Mach.Frame vd m m5 := by
    refine of_fst heq ?_
    rw [if_pos (by simp), if_neg (by simp [hends])]
    exact h4
  extract_lets +onlyGivenNames fault m6 vals m7 m8 m9
  have h6 : Mach.Frame vd m m6 := .ite h5.noteAgain h5
  have h7 : Mach.Frame vd m m7 := h6.readEarly
  have h8 : Mach.Frame vd m m8 := .ite h7 (.ite h7.acquireOf (.ite h7 h7.hear))
  have h9 : Mach.Frame vd m m9 := by
    unfold m9
    rw [hwho]
    exact h8
  clear_value m9 fault
  obtain ⟨n, r, o, e⟩ | ⟨ty, d, j, r, e⟩ := QOp.isLoad_cases hload
  · rw [e]
    exact h9.readView.markSeen.fillReply
  · rw [e]
    exact h9.fillReply

/-- No access of a core is queued, and no release waits on an access. -/
structure Mach.Idle (m : Mach) (g r : Nat) : Prop where
  queue : ∀ p ∈ m.queue, ∀ st, p.2.who ≠ .agent (.core g r st)
  early : m.early = []

theorem Mach.Kept.idle {g r : Nat} (h : Mach.Kept vd m k) (hi : m.Idle g r) : k.Idle g r :=
  ⟨h.queue.symm ▸ hi.queue, h.early.trans hi.early⟩

/-- An access of another agent keeps none of a core's in its queue. -/
theorem blocks_of_other {g r : Nat} {st : Stream} {old new : QEntry} (hold : ∀ st, old.who ≠ .agent (.core g r st))
    (hnew : new.who = .agent (.core g r st)) : blocks old new = false := by
  have hne : (old.who != new.who) = true := by simpa [hnew] using hold st
  have hlane : laneOrder old new = false := by
    unfold laneOrder
    split
    · next h k a h' k' b ho hn =>
      rw [hnew] at hn
      cases hn
      simp only [Bool.and_assoc]
      by_cases e : h = g ∧ k = r
      · obtain ⟨rfl, rfl⟩ := e
        exact absurd ho (hold a)
      · simp only [not_and] at e
        by_cases e1 : h = g <;> simp_all
    · rfl
  simp [blocks, hne, hlane]

section
variable {g r : Nat} {st : Stream} {q : QEntry}

/-- Nothing keeps a load of an idle core in its queue. -/
theorem Mach.Idle.blockers (hi : k.Idle g r) (hwho : q.who = .agent (.core g r st)) (hload : q.op.isLoad = true) (id : Nat) :
    k.blockers id q = [] := by
  unfold Mach.blockers
  extract_lets owed
  have howed : owed = [] := if_pos (by simp [hi.early])
  refine List.filter_eq_nil_iff.mpr fun p hp => ?_
  have hcut : k.cutOff q p.2 = false := by simp [Mach.cutOff, hload]
  simp [howed, hcut, blocks_of_other (hi.queue p hp) hwho]

theorem Mach.Idle.settleBank (hi : k.Idle g r) (cls : BitVec 3) : k.settleBank g r cls = k := by
  unfold Mach.settleBank
  rw [List.filter_eq_nil_iff.mpr fun p hp => ?_]
  · rfl
  · have hw := hi.queue p hp
    split
    · next g' r' st' _ _ _ e _ =>
      have hne : ¬ (g' = g ∧ r' = r) := fun e' => hw st' (by rw [e, e'.1, e'.2])
      simp only [not_and] at hne
      by_cases e1 : g' = g <;> simp_all
    · simp

theorem Mach.Frame.loadNow (h : Mach.Frame vd m k) (hi : k.Idle g r) (hwho : q.who = .agent (.core g r st))
    (hload : q.op.isLoad = true) (hloc : q.loc.space = 1) (hwalk : q.walk = []) : Mach.Frame vd m (k.loadNow q) := by
  unfold Mach.loadNow
  split
  next id k1 e =>
  have h1 : Mach.Frame vd m k1 := of_snd e h.congr
  have hi1 : k1.Idle g r := of_snd (P := (Mach.Idle · g r)) e ⟨hi.queue, hi.early⟩
  rw [hi1.blockers hwho hload id]
  exact h1.perform_load hload hwho hloc hwalk

theorem Mach.Idle.observe (hi : k.Idle g r) (w : Who) (acq : Option Nat) (l : Loc) (n : Nat) : k.observe w acq l n = k :=
  if_pos (by simp [hi.early])

end

end

/-! ## The word that issues -/

/-- From `s` on, a word of a core has changed only what a memory word may change. -/
structure Issues (g r : Nat) (st : Stream) (s t : State) : Prop where
  cur : t.cur = .core g r st
  frame : Mach.Frame s.vd s.m t.m

section
variable {g r : Nat} {st : Stream} {s t : State}

theorem Issues.refl (hc : s.cur = .core g r st) : Issues g r st s s := ⟨hc, .refl⟩

/-- Another package, the word's agent as before. -/
theorem Issues.withMach {m : Mach} (h : Issues g r st s t) (hm : Mach.Frame s.vd s.m m) : Issues g r st s { t with m := m } := ⟨h.cur, hm⟩

theorem Issues.updIss (h : Issues g r st s t) (f : Issue → Issue) : Issues g r st s (t.updIss f) := ⟨h.cur, h.frame⟩

theorem Issues.updRegs (h : Issues g r st s t) (f : StreamRegs → StreamRegs) : Issues g r st s (t.updRegs f) := by
  refine ⟨h.cur, ?_⟩
  simp only [State.updRegs, State.updSeq, h.cur, Mach.updSeq]
  exact h.frame.updCore fun _ => by simp [SameCore]

theorem Issues.issued (h : Issues g r st s t) : Issues g r st s t.issued := by
  refine ⟨h.cur, ?_⟩
  rw [State.issued_core h.cur]
  exact (h.updRegs fun r => { r with gcyc := r.gcyc + 1 }).frame.congr

theorem Issues.advance (h : Issues g r st s t) : Issues g r st s t.advance := h.issued.updRegs _

theorem Issues.emit {lat : Nat} {p : Pend} (h : Issues g r st s t) : Issues g r st s (t.emit lat p) := by
  simp only [State.emit, h.cur]
  exact ⟨rfl, h.frame.updCore fun _ => by simp [SameCore]⟩

theorem Issues.resReply {lat id size : Nat} {d : BitVec 6} {sx : Bool} (h : Issues g r st s t) :
    Issues g r st s (t.resReply lat d id size sx) := h.emit

theorem Issues.view {code : Nat} (h : Issues g r st s t) : Issues g r st s (t.view code) := by
  unfold State.view
  split
  · exact h
  · exact h.updIss _

theorem Issues.ite {p : Prop} [Decidable p] {u : State} (h : Issues g r st s t) (h' : Issues g r st s u) :
    Issues g r st s (if p then t else u) := ite_keeps h h'

/-! ## A word that stops -/

theorem Issues.walkedTo (hc : s.cur = .core g r st) (p : Word) : Issues g r st s (s.walkedTo p) :=
  ⟨hc, (Mach.Kept.refl.walked).toFrame⟩

theorem Issues.raise (hc : s.cur = .core g r st) (e : Exc) : Issues g r st s (s.raise e) := by
  have h : Issues g r st s (if e.walked then s.walkedTo e.addr else s) := .ite (.walkedTo hc _) (.refl hc)
  unfold State.raise
  extract_lets s1
  have h1 : Issues g r st s s1 := h
  rw [h1.cur]
  exact h1.updIss _

theorem Issues.hold (h : Issues g r st s t) (k : CauseKind) : Issues g r st s (t.hold k) := by
  unfold State.hold
  rw [h.cur]
  exact h.updIss _

theorem Issues.stopped (hc : s.cur = .core g r st) (e : Stop) : Issues g r st s (s.stopped e) := by
  unfold State.stopped
  split
  · exact .raise hc _
  · split
    · exact (Issues.walkedTo hc _).hold _
    · exact (Issues.refl hc).hold _

/-- A step changes only what a memory word of the core may change. -/
def Frames (g r : Nat) (st : Stream) (s : State) (o : Host.Outcome State Fault Refusal) : Prop := ∀ t, o = .next t → Issues g r st s t

/-- A word frames when its body does. -/
theorem Issues.word {decls : List Decl} {on : Bool} {body : State → Except Stop State} (hc : s.cur = .core g r st)
    (hb : Except.Holds (Issues g r st s) (body s)) : Frames g r st s (s.word decls on body) := by
  intro t ht
  have hfall (u : State) (hu : Issues g r st s u) : Issues g r st s (s.fall u) := .ite hu.advance (.raise hc _)
  obtain ⟨d, -, -, rfl⟩ | ⟨-, rfl⟩ | ⟨-, e, -, rfl⟩ | ⟨-, u, hu, rfl⟩ := State.word_cases ht
  · exact .raise hc _
  · exact hfall s (.refl hc)
  · exact .stopped hc e
  · exact hfall u (hb u hu)

/-! ## Reaching a place and beginning an access -/

/-- A place is reached: the access counters have done their part, and a scratchpad has no walk. -/
structure Reach.Steady (s : State) (r : Reach) : Prop where
  kept : Mach.Kept s.vd s.m r.m
  walk : r.loc.space = 1 → r.walk = []

theorem State.reach_steady {e : Engine} {p : Word} {off : Int} {size align : Nat} {k : AccKind} (hc : s.cur = .core g r st) :
    Except.Holds (Reach.Steady s) (s.reach e s.tlb p off size align k) := by
  have htlb : s.tlb = .s g r := by simp [State.tlb, hc]
  rw [htlb]
  refine .seq fun _ => .seq fun _ => ?_
  split
  · split
    · exact .ite .error .error
    · next heq =>
      refine .pure ⟨(Mach.Kept.refl.translate _ heq).countTouches, fun hl => ?_⟩
      unfold TlbEntry.loc at hl
      split at hl <;> cases hl
  · exact .pure ⟨.refl, fun _ => rfl⟩
  · exact .seq fun _ => .pure ⟨.refl, fun _ => rfl⟩

/-- The block that a place lies in is of the same space. -/
theorem Reach.Steady.block {c : Reach} (h : c.Steady s) (n : Nat) : Reach.Steady s { c with loc := c.loc.block n } := by
  have hspace : (c.loc.block n).space = c.loc.space := by cases c.loc <;> rfl
  exact ⟨h.kept, fun e => h.walk (hspace ▸ e)⟩

theorem Issues.startRead {q : QEntry} {k reply : Nat} (h : Issues g r st s t) (hi : t.m.Idle g r) (hwho : q.who = .agent (.core g r st))
    (hload : q.op.isLoad = true) (hwalk : q.loc.space = 1 → q.walk = []) : Issues g r st s (t.startRead q k reply) := by
  unfold State.startRead
  rw [hwho]
  dsimp only
  split
  · next hb =>
    have hloc := ownBank_agent hb
    rw [hi.settleBank]
    exact (h.withMach (h.frame.loadNow hi hwho hload hloc (hwalk hloc))).updIss _
  · exact h.withMach h.frame.enqueue

theorem Issues.startWrite {q : QEntry} {k : Nat} (h : Issues g r st s t) : Issues g r st s (t.startWrite q k) :=
  (h.updIss _).ite (h.withMach h.frame.enqueue)

theorem Issues.startAmo {q : QEntry} {k : Nat} (h : Issues g r st s t) : Issues g r st s (t.startAmo q k) := by
  unfold State.startAmo
  split
  · exact h.updIss _
  · exact h.withMach h.frame.enqueue

/-! ## The words of S -/

section
variable {size : Nat} {sx : Bool} {d a b : BitVec 6} {cls : BitVec 3} {sem : BitVec 2} {sco : BitVec 3} {off : BitVec 6} {gd : BitVec 4}

/-- The read of a word that has reached its place. -/
theorem Issues.readReached {c : Reach} {p : Word} {op : Nat → QOp} {lat : Nat} (hc : s.cur = .core g r st) (hi : s.m.Idle g r)
    (hr : c.Steady s) (hop : ∀ id, (op id).isLoad = true) :
    let n := c.m.newReply (.agent s.cur) 1
    Issues g r st s ((State.startRead { s with m := n.2 } (s.entry c p cls sem sco (op n.1)) 16 n.1).resReply lat d n.1 size sx) := by
  intro n
  have hn : Mach.Kept s.vd s.m n.2 := hr.kept.newReply
  exact .resReply (.startRead ⟨hc, hn.toFrame⟩ (hn.idle hi) (congrArg Who.agent hc) (hop _) hr.walk)

theorem Issues.load (hc : s.cur = .core g r st) (hi : s.m.Idle g r) (hp : ptrSpace (s.rd a.toNat) ≠ 15) :
    Frames g r st s (load size sx d a cls sem sco off gd s) := by
  refine .word hc ?_
  dsimp only
  rw [if_neg (by simp [hp])]
  exact .bind (State.reach_steady hc) fun c hr => .seq fun _ => .pure (.readReached (op := (.load size · 0)) hc hi hr fun _ => rfl)

theorem Issues.store (hc : s.cur = .core g r st) (hp : ptrSpace (s.rd a.toNat) ≠ 15) :
    Frames g r st s (store size d a cls sem sco off gd s) := by
  refine .word hc ?_
  dsimp only
  rw [if_neg (by simp [hp])]
  exact .bind (State.reach_steady hc) fun c hr => .seq fun _ => .pure (.startWrite ⟨hc, hr.kept.toFrame⟩)

theorem Issues.execLdl {j : BitVec 3} (hc : s.cur = .core g r st) (hi : s.m.Idle g r) :
    Frames g r st s (execLdl d a cls sem sco j gd s) := by
  refine .word hc (.seq fun _ => .seq fun _ => .seq fun _ => ?_)
  extract_lets +onlyGivenNames jp
  have hj (c : Reach) (hr : c.Steady s) : Except.Holds (Issues g r st s) (jp c) := by
    unfold jp
    split
    · exact .error
    · exact .seq fun _ => .seq fun _ => .seq fun _ => .pure (.readReached hc hi (hr.block _) fun _ => rfl)
  exact .ite (.bind (State.reach_steady hc) hj) (.bind (.pure ⟨.refl, fun _ => rfl⟩) hj)

theorem State.atomic_steady {p : Word} (hc : s.cur = .core g r st) : Except.Holds (fun x => x.1.Steady s) (s.atomic p size) := by
  refine .seq fun _ => .seq fun _ => .seq fun _ => ?_
  extract_lets +onlyGivenNames jp
  have hj (u : Unit) : Except.Holds (fun x => x.1.Steady s) (jp u) :=
    .bind (State.reach_steady hc) fun _ hr => .seq fun _ => .pure hr
  exact .ite (.seq hj) (hj ())

theorem Issues.amo {code : Nat} (hc : s.cur = .core g r st) : Frames g r st s (amo code d a b sem sco gd s) :=
  .word hc (.bind (State.atomic_steady hc) fun _ hr => .pure (.resReply (.startAmo ⟨hc, hr.kept.newReply.toFrame⟩)))

theorem Issues.cas (hc : s.cur = .core g r st) : Frames g r st s (cas size d a b sem sco gd s) :=
  .word hc (.bind (State.atomic_steady hc) fun _ hr => .pure (.resReply (.startAmo ⟨hc, hr.kept.newReply.toFrame⟩)))

theorem Issues.execFence (hc : s.cur = .core g r st) : Frames g r st s (execFence cls sem sco gd s) :=
  .word hc (.ok ((Issues.refl hc).withMach (Mach.Frame.refl.enqueue)))

end

/-! ## The words of V -/

section
variable {d a : BitVec 6} {cls : BitVec 3} {gd : BitVec 4}

theorem Issues.ownRow {lat : Nat} {tag : Bool} {v : RowSpec} (hc : s.cur = .core g r st) (hi : s.m.Idle g r) :
    Issues g r st s (s.ownRow lat d cls tag v) := by
  have hsame : v.spans.foldl (fun m (a, n) => m.observe (.agent s.cur) none (.scr s.gno v.rank a) n) (s.m.settleBank s.gno s.rank cls) =
      s.m := by
    have hbank : s.m.settleBank s.gno s.rank cls = s.m := by
      simp only [State.gno, State.rank, hc]
      exact hi.settleBank cls
    rw [hbank]
    exact foldl_keeps (P := (· = s.m)) rfl fun m _ e => e ▸ (e ▸ hi : m.Idle g r).observe ..
  unfold State.ownRow
  rw [hsame]
  exact .emit (.view (.ite (.refl hc) ((Issues.refl hc).updIss _)))

theorem Issues.farRow {tag : Bool} {p : Word} {v : RowSpec} (hc : s.cur = .core g r st) : Issues g r st s (s.farRow d cls tag p v) :=
  .emit (.view ⟨hc, foldl_keeps (P := Mach.Frame s.vd s.m) Mach.Kept.refl.newReply.toFrame fun _ _ h => h.enqueue⟩)

theorem Issues.execVld {tag u : Bool} {off : BitVec 5} (hc : s.cur = .core g r st) (hi : s.m.Idle g r) :
    Frames g r st s (execVld d a cls tag u off gd s) := by
  refine .word hc (.seq fun _ => ?_)
  extract_lets base
  split
  · exact .pure (.ownRow hc hi)
  · exact .pure (.ownRow hc hi)
  · exact .pure (.ite (.ownRow hc hi) (.farRow hc))

theorem Issues.rowStore {p : Word} {rank off : Nat} {data : List (Nat × Byte)} (h : Issues g r st s t) :
    Issues g r st s (t.rowStore p cls rank off data) := foldl_keeps h fun _ _ h => h.startWrite

theorem Issues.rowSpine {p l : Word} {level : Nat} {flat : Bool} {blocks : List (Nat × List (Nat × Nat))} (h : Issues g r st s t) :
    Issues g r st s (t.rowSpine p cls l level flat blocks) := foldl_keeps h fun _ _ h => h.startWrite

theorem Issues.execVst {u : Bool} {off : BitVec 5} (hc : s.cur = .core g r st) : Frames g r st s (execVst d a cls u off gd s) := by
  refine .word hc (.seq fun _ => .seq fun _ => ?_)
  extract_lets +onlyGivenNames row s1
  have h1 : Issues g r st s s1 := (Issues.refl hc).view
  split
  · exact .pure h1.rowStore.emit
  · exact .pure h1.rowSpine
  · exact .pure h1.rowStore

end

/-! ## The statement -/

/-- What the frame says of the bytes of memory. -/
theorem Mach.Frame.sameBytes {vd : Nat} {m k : Mach} (h : Mach.Frame vd m k) (hdev : ∀ n, Memory.get k.dev n = Memory.get m.dev n)
    (hhost : ∀ n, Memory.get k.host n = Memory.get m.host n) : SameBytes m k := by
  refine ⟨hdev, hhost, fun g r n => ?_, fun d i c n => ?_⟩
  · have hcore := h.cores g r
    generalize m.core? g r = x, k.core? g r = y at hcore ⊢
    cases hcore with
    | none => rfl
    | @some c d hs =>
      have hscr : d.scr = c.scr := by
        unfold SameCore at hs
        simp_all
      simp [hscr]
  · simp only [Mach.ctx?, Mach.loupe?, h.dies]

/-- What it says of a core. -/
theorem Mach.Frame.core {vd : Nat} {m k : Mach} (h : Mach.Frame vd m k) {g r : Nat} {c : Core} (hc : m.core? g r = some c) :
    ∃ d, k.core? g r = some d ∧ SameCore c d := by
  have hcore := h.cores g r
  rw [hc] at hcore
  generalize k.core? g r = y at hcore ⊢
  cases hcore with
  | some hs => exact ⟨_, rfl, hs⟩

end

/-- Settles O19: the words reach memory through a few shared operations, each of which keeps the frame: at the issue of the word only the
access counters of R373 write, and a load of the own bank, which no queued access of the core comes before, only fills its reply. -/
theorem memoryWordsFrame : Obligations.MemoryWordsFrame := by
  intro s t g r st d a b cls sco j sem off o5 tf u gd i hc hq he hp hi ht
  have hidle : s.m.Idle g r := ⟨hq, he⟩
  have hframes : Frames g r st s (exec i s) := by
    simp only [List.mem_cons, List.not_mem_nil, or_false] at hi
    rcases hi with rfl | rfl | rfl | rfl | rfl | rfl | rfl | rfl | rfl | rfl | rfl | rfl | rfl | rfl | rfl | rfl | rfl | rfl | rfl |
      rfl | rfl | rfl | rfl | rfl | rfl
    iterate 7 · exact .load hc hidle hp
    iterate 4 · exact .store hc hp
    · exact .execFence hc
    · exact .execVld hc hidle
    · exact .execVst hc
    · exact .execLdl hc hidle
    iterate 8 · exact .amo hc
    iterate 2 · exact .cas hc
  obtain ⟨-, h⟩ := hframes t ht
  refine ⟨Mach.Frame.sameBytes (vd := s.vd) (m := { s.m with dev := [], host := [] }) (k := { t.m with dev := [], host := [] }) ?_
    (fun _ => rfl) fun _ => rfl, fun n hn htw => h.dev n ⟨hn, htw⟩, fun n hn => h.host n hn, fun hf hm => ?_, fun k l c => h.core⟩
  · exact ⟨h.dies, h.mirror, h.ring, h.full, h.cores, fun _ _ => rfl, fun _ _ => rfl, fun _ _ => ⟨rfl, rfl⟩⟩
  · obtain ⟨hdev, hhost⟩ := h.quiet hf hm
    exact h.sameBytes (fun n => by rw [hdev]) fun n => by rw [hhost]

end Sys2Proof.Machine
end

section
/-! PROOFS. What the one-cycle words of S give: integers and immediates (R143, R145, R146), compares and predicates (R147, R148, R154),
and pointers (R149-R152). -/
namespace Sys2Proof.Machine

/-! ## The values of R143 and R146 -/

theorem sminW_eq (a b : Word) : sminW a b = BitVec.ofInt 64 (min a.toInt b.toInt) := by
  unfold sminW
  rw [BitVec.slt_eq_decide]
  by_cases h : b.toInt < a.toInt
  · simp [h, min_eq_right h.le]
  · simp [h, min_eq_left (not_lt.mp h)]

theorem smaxW_eq (a b : Word) : smaxW a b = BitVec.ofInt 64 (max a.toInt b.toInt) := by
  unfold smaxW
  rw [BitVec.slt_eq_decide]
  by_cases h : a.toInt < b.toInt
  · simp [h, max_eq_right h.le]
  · simp [h, max_eq_left (not_lt.mp h)]

theorem nminW_eq (a b : Word) : nminW a b = BitVec.ofNat 64 (min a.toNat b.toNat) := by
  unfold nminW
  rw [BitVec.ult_eq_decide]
  by_cases h : b.toNat < a.toNat
  · simp [h, min_eq_right h.le]
  · simp [h, min_eq_left (not_lt.mp h)]

theorem nmaxW_eq (a b : Word) : nmaxW a b = BitVec.ofNat 64 (max a.toNat b.toNat) := by
  unfold nmaxW
  rw [BitVec.ult_eq_decide]
  by_cases h : a.toNat < b.toNat
  · simp [h, max_eq_right h.le]
  · simp [h, max_eq_left (not_lt.mp h)]

theorem amount_eq (b : Word) : amount b = b.toNat % 64 := by simp [amount]

/-- Bits [51:32] are the immediate, the others those of the old value (R146). -/
theorem lihW_eq (x : Word) (imm : BitVec 20) : lihW x imm = (fld x 52 12 ++ imm ++ fld x 0 32 : BitVec 64) := by
  have hmask (i : Nat) : (0xFFFFF#64).getLsbD i = decide (i < 20) := by
    have := Nat.testBit_two_pow_sub_one 20 i
    simpa [BitVec.getLsbD] using this
  apply BitVec.eq_of_getLsbD_eq
  intro i hi
  simp only [lihW, fld, BitVec.getLsbD_or, BitVec.getLsbD_and, BitVec.getLsbD_not, BitVec.getLsbD_shiftLeft, BitVec.getLsbD_append,
    BitVec.getLsbD_setWidth, BitVec.getLsbD_extractLsb', hmask, hi]
  by_cases h1 : i < 32
  · simp [h1]
  · by_cases h2 : i < 52
    · have hin : i - 32 < 20 := by omega
      simp [h1, hin]
      omega
    · have hout : ¬ i - 32 < 20 := by omega
      have hhigh : i - 32 - 20 < 12 ∧ 52 + (i - 32 - 20) = i := by omega
      simp [h1, hout, hhigh, BitVec.getLsbD_of_ge imm (i - 32) (not_lt.mp hout)]

/-- The number of leading zeros of a word that is not 0 names its highest one (R143). -/
theorem clzW_toNat {x : Word} (hx : x ≠ 0) : (clzW x).toNat = 63 - x.toNat.log2 ∧ x.toNat.log2 < 64 := by
  have h0 : x.toNat ≠ 0 := by simpa [← BitVec.toNat_inj] using hx
  have hlog : x.toNat.log2 < 64 := (Nat.log2_lt h0).mpr x.isLt
  refine ⟨?_, hlog⟩
  simp [clzW, bitLen, h0]
  omega

theorem clzW_highest {x : Word} (hx : x ≠ 0) : (clzW x).toNat < 64 ∧ x.getLsbD (63 - (clzW x).toNat) = true ∧
    ∀ j, j < 64 → 63 - (clzW x).toNat < j → x.getLsbD j = false := by
  obtain ⟨hclz, hlog⟩ := clzW_toNat hx
  have h0 : x.toNat ≠ 0 := by simpa [← BitVec.toNat_inj] using hx
  have hbit : 63 - (clzW x).toNat = x.toNat.log2 := by omega
  rw [hbit]
  exact ⟨by omega, Nat.testBit_log2 h0, fun j _ hj => Nat.testBit_lt_two_pow ((Nat.log2_lt h0).mp hj)⟩

/-! ## What a word of each kind gives -/

section
variable {s : State} {d a b : BitVec 6} {w : Bool} {g : BitVec 4} {lat : Nat}

theorem sr1_runs {f : Word → Word} (h : Runs s (sn (dst d w ++ [a.toNat])) g) :
    sr1 lat f d a w g s = .next (s.resS lat d w (f (s.rd a.toNat))).advance := State.word_runs h rfl

theorem si1_runs {f : Word → Word} (h : Runs s (sn [d.toNat, a.toNat]) g) :
    si1 f d a g s = .next (s.resS 1 d false (f (s.rd a.toNat))).advance := State.word_runs h rfl

theorem pp2_runs {f : Bool → Bool → Bool} (h : Runs s [] g) :
    pp2 f d a b g s = .next (s.resP 1 d.toNat (f (s.seq.readP a.toNat) (s.seq.readP b.toNat))).advance := State.word_runs h rfl

theorem fcmp_runs {f : Int → Bool} (h : Runs s (sn [a.toNat, b.toNat]) g) :
    fcmp f d a b g s = .next (s.resP 4 d.toNat (!(f32V (f32W (s.rd a.toNat))).isNan && !(f32V (f32W (s.rd b.toNat))).isNan &&
      f (cmpV (f32V (f32W (s.rd a.toNat))) (f32V (f32W (s.rd b.toNat)))))).advance := State.word_runs h rfl

/-- A pointer word whose pointer passes its checks. -/
theorem wordMade_runs {decls : List Decl} {space rank base : State → Nat} {add : State → Int} {p : Word} (h : Runs s decls g)
    (hp : checkMade s (space s) (rank s) (base s) (add s) = .ok p) : (s.word decls (s.guard g) fun s => do
      return s.resS 1 d w (← checkMade s (space s) (rank s) (base s) (add s))) = .next (s.resS 1 d w p).advance :=
  State.word_runs h (by rw [hp]; rfl)

/-- One whose pointer fails them. -/
theorem wordMade_faults {decls : List Decl} {space rank base : State → Nat} {add : State → Int} {e : Exc} (h : Runs s decls g)
    (hp : checkMade s (space s) (rank s) (base s) (add s) = .error (.fault e)) : (s.word decls (s.guard g) fun s => do
      return s.resS 1 d w (← checkMade s (space s) (rank s) (base s) (add s))) = .next (s.raise e) :=
  State.word_stops (e := .fault e) h.1 (by rw [hp]; rfl)

end

/-! ## Pointers made (R149) -/

theorem ptrSpace_eq (p : Word) : ptrSpace p = p.toNat / 2 ^ 60 := by
  simp [ptrSpace, BitVec.extractLsb'_toNat, Nat.shiftRight_eq_div_pow]
  omega

theorem ptrRank_eq (p : Word) : ptrRank p = p.toNat / 2 ^ 54 % 64 := by
  simp [ptrRank, BitVec.extractLsb'_toNat, Nat.shiftRight_eq_div_pow]

theorem ptrOff_eq (p : Word) : ptrOff p = p.toNat % 2 ^ 54 := by
  simp [ptrOff, BitVec.extractLsb'_toNat]

/-- A pointer into scratchpad fails the checks of its rank and its offset alone. -/
theorem checkMade_scratchpad {s : State} {k r : Nat} {st : Stream} (hc : s.cur = .core k r st) (rank base : Nat) (add : Int) :
    checkMade s 1 rank base add = (do
      need (decide (rank < s.m.gangSize s.cur ∧ 0 ≤ (base : Int) + add ∧ (base : Int) + add ≤ 2 ^ 21)) 0x03
        (mkPtr 1 rank (wrapInt 54 (base + add)))
      pure (mkPtr 1 rank (wrapInt 54 (base + add)))) := by
  by_cases hr : rank < s.m.gangSize s.cur
  · simp [checkMade, rankOk, hc, hc ▸ hr]
    rfl
  · simp [checkMade, rankOk, hc, hc ▸ hr]
    rfl

theorem wrapInt_of_range {x : Int} (h0 : 0 ≤ x) (h1 : x ≤ 2 ^ 21) : wrapInt 54 x = x.toNat := by
  rw [wrapInt, Int.emod_eq_of_lt h0 (by omega)]

/-! ## The words -/

/-- Settles O9: each is a word of one or two sources or of an immediate; the value functions are those of the statement. -/
theorem integerWords : Obligations.IntegerWords := by
  refine ⟨fun s d a b w g => ⟨fun h => ?_, fun h => ?_⟩, fun s d a imm imm20 g => ⟨fun h => ?_, fun h => ?_⟩, by decide,
    fun x hx => clzW_highest hx⟩
  · simp only [exec_add, exec_sub, exec_and, exec_or, exec_xor, exec_andn, exec_min, exec_max, exec_minn, exec_maxn, exec_shl, exec_shr,
      exec_sar, exec_rotr, ← sminW_eq, ← smaxW_eq, ← nminW_eq, ← nmaxW_eq, ← amount_eq]
    exact ⟨sr2_runs h, sr2_runs h, sr2_runs h, sr2_runs h, sr2_runs h, sr2_runs h, sr2_runs h, sr2_runs h, sr2_runs h, sr2_runs h,
      sr2_runs h, sr2_runs h, sr2_runs h, sr2_runs h⟩
  · simp only [exec_clz, exec_popc]
    exact ⟨sr1_runs h, sr1_runs h⟩
  · simp only [exec_addi, exec_andi, exec_ori, exec_xori, exec_shli, exec_shri, exec_sari]
    exact ⟨si1_runs h, si1_runs h, si1_runs h, si1_runs h, si1_runs h, si1_runs h, si1_runs h⟩
  · simp only [exec_lim, exec_lih, ← lihW_eq]
    exact ⟨State.word_runs h rfl, State.word_runs h rfl⟩

/-- Settles O11: each is a word of two scalars, of one, or of predicates; the conditions are those of R147. -/
theorem comparesAndPredicates : Obligations.ComparesAndPredicates := by
  intro s d a b cc imm w g
  simp only [exec_cmp, exec_fcmpLt, exec_fcmpLe, exec_fcmpEq, exec_cmpi, exec_stop, exec_pand, exec_por, exec_pxor, exec_pnot, exec_ptos]
  refine ⟨fun h => ⟨State.word_runs h rfl, fun p => ⟨?_, ?_, ?_⟩⟩, ?_, fun h => ⟨State.word_runs h rfl, State.word_runs h rfl⟩,
    fun h => ⟨pp2_runs h, pp2_runs h, pp2_runs h, State.word_runs h rfl⟩, fun h => State.word_runs h rfl⟩
  case refine_4 =>
    exact ⟨beq_eq_decide .., decide_not.symm, rfl, rfl, rfl, rfl, decide_not.symm⟩
  all_goals
    rintro rfl
    exact fcmp_runs h

/-- Settles O12: the words that make a pointer end as its checks do; the others only take it apart. -/
theorem pointerWords : Obligations.PointerWords := by
  refine ⟨fun s d a b imm w g => ⟨fun h => ?_, fun h => ?_, fun h => ?_, fun h => ?_⟩,
    fun s k r st rank base add hc hr => ?_⟩
  · simp only [exec_ptrmk, exec_ptradd]
    exact ⟨fun p hp => wordMade_runs h hp, fun p hp => wordMade_runs h hp, fun e hp => wordMade_faults h hp,
      fun e hp => wordMade_faults h hp⟩
  · simp only [exec_ptrsp, exec_ptrrk, exec_ptrof]
    refine ⟨(sr1_runs h).trans ?_, (sr1_runs h).trans ?_, (sr1_runs h).trans ?_⟩
    · rw [ptrSpace_eq]
    · rw [ptrRank_eq]
    · rw [ptrOff_eq]
  · simp only [exec_ptri]
    exact ⟨fun p hp => wordMade_runs h hp, fun e hp => wordMade_faults h hp⟩
  · simp only [exec_lscr]
    exact ⟨fun k r st hc => State.word_runs h (by rw [hc]), fun e i c hc => State.word_runs h (by rw [hc])⟩
  · rw [checkMade_scratchpad hc]
    refine ⟨fun hin => ?_, fun hout => ⟨mkPtr 1 rank (wrapInt 54 (base + add)), ?_⟩⟩
    · obtain ⟨-, hlow, hhigh⟩ := id hin
      rw [wrapInt_of_range hlow hhigh, decide_eq_true hin]
      rfl
    · rw [decide_eq_false hout]
      rfl

end Sys2Proof.Machine
end

section
/-! PROOFS. What loads, LDL and stores come to (R155-R159, R247; log entry 83). -/
namespace Sys2Proof.Machine

theorem State.word_congr {s : State} {decls : List Decl} {on : Bool} {body body' : State → Except Stop State} (h : body s = body' s) :
    s.word decls on body = s.word decls on body' := by
  unfold State.word
  rw [h]

theorem noTree_leaf {r : Reach} (h : leafDepth r.leaf = 0) (p : Word) : noTree r p = .ok () := by
  simp [noTree, needThere, h]

theorem noTree_tree {r : Reach} {p : Word} (h : leafDepth r.leaf ≠ 0) (hp : ptrSpace p = 0) :
    noTree r p = .error (.fault { cause := 0x13, addr := p, walked := true }) := by
  simp [noTree, needThere, h, hp]

theorem leafDepth_zero : leafDepth 0 = 0 := by decide

/-- A place whose page has attributes lies in GLB (R365). -/
theorem State.reach_leaf {s : State} {e : Engine} {tlb : Tlb} {p : Word} {off : Int} {size align : Nat} {k : AccKind} {r : Reach}
    (hr : s.reach e tlb p off size align k = .ok r) (hl : leafDepth r.leaf ≠ 0) : ptrSpace p = 0 := by
  have hholds : Except.Holds (fun r : Reach => leafDepth r.leaf ≠ 0 → ptrSpace p = 0) (s.reach e tlb p off size align k) := by
    refine .seq fun _ => .seq fun _ => ?_
    split
    · next hp => exact fun _ _ _ => hp
    · exact .pure fun h => absurd leafDepth_zero h
    · exact .seq fun _ => .pure fun h => absurd leafDepth_zero h
  exact hholds r hr hl

section
variable {s : State} {d a : BitVec 6} {cls : BitVec 3} {sem : BitVec 2} {sco : BitVec 3} {off : BitVec 6} {g : BitVec 4} {size : Nat}

/-! ## A word that reaches a place -/

section
variable {decls : List Decl} {e : Stop}

/-- A word whose pointer fails its checks. -/
theorem word_unreached {α : Type} {x : Except Stop α} {f : α → Except Stop State} (h : Runs s decls g) (hx : x = .error e) :
    s.word decls (s.guard g) (fun _ => x >>= f) = .next (s.stopped e) :=
  State.word_stops h.1 (by rw [hx]; rfl)

/-- A word whose pointer passes them and that needs no more. -/
theorem word_reached {α : Type} {x : Except Stop α} {f : α → State} {c : α} (h : Runs s decls g) (hx : x = .ok c) :
    s.word decls (s.guard g) (fun _ => do let c ← x; pure (f c)) = .next (f c).advance :=
  State.word_runs h (by rw [hx]; rfl)

/-- A plain access to a page without a tree. -/
theorem word_plain {x : Except Stop Reach} {p : Word} {f : Reach → State} {r : Reach} (h : Runs s decls g) (hx : x = .ok r)
    (hl : leafDepth r.leaf = 0) :
    s.word decls (s.guard g) (fun _ => do let r ← x; noTree r p; pure (f r)) = .next (f r).advance :=
  State.word_runs h (by rw [hx]; show (noTree r p >>= _) = _; rw [noTree_leaf hl]; rfl)

/-- A plain access to a page with one (R245). -/
theorem word_tree {p : Word} {o : Int} {size : Nat} {k : AccKind} {f : Reach → State} {r : Reach} (h : Runs s decls g)
    (hx : s.reach s.engine s.tlb p o size size k = .ok r) (hl : leafDepth r.leaf ≠ 0) :
    s.word decls (s.guard g) (fun _ => do let r ← s.reach s.engine s.tlb p o size size k; noTree r p; pure (f r)) =
      .next (s.raise { cause := 0x13, addr := p, walked := true }) := by
  refine State.word_stops (e := .fault { cause := 0x13, addr := p, walked := true }) h.1 ?_
  rw [hx]
  show (noTree r p >>= _) = _
  rw [noTree_tree hl (State.reach_leaf hx hl)]
  rfl

end

/-! ## Loads and stores -/

/-- The offset and the pointer of a load or store of `size` bytes (R155). -/
def State.wordOff (s : State) (a off : BitVec 6) (size : Nat) : Int := ptrOff (s.rd a.toNat) + off.toNat * size
def State.wordPtr (s : State) (a off : BitVec 6) (size : Nat) : Word := ptrAt (s.rd a.toNat) (s.wordOff a off size)

/-- A read begun at a place, its result to come with the reply (R60, R155). -/
def State.readBegun (s : State) (m : Mach) (p : Word) (r : Reach) (cls : BitVec 3) (sem : BitVec 2) (sco : BitVec 3) (op : Nat → QOp)
    (lat : Nat) (d : BitVec 6) (size : Nat) (sx : Bool) : State :=
  let n := m.newReply (.agent s.cur) 1
  State.resReply (State.startRead { s with m := n.2 } (s.entry r p cls sem sco (op n.1)) 16 n.1) lat d n.1 size sx

/-- A read of SYS: after the older accesses that come before it, and as an acquire with .acq (log entries 82 and 83). -/
def State.sysLoaded (s : State) (d : BitVec 6) (cls : BitVec 3) (sem : BitVec 2) (k : Nat) : State :=
  let u := s.sysOrder k cls sem (.load 8 0 0)
  let t := if bit sem 0 then u.sysAcquire else u
  t.resS 8 d false (t.sysRead k)

/-- A write of SYS likewise, as a release with .rel. -/
def State.sysStored (s : State) (v : Word) (cls : BitVec 3) (sem : BitVec 2) (sco : BitVec 3) (k : Nat) : State :=
  let u := s.sysOrder k cls sem (.store [])
  State.sysWrite (if bit sem 1 then u.sysRelease (scopeAt false 15 sco.toNat) else u) k v

/-- A pointer that names no system register: one of another space, or of a Loupe core. -/
theorem not_sys (h : ptrSpace (s.rd a.toNat) ≠ 15 ∨ s.onLoupe = true) :
    ¬ (decide (ptrSpace (s.rd a.toNat) = 15) && !s.onLoupe) = true := by
  rcases h with h | h <;> simp [h]

theorem load_memory {sx : Bool} (h : ptrSpace (s.rd a.toNat) ≠ 15 ∨ s.onLoupe = true) : load size sx d a cls sem sco off g s =
    s.word (sn [d.toNat, a.toNat]) (s.guard g) (fun _ => do
      let r ← s.reach s.engine s.tlb (s.wordPtr a off size) (s.wordOff a off size) size size .read
      noTree r (s.wordPtr a off size)
      pure (s.readBegun r.m (s.wordPtr a off size) r cls sem sco (.load size · 0) r.lat d size sx)) :=
  State.word_congr (if_neg (not_sys h))

theorem load_sys {sx : Bool} (h : ptrSpace (s.rd a.toNat) = 15 ∧ s.onLoupe = false) : load size sx d a cls sem sco off g s =
    s.word (sn [d.toNat, a.toNat]) (s.guard g) (fun _ => do
      let k ← s.sysReach (s.wordPtr a off size) (s.wordOff a off size) size true
      pure (s.sysLoaded d cls sem k)) :=
  State.word_congr (if_pos (by simp [h]))

theorem store_memory (h : ptrSpace (s.rd a.toNat) ≠ 15 ∨ s.onLoupe = true) : store size d a cls sem sco off g s =
    s.word (sn [d.toNat, a.toNat]) (s.guard g) (fun _ => do
      let r ← s.reach s.engine s.tlb (s.wordPtr a off size) (s.wordOff a off size) size size .write
      noTree r (s.wordPtr a off size)
      pure (State.startWrite { s with m := r.m }
        (s.entry r (s.wordPtr a off size) cls sem sco (.store (offs (natLE size (s.rd d.toNat).toNat)))) 16)) :=
  State.word_congr (if_neg (not_sys h))

theorem store_sys (h : ptrSpace (s.rd a.toNat) = 15 ∧ s.onLoupe = false) : store size d a cls sem sco off g s =
    s.word (sn [d.toNat, a.toNat]) (s.guard g) (fun _ => do
      let k ← s.sysReach (s.wordPtr a off size) (s.wordOff a off size) size false
      pure (s.sysStored (s.rd d.toNat) cls sem sco k)) :=
  State.word_congr (if_pos (by simp [h]))

/-- What a load of `size` bytes comes to, at a memory's pointer and at one of SYS. -/
theorem load_outcomes {sx : Bool} (h : Runs s (sn [d.toNat, a.toNat]) g) :
    (ptrSpace (s.rd a.toNat) ≠ 15 ∨ s.onLoupe = true →
      (∀ r, s.reach s.engine s.tlb (s.wordPtr a off size) (s.wordOff a off size) size size .read = .ok r → leafDepth r.leaf = 0 →
        load size sx d a cls sem sco off g s =
          .next (s.readBegun r.m (s.wordPtr a off size) r cls sem sco (.load size · 0) r.lat d size sx).advance) ∧
      (∀ r, s.reach s.engine s.tlb (s.wordPtr a off size) (s.wordOff a off size) size size .read = .ok r → leafDepth r.leaf ≠ 0 →
        load size sx d a cls sem sco off g s = .next (s.raise { cause := 0x13, addr := s.wordPtr a off size, walked := true })) ∧
      (∀ e, s.reach s.engine s.tlb (s.wordPtr a off size) (s.wordOff a off size) size size .read = .error e →
        load size sx d a cls sem sco off g s = .next (s.stopped e))) ∧
    (ptrSpace (s.rd a.toNat) = 15 ∧ s.onLoupe = false →
      (∀ k, s.sysReach (s.wordPtr a off size) (s.wordOff a off size) size true = .ok k →
        load size sx d a cls sem sco off g s = .next (s.sysLoaded d cls sem k).advance) ∧
      (∀ e, s.sysReach (s.wordPtr a off size) (s.wordOff a off size) size true = .error e →
        load size sx d a cls sem sco off g s = .next (s.stopped e))) := by
  refine ⟨fun hm => ?memory, fun hs => ?sys⟩
  case memory =>
    rw [load_memory hm]
    exact ⟨fun r hr hl => word_plain h hr hl, fun r hr hl => word_tree h hr hl, fun e hr => word_unreached h hr⟩
  case sys =>
    rw [load_sys hs]
    exact ⟨fun k hk => word_reached h hk, fun e hk => word_unreached h hk⟩

/-- What a store of `size` bytes comes to, likewise. -/
theorem store_outcomes (h : Runs s (sn [d.toNat, a.toNat]) g) :
    (ptrSpace (s.rd a.toNat) ≠ 15 ∨ s.onLoupe = true →
      (∀ r, s.reach s.engine s.tlb (s.wordPtr a off size) (s.wordOff a off size) size size .write = .ok r → leafDepth r.leaf = 0 →
        store size d a cls sem sco off g s = .next (State.startWrite { s with m := r.m }
          (s.entry r (s.wordPtr a off size) cls sem sco (.store (offs (natLE size (s.rd d.toNat).toNat)))) 16).advance) ∧
      (∀ r, s.reach s.engine s.tlb (s.wordPtr a off size) (s.wordOff a off size) size size .write = .ok r → leafDepth r.leaf ≠ 0 →
        store size d a cls sem sco off g s = .next (s.raise { cause := 0x13, addr := s.wordPtr a off size, walked := true })) ∧
      (∀ e, s.reach s.engine s.tlb (s.wordPtr a off size) (s.wordOff a off size) size size .write = .error e →
        store size d a cls sem sco off g s = .next (s.stopped e))) ∧
    (ptrSpace (s.rd a.toNat) = 15 ∧ s.onLoupe = false →
      (∀ k, s.sysReach (s.wordPtr a off size) (s.wordOff a off size) size false = .ok k →
        store size d a cls sem sco off g s = .next (s.sysStored (s.rd d.toNat) cls sem sco k).advance) ∧
      (∀ e, s.sysReach (s.wordPtr a off size) (s.wordOff a off size) size false = .error e →
        store size d a cls sem sco off g s = .next (s.stopped e))) := by
  refine ⟨fun hm => ?memory, fun hs => ?sys⟩
  case memory =>
    rw [store_memory hm]
    exact ⟨fun r hr hl => word_plain h hr hl, fun r hr hl => word_tree h hr hl, fun e hr => word_unreached h hr⟩
  case sys =>
    rw [store_sys hs]
    exact ⟨fun k hk => word_reached h hk, fun e hk => word_unreached h hk⟩

/-! ## LDL -/

/-- What LDL does at a place that it has reached (R247): the tests of the tree it finds there, and the read of the element's block. -/
def State.ldlAt (s : State) (p : Word) (d : BitVec 6) (cls : BitVec 3) (sem : BitVec 2) (sco j : BitVec 3) (r : Reach) : Except Stop State :=
  match s.ldlTree p r.leaf with
  | none => .error (.fault { cause := 0x13, addr := p, walked := ptrSpace p == 0 })
  | some (ty, L) => do
    needThere (decide (j.toNat ≤ L)) 0x13 p
    needThere (ptrOff p % tyBytes ty.toNat == 0) 0x06 p
    need (ptrSpace p == 0 || !beyond s.hdr (ptrOff p) (tyBytes ty.toNat)) 0x02 p
    pure (s.readBegun r.m p { r with loc := r.loc.block (2 ^ L * tyBytes ty.toNat) } cls sem sco (.ldl ty L j.toNat ·) (r.lat + 6) d 8 false)

/-- The place of a pointer into a scratchpad of the gang, as LDL reads it. -/
def State.scrReach (s : State) (p : Word) : Reach := { loc := .scr s.gno (ptrRank p) (ptrOff p), lat := 4, m := s.m }

/-- An LDL whose pointer is of a space that it can use, and passes its checks. -/
theorem execLdl_of_checkUse {j : BitVec 3} (hp : ptrSpace (s.rd a.toNat) ≤ 1)
    (huse : checkUse s.m s.cur s.engine (s.rd a.toNat) (ptrOff (s.rd a.toNat)) 1 = .ok ()) : execLdl d a cls sem sco j g s =
    s.word (sn [d.toNat, a.toNat]) (s.guard g) (fun _ => do
      let r ← if ptrSpace (s.rd a.toNat) = 0 then s.reach s.engine s.tlb (s.rd a.toNat) (ptrOff (s.rd a.toNat)) 1 1 .read
        else pure { loc := s.m.place s.cur 1 (ptrRank (s.rd a.toNat)) (ptrOff (s.rd a.toNat)), lat := 4, m := s.m }
      s.ldlAt (s.rd a.toNat) d cls sem sco j r) := by
  refine State.word_congr ?_
  have hspace : need (decide (ptrSpace (s.rd a.toNat) ≤ 1) || decide (4 ≤ ptrSpace (s.rd a.toNat))) 0x03 (s.rd a.toNat) = .ok () := by
    simp [hp]
  have hspace' : need (decide (ptrSpace (s.rd a.toNat) ≤ 1)) 0x03 (s.rd a.toNat) = .ok () := by simp [hp]
  dsimp only
  rw [hspace, huse, hspace']
  by_cases h0 : ptrSpace (s.rd a.toNat) = 0
  · rw [if_pos h0, if_pos h0]
    rfl
  · rw [if_neg h0, if_neg h0]
    rfl

theorem execLdl_scratchpad {j : BitVec 3} (hp : ptrSpace (s.rd a.toNat) = 1) (hr : ptrRank (s.rd a.toNat) < s.m.gangSize s.cur)
    (ho : ptrOff (s.rd a.toNat) + 1 ≤ 2 ^ 21) (he : s.engine = .s) : execLdl d a cls sem sco j g s =
    s.word (sn [d.toNat, a.toNat]) (s.guard g) (fun _ => s.ldlAt (s.rd a.toNat) d cls sem sco j
      (s.scrReach (s.rd a.toNat))) := by
  have huse : checkUse s.m s.cur s.engine (s.rd a.toNat) (ptrOff (s.rd a.toNat)) 1 = .ok () := by
    rw [he, checkUse_scratchpad hp, need_eq_ok]
    exact decide_eq_true ⟨hr, Int.natCast_nonneg _, by exact_mod_cast ho⟩
  rw [execLdl_of_checkUse (by simp [hp]) huse]
  exact State.word_congr (by rw [if_neg (by simp [hp])]; rfl)

theorem execLdl_glb {j : BitVec 3} (hp : ptrSpace (s.rd a.toNat) = 0) : execLdl d a cls sem sco j g s =
    s.word (sn [d.toNat, a.toNat]) (s.guard g) (fun _ => do
      let r ← s.reach s.engine s.tlb (s.rd a.toNat) (ptrOff (s.rd a.toNat)) 1 1 .read
      s.ldlAt (s.rd a.toNat) d cls sem sco j r) := by
  cases huse : checkUse s.m s.cur s.engine (s.rd a.toNat) (ptrOff (s.rd a.toNat)) 1 with
  | ok u => 
    rw [execLdl_of_checkUse (by simp [hp]) huse]
    exact State.word_congr (by rw [if_pos hp])
  | error e =>
    refine State.word_congr ?_
    have hspace : need (decide (ptrSpace (s.rd a.toNat) ≤ 1) || decide (4 ≤ ptrSpace (s.rd a.toNat))) 0x03 (s.rd a.toNat) = .ok () := by
      simp [hp]
    unfold State.reach
    dsimp only
    rw [hspace, huse]
    rfl

section
variable {p : Word} {j : BitVec 3} {r : Reach} {ty : BitVec 4} {L : Nat}

theorem State.ldlAt_none (h : s.ldlTree p r.leaf = none) :
    s.ldlAt p d cls sem sco j r = .error (.fault { cause := 0x13, addr := p, walked := ptrSpace p == 0 }) := by
  rw [State.ldlAt, h]

theorem State.ldlAt_deep (h : s.ldlTree p r.leaf = some (ty, L)) (hj : L < j.toNat) :
    s.ldlAt p d cls sem sco j r = .error (.fault { cause := 0x13, addr := p, walked := ptrSpace p == 0 }) := by
  rw [State.ldlAt, h]
  dsimp only
  rw [decide_eq_false (not_le.mpr hj)]
  rfl

theorem State.ldlAt_misaligned (h : s.ldlTree p r.leaf = some (ty, L)) (hj : j.toNat ≤ L) (ha : ptrOff p % tyBytes ty.toNat ≠ 0) :
    s.ldlAt p d cls sem sco j r = .error (.fault { cause := 0x06, addr := p, walked := ptrSpace p == 0 }) := by
  rw [State.ldlAt, h]
  dsimp only
  rw [decide_eq_true hj, beq_eq_false_iff_ne.mpr ha]
  rfl

theorem State.ldlAt_beyond (h : s.ldlTree p r.leaf = some (ty, L)) (hj : j.toNat ≤ L) (ha : ptrOff p % tyBytes ty.toNat = 0)
    (hp : ptrSpace p ≠ 0) (hb : beyond s.hdr (ptrOff p) (tyBytes ty.toNat) = true) :
    s.ldlAt p d cls sem sco j r = .error (.fault { cause := 0x02, addr := p }) := by
  rw [State.ldlAt, h]
  dsimp only
  rw [decide_eq_true hj, beq_iff_eq.mpr ha, beq_eq_false_iff_ne.mpr hp, hb]
  rfl

theorem State.ldlAt_read (h : s.ldlTree p r.leaf = some (ty, L)) (hj : j.toNat ≤ L) (ha : ptrOff p % tyBytes ty.toNat = 0)
    (hb : (ptrSpace p == 0 || !beyond s.hdr (ptrOff p) (tyBytes ty.toNat)) = true) :
    s.ldlAt p d cls sem sco j r = .ok (s.readBegun r.m p { r with loc := r.loc.block (2 ^ L * tyBytes ty.toNat) } cls sem sco
      (.ldl ty L j.toNat ·) (r.lat + 6) d 8 false) := by
  rw [State.ldlAt, h]
  dsimp only
  rw [decide_eq_true hj, beq_iff_eq.mpr ha, hb]
  rfl

/-- Another rank's scratchpad holds no lens that LDL could use (R247). -/
theorem State.ldlTree_other_rank {leaf : Word} (hp : ptrSpace p = 1) (hr : ptrRank p ≠ s.rank) : s.ldlTree p leaf = none := by
  simp [State.ldlTree, hp, hr]

theorem State.ldlTree_glb_none {leaf : Word} (hp : ptrSpace p = 0) (hl : leafDepth leaf = 0) : s.ldlTree p leaf = none := by
  simp [State.ldlTree, hp, hl]

theorem State.ldlTree_glb {leaf : Word} (hp : ptrSpace p = 0) (hl : leafDepth leaf ≠ 0) :
    s.ldlTree p leaf = some (BitVec.ofNat 4 (leafType leaf), leafDepth leaf) := by
  simp [State.ldlTree, hp, hl]

/-- A leaf's element type has 4 bits (R365). -/
theorem leafType_toNat (l : Word) : (BitVec.ofNat 4 (leafType l)).toNat = leafType l := by
  rw [BitVec.toNat_ofNat]
  exact Nat.mod_eq_of_lt (fld l 50 4).isLt

/-- What LDL comes to at its core's gang's scratchpads (R247). -/
theorem execLdl_scratchpad_outcomes (h : Runs s (sn [d.toNat, a.toNat]) g) (hq : s.rd a.toNat = p) (hp : ptrSpace p = 1)
    (hr : ptrRank p < s.m.gangSize s.cur) (ho : ptrOff p + 1 ≤ 2 ^ 21) (he : s.engine = .s) :
    let o := execLdl d a cls sem sco j g s
    (s.ldlTree p 0 = none → o = .next (s.raise { cause := 0x13, addr := p })) ∧
    (∀ ty L, s.ldlTree p 0 = some (ty, L) →
      (L < j.toNat → o = .next (s.raise { cause := 0x13, addr := p })) ∧
      (j.toNat ≤ L → ptrOff p % tyBytes ty.toNat ≠ 0 → o = .next (s.raise { cause := 0x06, addr := p })) ∧
      (j.toNat ≤ L → ptrOff p % tyBytes ty.toNat = 0 →
        (beyond s.hdr (ptrOff p) (tyBytes ty.toNat) = true → o = .next (s.raise { cause := 0x02, addr := p })) ∧
        (beyond s.hdr (ptrOff p) (tyBytes ty.toNat) = false → o = .next (s.readBegun s.m p
          { s.scrReach p with loc := (s.scrReach p).loc.block (2 ^ L * tyBytes ty.toNat) } cls sem sco
          (.ldl ty L j.toNat ·) 10 d 8 false).advance))) := by
  subst hq
  have hw : (ptrSpace (s.rd a.toNat) == 0) = false := by simp [hp]
  have hne : ptrSpace (s.rd a.toNat) ≠ 0 := by simp [hp]
  intro o
  rw [show o = _ from execLdl_scratchpad hp hr ho he]
  refine ⟨fun ht => ?_, fun ty L ht => ⟨fun hj => ?_, fun hj ha => ?_, fun hj ha => ⟨fun hb => ?_, fun hb => ?_⟩⟩⟩
  · rw [State.word_stops h.1 (State.ldlAt_none (r := s.scrReach _) ht), hw]
    rfl
  · rw [State.word_stops h.1 (State.ldlAt_deep (r := s.scrReach _) ht hj), hw]
    rfl
  · rw [State.word_stops h.1 (State.ldlAt_misaligned (r := s.scrReach _) ht hj ha), hw]
    rfl
  · rw [State.word_stops h.1 (State.ldlAt_beyond (r := s.scrReach _) ht hj ha hne hb)]
    rfl
  · exact State.word_runs h (State.ldlAt_read (r := s.scrReach _) ht hj ha (by simp [hb]))

/-- What LDL comes to at a reached page of GLB. -/
theorem execLdl_glb_outcomes (h : Runs s (sn [d.toNat, a.toNat]) g) (hq : s.rd a.toNat = p) (hp : ptrSpace p = 0)
    (hr : s.reach s.engine s.tlb p (ptrOff p) 1 1 .read = .ok r) :
    let o := execLdl d a cls sem sco j g s
    (leafDepth r.leaf = 0 ∨ leafDepth r.leaf < j.toNat → o = .next (s.raise { cause := 0x13, addr := p, walked := true })) ∧
    (leafDepth r.leaf ≠ 0 → j.toNat ≤ leafDepth r.leaf → ptrOff p % tyBytes (leafType r.leaf) ≠ 0 →
      o = .next (s.raise { cause := 0x06, addr := p, walked := true })) ∧
    (leafDepth r.leaf ≠ 0 → j.toNat ≤ leafDepth r.leaf → ptrOff p % tyBytes (leafType r.leaf) = 0 →
      o = .next (s.readBegun r.m p
        { r with loc := r.loc.block (2 ^ leafDepth r.leaf * tyBytes (BitVec.ofNat 4 (leafType r.leaf)).toNat) } cls sem sco
        (.ldl (BitVec.ofNat 4 (leafType r.leaf)) (leafDepth r.leaf) j.toNat ·) (r.lat + 6) d 8 false).advance) := by
  subst hq
  have hw : (ptrSpace (s.rd a.toNat) == 0) = true := by simp [hp]
  have hrun : execLdl d a cls sem sco j g s =
      s.word (sn [d.toNat, a.toNat]) (s.guard g) (fun _ => s.ldlAt (s.rd a.toNat) d cls sem sco j r) := by
    rw [execLdl_glb hp]
    exact State.word_congr (by rw [hr]; rfl)
  intro o
  rw [show o = _ from hrun]
  refine ⟨fun hl => ?_, fun hl hj ha => ?_, fun hl hj ha => ?_⟩
  · by_cases h0 : leafDepth r.leaf = 0
    · rw [State.word_stops h.1 (State.ldlAt_none (State.ldlTree_glb_none hp h0)), hw]
      rfl
    · rw [State.word_stops h.1 (State.ldlAt_deep (State.ldlTree_glb hp h0) (hl.resolve_left h0)), hw]
      rfl
  · rw [State.word_stops h.1 (State.ldlAt_misaligned (State.ldlTree_glb hp hl) hj (by rwa [leafType_toNat])), hw]
    rfl
  · exact State.word_runs h (State.ldlAt_read (State.ldlTree_glb hp hl) hj (by rwa [leafType_toNat]) (by simp [hp]))

end

end

/-! ## The statements -/

/-- Settles O21: a load is a test of its pointer and a read begun, or a read of a register; LDL goes on to the tree it has reached. -/
theorem loads : Obligations.Loads := by
  intro s d a cls sem sco off j g h
  refine ⟨load_outcomes h, load_outcomes h, load_outcomes h, load_outcomes h, load_outcomes h, load_outcomes h, load_outcomes h,
    fun hp hr ho he => ?scratchpad, fun hp => ?glb⟩
  case scratchpad =>
    obtain ⟨hnone, htree⟩ := execLdl_scratchpad_outcomes (cls := cls) (sem := sem) (sco := sco) (j := j) h rfl hp hr ho he
    exact ⟨fun hrank => hnone (State.ldlTree_other_rank hp hrank), hnone, htree⟩
  case glb =>
    refine ⟨fun e he => ?_, fun r hr => execLdl_glb_outcomes h rfl hp hr⟩
    rw [exec_ldl, execLdl_glb hp]
    exact word_unreached h he

/-- Settles O22: a store is a test of its pointer and a write begun, or a write of a register. -/
theorem stores : Obligations.Stores := by
  intro s d a cls sem sco off g h
  exact ⟨store_outcomes h, store_outcomes h, store_outcomes h, store_outcomes h⟩

end Sys2Proof.Machine
end

section
/-! PROOFS. A row is its lanes, and a masked write changes in a row the bytes of its mask alone (R160, R164). -/
namespace Sys2Proof.Machine

/-! ## Lanes packed into a number -/

theorem packNat_lt {w : Nat} {l : List Nat} (h : ∀ x ∈ l, x < 2 ^ w) : packNat w l < 2 ^ (w * l.length) := by
  induction l with
  | nil => simp [packNat]
  | cons x l ih =>
    obtain ⟨hx, hl⟩ := List.forall_mem_cons.mp h
    calc packNat w (x :: l) < 2 ^ w * (packNat w l + 1) := by rw [packNat, Nat.mul_add, Nat.mul_one]; omega
      _ ≤ 2 ^ w * 2 ^ (w * l.length) := Nat.mul_le_mul_left _ (ih hl)
      _ = 2 ^ (w * (x :: l).length) := by rw [← Nat.pow_add, List.length_cons, Nat.mul_succ, Nat.add_comm]

theorem packNat_lane {w : Nat} {l : List Nat} (h : ∀ x ∈ l, x < 2 ^ w) {i : Nat} (hi : i < l.length) :
    packNat w l / 2 ^ (w * i) % 2 ^ w = l[i] := by
  induction l generalizing i with
  | nil => exact absurd hi (Nat.not_lt_zero i)
  | cons x l ih =>
    obtain ⟨hx, hl⟩ := List.forall_mem_cons.mp h
    cases i with
    | zero => simp [packNat, Nat.mod_eq_of_lt hx]
    | succ i =>
      have hshift : packNat w (x :: l) / 2 ^ (w * (i + 1)) = packNat w l / 2 ^ (w * i) := by
        rw [Nat.mul_succ, Nat.add_comm, Nat.pow_add, ← Nat.div_div_eq_div_mul, packNat, Nat.add_mul_div_left _ _ (Nat.two_pow_pos w),
          Nat.div_eq_of_lt hx, Nat.zero_add]
      rw [hshift, ih hl (Nat.lt_of_succ_lt_succ hi), List.getElem_cons_succ]

theorem packNat_lanes (w n x : Nat) :
    packNat w ((List.range n).map fun i => x / 2 ^ (w * i) % 2 ^ w) = x % 2 ^ (w * n) := by
  induction n generalizing x with
  | zero => simp [packNat, Nat.mod_one]
  | succ n ih =>
    have htail : (List.range n).map (fun i => x / 2 ^ (w * (i + 1)) % 2 ^ w) =
        (List.range n).map fun i => x / 2 ^ w / 2 ^ (w * i) % 2 ^ w := by
      simp only [Nat.div_div_eq_div_mul, ← Nat.pow_add, Nat.mul_succ, Nat.add_comm w]
    rw [List.range_succ_eq_map, List.map_cons, List.map_map, packNat]
    simp only [Function.comp_def, Nat.succ_eq_add_one]
    rw [htail, ih, Nat.mul_succ, Nat.add_comm (w * n), Nat.pow_add, Nat.mod_mul]
    simp

theorem packNat_append_singleton (w x : Nat) (l : List Nat) : packNat w (l ++ [x]) = packNat w l + x * 2 ^ (w * l.length) := by
  induction l with
  | nil => simp [packNat]
  | cons y l ih =>
    rw [List.cons_append, packNat, ih, packNat, List.length_cons, Nat.mul_succ, Nat.pow_add]
    ring

/-! ## A row and its lanes (R160) -/

theorem map_mod_of_lt {n : Nat} {l : List Nat} (h : ∀ x ∈ l, x < n) : l.map (· % n) = l :=
  (List.map_congr_left fun x hx => Nat.mod_eq_of_lt (h x hx)).trans l.map_id

theorem rowOfLanes_toNat {w : Nat} {l : List Nat} (hlen : w * l.length ≤ 2048) (h : ∀ x ∈ l, x < 2 ^ w) :
    (rowOfLanes w l).toNat = packNat w l := by
  have hfit : packNat w l < 2 ^ 2048 := (packNat_lt h).trans_le (pow_le_pow_right₀ one_le_two hlen)
  rw [rowOfLanes, map_mod_of_lt h, BitVec.toNat_ofNat, Nat.mod_eq_of_lt hfit]

theorem laneOf_rowOfLanes {w : Nat} {l : List Nat} (hlen : w * l.length ≤ 2048) (h : ∀ x ∈ l, x < 2 ^ w) {i : Nat} (hi : i < l.length) :
    laneOf w (rowOfLanes w l) i = l[i] := by
  rw [laneOf, rowOfLanes_toNat hlen h, packNat_lane h hi]

theorem lanesOf_rowOfLanes {w : Nat} {l : List Nat} (hlen : l.length = 2048 / w) (h : ∀ x ∈ l, x < 2 ^ w) :
    lanesOf w (rowOfLanes w l) = l := by
  have hfit : w * l.length ≤ 2048 := hlen ▸ Nat.mul_div_le 2048 w
  refine List.ext_getElem (by simp [lanesOf, hlen]) fun i _ hi => ?_
  simp only [lanesOf, List.getElem_map, List.getElem_range, laneOf_rowOfLanes hfit h hi]

theorem laneOf_lt (w : Nat) (r : Row) (i : Nat) : laneOf w r i < 2 ^ w := Nat.mod_lt _ (Nat.two_pow_pos w)

/-- The lanes of a row give the row back where their width divides it. -/
theorem rowOfLanes_lanesOf {w : Nat} (hw : w ∣ 2048) (r : Row) : rowOfLanes w (lanesOf w r) = r := by
  have hlanes : ∀ x ∈ lanesOf w r, x < 2 ^ w := by
    intro x hx
    obtain ⟨i, -, rfl⟩ := List.mem_map.mp hx
    exact laneOf_lt w r i
  apply BitVec.eq_of_toNat_eq
  rw [rowOfLanes_toNat (by simp [lanesOf, Nat.mul_div_cancel' hw]) hlanes]
  exact (packNat_lanes w (2048 / w) r.toNat).trans (by rw [Nat.mul_div_cancel' hw, Nat.mod_eq_of_lt r.isLt])

/-! ## The bytes of a mask (R164) -/

theorem testBit_laneOf (w : Nat) (r : Row) (i b : Nat) : (laneOf w r i).testBit b = (decide (b < w) && r.getLsbD (w * i + b)) := by
  rw [laneOf, Nat.testBit_mod_two_pow, Nat.testBit_div_two_pow, Nat.add_comm b, BitVec.getLsbD]

/-- A mask is one byte for each of its bits, all ones or zero. -/
def byteOf (k : Mask) (j : Nat) : Nat := if k.getLsbD j then 255 else 0

theorem foldl_maskBytes (k : Mask) (n : Nat) :
    (List.range n).foldl (fun acc j => if k.getLsbD j then acc + 255 * 2 ^ (8 * j) else acc) 0 =
      packNat 8 ((List.range n).map (byteOf k)) := by
  induction n with
  | zero => rfl
  | succ n ih =>
    rw [List.range_succ, List.foldl_append, ih, List.map_append, List.map_singleton, packNat_append_singleton, List.length_map,
      List.length_range]
    by_cases h : k.getLsbD n <;> simp [byteOf, h]

theorem byteOf_lt (k : Mask) (j : Nat) : byteOf k j < 2 ^ 8 := by
  unfold byteOf
  split <;> decide

theorem bytesOf_lt (k : Mask) : ∀ x ∈ (List.range 256).map (byteOf k), x < 2 ^ 8 := by
  intro x hx
  obtain ⟨j, -, rfl⟩ := List.mem_map.mp hx
  exact byteOf_lt k j

theorem maskBits_eq_rowOfLanes (k : Mask) : maskBits k = rowOfLanes 8 ((List.range 256).map (byteOf k)) := by
  rw [rowOfLanes, map_mod_of_lt (bytesOf_lt k), ← foldl_maskBytes]
  rfl

theorem getLsbD_maskBits (k : Mask) {j b : Nat} (hj : j < 256) (hb : b < 8) : (maskBits k).getLsbD (8 * j + b) = k.getLsbD j := by
  have hlane : laneOf 8 (maskBits k) j = byteOf k j := by
    rw [maskBits_eq_rowOfLanes, laneOf_rowOfLanes (i := j) (by simp) (bytesOf_lt k) (by simpa using hj)]
    simp
  have hbit := testBit_laneOf 8 (maskBits k) j b
  rw [hlane, decide_eq_true hb, Bool.true_and] at hbit
  rw [← hbit, byteOf]
  split
  · next h => rw [h]; interval_cases b <;> rfl
  · next h => simp [h]

theorem laneOf_blend (k : Mask) (old new : Row) {j : Nat} (hj : j < 256) :
    laneOf 8 (blend k old new) j = if k.getLsbD j then laneOf 8 new j else laneOf 8 old j := by
  apply Nat.eq_of_testBit_eq
  intro b
  by_cases hb : b < 8
  · have hin : 8 * j + b < 2048 := by omega
    simp only [testBit_laneOf, blend, BitVec.getLsbD_or, BitVec.getLsbD_and, BitVec.getLsbD_not, getLsbD_maskBits k hj hb, hb, hin,
      decide_true, Bool.true_and, apply_ite (Nat.testBit · b)]
    cases k.getLsbD j <;> simp
  · split <;> simp [testBit_laneOf, hb]

/-! ## The statement -/

/-- Settles O42: a row is the number its lanes pack to, and a write blends the row into its register byte by byte. -/
theorem rowsLanesAndBytes : Obligations.RowsLanesAndBytes := by
  refine ⟨fun w l _ hlen h => lanesOf_rowOfLanes hlen h, fun w r hw => rowOfLanes_lanesOf ?_ r,
    fun k old new j hj => laneOf_blend k old new hj, fun c n k r i hn => ⟨?_, rfl, rfl, rfl⟩⟩
  · obtain rfl | rfl | rfl | rfl := hw <;> decide
  · split
    · next h => exact h ▸ vget_vupd_self _ n _ 0 hn
    · next h => exact vget_vupd_ne _ n i _ 0 h

end Sys2Proof.Machine
end

section
/-! PROOFS. The V words that compute lane by lane (R168-R173, R251), and the words that compare, select, mask, rearrange and move
(R174-R176, R178, R180-R185, R250). -/
namespace Sys2Proof.Machine

section
variable {s : State} {d : BitVec 6} {a b : BitVec 7} {x w : Bool} {g : BitVec 4} {decls : List Decl} {lat : Nat}

/-! ## The type check of a V word (R161) -/

theorem State.typed_ok {ok : Bool} (hok : ok = true) : (s.typed g ok).ok s.hdr s.regs.rrb = true := by
  simp [State.typed, Decl.ok, hok]

theorem Runs.typed {ok : Bool} (h : Runs s decls g) (hok : ok = true) : Runs s (s.typed g ok :: decls) g := by
  obtain ⟨⟨ha, hd, hg⟩, hf⟩ := h
  exact ⟨⟨ha, by rw [List.all_cons, State.typed_ok hok, hd]; rfl, hg⟩, hf⟩

/-- A word that takes effect on a type it does not take. -/
theorem State.word_illTyped {ok : Bool} {body : State → Except Stop State} (h : Passes s decls g) (hok : ok = false) :
    s.word (s.typed g ok :: decls) (s.guard g) body = .next (s.raise { cause := 0x01 }) := by
  obtain ⟨ha, -, hg⟩ := h
  exact State.word_refused_head ha (by simp [State.typed, Decl.ok, hok, hg])

/-! ## What a V word of each kind gives -/

theorem vr2_runs {lat : Shape → Nat} {f : Shape → Nat → Nat → Lane} (h : Runs s (vn (vd d w ++ [a.toNat, b.toNat])) g) :
    vr2 lat anyType f d a b x w g s = .next (((s.view a.toNat).view b.toNat).resLanes (lat s.shp) d x w
      (List.zipWith (f s.shp) (s.lanes a.toNat) (s.lanes b.toNat))).advance :=
  State.word_runs (Runs.typed h rfl) rfl

theorem bitwise_runs {f : Nat → Nat → Nat → Nat} (h : Runs s (vn (vd d w ++ [a.toNat, b.toNat])) g) :
    bitwise f d a b x w g s = .next (((s.view a.toNat).view b.toNat).resLanes 2 d x w
      (List.zipWith (fun p q => (f s.shp.bits p q % 2 ^ s.shp.bits, 0)) (s.lanes a.toNat) (s.lanes b.toNat))).advance :=
  vr2_runs h

theorem vr3_runs {lat : Shape → Nat} {f : Shape → Nat → Nat → Nat → Lane} (h : Runs s (vn [d.toNat, a.toNat, b.toNat]) g) :
    vr3 lat f d a b x w g s = .next ((((s.view d.toNat).view a.toNat).view b.toNat).resLanes (lat s.shp) d x w
      (List.zipWith (fun z p => f s.shp z p.1 p.2) (s.lanes d.toNat) (List.zip (s.lanes a.toNat) (s.lanes b.toNat)))).advance :=
  State.word_runs h rfl

theorem vr1_runs {ok : Nat → Bool} {f : Shape → Nat → Lane} (h : Runs s (vn (vd d w ++ [a.toNat])) g)
    (hok : ok s.shp.ty.toNat = true) : vr1 lat ok f d a x w g s =
      .next ((s.view a.toNat).resLanes lat d x w ((s.lanes a.toNat).map (f s.shp))).advance :=
  State.word_runs (h.typed hok) rfl

theorem vr1_illTyped {ok : Nat → Bool} {f : Shape → Nat → Lane} (h : Runs s (vn (vd d w ++ [a.toNat])) g)
    (hok : ok s.shp.ty.toNat = false) : vr1 lat ok f d a x w g s = .next (s.raise { cause := 0x01 }) :=
  State.word_illTyped h.1 hok

theorem vmove_runs {f : State → List Nat → List Nat} (h : Runs s (vn (vd d w ++ [a.toNat])) g) :
    vmove lat f d a x w g s = .next ((s.view a.toNat).resLanes lat d x w ((f s (s.lanes a.toNat)).map fun v => (v, 0))).advance :=
  State.word_runs h rfl

/-! ## A mask result (R165) -/

@[simp] theorem State.core_view (code : Nat) : (s.view code).core = s.core := by
  unfold State.view
  split <;> rfl

theorem State.resM_view_view (m n : Nat) (mk : BitVec 3) (k : Mask) : ((s.view m).view n).resM lat mk x k =
    ((s.view m).view n).emit lat { pend0 with writes := [if x then .mm mk.toNat (s.core.mask 0) k else .m mk.toNat k] } := by
  rw [State.resM, State.core_view, State.core_view]

/-! ## VUN (R171) -/

/-- The functions 0, 1, 8 and 9 of VUN take every type, in 2 ec. -/
theorem execVun_simple {fn : BitVec 7} (h : Runs s (vn (vd d w ++ [a.toNat])) g) (hfn : fn.toNat < 2 ∨ fn = 8 ∨ fn = 9) :
    execVun d a fn x w g s = .next ((s.view a.toNat).resLanes 2 d x w ((s.lanes a.toNat).map (unary fn.toNat s.shp))).advance := by
  have hsimple : (decide (fn.toNat < 2) || fn.toNat == 8 || fn.toNat == 9) = true := by
    simpa [← BitVec.toNat_inj, or_assoc] using hfn
  unfold execVun
  dsimp only
  rw [hsimple]
  exact vr1_runs h rfl

/-- The others take 12 ec and the types `tyFloat` allows. -/
theorem execVun_special {fn : BitVec 7} (hfn : ¬ (fn.toNat < 2 ∨ fn = 8 ∨ fn = 9)) :
    execVun d a fn x w g s = vr1 12 tyFloat (unary fn.toNat) d a x w g s := by
  have hsimple : (decide (fn.toNat < 2) || fn.toNat == 8 || fn.toNat == 9) = false := by
    simpa [← BitVec.toNat_inj, and_assoc] using hfn
  unfold execVun
  dsimp only
  rw [hsimple]
  rfl

/-! ## VHAR and VIHR (R251) -/

theorem execVhar_runs (h : Runs s (vn (vd d w ++ [a.toNat])) g) (hty : treeType s.shp.ty.toNat = true) :
    execVhar d a x w g s = .next ((s.view a.toNat).resLanes 4 d x w
      ((inPairs (s.lanes a.toNat)).map (fun p => (haarDown s.shp p.1 p.2).1) ++
        (inPairs (s.lanes a.toNat)).map (fun p => (haarDown s.shp p.1 p.2).2))).advance :=
  State.word_runs (h.typed hty) (by simp only [List.map_map]; rfl)

end

/-- Settles O39: each word is a lane-wise word of two, three or one source under the shape in force; the lane functions are those of the
statement. -/
theorem lanewiseVectorWords : Obligations.LanewiseVectorWords := by
  intro s d a b fn x w g
  simp only [exec_vadd, exec_vsub, exec_vmul, exec_vmin, exec_vmax, exec_vand, exec_vor, exec_vxor, exec_vshl, exec_vshr,
    exec_vsar, exec_vfma, exec_vfms, exec_vfsl, exec_vfsr, exec_vun, exec_vhar, exec_vihr]
  refine ⟨fun h => ?_, fun h => ?_, fun h => ⟨execVun_simple h, fun hfn hty => ?_, fun hfn hty => ?_, fun hty => ?_, fun hty => ?_⟩⟩
  · exact ⟨vr2_runs h, vr2_runs h, vr2_runs h, vr2_runs h, vr2_runs h, bitwise_runs h, bitwise_runs h, bitwise_runs h,
      bitwise_runs h, bitwise_runs h, bitwise_runs h⟩
  · exact ⟨vr3_runs h, vr3_runs h, vr3_runs h, vr3_runs h⟩
  · exact (execVun_special hfn).trans (vr1_runs h hty)
  · exact (execVun_special hfn).trans (vr1_illTyped h hty)
  · exact ⟨execVhar_runs h hty, State.word_runs (h.typed hty) rfl⟩
  · exact ⟨State.word_illTyped h.1 hty, State.word_illTyped h.1 hty⟩

/-- Settles O40: each word takes effect as its body says; the values are those of the statement. -/
theorem vectorMoveWords : Obligations.VectorMoveWords := by
  intro s d a b idx k cc mk op ma mb th x w g
  simp only [exec_vcmp, exec_vthr, exec_vmsk, exec_vsel, exec_vcomp, exec_vexpd, exec_vslu, exec_vsld, exec_vbrd, exec_vmsv, exec_viota,
    exec_vmvs]
  refine ⟨fun h => State.word_runs h (congrArg _ (State.resM_view_view ..)), fun h => State.word_runs h rfl,
    fun h => ⟨_, State.word_runs h rfl, ?masks⟩, fun h => State.word_runs h rfl,
    fun h => ⟨vmove_runs h, vmove_runs h, vmove_runs h, vmove_runs h⟩, fun h => ⟨State.word_runs h rfl, State.word_runs h rfl⟩, fun h => State.word_runs h rfl, fun h => State.word_runs h rfl⟩
  case masks => refine ⟨?_, ?_, ?_, ?_, ?_, ?_⟩ <;> (rintro rfl; rfl)

end Sys2Proof.Machine
end

section
/-! PROOFS. Conversion, reduction and its latch, the shape, thresholds and tag, and a rung row (R163, R177, R186-R189, R235). -/
namespace Sys2Proof.Machine

/-! ## The sum of a tree (R138, R187) -/

/-- The sum of the lanes that are there; with none there is none. -/
def sumOf (l : List (Option (BitVec 32))) : Option (BitVec 32) :=
  if l.filterMap (fun v => v) = [] then none else some ((l.filterMap fun v => v).foldl (· + ·) 0)

theorem sumOf_cons_some (a : BitVec 32) (l : List (Option (BitVec 32))) : sumOf (some a :: l) = some (a + (sumOf l).getD 0) := by
  have hcons : sumOf (some a :: l) = some (a + (l.filterMap fun v => v).foldl (· + ·) 0) := by
    rw [← List.foldl_assoc (op := fun x y : BitVec 32 => x + y), sumOf]
    simp
  rw [hcons, sumOf]
  split
  · next h => rw [h]; rfl
  · rfl

/-- The sum of a longer list depends on the sum of its rest alone. -/
theorem sumOf_cons_congr {l l' : List (Option (BitVec 32))} (h : sumOf l = sumOf l') (x : Option (BitVec 32)) :
    sumOf (x :: l) = sumOf (x :: l') := by
  cases x with
  | none => exact h
  | some a => rw [sumOf_cons_some, sumOf_cons_some, h]

section
variable {acc : AccTy} (ha : acc ≠ .f32)
include ha

theorem redOp_add (x y : BitVec 32) : (redOp 0 acc false x y).1 = x + y := by
  cases acc with
  | f32 => exact absurd rfl ha
  | i32 => simp [redOp, BitVec.ofInt_add]
  | n32 => simp [redOp, BitVec.ofNat_add]

theorem sumOf_redNode (x y : Option (BitVec 32)) (l : List (Option (BitVec 32))) :
    sumOf ((redNode 0 acc false x y).1 :: l) = sumOf (x :: y :: l) := by
  cases x with
  | none => rfl
  | some a =>
    cases y with
    | none => rfl
    | some b =>
      have hnode : (redNode 0 acc false (some a) (some b)).1 = some (a + b) := congrArg some (redOp_add ha a b)
      rw [hnode, sumOf_cons_some, sumOf_cons_some, sumOf_cons_some, Option.getD_some, BitVec.add_assoc]

/-- A level of the tree halves the lanes and leaves their sum. -/
theorem redLevel_sum {n : Nat} {l : List (Option (BitVec 32))} (hl : l.length = 2 * n) :
    (redLevel 0 acc false l).1.length = n ∧ sumOf (redLevel 0 acc false l).1 = sumOf l := by
  induction n generalizing l with
  | zero =>
    obtain rfl := List.length_eq_zero_iff.mp hl
    exact ⟨rfl, rfl⟩
  | succ n ih =>
    match l, hl with
    | x :: y :: l, hl =>
      obtain ⟨hlen, hsum⟩ := ih (l := l) (by simpa [Nat.mul_succ] using hl)
      exact ⟨congrArg (· + 1) hlen, (sumOf_cons_congr hsum _).trans (sumOf_redNode ha x y l)⟩

theorem redTree_sum {j : Nat} {l : List (Option (BitVec 32))} (hl : l.length = 2 ^ j) : (redTree 0 acc false j l).1 = sumOf l := by
  induction j generalizing l with
  | zero =>
    obtain ⟨x, rfl⟩ := List.length_eq_one_iff.mp hl
    cases x with
    | none => rfl
    | some a => exact ((sumOf_cons_some a []).trans (congrArg some (BitVec.add_zero a))).symm
  | succ j ih =>
    obtain ⟨hlen, hsum⟩ := redLevel_sum ha (n := 2 ^ j) (hl.trans (Nat.pow_succ'))
    exact (ih hlen).trans hsum

end

/-! ## Words that change the registers of V (R163) -/

section
variable {s : State} {k r : Nat} {st : Stream} {c : Core}

theorem State.OnCore.groupSwitch (h : s.OnCore k r st c) : s.groupSwitch.OnCore k r st (c.groupSwitch st) := by
  simpa only [State.groupSwitch, h.cur] using h.updCore fun c => c.groupSwitch st

theorem State.OnCore.vec_advance (h : s.OnCore k r st c) : s.advance.core.vec = c.vec := by
  rw [State.advance, (h.issued.updRegs _).core_eq]
  rfl

/-- A word of V that changes only what the core keeps for vectors. -/
theorem State.word_updVec {decls : List Decl} {g : BitVec 4} (hc : s.cur = .core k r st) (h : Runs s decls g)
    (f : State → VUnit → VUnit) : GoesTo (s.word decls (s.guard g) fun s => .ok (s.updCore fun c => { c with vec := f s c.vec }))
      (fun t => t.core.vec = f s s.core.vec) := by
  refine ⟨_, State.word_runs h rfl, ?_⟩
  exact ((State.OnCore.of_seq? hc h.1.1).updCore _).vec_advance

/-- A core with another shape in force. -/
def Core.setShape (c : Core) (h : Shape) : Core := { c with vec := { c.vec with shp := h } }

/-- What VSET.shape leaves of the state. -/
def State.reshaped (s : State) (h : Shape) : State :=
  (s.issued.updCore fun c => c.setShape h).groupSwitch.updRegs fun r => { r with pc := r.pc + 1 }

theorem execVsetShape_runs {ty gsl g : BitVec 4} {rm : BitVec 2} {sat : Bool} (h : Runs s [] g) :
    execVsetShape ty rm sat gsl g s = .next (s.reshaped { ty := ty, rm := rm, sat := sat, gsl := gsl }) :=
  State.jump_runs h.1 (by rw [State.falls_issued h.1.1, h.2]; rfl)

section
variable (hc : s.OnCore k r .v c) (h : Shape)
include hc

theorem State.OnCore.regs_reshaped :
    (s.reshaped h).regs = { s.regs with gcyc := 0, gser := s.regs.gser + 1, pc := s.regs.pc + 1 } := by
  have hswitch : (((c.countEc .v).setShape h).groupSwitch .v).seq.regs .v =
      { c.seq.regs .v with gcyc := 0, gser := (c.seq.regs .v).gser + 1 } := by
    rw [Core.groupSwitch_eq]
    refine (Seq.regs_updRegs_self ..).trans ?_
    exact congrArg (fun q : StreamRegs => { q with gcyc := 0, gser := q.gser + 1 }) (c.regs_countEc .v)
  rw [State.reshaped, (((hc.issued.updCore _).groupSwitch).updRegs _).regs_eq, Seq.regs_updRegs_self, hswitch, hc.regs_eq]

theorem State.OnCore.vec_reshaped : (s.reshaped h).core.vec = { s.core.vec with shp := h, latch := Vector.replicate 8 none } := by
  rw [State.reshaped, (((hc.issued.updCore _).groupSwitch).updRegs _).core_eq, Core.groupSwitch_eq, hc.core_eq]
  rfl

end

end

/-! ## Conversion (R177) -/

section
variable {s : State} {g : BitVec 4}

/-- The lanes of part p of r equal parts. -/
def partTaken (r p : Nat) (l : List Nat) : List Nat := (l.drop (p * (l.length / r))).take (l.length / r)

theorem length_partTaken {p r : Nat} (l : List Nat) (hp : p < r) : (partTaken r p l).length = l.length / r := by
  rw [partTaken, List.length_take, List.length_drop]
  have hfit : (p + 1) * (l.length / r) ≤ l.length := (Nat.mul_le_mul_right _ hp).trans (Nat.mul_div_le l.length r)
  rw [Nat.succ_mul] at hfit
  omega

/-- Source lanes converted, from a lane of the result on: the bytes that are written, and the row. -/
def State.Converts (s : State) (ty : BitVec 4) (x : Bool) (start : Nat) (l : List Nat) (wr : Mask) (row : Row) : Prop :=
  wr = s.wr (laneMask (tyBits ty.toNat / 8) start l.length) x ∧
    row = rowOfLanes (tyBits ty.toNat) (List.replicate start 0 ++
      l.map fun v => (convElem s.shp.ty.toNat ty.toNat s.shp.rm.toNat s.shp.sat v).1)

/-- VCVT takes the lanes of its part where it widens, all where it does not, and fills its part where it narrows. -/
theorem execVcvt_runs {d : BitVec 6} {a : BitVec 7} {ty : BitVec 4} {part : BitVec 3} {x w : Bool}
    (h : Runs s (vn (vd d w ++ [a.toNat])) g) (hp : part.toNat < widthRatio s.shp.bits (tyBits ty.toNat)) :
    ∃ wr row f, execVcvt d a ty part x w g s = .next ((s.view a.toNat).resV 4 d w wr row f).advance ∧
      (tyBits ty.toNat = s.shp.bits → s.Converts ty x 0 (s.lanes a.toNat) wr row) ∧
      (s.shp.bits < tyBits ty.toNat →
        s.Converts ty x 0 (partTaken (widthRatio s.shp.bits (tyBits ty.toNat)) part.toNat (s.lanes a.toNat)) wr row) ∧
      (tyBits ty.toNat < s.shp.bits → s.Converts ty x (part.toNat * (s.lanes a.toNat).length) (s.lanes a.toNat) wr row) := by
  refine ⟨_, _, _, State.word_runs (h.typed (decide_eq_true hp)) rfl, fun heq => ?same, fun hlt => ?widen, fun hgt => ?narrow⟩
  case same =>
    have hw : ¬ tyBits ty.toNat > s.shp.bits := heq.not_gt
    have hn : ¬ tyBits ty.toNat < s.shp.bits := heq.not_lt
    simp only [if_neg hw, if_neg hn, List.map_map]
    exact ⟨rfl, rfl⟩
  case widen =>
    have hn : ¬ tyBits ty.toNat < s.shp.bits := hlt.not_gt
    simp only [if_pos (show tyBits ty.toNat > s.shp.bits from hlt), if_neg hn, List.map_map]
    exact ⟨by rw [length_partTaken _ hp], rfl⟩
  case narrow =>
    have hw : ¬ tyBits ty.toNat > s.shp.bits := hgt.not_gt
    simp only [if_neg hw, if_pos hgt, List.map_map]
    exact ⟨rfl, rfl⟩

end

/-! ## Reduction (R186-R188) -/

section
variable {s : State} {y : BitVec 2} {op : BitVec 4} {a : BitVec 7} {x : Bool} {g : BitVec 4}

/-- The trees of a reduction, one for each group of the lanes that take part: roots and flags. -/
def State.trees (s : State) (op : BitVec 4) (x : Bool) (a : BitVec 7) : List (Option (BitVec 32) × Flags) :=
  let gs := 2 ^ s.shp.gsl.toNat
  let ls := (List.zip (s.lanes a.toNat) s.enabled).map fun v => if x && !v.2 then none else some (redEnter op.toNat s.shp v.1)
  (List.range (s.shp.lanes / gs)).map fun k =>
    redTree op.toNat (accOf op.toNat s.shp.ty.toNat) s.shp.sat s.shp.gsl.toNat ((ls.drop (k * gs)).take gs)

theorem execVred_illegal (h : Passes s (vn [a.toNat]) g) (hop : op ≠ 15) (hl : 64 < s.shp.lanes / 2 ^ s.shp.gsl.toNat) :
    execVred y op a x g s = .next (s.raise { cause := 0x01 }) := by
  unfold execVred
  rw [if_neg hop]
  exact State.word_illTyped h (decide_eq_false (Nat.not_le.mpr hl))

/-- A reduction: the roots of its groups, on their way to the latch with their flags. -/
theorem execVred_runs (h : Runs s (vn [a.toNat]) g) (hop : op ≠ 15) (hl : s.shp.lanes / 2 ^ s.shp.gsl.toNat ≤ 64) :
    execVred y op a x g s = .next ((s.view a.toNat).emit 6 { pend0 with
      writes := [.y y.toNat { op := op, acc := accOf op.toNat s.shp.ty.toNat, sat := s.shp.sat, roots := (s.trees op x a).map (·.1) }]
      flags := (s.trees op x a).foldl (fun f r => f ||| r.2) 0 }).advance := by
  unfold execVred
  rw [if_neg hop]
  refine State.word_runs (h.typed (decide_eq_true hl)) ?_
  dsimp only
  rw [if_neg hop]
  rfl

/-- Operation 15 sends an empty list of roots, and names no source. -/
theorem execVred_clear (h : Runs s [] g) : execVred y 15 a x g s = .next (s.emit 6 { pend0 with
    writes := [.y y.toNat { op := 15, acc := accOf 15 s.shp.ty.toNat, sat := s.shp.sat, roots := [] }] }).advance :=
  State.word_runs h rfl

end

/-! ## A rung row (R235) -/

/-- The row VLRG reads of a core's matrix side. -/
def MUnit.rungRow (m : MUnit) (k : BitVec 3) (sl : Bool) (i : BitVec 6) : Row :=
  match m.ladder with
  | none => 0
  | some l =>
    if decide (k.toNat < l.depth.toNat) && (bit l.two k.toNat || (!sl && bit l.one k.toNat)) then
      vget (vget m.rung (2 * k.toNat + (if sl then 1 else 0)) (Vector.replicate 64 0)) i.toNat 0
    else 0

theorem MUnit.rungRow_none {m : MUnit} (hl : m.ladder = none) (k : BitVec 3) (sl : Bool) (i : BitVec 6) : m.rungRow k sl i = 0 := by
  rw [MUnit.rungRow, hl]

theorem Ladder.digit_eq_two {l : Ladder} {k : Nat} : l.digit k = 2 ↔ l.two.getLsbD k = true := by
  unfold Ladder.digit
  split
  · next h => simp [h]
  · next h => split <;> simp [h]

/-- A digit 2 fills both slots of its rung (R218). -/
theorem MUnit.rungRow_two {m : MUnit} {l : Ladder} {k : BitVec 3} (hl : m.ladder = some l) (hk : k.toNat < l.depth.toNat)
    (hd : l.digit k.toNat = 2) (sl : Bool) (i : BitVec 6) :
    m.rungRow k sl i = vget (vget m.rung (2 * k.toNat + (if sl then 1 else 0)) (Vector.replicate 64 0)) i.toNat 0 := by
  rw [MUnit.rungRow, hl]
  simp [hk, bit, Ladder.digit_eq_two.mp hd]

theorem execVlrg_runs {s : State} {d : BitVec 6} {k : BitVec 3} {sl w : Bool} {i : BitVec 6} {g : BitVec 4} (h : Runs s (vn (vd d w)) g) :
    execVlrg d k sl i w g s = .next ((s.updIss (fun u => { u with views := u.views ++ [(s.rank, 8, s.regs.pc)] })).resV 8 d w
      (BitVec.allOnes 256) (s.mat.rungRow k sl i) 0).advance :=
  State.word_runs h rfl

/-- Settles O41: a conversion by the part it takes and where it puts it, a reduction by its groups' trees, the other words by what they
write. -/
theorem conversionReductionAndShape : Obligations.ConversionReductionAndShape := by
  intro s d p a ty op gsl part k y rm th i tag x w sat sl g
  simp only [exec_vcvt, exec_vred, exec_vmvy, exec_vlrg, exec_vsetShape, exec_vsetTag, exec_vsetTh]
  refine ⟨fun h => ⟨fun hp => execVcvt_runs h hp, fun hp => ?illegalPart⟩,
    fun h => ⟨fun hop hl => ?manyGroups, fun hop hl => ?reduce, fun hop => ?clear⟩,
    fun h => ⟨State.word_runs h rfl, _, execVlrg_runs h, fun hl => MUnit.rungRow_none hl k sl i, fun l hl hk hd _ _ hsl => ?rung⟩,
    fun acc j l ha hl => redTree_sum ha hl,
    fun e r hc h => ⟨?shape, State.word_updVec hc h fun _ v => { v with tagv := tag }⟩,
    fun e r hc h => State.word_updVec hc h fun s v => { v with th := vset v.th th.toNat ((s.rd p.toNat).truncate 32) }⟩
  case illegalPart => exact State.word_illTyped h.1 (decide_eq_false (Nat.not_lt.mpr hp))
  case manyGroups =>
    rw [if_neg hop] at h
    exact execVred_illegal h.1 hop hl
  case reduce =>
    rw [if_neg hop] at h
    exact ⟨_, _, execVred_runs h hop hl, List.map_map ..⟩
  case clear =>
    subst hop
    exact execVred_clear h
  case rung =>
    subst hsl
    exact MUnit.rungRow_two hl hk hd true i
  case shape =>
    have hcore := State.OnCore.of_seq? hc h.1.1
    refine ⟨_, execVsetShape_runs h, ?_⟩
    dsimp only
    rw [hcore.regs_reshaped, hcore.vec_reshaped]
    exact ⟨rfl, rfl, rfl, rfl, rfl, fun j _ => vget_replicate_default 8 j none⟩

end Sys2Proof.Machine
end

section
/-! PROOFS. The V words that reach scratchpad: VLD and VST with or without a lens, and VLDL, VLDD and VSTL through a tree lens
(R190-R194, R248, R249). -/
namespace Sys2Proof.Machine

section
variable {s : State} {d a : BitVec 6} {cls j : BitVec 3} {r : BitVec 2} {t u flat : Bool} {off : BitVec 5} {g : BitVec 4}

/-! ## What a view leaves (R26) -/

@[simp] theorem State.rank_view (code : Nat) : (s.view code).rank = s.rank := by
  unfold State.view
  split <;> rfl

@[simp] theorem State.shp_view (code : Nat) : (s.view code).shp = s.shp := by
  rw [State.shp, State.core_view, State.shp]

/-! ## The store path (R48, R249) -/

theorem State.storePath_free (h : s.core.vec.vstlEnd ≤ s.ec) : s.storePath = .ok () := need_eq_ok.mpr (decide_eq_true h)

theorem State.storePath_busy (h : s.ec < s.core.vec.vstlEnd) : s.storePath = .error (.fault { cause := 0x07 }) := by
  rw [State.storePath, decide_eq_false (Nat.not_le.mpr h), need_error]

section
variable {α : Type} {decls : List Decl} {x : Except Stop α} {f : α → State} {c : α}

/-- A store whose pointer passes its checks and that finds the store path free. -/
theorem word_stored (h : Runs s decls g) (hx : x = .ok c) (hp : s.core.vec.vstlEnd ≤ s.ec) :
    s.word decls (s.guard g) (fun _ => do let c ← x; s.storePath; pure (f c)) = .next (f c).advance :=
  State.word_runs h (by rw [hx, State.storePath_free hp]; rfl)

/-- One that finds it occupied. -/
theorem word_storeBusy (h : Runs s decls g) (hx : x = .ok c) (hp : s.ec < s.core.vec.vstlEnd) :
    s.word decls (s.guard g) (fun _ => do let c ← x; s.storePath; pure (f c)) = .next (s.raise { cause := 0x07 }) :=
  State.word_stops (e := .fault { cause := 0x07 }) h.1 (by rw [hx, State.storePath_busy hp]; rfl)

end

/-! ## VLD and VST (R190-R193) -/

/-- The offset and the pointer of a VLD or VST, the use of the lens it passes through, and its checks. -/
abbrev State.rowOff (s : State) (a : BitVec 6) (off : BitVec 5) : Int := ptrOff (s.rd a.toNat) + 256 * off.toNat
abbrev State.rowPtr (s : State) (a : BitVec 6) (off : BitVec 5) : Word := ptrAt (s.rd a.toNat) (s.rowOff a off)
abbrev State.rowUse (s : State) (a : BitVec 6) (off : BitVec 5) : LensUse := lensUse (s.lensOf (s.rd a.toNat) (s.rowOff a off))
abbrev State.rowChecks (s : State) (a : BitVec 6) (off : BitVec 5) (u : Bool) : Except Stop Unit :=
  s.rowCheck (s.rowPtr a off) (s.rowOff a off) u (s.rowUse a off) (s.rowSpan (s.rowOff a off).toNat (s.rowUse a off))

/-- The row of bytes that a VLD names. -/
abbrev State.rowNamed (s : State) (a : BitVec 6) (off : BitVec 5) : RowSpec :=
  { rank := ptrRank (s.rowPtr a off), off := (s.rowOff a off).toNat, kind := .bytes, shp := s.shp }

/-- What a VLD that passes its checks begins. -/
def State.rowLoaded (s : State) (d a : BitVec 6) (cls : BitVec 3) (t : Bool) (off : BitVec 5) : LensUse → State
  | .block l => s.ownRow 8 d cls t { s.rowNamed a off with kind := .block, lens := l }
  | .tree l => s.ownRow 6 d cls t { s.rowNamed a off with kind := .averages 0 0, lens := l }
  | .plain | .bad => if s.ownPtr (s.rowPtr a off) then s.ownRow 6 d cls t (s.rowNamed a off)
    else s.farRow d cls t (s.rowPtr a off) (s.rowNamed a off)

/-- What a VST that passes its checks begins: writes of the row's bytes, of its lanes encoded as blocks, or spine commits. -/
def State.rowStored (s : State) (d a : BitVec 6) (cls : BitVec 3) (u : Bool) (off : BitVec 5) : LensUse → State
  | .block l =>
    let blocks := encodeRow l (s.rowOff a off).toNat s.shp (lanesOf s.shp.bits (s.rdV d.toNat))
    ((s.view d.toNat).rowStore (s.rowPtr a off) cls s.rank (s.rowOff a off).toNat blocks.1).emit 1 { pend0 with flags := blocks.2 }
  | .tree l =>
    let lanes := lanesOf (8 * tyBytes (lensType l)) (s.rdV d.toNat)
    (s.view d.toNat).rowSpine (s.rowPtr a off) cls l 0 false
      (shareOut l (s.rowOff a off).toNat 0 0 (lanes.map fun _ => true) lanes)
  | .plain | .bad => (s.view d.toNat).rowStore (s.rowPtr a off) cls (ptrRank (s.rowPtr a off)) (s.rowOff a off).toNat
    ((offs (rowBytes (s.rdV d.toNat))).filter fun x => !u || (s.core.mask 0).getLsbD x.1)

theorem execVld_eq : execVld d a cls t u off g s = s.word (vn [d.toNat] ++ sn [a.toNat]) (s.guard g) (fun _ => do
    s.rowChecks a off u
    pure (s.rowLoaded d a cls t off (s.rowUse a off))) := by
  refine State.word_congr (congrArg (s.rowChecks a off u >>= ·) (funext fun _ => ?_))
  change (match s.rowUse a off with | .block l => _ | .tree l => _ | _ => _) = _
  cases s.rowUse a off <;> rfl

theorem execVst_eq : execVst d a cls u off g s = s.word (vn [d.toNat] ++ sn [a.toNat]) (s.guard g) (fun _ => do
    s.rowChecks a off u
    s.storePath
    pure (s.rowStored d a cls u off (s.rowUse a off))) := by
  refine State.word_congr (congrArg (s.rowChecks a off u >>= ·) (funext fun _ => congrArg (s.storePath >>= ·) (funext fun _ => ?_)))
  dsimp only
  rw [State.rank_view, State.shp_view, State.core_view]
  change (match s.rowUse a off with | .block l => _ | .tree l => _ | _ => _) = _
  cases s.rowUse a off <;> rfl

section
variable {use : LensUse} (h : Runs s (vn [d.toNat] ++ sn [a.toNat]) g)
include h

theorem execVld_runs (hc : s.rowChecks a off u = .ok ()) (hu : s.rowUse a off = use) :
    execVld d a cls t u off g s = .next (s.rowLoaded d a cls t off use).advance := by
  rw [execVld_eq, ← hu]
  exact word_reached h hc

theorem execVst_runs (hc : s.rowChecks a off u = .ok ()) (hp : s.core.vec.vstlEnd ≤ s.ec) (hu : s.rowUse a off = use) :
    execVst d a cls u off g s = .next (s.rowStored d a cls u off use).advance := by
  rw [execVst_eq, ← hu]
  exact word_stored h hc hp

end

/-! ## VLDL, VLDD and VSTL (R248, R249) -/

/-- The checks of a row of level j of a tree: of the blocks that the row names, and of those that VSTL gives a value. -/
abbrev State.namedChecks (s : State) (a : BitVec 6) (j : BitVec 3) (r : BitVec 2) : Except Stop Word :=
  s.levelCheck (s.rd a.toNat) j.toNat fun l => treeBlocks l (ptrOff (s.rd a.toNat)) j.toNat r.toNat
abbrev State.givenChecks (s : State) (d a : BitVec 6) (j : BitVec 3) (r : BitVec 2) : Except Stop Word :=
  s.levelCheck (s.rd a.toNat) j.toNat fun l =>
    ((s.levelShare d (s.rd a.toNat) j.toNat r.toNat l).filter (fun b => !b.2.isEmpty)).map (·.1)

/-- The row of a kind that the own rank holds through a tree lens. -/
abbrev State.treeRow (s : State) (a : BitVec 6) (k : RowKind) (l : Word) : RowSpec :=
  { rank := s.rank, off := ptrOff (s.rd a.toNat), kind := k, lens := l, shp := s.shp }

/-- What a VSTL that passes its checks begins: 12 ec of the store path, and the spine commits. -/
abbrev State.levelStored (s : State) (d a : BitVec 6) (cls : BitVec 3) (flat : Bool) (j : BitVec 3) (r : BitVec 2) (l : Word) : State :=
  ((s.view d.toNat).updCore (fun c => { c with vec := { c.vec with vstlEnd := s.ec + 12 } })).rowSpine (s.rd a.toNat) cls l j.toNat flat
    (s.levelShare d (s.rd a.toNat) j.toNat r.toNat l)

theorem execVldl_eq : execVldl d a cls t j r g s = s.word (vn [d.toNat] ++ sn [a.toNat]) (s.guard g) (fun _ => do
    let l ← s.namedChecks a j r
    pure (s.ownRow (6 + 2 * (lensDepth l - j.toNat)) d cls t (s.treeRow a (.averages j.toNat r.toNat) l))) :=
  State.word_congr rfl

theorem execVldd_eq : execVldd d a cls t j r g s = s.word (vn [d.toNat] ++ sn [a.toNat]) (s.guard g) (fun _ => do
    let l ← s.namedChecks a j r
    pure (s.ownRow 6 d cls t (s.treeRow a (.details j.toNat r.toNat) l))) :=
  State.word_congr rfl

theorem execVstl_eq : execVstl d a cls flat j r g s = s.word (vn [d.toNat] ++ sn [a.toNat]) (s.guard g) (fun _ => do
    let l ← s.givenChecks d a j r
    s.storePath
    pure (s.levelStored d a cls flat j r l)) :=
  State.word_congr rfl

end

/-- Settles O44: each word is its checks and then one shared operation, which for VLD and VST is that of the lens's use. -/
theorem vectorMemoryWords : Obligations.VectorMemoryWords := by
  intro s d a cls j r t u flat off g h
  simp only [exec_vld, exec_vst, exec_vldl, exec_vldd, exec_vstl]
  refine ⟨fun hc => ⟨fun l hu => ?loadBlocks, fun l hu => ?loadTree, fun hu => ?loadBytes,
      fun hp => ⟨fun hu => ?storeBytes, fun l hu => ?storeBlocks, fun l hu => ?storeTree⟩, fun hp => ?storeBusy⟩,
    fun e hc => ⟨?noLoad, ?noStore⟩, fun l hl => ⟨?averages, ?details⟩,
    fun l hl => ⟨fun hp => ?commitsBusy, fun hp => ?commits⟩, fun e hl => ⟨?noAverages, ?noDetails⟩, fun e hl => ?noCommits⟩
  case loadBlocks | loadTree | loadBytes => rw [execVld_runs h hc hu, State.rowLoaded]
  case storeBytes | storeBlocks | storeTree => rw [execVst_runs h hc hp hu, State.rowStored]
  case storeBusy => rw [execVst_eq, word_storeBusy h hc hp]
  case noLoad => rw [execVld_eq, word_unreached h hc]
  case noStore => rw [execVst_eq, word_unreached h hc]
  case averages => rw [execVldl_eq, word_reached h hl]
  case details => rw [execVldd_eq, word_reached h hl]
  case commitsBusy => rw [execVstl_eq, word_storeBusy h hl hp]
  case commits => rw [execVstl_eq, word_stored h hl hp, State.levelStored, State.levelShare]
  case noAverages => rw [execVldl_eq, word_unreached h hl]
  case noDetails => rw [execVldd_eq, word_unreached h hl]
  case noCommits => rw [execVstl_eq, word_unreached h hl]

end Sys2Proof.Machine
end

section
/-! PROOFS. The array words: the checks of R198 in their order, and what MMA, MMAT and MCNV come to (R195-R198, R209; log entries 19
and 69). -/
namespace Sys2Proof.Machine

/-! ## Tests made in turn -/

/-- Two tests that raise the same fault are one. -/
theorem need_need {α : Type} {a b : Bool} {c : BitVec 8} {p : Word} {x : Except Stop α} :
    (do need a c p; need b c p; x) = (do need (a && b) c p; x) := by
  cases a with
  | false => rfl
  | true => rfl

/-- A test that passes before the rest of a word. -/
theorem need_bind_ok {α : Type} {a : Bool} {c : BitVec 8} {p : Word} {x : Except Stop α} (h : a = true) : (do need a c p; x) = x := by
  subst h
  rfl

theorem need_bind_error {α : Type} {a : Bool} {c : BitVec 8} {p : Word} {x : Except Stop α} (h : a = false) :
    (do need a c p; x) = .error (.fault { cause := c, addr := p }) := by
  subst h
  rfl

/-- A word that meets a fault. -/
theorem State.word_faults {s : State} {decls : List Decl} {g : BitVec 4} {body : State → Except Stop State} {c : BitVec 8} {p : Word}
    (h : Passes s decls g) (hb : body s = .error (.fault { cause := c, addr := p })) :
    s.word decls (s.guard g) body = .next (s.raise { cause := c, addr := p }) := State.word_stops h hb

/-! ## The checks of R198 -/

section
variable {s : State} {t : BitVec 3} {trans : Bool} {slots : List Nat}

/-- An admitted pair of types; MMAT transposes no block type (R196, R197). -/
def MUnit.pairOk (m : MUnit) (trans : Bool) : Bool := okPair m.ta m.tb && !(trans && tyBlock m.tb.toNat)

/-- The array, the tile and the fills of the slots have ended. -/
def State.unitsFree (s : State) (t : BitVec 3) (slots : List Nat) : Bool :=
  decide (s.quad.arrayEnd ≤ s.ec) && (decide (vget s.mat.tileEnd t.toNat 0 ≤ s.ec) && !s.core.viewWrite s.ec t.toNat) &&
    slots.all fun n => decide ((vget s.quad.slot n {}).fillEnd ≤ s.ec)

/-- A slot of the quad as the ec began (log entry 19). -/
def State.slotThen (s : State) (n : Nat) : Slot := vget s.quadThen.slot n {}

/-- The slots carry the tag TAGM, which is not that of a poisoned fill (R198). -/
def State.tagsMatch (s : State) (slots : List Nat) : Bool :=
  s.mat.tagm != 0xFFFF && slots.all fun n => (s.slotThen n).tag.tag == s.mat.tagm

theorem State.arrayCheck_eq : s.arrayCheck t trans slots = (do
    need (s.mat.pairOk trans) 0x01
    need (s.unitsFree t slots) 0x07
    need (s.mat.leasec != 0) 0x08
    need (slots.all fun n => (s.slotThen n).claimed) 0x0E
    await (!slots.any fun n => (s.slotThen n).tag.pending) (.slots (s.rank / 4) slots)
    need (s.tagsMatch slots) 0x07) := by
  rw [State.unitsFree, ← need_need, ← need_need]
  simp only [State.arrayCheck, State.tileFree, List.all_map, List.any_map]
  rfl

theorem MUnit.pairOk_iff {m : MUnit} :
    m.pairOk trans = true ↔ okPair m.ta m.tb = true ∧ (trans && tyBlock m.tb.toNat) = false := by
  rw [MUnit.pairOk, Bool.and_eq_true_iff, Bool.not_eq_true']

theorem State.unitsFree_iff : s.unitsFree t slots = true ↔
    s.quad.arrayEnd ≤ s.ec ∧ s.tileFree t = .ok () ∧ ∀ n ∈ slots, (vget s.quad.slot n {}).fillEnd ≤ s.ec := by
  rw [State.unitsFree, State.tileFree, need_eq_ok, Bool.and_eq_true_iff, Bool.and_eq_true_iff, decide_eq_true_iff, List.all_eq_true, and_assoc]
  simp only [decide_eq_true_iff]

theorem State.tagsMatch_iff : s.tagsMatch slots = true ↔
    s.mat.tagm ≠ 0xFFFF ∧ ∀ n ∈ slots, (s.slotThen n).tag.tag = s.mat.tagm := by
  rw [State.tagsMatch, Bool.and_eq_true_iff, bne_iff_ne, List.all_eq_true]
  simp only [beq_iff_eq]

theorem State.arrayCheck_types (hp : ¬ s.mat.pairOk trans = true) : s.arrayCheck t trans slots = .error (.fault { cause := 0x01 }) := by
  rw [State.arrayCheck_eq, need_bind_error (Bool.not_eq_true _ ▸ hp)]

section
variable (hp : s.mat.pairOk trans = true)
include hp

theorem State.arrayCheck_busy (hu : ¬ s.unitsFree t slots = true) :
    s.arrayCheck t trans slots = .error (.fault { cause := 0x07 }) := by
  rw [State.arrayCheck_eq, need_bind_ok hp, need_bind_error (Bool.not_eq_true _ ▸ hu)]

variable (hu : s.unitsFree t slots = true)
include hu

theorem State.arrayCheck_unleased (hl : s.mat.leasec = 0) : s.arrayCheck t trans slots = .error (.fault { cause := 0x08 }) := by
  rw [State.arrayCheck_eq, need_bind_ok hp, need_bind_ok hu, need_bind_error (bne_eq_false_iff_eq.mpr hl)]

variable (hl : s.mat.leasec ≠ 0)
include hl

theorem State.arrayCheck_unclaimed (hc : ¬ ∀ n ∈ slots, (s.slotThen n).claimed = true) :
    s.arrayCheck t trans slots = .error (.fault { cause := 0x0E }) := by
  have hall := mt List.all_eq_true.mp hc
  rw [Bool.not_eq_true] at hall
  rw [State.arrayCheck_eq, need_bind_ok hp, need_bind_ok hu, need_bind_ok (bne_iff_ne.mpr hl), need_bind_error hall]

variable (hc : ∀ n ∈ slots, (s.slotThen n).claimed = true)
include hc

theorem State.arrayCheck_claimed : s.arrayCheck t trans slots = (do
    await (!slots.any fun n => (s.slotThen n).tag.pending) (.slots (s.rank / 4) slots)
    need (s.tagsMatch slots) 0x07) := by
  rw [State.arrayCheck_eq, need_bind_ok hp, need_bind_ok hu, need_bind_ok (bne_iff_ne.mpr hl), need_bind_ok (List.all_eq_true.mpr hc)]

theorem State.arrayCheck_pending (hw : ∃ n ∈ slots, (s.slotThen n).tag.pending = true) :
    s.arrayCheck t trans slots = .error (.hold (.slots (s.rank / 4) slots)) := by
  rw [State.arrayCheck_claimed hp hu hl hc, List.any_eq_true.mpr hw]
  rfl

variable (hw : ¬ ∃ n ∈ slots, (s.slotThen n).tag.pending = true)
include hw

theorem State.arrayCheck_filled : s.arrayCheck t trans slots = need (s.tagsMatch slots) 0x07 := by
  have hany := mt List.any_eq_true.mp hw
  rw [Bool.not_eq_true] at hany
  rw [State.arrayCheck_claimed hp hu hl hc, hany]
  rfl

theorem State.arrayCheck_ok (ht : s.tagsMatch slots = true) : s.arrayCheck t trans slots = .ok () := by
  rw [State.arrayCheck_filled hp hu hl hc hw, need_eq_ok, ht]

theorem State.arrayCheck_mistagged (ht : ¬ s.tagsMatch slots = true) :
    s.arrayCheck t trans slots = .error (.fault { cause := 0x07 }) := by
  rw [Bool.not_eq_true] at ht
  rw [State.arrayCheck_filled hp hu hl hc hw, ht, need_error]

end

end

/-! ## MMA and MMAT (R197) -/

section
variable {s : State} {t : BitVec 3} {trans : Bool} {a b : BitVec 8} {z : Bool} {g : BitVec 4}

/-- The pass of an MMA or MMAT: the rows of the tile and the flags. -/
def State.product (s : State) (trans : Bool) (t : BitVec 3) (a b : BitVec 8) (z : Bool) : List (List (BitVec 32)) × Flags :=
  passTile (s.accRows t z) ((List.range 64).map fun i => kBlocks (operandRow s.mat.ta.toNat (s.slotThen a.toNat).data i))
    (columns s.mat.tb.toNat (s.slotThen b.toNat).data trans)

theorem multiply_eq : multiply trans t a b z g s = s.word [.name (.slot a.toNat), .name (.slot b.toNat)] (s.guard g) (fun _ => do
    s.arrayCheck t trans [a.toNat, b.toNat]
    pure (s.arrayRun t [a.toNat, b.toNat] (passOcc s.mat.ta s.mat.tb) (mkTile (s.product trans t a b z).1) (s.product trans t a b z).2)) :=
  State.word_congr rfl

theorem exec_mma_or_mmat : exec (if trans then .mmat t a b z g else .mma t a b z g) s = multiply trans t a b z g s := by
  cases trans with
  | false => rfl
  | true => rfl

end

/-! ## MCNV (R209) -/

section
variable {s : State} {t : BitVec 3} {a b : BitVec 8} {z : Bool} {g : BitVec 4}

/-- The passes of an MCNV by the window in force, and the slots that they read: those of the rows of A, then those of B. -/
abbrev State.passes (s : State) (b : BitVec 8) : List (Nat × Nat) := windowPasses s.mat.mwin b.toNat
def State.convSlots (s : State) (a b : BitVec 8) : List Nat :=
  ((List.range ((((s.passes b).map (·.1)).foldl max 0 + 63) / operandRps s.mat.ta.toNat + 1)).map (· + a.toNat) ++
    (s.passes b).map (·.2)).eraseDups

/-- A row of A of an MCNV, in whichever slot it lies. -/
def State.convRow (s : State) (a : BitVec 8) (n : Nat) : List (List Val) :=
  kBlocks (operandRow s.mat.ta.toNat (s.slotThen (a.toNat + n / operandRps s.mat.ta.toNat)).data (n % operandRps s.mat.ta.toNat))

/-- One pass of an MCNV: the rows of A from one on against a slot of B. -/
def State.convPass (s : State) (a : BitVec 8) (acc : List (List (BitVec 32))) (p : Nat × Nat) : List (List (BitVec 32)) × Flags :=
  passTile acc ((List.range 64).map fun i => s.convRow a (p.1 + i)) (columns s.mat.tb.toNat (s.slotThen p.2).data false)

/-- All passes of an MCNV, one after the other. -/
def State.convolution (s : State) (t : BitVec 3) (a b : BitVec 8) (z : Bool) : List (List (BitVec 32)) × Flags :=
  (s.passes b).foldl (fun acc p => ((s.convPass a acc.1 p).1, acc.2 ||| (s.convPass a acc.1 p).2)) (s.accRows t z, 0)

/-- The slots of an MCNV are declared. -/
def State.slotsDeclared (s : State) (slots : List Nat) : Bool := slots.all fun n => decide (n < 256) && decide (n < s.hdr.nosl)

theorem State.slotsDeclared_iff {slots : List Nat} : s.slotsDeclared slots = true ↔ ∀ n ∈ slots, n < 256 ∧ n < s.hdr.nosl := by
  simp only [State.slotsDeclared, List.all_eq_true, Bool.and_eq_true_iff, decide_eq_true_iff]

theorem execMcnv_eq : execMcnv t a b z g s = s.word [.name (.slot a.toNat), .name (.slot b.toNat)] (s.guard g) (fun _ => do
    need (!okPair s.mat.ta s.mat.tb || s.slotsDeclared (s.convSlots a b)) 0x02
    s.arrayCheck t false (s.convSlots a b)
    pure (s.arrayRun t (s.convSlots a b) ((s.passes b).length * passOcc s.mat.ta s.mat.tb) (mkTile (s.convolution t a b z).1)
      (s.convolution t a b z).2)) :=
  State.word_congr rfl

end

/-- Settles O46: R198's checks in their order, and past them the passes. -/
theorem arrayWords : Obligations.ArrayWords := by
  intro s ac a b z g h u q sl slot pair units claimed pending tagged product word
  have hfree : s.unitsFree ac sl = true ↔ units := State.unitsFree_iff
  have htags : s.tagsMatch sl = true ↔ tagged := State.tagsMatch_iff
  refine ⟨fun trans => ?multiply, ?convolve⟩
  case multiply =>
    have hpair : s.mat.pairOk trans = true ↔ pair trans := MUnit.pairOk_iff
    rw [← hpair, ← hfree, ← htags]
    have hstop {e : Stop} (he : s.arrayCheck ac trans sl = .error e) : exec (word trans) s = .next (s.stopped e) := by
      rw [exec_mma_or_mmat, multiply_eq, word_unreached h he]
    refine ⟨fun hp hu hl hc hw ht => ?pass, fun hp => hstop (State.arrayCheck_types hp), fun hp hu => hstop (State.arrayCheck_busy hp hu),
      fun hp hu hl => hstop (State.arrayCheck_unleased hp hu hl), fun hp hu hl hc => hstop (State.arrayCheck_unclaimed hp hu hl hc),
      fun hp hu hl hc hw => hstop (State.arrayCheck_pending hp hu hl hc hw),
      fun hp hu hl hc hw ht => hstop (State.arrayCheck_mistagged hp hu hl hc hw ht)⟩
    case pass =>
      rw [exec_mma_or_mmat, multiply_eq, word_reached h (State.arrayCheck_ok hp hu hl hc hw ht)]
      rfl
  case convolve =>
    intro ps rps sl rowA r
    simp only [exec_mcnv, execMcnv_eq]
    have hdecl : s.slotsDeclared (s.convSlots a b) = true ↔ ∀ n ∈ sl, n < 256 ∧ n < s.hdr.nosl := State.slotsDeclared_iff
    rw [← hdecl]
    refine ⟨fun hd hc => ?passes, fun hp hd => ?undeclared⟩
    case passes =>
      refine State.word_runs h ?_
      rw [need_bind_ok (by rw [hd, Bool.or_true]), show s.arrayCheck ac false (s.convSlots a b) = .ok () from hc]
      rfl
    case undeclared =>
      rw [Bool.not_eq_true] at hd
      exact State.word_faults h.1 (need_bind_error (by rw [hp, hd]; rfl))

end Sys2Proof.Machine
end

section
/-! PROOFS. The tile words: what M words leave of their core, and MZER, MLDA and MDRN with the tile events (R200-R202, R211-R214; log
entry 86). -/
namespace Sys2Proof.Machine

/-! ## What an M word leaves of its core -/

@[simp] theorem State.ec_updCore (s : State) (f : Core → Core) : (s.updCore f).ec = s.ec := by
  unfold State.updCore
  split
  next k r st hc =>
    simp only [State.ec, hc, Mach.ecOf, Mach.gang?_updCore_self, Option.map_map]
    rfl
  next => rfl

@[simp] theorem State.ec_updMat (s : State) (f : MUnit → MUnit) : (s.updMat f).ec = s.ec := s.ec_updCore _
@[simp] theorem State.ec_setTile (s : State) (t : BitVec 3) (x : Tile) : (s.setTile t x).ec = s.ec := s.ec_updMat _
@[simp] theorem State.ec_holdPort (s : State) (n : Nat) : (s.holdPort n).ec = s.ec := s.ec_updMat _

/-- A core with another M unit. -/
def Core.setMat (c : Core) (m : MUnit) : Core := { c with mat := m }

@[simp] theorem Core.mat_setMat (c : Core) (m : MUnit) : (c.setMat m).mat = m := rfl

section
variable {s : State} {k r : Nat} {st : Stream} {c : Core} (h : s.OnCore k r st c)
include h

theorem State.OnCore.mat_eq : s.mat = c.mat := by rw [State.mat, h.core_eq]

theorem State.OnCore.updMat (f : MUnit → MUnit) : (s.updMat f).OnCore k r st (c.setMat (f c.mat)) := h.updCore _

theorem State.OnCore.mat_advance : s.advance.mat = c.mat := by
  rw [State.advance, (h.issued.updRegs _).mat_eq]
  rfl

theorem State.OnCore.scr_advance : s.advance.core.scr = c.scr := by
  rw [State.advance, (h.issued.updRegs _).core_eq]
  rfl

end

/-! ## Tiles (R15, R200, R201) -/

/-- The M unit once a command occupies a tile, which is ready at some ec. -/
def MUnit.occupied (m : MUnit) (t : BitVec 3) (end_ ready : Nat) : MUnit :=
  { m with tileEnd := vset m.tileEnd t.toNat end_, ready := vset m.ready t.toNat ready }

/-- What MZER leaves of the M unit that it finds in an ec. -/
def MUnit.zeroed (m : MUnit) (t : BitVec 3) (ec : Nat) : MUnit :=
  { m with tile := vset m.tile t.toNat zeroTile, portEnd := ec + 16 }.occupied t (ec + 16) (ec + 28)

theorem tileElem_zeroTile (i j : Nat) : tileElem zeroTile i j = 0 := by
  rw [tileElem, zeroTile, vget_replicate_default]
  exact BitVec.extractLsb'_zero

theorem vget_tile_self {α : Type} (v : Vector α 8) (t : BitVec 3) (a d : α) : vget (vset v t.toNat a) t.toNat d = a :=
  vget_vset_self _ _ _ _ t.isLt

theorem vget_tile_ne {α : Type} (v : Vector α 8) {t x : BitVec 3} (a d : α) (hx : x ≠ t) :
    vget (vset v t.toNat a) x.toNat d = vget v x.toNat d :=
  vget_vset_ne _ _ _ _ _ (mt BitVec.eq_of_toNat_eq hx)

section
variable {s : State} {t : BitVec 3}

/-- MZER's effect on the state. -/
abbrev State.tileZeroed (s : State) (t : BitVec 3) : State := ((s.setTile t zeroTile).holdPort 16).occupy t 16 28 0

section
variable {k r : Nat} {st : Stream} {c : Core} (h : s.OnCore k r st c)
include h

theorem State.OnCore.setTile (x : Tile) :
    (s.setTile t x).OnCore k r st (c.setMat { c.mat with tile := vset c.mat.tile t.toNat x }) := h.updMat _

theorem State.OnCore.holdPort (n : Nat) : (s.holdPort n).OnCore k r st (c.setMat { c.mat with portEnd := s.ec + n }) := h.updMat _

theorem State.OnCore.occupy (n ready : Nat) (f : Flags) :
    (s.occupy t n ready f).OnCore k r st (c.setMat (c.mat.occupied t (s.ec + n) (s.ec + ready))) := (h.updMat _).withMach rfl

theorem State.OnCore.tileZeroed : (s.tileZeroed t).OnCore k r st (c.setMat (c.mat.zeroed t s.ec)) := by
  have hz := ((h.setTile (t := t) zeroTile).holdPort 16).occupy (t := t) 16 28 0
  rw [State.ec_holdPort, State.ec_setTile] at hz
  exact hz

end

/-- Port and tile are free. -/
def State.tilePortFree (s : State) (t : BitVec 3) : Bool :=
  decide (s.mat.portEnd ≤ s.ec) && (decide (vget s.mat.tileEnd t.toNat 0 ≤ s.ec) && !s.core.viewWrite s.ec t.toNat)

theorem State.tilePortFree_iff : s.tilePortFree t = true ↔ s.mat.portEnd ≤ s.ec ∧ s.tileFree t = .ok () := by
  rw [State.tilePortFree, State.tileFree, need_eq_ok, Bool.and_eq_true_iff, decide_eq_true_iff]

/-- The port and the tile fault alike (R200, R201). -/
theorem State.portFree_tileFree {x : Except Stop State} : (do s.portFree; s.tileFree t; x) = (do need (s.tilePortFree t) 0x07; x) :=
  need_need

theorem State.version_ok {v : Bool} (h : v = false ∨ vget s.mat.tver t.toNat 0 = vget s.mat.texp t.toNat 0) : s.version v t = .ok () := by
  have hv : (!v || vget s.mat.tver t.toNat 0 == vget s.mat.texp t.toNat 0) = true := by simpa using h
  rw [State.version, hv, await_ok]

theorem State.version_waits (h : vget s.mat.tver t.toNat 0 ≠ vget s.mat.texp t.toNat 0) :
    s.version true t = .error (.hold (.version t)) := by
  rw [State.version, Bool.not_true, Bool.false_or, beq_false_of_ne h, await_error]

/-! ## Words that use the port (log entry 86) -/

variable {decls : List Decl} {g : BitVec 4} {x : Except Stop Unit} {y : Except Stop State} (h : Runs s decls g) (hx : x = .ok ())
include h hx

/-- A tile word whose pointer passes its checks, and that finds port and tile free. -/
theorem word_tileFree {u : State} (hf : s.tilePortFree t = true) (hy : y = .ok u) :
    s.word decls (s.guard g) (fun _ => do x; s.portFree; s.tileFree t; y) = .next u.advance :=
  State.word_runs h (by rw [hx, State.portFree_tileFree, need_bind_ok hf, hy]; rfl)

/-- One that finds either in use. -/
theorem word_tileBusy (hf : ¬ s.tilePortFree t = true) :
    s.word decls (s.guard g) (fun _ => do x; s.portFree; s.tileFree t; y) = .next (s.raise { cause := 0x07 }) := by
  rw [Bool.not_eq_true] at hf
  exact State.word_faults h.1 (by rw [hx, State.portFree_tileFree, need_bind_error hf]; rfl)

/-- One that finds them free, and waits for the version of its tile. -/
theorem word_tileWaits (hf : s.tilePortFree t = true) (hy : y = .error (.hold (.version t))) :
    s.word decls (s.guard g) (fun _ => do x; s.portFree; s.tileFree t; y) = .next (s.hold (.version t)) :=
  State.word_stops (e := .hold (.version t)) h.1 (by rw [hx, State.portFree_tileFree, need_bind_ok hf, hy]; rfl)

end

/-! ## MZER, MLDA and MDRN (R211-R213) -/

section
variable {s : State} {ac : BitVec 3} {ty : BitVec 4} {p : BitVec 8} {v k : Bool} {g : BitVec 4}

/-- MZER names no pointer: nothing is tested before the port. -/
theorem execMzer_eq : execMzer ac g s = s.word [] (s.guard g) (fun _ => do
    Except.ok ()
    s.portFree
    s.tileFree ac
    pure (s.tileZeroed ac)) := State.word_congr rfl

theorem execMlda_eq : execMlda ac p k g s = s.word (sn [p.toNat]) (s.guard g) (fun _ => do
    s.mPtr (s.rd p.toNat) 16384
    s.portFree
    s.tileFree ac
    pure ((((s.mAcquire k).startBeats (.mlda ac.toNat) (s.rd p.toNat) 64 true k).holdPort 64).occupy ac 64 76 0)) := State.word_congr rfl

/-- The bytes of an element that MDRN stores (R213). -/
abbrev drainSize (ty : BitVec 4) : Nat := if ty = 0 then 4 else 2

/-- The rows that MDRN takes and rounds, with their flags. -/
abbrev State.drainRows (s : State) (ac : BitVec 3) (ty : BitVec 4) : List (List (Nat × Flags)) :=
  (List.range 64).map fun i => (tileElems (s.tile ac) i).map (drainElem ty.toNat s.mat.rm.toNat)

/-- MDRN's effect: the rows on their way, the flags to come. -/
abbrev State.drained (s : State) (ac : BitVec 3) (ty : BitVec 4) (ptr : Word) (k : Bool) : State :=
  ((s.startBeats (.mdrn ac.toNat ((s.drainRows ac ty).map fun r => r.flatMap fun x => natLE (drainSize ty) x.1)) ptr 64 false k).holdPort
    64).occupy ac 64 64 ((s.drainRows ac ty).foldl (fun f r => r.foldl (fun f x => f ||| x.2) f) 0)

theorem execMdrn_eq : execMdrn ac ty p v k g s = s.word (sn [p.toNat]) (s.guard g) (fun _ => do
    s.mPtr (s.rd p.toNat) (64 * 64 * drainSize ty)
    s.portFree
    s.tileFree ac
    do s.version v ac; pure (s.drained ac ty (s.rd p.toNat) k)) := State.word_congr rfl

theorem execMzer_goesTo {e r : Nat} (hc : s.cur = .core e r .m) (h : Runs s [] g) (hf : s.tilePortFree ac = true) :
    GoesTo (execMzer ac g s) (fun t => (∀ i j, i < 64 → j < 64 → tileElem (t.tile ac) i j = 0) ∧ t.mat.portEnd = s.ec + 16 ∧
      vget t.mat.ready ac.toNat 0 = s.ec + 28 ∧ ∀ x, x ≠ ac → t.tile x = s.tile x) := by
  have hcore := State.OnCore.of_seq? hc h.1.1
  refine ⟨_, execMzer_eq.trans (word_tileFree h rfl hf rfl), ?_⟩
  simp only [State.tile, hcore.tileZeroed.mat_advance, hcore.mat_eq, Core.mat_setMat]
  refine ⟨fun i j _ _ => ?_, rfl, vget_tile_self _ _ _ _, fun x hx => vget_tile_ne _ _ _ hx⟩
  have htile : vget (s.core.mat.zeroed ac s.ec).tile ac.toNat zeroTile = zeroTile := vget_tile_self _ _ _ _
  rw [htile, tileElem_zeroTile]

end

/-! ## The tile events -/

theorem execMdrnComplete_goesTo {s : State} {e r : Nat} {c : Core} (hc : s.m.core? e r = some c) (t : BitVec 3) (rel : Bool) (sco : BitVec 3) :
    GoesTo (execMdrnComplete e r t rel sco s) (fun w => ∃ c', w.m.core? e r = some c' ∧
      vget c'.mat.tver t.toNat 0 = vget c.mat.tver t.toNat 0 + 1 ∧ c'.mat.tile = c.mat.tile ∧ c'.scr = c.scr) := by
  refine ⟨_, event_next (by rw [hc]; rfl), c.setMat { c.mat with tver := vupd c.mat.tver t.toNat (· + 1) }, ?_,
    vget_vupd_self _ _ _ _ t.isLt, rfl, rfl⟩
  rw [Mach.core?_updCore_self, hc]
  rfl

/-- Settles O47: the pointer, port and tile are tested in this order, then MDRN's version; each word past its tests is its effect. -/
theorem tileWords : Obligations.TileWords := by
  intro s ac ty p v k g e r hc ptr u free es
  have hfree : s.tilePortFree ac = true ↔ free := State.tilePortFree_iff
  simp only [exec_mzer, exec_mlda, exec_mdrn, exec_tileReady, exec_mdrnComplete, ← hfree]
  refine ⟨fun h => ⟨fun hf => ⟨?zero, execMzer_goesTo hc h hf⟩, fun hf => ?zeroBusy⟩,
    fun h => ⟨fun hp hf => ?load, fun hp hf => ?loadBusy, fun x hp => ?loadPointer,
      fun hp hf => ⟨fun hv => ?drain, fun hv hw => ?drainWaits⟩, fun hp hf => ?drainBusy, fun x hp => ?drainPointer⟩,
    fun fl t rel sco c hcore => ⟨event_next (by rw [hcore]; rfl), execMdrnComplete_goesTo hcore t rel sco⟩⟩
  case zero => exact execMzer_eq.trans (word_tileFree h rfl hf rfl)
  case zeroBusy => exact execMzer_eq.trans (word_tileBusy h rfl hf)
  case load => exact execMlda_eq.trans (word_tileFree h hp hf rfl)
  case loadBusy => exact execMlda_eq.trans (word_tileBusy h hp hf)
  case loadPointer => exact execMlda_eq.trans (word_unreached h hp)
  case drain => exact execMdrn_eq.trans (word_tileFree h hp hf (by rw [State.version_ok hv]; rfl))
  case drainWaits =>
    subst hv
    exact execMdrn_eq.trans (word_tileWaits h hp hf (by rw [State.version_waits hw]; rfl))
  case drainBusy => exact execMdrn_eq.trans (word_tileBusy h hp hf)
  case drainPointer => exact execMdrn_eq.trans (word_unreached h hp)

end Sys2Proof.Machine
end

section
/-! PROOFS. What commits leave: the ec of every gang, and of every core its M unit but for the beats still to come. K = 1 makes the
accesses of earlier ec commit before an M command reads (R202, R271, R272). -/
namespace Sys2Proof.Machine

/-! ## The view that commits leave as it was -/

/-- The M unit of a core but for its beats. -/
def Core.still (c : Core) : MUnit := { c.mat with beats := [] }

/-- The ec of a gang, and the M units of its cores. -/
def Gang.still (x : Gang) : Nat × List MUnit := (x.cyc, x.cores.map Core.still)

/-- The same of every gang there is. -/
def Mach.still (m : Mach) (g : Nat) : Option (Nat × List MUnit) := (m.gang? g).map Gang.still

/-- From `m` on, the package has changed in nothing of this view. -/
def Mach.Rests (m k : Mach) : Prop := k.still = m.still

section
variable {m k k' : Mach}

theorem Mach.Rests.refl : m.Rests m := rfl

theorem Mach.Rests.congr (h : m.Rests k) (hg : k'.gangs = k.gangs) : m.Rests k' := by
  refine Eq.trans (funext fun g => ?_) h
  rw [Mach.still, Mach.gang?_of_gangs hg, Mach.still]

theorem Mach.Rests.updGang {g : Nat} {f : Gang → Gang} (h : m.Rests k) (hf : ∀ x, (f x).still = x.still) : m.Rests (k.updGang g f) := by
  refine Eq.trans (funext fun j => ?_) h
  by_cases hj : j = g
  · subst hj
    rw [Mach.still, Mach.gang?_updGang_self, Option.map_map, Mach.still]
    exact congrArg (Option.map · (k.gang? j)) (funext hf)
  · rw [Mach.still, Mach.gang?_updGang_ne k g j f hj, Mach.still]

theorem Mach.Rests.updCore {g r : Nat} {f : Core → Core} (h : m.Rests k) (hf : ∀ c, (f c).still = c.still) :
    m.Rests (k.updCore g r f) := by
  refine h.updGang fun x => Prod.ext rfl ?_
  refine List.ext_getElem (by simp [Gang.still, Gang.updCore]) fun i _ _ => ?_
  simp only [Gang.still, Gang.updCore, List.getElem_map, List.getElem_modify]
  split
  · exact hf _
  · rfl

theorem Mach.Rests.ite {p : Prop} [Decidable p] (h : m.Rests k) (h' : m.Rests k') : m.Rests (if p then k else k') := ite_keeps h h'

theorem Mach.Rests.foldl {α : Type} {f : Mach → α → Mach} {l : List α} (h : m.Rests k) (hf : ∀ k a, m.Rests k → m.Rests (f k a)) :
    m.Rests (l.foldl f k) := foldl_keeps h hf

/-- The ec of a gang rests. -/
theorem Mach.Rests.ecOf (h : m.Rests k) (g r : Nat) (st : Stream) : k.ecOf (.core g r st) = m.ecOf (.core g r st) := by
  have hg := congrArg (Option.map Prod.fst) (congrFun h g)
  rw [Mach.still, Mach.still, Option.map_map, Option.map_map] at hg
  exact congrArg (Option.getD · 0) hg

/-- Every core rests. -/
theorem Mach.Rests.core? (h : m.Rests k) (g r : Nat) : (k.core? g r).map Core.still = (m.core? g r).map Core.still := by
  have hcore (n : Mach) : (n.core? g r).map Core.still = (n.still g).bind fun v => v.2[r]? := by
    rw [Mach.core?, Mach.still]
    cases n.gang? g with
    | none => rfl
    | some x => exact (List.getElem?_map ..).symm
  rw [hcore, hcore, h]

/-! ## Repairs, logs and stops (R345, R405-R411) -/

theorem Mach.Rests.crash (h : m.Rests k) : m.Rests k.crash := h.ite (h.congr rfl)

theorem Mach.Rests.fromMirror {r : Mirror} {pa n : Nat} (h : m.Rests k) : m.Rests (k.fromMirror r pa n) := by
  unfold Mach.fromMirror
  extract_lets
  split
  · exact h
  · exact h.congr rfl

theorem Mach.Rests.repair {q : Nat} {good readback : Bool} (h : m.Rests k) : m.Rests (k.repair q good readback) := by
  unfold Mach.repair
  extract_lets pa k1 sym _ k2
  have h2 : m.Rests k2 := h.congr rfl
  split
  · exact h2
  · have hlog : m.Rests (k2.logArray pa sym true true) := h2.congr rfl
    exact .ite (.crash (h2.congr rfl)) (.ite hlog.fromMirror (.fromMirror (hlog.fromMirror.congr rfl)))

theorem Mach.Rests.mend {l : Loc} {n : Nat} (h : m.Rests k) : m.Rests (k.mend l n) := by
  unfold Mach.mend
  split
  · exact h.foldl fun _ _ h => .repair (h.congr rfl)
  · exact h

theorem Mach.Rests.logBad {l : Loc} {n : Nat} (h : m.Rests k) : m.Rests (k.logBad l n) := by
  unfold Mach.logBad
  split
  · exact h.foldl fun _ _ h => h.congr rfl
  · exact h

theorem Mach.Rests.lateFault {q : QEntry} {cause : BitVec 8} {addr : Word} {race : BitVec 128} {redo : Redo} (h : m.Rests k) :
    m.Rests (k.lateFault q cause addr race redo) := by
  unfold Mach.lateFault
  split
  · exact h.updCore fun _ => rfl
  · exact h.congr rfl
  · exact h

/-! ## The race checker (R325-R331) -/

theorem Mach.Rests.learnOutside {g r : Nat} (h : m.Rests k) : m.Rests (k.learnOutside g r) := by
  unfold Mach.learnOutside
  split
  · exact h
  · exact (h.congr (k' := k.bumpVg _) rfl).updCore fun _ => rfl

theorem Mach.Rests.learnPv {g r : Nat} (h : m.Rests k) : m.Rests (k.learnPv g r) := by
  unfold Mach.learnPv
  split
  · exact h
  · exact h.updCore fun _ => rfl

theorem Mach.Rests.publish {g : Nat} {p : Snap} (h : m.Rests k) : m.Rests (k.publish g p) := h.updGang fun _ => rfl

theorem Mach.Rests.raceRelease {g r sco iv : Nat} {unit : Option Nat} (h : m.Rests k) : m.Rests (k.raceRelease g r sco iv unit) := by
  unfold Mach.raceRelease
  split
  · next x c _ _ =>
    extract_lets p k1 k2
    have h1 : m.Rests k1 := h.updCore fun _ => rfl
    have h2 : m.Rests k2 := by
      unfold k2
      split
      · exact h1
      · exact h1.congr rfl
    exact .ite (h2.publish.congr rfl) h2
  · exact h

theorem Mach.Rests.raceAcquireFence {g r : Nat} (h : m.Rests k) : m.Rests (k.raceAcquireFence g r) :=
  h.learnPv.learnOutside.updCore fun _ => rfl

theorem Mach.Rests.setShadow {u : UnitRef} {e : Shadow} (h : m.Rests k) : m.Rests (k.setShadow u e) := by
  cases u with
  | scr g r n => exact h.updCore fun _ => rfl
  | glb v n => exact h.congr rfl

theorem Mach.Rests.raceAcquire {x : RaceAcc} {u : UnitRef} {e : Shadow} (h : m.Rests k) : m.Rests (k.raceAcquire x u e) := by
  unfold Mach.raceAcquire
  split
  · exact h
  · refine .ite h.raceAcquireFence (.ite ?_ h)
    extract_lets recs
    split
    · exact h.updCore fun _ => rfl
    · exact h.learnPv.updCore fun _ => rfl

theorem Mach.Rests.raceAccess {x : RaceAcc} {u : UnitRef} {ptr : Word} (h : m.Rests k) : m.Rests (k.raceAccess x u ptr).1 := by
  unfold Mach.raceAccess
  split
  · exact h
  · extract_lets job vg e k1 e1 e2 k2
    have h1 : m.Rests k1 := .ite h.raceAcquire h
    split
    · exact h1
    · exact .ite h1.setShadow.raceRelease h1.setShadow

theorem Mach.Rests.noteOutside {q : QEntry} (h : m.Rests k) : m.Rests (q.noteOutside k) := by
  unfold QEntry.noteOutside
  split
  · exact h
  · split
    · exact h
    · exact h.setShadow
  · split
    · exact h
    · exact h.setShadow

theorem Mach.Rests.noteUnchecked {q : QEntry} (h : m.Rests k) : m.Rests (q.noteUnchecked k) := by
  unfold QEntry.noteUnchecked
  split
  · exact .ite (Mach.Rests.ite h.raceAcquireFence h).raceRelease (.ite h.raceAcquireFence h)
  · exact h.noteOutside

theorem Mach.Rests.bumpOf {q : QEntry} (h : m.Rests k) : m.Rests (q.bumpOf k) := by
  unfold QEntry.bumpOf
  split
  · exact h.updCore fun _ => rfl
  · exact h

/-- The release that an event or a notice of a gang core is (R327). -/
theorem Mach.Rests.raceReleaseOf {q : QEntry} (h : m.Rests k) :
    m.Rests (match q.who with | .agent (.core g r _) => k.raceRelease g r 4 q.icnt none | _ => k) := by
  split
  · exact h.raceRelease
  · exact h

/-! ## Queues, replies and view buffers (R264, R265, R270) -/

theorem Mach.Rests.noteAgain {q : QEntry} (h : m.Rests k) : m.Rests (k.noteAgain q) := by
  unfold Mach.noteAgain
  split
  · exact h.congr rfl
  · exact h.congr rfl
  · exact h.congr rfl
  · exact h.congr rfl
  · exact h

theorem Mach.Rests.hear {w : Who} {l : List RelVal} (h : m.Rests k) : m.Rests (k.hear w l) := h.ite (h.congr rfl)
theorem Mach.Rests.acquired {w : Who} (h : m.Rests k) : m.Rests (k.acquired w) := h.congr rfl
theorem Mach.Rests.acquireOf {w : Who} {sco : Nat} {l : List RelVal} (h : m.Rests k) : m.Rests (k.acquireOf w sco l) :=
  h.acquired.ite h.hear
theorem Mach.Rests.prune {id : Nat} (h : m.Rests k) : m.Rests (k.prune id) := h.ite (h.congr rfl)
theorem Mach.Rests.readEarly {q : QEntry} (h : m.Rests k) : m.Rests (k.readEarly q) := h.ite (h.congr rfl)
theorem Mach.Rests.markSeen {id : Nat} {q : QEntry} (h : m.Rests k) : m.Rests (k.markSeen id q) := h.ite (h.congr rfl)

theorem Mach.Rests.fillReply {id : Nat} {bytes : List (Nat × Byte)} {fault : Option (BitVec 8 × Word × BitVec 128)} {own : Bool} {n : Nat}
    (h : m.Rests k) : m.Rests (k.fillReply id bytes fault own n) := by
  unfold Mach.fillReply
  split
  · exact h
  · exact .ite (h.congr rfl) (h.congr rfl)

theorem Mach.Rests.readView {w : Who} {l : Loc} {n i va : Nat} (h : m.Rests k) : m.Rests (k.readView w l n i va).2 := by
  unfold Mach.readView
  split
  · exact h
  · split
    · exact h
    · split
      · exact h
      · exact .ite (h.congr rfl) h

theorem Mach.Rests.writeLoc {l : Loc} {data : List (Nat × Byte)} (h : m.Rests k) : m.Rests (k.writeLoc l data) := by
  cases l with
  | scr g r o => exact h.updCore fun _ => rfl
  | lpe d i c o => exact h.congr rfl
  | dev pa => exact h.congr rfl
  | host a => exact h.congr rfl
  | peer v o => exact h.congr rfl
  | sys n => exact h

theorem Mach.Rests.renewCopy {w : Who} {l : Loc} (h : m.Rests k) : m.Rests (k.renewCopy w l) := by
  unfold Mach.renewCopy
  split
  · exact h
  · split
    · exact h
    · exact h.congr rfl

/-- A write at its commit point. -/
theorem Mach.Rests.commitWrite {q : QEntry} {data : List (Nat × Byte)} (h : m.Rests k) :
    m.Rests (((k.writeLoc q.loc data).renewCopy q.who q.loc).noteWrite q) := h.writeLoc.renewCopy.congr rfl

/-! ## Commit (R264) -/

theorem Mach.Rests.perform {id : Nat} {q : QEntry} {chk : Bool} (h : m.Rests k) : m.Rests (k.perform id q chk) := by
  unfold Mach.perform
  extract_lets k0 k1 own k2 k3 err k4
  have h1 : m.Rests k1 := .prune (h.congr rfl)
  have h2 : m.Rests k2 := .ite h1.mend h1
  have h3 : m.Rests k3 := h2.foldl fun _ _ h => h.mend
  have h4 : m.Rests k4 := .ite h3.logBad h3
  split
  next k5 rep heq =>
  have h5 : m.Rests k5 := by
    refine of_fst heq ?_
    split
    · exact .ite h4.bumpOf h4
    · split
      · exact h4.raceAccess
      · exact h4.noteUnchecked
  extract_lets +onlyGivenNames fault k6 vals k7 k8 k9
  have h6 : m.Rests k6 := .ite h5.noteAgain h5
  have h7 : m.Rests k7 := h6.readEarly
  have h8 : m.Rests k8 := .ite h7 (.ite h7.acquireOf (.ite h7 h7.hear))
  have h9 : m.Rests k9 := by
    unfold k9
    split
    · exact .ite (h8.congr rfl) h8
    · exact h8
  clear_value k9 fault
  split
  case h_1 => exact h9.readView.markSeen.fillReply
  case h_2 => exact h9.fillReply
  case h_3 =>
    split
    · exact h9.lateFault
    · exact h9.commitWrite
  case h_4 =>
    split
    · exact h9.lateFault
    · exact h9.writeLoc
  case h_5 => exact .fillReply (.ite h9 h9.commitWrite)
  case h_6 =>
    refine .fillReply (.ite h9 (.ite h9.commitWrite ?_))
    split
    · exact h9.congr rfl
    · exact h9
  case h_7 =>
    extract_lets n1 n2
    have h1 : m.Rests n1 := .ite (h9.congr rfl) h9
    have h2 : m.Rests n2 := by
      unfold n2
      split
      · exact .ite (Mach.Rests.ite h1.raceRelease h1).raceAcquireFence (.ite h1.raceRelease h1)
      · exact h1
    exact .ite h2.acquireOf h2
  case h_8 => exact h9.congr rfl
  case h_9 => exact h9.raceReleaseOf.congr rfl
  case h_10 => exact h9.raceReleaseOf.congr rfl
  case h_11 =>
    extract_lets +onlyGivenNames k10 k11
    have h10 : m.Rests k10 := .ite h9.publish h9
    have h11 : m.Rests k11 := .ite (h10.congr rfl) h10
    split
    · exact h11.congr rfl
    · exact h11

theorem Mach.Rests.force {n id : Nat} (h : m.Rests k) : m.Rests (Mach.force n k id) := by
  induction n generalizing k id with
  | zero => exact h
  | succ n ih =>
    unfold Mach.force
    split
    · exact h
    · next q hq =>
      have hf : m.Rests ((k.blockers id q).foldl (fun m p => Mach.force n m p.1) k) := h.foldl fun _ _ => ih
      exact .ite (.perform (hf.congr rfl)) hf

theorem Mach.Rests.forceAll {ids : List Nat} (h : m.Rests k) : m.Rests (k.forceAll ids) := h.foldl fun _ _ h => h.force
theorem Mach.Rests.commitNow {q : QEntry} (h : m.Rests k) : m.Rests (k.commitNow q) := .force (h.congr rfl)

/-! ## Rows owed, and the acquire of K = 1 (R202, R213, R234, R271) -/

theorem Mach.Rests.mWrite {g r : Nat} {b : Beat} {off : Nat} {bytes : List Byte} (h : m.Rests k) : m.Rests (k.mWrite g r b off bytes) :=
  Mach.Rests.foldl (h.congr rfl) fun _ _ h => .ite h.commitNow (h.congr rfl)

theorem Mach.Rests.mEnd {g r : Nat} {b : Beat} {tile : Option (BitVec 3)} (h : m.Rests k) : m.Rests (k.mEnd g r b tile) := by
  refine .ite (.ite h.commitNow ?_) (h.congr (k' := k.enqueue _ _) rfl)
  split
  · exact h.congr rfl
  · exact h

theorem Mach.Rests.beatWrite {g r : Nat} {b : Beat} (h : m.Rests k) : m.Rests (k.beatWrite g r b) := by
  unfold Mach.beatWrite
  split
  · exact .updCore (.ite h.mWrite.mEnd h.mWrite) fun _ => rfl
  · exact h.mWrite.updCore fun _ => rfl
  · exact h

theorem Mach.Rests.payRows {g r ec : Nat} (h : m.Rests k) : m.Rests (k.payRows g r ec) :=
  h.foldl fun _ _ h => h.foldl fun _ _ h => h.beatWrite.ite h

theorem Mach.Rests.acquireAt {g r ec : Nat} (h : m.Rests k) : m.Rests (k.acquireAt g r ec) := h.payRows.forceAll

end

/-- K = 1 changes the package as commits do, and K = 0 not at all. -/
theorem State.mAcquire_rests (s : State) (k : Bool) : s.m.Rests (s.mAcquire k).m := by
  unfold State.mAcquire
  split
  · exact Mach.Rests.refl.acquireAt.acquired
  · exact .refl

end Sys2Proof.Machine
end

section
/-! PROOFS. The configuration words of M, and operand slots: their claim, their release and the beats that fill them (R199-R201,
R205-R208, R210, R215; log entries 19, 31 and 86). -/
namespace Sys2Proof.Machine

/-! ## The state after an M word -/

theorem vupd_eq_vset {α : Type} {n : Nat} (v : Vector α n) {i : Nat} (f : α → α) (d : α) (h : i < n) :
    vupd v i f = vset v i (f (vget v i d)) := by
  simp [vupd, vset, vget, h]

theorem Core.tagm_still (c : Core) : c.still.tagm = c.mat.tagm := rfl

theorem State.mAcquire_cur (s : State) (k : Bool) : (s.mAcquire k).cur = s.cur := by
  unfold State.mAcquire
  split <;> rfl

section
variable {s t : State} {k r : Nat} {st : Stream} {c : Core} (h : s.OnCore k r st c)
include h

theorem State.OnCore.gno_eq : s.gno = k := by rw [State.gno, h.cur]
theorem State.OnCore.rank_eq : s.rank = r := by rw [State.rank, h.cur]

/-- A quad changed leaves every core. -/
theorem State.OnCore.updQuad (f : Quad → Quad) : (s.updQuad f).OnCore k r st c := by
  refine ⟨(State.updGang_cur ..).trans h.cur, Eq.trans ?_ h.there⟩
  simp only [State.updQuad, State.updGang, h.cur, Mach.core?, Mach.gang?_updGang_self, Option.bind_map]
  rfl

theorem State.OnCore.ec_updQuad (f : Quad → Quad) : (s.updQuad f).ec = s.ec := by
  simp only [State.updQuad, State.updGang, State.ec, h.cur, Mach.ecOf, Mach.gang?_updGang_self, Option.map_map]
  rfl

theorem State.OnCore.agenda_advance : s.advance.m.agenda = s.m.agenda := by
  rw [State.advance, State.updRegs_agenda, State.issued_core h.cur, Mach.fresh_agenda, Mach.updSeq_agenda]

/-- After commits the word's core is there still, its M unit and the ec as they were. -/
theorem State.OnCore.of_rests (hr : s.m.Rests t.m) (hc : t.cur = s.cur) :
    t.OnCore k r st t.core ∧ t.core.still = c.still ∧ t.ec = s.ec := by
  have hcore := hr.core? k r
  rw [h.there] at hcore
  obtain ⟨c', hc', hstill⟩ := Option.map_eq_some_iff.mp hcore
  have ht : t.OnCore k r st c' := ⟨hc.trans h.cur, hc'⟩
  refine ⟨ht.core_eq ▸ ht, ht.core_eq ▸ hstill, ?_⟩
  rw [State.ec, ht.cur, hr.ecOf, State.ec, h.cur]

end

/-- A word that changes only M registers. -/
theorem State.word_updMat {s : State} {k r : Nat} {st : Stream} {decls : List Decl} {g : BitVec 4} {body : State → Except Stop State}
    {f : MUnit → MUnit} (hc : s.cur = .core k r st) (h : Runs s decls g) (hb : body s = .ok (s.updMat f)) :
    GoesTo (s.word decls (s.guard g) body) (fun t => t.mat = f s.mat ∧ t.core.vec = s.core.vec ∧ t.core.scr = s.core.scr) := by
  have hm := (State.OnCore.of_seq? hc h.1.1).updMat f
  exact ⟨_, State.word_runs h hb, hm.mat_advance, hm.vec_advance, hm.scr_advance⟩

/-! ## Beats begun (R61, R202) -/

theorem Mach.gangs_mRequest (m : Mach) (g r : Nat) (b : Beat) (n : Nat) : (m.mRequest g r b n).1.gangs = m.gangs := by
  refine foldl_keeps (P := fun p : Mach × Beat => p.1.gangs = m.gangs) rfl fun p _ hp => ?_
  exact foldl_keeps (P := fun k : Mach => k.gangs = m.gangs) hp fun _ _ hk => hk

section
variable {s : State} {k r : Nat} {st : Stream} {c : Core}

/-- A command begun is one more with beats to come. -/
theorem State.OnCore.startBeats (h : s.OnCore k r st c) (op : BeatOp) (p : Word) (n : Nat) (read q : Bool) :
    (s.startBeats op p n read q).ec = s.ec ∧
      ∃ b, (s.startBeats op p n read q).OnCore k r st (c.setMat { c.mat with beats := c.mat.beats ++ [b] }) := by
  unfold State.startBeats
  extract_lets b
  split
  next m b' heq =>
  have hg : m.gangs = s.m.gangs := by
    refine of_fst (P := fun m : Mach => m.gangs = s.m.gangs) heq ?_
    split
    · exact s.m.gangs_mRequest _ _ _ _
    · rfl
  have hm := h.withMach hg
  refine ⟨?_, b', hm.updMat _⟩
  rw [State.ec_updMat, State.ec, State.ec, h.cur]
  exact congrArg (fun x : Option Gang => (x.map (·.cyc)).getD 0) (Mach.gang?_of_gangs hg k)

end

/-! ## MFIL (R207) -/

section
variable {s : State} {sa p : BitVec 8} {k : Bool} {g : BitVec 4}

/-- The fill port and a slot in use for a fill. -/
def State.fillUsed (s : State) (sa : BitVec 8) : State :=
  (s.updMat fun m => { m with fillEnd := s.ec + 32 }).updSlot sa.toNat fun x => { x with fillEnd := s.ec + 32 }

/-- The fill begun, its accesses on their way. -/
def State.fillBegun (s : State) (sa : BitVec 8) (p : Word) (k : Bool) : State :=
  ((s.mAcquire k).startBeats (.mfil sa.toNat) p 32 true k).fillUsed sa

/-- The stamp of a fill to come. -/
def State.stampDue (s : State) (sa : BitVec 8) : State :=
  { s with m := s.m.schedule (.ec s.gno) (s.ec + 32) (.mfilStamp s.gno (s.rank / 4) sa.toNat s.mat.tagm) }

/-- Nothing fills or reads the slot, and the fill port is free. -/
def State.fillFree (s : State) (sa : BitVec 8) : Bool :=
  (!(s.slotThen sa.toNat).tag.pending && decide ((vget s.quad.slot sa.toNat {}).readEnd ≤ s.ec)) && decide (s.mat.fillEnd ≤ s.ec)

theorem execMfil_eq : execMfil sa p k g s = s.word ([.name (.slot sa.toNat)] ++ sn [p.toNat]) (s.guard g) (fun _ => do
    s.mPtr (s.rd p.toNat) 8192
    need (s.slotThen sa.toNat).claimed 0x0E
    need (s.fillFree sa) 0x07
    pure ((s.fillBegun sa (s.rd p.toNat) k).stampDue sa)) := by
  rewrite [State.fillFree, ← need_need]
  exact State.word_congr rfl

theorem State.fillFree_iff : s.fillFree sa = true ↔
    (s.slotThen sa.toNat).tag.pending = false ∧ (vget s.quad.slot sa.toNat {}).readEnd ≤ s.ec ∧ s.mat.fillEnd ≤ s.ec := by
  rw [State.fillFree, Bool.and_eq_true_iff, Bool.and_eq_true_iff, Bool.not_eq_true', decide_eq_true_iff, decide_eq_true_iff, and_assoc]

theorem State.OnCore.fillUsed {e r : Nat} {st : Stream} {c : Core} (h : s.OnCore e r st c) :
    (s.fillUsed sa).ec = s.ec ∧ (s.fillUsed sa).OnCore e r st (c.setMat { c.mat with fillEnd := s.ec + 32 }) := by
  have hm := h.updMat fun m => { m with fillEnd := s.ec + 32 }
  exact ⟨(hm.ec_updQuad _).trans (s.ec_updMat _), hm.updQuad _⟩

theorem State.OnCore.fillBegun {e r : Nat} {st : Stream} {c : Core} (h : s.OnCore e r st c) (ptr : Word) :
    (s.fillBegun sa ptr k).ec = s.ec ∧ ∃ c', (s.fillBegun sa ptr k).OnCore e r st c' ∧ c'.mat.fillEnd = s.ec + 32 ∧
      c'.mat.beats.length = (s.mAcquire k).mat.beats.length + 1 ∧ c'.mat.tagm = c.mat.tagm := by
  obtain ⟨h0, hstill, hec0⟩ := h.of_rests (s.mAcquire_rests k) (s.mAcquire_cur k)
  obtain ⟨hec1, b, h1⟩ := h0.startBeats (.mfil sa.toNat) ptr 32 true k
  obtain ⟨hec2, h2⟩ := h1.fillUsed (sa := sa)
  refine ⟨hec2.trans (hec1.trans hec0), _, h2, ?_, List.length_append .., ?_⟩
  · rw [Core.mat_setMat, hec1, hec0]
  · exact (Core.tagm_still _).symm.trans ((congrArg MUnit.tagm hstill).trans c.tagm_still)

theorem execMfil_goesTo {e r : Nat} (hc : s.cur = .core e r .m) (h : Runs s ([.name (.slot sa.toNat)] ++ sn [p.toNat]) g)
    (hp : s.mPtr (s.rd p.toNat) 8192 = .ok ()) (hclaim : (s.slotThen sa.toNat).claimed = true) (hfree : s.fillFree sa = true) :
    GoesTo (execMfil sa p k g s) (fun t => t.mat.fillEnd = s.ec + 32 ∧ t.mat.beats.length = (s.mAcquire k).mat.beats.length + 1 ∧
      t.m.agenda.getLast? = some ⟨.ec e, s.ec + 32, .mfilStamp e (r / 4) sa.toNat s.mat.tagm⟩) := by
  have hcore := State.OnCore.of_seq? hc h.1.1
  obtain ⟨hec, c', ht, hfill, hbeats, htagm⟩ := hcore.fillBegun (sa := sa) (k := k) (s.rd p.toNat)
  have hdue : ((s.fillBegun sa (s.rd p.toNat) k).stampDue sa).OnCore e r .m c' := ht.withMach rfl
  refine ⟨((s.fillBegun sa (s.rd p.toNat) k).stampDue sa).advance, ?_, ?_, ?_, ?_⟩
  · rw [execMfil_eq]
    exact State.word_runs h (by rw [hp, hclaim, hfree]; rfl)
  · rw [hdue.mat_advance, hfill]
  · rw [hdue.mat_advance, hbeats]
  · rw [hdue.agenda_advance, State.stampDue, Mach.schedule_agenda, List.getLast?_concat, ht.gno_eq, ht.rank_eq, hec, ht.mat_eq, htagm,
      hcore.mat_eq]

end

/-! ## MFIL_STAMP (R68, R207) -/

theorem execMfilStamp_goesTo {s : State} {e q n : Nat} {x : Gang} {y : Quad} (tag : BitVec 16) (hx : s.m.gang? e = some x)
    (hy : x.quads[q]? = some y) (hn : n < 256) : GoesTo (execMfilStamp e q n tag s) (fun t =>
      (t.m.targetTag (.slot e q n)).tag = tag ∧ (t.m.targetTag (.slot e q n)).count = (s.m.targetTag (.slot e q n)).count ∧
      ∀ n', n' ≠ n → t.m.targetTag (.slot e q n') = s.m.targetTag (.slot e q n')) := by
  have hthen (i : Nat) : s.m.targetTag (.slot e q i) = (vget y.slot i {}).tag := by simp [Mach.targetTag, hx, hy]
  have hnow (f : TagState → TagState) (i : Nat) : (s.m.updTarget (.slot e q n) f).targetTag (.slot e q i) =
      (vget (vupd y.slot n fun z => { z with tag := f z.tag }) i {}).tag := by
    simp [Mach.targetTag, Mach.updTarget, hx, hy]
  refine ⟨_, event_next (by simp [hx, hy]), ?_⟩
  simp only [hthen, hnow]
  refine ⟨?_, ?_, fun i hi => ?_⟩
  · rw [vget_vupd_self _ _ _ _ hn]
  · rw [vget_vupd_self _ _ _ _ hn]
  · rw [vget_vupd_ne _ _ _ _ _ hi]

/-! ## MWIN, MVER, MCLM and MREL (R205, R206, R208, R215) -/

section
variable {s : State} {ac : BitVec 3} {p sa : BitVec 8} {g : BitVec 4}

/-- The reserved bits of a window are 0. -/
abbrev windowOk (w : Word) : Bool := fld w 30 34 == 0 && fld w 6 4 == 0

theorem windowOk_iff {w : Word} : windowOk w = true ↔ fld w 30 34 = 0 ∧ fld w 6 4 = 0 := by
  rw [Bool.and_eq_true_iff, beq_iff_eq, beq_iff_eq]

/-- What MVER leaves of the M unit: the version expected of its tile, and the tile named until the next ec (log entry 31). -/
def MUnit.expecting (m : MUnit) (t : BitVec 3) (v : BitVec 16) (ec : Nat) : MUnit :=
  { m with texp := vset m.texp t.toNat v, ready := vset m.ready t.toNat (max (vget m.ready t.toNat 0) (ec + 1)) }

theorem execMver_eq : execMver ac p g s = s.word (sn [p.toNat]) (s.guard g) (fun _ => do
    s.tileFree ac
    pure (s.updMat fun m => m.expecting ac ((s.rd p.toNat).truncate 16) s.ec)) := by
  refine State.word_congr ?_
  simp only [MUnit.expecting, ← vupd_eq_vset _ (fun e => max e (s.ec + 1)) 0 ac.isLt]

/-- Nothing uses a slot any longer. -/
def State.slotIdle (s : State) (sa : BitVec 8) : Bool :=
  decide ((s.slotThen sa.toNat).readEnd ≤ s.ec) && decide ((s.slotThen sa.toNat).fillEnd ≤ s.ec) && (s.slotThen sa.toNat).tag.count == 0

theorem State.slotIdle_iff : s.slotIdle sa = true ↔
    (s.slotThen sa.toNat).readEnd ≤ s.ec ∧ (s.slotThen sa.toNat).fillEnd ≤ s.ec ∧ (s.slotThen sa.toNat).tag.count = 0 := by
  simp [State.slotIdle, and_assoc]

/-- MREL by its two tests: the claim, then the use. -/
theorem execMrel_eq : execMrel sa g s = s.word [.name (.slot sa.toNat)] (s.guard g) (fun _ => do
    need (s.slotThen sa.toNat).claimed 0x0E
    need (s.slotIdle sa) 0x07
    pure (s.updSlot sa.toNat fun x => { x with claimed := false })) := State.word_congr rfl

end

/-- Settles O45: each word is its tests in their order, and past them one change of the M unit or of its slot. -/
theorem matrixConfigurationAndSlots : Obligations.MatrixConfigurationAndSlots := by
  intro s ta tb sco ac rm p sa k g e r hc v u sets now then_
  simp only [sets, exec_mcfg, exec_mrnd, exec_mwin, exec_mverTag, exec_mver, exec_mclm, exec_mrel, exec_mfil, exec_mfilStamp]
  have hidle : s.slotIdle sa = true ↔ then_.readEnd ≤ s.ec ∧ then_.fillEnd ≤ s.ec ∧ then_.tag.count = 0 := State.slotIdle_iff
  have hfree : s.fillFree sa = true ↔ then_.tag.pending = false ∧ now.readEnd ≤ s.ec ∧ u.fillEnd ≤ s.ec := State.fillFree_iff
  refine ⟨fun h => ⟨?config, ?rounding⟩,
    fun h => ⟨fun hw => ?window, fun hw => ?badWindow, ?tag, fun x hx => ?tileBusy, fun hx => ?expect⟩,
    fun h => ⟨fun hcl => ?claim, fun hcl => ?claimTaken, fun hcl hr hf hn => ?free, fun hcl => ?freeUnclaimed, fun hcl hu => ?freeUsed⟩,
    fun h hp => ⟨fun hcl hpend hr hf => execMfil_goesTo hc h hp hcl (hfree.mpr ⟨hpend, hr, hf⟩), fun hcl => ?fillUnclaimed,
      fun hcl hu => ?fillUsed⟩,
    fun h x hx => ?fillPointer, fun q n tag x y hx hy hn => execMfilStamp_goesTo tag hx hy hn⟩
  case config => exact State.word_updMat (f := fun m => { m with ta := ta, tb := tb, sco := sco }) hc h rfl
  case rounding => exact State.word_updMat (f := fun m => { m with rm := rm }) hc h rfl
  case tag => exact State.word_updMat (f := fun m => { m with tagm := v.truncate 16 }) hc h rfl
  case window => exact State.word_updMat (f := fun m => { m with mwin := v }) hc h (need_bind_ok (windowOk_iff.mpr hw))
  case badWindow =>
    exact State.word_faults h.1 (need_bind_error (Bool.eq_false_iff.mpr (mt windowOk_iff.mp hw)))
  case tileBusy => exact execMver_eq.trans (word_unreached h hx)
  case expect =>
    rw [execMver_eq]
    exact State.word_updMat (f := fun m => m.expecting ac (v.truncate 16) s.ec) hc h (by rw [hx]; rfl)
  case claim => exact State.word_runs h (need_bind_ok (by rw [hcl]; rfl))
  case claimTaken => exact State.word_faults h.1 (need_bind_error (by rw [hcl]; rfl))
  case free =>
    rw [execMrel_eq]
    exact State.word_runs h ((need_bind_ok hcl).trans (need_bind_ok (hidle.mpr ⟨hr, hf, hn⟩)))
  case freeUnclaimed =>
    rw [execMrel_eq]
    exact State.word_faults h.1 (need_bind_error hcl)
  case freeUsed =>
    rw [execMrel_eq]
    exact State.word_faults h.1 ((need_bind_ok hcl).trans (need_bind_error (Bool.eq_false_iff.mpr (mt hidle.mp (by omega)))))
  case fillUnclaimed =>
    rw [execMfil_eq]
    exact State.word_faults h.1 (by rw [hp]; exact need_bind_error hcl)
  case fillUsed =>
    rw [execMfil_eq]
    have hused : s.fillFree sa = false := Bool.eq_false_iff.mpr (mt hfree.mp fun ⟨hpend, hr, hf⟩ => by simp [hpend] at hu; omega)
    exact State.word_faults h.1 (by rw [hp]; exact (need_bind_ok hcl).trans (need_bind_error hused))
  case fillPointer =>
    rw [execMfil_eq]
    exact word_unreached h hx

end Sys2Proof.Machine
end

section
/-! PROOFS. The digits of a ladder: a step keeps the conditions of R220, for one contribution more (R218-R222). -/
namespace Sys2Proof.Machine

/-! ## One digit set (R219) -/

theorem getLsbD_one_shiftLeft {k : Nat} (hk : k < 20) (j : Nat) : (1#20 <<< k).getLsbD j = decide (j = k) := by
  by_cases hj : j = k
  · simp [hj, hk]
  · simp [hj]
    omega

section
variable {l : Ladder} {k v : Nat} (hk : k < 20)
include hk

theorem Ladder.one_setDigit (j : Nat) : (l.setDigit k v).one.getLsbD j = if j = k then decide (v = 1) else l.one.getLsbD j := by
  rw [Ladder.setDigit]
  by_cases hv : v = 1 <;> simp [hv, getLsbD_one_shiftLeft hk] <;> grind

theorem Ladder.two_setDigit (j : Nat) : (l.setDigit k v).two.getLsbD j = if j = k then decide (v = 2) else l.two.getLsbD j := by
  rw [Ladder.setDigit]
  by_cases hv : v = 2 <;> simp [hv, getLsbD_one_shiftLeft hk] <;> grind

theorem Ladder.digit_setDigit (hv : v ≤ 2) (j : Nat) : (l.setDigit k v).digit j = if j = k then v else l.digit j := by
  rw [Ladder.digit, Ladder.two_setDigit hk, Ladder.one_setDigit hk]
  by_cases hj : j = k
  · obtain rfl | rfl | rfl : v = 0 ∨ v = 1 ∨ v = 2 := by omega
    all_goals simp [hj]
  · simp only [hj, if_false]
    rfl

end

theorem Ladder.digit_le (l : Ladder) (k : Nat) : l.digit k ≤ 2 := by
  rw [Ladder.digit]
  split
  · exact Nat.le_refl 2
  · split <;> decide

/-! ## The conditions of R220, one by one -/

/-- No rung holds both bits of its digit. -/
def Ladder.Disjoint (l : Ladder) : Prop := ∀ k, l.one.getLsbD k = false ∨ l.two.getLsbD k = false

/-- The contributions that the digits stand for. -/
def Ladder.value (l : Ladder) : Nat := ∑ k ∈ Finset.range 20, l.digit k * 2 ^ k

/-- Below a rung the digits go down by ones to a 0. -/
def Ladder.Backed (l : Ladder) (k : Nat) : Prop := ∃ i < k, l.digit i = 0 ∧ ∀ j, i < j → j < k → l.digit j = 1

theorem Ladder.backed_iff (l : Ladder) (k : Nat) : l.backed k = true ↔ l.Backed k := by
  induction k with
  | zero => simp [Ladder.backed, Ladder.Backed]
  | succ k ih =>
    simp only [Ladder.backed, Bool.or_eq_true, Bool.and_eq_true, beq_iff_eq, ih]
    constructor
    · rintro (h | ⟨h, i, hi, h0, h1⟩)
      · exact ⟨k, by omega, h, by omega⟩
      · exact ⟨i, by omega, h0, fun j hij hjk => by rcases Nat.lt_succ_iff_lt_or_eq.mp hjk with hj | rfl; exacts [h1 j hij hj, h]⟩
    · rintro ⟨i, hi, h0, h1⟩
      rcases Nat.lt_succ_iff_lt_or_eq.mp hi with hi | rfl
      · exact .inr ⟨h1 k hi (by omega), i, hi, h0, fun j hij hjk => h1 j hij (by omega)⟩
      · exact .inl h0

theorem Ladder.disjoint_iff (l : Ladder) : l.one &&& l.two = 0 ↔ l.Disjoint := by
  constructor
  · intro h k
    have hk : (l.one &&& l.two).getLsbD k = false := by rw [h]; simp
    rwa [BitVec.getLsbD_and, Bool.and_eq_false_iff] at hk
  · intro h
    refine BitVec.eq_of_getLsbD_eq fun k _ => ?_
    rw [BitVec.getLsbD_and, Bool.and_eq_false_iff.mpr (h k)]
    simp

/-- The bits lie below the depth just where no digit stands at it or beyond. -/
theorem Ladder.bits_lt_iff (l : Ladder) (d : Nat) : (l.one ||| l.two).toNat < 2 ^ d ↔ ∀ k, d ≤ k → l.digit k = 0 := by
  have hbit (k : Nat) : l.digit k = 0 ↔ (l.one ||| l.two).toNat.testBit k = false := by
    rw [← BitVec.getLsbD, BitVec.getLsbD_or, Ladder.digit]
    cases l.two.getLsbD k <;> cases l.one.getLsbD k <;> simp
  simp only [hbit]
  constructor
  · exact fun h k hk => Nat.testBit_lt_two_pow (h.trans_le (Nat.pow_le_pow_right two_pos hk))
  · exact fun h => Nat.lt_pow_two_of_testBit _ h

theorem foldl_range_add (f : Nat → Nat) (n : Nat) : (List.range n).foldl (fun s k => s + f k) 0 = ∑ k ∈ Finset.range n, f k := by
  induction n with
  | zero => rfl
  | succ n ih => rw [List.range_succ, List.foldl_concat, ih, Finset.sum_range_succ]

theorem Ladder.value_eq_foldl (l : Ladder) : (List.range 20).foldl (fun s k => s + l.digit k * 2 ^ k) 0 = l.value :=
  foldl_range_add _ 20

theorem Ladder.ok_iff (l : Ladder) : l.ok = true ↔ l.Disjoint ∧ (∀ k, l.d ≤ k → l.digit k = 0) ∧ l.value = l.n.toNat ∧
    ∀ k < 20, l.digit k = 2 → l.Backed k := by
  have hall : (List.range 20).all (fun k => l.digit k != 2 || l.backed k) = true ↔ ∀ k < 20, l.digit k = 2 → l.Backed k := by
    simp only [List.all_eq_true, List.mem_range, Bool.or_eq_true, bne_iff_ne, ← Ladder.backed_iff]
    exact forall₂_congr fun k _ => by tauto
  rw [Ladder.ok]
  simp only [Bool.and_eq_true, hall, Ladder.value_eq_foldl, beq_iff_eq, decide_eq_true_eq, Ladder.bits_lt_iff, Ladder.disjoint_iff, and_assoc]

/-! ## What a step does to them (R219) -/

theorem Ladder.Disjoint.setDigit {l : Ladder} (h : l.Disjoint) {k : Nat} (hk : k < 20) (v : Nat) : (l.setDigit k v).Disjoint := by
  intro j
  rw [Ladder.one_setDigit hk, Ladder.two_setDigit hk]
  by_cases hj : j = k
  · simp only [hj, if_true, decide_eq_false_iff_not]
    omega
  · simpa only [hj, if_false] using h j

theorem Ladder.value_setDigit {l : Ladder} {k v : Nat} (hk : k < 20) (hv : v ≤ 2) :
    (l.setDigit k v).value + l.digit k * 2 ^ k = l.value + v * 2 ^ k := by
  have hmem : k ∈ Finset.range 20 := Finset.mem_range.mpr hk
  have hrest : ∑ j ∈ (Finset.range 20).erase k, (l.setDigit k v).digit j * 2 ^ j = ∑ j ∈ (Finset.range 20).erase k, l.digit j * 2 ^ j :=
    Finset.sum_congr rfl fun j hj => by rw [Ladder.digit_setDigit hk hv, if_neg (Finset.ne_of_mem_erase hj)]
  have hself : (l.setDigit k v).digit k = v := by rw [Ladder.digit_setDigit hk hv, if_pos rfl]
  rw [Ladder.value, Ladder.value, ← Finset.add_sum_erase _ _ hmem, ← Finset.add_sum_erase _ _ hmem, hrest, hself]
  omega

theorem Ladder.value_lt (l : Ladder) : l.value < 2 ^ 21 := by
  have hle : l.value ≤ 2 * ∑ k ∈ Finset.range 20, 2 ^ k := by
    rw [Finset.mul_sum]
    exact Finset.sum_le_sum fun k _ => Nat.mul_le_mul_right _ (l.digit_le k)
  have hlt : ∑ k ∈ Finset.range 20, 2 ^ k < 2 ^ 20 := Nat.geomSum_lt le_rfl fun k => Finset.mem_range.mp
  omega

/-- The ladder with the contribution placed, as it stands before its carry. -/
def Ladder.placed (l : Ladder) : Ladder := l.setDigit 0 (l.digit 0 + 1)

/-- A rung that carries is the lowest of digit 2. -/
theorem Ladder.carry_eq_some {l : Ladder} {k : Nat} (hc : l.carry = some k) :
    k < l.d ∧ l.placed.digit k = 2 ∧ ∀ j < k, l.placed.digit j ≠ 2 := by
  obtain ⟨htwo, hk, hlow⟩ := List.find?_range_eq_some.mp hc
  exact ⟨List.mem_range.mp hk, eq_of_beq htwo, fun j hj => bne_iff_ne.mp (hlow j hj)⟩

theorem Ladder.carry_eq_none {l : Ladder} (hc : l.carry = none) : ∀ j < l.d, l.placed.digit j ≠ 2 := fun j hj h2 =>
  List.find?_eq_none.mp hc j (List.mem_range.mpr hj) (beq_iff_eq.mpr h2)

/-- The ladder after the carry of a rung, the count of contributions aside. -/
def Ladder.carried (l : Ladder) (k : Nat) : Ladder := (l.placed.setDigit k 0).setDigit (k + 1) (l.placed.digit (k + 1) + 1)

section
variable {l : Ladder} (hback : ∀ k < 20, l.digit k = 2 → l.Backed k)
include hback

/-- Nothing stands below rung 0, which therefore holds no 2. -/
theorem Ladder.digit_zero_le : l.digit 0 ≤ 1 := by
  by_contra hc
  obtain ⟨i, hi, -⟩ := hback 0 (by decide) (by have := l.digit_le 0; omega)
  exact absurd hi (Nat.not_lt_zero i)

theorem Ladder.digit_placed (j : Nat) : l.placed.digit j = if j = 0 then l.digit 0 + 1 else l.digit j :=
  Ladder.digit_setDigit (by decide) (by have := Ladder.digit_zero_le hback; omega) j

theorem Ladder.value_placed : l.placed.value = l.value + 1 := by
  have := Ladder.value_setDigit (l := l) (k := 0) (v := l.digit 0 + 1) (by decide) (by have := Ladder.digit_zero_le hback; omega)
  rw [Ladder.placed]
  omega

/-- The rung above the one that carries takes one more: a 2 there would have stood on a digit below 2. -/
theorem Ladder.digit_above_carry {k : Nat} (hk : k + 1 < 20) (htwo : l.placed.digit k = 2) : l.placed.digit (k + 1) ≤ 1 := by
  rw [Ladder.digit_placed hback] at htwo ⊢
  rw [if_neg (Nat.succ_ne_zero k)]
  by_contra hc
  obtain ⟨i, hi, h0, h1⟩ := hback (k + 1) hk (by have := l.digit_le (k + 1); omega)
  rcases Nat.lt_succ_iff_lt_or_eq.mp hi with hlt | rfl
  · have := h1 k hlt (by omega)
    split at htwo <;> grind
  · split at htwo <;> grind

section
variable {k : Nat} (hk : k + 1 < 20) (htwo : l.placed.digit k = 2)
include hk htwo

theorem Ladder.digit_carried (j : Nat) : (l.carried k).digit j =
    if j = k + 1 then l.placed.digit (k + 1) + 1 else if j = k then 0 else l.placed.digit j := by
  have := Ladder.digit_above_carry hback hk htwo
  rw [Ladder.carried, Ladder.digit_setDigit hk (by omega), Ladder.digit_setDigit (by omega) (by omega)]

theorem Ladder.value_carried : (l.carried k).value = l.value + 1 := by
  have habove := Ladder.digit_above_carry hback hk htwo
  have h1 := Ladder.value_setDigit (l := l.placed) (k := k) (v := 0) (by omega) (by omega)
  have h2 := Ladder.value_setDigit (l := l.placed.setDigit k 0) (k := k + 1) (v := l.placed.digit (k + 1) + 1) hk (by omega)
  rw [Ladder.digit_setDigit (by omega) (by omega), if_neg (by omega)] at h2
  rw [htwo] at h1
  have := Ladder.value_placed hback
  rw [Ladder.carried]
  have hpow : (l.placed.digit (k + 1) + 1) * 2 ^ (k + 1) = l.placed.digit (k + 1) * 2 ^ (k + 1) + 2 * 2 ^ k := by ring
  omega

/-- A 2 that is left after the carry stands as it did, or on the 0 that the carry leaves. -/
theorem Ladder.backed_carried (hlow : ∀ j < k, l.placed.digit j ≠ 2) {j : Nat} (hj : j < 20) (h2 : (l.carried k).digit j = 2) :
    (l.carried k).Backed j := by
  have hdig := Ladder.digit_carried hback hk htwo
  have hplaced := Ladder.digit_placed hback
  have habove := Ladder.digit_above_carry hback hk htwo
  have hzero : (l.carried k).digit k = 0 := by rw [hdig, if_neg (by omega), if_pos rfl]
  rcases Nat.lt_trichotomy j (k + 1) with hlt | rfl | hgt
  · have hjk : j ≠ k := by
      rintro rfl
      omega
    rw [hdig, if_neg (by omega), if_neg hjk] at h2
    exact absurd h2 (hlow j (by omega))
  · exact ⟨k, by omega, hzero, by omega⟩
  · rw [hdig, if_neg (by omega), if_neg (by omega), hplaced, if_neg (by omega)] at h2
    obtain ⟨i, hi, h0, h1⟩ := hback j hj h2
    have hsame (t : Nat) (ht : k + 1 < t) : (l.carried k).digit t = l.digit t := by
      rw [hdig, if_neg (by omega), if_neg (by omega), hplaced, if_neg (by omega)]
    rcases Nat.lt_trichotomy i (k + 1) with hik | rfl | hik
    · have hk2 : l.digit k ≤ 1 := by
        rcases Nat.lt_succ_iff_lt_or_eq.mp hik with hlt | rfl
        · exact (h1 k hlt (by omega)).le
        · omega
      rw [hplaced] at htwo
      obtain rfl : k = 0 := by
        by_contra hne
        rw [if_neg hne] at htwo
        omega
      obtain rfl : i = 0 := by omega
      rw [if_pos rfl] at htwo
      omega
    · refine ⟨k, by omega, hzero, fun t hkt htj => ?_⟩
      rcases Nat.lt_or_eq_of_le (Nat.succ_le_of_lt hkt) with ht | rfl
      · rw [hsame t ht, h1 t ht htj]
      · rw [hdig, if_pos rfl, hplaced, if_neg (by omega), h0]
    · exact ⟨i, hi, by rw [hsame i hik, h0], fun t hit htj => by rw [hsame t (by omega), h1 t hit htj]⟩

end

end

/-! ## The step (R219, R220, R222) -/

theorem Ladder.stepped_of_no_carry {l : Ladder} (hc : l.carry = none) : l.stepped = { l.placed with n := l.n + 1 } := by
  rw [Ladder.stepped, hc]
  rfl

theorem Ladder.stepped_of_carry {l : Ladder} {k : Nat} (hc : l.carry = some k) : l.stepped = { l.carried k with n := l.n + 1 } := by
  rw [Ladder.stepped, hc]
  rfl

/-- A step keeps what the digits do not make. -/
theorem Ladder.stepped_keeps (l : Ladder) :
    l.stepped.n = l.n + 1 ∧ l.stepped.depth = l.depth ∧ l.stepped.ptr = l.ptr ∧ l.stepped.ver = l.ver := by
  cases hc : l.carry with
  | none =>
    rw [Ladder.stepped_of_no_carry hc]
    exact ⟨rfl, rfl, rfl, rfl⟩
  | some k =>
    rw [Ladder.stepped_of_carry hc]
    exact ⟨rfl, rfl, rfl, rfl⟩

/-- The count of contributions has room: the digits of 20 rungs stand for fewer than 2^21 (R218). -/
theorem Ladder.n_succ {l : Ladder} (h : l.value = l.n.toNat) : (l.n + 1).toNat = l.n.toNat + 1 := by
  have := l.value_lt
  rw [BitVec.toNat_add]
  exact Nat.mod_eq_of_lt (show l.n.toNat + 1 < 2 ^ 32 by omega)

theorem Ladder.stepped_ok {l : Ladder} (hd : 1 ≤ l.d) (hd20 : l.d ≤ 20) (h : l.ok = true) (hs : l.stepOk = true) : l.stepped.ok = true := by
  obtain ⟨hdis, hdepth, hval, hback⟩ := l.ok_iff.mp h
  have hn := Ladder.n_succ hval
  have hplaced := Ladder.digit_placed hback
  have hdisPlaced : l.placed.Disjoint := hdis.setDigit (by decide) _
  rw [Ladder.ok_iff]
  cases hc : l.carry with
  | none =>
    have hnone := Ladder.carry_eq_none hc
    rw [Ladder.stepped_of_no_carry hc]
    refine ⟨hdisPlaced, fun k (hk : l.d ≤ k) => ?_, ?_, fun k hk htwo => ?_⟩
    · exact (hplaced k).trans ((if_neg (by omega)).trans (hdepth k hk))
    · exact (Ladder.value_placed hback).trans (by rw [hval]; exact hn.symm)
    · have htwo : l.placed.digit k = 2 := htwo
      rcases Nat.lt_or_ge k l.d with hlt | hge
      · exact absurd htwo (hnone k hlt)
      · rw [hplaced, if_neg (by omega), hdepth k hge] at htwo
        exact absurd htwo (by decide)
  | some c =>
    obtain ⟨-, htwo, hlow⟩ := Ladder.carry_eq_some hc
    have hcd : c + 1 < l.d := by
      rw [Ladder.stepOk, hc] at hs
      exact of_decide_eq_true hs
    have hc20 : c + 1 < 20 := by omega
    have hdig := Ladder.digit_carried hback hc20 htwo
    rw [Ladder.stepped_of_carry hc]
    refine ⟨(hdisPlaced.setDigit (by omega) _).setDigit hc20 _, fun k (hk : l.d ≤ k) => ?_, ?_,
      fun k hk htwo' => Ladder.backed_carried hback hc20 htwo hlow hk htwo'⟩
    · refine (hdig k).trans ?_
      rw [if_neg (by omega), if_neg (by omega), hplaced, if_neg (by omega), hdepth k hk]
    · exact (Ladder.value_carried hback hc20 htwo).trans (by rw [hval]; exact hn.symm)

/-- Settles O49: a step either only places its contribution, or carries from the lowest 2 into a rung that has room. -/
theorem ladderDigits : Obligations.LadderDigits := by
  intro l hd hd20 h hs
  obtain ⟨-, hdepth, hval, hback⟩ := l.ok_iff.mp h
  obtain ⟨hn, hkept⟩ := l.stepped_keeps
  exact ⟨Ladder.stepped_ok hd hd20 h hs, by rw [hn, Ladder.n_succ hval], hkept.1, hkept.2.1, hkept.2.2, fun k _ => l.digit_le k,
    fun k hk _ => hdepth k hk, Ladder.digit_zero_le hback⟩

end Sys2Proof.Machine
end

section
/-! PROOFS. Lifting Haar: a pair, its average and detail, and the way back, whatever wraps (R240). -/
namespace Sys2Proof.Machine

/-! ## The integer a level value stands for (R240) -/

theorem wrapInt_cast (w : Nat) (x : Int) : (wrapInt w x : Int) = x % 2 ^ w :=
  Int.toNat_of_nonneg (Int.emod_nonneg _ (by positivity))

theorem intOf_eq_bmod {w : Nat} (hw : 0 < w) (x : Nat) : intOf true w x = (x : Int).bmod (2 ^ w) := by
  obtain ⟨n, rfl⟩ : ∃ n, w = n + 1 := ⟨w - 1, by omega⟩
  rw [intOf, Int.bmod_def, ← Int.natCast_mod]
  have hhalf : (2 : Nat) ^ (n + 1) = 2 * 2 ^ n := by ring
  simp only [Bool.true_and, decide_eq_true_eq, Nat.add_sub_cancel, hhalf]
  split <;> split <;> push_cast <;> omega

/-- A value that fits is the integer of every number equal to it modulo 2^w. -/
theorem intOf_eq_of_emod {w x : Nat} {v : Int} (hw : 0 < w) (hx : (x : Int) = v % 2 ^ w) (h0 : -(2 : Int) ^ (w - 1) ≤ v)
    (h1 : v < 2 ^ (w - 1)) : intOf true w x = v := by
  have hhalf : (2 : Int) ^ w = 2 * 2 ^ (w - 1) := by rw [← pow_succ', Nat.sub_add_cancel hw]
  rw [intOf_eq_bmod hw, hx]
  have := Int.emod_bmod v (2 ^ w)
  push_cast at this
  rw [this]
  refine Int.bmod_eq_of_le ?_ ?_ <;> push_cast <;> omega

theorem intOf_emod {w : Nat} (hw : 0 < w) (x : Nat) : (intOf true w x : Int) % 2 ^ w = (x : Int) % 2 ^ w := by
  have := Int.bmod_emod (x := x) (m := 2 ^ w)
  rw [intOf_eq_bmod hw]
  exact_mod_cast this

theorem intOf_bounds {w : Nat} (hw : 0 < w) (x : Nat) : -(2 : Int) ^ (w - 1) ≤ intOf true w x ∧ intOf true w x < 2 ^ (w - 1) := by
  have hhalf : (2 : Nat) ^ w = 2 * 2 ^ (w - 1) := by rw [← pow_succ', Nat.sub_add_cancel hw]
  have hlt : x % 2 ^ w < 2 ^ w := Nat.mod_lt _ (by positivity)
  rw [intOf]
  simp only [Bool.true_and, decide_eq_true_eq]
  split
  · zify at *
    omega
  · zify at *
    omega

/-! ## A pair and its average and detail (R240) -/

section
variable {ty x0 x1 a d : Nat} (hh : halving ty = false)
include hh

theorem pairDown_lifting : ((pairDown ty x0 x1).2 : Int) = ((x0 : Int) - x1) % 2 ^ tyBits ty ∧
    ((pairDown ty x0 x1).1 : Int) = ((x1 : Int) + intOf true (tyBits ty) (pairDown ty x0 x1).2 / 2) % 2 ^ tyBits ty := by
  simp only [pairDown, hh, Bool.false_eq_true, if_false, wrapInt_cast, sarHalf, Int.add_emod_emod, and_self]

theorem pairUp_lifting : ((pairUp ty a d).2 : Int) = ((a : Int) - intOf true (tyBits ty) d / 2) % 2 ^ tyBits ty ∧
    ((pairUp ty a d).1 : Int) = ((d : Int) + (pairUp ty a d).2) % 2 ^ tyBits ty := by
  simp only [pairUp, hh, Bool.false_eq_true, if_false, wrapInt_cast, sarHalf, Int.sub_emod_emod, and_self]

theorem pairUp_pairDown (h0 : x0 < 2 ^ tyBits ty) (h1 : x1 < 2 ^ tyBits ty) :
    pairUp ty (pairDown ty x0 x1).1 (pairDown ty x0 x1).2 = (x0, x1) := by
  obtain ⟨hd, ha⟩ := pairDown_lifting (x0 := x0) (x1 := x1) hh
  obtain ⟨hu1, hu0⟩ := pairUp_lifting (a := (pairDown ty x0 x1).1) (d := (pairDown ty x0 x1).2) hh
  rw [ha, Int.emod_sub_emod, add_sub_cancel_right, Int.emod_eq_of_lt (by omega) (by exact_mod_cast h1)] at hu1
  rw [hd, hu1, Int.emod_add_emod, sub_add_cancel, Int.emod_eq_of_lt (by omega) (by exact_mod_cast h0)] at hu0
  exact Prod.ext (by exact_mod_cast hu0) (by exact_mod_cast hu1)

end

theorem tyBits_pos (ty : Nat) : 0 < tyBits ty := by
  unfold tyBits
  split <;> decide

/-- Without a wrap the average is the floor and the detail the undivided difference. -/
theorem intOf_pairDown {ty x0 x1 : Nat} {i : Nat → Int} (hi : i = intOf true (tyBits ty)) (hh : halving ty = false)
    (hlo : -(2 : Int) ^ (tyBits ty - 1) ≤ i x0 - i x1) (hhi : i x0 - i x1 < 2 ^ (tyBits ty - 1)) :
    i (pairDown ty x0 x1).1 = (i x0 + i x1) / 2 ∧ i (pairDown ty x0 x1).2 = i x0 - i x1 := by
  subst hi
  have hw := tyBits_pos ty
  obtain ⟨hd, ha⟩ := pairDown_lifting (x0 := x0) (x1 := x1) hh
  have hdet := intOf_eq_of_emod hw (by rw [hd, Int.sub_emod, ← intOf_emod hw x0, ← intOf_emod hw x1, ← Int.sub_emod]) hlo hhi
  obtain ⟨hl0, hu0⟩ := intOf_bounds hw x0
  obtain ⟨hl1, hu1⟩ := intOf_bounds hw x1
  refine ⟨?_, hdet⟩
  generalize hx0 : intOf true (tyBits ty) x0 = y0, hx1 : intOf true (tyBits ty) x1 = y1 at *
  have havg : y1 + (y0 - y1) / 2 = (y0 + y1) / 2 := by omega
  rw [← havg]
  refine intOf_eq_of_emod hw ?_ (by omega) (by omega)
  rw [ha, hdet, ← Int.emod_add_emod, ← intOf_emod hw x1, hx1, Int.emod_add_emod]

/-- Settles O43: both ways are sums modulo 2^w that cancel, whatever half of the detail is. -/
theorem liftingIsReversible : Obligations.LiftingIsReversible := by
  intro ty hh w i
  refine ⟨fun x0 x1 h0 h1 => ?_, fun a d _ _ => pairUp_lifting hh⟩
  obtain ⟨hd, ha⟩ := pairDown_lifting (x0 := x0) (x1 := x1) hh
  exact ⟨hd, ha, pairUp_pairDown hh h0 h1, fun ⟨hlo, hhi⟩ => intOf_pairDown rfl hh hlo hhi⟩

end Sys2Proof.Machine
end

section
/-! PROOFS. When a barrier phase completes, what follows it, and the bytes a completed command takes off (R285, R289, R293, R294). -/
namespace Sys2Proof.Machine

/-! ## Barriers and their phases (R285, R289, R293, R294) -/

/-- A barrier changed, whether or not its entry was there. -/
theorem Mach.bar_updBar_self {m : Mach} {vd : Nat} (h : (m.vd? vd).isSome = true) (k : Nat) (f : Barrier → Barrier) :
    (m.updBar vd k f).bar vd k = f (m.bar vd k) := by
  rw [Mach.bar, Mach.updBar, Mach.vd_updVd h]
  simp [Mach.bar]

/-- A new number of the outside's intervals leaves every barrier. -/
theorem Mach.bar_bumpVg (m : Mach) (vd w k : Nat) : (m.bumpVg vd).bar w k = m.bar w k := by
  rw [Mach.bar, Mach.bar, Mach.vd, Mach.vd, Mach.bumpVg]
  by_cases hw : w = vd
  · subst hw
    cases h : m.vd? w <;> simp [h]
  · exact congrArg (fun o => (tget (Option.getD o {}).bars k).getD {}) (tget_tupd_ne m.vds vd w _ hw)

/-- The phase is complete: nothing is missing of an active barrier that is neither broken nor an orphan (R294). -/
def Barrier.complete (b : Barrier) : Bool := b.act && !b.orph && !b.brk && b.arr == b.exp && b.pend == 0

theorem Barrier.complete_iff {b : Barrier} :
    b.complete = true ↔ b.act = true ∧ b.orph = false ∧ b.brk = false ∧ b.arr = b.exp ∧ b.pend = 0 := by
  simp [Barrier.complete, and_assoc]

/-- The barrier after a phase completes (R294). -/
def Barrier.nextPhase (b : Barrier) : Barrier :=
  { b with
    gen := b.gen + 1, arr := b.harr, pend := b.hpend, harr := 0, hpend := 0, exp := b.live
    past := ((b.gen, b.now) :: b.past).take 4, now := b.next, next := {}
    dirty := decide (b.harr > 0) || decide (b.hpend > 0) }

section
variable {m : Mach} {vd : Nat} (h : (m.vd? vd).isSome = true) (k : Nat)
include h

theorem Mach.bar_testBar : (m.testBar vd k).bar vd k =
    if (m.bar vd k).complete then (m.bar vd k).nextPhase else { m.bar vd k with dirty := false } := by
  unfold Mach.testBar
  extract_lets b again
  by_cases hc : b.complete = true
  · exact (congrArg (Mach.bar · vd k) (if_pos hc)).trans
      ((Mach.bar_bumpVg ..).trans ((Mach.bar_updBar_self h k _).trans (if_pos hc).symm))
  · exact (congrArg (Mach.bar · vd k) (if_neg hc)).trans ((Mach.bar_updBar_self h k _).trans (if_neg hc).symm)

theorem Mach.bar_subBytes_current {n : Nat} (hn : 0 < n) : (m.subBytes vd k (m.bar vd k).gen n).bar vd k =
    { m.bar vd k with dirty := true, pend := (m.bar vd k).pend - n, brk := (m.bar vd k).brk || decide ((m.bar vd k).pend < n) } := by
  rw [Mach.subBytes, Mach.bar_updBar_self h]
  simp [Nat.pos_iff_ne_zero.mp hn]

theorem Mach.bar_subBytes_horizon {n : Nat} (hn : 0 < n) : (m.subBytes vd k ((m.bar vd k).gen + 1) n).bar vd k =
    { m.bar vd k with dirty := true, hpend := (m.bar vd k).hpend - n, brk := (m.bar vd k).brk || decide ((m.bar vd k).hpend < n) } := by
  rw [Mach.subBytes, Mach.bar_updBar_self h]
  simp [Nat.pos_iff_ne_zero.mp hn]

end

/-- The generation just left has passed, and the current one has not. -/
theorem Barrier.passed_nextPhase (b : Barrier) : b.nextPhase.passed b.gen = true ∧ b.passed b.gen = false := by
  have hone : b.gen + 1 - b.gen = 1 := by bv_omega
  constructor
  · rw [Barrier.passed, Barrier.nextPhase, hone]
    rfl
  · simp [Barrier.passed]

/-- Settles O31: a test either starts the next phase or only notes that it was made; a command's bytes come off the phase it names. -/
theorem barrierPhases : Obligations.BarrierPhases := by
  intro m vd k h b
  refine ⟨fun hact horph hbrk harr hpend => ?_, fun hopen => ?_, fun n hn => ?_⟩
  · have hc : (m.testBar vd k).bar vd k = b.nextPhase := by
      rw [Mach.bar_testBar h, if_pos (Barrier.complete_iff.mpr ⟨hact, horph, hbrk, harr, hpend⟩)]
    obtain ⟨hpast, hnow⟩ := b.passed_nextPhase
    rw [hc]
    exact ⟨rfl, rfl, rfl, rfl, rfl, rfl, rfl, hpast, hnow⟩
  · have hnot : ¬ b.complete = true := by
      rw [Barrier.complete_iff]
      grind
    rw [Mach.bar_testBar h, if_neg hnot]
    exact ⟨rfl, rfl, rfl, rfl, rfl⟩
  · rw [Mach.bar_subBytes_current h k hn, Mach.bar_subBytes_horizon h k hn]
    exact ⟨rfl, rfl, rfl, rfl⟩

end Sys2Proof.Machine
end

section
/-! PROOFS. An ec that stops at a faulting word, and the report of the stop in the save area (R391-R393, R397, R399). -/
namespace Sys2Proof.Machine

/-! ## The report in the save area (R393) -/

theorem natLE_getD (n x k : Nat) (h : k < n) : (natLE n x).getD k 0 = BitVec.ofNat 8 (x / 2 ^ (8 * k)) := by
  induction n generalizing x k with
  | zero => omega
  | succ n ih =>
    cases k with
    | zero => simp [natLE]
    | succ k =>
      rw [natLE, List.getD_cons_succ, ih _ _ (by omega), Nat.div_div_eq_div_mul, show 8 * (k + 1) = 8 + 8 * k by ring, pow_add]
      rfl

/-- The bytes of a number written, one by one. -/
theorem Memory.get_write_natLE {mem : Memory} (h : Memory.wf mem = true) (a : Nat) {n k : Nat} (x : Nat) (hk : k < n) :
    Memory.get (Memory.write mem a (natLE n x)) (a + k) = BitVec.ofNat 8 (x / 2 ^ (8 * k)) := by
  have hlen : k < (natLE n x).length := (natLE_length n x).symm ▸ hk
  rw [Memory.get_write _ _ _ _ h hlen, ← natLE_getD n x k hk]
  simp [hlen]

section
variable {m : Mach} {g : Nat} {x : Gang} {rep : Report} (hx : m.gang? g = some x) (hk : x.killed = false) (hr : x.report = some rep)
include hx hk hr

theorem Mach.postStop_eq :
    m.postStop g = ((Mach.updGang { m with dev := Memory.write m.dev (x.save.toNat + 64) (natLE 48 rep.bits) } g
      (fun x => { x with run := .stopped })).bumpVg x.vd).notify (.stop g) := by
  simp only [Mach.postStop, hx, hk, hr, Bool.false_eq_true, if_false]

theorem Mach.dev_postStop : (m.postStop g).dev = Memory.write m.dev (x.save.toNat + 64) (natLE 48 rep.bits) := by
  rw [Mach.postStop_eq hx hk hr, Mach.notify_dev, Mach.bumpVg, Mach.updVd_dev, Mach.updGang_dev]

theorem Mach.run_postStop : ((m.postStop g).gang? g).map (·.run) = some .stopped := by
  rw [Mach.postStop_eq hx hk hr, Mach.gang?_of_gangs (m := Mach.notify _ _) (k := m.updGang g fun x => { x with run := .stopped }) rfl,
    Mach.gang?_updGang_self, hx]
  rfl

end

/-- Where the fields of a report lie among its 384 bits (R393). -/
theorem Report.bits_fields (r : Report) : r.bits % 256 = 1 ∧ r.bits / 2 ^ 72 % 256 = r.cause.toNat ∧
    r.bits / 2 ^ 192 % 2 ^ 64 = r.addr.toNat ∧ r.bits / 2 ^ 98 % 2 ^ 14 = r.pc.toNat ∧ r.bits / 2 ^ 96 % 4 = r.strm.toNat ∧
    r.bits / 2 ^ 90 % 64 = r.rank.toNat ∧ r.bits / 2 ^ 8 % 2 ^ 64 = r.time.toNat ∧ r.bits / 2 ^ 128 % 2 ^ 16 = r.code.toNat := by
  have h1 := r.time.isLt
  have h2 := r.cause.isLt
  have h3 := r.kind.isLt
  have h4 := r.gang.isLt
  have h5 := r.rank.isLt
  have h6 := r.strm.isLt
  have h7 := r.pc.isLt
  have h8 := r.code.isLt
  have h9 := r.goix.isLt
  have h10 := r.resume.isLt
  have h11 := r.addr.isLt
  unfold Report.bits
  split_ands
  all_goals omega

/-- Settles O37: the end of a stop is one write of the report, one of the gang's state, and one notice. -/
theorem reportOfAStop : Obligations.ReportOfAStop := by
  intro m g x rep hx hk hr hwf
  have hdev := Mach.dev_postStop hx hk hr
  refine ⟨fun n hn => ?_, fun a ha => ?_, Mach.run_postStop hx hk hr, ?_, ?_, rep.bits_fields⟩
  · rw [hdev, Memory.get_write_natLE hwf _ _ hn]
  · rw [hdev, Memory.get_write_ne]
    rw [natLE_length]
    omega
  · rw [Mach.postStop_eq hx hk hr]
    rfl
  · rw [Mach.postStop_eq hx hk hr]
    rfl

/-! ## An ec that stops at a faulting word (R391-R393) -/

theorem State.plan_of_issued {s : State} {i : Issue} (hi : s.iss = some i) (hs : i.slots = []) : s.plan = .quiet (s.closeEc i) := by
  simp only [State.plan, hi, hs]

theorem State.closeEc_of_reported {s : State} {i : Issue} {x : Gang} {f : WordFault} (hx : s.m.gang? i.gang = some x) (hh : i.holds = [])
    (hf : reported (i.faults ++ i.viewFaults s.m x ++ i.yieldFaults x) = some f) :
    s.closeEc i = { s with m := i.stop s.m x f, iss := none } := by
  simp only [State.closeEc, hx, hh, hf, List.isEmpty_nil, Bool.not_true, Bool.false_eq_true, if_false]

theorem Mach.hits_of_no_inFlight {m : Mach} {a : Agent} (h : m.inFlight a = none) : m.hits.contains a = false := by
  by_contra hc
  rw [Bool.not_eq_false] at hc
  unfold Mach.inFlight at h
  rw [if_pos hc] at h
  exact nomatch h

/-- A stop at a word that faults of itself: no error that stands in flight comes before it. -/
theorem Issue.stop_of_word {i : Issue} {m : Mach} {x : Gang} {f : WordFault} (h : (i.undo m).inFlight f.agent = none) :
    i.stop m x f =
      let u := i.undo m
      let v := (if f.exc.trap then u.updSeq f.agent (fun q => q.updRegs .s (fun r => { r with pc := f.pc + 1 })) else u).takeStop i.gang
        (x.mkReport m.time (rankOf f.agent) f.agent.strm f.pc 0 f.exc)
      if f.exc.halt then v.haltOthers f.agent else v := by
  unfold Issue.stop
  extract_lets u r rep u1 u2 v
  rw [if_neg (by rw [Mach.hits_of_no_inFlight h]; exact Bool.false_ne_true)]
  split
  · next hh => exact nomatch h.symm.trans hh
  · rfl

theorem Mach.gang?_takeStop_self {m : Mach} {g : Nat} (h : (m.gang? g).isSome = true) (rep : Report) :
    ((m.takeStop g rep).gang? g).map (fun y => (y.run, y.report, y.causes)) = some (.draining .stop, some rep, []) := by
  obtain ⟨x, hx⟩ := Option.isSome_iff_exists.mp h
  rw [Mach.takeStop, Mach.gang?_updGang_self, hx]
  rfl

/-- Settles O36: an ec with a fault and no wait closes with a stop, whose report is made of the fault's word. -/
theorem takingTheStop : Obligations.TakingTheStop := by
  intro s i x f hi hs hh hx hf hflight rep u v
  refine ⟨?_, rfl, rfl, rfl, rfl, rfl, rfl, fun m hm => ⟨Mach.gang?_takeStop_self hm rep, fun h hne => ?_⟩⟩
  · rw [step_of_plan_quiet (State.plan_of_issued hi hs), State.closeEc_of_reported hx hh hf, Issue.stop_of_word (hflight f.agent)]
  · exact Mach.gang?_updGang_ne m i.gang h _ hne

end Sys2Proof.Machine
end

section
/-! PROOFS. What a commit to device memory writes, and what it leaves (R264, R278, R282, R408, R412). -/
namespace Sys2Proof.Machine

/-! ## What an access leaves before its commit point -/

/-- From `m` on, nothing has been written: the memories, the dies and the management core stand, and the queue has the same entries.
When `p` holds, the gangs and the virtual devices stand too. -/
structure Mach.Unwritten (p : Prop) (m k : Mach) : Prop where
  dev : k.dev = m.dev
  host : k.host = m.host
  dies : k.dies = m.dies
  mgmt : k.mgmt = m.mgmt
  keys : k.queue.map (·.1) = m.queue.map (·.1)
  gangs : p → k.gangs = m.gangs ∧ k.vds = m.vds

section
variable {p : Prop} {m k k' : Mach}

theorem Mach.Unwritten.refl : Mach.Unwritten p m m := ⟨rfl, rfl, rfl, rfl, rfl, fun _ => ⟨rfl, rfl⟩⟩

theorem Mach.Unwritten.trans (h : Mach.Unwritten p m k) (h' : Mach.Unwritten p k k') : Mach.Unwritten p m k' :=
  ⟨h'.dev.trans h.dev, h'.host.trans h.host, h'.dies.trans h.dies, h'.mgmt.trans h.mgmt, h'.keys.trans h.keys,
    fun hp => ⟨(h'.gangs hp).1.trans (h.gangs hp).1, (h'.gangs hp).2.trans (h.gangs hp).2⟩⟩

theorem Mach.Unwritten.ite {q : Prop} [Decidable q] (h : Mach.Unwritten p m k) (h' : Mach.Unwritten p m k') :
    Mach.Unwritten p m (if q then k else k') := ite_keeps h h'

theorem Mach.Unwritten.both {m' : Mach} {q : Prop} [Decidable q] (h : Mach.Unwritten p m k) (h' : Mach.Unwritten p m' k') :
    Mach.Unwritten p (if q then m else m') (if q then k else k') := by
  split
  · exact h
  · exact h'

/-- What changes only the gangs and the virtual devices, where these need not stand. -/
theorem Mach.Unwritten.free (h : Mach.Unwritten p m k) (hp : ¬ p) (hdev : k'.dev = k.dev := by rfl) (hhost : k'.host = k.host := by rfl)
    (hdies : k'.dies = k.dies := by rfl) (hmgmt : k'.mgmt = k.mgmt := by rfl) (hqueue : k'.queue = k.queue := by rfl) :
    Mach.Unwritten p m k' :=
  ⟨hdev.trans h.dev, hhost.trans h.host, hdies.trans h.dies, hmgmt.trans h.mgmt, (congrArg _ hqueue).trans h.keys, fun hyes => absurd hyes hp⟩

/-- What changes only the bookkeeping. -/
theorem Mach.Unwritten.congr (h : Mach.Unwritten p m k) (hdev : k'.dev = k.dev := by rfl) (hhost : k'.host = k.host := by rfl)
    (hdies : k'.dies = k.dies := by rfl) (hmgmt : k'.mgmt = k.mgmt := by rfl) (hqueue : k'.queue = k.queue := by rfl)
    (hgangs : k'.gangs = k.gangs := by rfl) (hvds : k'.vds = k.vds := by rfl) : Mach.Unwritten p m k' :=
  ⟨hdev.trans h.dev, hhost.trans h.host, hdies.trans h.dies, hmgmt.trans h.mgmt, (congrArg _ hqueue).trans h.keys,
    fun hp => ⟨hgangs.trans (h.gangs hp).1, hvds.trans (h.gangs hp).2⟩⟩

theorem Mach.Unwritten.prune {id : Nat} (h : Mach.Unwritten p m k) : Mach.Unwritten p m (k.prune id) := h.ite h.congr
theorem Mach.Unwritten.hear {w : Who} {l : List RelVal} (h : Mach.Unwritten p m k) : Mach.Unwritten p m (k.hear w l) := h.ite h.congr
theorem Mach.Unwritten.readEarly {q : QEntry} (h : Mach.Unwritten p m k) : Mach.Unwritten p m (k.readEarly q) := h.ite h.congr
theorem Mach.Unwritten.acquireOf {w : Who} {sco : Nat} {l : List RelVal} (h : Mach.Unwritten p m k) :
    Mach.Unwritten p m (k.acquireOf w sco l) := .ite h.congr h.hear

theorem Mach.Unwritten.fillReply {id : Nat} {bytes : List (Nat × Byte)} {fault : Option (BitVec 8 × Word × BitVec 128)} {own : Bool} {n : Nat}
    (h : Mach.Unwritten p m k) : Mach.Unwritten p m (k.fillReply id bytes fault own n) := by
  unfold Mach.fillReply
  split
  · exact h
  · exact .ite h.congr h.congr

theorem Mach.Unwritten.readView {w : Who} {l : Loc} {n i va : Nat} (h : Mach.Unwritten p m k) :
    Mach.Unwritten p m (k.readView w l n i va).2 := by
  unfold Mach.readView
  split
  · exact h
  · split
    · exact h
    · split
      · exact h
      · exact .ite h.congr h

theorem Mach.Unwritten.markSeen {id : Nat} {q : QEntry} (h : Mach.Unwritten p m k) : Mach.Unwritten p m (k.markSeen id q) :=
  h.ite ⟨h.dev, h.host, h.dies, h.mgmt, (by rw [List.map_map]; rfl : _ = k.queue.map (·.1)).trans h.keys, h.gangs⟩

theorem Mach.Unwritten.renewCopy {w : Who} {l : Loc} (h : Mach.Unwritten p m k) : Mach.Unwritten p m (k.renewCopy w l) := by
  unfold Mach.renewCopy
  split
  · exact h
  · split
    · exact h
    · exact h.congr

theorem Mach.Unwritten.noteWrite {q : QEntry} (h : Mach.Unwritten p m k) : Mach.Unwritten p m (k.noteWrite q) := h.congr

/-! ### The race checker, where the gangs need not stand -/

theorem Mach.Unwritten.learnPv (h : Mach.Unwritten p m k) (hp : ¬ p) {g r : Nat} : Mach.Unwritten p m (k.learnPv g r) := by
  unfold Mach.learnPv
  split
  · exact h
  · exact h.free hp

theorem Mach.Unwritten.learnOutside (h : Mach.Unwritten p m k) (hp : ¬ p) {g r : Nat} : Mach.Unwritten p m (k.learnOutside g r) := by
  unfold Mach.learnOutside
  split
  · exact h
  · exact h.free hp

theorem Mach.Unwritten.raceAcquireFence (h : Mach.Unwritten p m k) (hp : ¬ p) {g r : Nat} :
    Mach.Unwritten p m (k.raceAcquireFence g r) := ((h.learnPv hp).learnOutside hp).free hp

theorem Mach.Unwritten.raceRelease (h : Mach.Unwritten p m k) (hp : ¬ p) {g r sco iv : Nat} :
    Mach.Unwritten p m (k.raceRelease g r sco iv none) := by
  unfold Mach.raceRelease
  split
  · exact .ite (h.free hp) (h.free hp)
  · exact h

theorem Mach.Unwritten.bumpOf (h : Mach.Unwritten p m k) (hp : ¬ p) {q : QEntry} : Mach.Unwritten p m (q.bumpOf k) := by
  unfold QEntry.bumpOf
  split
  · exact h.free hp
  · exact h

end

/-! ## Device memory without a line in error (R404, R409-R412) -/

section
variable {m : Mach} (hf : m.faulty = [])
include hf

theorem Mach.badLines_of_sound (pa n : Nat) : m.badLines pa n = [] := if_pos (by rw [hf]; rfl)

theorem Mach.mend_of_sound (l : Loc) (n : Nat) : m.mend l n = m := by
  unfold Mach.mend
  split
  · rw [Mach.heldLines, Mach.badLines_of_sound hf]
    rfl
  · rfl

theorem Mach.mendAll_of_sound (l : List Nat) : l.foldl (fun m q => m.mend (.dev (64 * q)) 64) m = m := by
  induction l with
  | nil => rfl
  | cons q l ih => rw [List.foldl_cons, Mach.mend_of_sound hf, ih]

theorem Mach.logBad_of_sound (pa n : Nat) : m.logBad (.dev pa) n = m := by
  rw [Mach.logBad, Mach.badLines_of_sound hf]
  rfl

theorem Mach.walkLost_of_sound (l : List Nat) : m.walkLost l = false := by
  simp [Mach.walkLost, Mach.lineError, Mach.badLines_of_sound hf]

/-- Only a failed transfer is an error then. -/
theorem Mach.locError_of_sound (vd pa n : Nat) (write : Bool) :
    m.locError vd (.dev pa) n write = m.bad.any (fun f => linkHits f pa n) := by
  simp [Mach.locError, Mach.lineError, Mach.badLines_of_sound hf]

end

/-! ## A commit (R264) -/

/-- An access that is no release or acquire, and whose transfer does not fail. -/
def QEntry.Plain (q : QEntry) (m : Mach) : Prop := m.bad = none ∧ q.rel = false ∧ q.acq = false

theorem Mach.lateFault_dev {m : Mach} {q : QEntry} {c : BitVec 8} {a : Word} {r : BitVec 128} {redo : Redo} :
    (m.lateFault q c a r redo).dev = m.dev := by
  unfold Mach.lateFault
  split
  · rfl
  · exact Mach.notify_dev _ _
  · rfl

section
variable {m : Mach} {q : QEntry} {pa : Nat} (hloc : q.loc = .dev pa) (hunit : q.unit = 0)
include hloc hunit

theorem QEntry.raceOf_unchecked (m : Mach) : q.raceOf m = none := by
  unfold QEntry.raceOf
  split
  · rw [hloc, hunit]
    rfl
  · rfl

theorem Mach.Unwritten.noteUnchecked {p : Prop} {k : Mach} (h : Mach.Unwritten p m k) (hp : p → q.rel = false ∧ q.acq = false) :
    Mach.Unwritten p m (q.noteUnchecked k) := by
  unfold QEntry.noteUnchecked
  split
  · by_cases hq : q.rel = false ∧ q.acq = false
    · rw [hq.1, hq.2]
      exact h
    · have hnot : ¬ p := mt hp hq
      exact .ite ((Mach.Unwritten.ite (h.raceAcquireFence hnot) h).raceRelease hnot) (.ite (h.raceAcquireFence hnot) h)
  · unfold QEntry.noteOutside
    rw [hloc, hunit]
    split
    · exact h
    · next heq _ => exact nomatch heq
    · exact h

omit hunit in
/-- A write at its commit point. -/
theorem Mach.unwritten_commitWrite {p : Prop} (k : Mach) (data : List (Nat × Byte)) :
    Mach.Unwritten p (k.devStore pa data) (((k.writeLoc q.loc data).renewCopy q.who q.loc).noteWrite q) := by
  rw [hloc]
  exact Mach.Unwritten.refl.renewCopy.noteWrite

/-- What an access to device memory comes to at its commit point, with the package as it then stands. -/
structure Mach.Commits (p : Prop) (k : Mach) (q : QEntry) (pa : Nat) (bad : Bool) (t : Mach) : Prop where
  failed : bad = true → ∀ data, q.op = .store data → t.dev = k.dev
  store : bad = false → ∀ data, q.op = .store data → Mach.Unwritten p (k.devStore pa data) t
  amo : bad = false → ∀ code b reply, q.op = .amo code b reply → Mach.Unwritten p
    (k.devStore pa (offs (natLE 8 (amoNew code (BitVec.ofNat 64 (leNat (Memory.read k.dev pa 8))) b).toNat))) t
  cas : bad = false → ∀ size e n reply, q.op = .cas size e n reply → Mach.Unwritten p
    (if leNat (Memory.read k.dev pa size) = e.toNat % 2 ^ (8 * size) then k.devStore pa (offs (natLE size n.toNat)) else k) t
  load : ∀ size reply off, q.op = .load size reply off → Mach.Unwritten p k t

/-- The package with one access taken off its queue. -/
def Mach.dequeued (m : Mach) (id : Nat) : Mach := { m with queue := tdel m.queue id }

/-- An access that leaves its queue comes to its commit point with nothing written. -/
theorem Mach.perform_commits (id : Nat) (chk : Bool) (hf : m.faulty = []) : ∃ k,
    Mach.Unwritten (q.Plain m) (m.dequeued id) k ∧
    Mach.Commits (q.Plain m) k q pa (m.bad.any fun f => linkHits f pa q.op.size) (m.perform id q chk) := by
  unfold Mach.perform
  extract_lets k0 k1 own k2 k3 err k4
  have h1 : Mach.Unwritten (q.Plain m) (m.dequeued id) k1 := .prune (Mach.Unwritten.refl.congr)
  have hf1 : k1.faulty = [] := (apply_ite Mach.faulty _ _ _).trans ((ite_self _).trans hf)
  have hb1 : k1.bad = m.bad := (apply_ite Mach.bad _ _ _).trans (ite_self _)
  have e2 : k2 = k1 := by
    unfold k2
    rw [Mach.mend_of_sound hf1, ite_self]
  have e3 : k3 = k1 := by
    unfold k3
    rw [e2, Mach.mendAll_of_sound hf1]
  have herr : err = m.bad.any fun f => linkHits f pa q.op.size := by
    unfold err
    rw [e3, hloc, Mach.walkLost_of_sound hf1, Mach.locError_of_sound hf1, Mach.locError_of_sound hf1, hb1]
    simp [Mach.wornAt]
  have e4 : k4 = k1 := by
    unfold k4
    rw [e3, hloc, Mach.logBad_of_sound hf1, ite_self]
  rw [e4, QEntry.raceOf_unchecked hloc hunit]
  split
  next k5 rep heq =>
  have hrep : rep = none := by
    refine of_snd (P := (· = none)) heq ?_
    split
    · rfl
    · rfl
  have h5 : Mach.Unwritten (q.Plain m) (m.dequeued id) k5 := by
    refine of_fst heq ?_
    split
    · by_cases hp : q.Plain m
      · rw [herr, hp.1]
        exact h1
      · exact .ite (h1.bumpOf hp) h1
    · exact h1.noteUnchecked hloc hunit And.right
  extract_lets +onlyGivenNames fault k6 vals k7 k8 k9
  have e6 : k6 = k5 := if_neg (by rw [hrep]; exact Bool.false_ne_true)
  have h7 : Mach.Unwritten (q.Plain m) (m.dequeued id) k7 := by
    unfold k7
    rw [e6]
    exact h5.readEarly
  have h8 : Mach.Unwritten (q.Plain m) (m.dequeued id) k8 := .ite h7 (.ite h7.acquireOf (.ite h7 h7.hear))
  have h9 : Mach.Unwritten (q.Plain m) (m.dequeued id) k9 := by
    unfold k9
    split
    · by_cases hp : q.Plain m
      · rw [hp.2.1]
        exact h8
      · exact .ite (h8.free hp) h8
    · exact h8
  have hfault : fault = if m.bad.any (fun f => linkHits f pa q.op.size) then some (0x10, q.va, 0) else none := by
    unfold fault
    rw [herr, hrep]
    rfl
  clear_value k9 fault
  refine ⟨k9, h9, ?_⟩
  generalize m.bad.any (fun f => linkHits f pa q.op.size) = bad at hfault ⊢
  constructor
  case failed =>
    intro hbad data hop
    rw [hop, hfault, hbad]
    exact Mach.lateFault_dev
  case store =>
    intro hbad data hop
    rw [hop, hfault, hbad]
    exact Mach.unwritten_commitWrite hloc k9 data
  case amo =>
    intro hbad code b reply hop
    have hold : Memory.read k9.dev pa 8 = k9.readLoc q.loc 8 := by rw [hloc]; rfl
    rw [hop, hfault, hbad, hold]
    exact (Mach.unwritten_commitWrite hloc k9 _).fillReply
  case cas =>
    intro hbad size e n reply hop
    have hold : Memory.read k9.dev pa size = k9.readLoc q.loc size := by rw [hloc]; rfl
    have hkept : Mach.Unwritten (q.Plain m) k9 (match q.loc.granNo with | some g => k9.dropCopy q.who g | none => k9) := by
      split
      · exact Mach.Unwritten.refl.congr
      · exact .refl
    rw [hop, hfault, hbad, hold]
    exact .fillReply (.both (Mach.unwritten_commitWrite hloc k9 _) hkept)
  case load =>
    intro size reply off hop
    rw [hop]
    exact Mach.Unwritten.refl.readView.markSeen.fillReply

end

/-! ## The bytes of device memory, and of the mirror (R408) -/

theorem Mach.Unwritten.devStore {p : Prop} {m k : Mach} (h : Mach.Unwritten p m k) (pa : Nat) (data : List (Nat × Byte)) :
    Mach.Unwritten p (m.devStore pa data) (k.devStore pa data) :=
  ⟨by unfold Mach.devStore; rw [h.dev, h.mgmt], h.host, h.dies, h.mgmt, h.keys, h.gangs⟩

theorem Memory.writeAt_shift (data : List (Nat × Byte)) (mem : Memory) (a : Nat) :
    Memory.writeAt mem 0 (data.map fun p => (a + p.1, p.2)) = Memory.writeAt mem a data := by
  induction data generalizing mem with
  | nil => rfl
  | cons p data ih =>
    rw [List.map_cons, Memory.writeAt, Memory.writeAt, Nat.zero_add, ih]

section
variable {m : Mach} {pa : Nat} {bs : List Byte}

/-- A store none of whose bytes has a mirror copy. -/
theorem Mach.devStore_of_no_twin (h : ∀ o < bs.length, m.mgmt.mirror.bind (·.twin (pa + o)) = none) :
    (m.devStore pa (offs bs)).dev = Memory.write m.dev pa bs := by
  unfold Mach.devStore
  extract_lets twins
  have htwins : twins = [] := by
    unfold twins
    split
    · rfl
    · next r hr =>
      refine List.filterMap_eq_nil_iff.mpr fun p hp => Option.map_eq_none_iff.mpr ?_
      simpa [hr] using h p.1 (offset_lt_of_mem_offs hp)
  rw [htwins, ← Memory.writeAt_offs]
  rfl

/-- A store all of whose bytes have their mirror copies in a row. -/
theorem Mach.devStore_of_twins {r : Mirror} {mir : Nat} (hr : m.mgmt.mirror = some r)
    (h : ∀ o < bs.length, r.twin (pa + o) = some (mir + o)) :
    (m.devStore pa (offs bs)).dev = Memory.write (Memory.write m.dev pa bs) mir bs := by
  unfold Mach.devStore
  extract_lets twins
  have htwins : twins = (offs bs).map fun p => (mir + p.1, p.2) := by
    unfold twins
    rw [hr, ← List.filterMap_eq_map]
    exact List.filterMap_congr fun p hp => by simp [h p.1 (offset_lt_of_mem_offs hp)]
  rw [htwins, ← Memory.writeAt_offs, ← Memory.writeAt_offs]
  exact Memory.writeAt_shift _ _ _

end

/-- A byte of the mirror region has its copy two dies away. -/
theorem Mirror.twin_of_mem {r : Mirror} {a : Nat} (hr : r.base + r.size ≤ 2 ^ 44) (hlo : r.die * 2 ^ 44 + r.base ≤ a)
    (hhi : a < r.die * 2 ^ 44 + r.base + r.size) : r.twin a = some ((r.die + 2) % 4 * 2 ^ 44 + (a - r.die * 2 ^ 44)) := by
  have hdiv : a / 2 ^ 44 = r.die := by omega
  have hmod : a % 2 ^ 44 = a - r.die * 2 ^ 44 := by omega
  unfold Mirror.twin
  rw [hdiv, hmod]
  exact if_pos ⟨rfl, by omega, by omega⟩

theorem Mirror.twin_of_not_mem {r : Mirror} {a : Nat} (h : a < r.die * 2 ^ 44 + r.base ∨ r.die * 2 ^ 44 + r.base + r.size ≤ a) :
    r.twin a = none := if_neg fun ⟨hdie, hlo, hhi⟩ => by omega

/-- Settles O24: an access comes to its commit point with nothing written, and then writes its own bytes alone. -/
theorem committedWrites : Obligations.CommittedWrites := by
  unfold Obligations.CommittedWrites
  constructor
  · intro m id q pa chk hloc hunit hf
    extract_lets t same old
    obtain ⟨k, hk, hc⟩ := Mach.perform_commits hloc hunit id chk hf
    have hdev : k.dev = m.dev := hk.dev
    refine ⟨fun f data hop hbad hhit => (hc.failed (by simp [hbad, hhit]) data hop).trans hdev, fun hbad => ?_, fun b =>
      ⟨rfl, sminW_eq old b, smaxW_eq old b, nminW_eq old b, nmaxW_eq old b, rfl, rfl, rfl⟩⟩
    have hsound : (m.bad.any fun f => linkHits f pa q.op.size) = false := by rw [hbad]; rfl
    have hkept (h : Mach.Unwritten (q.Plain m) k t) : t.dev = m.dev ∧ same :=
      have h := hk.trans h
      ⟨h.dev, h.host, h.dies, h.keys, fun hrel hacq => h.gangs ⟨hbad, hrel, hacq⟩⟩
    have hwritten {data : List (Nat × Byte)} (h : Mach.Unwritten (q.Plain m) (k.devStore pa data) t) :
        t.dev = (m.devStore pa data).dev ∧ same :=
      have h := (hk.devStore pa data).trans h
      ⟨h.dev, h.host, h.dies, h.keys, fun hrel hacq => h.gangs ⟨hbad, hrel, hacq⟩⟩
    refine ⟨fun data hop => hwritten (hc.store hsound data hop), fun code b reply hop => ?_, fun size e n reply hop => ?_,
      fun size reply off hop => hkept (hc.load size reply off hop)⟩
    · have h := hc.amo hsound code b reply hop
      rw [hdev] at h
      exact hwritten h
    · have h := hc.cas hsound size e n reply hop
      rw [hdev] at h
      split at h
      · next heq =>
        rw [if_pos heq]
        exact hwritten h
      · next hne =>
        rw [if_neg hne]
        exact hkept h
  · intro m pa n bs hwf
    extract_lets t out
    have hplain (hdev : t.dev = Memory.write m.dev pa bs) :
        Memory.read t.dev pa bs.length = bs ∧ (out pa → Memory.get t.dev n = Memory.get m.dev n) := by
      rw [hdev]
      exact ⟨Memory.read_write bs _ pa hwf, Memory.get_write_ne bs _ pa n⟩
    refine ⟨fun hnone => hplain (Mach.devStore_of_no_twin fun o _ => by rw [hnone]; rfl), fun r hr hdie hend => ?_⟩
    extract_lets lo mir
    constructor
    · intro hlo hhi
      have hdev : t.dev = Memory.write (Memory.write m.dev pa bs) mir bs :=
        Mach.devStore_of_twins hr fun o ho => by
          rw [Mirror.twin_of_mem hend (by omega) (by omega)]
          exact congrArg some (by omega)
      refine ⟨Mach.read_devStore hwf (by omega), ?_, fun hpa hmir => ?_⟩
      · rw [hdev]
        exact Memory.read_write bs _ mir (Memory.wf_write bs _ pa hwf)
      · rw [hdev, Memory.get_write_ne bs _ mir n hmir, Memory.get_write_ne bs _ pa n hpa]
    · intro hout
      refine hplain (Mach.devStore_of_no_twin fun o ho => ?_)
      rw [hr]
      exact Mirror.twin_of_not_mem (by omega)

end Sys2Proof.Machine
end

section
/-! PROOFS. The GO words and the command each queues (R304, R305, R313-R318). -/
namespace Sys2Proof.Machine

/-! ## A command in its queue -/

theorem Mach.clusterOf_updCore {m : Mach} {g r h : Nat} {f : Core → Core} : (m.updCore g r f).clusterOf h = m.clusterOf h := by
  unfold Mach.clusterOf
  by_cases he : h = g
  · subst he
    rw [Mach.gang?_updCore_self, Option.map_map]
    rfl
  · rw [Mach.updCore, Mach.gang?_updGang_ne m g h _ he]

theorem Mach.updTarget_rests (m : Mach) (t : Target) (f : TagState → TagState) :
    (m.updTarget t f).cmds = m.cmds ∧ (m.updTarget t f).dev = m.dev ∧ (m.updTarget t f).host = m.host := by
  unfold Mach.updTarget
  split
  · exact ⟨rfl, rfl, rfl⟩
  · exact ⟨rfl, rfl, rfl⟩

/-- A command that a word puts into a queue: it is the newest, its start is to come, and no byte has moved. -/
def State.Queued (s t : State) (c : Cmd) (start : Nat) : Prop :=
  t.m.cmds = s.m.cmds ++ [(s.m.nextId, { c with id := s.m.nextId })] ∧
  t.m.agenda.getLast? = some ⟨.pulse (s.m.clusterOf s.gno).1 (s.m.clusterOf s.gno).2, start, .transferStart s.m.nextId⟩ ∧
  t.m.dev = s.m.dev ∧ t.m.host = s.m.host

theorem State.queued_enqueueCmd (s : State) (c : Cmd) (start : Nat) : s.Queued (s.enqueueCmd c start) c start := by
  unfold State.enqueueCmd
  split
  next id m1 hnew =>
    obtain ⟨rfl, rfl⟩ := Prod.mk.inj hnew
    extract_lets m2 m3
    obtain ⟨hcmds, hdev, hhost⟩ : m3.cmds = m2.cmds ∧ m3.dev = m2.dev ∧ m3.host = m2.host :=
      foldl_keeps (P := fun m : Mach => m.cmds = m2.cmds ∧ m.dev = m2.dev ∧ m.host = m2.host) ⟨rfl, rfl, rfl⟩ fun m t ⟨hcmds, hdev, hhost⟩ =>
        have ⟨hc, hd, hh⟩ := m.updTarget_rests t TagState.issue
        ⟨hc.trans hcmds, hd.trans hdev, hh.trans hhost⟩
    refine ⟨hcmds, ?_, hdev, hhost⟩
    exact List.getLast?_append_cons _ _ _

/-- What a GO word that passes its checks comes to. -/
def State.WentTo (s : State) (op : CmdOp) (bad : Option (BitVec 8 × Word × BitVec 128)) (t : State) : Prop :=
  ∃ c start, s.Queued t c start ∧ c.owner = .t s.gno s.rank ∧ c.op = op ∧ c.set = s.core.tset ∧ c.vd = s.vd ∧
    c.started = false ∧ c.pos = 0 ∧ c.err = bad ∧
    s.m.pulses (s.m.clusterOf s.gno).1 (s.m.clusterOf s.gno).2 + 16 ≤ start

/-- A change of the core does not move the queue. -/
theorem State.Queued.of_updCore {s t : State} {f : Core → Core} {c : Cmd} {start : Nat} (h : (s.updCore f).Queued t c start) :
    s.Queued t c start := by
  unfold State.Queued State.updCore State.gno at *
  cases hcur : s.cur with
  | core g r st =>
    simp only [hcur, Mach.clusterOf_updCore] at h
    exact h
  | loupe d i k =>
    simp only [hcur] at h
    exact h

theorem State.wentTo_enqueueCmd {s u : State} {op : CmdOp} {bad : Option (BitVec 8 × Word × BitVec 128)} {c : Cmd} {start : Nat}
    (hu : ∀ t, u.Queued t c start → s.Queued t c start)
    (hc : c.owner = .t s.gno s.rank ∧ c.op = op ∧ c.set = s.core.tset ∧ c.vd = s.vd ∧ c.started = false ∧ c.pos = 0 ∧ c.err = bad)
    (hstart : s.m.pulses (s.m.clusterOf s.gno).1 (s.m.clusterOf s.gno).2 + 16 ≤ start) : s.WentTo op bad (u.enqueueCmd c start) :=
  have ⟨howner, hop, hset, hvd, hstarted, hpos, herr⟩ := hc
  ⟨c, start, hu _ (u.queued_enqueueCmd c start), howner, hop, hset, hvd, hstarted, hpos, herr, hstart⟩

theorem State.go_goes (s : State) (op : CmdOp) (l : List Byte) (bad : Option (BitVec 8 × Word × BitVec 128)) :
    Except.Holds (s.WentTo op bad) (s.go op l bad) := by
  refine .seq fun _ => .seq fun _ => .seq fun _ => .seq fun bar => .seq fun _ => .seq fun _ => .seq fun _ => ?_
  refine .ite (.seq fun _ => .seq fun _ => ?_) ?_
  all_goals
    refine .seq fun _ => .seq fun _ => ?_
    have hpulse : s.m.pulses (s.m.clusterOf s.gno).1 (s.m.clusterOf s.gno).2 + 16 ≤
        s.m.pulses (s.m.clusterOf s.gno).1 (s.m.clusterOf s.gno).2 + 16 + (if (op.tableEnds s.core.tset).isEmpty then 0 else 12) :=
      Nat.le_add_right _ _
    refine .pure (State.wentTo_enqueueCmd (fun t ht => ?_) ⟨rfl, rfl, rfl, rfl, rfl, rfl, rfl⟩ hpulse)
    split at ht
    · exact ht.of_updCore
    · exact ht

theorem State.go_full {s : State} {op : CmdOp} {l : List Byte} {bad : Option (BitVec 8 × Word × BitVec 128)}
    (h : ¬ (s.m.cmdsOf (.t s.gno s.rank)).length < 4) : s.go op l bad = .error (.hold .queueFull) := by
  unfold State.go await
  rw [decide_eq_false h]
  rfl

/-- A GO word without operands of its own, whose guard is true. -/
theorem State.word_go {s : State} {decls : List Decl} {g : BitVec 4} {op : CmdOp} {body : State → Except Stop State} (h : Runs s decls g)
    (hb : body s = s.go op [] none) :
    (∀ t, s.go op [] none = .ok t → s.word decls (s.guard g) body = .next t.advance) ∧
    (∀ e, s.go op [] none = .error e → s.word decls (s.guard g) body = .next (s.stopped e)) ∧
    (¬ (s.m.cmdsOf (.t s.gno s.rank)).length < 4 → s.word decls (s.guard g) body = .next (s.hold .queueFull)) :=
  ⟨fun _ ht => State.word_runs h (hb.trans ht), fun _ he => State.word_stops h.1 (hb.trans he),
    fun hfull => State.word_stops h.1 (hb.trans (State.go_full hfull))⟩

theorem goes_of_runs {s : State} {decls : List Decl} {g : BitVec 4} (op : CmdOp) (h : Runs s decls g) :
    (∀ t, s.go op [] none = .ok t → Machine.go op decls g s = .next t.advance) ∧
    (∀ e, s.go op [] none = .error e → Machine.go op decls g s = .next (s.stopped e)) ∧
    (¬ (s.m.cmdsOf (.t s.gno s.rank)).length < 4 → Machine.go op decls g s = .next (s.hold .queueFull)) := State.word_go h rfl

theorem State.await_room {s : State} {x : Except Stop State} (h : (s.m.cmdsOf (.t s.gno s.rank)).length < 4) :
    (do await (decide ((s.m.cmdsOf (.t s.gno s.rank)).length < 4)) .queueFull; x) = x := by
  rw [decide_eq_true h]
  rfl

/-- A KV word whose guard is true: a full queue comes first, then the header, then the command. -/
theorem State.word_kv {s : State} {p r : BitVec 6} {g : BitVec 4} {op : Word → Word → CmdOp} (h : Runs s (sn [p.toNat, r.toNat]) g) :
    let room : Prop := (s.m.cmdsOf (.t s.gno s.rank)).length < 4
    let c := op (s.rd p.toNat) (s.rd r.toNat)
    (¬ room → kvGo p r g op s = .next (s.hold .queueFull)) ∧
    (room → ∀ h rep u, s.kvHeader (s.rd p.toNat) = .ok (h, rep, u) →
      let bad := rep <|> (if kvOk h && rangeOk h (s.rd r.toNat) then none else some (0x13, s.rd p.toNat, 0))
      (∀ t, u.go c h bad = .ok t → kvGo p r g op s = .next t.advance) ∧
      (∀ e, u.go c h bad = .error e → kvGo p r g op s = .next (s.stopped e))) ∧
    (room → ∀ e, s.kvHeader (s.rd p.toNat) = .error e → kvGo p r g op s = .next (s.stopped e)) := by
  intro room c
  unfold kvGo
  refine ⟨fun hfull => ?_, fun hroom l rep u hk => ⟨fun t ht => ?_, fun e he => ?_⟩, fun hroom e he => ?_⟩
  · exact State.word_stops (e := .hold .queueFull) h.1 (by rw [decide_eq_false hfull]; rfl)
  · exact State.word_runs h ((State.await_room hroom).trans ((congrArg (· >>= _) hk).trans ht))
  · exact State.word_stops h.1 ((State.await_room hroom).trans ((congrArg (· >>= _) hk).trans he))
  · exact State.word_stops h.1 ((State.await_room hroom).trans (congrArg (· >>= _) he))

/-- Settles O51: each GO word is the checks and the queueing of its command, after its header for a KV word. -/
theorem transferGoWords : Obligations.TransferGoWords := by
  unfold Obligations.TransferGoWords
  constructor
  · intro s p r grp sl op pk drop g room goes kv
    refine ⟨fun h => ⟨goes_of_runs .tcpy h, goes_of_runs .tlvl h, goes_of_runs .tenc h, goes_of_runs .tpak h, goes_of_runs .tunp h, fun hring => ?_⟩,
      fun h hgroup => ?_, fun h => goes_of_runs (.tops sl) h,
      fun h => State.word_go (op := .tfil (s.rd p.toNat)) (body := fun s => s.go (.tfil (s.rd p.toNat)) [] none) h rfl,
      fun h => ⟨State.word_kv (op := fun hdr range => .tkvf hdr range pk) h, State.word_kv (op := fun hdr range => .tdrp hdr range drop) h⟩⟩
    · have hdecls : (if op.toNat < 2 then [Decl.name (.grp grp.toNat)] else []) = [] := if_neg (by omega)
      exact goes_of_runs (.tcol grp op) (hdecls.symm ▸ h)
    · have hdecls : (if op.toNat < 2 then [Decl.name (.grp grp.toNat)] else []) = [.name (.grp grp.toNat)] := if_pos hgroup
      exact goes_of_runs (.tcol grp op) (hdecls.symm ▸ h)
  · intro s t op l bad h
    obtain ⟨c, start, ⟨hcmds, hlast, hdev, hhost⟩, howner, hop, hset, hvd, hstarted, hpos, herr, hstart⟩ := s.go_goes op l bad t h
    exact ⟨_, _, hcmds, rfl, howner, hop, hset, hvd, hstarted, hpos, herr, ⟨start, hlast, hstart⟩, hdev, hhost⟩

end Sys2Proof.Machine
end

section
/-! PROOFS. The words that configure a transfer (R300, R301). -/
namespace Sys2Proof.Machine

/-- From `s` on, only the parameters of the T stream and the stream's own ec have changed in the core. -/
def State.Sets (s : State) (k r : Nat) (x : TSet) (t : State) : Prop :=
  ∃ q, t.m.core? k r = some { s.core with tset := x, seq := q } ∧ q.sreg = s.core.seq.sreg ∧ q.preg = s.core.seq.preg ∧
    q.pend = s.core.seq.pend

theorem State.OnCore.sets {s : State} {k r : Nat} {st : Stream} {c : Core} (h : s.OnCore k r st c) (f : TSet → TSet) :
    s.Sets k r (f c.tset) (s.updCore fun c => { c with tset := f c.tset }).advance := by
  have hend := (h.updCore fun c => { c with tset := f c.tset }).issued.updRegs fun r => { r with pc := r.pc + 1 }
  unfold State.Sets
  rw [h.core_eq]
  exact ⟨_, hend.there, rfl, rfl, rfl⟩

/-- A configuration word whose guard is true writes its fields. -/
theorem tconf_sets {s : State} {decls : List Decl} {g : BitVec 4} {f : State → TSet → TSet} {x : TSet} {k r : Nat} {st : Stream}
    (h : Runs s decls g) (hc : s.cur = .core k r st) (hx : f s s.core.tset = x) : GoesTo (tconf decls g f s) (s.Sets k r x) := by
  subst hx
  have hcore := State.OnCore.of_seq? hc h.1.1
  exact ⟨_, State.word_runs h rfl, hcore.sets (f s)⟩

/-- Settles O50: each configuration word is one write of parameters. -/
theorem transferConfiguration : Obligations.TransferConfiguration := by
  unfold Obligations.TransferConfiguration
  intro s p a dim what iw rm imm sty dty j acq rel flat sat ben bid tag g k r hc u v sets
  have hsrc (h : Runs s (sn [p.toNat]) g) : GoesTo (execTsrc p g s) (s.Sets k r { u with src := s.rd p.toNat }) := tconf_sets h hc rfl
  have hdst (h : Runs s (sn [p.toNat]) g) : GoesTo (execTdst p g s) (s.Sets k r { u with dst := s.rd p.toNat }) := tconf_sets h hc rfl
  have hind (h : Runs s (sn [p.toNat]) g) : GoesTo (execTind dim p iw g s)
      (s.Sets k r { u with ind := if p = 0 then none else some (dim, s.rd p.toNat, iw == 1) }) := tconf_sets h hc rfl
  have hdim (h : Runs s (sn [a.toNat]) g) : GoesTo (execTdim dim what a imm g s) (s.Sets k r (match what.toNat with
      | 0 => { u with ext := vset u.ext dim.toNat v }
      | 1 => { u with ss := vset u.ss (dim.toNat - 1) v }
      | _ => { u with ds := vset u.ds (dim.toNat - 1) v })) := tconf_sets h hc rfl
  have hfmt (h : Runs s [] g) : GoesTo (execTfmt sty dty j flat sat rm g s)
      (s.Sets k r { u with sty := sty, dty := dty, lvl := j, flat := flat, sat := sat, rm := rm }) := tconf_sets h hc rfl
  have hsyn (h : Runs s (if ben then [.name (.bar bid.toNat)] else []) g) : GoesTo (execTsyn acq rel ben bid tag g s)
      (s.Sets k r { u with acq := acq, rel := rel, ben := ben, bid := bid, tag := tag }) := tconf_sets h hc rfl
  refine ⟨fun h => ⟨hsrc h, hdst h, hind h⟩, fun h => ⟨?_, ?_, ?_⟩, hfmt, hsyn⟩
  all_goals
    rintro rfl
    exact hdim h

end Sys2Proof.Machine
end

section
/-! PROOFS. AMO, CAS and FENCE (R278-R283). -/
namespace Sys2Proof.Machine

/-- What an atomic word comes to, by what its access reaches: its entry is on its way, and its old value comes with a reply. -/
def State.WentAtomic (s : State) (p : Word) (d : BitVec 6) (sem : BitVec 2) (sco : BitVec 3) (size : Nat) (op : Nat → QOp)
    (o : Host.Outcome State Fault Refusal) : Prop :=
  (∀ r lat, s.atomic p size = .ok (r, lat) →
    let n := r.m.newReply (.agent s.cur) 1
    o = .next (((State.startAmo { s with m := n.2 } (s.entry r p 0 sem sco (op n.1)) 16).resReply lat d n.1 size false).advance)) ∧
  (∀ e, s.atomic p size = .error e → o = .next (s.stopped e))

section
variable {s : State} {d a b : BitVec 6} {sem : BitVec 2} {sco : BitVec 3} {g : BitVec 4}
  (h : Runs s (sn [d.toNat, a.toNat, b.toNat]) g)
include h

theorem amo_wentAtomic (code : Nat) :
    s.WentAtomic (s.rd a.toNat) d sem sco 8 (.amo code (s.rd b.toNat) ·) (amo code d a b sem sco g s) :=
  ⟨fun _ _ hok => State.word_runs h (congrArg (· >>= _) hok), fun _ he => State.word_stops h.1 (congrArg (· >>= _) he)⟩

theorem cas_wentAtomic (size : Nat) :
    s.WentAtomic (s.rd a.toNat) d sem sco size (.cas size (s.rd d.toNat) (s.rd b.toNat) ·) (cas size d a b sem sco g s) :=
  ⟨fun _ _ hok => State.word_runs h (congrArg (· >>= _) hok), fun _ he => State.word_stops h.1 (congrArg (· >>= _) he)⟩

end

/-- Settles O23: an AMO and a CAS are their access and their reply, a FENCE its entry. -/
theorem atomicsAndFences : Obligations.AtomicsAndFences := by
  unfold Obligations.AtomicsAndFences
  intro s d a b cls sem sco g p went
  refine ⟨fun h => ⟨amo_wentAtomic h 0, amo_wentAtomic h 1, amo_wentAtomic h 2, amo_wentAtomic h 3, amo_wentAtomic h 4,
    amo_wentAtomic h 5, amo_wentAtomic h 6, amo_wentAtomic h 7, cas_wentAtomic h 4, cas_wentAtomic h 8⟩, fun h => ?_⟩
  refine ⟨{
    who := .agent s.cur, vd := s.vd, cls := cls, seq := s.ec, op := .fence, loc := .sys 0, acq := bit sem 0, rel := bit sem 1
    sco := if s.onLoupe then max sco.toNat 3 else sco.toNat, gang := s.gno, rank := s.rank, strm := s.cur.strm, pc := s.regs.pc
    icnt := s.interval }, rfl, rfl, rfl, rfl, rfl, ?_⟩
  rw [exec_fence, execFence]
  exact State.word_runs h rfl

end Sys2Proof.Machine
end

section
/-! PROOFS. TRAP, HALT, EVNT, TLBI, DINV and CSAVE (R371, R372, R397-R400). -/
namespace Sys2Proof.Machine

/-! ## What the end of a word's ec leaves -/

/-- The ec of a word changes the package only in the gangs, the dies and the numbers drawn. -/
theorem State.advance_m (s : State) : ∃ gangs dies n, s.advance.m = { s.m with gangs := gangs, dies := dies, freeCtr := n } := by
  unfold State.advance State.updRegs State.updSeq
  cases hc : s.cur with
  | core k r st =>
    simp only [State.issued_cur, State.issued_core hc, hc]
    exact ⟨_, _, _, rfl⟩
  | loupe d i c =>
    simp only [State.issued_cur, State.issued_loupe hc, hc]
    exact ⟨_, _, _, rfl⟩

theorem State.advance_iss (s : State) : s.advance.iss = s.iss.map fun i => { i with used := i.used + 1 } := rfl

section
variable {s : State} {k r : Nat} {st : Stream} {d i c : Nat}

theorem State.freeze_core (hc : s.cur = .core k r st) (kind : CauseKind) : s.freeze kind =
    { s with m := s.m.updGang k fun g => { g with causes := g.causes ++ [s.cause kind (s.m.time + 1)] } } := by
  unfold State.freeze State.updGang
  rw [hc]

theorem State.causes_advance (hc : s.cur = .core k r st) :
    (s.advance.m.gang? k).map (·.causes) = (s.m.gang? k).map (·.causes) := by
  have hissued : (s.issued.m.gang? k).map (·.causes) = (s.m.gang? k).map (·.causes) := by
    rw [State.issued_core hc, hc]
    exact (congrArg (Option.map _) (Mach.gang?_updCore_self _ k r _)).trans (Option.map_map ..)
  unfold State.advance State.updRegs State.updSeq
  rw [State.issued_cur, hc, ← hissued]
  exact (congrArg (Option.map _) (Mach.gang?_updCore_self _ k r _)).trans (Option.map_map ..)

theorem State.run_advance (hc : s.cur = .loupe d i c) :
    (s.advance.m.ctx? d i c).map (·.run) = (s.m.ctx? d i c).map (·.run) := by
  have hissued : (s.issued.m.ctx? d i c).map (·.run) = (s.m.ctx? d i c).map (·.run) := by
    rw [State.issued_loupe hc, hc]
    refine (congrArg (Option.map _) (Mach.ctx?_updCtx_self _ d i c _)).trans ((Option.map_map ..).trans ?_)
    exact (congrArg (Option.map _) (Mach.ctx?_updCtx_self _ d i c _)).trans (Option.map_map ..)
  unfold State.advance State.updRegs State.updSeq
  rw [State.issued_cur, hc, ← hissued]
  exact (congrArg (Option.map _) (Mach.ctx?_updCtx_self _ d i c _)).trans (Option.map_map ..)

end

/-! ## Releases at device scope -/

/-- The entry of a word that is a release at device scope. -/
def State.deviceRelease (s : State) (op : QOp) (icnt : Nat) : QEntry := {
  who := .agent s.cur, vd := s.vd, cls := 0, seq := s.ec, op := op, loc := .sys 0, rel := true, sco := 4, gang := s.gno
  rank := s.rank, pc := s.regs.pc, icnt := icnt }

/-- The package once a TLBI's release is queued and its end drawn. -/
def State.invalidating (s : State) : Mach :=
  let m := s.m.enqueue (s.deviceRelease .fence 0) 13
  m.schedule .mc (m.time + 1 + m.draw 14 % 1024) (.tlbiComplete s.cur)

/-- The state once a DINV has dropped the copy of a granule. -/
def State.dropping (s : State) (va : Nat) : State :=
  State.updIss { s with m := { s.m with copies := s.m.copies.filter fun c => !(c.who == .agent s.cur && c.va == va) } }
    fun i => { i with dinv := i.dinv ++ [(s.rank, va)] }

theorem execEvnt_runs {s : State} {g : BitVec 4} {n : Bool} {code : BitVec 12} (h : Runs s [] g n) :
    let rank := match s.cur with | .core _ r _ => r | .loupe _ i _ => 0x40 + i
    let rec_ := eventRecord s.vd (((s.m.jobOf s.cur).map (·.num.toNat)).getD 0) s.gang.idx.toNat rank code.toNat s.m.time s.gang.cyc
    execEvnt g n code s = .next (State.advance { s with m := s.m.enqueue (s.deviceRelease (.event s.vd rec_) s.interval) 12 }) :=
  State.word_runs h rfl

section
variable {s : State} {g : BitVec 4} {n : Bool} {a : BitVec 6}

theorem execTlbi_core {k r : Nat} {st : Stream} (hc : s.cur = .core k r st) (h : Runs s (sn [a.toNat] ++ [.priv]) g n)
    (hp : s.rd a.toNat = 0 ∨ ptrSpace (s.rd a.toNat) = 0) :
    execTlbi g n a s = .next (State.freeze { s with m := s.invalidating } (.tlbi (s.rd a.toNat))).advance := by
  refine State.word_runs h ((need_bind_ok (by simpa using hp)).trans ?_)
  simp only [State.invalidating, State.deviceRelease, hc]
  rfl

theorem execTlbi_loupe {d i c : Nat} (hc : s.cur = .loupe d i c) (h : Runs s (sn [a.toNat] ++ [.priv]) g n)
    (hp : s.rd a.toNat = 0 ∨ ptrSpace (s.rd a.toNat) = 0) :
    execTlbi g n a s = .next (State.advance { s with m := s.invalidating.updCtx d i c fun x => { x with run := .tlbi (s.rd a.toNat) } }) := by
  refine State.word_runs h ((need_bind_ok (by simpa using hp)).trans ?_)
  simp only [State.invalidating, State.deviceRelease, hc]
  rfl

/-- A control word that meets a fault. -/
theorem State.word_raises {decls : List Decl} {body : State → Except Stop State} {c : BitVec 8} {p : Word} (h : Passes s decls g n)
    (hb : body s = .error (.fault { cause := c, addr := p })) :
    s.word decls (s.guard g n) body = .next (s.raise { cause := c, addr := p }) := State.word_stops h hb

theorem execTrap_raises {code : BitVec 12} (h : Passes s [] g n) :
    execTrap g n code s = .next (s.raise { cause := 0x11, code := code, trap := true }) := by
  unfold execTrap
  exact State.word_stops (e := .fault { cause := 0x11, code := code, trap := true }) h rfl

theorem execHalt_core {k r : Nat} {st : Stream} (hc : s.cur = .core k r st) (h : Passes s [.priv] g n) :
    execHalt g n s = .next (s.raise { cause := 0x11, code := 0xFFF, halt := true }) := by
  unfold execHalt
  rw [hc]
  exact State.word_stops (e := .fault { cause := 0x11, code := 0xFFF, halt := true }) h rfl

/-- HALT on a Loupe core stops its program, and then the others of its job. -/
theorem execHalt_loupe {d i c : Nat} (hc : s.cur = .loupe d i c) (h : Passes s [.priv] g n) :
    let t := s.raise { cause := 0x11, code := 0xFFF, halt := true }
    execHalt g n s = .next { t with m := t.m.haltOthers s.cur } := by
  intro t
  have hword : s.word [.priv] (s.guard g n) (fun _ => .error (.fault { cause := 0x11, code := 0xFFF, halt := true })) = .next t :=
    State.word_stops (e := .fault { cause := 0x11, code := 0xFFF, halt := true }) h rfl
  obtain ⟨-, hpriv, hguard⟩ := h
  have hpriv : s.hdr.priv = true := by simpa [Decl.ok] using hpriv
  rw [hguard] at hword
  unfold execHalt
  simp only [hc, hguard, hpriv, hword]
  rfl

theorem execTlbi_faults (h : Passes s (sn [a.toNat] ++ [.priv]) g n) (hp : s.rd a.toNat ≠ 0 ∧ ptrSpace (s.rd a.toNat) ≠ 0) :
    execTlbi g n a s = .next (s.raise { cause := 0x03, addr := s.rd a.toNat }) := by
  unfold execTlbi
  refine State.word_raises h ?_
  refine need_bind_error ?_
  simpa using hp

/-! ## DINV and CSAVE -/

theorem execDinv_runs (h : Runs s (sn [a.toNat]) g n) (hp : ptrSpace (s.rd a.toNat) = 0) :
    execDinv g n a s = .next (s.dropping (ptrOff (s.rd a.toNat) / 64 * 64)).advance := by
  unfold execDinv
  exact State.word_runs h (need_bind_ok (by simpa using hp))

theorem execDinv_faults (h : Passes s (sn [a.toNat]) g n) (hp : ptrSpace (s.rd a.toNat) ≠ 0) :
    execDinv g n a s = .next (s.raise { cause := 0x03, addr := s.rd a.toNat }) := by
  unfold execDinv
  refine State.word_raises h ?_
  refine need_bind_error ?_
  simpa using hp

theorem execCsave_runs (h : Runs s (sn [a.toNat]) g n) (hspace : ptrSpace (s.rd a.toNat) = 0) (hrank : ptrRank (s.rd a.toNat) = 0)
    (halign : ptrOff (s.rd a.toNat) % 65536 = 0) :
    execCsave g n a s = .next (s.updGang fun x => { x with pck := some (s.rd a.toNat) }).advance := by
  unfold execCsave
  exact State.word_runs h ((need_bind_ok (by simp [hspace, hrank])).trans (need_bind_ok (by simp [halign])))

theorem execCsave_unaligned (h : Passes s (sn [a.toNat]) g n) (hspace : ptrSpace (s.rd a.toNat) = 0)
    (hrank : ptrRank (s.rd a.toNat) = 0) (halign : ptrOff (s.rd a.toNat) % 65536 ≠ 0) :
    execCsave g n a s = .next (s.raise { cause := 0x06, addr := s.rd a.toNat }) := by
  unfold execCsave
  refine State.word_raises h ?_
  refine (need_bind_ok ?_).trans (need_bind_error ?_)
  · simp [hspace, hrank]
  · simpa using halign

theorem execCsave_faults (h : Passes s (sn [a.toNat]) g n) (hp : ptrSpace (s.rd a.toNat) ≠ 0 ∨ ptrRank (s.rd a.toNat) ≠ 0) :
    execCsave g n a s = .next (s.raise { cause := 0x03, addr := s.rd a.toNat }) := by
  unfold execCsave
  refine State.word_raises h ?_
  refine need_bind_error ?_
  simpa [or_iff_not_imp_left] using hp

end

/-- Settles O35: each word is its stop, its queued release, or its one change. -/
theorem trapAndMaintenanceWords : Obligations.TrapAndMaintenanceWords := by
  unfold Obligations.TrapAndMaintenanceWords
  intro s g n code a p releases ends
  have hbegun {t u : State} (hm : ∃ gangs dies k, u.m = { s.invalidating with gangs := gangs, dies := dies, freeCtr := k })
      (ht : t = u.advance) : releases t ∧ ends t := by
    obtain ⟨gangs, dies, k, hm⟩ := hm
    obtain ⟨gangs', dies', k', ht'⟩ := u.advance_m
    rw [hm] at ht'
    have htime : s.m.time < s.m.time + 1 + (s.m.enqueue (s.deviceRelease .fence 0) 13).draw 14 % 1024 ∧
        s.m.time + 1 + (s.m.enqueue (s.deviceRelease .fence 0) 13).draw 14 % 1024 ≤ s.m.time + 1024 := by omega
    rw [ht]
    exact ⟨⟨s.m.nextId, s.deviceRelease .fence 0, congrArg Mach.queue ht', rfl, rfl, rfl, rfl⟩, _, htime.1, htime.2, by
      rw [ht']
      exact List.getLast?_append_cons _ _ _⟩
  refine ⟨execTrap_raises, fun k r st hc h => execHalt_core hc h, fun d i c hc h => execHalt_loupe hc h, fun h =>
    ⟨s.deviceRelease _ s.interval, rfl, rfl, rfl, rfl, execEvnt_runs h⟩,
    fun h => ⟨fun hp => ⟨fun k r st hc => ?_, fun d i c hc => ?_⟩, fun hp => ?_⟩, fun h =>
    ⟨fun hp => ?_, fun hp => ?_, fun hp => ?_, fun hp => ?_, fun hp => ?_⟩⟩
  · have hcore := State.OnCore.of_seq? hc h.1.1
    obtain ⟨x, hx, -⟩ := Option.bind_eq_some_iff.mp hcore.there
    have hbeg := hbegun (u := State.freeze { s with m := s.invalidating } (.tlbi p)) (by
      unfold State.freeze State.updGang
      simp only [hc]
      exact ⟨_, _, _, rfl⟩) rfl
    refine ⟨_, execTlbi_core hc h hp, hbeg.1, hbeg.2, x, hx, ?_⟩
    have hfreeze : (State.freeze { s with m := s.invalidating } (.tlbi p)).m = s.invalidating.updGang k fun g =>
        { g with causes := g.causes ++ [s.cause (.tlbi p) (s.m.time + 1)] } := by
      rw [State.freeze_core (s := { s with m := s.invalidating }) hc]
      rfl
    have hcur : (State.freeze { s with m := s.invalidating } (.tlbi p)).cur = .core k r st := by
      rw [State.freeze_core (s := { s with m := s.invalidating }) hc]
      exact hc
    refine (State.causes_advance hcur).trans ?_
    rw [hfreeze, Mach.gang?_updGang_self, show s.invalidating.gang? k = some x from hx]
    rfl
  · obtain ⟨y, hy⟩ := Option.isSome_iff_exists.mp (show (s.m.ctx? d i c).isSome = true by simpa [hc, Mach.seq?] using h.1.1)
    have hbeg := hbegun (u := { s with m := s.invalidating.updCtx d i c fun x => { x with run := .tlbi p } }) ⟨_, _, _, rfl⟩ rfl
    refine ⟨_, execTlbi_loupe hc h hp, hbeg.1, hbeg.2, ?_⟩
    have hrun := State.run_advance (s := { s with m := s.invalidating.updCtx d i c fun x => { x with run := .tlbi p } }) hc
    rw [hrun, Mach.ctx?_updCtx_self,
      show s.invalidating.ctx? d i c = some y from hy]
    rfl
  · exact execTlbi_faults h.1 hp
  · refine ⟨_, execDinv_runs h hp, ?_⟩
    obtain ⟨gangs, dies, k, hm⟩ := (s.dropping (ptrOff p / 64 * 64)).advance_m
    rw [hm, State.advance_iss]
    refine ⟨rfl, rfl, rfl, fun i hi => ?_⟩
    unfold State.dropping State.updIss
    rw [hi]
    rfl
  · obtain ⟨hspace, hrank, halign⟩ := hp
    exact execCsave_runs h hspace hrank halign
  · obtain ⟨hspace, hrank, halign⟩ := hp
    exact execCsave_unaligned h.1 hspace hrank halign
  · exact execCsave_faults h.1 hp
  · exact execDinv_faults h.1 hp

end Sys2Proof.Machine
end

section
/-! PROOFS. The events of transfers and Loupe commands (R305, R319, R320, R334, R338, R344, R345, R370). -/
namespace Sys2Proof.Machine

/-- A command whose entry has gone is in the table no more. -/
theorem Mach.tget_cmdGone (m : Mach) (id : Nat) : tget (m.cmdGone id).cmds id = none := tget_tdel_self m.cmds id

theorem Mach.tget_cmdDone (m : Mach) (id : Nat) (c : Cmd) : tget (m.cmdDone id c).cmds id = none := Mach.tget_cmdGone _ id

section
variable {s : State} {id : Nat} {c : Cmd} (hcmd : tget s.m.cmds id = some c)
include hcmd

/-! ## Transfers -/

theorem execTransferStart_goes {g r : Nat} (howner : c.owner = .t g r) (hnew : c.started = false) :
    Goes (execTransferStart id s) := by
  have henabled : (!s.m.cmdStarted id) = true := by rw [Mach.cmdStarted, hcmd, Option.map_some, Option.getD_some, hnew]; rfl
  unfold execTransferStart
  simp only [hcmd, howner]
  exact ⟨_, event_next henabled⟩

/-- A command without an acquire, with something to move, starts: only the settling of its bank and its mark are new. -/
theorem execTransferStart_plain {g r : Nat} (howner : c.owner = .t g r) (hnew : c.started = false) (hacq : c.acq = 7)
    (herr : c.err = none) (hunits : c.units ≠ 0) (hop : ∀ p r pk, c.op ≠ .tkvf p r pk) :
    execTransferStart id s = .next { s with m := (s.m.settleBank g r 0).updCmd id (fun c => { c with started := true }) } := by
  have henabled : (!s.m.cmdStarted id) = true := by rw [Mach.cmdStarted, hcmd, Option.map_some, Option.getD_some, hnew]; rfl
  unfold execTransferStart
  split
  · next heq => exact nomatch hcmd.symm.trans heq
  next c' heq =>
  obtain rfl := Option.some.inj (hcmd.symm.trans heq)
  split
  · next heq => exact nomatch howner.symm.trans heq
  next g' r' heq =>
  obtain ⟨rfl, rfl⟩ := Owner.t.inj (howner.symm.trans heq)
  extract_lets m1 m2 c1
  split
  next m3 _ d k hcluster =>
  extract_lets m4
  have e1 : m1 = s.m.settleBank g r 0 := if_neg (by rw [hacq]; decide)
  have e3 : m3 = m2 := by
    unfold m3
    split
    · next heq => exact nomatch herr.symm.trans heq
    · next heq => exact absurd heq (hop _ _ _)
    · rfl
  have e4 : m4 = m3 := if_neg (by simp [c1, hunits])
  rw [e4, e3]
  unfold m2
  rw [e1]
  exact event_next henabled

theorem execTransferComplete_gone {g r : Nat} (howner : c.owner = .t g r) (hfin : c.finished = true)
    (hold : s.m.oldest id c = true) : GoesTo (execTransferComplete id s) (fun t => tget t.m.cmds id = none) := by
  have henabled : (c.finished && s.m.oldest id c) = true := by rw [hfin, hold]; rfl
  unfold execTransferComplete
  simp only [hcmd, howner]
  refine ⟨_, event_next henabled, ?_⟩
  split
  · exact Mach.tget_cmdDone s.m id c
  · exact Mach.tget_cmdDone s.m id c

theorem execTransferComplete_plain {g r : Nat} (howner : c.owner = .t g r) (hfin : c.finished = true)
    (hold : s.m.oldest id c = true) (hop : ∀ p r pk, c.op ≠ .tkvf p r pk) :
    execTransferComplete id s = .next { s with m := s.m.cmdDone id c } := by
  have henabled : (c.finished && s.m.oldest id c) = true := by rw [hfin, hold]; rfl
  unfold execTransferComplete
  simp only [hcmd, howner]
  exact event_next henabled

theorem execTransferFault_cancels {e : BitVec 8 × Word × BitVec 128} (herr : c.err = some e) :
    execTransferFault id e.1 s = .next { s with m := s.m.cmdCancel id c true e } := by
  unfold execTransferFault
  simp only [hcmd, herr]
  exact event_next (beq_self_eq_true _)

theorem execCommandHalt_posts {va : Word} {write : Bool} (hhalt : c.halted = some (va, write)) :
    execCommandHalt id va s = .next { s with m := (s.m.postPage va write c.vd (.cmd id) c.goix).2 } := by
  unfold execCommandHalt
  simp only [hcmd, hhalt]
  exact event_next (beq_self_eq_true _)

/-! ## Loupe commands -/

theorem execLoupeCommandComplete_gives {d i k : Nat} (howner : c.owner = .l d i k) (hfin : c.finished = true) :
    execLoupeCommandComplete id s =
      .next { s with m := (s.m.cmdGone id).updCtx d i k fun x => { x with seq := x.seq.setS c.dreg c.result } } := by
  unfold execLoupeCommandComplete
  simp only [hcmd, howner]
  exact event_next hfin

theorem execLhandComplete_done {d i k : Nat} (howner : c.owner = .l d i k) (hfin : c.finished = true) :
    execLhandComplete id s = .next { s with m := s.m.cmdDone id c } := by
  unfold execLhandComplete
  simp only [hcmd, howner]
  exact event_next hfin

end

theorem execLoupeSliceEnd_goes {s : State} {die idx : Nat} {l : LoupeCore} (hl : s.m.loupe? die idx = some l)
    (hend : l.sliceEnd ≤ s.m.dieCycles die) : GoesTo (execLoupeSliceEnd die idx s) (fun t =>
      (t.m.loupe? die idx).map (·.sliceEnd) = some (s.m.dieCycles die + 8192) ∧ t.m.gangs = s.m.gangs) := by
  unfold execLoupeSliceEnd
  rw [hl]
  refine ⟨_, event_next (decide_eq_true hend), ?_⟩
  have hmoved (f : LoupeCore → LoupeCore) : ((s.m.updLoupe die idx f).loupe? die idx).map (·.sliceEnd) = some (f l).sliceEnd := by
    rw [Mach.loupe?_updLoupe_self, hl]
    rfl
  split
  · exact ⟨hmoved _, rfl⟩
  · exact ⟨hmoved _, rfl⟩

/-- Settles O54: each event by its own case. -/
theorem transferEvents : Obligations.TransferEvents := by
  unfold Obligations.TransferEvents
  intro s
  have hoverall {id : Nat} {c : Cmd} (h : (s.m.cmdsOf c.owner).head?.map (·.1) = some id) : s.m.oldest id c = true :=
    beq_iff_eq.mpr h
  refine ⟨fun id c g r hcmd howner hnew => ⟨execTransferStart_goes hcmd howner hnew, fun hacq herr hunits hop =>
      execTransferStart_plain hcmd howner hnew hacq herr hunits hop⟩,
    fun id c g r hcmd howner hfin hold => ⟨execTransferComplete_gone hcmd howner hfin (hoverall hold), fun hop =>
      execTransferComplete_plain hcmd howner hfin (hoverall hold) hop⟩,
    fun id c e hcmd herr => execTransferFault_cancels hcmd herr,
    fun id c va write hcmd hhalt => ⟨execCommandHalt_posts hcmd hhalt, rfl⟩,
    fun id c d i k hcmd howner hfin => ⟨⟨_, execLoupeCommandComplete_gives hcmd howner hfin, Mach.tget_cmdGone s.m id, rfl, rfl⟩,
      execLhandComplete_done hcmd howner hfin⟩, fun die idx l hl hend => execLoupeSliceEnd_goes hl hend⟩

end Sys2Proof.Machine
end

section
/-! PROOFS. The BAR words (R284-R291, R435). -/
namespace Sys2Proof.Machine

theorem bind_of_ok {α β : Type} {x : Except Stop α} {a : α} {f : α → Except Stop β} (h : x = .ok a) : x >>= f = f a := by
  subst h
  rfl

theorem bind_of_error {α β : Type} {x : Except Stop α} {e : Stop} {f : α → Except Stop β} (h : x = .error e) : x >>= f = .error e := by
  subst h
  rfl

/-! ## The checks of R435 -/

section
variable {m : Mach} {vd k : Nat}

theorem Mach.barOpen_ok (hact : (m.bar vd k).act = true) (horph : (m.bar vd k).orph = false) (hbrk : (m.bar vd k).brk = false) :
    m.barOpen vd k = .ok () := by
  unfold Mach.barOpen
  simp only [hact, horph, hbrk]
  rfl

theorem Mach.barOpen_idle (hact : (m.bar vd k).act = false) : m.barOpen vd k = .error (.fault { cause := 0x07 }) := by
  unfold Mach.barOpen
  simp only [hact]
  rfl

theorem Mach.barOpen_orphan (hact : (m.bar vd k).act = true) (horph : (m.bar vd k).orph = true) :
    m.barOpen vd k = .error (.fault { cause := 0x0B }) := by
  unfold Mach.barOpen
  simp only [hact, horph]
  rfl

theorem Mach.barOpen_broken (hact : (m.bar vd k).act = true) (horph : (m.bar vd k).orph = false) (hbrk : (m.bar vd k).brk = true) :
    m.barOpen vd k = .error (.fault { cause := 0x0C }) := by
  unfold Mach.barOpen
  simp only [hact, horph, hbrk]
  rfl

end

/-- A word that passes its declarations passes the first of them. -/
theorem Runs.left {s : State} {l l' : List Decl} {g : BitVec 4} {n : Bool} (h : Runs s (l ++ l') g n) : Runs s l g n := by
  obtain ⟨⟨hseq, hdecls, hguard⟩, hfalls⟩ := h
  rw [List.all_append, Bool.and_eq_true] at hdecls
  exact ⟨⟨hseq, hdecls.1, hguard⟩, hfalls⟩

section
variable {m : Mach} {a : Agent} {vd k bid n : Nat}

theorem Mach.barExpect_current (hin : m.inPhase a vd k bid = false) (hlt : (m.bar vd k).pend + n < 2 ^ 56) :
    m.barExpect a vd k bid n = .ok (m.updBar vd k fun b => { b with pend := b.pend + n }) :=
  (if_neg (by rw [hin]; exact Bool.false_ne_true)).trans (if_pos hlt)

theorem Mach.barExpect_horizon (hin : m.inPhase a vd k bid = true) (hlt : (m.bar vd k).hpend + n < 2 ^ 56) :
    m.barExpect a vd k bid n = .ok (m.updBar vd k fun b => { b with hpend := b.hpend + n }) := (if_pos hin).trans (if_pos hlt)

theorem Mach.barExpect_over (hover : 2 ^ 56 ≤ (if m.inPhase a vd k bid then (m.bar vd k).hpend else (m.bar vd k).pend) + n) :
    m.barExpect a vd k bid n = .error (.fault { cause := 0x0C }) := by
  unfold Mach.barExpect
  split at hover
  · next hin => exact (if_pos hin).trans (if_neg (Nat.not_lt.mpr hover))
  · next hin => exact (if_neg hin).trans (if_neg (Nat.not_lt.mpr hover))

end

/-! ## The words, by their checks -/

section
variable {s : State} {g : BitVec 4} {n : Bool} {bid : BitVec 8} {sc : BitVec 6} {sco : BitVec 3}

/-- Each word stops with the fault its barrier gives. -/
theorem barWords_stop {c : BitVec 8} (h : Runs s ([.name (.bar bid.toNat)] ++ sn [sc.toNat]) g n)
    (hopen : s.m.barOpen s.vd (s.barIdx bid) = .error (.fault { cause := c })) :
    execBarExpb g n bid sc s = .next (s.raise { cause := c }) ∧ execBarArv g n bid sco s = .next (s.raise { cause := c }) ∧
    execBarWait g n bid sco s = .next (s.raise { cause := c }) ∧ execBarAw g n bid sco s = .next (s.raise { cause := c }) := by
  have harrive : s.arrive bid sco = .error (.fault { cause := c }) := congrArg (· >>= _) hopen
  unfold execBarExpb execBarArv execBarWait execBarAw
  exact ⟨State.word_stops (e := .fault { cause := c }) h.1 (congrArg (· >>= _) hopen),
    State.word_stops (e := .fault { cause := c }) h.left.1 harrive,
    State.word_stops (e := .fault { cause := c }) h.left.1 (congrArg (· >>= _) hopen),
    State.word_stops (e := .fault { cause := c }) h.left.1 (congrArg (· >>= _) harrive)⟩

theorem execBarInit_runs (h : Runs s ([.name (.bar bid.toNat)] ++ sn [sc.toNat]) g n) (hgrp : (s.rd sc.toNat).toNat < s.hdr.ngrp)
    (hidle : s.m.barIdle s.vd (s.barIdx bid) = true) : execBarInit g n bid sc s =
      .next (State.advance { s with m := s.m.barInit s.cur s.vd (s.barIdx bid) bid.toNat (s.rd sc.toNat).toNat }) := by
  unfold execBarInit
  exact State.word_runs h ((need_bind_ok (decide_eq_true hgrp)).trans (need_bind_ok hidle))

theorem execBarInit_busy (h : Runs s ([.name (.bar bid.toNat)] ++ sn [sc.toNat]) g n) (hgrp : (s.rd sc.toNat).toNat < s.hdr.ngrp)
    (hidle : s.m.barIdle s.vd (s.barIdx bid) = false) : execBarInit g n bid sc s = .next (s.raise { cause := 0x07 }) := by
  unfold execBarInit
  exact State.word_raises h.1 ((need_bind_ok (decide_eq_true hgrp)).trans (need_bind_error hidle))

theorem execBarInit_beyond (h : Runs s ([.name (.bar bid.toNat)] ++ sn [sc.toNat]) g n) (hgrp : s.hdr.ngrp ≤ (s.rd sc.toNat).toNat) :
    execBarInit g n bid sc s = .next (s.raise { cause := 0x02 }) := by
  unfold execBarInit
  exact State.word_raises h.1 (need_bind_error (decide_eq_false (Nat.not_lt.mpr hgrp)))

theorem execBarExpb_runs {m : Mach} (h : Runs s ([.name (.bar bid.toNat)] ++ sn [sc.toNat]) g n)
    (hopen : s.m.barOpen s.vd (s.barIdx bid) = .ok ())
    (hexp : s.m.barExpect s.cur s.vd (s.barIdx bid) bid.toNat (s.rd sc.toNat).toNat = .ok m) :
    execBarExpb g n bid sc s = .next (State.advance { s with m := m }) := by
  unfold execBarExpb
  exact State.word_runs h ((bind_of_ok hopen).trans (bind_of_ok hexp))

theorem execBarExpb_over (h : Runs s ([.name (.bar bid.toNat)] ++ sn [sc.toNat]) g n)
    (hopen : s.m.barOpen s.vd (s.barIdx bid) = .ok ())
    (hexp : s.m.barExpect s.cur s.vd (s.barIdx bid) bid.toNat (s.rd sc.toNat).toNat = .error (.fault { cause := 0x0C })) :
    execBarExpb g n bid sc s = .next (s.raise { cause := 0x0C }) := by
  unfold execBarExpb
  exact State.word_stops (e := .fault { cause := 0x0C }) h.1 ((bind_of_ok hopen).trans (bind_of_error hexp))

theorem arriveWords_run {t : State} (h : Runs s [.name (.bar bid.toNat)] g n) (harrive : s.arrive bid sco = .ok t) :
    execBarArv g n bid sco s = .next t.advance ∧ execBarAw g n bid sco s = .next (t.barWait bid sco).advance := by
  unfold execBarArv execBarAw
  exact ⟨State.word_runs h harrive, State.word_runs h (congrArg (· >>= _) harrive)⟩

theorem arriveWords_stop {c : BitVec 8} (h : Runs s [.name (.bar bid.toNat)] g n)
    (harrive : s.arrive bid sco = .error (.fault { cause := c })) :
    execBarArv g n bid sco s = .next (s.raise { cause := c }) ∧ execBarAw g n bid sco s = .next (s.raise { cause := c }) := by
  unfold execBarArv execBarAw
  exact ⟨State.word_stops (e := .fault { cause := c }) h.1 harrive,
    State.word_stops (e := .fault { cause := c }) h.1 (congrArg (· >>= _) harrive)⟩

theorem execBarWait_runs (h : Runs s [.name (.bar bid.toNat)] g n) (hopen : s.m.barOpen s.vd (s.barIdx bid) = .ok ()) :
    execBarWait g n bid sco s = .next (s.barWait bid sco).advance := by
  unfold execBarWait
  exact State.word_runs h (congrArg (· >>= _) hopen)

end

/-! ## Arrival records (R285) -/

/-- The arrival records of an agent, one per barrier it has arrived at. -/
def Mach.records (m : Mach) : Agent → Option (Tab (BitVec 16))
  | .core g r _ => match m.awayRank g r with
    | some c => some c.arr
    | none => (m.core? g r).map (·.arr)
  | .loupe d i c => (m.ctx? d i c).map (·.arr)

theorem Mach.arrRec_eq (m : Mach) (a : Agent) (bid : Nat) : m.arrRec a bid = (m.records a).bind (tget · bid) := by
  cases a with
  | core g r st =>
    unfold Mach.arrRec Mach.records
    cases h : m.awayRank g r with
    | none => simp [h, Option.bind_map]
    | some c => simp [h]
  | loupe d i c => simp [Mach.arrRec, Mach.records, Option.bind_map]

/-- A record set or cleared in a table of records. -/
def setRecord (bid : Nat) (v : Option (BitVec 16)) (t : Tab (BitVec 16)) : Tab (BitVec 16) :=
  match v with | none => tdel t bid | some g => tset t bid g

theorem tget_setRecord (bid : Nat) (v : Option (BitVec 16)) (t : Tab (BitVec 16)) : tget (setRecord bid v t) bid = v := by
  cases v with
  | none => exact tget_tdel_self t bid
  | some g => exact tget_tset_self t bid g

theorem Mach.awayRank_updAway (m : Mach) (g r h k : Nat) (f : AwayRank → AwayRank) :
    (m.updAway g r f).awayRank h k = if h = g ∧ k = r then (m.awayRank h k).map f else m.awayRank h k := by
  unfold Mach.awayRank Mach.updAway
  by_cases hg : h = g
  · subst hg
    simp only [tget_tupd_self, true_and]
    cases tget m.away h with
    | none => simp
    | some a =>
      by_cases hk : k = r
      · subst hk
        simp
      · rw [if_neg hk]
        exact List.getElem?_modify_ne _ _ (Ne.symm hk)
  · rw [if_neg (fun hk => hg hk.1)]
    exact congrArg (Option.bind · _) (tget_tupd_ne m.away g h _ hg)

theorem Mach.awayRank_updCore (m : Mach) (g r h k : Nat) (f : Core → Core) : (m.updCore g r f).awayRank h k = m.awayRank h k := rfl

theorem Mach.ctx?_updCtx (m : Mach) (d i c d' i' c' : Nat) (f : LoupeCtx → LoupeCtx) :
    (m.updCtx d i c f).ctx? d' i' c' = if d' = d ∧ i' = i ∧ c' = c then (m.ctx? d' i' c').map f else m.ctx? d' i' c' := by
  simp only [Mach.ctx?, Mach.loupe?, Mach.updCtx, Mach.updLoupe, Mach.updDie, getElem?_vupd]
  by_cases hd : d' = d
  · subst hd
    cases m.dies[d']? with
    | none => simp
    | some x =>
      by_cases hi : i' = i
      · subst hi
        cases h : x.loupes[i']? with
        | none => simp [getElem?_vupd, h]
        | some y =>
          by_cases hc : c' = c
          · subst hc
            simp [getElem?_vupd, h]
          · simp [getElem?_vupd, h, hc, List.getElem?_modify_ne _ _ (Ne.symm hc)]
      · simp [getElem?_vupd, hi]
  · simp [hd]

/-- Setting an agent's record leaves another's table, or sets the same record in it. -/
theorem Mach.records_setArr (m : Mach) (a b : Agent) (bid : Nat) (v : Option (BitVec 16)) :
    (m.setArr a bid v).records b = (m.records b).map (setRecord bid v) ∨
      a ≠ b ∧ (m.setArr a bid v).records b = m.records b := by
  cases a with
  | core g r st =>
    unfold Mach.setArr
    simp only
    split
    · next haway =>
      cases b with
      | loupe d i c => exact .inr ⟨nofun, rfl⟩
      | core h k st' =>
        unfold Mach.records
        simp only [Mach.awayRank_updAway]
        by_cases hp : h = g ∧ k = r
        · obtain ⟨rfl, rfl⟩ := hp
          obtain ⟨c, hc⟩ := Option.isSome_iff_exists.mp haway
          exact .inl (by simp only [hc]; rfl)
        · exact .inr ⟨fun he => hp (by cases he; exact ⟨rfl, rfl⟩), by rw [if_neg hp]; rfl⟩
    · next haway =>
      cases b with
      | loupe d i c => exact .inr ⟨nofun, rfl⟩
      | core h k st' =>
        unfold Mach.records
        by_cases hp : (h, k) = (g, r)
        · obtain ⟨rfl, rfl⟩ := Prod.mk.inj hp
          simp only [Mach.awayRank_updCore, Option.not_isSome_iff_eq_none.mp haway, Mach.core?_updCore_self]
          exact .inl (by rw [Option.map_map, Option.map_map]; rfl)
        · exact .inr ⟨fun he => hp (by cases he; rfl), by simp only [Mach.awayRank_updCore, Mach.core?_updCore_ne m _ hp]⟩
  | loupe d i c =>
    cases b with
    | core g r st => exact .inr ⟨nofun, rfl⟩
    | loupe d' i' c' =>
      unfold Mach.setArr Mach.records
      simp only [Mach.ctx?_updCtx]
      by_cases hp : d' = d ∧ i' = i ∧ c' = c
      · rw [if_pos hp]
        exact .inl (by rw [Option.map_map, Option.map_map]; rfl)
      · rw [if_neg hp]
        exact .inr ⟨fun he => hp (by cases he; exact ⟨rfl, rfl, rfl⟩), rfl⟩

section
variable {m : Mach} {a b : Agent} {bid : Nat} {v : Option (BitVec 16)}

theorem Mach.arrRec_setArr_self (h : (m.records a).isSome = true) : (m.setArr a bid v).arrRec a bid = v := by
  obtain ⟨t, ht⟩ := Option.isSome_iff_exists.mp h
  rcases m.records_setArr a a bid v with hset | ⟨hne, -⟩
  · rw [Mach.arrRec_eq, hset, ht]
    exact tget_setRecord bid v t
  · exact absurd rfl hne

theorem Mach.arrRec_cleared : (m.setArr a bid none).arrRec a bid = none := by
  rcases m.records_setArr a a bid none with hset | ⟨hne, -⟩
  · rw [Mach.arrRec_eq, hset]
    cases m.records a with
    | none => rfl
    | some t => exact tget_setRecord bid none t
  · exact absurd rfl hne

theorem Mach.arrRec_stays_clear (h : m.arrRec b bid = none) : (m.setArr a bid none).arrRec b bid = none := by
  rcases m.records_setArr a b bid none with hset | ⟨-, hset⟩
  · rw [Mach.arrRec_eq, hset]
    cases m.records b with
    | none => rfl
    | some t => exact tget_setRecord bid none t
  · rwa [Mach.arrRec_eq, hset, ← Mach.arrRec_eq]

/-- Clearing the records of some agents, in turn. -/
theorem Mach.arrRec_clearAll {l : List Agent} (h : b ∈ l ∨ m.arrRec b bid = none) :
    (l.foldl (fun m a => m.setArr a bid none) m).arrRec b bid = none := by
  induction l generalizing m with
  | nil => exact h.resolve_left List.not_mem_nil
  | cons c l ih =>
    refine ih ?_
    rcases h with hmem | hclear
    · rcases List.mem_cons.mp hmem with rfl | hmem
      · exact .inr Mach.arrRec_cleared
      · exact .inl hmem
    · exact .inr (Mach.arrRec_stays_clear hclear)

theorem Mach.vds_setArr : (m.setArr a bid v).vds = m.vds := by
  unfold Mach.setArr
  cases a with
  | core g r st => exact (apply_ite Mach.vds _ _ _).trans (ite_self _)
  | loupe d i c => rfl

end

/-- A live member has its records. -/
theorem Mach.isSome_records {m : Mach} {a : Agent} (h : m.memberLive a = true) : (m.records a).isSome = true := by
  cases a with
  | loupe d i c =>
    unfold Mach.memberLive at h
    unfold Mach.records
    cases hctx : m.ctx? d i c with
    | none => simp [hctx] at h
    | some x => simp [hctx]
  | core g r st =>
    unfold Mach.memberLive Mach.streams at h
    unfold Mach.records Mach.awayRank
    cases haway : tget m.away g with
    | none =>
      cases hcore : m.core? g r with
      | none => simp [haway, hcore] at h
      | some c => simp [haway, hcore]
    | some x =>
      cases hrank : x.ranks[r]? with
      | none => simp [haway, hrank] at h
      | some c => simp [haway, hrank]

/-! ## INIT and the arrival -/

section
variable {m : Mach} {a : Agent} {vd k bid : Nat}

theorem Mach.bar_setArr_foldl (l : List Agent) (w : Nat) (m : Mach) :
    (l.foldl (fun m a => m.setArr a bid none) m).bar w k = m.bar w k := by
  refine foldl_keeps (P := fun n : Mach => n.bar w k = m.bar w k) rfl fun n b hn => ?_
  rw [← hn, Mach.bar, Mach.bar, Mach.vd_of_vds Mach.vds_setArr]

/-- INIT counts the barrier's members and clears their records (R287). -/
theorem Mach.bar_barInit {j : Job} {g : Nat} (hj : m.jobOf a = some j) (hvd : (m.vd? vd).isSome = true) :
    let live := ((m.members j (m.group a g)).filter fun a => m.memberLive a).length
    (m.barInit a vd k bid g).bar vd k = { m.bar vd k with
      group := BitVec.ofNat 8 g, live := live, exp := live, orph := false, brk := false, act := true, now := {}, next := {}, dirty := false } := by
  intro live
  unfold Mach.barInit
  rw [hj]
  exact (Mach.bar_setArr_foldl _ vd _).trans (Mach.bar_updBar_self hvd k _)

theorem Mach.arrRec_barInit {j : Job} {g : Nat} (hj : m.jobOf a = some j) {b : Agent} (hb : b ∈ m.members j (m.group a g)) :
    (m.barInit a vd k bid g).arrRec b bid = none := by
  unfold Mach.barInit
  rw [hj]
  exact Mach.arrRec_clearAll (.inl hb)

theorem Mach.records_bump (m : Mach) (g r : Nat) (st : Stream) :
    (m.updCore g r Core.bump).records (.core g r st) = m.records (.core g r st) := by
  unfold Mach.records
  simp only [Mach.awayRank_updCore, Mach.core?_updCore_self, Option.map_map]
  rfl

/-- An arrival leaves its record, and in the queue one more entry, its release (R289). -/
theorem Mach.barArrive_leaves (m : Mach) (a : Agent) (vd k bid : Nat) (sco : BitVec 3) (seq n : Nat) (pc : BitVec 14) :
    let gen := if m.inPhase a vd k bid then (m.bar vd k).gen + 1 else (m.bar vd k).gen
    let t := m.barArrive a vd k bid sco seq pc n
    t.records a = (m.setArr a bid (some gen)).records a ∧
    ∃ id q, t.queue = m.queue ++ [(id, q)] ∧ q.who = .agent a ∧ q.op = .arrive vd k gen ∧ q.rel = true := by
  intro gen t
  have hqueue : (m.setArr a bid (some gen)).queue = m.queue := by
    unfold Mach.setArr
    cases a with
    | core g r st => exact (apply_ite Mach.queue _ _ _).trans (ite_self _)
    | loupe d i c => rfl
  unfold t Mach.barArrive
  extract_lets b gen' m1 m2
  have h1 : m1.records a = (m.setArr a bid (some gen)).records a ∧ m1.queue = m.queue := ⟨by cases a <;> rfl, hqueue⟩
  have h2 : m2.records a = m1.records a ∧ m2.queue = m1.queue := by
    unfold m2
    cases a with
    | loupe d i c => exact ⟨rfl, rfl⟩
    | core g r st =>
      have hmet : (match m1.core? g r with
          | some c => (m1.phaseMerge vd k gen' (some g) (c.snap r (m1.interval g r seq))).updCore g r Core.bump
          | none => m1) |> fun t => t.records (.core g r st) = m1.records (.core g r st) ∧ t.queue = m1.queue := by
        split
        · exact ⟨Mach.records_bump _ g r st, rfl⟩
        · exact ⟨rfl, rfl⟩
      exact ite_keeps (P := fun t : Mach => t.records (.core g r st) = m1.records (.core g r st) ∧ t.queue = m1.queue) hmet hmet
  exact ⟨(show _ = m2.records a by cases a <;> rfl).trans (h2.1.trans h1.1), m2.nextId, {
    who := .agent a, vd := vd, cls := 0, seq := seq, op := .arrive vd k gen, loc := .sys 0, rel := true, sco := barSco a sco
    pc := pc }, congrArg (· ++ _) (h2.2.trans h1.2), rfl, rfl, rfl⟩

end

/-! ## The wait (R290) -/

section
variable {s : State} {bid : BitVec 8} {sco : BitVec 3}

/-- A wait whose phase has passed. -/
theorem State.barWait_passed {ag : BitVec 16} (h : s.m.barTarget s.cur s.vd (s.barIdx bid) bid.toNat = none)
    (hrec : s.m.arrRec s.cur bid.toNat = some ag) :
    s.barWait bid sco = { s with m := s.m.barAcquire s.cur s.vd (s.barIdx bid) ag sco } := by
  unfold State.barWait
  simp only [h, hrec, Option.getD_some]

theorem State.barWait_core {gen : BitVec 16} {k r : Nat} {st : Stream} (hc : s.cur = .core k r st)
    (h : s.m.barTarget s.cur s.vd (s.barIdx bid) bid.toNat = some gen) :
    s.barWait bid sco = s.freeze (.barrier (s.barIdx bid) gen sco) := by
  unfold State.barWait
  simp only [h]
  rw [hc]

theorem State.barWait_loupe {gen : BitVec 16} {d i c : Nat} (hc : s.cur = .loupe d i c)
    (h : s.m.barTarget s.cur s.vd (s.barIdx bid) bid.toNat = some gen) : s.barWait bid sco =
      { s with m := s.m.updCtx d i c fun x => { x with run := .waiting (s.barIdx bid) gen sco } } := by
  unfold State.barWait
  simp only [h]
  rw [hc]

end

/-- What a wait waits for, by the record of the one that waits. -/
theorem Mach.barTarget_eq {m : Mach} {a : Agent} {vd k bid : Nat} {gen : BitVec 16}
    (h : (m.inGroup a (m.group a (m.bar vd k).group.toNat) = true ∧ m.arrRec a bid = some gen ∧ (m.bar vd k).passed gen = false) ∨
      ((¬ m.inGroup a (m.group a (m.bar vd k).group.toNat) = true ∨ m.arrRec a bid = none) ∧ gen = (m.bar vd k).gen)) :
    m.barTarget a vd k bid = some gen := by
  unfold Mach.barTarget
  extract_lets b
  rcases h with ⟨hin, hrec, hpast⟩ | ⟨hnone, rfl⟩
  · rw [if_pos hin, hrec]
    exact if_neg (by rw [hpast]; exact Bool.false_ne_true)
  · have hno : (if m.inGroup a (m.group a b.group.toNat) then m.arrRec a bid else none) = none := by
      split
      · next hin => exact hnone.resolve_left (not_not_intro hin)
      · rfl
    rw [hno]

theorem Mach.barTarget_passed {m : Mach} {a : Agent} {vd k bid : Nat} {ag : BitVec 16}
    (hin : m.inGroup a (m.group a (m.bar vd k).group.toNat) = true) (hrec : m.arrRec a bid = some ag)
    (hpast : (m.bar vd k).passed ag = true) : m.barTarget a vd k bid = none := by
  unfold Mach.barTarget
  extract_lets b
  rw [if_pos hin, hrec]
  exact if_pos hpast

/-- The arrival of a member that may arrive, and of another. -/
theorem State.arrive_ok {s : State} {bid : BitVec 8} {sco : BitVec 3} (hopen : s.m.barOpen s.vd (s.barIdx bid) = .ok ())
    (hmay : (s.m.memberLive s.cur && s.m.inGroup s.cur (s.m.group s.cur (s.m.bar s.vd (s.barIdx bid)).group.toNat) &&
      s.m.arrRec s.cur bid.toNat != some ((s.m.bar s.vd (s.barIdx bid)).gen + 1)) = true) :
    s.arrive bid sco = .ok { s with m := s.m.barArrive s.cur s.vd (s.barIdx bid) bid.toNat sco s.ec s.regs.pc 11 } :=
  (bind_of_ok hopen).trans (need_bind_ok hmay)

theorem State.arrive_refused {s : State} {bid : BitVec 8} {sco : BitVec 3} (hopen : s.m.barOpen s.vd (s.barIdx bid) = .ok ())
    (hmay : (s.m.memberLive s.cur && s.m.inGroup s.cur (s.m.group s.cur (s.m.bar s.vd (s.barIdx bid)).group.toNat) &&
      s.m.arrRec s.cur bid.toNat != some ((s.m.bar s.vd (s.barIdx bid)).gen + 1)) = false) :
    s.arrive bid sco = .error (.fault { cause := 0x07 }) :=
  (bind_of_ok hopen).trans (need_bind_error hmay)

/-- Settles O30: each word by the checks of R435, an arrival by its record and its release, a wait by the record of the one that waits. -/
theorem barrierWords : Obligations.BarrierWords := by
  unfold Obligations.BarrierWords
  intro s g n bid sc sco k b v sound member may inited arrived gen stops
  have hopen (h : sound) : s.m.barOpen s.vd k = .ok () := Mach.barOpen_ok h.1 h.2.1 h.2.2
  have hmayIff : may ↔ (s.m.memberLive s.cur && s.m.inGroup s.cur (s.m.group s.cur b.group.toNat) &&
      s.m.arrRec s.cur bid.toNat != some (b.gen + 1)) = true := by
    simp [may, member, and_assoc]
  refine ⟨fun h => ⟨execBarInit_runs h, execBarInit_busy h, execBarInit_beyond h,
      fun hs hin hlt => execBarExpb_runs h (hopen hs) (Mach.barExpect_current hin hlt),
      fun hs hin hlt => execBarExpb_runs h (hopen hs) (Mach.barExpect_horizon hin hlt),
      fun hs hover => execBarExpb_over h (hopen hs) (Mach.barExpect_over hover),
      fun hact => barWords_stop h (Mach.barOpen_idle hact), fun hact horph => barWords_stop h (Mach.barOpen_orphan hact horph),
      fun hact horph hbrk => barWords_stop h (Mach.barOpen_broken hact horph hbrk)⟩,
    fun j hj hvd => ?_, fun h hs => ⟨fun hmay => ?_, fun hnot => ?_, execBarWait_runs h (hopen hs)⟩, fun ag hrec hmem hpast =>
      State.barWait_passed (Mach.barTarget_passed hmem hrec hpast) hrec,
    fun gen hgen => ⟨fun a r st hc => State.barWait_core hc (Mach.barTarget_eq hgen), fun d i c hc =>
      State.barWait_loupe hc (Mach.barTarget_eq hgen)⟩⟩
  · intro l c
    have hc : c = _ := Mach.bar_barInit hj hvd
    rw [hc]
    exact ⟨rfl, rfl, rfl, rfl, rfl, rfl, rfl, fun a ha => Mach.arrRec_barInit hj ha⟩
  · have hrun := arriveWords_run (sco := sco) h (State.arrive_ok (hopen hs) (hmayIff.mp hmay))
    obtain ⟨hrecords, hqueue⟩ := s.m.barArrive_leaves s.cur s.vd k bid.toNat sco s.ec 11 s.regs.pc
    refine ⟨hrun.1, hrun.2, ?_, hqueue⟩
    rw [Mach.arrRec_eq, hrecords, ← Mach.arrRec_eq]
    exact Mach.arrRec_setArr_self (Mach.isSome_records hmay.1)
  · exact arriveWords_stop h (State.arrive_refused (hopen hs) (Bool.not_eq_true _ ▸ mt hmayIff.mpr hnot))

end Sys2Proof.Machine
end

section
/-! PROOFS. The LOUPE words (R338-R344). -/
namespace Sys2Proof.Machine

/-! ## An access that leaves its queue puts no command into the table -/

/-- The table of commands stands. -/
def Mach.SameCmds (m k : Mach) : Prop := k.cmds = m.cmds

section
variable {m k k' : Mach}

theorem Mach.SameCmds.refl : m.SameCmds m := rfl

theorem Mach.SameCmds.congr (h : m.SameCmds k) (hc : k'.cmds = k.cmds := by rfl) : m.SameCmds k' := hc.trans h

theorem Mach.SameCmds.ite {p : Prop} [Decidable p] (h : m.SameCmds k) (h' : m.SameCmds k') : m.SameCmds (if p then k else k') :=
  ite_keeps h h'

theorem Mach.SameCmds.foldl {α : Type} {f : Mach → α → Mach} {l : List α} (h : m.SameCmds k)
    (hf : ∀ k a, m.SameCmds k → m.SameCmds (f k a)) : m.SameCmds (l.foldl f k) := foldl_keeps h hf

/-! ## Repairs, logs and stops (R345, R405-R411) -/

theorem Mach.SameCmds.crash (h : m.SameCmds k) : m.SameCmds k.crash := h.ite h.congr

theorem Mach.SameCmds.fromMirror {r : Mirror} {pa n : Nat} (h : m.SameCmds k) : m.SameCmds (k.fromMirror r pa n) := by
  unfold Mach.fromMirror
  extract_lets
  split
  · exact h
  · exact h.congr

theorem Mach.SameCmds.repair {q : Nat} {good readback : Bool} (h : m.SameCmds k) : m.SameCmds (k.repair q good readback) := by
  unfold Mach.repair
  extract_lets pa k1 sym _ k2
  have h2 : m.SameCmds k2 := h.congr
  split
  · exact h2
  · have hlog : m.SameCmds (k2.logArray pa sym true true) := h2.congr
    exact .ite (.crash h2.congr) (.ite hlog.fromMirror (.fromMirror (hlog.fromMirror.congr)))

theorem Mach.SameCmds.mend {l : Loc} {n : Nat} (h : m.SameCmds k) : m.SameCmds (k.mend l n) := by
  unfold Mach.mend
  split
  · exact h.foldl fun _ _ h => .repair h.congr
  · exact h

theorem Mach.SameCmds.logBad {l : Loc} {n : Nat} (h : m.SameCmds k) : m.SameCmds (k.logBad l n) := by
  unfold Mach.logBad
  split
  · exact h.foldl fun _ _ h => h.congr
  · exact h

theorem Mach.SameCmds.lateFault {q : QEntry} {cause : BitVec 8} {addr : Word} {race : BitVec 128} {redo : Redo} (h : m.SameCmds k) :
    m.SameCmds (k.lateFault q cause addr race redo) := by
  unfold Mach.lateFault
  split
  · exact h.congr
  · exact h.congr
  · exact h

/-! ## The race checker (R325-R331) -/

theorem Mach.SameCmds.learnOutside {g r : Nat} (h : m.SameCmds k) : m.SameCmds (k.learnOutside g r) := by
  unfold Mach.learnOutside
  split
  · exact h
  · exact h.congr

theorem Mach.SameCmds.learnPv {g r : Nat} (h : m.SameCmds k) : m.SameCmds (k.learnPv g r) := by
  unfold Mach.learnPv
  split
  · exact h
  · exact h.congr

theorem Mach.SameCmds.publish {g : Nat} {p : Snap} (h : m.SameCmds k) : m.SameCmds (k.publish g p) := h.congr

theorem Mach.SameCmds.raceRelease {g r sco iv : Nat} {unit : Option Nat} (h : m.SameCmds k) : m.SameCmds (k.raceRelease g r sco iv unit) := by
  unfold Mach.raceRelease
  split
  · next x c _ _ =>
    extract_lets p k1 k2
    have h1 : m.SameCmds k1 := h.congr
    have h2 : m.SameCmds k2 := by
      unfold k2
      split
      · exact h1
      · exact h1.congr
    exact .ite h2.congr h2
  · exact h

theorem Mach.SameCmds.raceAcquireFence {g r : Nat} (h : m.SameCmds k) : m.SameCmds (k.raceAcquireFence g r) :=
  h.learnPv.learnOutside.congr

theorem Mach.SameCmds.setShadow {u : UnitRef} {e : Shadow} (h : m.SameCmds k) : m.SameCmds (k.setShadow u e) := by
  cases u with
  | scr g r n => exact h.congr
  | glb v n => exact h.congr

theorem Mach.SameCmds.raceAcquire {x : RaceAcc} {u : UnitRef} {e : Shadow} (h : m.SameCmds k) : m.SameCmds (k.raceAcquire x u e) := by
  unfold Mach.raceAcquire
  split
  · exact h
  · refine .ite h.raceAcquireFence (.ite ?_ h)
    extract_lets recs
    split
    · exact h.congr
    · exact h.learnPv.congr

theorem Mach.SameCmds.raceAccess {x : RaceAcc} {u : UnitRef} {ptr : Word} (h : m.SameCmds k) : m.SameCmds (k.raceAccess x u ptr).1 := by
  unfold Mach.raceAccess
  split
  · exact h
  · extract_lets job vg e k1 e1 e2 k2
    have h1 : m.SameCmds k1 := .ite h.raceAcquire h
    split
    · exact h1
    · exact .ite h1.setShadow.raceRelease h1.setShadow

theorem Mach.SameCmds.noteOutside {q : QEntry} (h : m.SameCmds k) : m.SameCmds (q.noteOutside k) := by
  unfold QEntry.noteOutside
  split
  · exact h
  · split
    · exact h
    · exact h.setShadow
  · split
    · exact h
    · exact h.setShadow

theorem Mach.SameCmds.noteUnchecked {q : QEntry} (h : m.SameCmds k) : m.SameCmds (q.noteUnchecked k) := by
  unfold QEntry.noteUnchecked
  split
  · exact .ite (Mach.SameCmds.ite h.raceAcquireFence h).raceRelease (.ite h.raceAcquireFence h)
  · exact h.noteOutside

theorem Mach.SameCmds.bumpOf {q : QEntry} (h : m.SameCmds k) : m.SameCmds (q.bumpOf k) := by
  unfold QEntry.bumpOf
  split
  · exact h.congr
  · exact h

/-- The release that an event or a notice of a gang core is (R327). -/
theorem Mach.SameCmds.raceReleaseOf {q : QEntry} (h : m.SameCmds k) :
    m.SameCmds (match q.who with | .agent (.core g r _) => k.raceRelease g r 4 q.icnt none | _ => k) := by
  split
  · exact h.raceRelease
  · exact h

/-! ## Queues, replies and view buffers (R264, R265, R270) -/

theorem Mach.SameCmds.noteAgain {q : QEntry} (h : m.SameCmds k) : m.SameCmds (k.noteAgain q) := by
  unfold Mach.noteAgain
  split
  · exact h.congr
  · exact h.congr
  · exact h.congr
  · exact h.congr
  · exact h

theorem Mach.SameCmds.hear {w : Who} {l : List RelVal} (h : m.SameCmds k) : m.SameCmds (k.hear w l) := h.ite h.congr
theorem Mach.SameCmds.acquired {w : Who} (h : m.SameCmds k) : m.SameCmds (k.acquired w) := h.congr
theorem Mach.SameCmds.acquireOf {w : Who} {sco : Nat} {l : List RelVal} (h : m.SameCmds k) : m.SameCmds (k.acquireOf w sco l) :=
  h.acquired.ite h.hear
theorem Mach.SameCmds.prune {id : Nat} (h : m.SameCmds k) : m.SameCmds (k.prune id) := h.ite h.congr
theorem Mach.SameCmds.readEarly {q : QEntry} (h : m.SameCmds k) : m.SameCmds (k.readEarly q) := h.ite h.congr
theorem Mach.SameCmds.markSeen {id : Nat} {q : QEntry} (h : m.SameCmds k) : m.SameCmds (k.markSeen id q) := h.ite h.congr

theorem Mach.SameCmds.fillReply {id : Nat} {bytes : List (Nat × Byte)} {fault : Option (BitVec 8 × Word × BitVec 128)} {own : Bool} {n : Nat}
    (h : m.SameCmds k) : m.SameCmds (k.fillReply id bytes fault own n) := by
  unfold Mach.fillReply
  split
  · exact h
  · exact .ite h.congr h.congr

theorem Mach.SameCmds.readView {w : Who} {l : Loc} {n i va : Nat} (h : m.SameCmds k) : m.SameCmds (k.readView w l n i va).2 := by
  unfold Mach.readView
  split
  · exact h
  · split
    · exact h
    · split
      · exact h
      · exact .ite h.congr h

theorem Mach.SameCmds.writeLoc {l : Loc} {data : List (Nat × Byte)} (h : m.SameCmds k) : m.SameCmds (k.writeLoc l data) := by
  cases l with
  | scr g r o => exact h.congr
  | lpe d i c o => exact h.congr
  | dev pa => exact h.congr
  | host a => exact h.congr
  | peer v o => exact h.congr
  | sys n => exact h

theorem Mach.SameCmds.renewCopy {w : Who} {l : Loc} (h : m.SameCmds k) : m.SameCmds (k.renewCopy w l) := by
  unfold Mach.renewCopy
  split
  · exact h
  · split
    · exact h
    · exact h.congr

/-- A write at its commit point. -/
theorem Mach.SameCmds.commitWrite {q : QEntry} {data : List (Nat × Byte)} (h : m.SameCmds k) :
    m.SameCmds (((k.writeLoc q.loc data).renewCopy q.who q.loc).noteWrite q) := h.writeLoc.renewCopy.congr

/-! ## Commit (R264) -/

theorem Mach.SameCmds.perform {id : Nat} {q : QEntry} {chk : Bool} (h : m.SameCmds k) : m.SameCmds (k.perform id q chk) := by
  unfold Mach.perform
  extract_lets k0 k1 own k2 k3 err k4
  have h1 : m.SameCmds k1 := .prune h.congr
  have h2 : m.SameCmds k2 := .ite h1.mend h1
  have h3 : m.SameCmds k3 := h2.foldl fun _ _ h => h.mend
  have h4 : m.SameCmds k4 := .ite h3.logBad h3
  split
  next k5 rep heq =>
  have h5 : m.SameCmds k5 := by
    refine of_fst heq ?_
    split
    · exact .ite h4.bumpOf h4
    · split
      · exact h4.raceAccess
      · exact h4.noteUnchecked
  extract_lets +onlyGivenNames fault k6 vals k7 k8 k9
  have h6 : m.SameCmds k6 := .ite h5.noteAgain h5
  have h7 : m.SameCmds k7 := h6.readEarly
  have h8 : m.SameCmds k8 := .ite h7 (.ite h7.acquireOf (.ite h7 h7.hear))
  have h9 : m.SameCmds k9 := by
    unfold k9
    split
    · exact .ite (h8.congr) h8
    · exact h8
  clear_value k9 fault
  split
  case h_1 => exact h9.readView.markSeen.fillReply
  case h_2 => exact h9.fillReply
  case h_3 =>
    split
    · exact h9.lateFault
    · exact h9.commitWrite
  case h_4 =>
    split
    · exact h9.lateFault
    · exact h9.writeLoc
  case h_5 => exact .fillReply (.ite h9 h9.commitWrite)
  case h_6 =>
    refine .fillReply (.ite h9 (.ite h9.commitWrite ?_))
    split
    · exact h9.congr
    · exact h9
  case h_7 =>
    extract_lets n1 n2
    have h1 : m.SameCmds n1 := .ite (h9.congr) h9
    have h2 : m.SameCmds n2 := by
      unfold n2
      split
      · exact .ite (Mach.SameCmds.ite h1.raceRelease h1).raceAcquireFence (.ite h1.raceRelease h1)
      · exact h1
    exact .ite h2.acquireOf h2
  case h_8 => exact h9.congr
  case h_9 => exact h9.raceReleaseOf.congr
  case h_10 => exact h9.raceReleaseOf.congr
  case h_11 =>
    extract_lets +onlyGivenNames k10 k11
    have h10 : m.SameCmds k10 := .ite h9.publish h9
    have h11 : m.SameCmds k11 := .ite (h10.congr) h10
    split
    · exact h11.congr
    · exact h11

theorem Mach.SameCmds.force {n id : Nat} (h : m.SameCmds k) : m.SameCmds (Mach.force n k id) := by
  induction n generalizing k id with
  | zero => exact h
  | succ n ih =>
    unfold Mach.force
    split
    · exact h
    · next q hq =>
      have hf : m.SameCmds ((k.blockers id q).foldl (fun m p => Mach.force n m p.1) k) := h.foldl fun _ _ => ih
      exact .ite (.perform (hf.congr)) hf

theorem Mach.SameCmds.forceAll {ids : List Nat} (h : m.SameCmds k) : m.SameCmds (k.forceAll ids) := h.foldl fun _ _ h => h.force
theorem Mach.SameCmds.flushWho {w : Who} (h : m.SameCmds k) : m.SameCmds (k.flushWho w) := h.forceAll

end

/-! ## A command launched (R338) -/

/-- From `s` on one command more is in the table: it has started, with its units to do and its result as it stands. -/
def State.Launched (s : State) (op : CmdOp) (units : Nat) (res : Word) (t : State) : Prop :=
  ∃ id c, t.m.cmds = s.m.cmds ++ [(id, c)] ∧ c.owner = s.lctx ∧ c.op = op ∧ c.started = true ∧ c.units = units ∧ c.result = res ∧ c.pos = 0

theorem State.launched_llaunch (s : State) (c : Cmd) (hpos : c.pos = 0 := by rfl) : s.Launched c.op c.units c.result (s.llaunch c) := by
  unfold State.llaunch
  split
  next id m1 hnew =>
  obtain ⟨rfl, rfl⟩ := Prod.mk.inj hnew
  extract_lets c1 m2
  have htargets : (c1.targets.foldl (fun m t => m.updTarget t TagState.issue) m2).cmds = m2.cmds :=
    foldl_keeps (P := fun m : Mach => m.cmds = m2.cmds) rfl fun m t h => (m.updTarget_rests t _).1.trans h
  have hflush : (s.m.flushWho (.agent s.cur)).cmds = s.m.cmds := Mach.SameCmds.refl.flushWho
  exact ⟨_, { c1 with id := _ }, htargets.trans (congrArg (· ++ _) hflush), rfl, rfl, rfl, rfl, rfl, hpos⟩

theorem State.Launched.advance {s t : State} {op : CmdOp} {units : Nat} {res : Word} (h : s.Launched op units res t) :
    s.Launched op units res t.advance := by
  obtain ⟨id, c, hcmds, hc⟩ := h
  obtain ⟨gangs, dies, n, hm⟩ := t.advance_m
  exact ⟨id, c, (show _ = t.m.cmds by rw [hm]).trans hcmds, hc⟩

/-! ## The words -/

section
variable {s t : State} {g : BitVec 4} {n : Bool} {d a b : BitVec 6} {body : State → Except Stop State}

theorem loupeWord_illegal {k r : Nat} {st : Stream} (hc : s.cur = .core k r st) (ha : (s.m.seq? s.cur).isSome = true) :
    loupeWord g n d a b body s = .next (s.raise { cause := 0x01 }) := by
  unfold loupeWord
  rw [hc] at ha ⊢
  exact if_pos ha

variable {e i c : Nat} (hc : s.cur = .loupe e i c) (h : Runs s (sn [d.toNat, a.toNat, b.toNat]) g n)
include hc h

theorem loupeWord_runs (hb : body s = .ok t) : loupeWord g n d a b body s = .next t.advance := by
  unfold loupeWord
  rw [hc]
  exact State.word_runs h hb

theorem loupeWord_stops {x : Stop} (hb : body s = .error x) : loupeWord g n d a b body s = .next (s.stopped x) := by
  unfold loupeWord
  rw [hc]
  exact State.word_stops h.1 hb

/-- The word whose first pointer fails its checks. -/
theorem loupeWords_stop {x : Stop} :
    let s1 := s.lready
    let p := s1.rd a.toNat
    (s1.lptr [2] 0x03 p 16 = .error x → execLhash g n d a b s = .next (s.stopped x)) ∧
    (s1.lptr [2] 0x03 p 32 = .error x → execLgath g n d a b s = .next (s.stopped x) ∧ execLpool g n d a b s = .next (s.stopped x) ∧
      execLscat g n d a b s = .next (s.stopped x)) ∧
    (s1.lptr [2] 0x03 p (handNb (s1.rd d.toNat)) = .error x → execLhand g n d a b s = .next (s.stopped x)) := by
  intro s1 p
  unfold execLhash execLgath execLpool execLscat execLhand
  exact ⟨fun he => loupeWord_stops hc h (bind_of_error he), fun he => ⟨loupeWord_stops hc h (bind_of_error he),
    loupeWord_stops hc h (bind_of_error he), loupeWord_stops hc h (bind_of_error he)⟩, fun he => loupeWord_stops hc h (bind_of_error he)⟩

theorem execLhash_launches :
    let s1 := s.lready
    let p := s1.rd a.toNat
    let q := s1.rd b.toNat
    let h16 := s1.lread p 16
    let probes := if q = BitVec.allOnes 64 then 0 else 8
    s1.lptr [2] 0x03 p 16 = .ok () → ptrOff p % 16 = 0 → s1.lfield [0, 2] (BitVec.ofNat 64 (descBits h16 64 64)) 8 8 = .ok () →
      descBits h16 7 57 = 0 → 1 ≤ descBits h16 0 6 → descBits h16 0 6 ≤ 30 →
      s1.lprobes (BitVec.ofNat 64 (descBits h16 64 64)) q (descBits h16 0 6) probes = .ok () →
      GoesTo (execLhash g n d a b s) (s1.Launched (.lhash p q) probes (BitVec.allOnes 64)) := by
  intro s1 p q h16 probes hptr halign hfield hzero hlow hhigh hprobes
  have hcount : (descBits h16 7 57 == 0 && decide (1 ≤ descBits h16 0 6) && decide (descBits h16 0 6 ≤ 30)) = true := by
    simp [hzero, hlow, hhigh]
  have halign : (ptrOff p % 16 == 0) = true := beq_iff_eq.mpr halign
  unfold execLhash
  exact ⟨_, loupeWord_runs hc h ((bind_of_ok hptr).trans ((need_bind_ok halign).trans ((bind_of_ok hfield).trans
    ((need_bind_ok hcount).trans (bind_of_ok hprobes))))), (s1.launched_llaunch _).advance⟩

theorem execLgath_launches (l : List Nat) :
    let s1 := s.lready
    let p := s1.rd a.toNat
    let h := s1.lread p 32
    s1.lptr [2] 0x03 p 32 = .ok () → ptrOff p % 32 = 0 → s1.lfield [2] (rowDst h) (rowLen h * rowN h) 1 = .ok () →
      s1.lfield [0, 2] (rowBase h) 1 64 = .ok () → s1.lfield [2] (rowList h) (4 * rowN h) 4 = .ok () → rowFieldsOk h = true →
      s1.rd b.toNat = 0 → s1.lindices h 0 (rowN h) = .ok l → l.eraseDups.length * rowLen h ≤ 2 ^ 20 →
      GoesTo (execLgath g n d a b s)
        (s1.Launched (.lgath p) (l.eraseDups.length * rowPieces h) (BitVec.ofNat 64 l.eraseDups.length)) := by
  intro s1 p h32 hptr halign hdst hbase hlist hfields hzero hindices hsize
  have halign : (ptrOff p % 32 == 0) = true := beq_iff_eq.mpr halign
  have hzero : (s1.rd b.toNat == 0) = true := beq_iff_eq.mpr hzero
  unfold execLgath
  exact ⟨_, loupeWord_runs hc h ((bind_of_ok hptr).trans ((need_bind_ok halign).trans ((bind_of_ok hdst).trans
    ((bind_of_ok hbase).trans ((bind_of_ok hlist).trans ((need_bind_ok hfields).trans ((need_bind_ok hzero).trans
    ((bind_of_ok hindices).trans (need_bind_ok (decide_eq_true hsize)))))))))), (s1.launched_llaunch _).advance⟩

theorem execLpool_launches (l : List Nat) :
    let s1 := s.lready
    let p := s1.rd a.toNat
    let q := s1.rd b.toNat
    let h := s1.lread p 32
    let offs := words4 (s1.lread q (4 * (rowN h + 1)))
    s1.lptr [2] 0x03 p 32 = .ok () → s1.lptr [2] 0x03 q (4 * (rowN h + 1)) = .ok () → ptrOff p % 32 = 0 → ptrOff q % 4 = 0 →
      s1.lfield [2] (rowDst h) (rowLen h * rowN h) 1 = .ok () → s1.lfield [0, 2] (rowBase h) 1 64 = .ok () →
      s1.lfield [2] (rowList h) (if offs.headD 0 < offs.getLastD 0 then 4 * offs.getLastD 0 else 0) 4 = .ok () → rowFieldsOk h = true →
      (∀ x ∈ List.zip offs (offs.drop 1), x.1 ≤ x.2) → s1.lindices h (offs.headD 0) (offs.getLastD 0) = .ok l →
      l.eraseDups.length * rowLen h ≤ 2 ^ 20 →
      GoesTo (execLpool g n d a b s)
        (s1.Launched (.lpool p q) ((l.eraseDups.length + rowN h) * rowPieces h) (BitVec.ofNat 64 (rowN h))) := by
  intro s1 p q h32 offs hptr hqptr halign hqalign hdst hbase hlist hfields hsorted hindices hsize
  have halign : (ptrOff p % 32 == 0) = true := beq_iff_eq.mpr halign
  have hqalign : (ptrOff q % 4 == 0) = true := beq_iff_eq.mpr hqalign
  have hsorted : (List.zip offs (offs.drop 1)).all (fun (x, y) => decide (x ≤ y)) = true :=
    List.all_eq_true.mpr fun x hx => decide_eq_true (hsorted x hx)
  unfold execLpool
  exact ⟨_, loupeWord_runs hc h ((bind_of_ok hptr).trans ((bind_of_ok hqptr).trans ((need_bind_ok halign).trans
    ((need_bind_ok hqalign).trans ((bind_of_ok hdst).trans ((bind_of_ok hbase).trans ((bind_of_ok hlist).trans
    ((need_bind_ok hfields).trans ((need_bind_ok hsorted).trans ((bind_of_ok hindices).trans
    (need_bind_ok (decide_eq_true hsize)))))))))))), (s1.launched_llaunch _).advance⟩

theorem execLscat_launches (l : List Nat) :
    let s1 := s.lready
    let p := s1.rd a.toNat
    let q := s1.rd b.toNat
    let h := s1.lread p 32
    s1.lptr [2] 0x03 p 32 = .ok () → s1.lptr [2] 0x03 q (rowN h * rowLen h) = .ok () → ptrOff p % 32 = 0 → ptrOff q % 4 = 0 →
      rowDst h = 0 → s1.lfield [0, 2] (rowBase h) 1 64 = .ok () → s1.lfield [2] (rowList h) (4 * rowN h) 4 = .ok () →
      rowFieldsOk h = true → s1.lindices h 0 (rowN h) = .ok l → rowN h * rowLen h ≤ 2 ^ 20 →
      GoesTo (execLscat g n d a b s) (s1.Launched (.lscat p q) (rowN h * rowPieces h) (BitVec.ofNat 64 (rowN h))) := by
  intro s1 p q h32 hptr hqptr halign hqalign hdst hbase hlist hfields hindices hsize
  have halign : (ptrOff p % 32 == 0) = true := beq_iff_eq.mpr halign
  have hqalign : (ptrOff q % 4 == 0) = true := beq_iff_eq.mpr hqalign
  have hdst : (rowDst h32 == 0) = true := beq_iff_eq.mpr hdst
  unfold execLscat
  exact ⟨_, loupeWord_runs hc h ((bind_of_ok hptr).trans ((bind_of_ok hqptr).trans ((need_bind_ok halign).trans
    ((need_bind_ok hqalign).trans ((need_bind_ok hdst).trans ((bind_of_ok hbase).trans ((bind_of_ok hlist).trans
    ((need_bind_ok hfields).trans ((bind_of_ok hindices).trans (need_bind_ok (decide_eq_true hsize))))))))))),
    (s1.launched_llaunch _).advance⟩

theorem execLhand_launches (k : Nat) (x : Gang) (bar : Option (Nat × BitVec 16)) :
    let s1 := s.lready
    let p := s1.rd a.toNat
    let q := s1.rd b.toNat
    let ctl := s1.rd d.toNat
    let nb := handNb ctl
    s1.m.gangOf (s1.m.jobNo s1.cur) (handGang ctl) = some k → s1.m.gang? k = some x →
      s1.lptr [2] 0x03 p nb = .ok () → ptrSpace q = 1 → ptrRank q < x.cores.length → ptrOff q + nb ≤ 2 ^ 21 → ptrOff p % 64 = 0 →
      ptrOff q % 64 = 0 → fld ctl 57 7 = 0 → nb % 64 = 0 → nb ≤ 2 ^ 20 → handSco ctl ≠ 6 → (handBen ctl = true ∨ handBid ctl = 0) →
      beyond s1.hdr (ptrOff q) nb = false → (handBen ctl = true → (handBid ctl).toNat < s1.hdr.nbar) →
      s1.bindBar (handBen ctl) (handBid ctl) = .ok bar →
      GoesTo (execLhand g n d a b s) (s1.Launched (.lhand p q ctl) (nb / 64) 0) := by
  intro s1 p q ctl nb hgang hx hptr hspace hrank hend halign hqalign hzero hmod hsize hsco hben hdecl hnbar hbar
  have hspace : (ptrSpace q == 1) = true := beq_iff_eq.mpr hspace
  have hrank : (match s1.m.gangOf (s1.m.jobNo s1.cur) (handGang ctl) with
      | none => false
      | some k => decide (ptrRank q < ((s1.m.gang? k).map fun x => x.cores.length).getD 0)) = true := by
    rw [hgang]
    simpa [hx] using hrank
  have halign : (ptrOff p % 64 == 0) = true := beq_iff_eq.mpr halign
  have hqalign : (ptrOff q % 64 == 0) = true := beq_iff_eq.mpr hqalign
  have hfields : (fld ctl 57 7 == 0 && nb % 64 == 0 && decide (nb ≤ 2 ^ 20) && handSco ctl != 6 &&
      (handBen ctl || handBid ctl == 0)) = true := by simpa [hzero, hmod] using ⟨⟨hsize, hsco⟩, hben⟩
  have hdecl : (!beyond s1.hdr (ptrOff q) nb) = true := by rw [hdecl]; rfl
  have hnbar : (!handBen ctl || decide ((handBid ctl).toNat < s1.hdr.nbar)) = true := by
    cases hb : handBen ctl with
    | false => rfl
    | true => exact decide_eq_true (hnbar hb)
  unfold execLhand
  refine ⟨_, loupeWord_runs hc h ((bind_of_ok hptr).trans ((need_bind_ok hspace).trans ((need_bind_ok hrank).trans
    ((need_bind_ok (decide_eq_true hend)).trans ((need_bind_ok halign).trans ((need_bind_ok hqalign).trans ((need_bind_ok hfields).trans
    ((need_bind_ok hdecl).trans ((need_bind_ok hnbar).trans (bind_of_ok hbar)))))))))), State.Launched.advance ?_⟩
  have hlaunch (c : Cmd) (hpos : c.pos = 0) (hop : c.op = .lhand p q ctl) (hunits : c.units = nb / 64) (hres : c.result = 0) :
      s1.Launched (.lhand p q ctl) (nb / 64) 0 (s1.llaunch c) := by
    rw [← hop, ← hunits, ← hres]
    exact s1.launched_llaunch c hpos
  split
  · exact ite_keeps (hlaunch _ rfl rfl rfl rfl) (hlaunch _ rfl rfl rfl rfl)
  · exact hlaunch _ rfl rfl rfl rfl

end

/-- Settles O52: each word by its checks in their order, and the command it launches. -/
theorem loupeWords : Obligations.LoupeWords := by
  unfold Obligations.LoupeWords
  intro s g n d a b
  refine ⟨fun k r st hc ha i hi => ?_, fun e i c hc h => ?_⟩
  · simp only [List.mem_cons, List.not_mem_nil, or_false] at hi
    rcases hi with rfl | rfl | rfl | rfl | rfl
    all_goals exact loupeWord_illegal hc ha
  · intro s1 p q ctl h32 h16 launched
    exact ⟨execLhash_launches hc h, fun _ => (loupeWords_stop hc h).1, fun _ => (loupeWords_stop hc h).2.1,
      fun _ => (loupeWords_stop hc h).2.2, execLgath_launches hc h, execLpool_launches hc h,
      execLscat_launches hc h, execLhand_launches hc h⟩

end Sys2Proof.Machine
end

section
/-! PROOFS. The commands of the host's queues: how one ends, and O58. -/
namespace Sys2Proof.Machine

/-! ## The three ways a command goes (R387, R388) -/

section
variable {s : State} {q : CmdQueue} {c : HostCmd} {opc : Nat} {allowed : Bool}
  {body : HostCmd → Mach → Mach × Option (Word × Nat)}

/-- A queue that may not give the command has it ended with status 2. -/
theorem hostCmd_refused (hh : s.m.headCmd q = some c) (ho : c.opc = opc) (ha : allowed = false) :
    hostCmd opc q allowed body s = .next { s with m := ((s.m.fresh.popCmd q).finishEntry c.ref 0 2).poll q } := by
  simp [hostCmd, hh, ho, ha]

theorem hostCmd_ends {m : Mach} {r : Word} {st : Nat} (hh : s.m.headCmd q = some c) (ho : c.opc = opc) (ha : allowed = true)
    (hb : body c (s.m.fresh.popCmd q) = (m, some (r, st))) :
    hostCmd opc q allowed body s = .next { s with m := (m.finishEntry c.ref r st).poll q } := by
  simp [hostCmd, hh, ho, ha, hb]

/-- A command that ends later leaves its entry as it is. -/
theorem hostCmd_defers {m : Mach} (hh : s.m.headCmd q = some c) (ho : c.opc = opc) (ha : allowed = true)
    (hb : body c (s.m.fresh.popCmd q) = (m, none)) :
    hostCmd opc q allowed body s = .next { s with m := m.poll q } := by
  simp [hostCmd, hh, ho, ha, hb]

theorem State.headCmd_target (hh : s.m.headCmd q = some c) : ((s.m.headCmd q).map HostCmd.target).getD 0 = c.target := by
  rw [hh]
  rfl

end

/-! ## Which queue a command is for -/

theorem CmdQueue.beq_phys_of_ne {q : CmdQueue} (h : q ≠ .phys) : (q == .phys) = false := by simpa using h

theorem queueVd_none {q : CmdQueue} (h : ∀ v, q ≠ .vf v) : queueVd q = none := by
  cases q with
  | vf v => exact absurd rfl (h v)
  | phys => rfl
  | mctp => rfl

/-! ## The entry of a command that has ended (R387) -/

/-- The three writes to an entry at `a`. -/
def entryWritten (mem : Memory) (a x st : Nat) (b : Byte) : Memory :=
  Memory.write (Memory.write (Memory.write mem (a + 8) (natLE 8 x)) (a + 5) (natLE 1 st)) (a + 4) [b]

/-- The result, the status and the inverted phase are written to the command's entry. -/
theorem Mach.finishEntry_host {m : Mach} {ref : CmdRef} (r : Word) (st : Nat) (hq : ref.queue ≠ .mctp) :
    (m.finishEntry ref r st).host = entryWritten m.host ((m.queueOf ref.queue).1 + 64 * ref.slot) r.toNat st
      (Memory.get m.host ((m.queueOf ref.queue).1 + 64 * ref.slot + 4) ^^^ 1#8) := by
  unfold Mach.finishEntry
  split
  · next h => exact absurd h hq
  · rfl

section
variable {mem : Memory} {x st : Nat} {b : Byte}

theorem get_entryWritten_phase (h : Memory.wf mem = true) (a : Nat) : Memory.get (entryWritten mem a x st b) (a + 4) = b :=
  Memory.get_write [b] _ (a + 4) 0 (Memory.wf_write _ _ _ (Memory.wf_write _ _ _ h)) Nat.zero_lt_one

theorem get_entryWritten_status (h : Memory.wf mem = true) (a : Nat) :
    Memory.get (entryWritten mem a x st b) (a + 5) = BitVec.ofNat 8 st := by
  unfold entryWritten
  rw [Memory.get_write_ne _ _ _ _ (.inr (by simp))]
  simpa using Memory.get_write_natLE (n := 1) (k := 0) (Memory.wf_write _ _ _ h) (a + 5) st Nat.zero_lt_one

theorem get_entryWritten_result (h : Memory.wf mem = true) (a : Nat) {n : Nat} (hn : n < 8) :
    Memory.get (entryWritten mem a x st b) (a + 8 + n) = BitVec.ofNat 8 (x / 2 ^ (8 * n)) := by
  unfold entryWritten
  rw [Memory.get_write_ne _ _ _ _ (.inr (by simp; omega)), Memory.get_write_ne _ _ _ _ (.inr (by simp [natLE_length]; omega))]
  exact Memory.get_write_natLE h (a + 8) x hn

theorem get_entryWritten_other {a n : Nat} (h4 : n ≠ a + 4) (h5 : n ≠ a + 5) (h8 : ¬ (a + 8 ≤ n ∧ n < a + 16)) :
    Memory.get (entryWritten mem a x st b) n = Memory.get mem n := by
  unfold entryWritten
  rw [Memory.get_write_ne _ _ _ _ (by simp; omega), Memory.get_write_ne _ _ _ _ (by simp [natLE_length]; omega),
    Memory.get_write_ne _ _ _ _ (by simp [natLE_length]; omega)]

end

/-! ## VD-CREATE: the lowest free number (R357) -/

section
variable {m : Mach}

theorem Mach.freeNumber_none (h : m.mgmt.booted = false ∨ ∀ v, v < 16 → (m.vd? v).isSome = true) :
    (if m.mgmt.booted then (List.range 16).find? (fun v => (m.vd? v).isNone) else none) = none := by
  rcases h with h | h
  · simp [h]
  · have hf : (List.range 16).find? (fun v => (m.vd? v).isNone) = none :=
      List.find?_eq_none.mpr fun v hv => by simpa [Option.isSome_iff_ne_none] using h v (List.mem_range.mp hv)
    rw [hf, ite_self]

theorem Mach.freeNumber_some {u : Nat} (hb : m.mgmt.booted = true) (hu : u < 16) (hn : m.vd? u = none)
    (hl : ∀ v, v < u → (m.vd? v).isSome = true) :
    (if m.mgmt.booted then (List.range 16).find? (fun v => (m.vd? v).isNone) else none) = some u := by
  rw [if_pos hb]
  refine List.find?_range_eq_some.mpr ⟨by simp [hn], List.mem_range.mpr hu, fun v hv => ?_⟩
  simp [Option.isNone_eq_false_iff.mpr (hl v hv)]

/-- A virtual device put at the end of the table is the one its number names, when none was before. -/
theorem tget_append_new {α : Type} {t : Tab α} {k : Nat} {a : α} (h : tget t k = none) : tget (t ++ [(k, a)]) k = some a := by
  induction t with
  | nil => simp [tget]
  | cons x t ih =>
    obtain ⟨j, b⟩ := x
    by_cases hj : j = k
    · simp [tget, hj] at h
    · simp only [tget, hj, List.cons_append] at h ⊢
      exact ih h

theorem Mach.noteIdle_vd? {u : Nat} {v : VDev} (h : m.vd? u = some v) :
    (m.noteIdle u).vd? u = some { v with idleSince := m.time } := by
  have hu : (m.updVd u (fun v => { v with idleSince := m.time })).vd? u = some { v with idleSince := m.time } := by
    rw [Mach.vd?_updVd_self, h]
    rfl
  exact ite_keeps (P := fun k : Mach => k.vd? u = some { v with idleSince := m.time }) hu hu

/-- A new virtual device takes its Loupe contexts and clusters, and stands at the end of the table (R357). -/
def Mach.addVd (m : Mach) (share u : Nat) (v : VDev) : Mach :=
  let m := v.loupes.foldl (fun m (d, i, k) => m.updLoupe d i (fun l => l.assign share k u)) m
  let m := v.clusters.foldl (fun m (d, k) => m.updCluster d k (fun x => { x with powered := true })) m
  { m with vds := m.vds ++ [(u, v)] }

theorem Mach.addVd_vd? {u : Nat} (share : Nat) (v : VDev) (h : m.vd? u = none) :
    (m.addVd share u v).vd? u = some v ∧ (m.addVd share u v).time = m.time := by
  have h1 := foldl_keeps (P := fun k : Mach => k.vds = m.vds ∧ k.time = m.time) (l := v.loupes)
    (f := fun m (d, i, k) => m.updLoupe d i (fun l => l.assign share k u)) ⟨rfl, rfl⟩ fun _ _ h => h
  have h2 := foldl_keeps (P := fun k : Mach => k.vds = m.vds ∧ k.time = m.time) (l := v.clusters)
    (f := fun m (d, k) => m.updCluster d k (fun x => { x with powered := true })) h1 fun _ _ h => h
  obtain ⟨hvds, htime⟩ := h2
  exact ⟨(congrArg (fun x => tget (x ++ [(u, v)]) u) hvds).trans (tget_append_new h), htime⟩

end

/-- A virtual device that is torn down leaves the table. -/
theorem Mach.destroyVd_vd? (m : Mach) (t : Nat) (v : VDev) (ref : CmdRef) : (m.destroyVd t v ref).vd? t = none := by
  have hf (m : Mach) (x : Word) (n : Nat) : (m.finishEntry ref x n).vds = m.vds := by
    unfold Mach.finishEntry
    split <;> rfl
  unfold Mach.destroyVd Mach.vd?
  rw [hf]
  exact tget_tdel_self _ t

/-! ## What VD-SLEEP and VD-WAKE do with their target (R376, R379, R382) -/

/-- What VD-SLEEP does with its target: nothing, with a status, or the collapse begins. -/
def Mach.sleepCmd (m : Mach) (t : Nat) : Mach × Option (Word × Nat) :=
  match m.vd? t with
  | none => (m, some (0, 3))
  | some v =>
    if v.closing.isSome then (m, some (0, 3)) else
    match v.st with
    | .waking => (m, some (0, 5))
    | .active => (m.startCollapse t, some (0, 0))
    | .collapsing | .dormant => (m, some (0, 0))

section
variable {m : Mach} {t : Nat} {v : VDev}

theorem Mach.sleepCmd_absent (h : m.vd? t = none) : m.sleepCmd t = (m, some (0, 3)) := by
  simp [Mach.sleepCmd, h]

theorem Mach.sleepCmd_closing (h : m.vd? t = some v) (hc : v.closing.isSome = true) : m.sleepCmd t = (m, some (0, 3)) := by
  simp [Mach.sleepCmd, h, hc]

theorem Mach.sleepCmd_waking (h : m.vd? t = some v) (hc : v.closing = none) (hs : v.st = .waking) :
    m.sleepCmd t = (m, some (0, 5)) := by
  simp [Mach.sleepCmd, h, hc, hs]

theorem Mach.sleepCmd_active (h : m.vd? t = some v) (hc : v.closing = none) (hs : v.st = .active) :
    m.sleepCmd t = (m.startCollapse t, some (0, 0)) := by
  simp [Mach.sleepCmd, h, hc, hs]

theorem Mach.sleepCmd_asleep (h : m.vd? t = some v) (hc : v.closing = none) (hs : v.st = .collapsing ∨ v.st = .dormant) :
    m.sleepCmd t = (m, some (0, 0)) := by
  rcases hs with hs | hs <;> simp [Mach.sleepCmd, h, hc, hs]

end

/-- What VD-WAKE does with its target. -/
def Mach.wakeCmd (m : Mach) (t : Nat) : Mach × Option (Word × Nat) :=
  if (m.vd? t).any (fun v => v.closing.isNone) then (m.wake t, some (0, 0)) else (m, some (0, 3))

/-! ## A wake without permission (R379) -/

theorem Mach.headCmd_ignoreWake (m : Mach) (t : Nat) (q : CmdQueue) : (m.ignoreWake t).headCmd q = m.headCmd q := by
  cases q <;> rfl

theorem Mach.popCmd_ignoreWake (m : Mach) (t : Nat) (q : CmdQueue) :
    (m.ignoreWake t).fresh.popCmd q = (m.fresh.popCmd q).ignoreWake t := by
  cases q <;> rfl

/-! ## The commands -/

section
variable {s : State} {q : CmdQueue} {c : HostCmd} (hh : s.m.headCmd q = some c)

/-- How the state stands when a command of queue `q` has ended on the machine `m` with its result and status. -/
def State.cmdEnds (s : State) (q : CmdQueue) (c : HostCmd) (m : Mach) (r : Word) (st : Nat) : Host.Outcome State Fault Refusal :=
  .next { s with m := (m.finishEntry c.ref r st).poll q }

include hh

theorem execIdentify_ends (ho : c.opc = 1) :
    execIdentify q s = s.cmdEnds q c ((s.m.fresh.popCmd q).give c Config.identity) 0 0 :=
  hostCmd_ends hh ho rfl rfl

theorem execStatus_ends (ho : c.opc = 2) : ∃ bytes, bytes.take 8 = natLE 8 (s.m.fresh.popCmd q).mgmt.selfWord.toNat ∧
    execStatus q s = s.cmdEnds q c ((s.m.fresh.popCmd q).give c bytes) (s.m.fresh.popCmd q).mgmt.selfWord 0 := by
  refine ⟨_, ?_, hostCmd_ends hh ho rfl rfl⟩
  rw [List.append_assoc, List.append_assoc, List.take_left' (natLE_length ..)]

theorem execLog_ends (ho : c.opc = 3) :
    ∃ bytes, execLog q s = s.cmdEnds q c ((s.m.fresh.popCmd q).give c bytes) (BitVec.ofNat 64 bytes.length) 0 :=
  ⟨_, hostCmd_ends hh ho rfl rfl⟩

theorem execAttest_ends (ho : c.opc = 11) : ∃ vd, execAttest q s = s.cmdEnds q c ((s.m.fresh.popCmd q).give c
    ((s.m.fresh.popCmd q).attestation vd ((c.args ++ List.replicate 32 0).take 32))) 0 0 :=
  ⟨_, hostCmd_ends hh ho rfl rfl⟩

theorem execSelftest_refused (ho : c.opc = 4) (hq : q ≠ .phys) : execSelftest q s = s.cmdEnds q c (s.m.fresh.popCmd q) 0 2 :=
  hostCmd_refused hh ho (CmdQueue.beq_phys_of_ne hq)

theorem execSelftest_busy (ho : c.opc = 4) (hq : q = .phys) (hv : (s.m.fresh.popCmd q).vds ≠ []) :
    execSelftest q s = s.cmdEnds q c (s.m.fresh.popCmd q) 0 5 :=
  hostCmd_ends hh ho (beq_iff_eq.mpr hq) (if_pos (by simpa using hv))

theorem execSelftest_ends (ho : c.opc = 4) (hq : q = .phys) (hv : (s.m.fresh.popCmd q).vds = []) :
    let m0 := s.m.fresh.popCmd q
    let g := m0.mgmt.tested
    let g := { g with booted := g.booted && (g.self &&& selfCauses) == 0 }
    execSelftest q s = s.cmdEnds q c ({ m0 with mgmt := g }.powerAll g.booted) g.selfWord 0 :=
  hostCmd_ends hh ho (beq_iff_eq.mpr hq) (if_neg (by simpa using hv))

theorem execVdCreate_refused (ho : c.opc = 5) (hq : q ≠ .phys) : execVdCreate q s = s.cmdEnds q c (s.m.fresh.popCmd q) 0 2 :=
  hostCmd_refused hh ho (CmdQueue.beq_phys_of_ne hq)

theorem execVdCreate_full (ho : c.opc = 5) (hq : q = .phys)
    (hf : (s.m.fresh.popCmd q).mgmt.booted = false ∨ ∀ v, v < 16 → ((s.m.fresh.popCmd q).vd? v).isSome = true) :
    execVdCreate q s = s.cmdEnds q c (s.m.fresh.popCmd q) 0 4 := by
  refine hostCmd_ends hh ho (beq_iff_eq.mpr hq) ?_
  rw [Mach.freeNumber_none hf]

/-- With a free number the buffer decides: its status, or the new virtual device under that number. -/
theorem execVdCreate_ends {u : Nat} (ho : c.opc = 5) (hq : q = .phys) (hb : (s.m.fresh.popCmd q).mgmt.booted = true) (hu : u < 16)
    (hn : (s.m.fresh.popCmd q).vd? u = none) (hl : ∀ v, v < u → ((s.m.fresh.popCmd q).vd? v).isSome = true) :
    let m0 := s.m.fresh.popCmd q
    match m0.newVd (m0.buffer c) with
    | .error st => execVdCreate q s = s.cmdEnds q c m0 0 st
    | .ok v => ∃ m, execVdCreate q s = s.cmdEnds q c m (BitVec.ofNat 64 u) 0 ∧ m.vd? u = some { v with idleSince := s.m.time } := by
  intro m0
  have ht : m0.time = s.m.time := by subst hq; rfl
  split
  · next st he =>
    refine hostCmd_ends hh ho (beq_iff_eq.mpr hq) ?_
    rw [Mach.freeNumber_some hb hu hn hl]
    simp only [m0] at he
    simp only [he, m0]
  · next v he =>
    obtain ⟨hv, htime⟩ := Mach.addVd_vd? (2 ^ leNat (((m0.buffer c).drop 3).take 1)) v hn
    refine ⟨(m0.addVd (2 ^ leNat (((m0.buffer c).drop 3).take 1)) u v).noteIdle u, hostCmd_ends hh ho (beq_iff_eq.mpr hq) ?_, ?_⟩
    · rw [Mach.freeNumber_some hb hu hn hl]
      simp only [m0] at he
      simp only [he]
      rfl
    · rw [Mach.noteIdle_vd? hv, htime, ht]

theorem execVdDestroy_refused (ho : c.opc = 6) (hq : q ≠ .phys) : execVdDestroy q s = s.cmdEnds q c (s.m.fresh.popCmd q) 0 2 :=
  hostCmd_refused hh ho (CmdQueue.beq_phys_of_ne hq)

/-- A teardown begins; the entry ends when it is over (log entry 89). -/
theorem execVdDestroy_begins {v : VDev} (ho : c.opc = 6) (hq : q = .phys) (hv : (s.m.fresh.popCmd q).vd? c.target = some v)
    (hc : v.closing = none) :
    execVdDestroy q s = .next { s with m := ((s.m.fresh.popCmd q).beginTeardown c.target c.ref).poll q } := by
  refine hostCmd_defers hh ho (beq_iff_eq.mpr hq) ?_
  simp [hv, hc]

theorem execVdDestroy_busy {v : VDev} (ho : c.opc = 6) (hq : q = .phys) (hv : (s.m.fresh.popCmd q).vd? c.target = some v)
    (hc : v.closing.isSome = true) : execVdDestroy q s = s.cmdEnds q c (s.m.fresh.popCmd q) 0 5 := by
  refine hostCmd_ends hh ho (beq_iff_eq.mpr hq) ?_
  simp [hv, hc]

theorem execVdDestroy_absent (ho : c.opc = 6) (hq : q = .phys) (hv : (s.m.fresh.popCmd q).vd? c.target = none) :
    execVdDestroy q s = s.cmdEnds q c (s.m.fresh.popCmd q) 0 3 := by
  refine hostCmd_ends hh ho (beq_iff_eq.mpr hq) ?_
  simp [hv]

theorem execVdSleep_eq : execVdSleep q s = hostCmd 7 q (q == .phys || q == .vf c.target) (fun _ m => m.sleepCmd c.target) s := by
  unfold execVdSleep
  rw [State.headCmd_target hh]
  rfl

theorem execVdSleep_refused (ho : c.opc = 7) (hp : q ≠ .phys) (hv : q ≠ .vf c.target) :
    execVdSleep q s = s.cmdEnds q c (s.m.fresh.popCmd q) 0 2 :=
  (execVdSleep_eq hh).trans (hostCmd_refused hh ho (by simp [hp, hv]))

theorem execVdSleep_ends {m : Mach} {st : Nat} (ho : c.opc = 7) (hq : q = .phys ∨ q = .vf c.target)
    (hb : (s.m.fresh.popCmd q).sleepCmd c.target = (m, some (0, st))) : execVdSleep q s = s.cmdEnds q c m 0 st :=
  (execVdSleep_eq hh).trans (hostCmd_ends hh ho (by simpa using hq) hb)

/-- A wake that a virtual device may not give is noted as ignored (R379). -/
theorem execVdWake_ignored {u : Nat} (ho : c.opc = 8) (hq : q = .vf u)
    (hu : 16 ≤ u ∨ (s.m.vd c.target).wperm.getLsbD u = false) :
    execVdWake q s = s.cmdEnds q c ((s.m.fresh.popCmd q).ignoreWake c.target) 0 2 := by
  subst hq
  have hmay : ((s.m.vd c.target).wperm.getLsbD u && decide (u < 16)) = false := by
    rcases hu with hu | hu
    · simp [Nat.not_lt.mpr hu]
    · simp [hu]
  unfold execVdWake
  rw [State.headCmd_target hh]
  simp only [hmay, queueVd, Option.isNone_some, Bool.or_self, Bool.false_eq_true, if_false]
  refine (hostCmd_refused (s := { s with m := s.m.ignoreWake c.target }) ((Mach.headCmd_ignoreWake ..).trans hh) ho rfl).trans ?_
  rw [Mach.popCmd_ignoreWake]
  rfl

theorem execVdWake_refused (ho : c.opc = 8) (hq : q = .mctp) : execVdWake q s = s.cmdEnds q c (s.m.fresh.popCmd q) 0 2 := by
  subst hq
  have h : execVdWake .mctp s = hostCmd 8 .mctp false (fun _ m => m.wakeCmd c.target) s := by
    unfold execVdWake
    rw [State.headCmd_target hh]
    rfl
  exact h.trans (hostCmd_refused hh ho rfl)

theorem execVdWake_ends {m : Mach} {st : Nat} (ho : c.opc = 8)
    (hq : q = .phys ∨ ∃ u, q = .vf u ∧ u < 16 ∧ (s.m.vd c.target).wperm.getLsbD u = true)
    (hb : (s.m.fresh.popCmd q).wakeCmd c.target = (m, some (0, st))) : execVdWake q s = s.cmdEnds q c m 0 st := by
  have h : execVdWake q s = hostCmd 8 q true (fun _ m => m.wakeCmd c.target) s := by
    unfold execVdWake
    rw [State.headCmd_target hh]
    rcases hq with rfl | ⟨u, rfl, hu, hw⟩
    · rfl
    · simp only [hw, decide_eq_true hu, Bool.and_self, Bool.true_or, if_true]
      rfl
  exact h.trans (hostCmd_ends hh ho rfl hb)

theorem execLoadImage_refused (ho : c.opc = 9) (hq : ∀ v, q ≠ .vf v) :
    execLoadImage q s = s.cmdEnds q c (s.m.fresh.popCmd q) 0 2 :=
  hostCmd_refused hh ho (by rw [queueVd_none hq]; rfl)

theorem execLoadImage_ends {v : Nat} (ho : c.opc = 9) (hq : q = .vf v) :
    let m0 := s.m.fresh.popCmd q
    execLoadImage q s = match m0.mgmtWrite true v (BitVec.ofNat 64 (leNat (c.args.take 8))) (m0.buffer c) with
      | .ok m => s.cmdEnds q c m 0 0
      | .error _ => s.cmdEnds q c m0 0 3 := by
  subst hq
  intro m0
  split
  · next m hw =>
    refine hostCmd_ends hh ho rfl ?_
    simp only [m0] at hw
    simp [queueVd, hw]
  · next e hw =>
    refine hostCmd_ends hh ho rfl ?_
    simp only [m0] at hw
    simp [queueVd, hw, m0]

theorem execLaunch_refused (ho : c.opc = 10) (hq : ∀ v, q ≠ .vf v) : execLaunch q s = s.cmdEnds q c (s.m.fresh.popCmd q) 0 2 :=
  hostCmd_refused hh ho (by rw [queueVd_none hq]; rfl)

theorem execLaunch_goes {v : Nat} (ho : c.opc = 10) (hq : q = .vf v) : execLaunch q s = .next
    { s with m := ((s.m.fresh.popCmd q).capture v (BitVec.ofNat 64 (leNat (c.args.take 8))) false (some c.ref)).poll q } := by
  subst hq
  exact hostCmd_defers hh ho rfl rfl

omit hh in
theorem execSetCap_queue : execSetCap (.queue q) s = hostCmd 12 q (queueVd q == none) (fun c m =>
    (m.capMessage (BitVec.ofNat 32 (leNat (c.args.take 4))) (leNat ((c.args.drop 4).take 4)) (leNat ((c.args.drop 8).take 4)),
      some (0, 0))) s := rfl

theorem execSetCap_refused {v : Nat} (ho : c.opc = 12) (hq : q = .vf v) :
    execSetCap (.queue q) s = s.cmdEnds q c (s.m.fresh.popCmd q) 0 2 := by
  subst hq
  exact execSetCap_queue.trans (hostCmd_refused hh ho rfl)

theorem execSetCap_ends (ho : c.opc = 12) (hq : ∀ v, q ≠ .vf v) : execSetCap (.queue q) s = s.cmdEnds q c
    ((s.m.fresh.popCmd q).capMessage (BitVec.ofNat 32 (leNat (c.args.take 4))) (leNat ((c.args.drop 4).take 4))
      (leNat ((c.args.drop 8).take 4))) 0 0 :=
  execSetCap_queue.trans (hostCmd_ends hh ho (by rw [queueVd_none hq]; rfl) rfl)

theorem execFwUpdate_refused (ho : c.opc = 13) (hq : q ≠ .phys) : execFwUpdate q s = s.cmdEnds q c (s.m.fresh.popCmd q) 0 2 :=
  hostCmd_refused hh ho (CmdQueue.beq_phys_of_ne hq)

/-- FW-UPDATE: a bad image is status 6, one the flash has no room for 4; else it stands in the inactive bank, which is next. -/
theorem execFwUpdate_ends (ho : c.opc = 13) (hq : q = .phys) :
    let m0 := s.m.fresh.popCmd q
    let b := m0.buffer c
    let kind := leNat ((b.drop 4).take 4)
    let second := !(vget m0.mgmt.active (kind - 1) false)
    let g := { m0.mgmt with flash := vupd m0.mgmt.flash (kind - 1) (fun p => if second then (p.1, b) else (b, p.2)) }
    let good : Bool := kind != 0 && decide (kind ≤ 3) && imageOk kind (vget m0.mgmt.fuses (kind - 1) 0) b
    execFwUpdate q s =
      if !good then s.cmdEnds q c m0 0 6
      else if flashBytes < g.flashUsed then s.cmdEnds q c m0 0 4
      else s.cmdEnds q c { m0 with mgmt := { g with nextBank := vset g.nextBank (kind - 1) second } } 0 0 := by
  intro m0 b kind second g good
  have hgood : (!good) = true ↔ kind = 0 ∨ 3 < kind ∨ !imageOk kind (vget m0.mgmt.fuses (kind - 1) 0) b := by
    simp only [good, Bool.not_eq_true', Bool.and_eq_false_iff, bne_eq_false_iff_eq, decide_eq_false_iff_not, not_le, or_assoc]
  split
  · next h => exact hostCmd_ends hh ho (beq_iff_eq.mpr hq) (if_pos (hgood.mp h))
  · next h =>
    have h := mt hgood.mpr h
    split
    · next hf => exact hostCmd_ends hh ho (beq_iff_eq.mpr hq) ((if_neg h).trans (if_pos hf))
    · next hf => exact hostCmd_ends hh ho (beq_iff_eq.mpr hq) ((if_neg h).trans (if_neg hf))

end

/-! ## O58 -/

/-- Settles O58: each command, at the head of its queue, is one of the three cases of `hostCmd`, and an entry's end is three writes. -/
theorem queueCommands : Obligations.QueueCommands := by
  unfold Obligations.QueueCommands
  intro s q c hh m0 ends t ptr
  simp only [exec_identify, exec_status, exec_log, exec_selftest, exec_attest, exec_setCap, exec_vdCreate, exec_vdDestroy,
    exec_vdSleep, exec_vdWake, exec_loadImage, exec_launch, exec_fwUpdate]
  refine ⟨execIdentify_ends hh, execStatus_ends hh, execLog_ends hh,
    fun ho => ⟨execSelftest_refused hh ho, execSelftest_busy hh ho, execSelftest_ends hh ho⟩,
    fun ho => ⟨execVdCreate_refused hh ho, execVdCreate_full hh ho, fun u => execVdCreate_ends hh ho⟩,
    fun ho => ⟨execVdDestroy_refused hh ho, fun v hq hv hc => ⟨execVdDestroy_begins hh ho hq hv hc, Mach.destroyVd_vd? ..⟩,
      fun v => execVdDestroy_busy hh ho, execVdDestroy_absent hh ho⟩,
    fun ho => ⟨execVdSleep_refused hh ho, fun hq => ⟨fun hv => execVdSleep_ends hh ho hq (Mach.sleepCmd_absent hv),
      fun v hv hc => execVdSleep_ends hh ho hq (Mach.sleepCmd_closing hv hc), fun v hv hc =>
      ⟨fun hst => execVdSleep_ends hh ho hq (Mach.sleepCmd_waking hv hc hst),
        fun hst => execVdSleep_ends hh ho hq (Mach.sleepCmd_active hv hc hst),
        fun hst => execVdSleep_ends hh ho hq (Mach.sleepCmd_asleep hv hc hst)⟩⟩⟩,
    fun ho => ⟨fun u => execVdWake_ignored hh ho, execVdWake_refused hh ho, fun hq =>
      ⟨fun hv => execVdWake_ends hh ho hq (if_pos hv), fun hv => execVdWake_ends hh ho hq (if_neg (by rw [hv]; decide))⟩⟩,
    fun ho => ⟨execLoadImage_refused hh ho, fun v => execLoadImage_ends hh ho⟩,
    fun ho => ⟨execLaunch_refused hh ho, fun v => execLaunch_goes hh ho⟩, execAttest_ends hh,
    fun ho => ⟨fun v => execSetCap_refused hh ho, execSetCap_ends hh ho⟩,
    fun ho => ⟨execFwUpdate_refused hh ho, execFwUpdate_ends hh ho⟩, ?_⟩
  intro m r st hq hw
  rw [Mach.finishEntry_host r st hq]
  exact ⟨get_entryWritten_phase hw _, get_entryWritten_status hw _, fun n hn => get_entryWritten_result hw _ hn,
    fun n h4 h5 h8 => get_entryWritten_other h4 h5 h8⟩

end Sys2Proof.Machine
end

section
/-! PROOFS. The ladder words LOPN, LSTP, LRD, LWGT and LCLS (R219-R234), and O48. -/
namespace Sys2Proof.Machine

/-! ## Rules for what a ladder word does to its core -/

theorem Mach.Rests.mReady {m k : Mach} {g r off n : Nat} (h : m.Rests k) : m.Rests (k.mReady g r off n) := by
  have hs : m.Rests (k.settleBank g r 0) := h.forceAll
  exact .ite hs hs.forceAll

/-- A slot of the rung store as a write of it leaves it. -/
theorem MUnit.slot_vset_self {u : MUnit} {k j : Nat} (x : Tile) (h : 2 * k + j < 12) :
    ({ u with rung := vset u.rung (2 * k + j) x } : MUnit).slot k j = x := vget_vset_self _ _ _ _ h

@[simp] theorem State.ec_slotWrite (s : State) (k j : Nat) (x : Tile) : (s.slotWrite k j x).ec = s.ec := s.ec_updMat _
@[simp] theorem State.ec_startSpill (s : State) (op : BeatOp) (n : Nat) : (s.startSpill op n).ec = s.ec := s.ec_updMat _
@[simp] theorem State.ec_holdLadder (s : State) (n : Nat) : (s.holdLadder n).ec = s.ec :=
  (State.ec_updMat _ _).trans (s.ec_holdPort n)

/-- The M unit once a ladder command holds port and rungs until an ec. -/
def MUnit.ladderHeld (u : MUnit) (ec : Nat) : MUnit := { u with portEnd := ec, ladEnd := ec }

section
variable {s t : State} {e r : Nat} {st : Stream} {c : Core} (h : s.OnCore e r st c)
include h

theorem State.OnCore.slotWrite (k j : Nat) (x : Tile) :
    (s.slotWrite k j x).OnCore e r st (c.setMat { c.mat with rung := vset c.mat.rung (2 * k + j) x }) := h.updMat _

theorem State.OnCore.startSpill (op : BeatOp) (n : Nat) :
    ∃ b, (s.startSpill op n).OnCore e r st (c.setMat { c.mat with beats := c.mat.beats ++ [b] }) := ⟨_, h.updMat _⟩

theorem State.OnCore.holdLadder (n : Nat) : (s.holdLadder n).OnCore e r st (c.setMat (c.mat.ladderHeld (s.ec + n))) :=
  (h.holdPort n).updMat _

end

/-! ## The tests that every word but LOPN makes first (R229) -/

section
variable {s : State} {g : BitVec 4} {l : Ladder} {f : Ladder → Except Stop State}

theorem State.openLadder_none (h : s.mat.ladder = none) : s.openLadder = .error (.fault { cause := 0x14 }) := by
  rw [State.openLadder, h]

theorem State.openLadder_some (h : s.mat.ladder = some l) : s.openLadder = .ok l := by
  rw [State.openLadder, h]

theorem State.portFree_ok (h : s.mat.portEnd ≤ s.ec) : s.portFree = .ok () := by
  rw [State.portFree, decide_eq_true h]
  rfl

theorem State.portFree_error (h : ¬ s.mat.portEnd ≤ s.ec) : s.portFree = .error (.fault { cause := 0x07 }) := by
  rw [State.portFree, decide_eq_false h]
  rfl

/-- A ladder word with no ladder open. -/
theorem word_ladderClosed (h : Runs s [] g) (hl : s.mat.ladder = none) :
    s.word [] (s.guard g) (fun _ => s.openLadder >>= f) = .next (s.raise { cause := 0x14 }) :=
  State.word_faults h.1 (bind_of_error (State.openLadder_none hl))

/-- One that finds the port in use. -/
theorem word_ladderBusy (h : Runs s [] g) (hl : s.mat.ladder = some l) (hp : ¬ s.mat.portEnd ≤ s.ec) :
    s.word [] (s.guard g) (fun _ => s.openLadder >>= fun l => s.portFree >>= fun _ => f l) = .next (s.raise { cause := 0x07 }) :=
  State.word_faults h.1 ((bind_of_ok (State.openLadder_some hl)).trans (bind_of_error (State.portFree_error hp)))

/-- One past both tests comes to its own part. -/
theorem ladderOpen_bind (hl : s.mat.ladder = some l) (hp : s.mat.portEnd ≤ s.ec) :
    (s.openLadder >>= fun l => s.portFree >>= fun _ => f l) = f l :=
  (bind_of_ok (State.openLadder_some hl)).trans (bind_of_ok (State.portFree_ok hp))

end

/-! ## LSTP (R219, R231) -/

/-- The tile of a step in its slot, and the merge of its carry, with the flags: into the rung store below rung 6, beat by beat from
there on. -/
def State.ladderPlaced (s : State) (ac : BitVec 3) (l : Ladder) : State × Flags :=
  match l.carry with
  | none => (s.slotWrite 0 (l.digit 0) (s.tile ac), 0)
  | some k =>
    let t := s.slotWrite 0 (l.digit 0) (s.tile ac)
    if k < 5 then
      let m := mergeTiles (l.delta.getD k 0) (s.mat.slot k 0) (if k = 0 then s.tile ac else s.mat.slot k 1)
      (t.slotWrite (k + 1) (l.digit (k + 1)) m.1, m.2)
    else if k = 5 then
      let m := mergeTiles (l.delta.getD 5 0) (s.mat.slot 5 0) (s.mat.slot 5 1)
      (t.startSpill (.lstp l 5 (m.1.toList.map rowBytes) 0) 128, m.2)
    else (t.startSpill (.lstp l k [] 0) 64, 0)

/-- The whole effect of LSTP. -/
def State.ladderStepped (s : State) (ac : BitVec 3) (l : Ladder) : State :=
  ((((s.ladderPlaced ac l).1.updMat fun m => { m with ladder := some l.stepped }).holdLadder 192).occupy ac 192 192 (s.ladderPlaced ac l).2)

section
variable {s : State} {ac : BitVec 3} {v : Bool} {g : BitVec 4} {l : Ladder}

theorem execLstp_eq : execLstp ac v g s = s.word [] (s.guard g) (fun _ => s.openLadder >>= fun l => s.portFree >>= fun _ => do
    s.tileFree ac
    need l.stepOk 0x14
    s.version v ac
    pure (s.ladderStepped ac l)) := by
  exact State.word_congr rfl

/-- What placing a tile leaves of the M unit: the tile in its slot, the merge in the next rung, or one command more with beats to come. -/
theorem State.OnCore.ladderPlaced {e r : Nat} {st : Stream} {c : Core} (h : s.OnCore e r st c) (ac : BitVec 3) (l : Ladder) :
    (s.ladderPlaced ac l).1.ec = s.ec ∧ ∃ u, (s.ladderPlaced ac l).1.OnCore e r st (c.setMat u) ∧
      (l.carry = none → u.slot 0 (l.digit 0) = s.tile ac) ∧
      (∀ j, l.carry = some j → j < 5 → l.digit (j + 1) ≤ 1 → u.slot (j + 1) (l.digit (j + 1)) =
        (mergeTiles (l.delta.getD j 0) (c.mat.slot j 0) (if j = 0 then s.tile ac else c.mat.slot j 1)).1) ∧
      (∀ j, l.carry = some j → 5 ≤ j → u.beats.length = c.mat.beats.length + 1) := by
  have hw := h.slotWrite 0 (l.digit 0) (s.tile ac)
  have hdigit : l.digit 0 ≤ 2 := by
    unfold Ladder.digit
    split <;> [omega; split <;> omega]
  cases hc : l.carry with
  | none =>
    have hp : (s.ladderPlaced ac l).1 = s.slotWrite 0 (l.digit 0) (s.tile ac) := by rw [State.ladderPlaced, hc]
    rw [hp]
    exact ⟨State.ec_slotWrite .., _, hw, fun _ => MUnit.slot_vset_self _ (by omega), by simp, by simp⟩
  | some k =>
    by_cases hk : k < 5
    · have hp : (s.ladderPlaced ac l).1 = (s.slotWrite 0 (l.digit 0) (s.tile ac)).slotWrite (k + 1) (l.digit (k + 1))
          (mergeTiles (l.delta.getD k 0) (s.mat.slot k 0) (if k = 0 then s.tile ac else s.mat.slot k 1)).1 := by
        simp only [State.ladderPlaced, hc, if_pos hk]
      rw [hp, h.mat_eq]
      refine ⟨by simp, _, hw.slotWrite .., by simp, fun j hj _ hd => ?_, fun j hj h5 => ?_⟩
      · obtain rfl : k = j := by simpa using hj
        exact MUnit.slot_vset_self _ (by omega)
      · obtain rfl : k = j := by simpa using hj
        omega
    · have hp : ∃ op n, (s.ladderPlaced ac l).1 = (s.slotWrite 0 (l.digit 0) (s.tile ac)).startSpill op n := by
        simp only [State.ladderPlaced, hc, if_neg hk]
        split
        · exact ⟨_, _, rfl⟩
        · exact ⟨_, _, rfl⟩
      obtain ⟨op, n, hp⟩ := hp
      obtain ⟨b, hb⟩ := hw.startSpill op n
      rw [hp]
      refine ⟨by simp, _, hb, by simp, fun j hj h5 => ?_, fun j hj h5 => List.length_append ..⟩
      obtain rfl : k = j := by simpa using hj
      omega

theorem execLstp_goesTo {e r : Nat} (hc : s.cur = .core e r .m) (h : Runs s [] g) (hl : s.mat.ladder = some l)
    (hp : s.mat.portEnd ≤ s.ec) (ht : s.tileFree ac = .ok ())
    (hv : v = false ∨ vget s.mat.tver ac.toNat 0 = vget s.mat.texp ac.toNat 0) (hs : l.stepOk = true) :
    GoesTo (execLstp ac v g s) (fun t => t.mat.ladder = some l.stepped ∧ t.mat.portEnd = s.ec + 192 ∧
      vget t.mat.tileEnd ac.toNat 0 = s.ec + 192 ∧ (l.carry = none → t.mat.slot 0 (l.digit 0) = s.tile ac) ∧
      (∀ j, l.carry = some j → j < 5 → l.digit (j + 1) ≤ 1 → t.mat.slot (j + 1) (l.digit (j + 1)) =
        (mergeTiles (l.delta.getD j 0) (s.mat.slot j 0) (if j = 0 then s.tile ac else s.mat.slot j 1)).1) ∧
      (∀ j, l.carry = some j → 5 ≤ j → t.mat.beats.length = s.mat.beats.length + 1)) := by
  have hcore := State.OnCore.of_seq? hc h.1.1
  obtain ⟨hec, u, hu, hnone, hmerge, hspill⟩ := hcore.ladderPlaced ac l
  have ht' := (((hu.updMat fun m => { m with ladder := some l.stepped }).holdLadder 192).occupy (t := ac) 192 192
    (s.ladderPlaced ac l).2)
  simp only [State.ec_holdLadder, State.ec_updMat, hec] at ht'
  refine ⟨(s.ladderStepped ac l).advance, ?_, ?_⟩
  · rw [execLstp_eq]
    refine State.word_runs h ((ladderOpen_bind hl hp).trans ((bind_of_ok ht).trans ((need_bind_ok hs).trans ?_)))
    exact bind_of_ok (State.version_ok hv)
  · have hm : (s.ladderStepped ac l).advance.mat =
        ({ u with ladder := some l.stepped }.ladderHeld (s.ec + 192)).occupied ac (s.ec + 192) (s.ec + 192) := ht'.mat_advance
    simp only [hm, hcore.mat_eq]
    exact ⟨rfl, rfl, vget_tile_self _ _ _ _, hnone, hmerge, hspill⟩

end

/-! ## LRD (R224, R232) -/

/-- The zero tile's rows, from which a blend starts. -/
abbrev zeroRows : List (List (BitVec 32)) := List.replicate 64 (List.replicate 64 (0 : BitVec 32))

/-- The blend of the slots in its tile, or beat by beat with spilled rungs, with the flags that are known. -/
def State.ladderBlended (s : State) (ac : BitVec 3) (l : Ladder) : State × Flags :=
  if l.d ≤ 6 then (s.setTile ac (mkTile (s.mat.blend l zeroRows 0).1), (s.mat.blend l zeroRows 0).2)
  else (s.startSpill (.lrd ac.toNat l zeroRows 0) 0, 0)

/-- The whole effect of LRD. -/
def State.ladderRead (s : State) (ac : BitVec 3) (l : Ladder) : State :=
  ((s.ladderBlended ac l).1.holdLadder (32 * l.d)).occupy ac (32 * l.d) (32 * l.d) (s.ladderBlended ac l).2

section
variable {s : State} {ac : BitVec 3} {v : Bool} {g : BitVec 4} {l : Ladder}

theorem execLrd_eq : execLrd ac v g s = s.word [] (s.guard g) (fun _ => s.openLadder >>= fun l => s.portFree >>= fun _ => do
    s.tileFree ac
    s.version v ac
    pure (s.ladderRead ac l)) := State.word_congr rfl

theorem State.OnCore.ladderBlended {e r : Nat} {st : Stream} {c : Core} (h : s.OnCore e r st c) (ac : BitVec 3) (l : Ladder) :
    (s.ladderBlended ac l).1.ec = s.ec ∧ ∃ u, (s.ladderBlended ac l).1.OnCore e r st (c.setMat u) ∧ u.ladder = c.mat.ladder ∧
      u.rung = c.mat.rung ∧ (l.d ≤ 6 → vget u.tile ac.toNat zeroTile = mkTile (c.mat.blend l zeroRows 0).1) ∧
      (6 < l.d → u.beats.length = c.mat.beats.length + 1) := by
  by_cases hd : l.d ≤ 6
  · rw [State.ladderBlended, if_pos hd, h.mat_eq]
    exact ⟨State.ec_setTile .., _, h.setTile _, rfl, rfl, fun _ => vget_tile_self _ _ _ _, fun h6 => absurd hd (Nat.not_le.mpr h6)⟩
  · obtain ⟨b, hb⟩ := h.startSpill (.lrd ac.toNat l zeroRows 0) 0
    rw [State.ladderBlended, if_neg hd]
    exact ⟨State.ec_startSpill .., _, hb, rfl, rfl, fun h6 => absurd h6 hd, fun _ => List.length_append ..⟩

theorem execLrd_goesTo {e r : Nat} (hc : s.cur = .core e r .m) (h : Runs s [] g) (hl : s.mat.ladder = some l)
    (hp : s.mat.portEnd ≤ s.ec) (ht : s.tileFree ac = .ok ())
    (hv : v = false ∨ vget s.mat.tver ac.toNat 0 = vget s.mat.texp ac.toNat 0) :
    GoesTo (execLrd ac v g s) (fun t => t.mat.ladder = some l ∧ t.mat.portEnd = s.ec + 32 * l.d ∧ t.mat.rung = s.mat.rung ∧
      (l.d ≤ 6 → t.tile ac = mkTile (s.mat.blend l zeroRows 0).1) ∧ (6 < l.d → t.mat.beats.length = s.mat.beats.length + 1)) := by
  have hcore := State.OnCore.of_seq? hc h.1.1
  obtain ⟨hec, u, hu, hlad, hrung, htile, hspill⟩ := hcore.ladderBlended ac l
  have ht' := (hu.holdLadder (32 * l.d)).occupy (t := ac) (32 * l.d) (32 * l.d) (s.ladderBlended ac l).2
  simp only [State.ec_holdLadder, hec] at ht'
  refine ⟨(s.ladderRead ac l).advance, ?_, ?_⟩
  · rw [execLrd_eq]
    exact State.word_runs h ((ladderOpen_bind hl hp).trans ((bind_of_ok ht).trans (bind_of_ok (State.version_ok hv))))
  · have hm : (s.ladderRead ac l).advance.mat =
        (u.ladderHeld (s.ec + 32 * l.d)).occupied ac (s.ec + 32 * l.d) (s.ec + 32 * l.d) := ht'.mat_advance
    rw [hcore.mat_eq] at hl
    simp only [State.tile, hm, hcore.mat_eq]
    exact ⟨hlad.trans hl, rfl, hrung, htile, hspill⟩

end

/-! ## An LCB of the own rank, and of another (R226, R404) -/

section
variable {s : State} {e r : Nat} {st : Stream} {c : Core} (h : s.OnCore e r st c)
include h

/-- An LCB read leaves the M unit but for its beats. -/
theorem State.OnCore.lcbRead (off n : Nat) (k : Bool) :
    ((s.mAcquire k).lcbRead off n k).1.ec = s.ec ∧ ∃ c', ((s.mAcquire k).lcbRead off n k).1.OnCore e r st c' ∧ c'.still = c.still := by
  obtain ⟨ht, hstill, hec⟩ := h.of_rests (t := ((s.mAcquire k).lcbRead off n k).1) (s.mAcquire_rests k).mReady (s.mAcquire_cur k)
  exact ⟨hec, _, ht, hstill⟩

/-- An LCB asked of another rank is one command more with beats to come. -/
theorem State.OnCore.lcbAsked (op : BeatOp) (p : Word) (k : Bool) :
    ((s.mAcquire k).startBeats op p 1 true k).ec = s.ec ∧ ∃ c', ((s.mAcquire k).startBeats op p 1 true k).OnCore e r st c' ∧
      c'.still = c.still ∧ c'.mat.beats.length = (s.mAcquire k).mat.beats.length + 1 := by
  obtain ⟨h0, hstill, hec0⟩ := h.of_rests (s.mAcquire_rests k) (s.mAcquire_cur k)
  obtain ⟨hec1, b, h1⟩ := h0.startBeats op p 1 true k
  exact ⟨hec1.trans hec0, _, h1, hstill, List.length_append ..⟩

theorem State.OnCore.rank_mAcquire (k : Bool) : (s.mAcquire k).rank = r := by
  rw [State.rank, s.mAcquire_cur k, h.cur]

end

/-! ## LWGT (R233) -/

/-- The factors and weights reloaded from an LCB of the own rank. -/
def State.reloadedOwn (s : State) (l : Ladder) (k : Bool) : State :=
  (((s.mAcquire k).lcbRead (ptrOff l.ptr + 16) 240 k).1.updMat fun u =>
    { u with ladder := some (l.reload ((s.mAcquire k).lcbRead (ptrOff l.ptr + 16) 240 k).2) }).holdLadder 24

section
variable {s : State} {k : Bool} {g : BitVec 4} {l : Ladder}

theorem execLwgt_eq : execLwgt k g s = s.word [] (s.guard g) (fun _ => s.openLadder >>= fun l => s.portFree >>= fun _ =>
    if ptrRank l.ptr = (s.mAcquire k).rank then do
      need ((s.mAcquire k).lcbSound (ptrOff l.ptr + 16) 240) 0x10 (ptrAt l.ptr (ptrOff l.ptr + 16 : Nat))
      pure (s.reloadedOwn l k)
    else pure (((s.mAcquire k).startBeats .lwgt l.ptr 1 true k).holdLadder 24)) := State.word_congr rfl

section
variable {e r : Nat} (hc : s.cur = .core e r .m) (h : Runs s [] g) (hl : s.mat.ladder = some l) (hp : s.mat.portEnd ≤ s.ec)
include hc h hl hp

theorem execLwgt_unsound (hr : ptrRank l.ptr = r) (hs : (s.mAcquire k).lcbSound (ptrOff l.ptr + 16) 240 = false) :
    execLwgt k g s = .next (s.raise { cause := 0x10, addr := ptrAt l.ptr (ptrOff l.ptr + 16 : Nat) }) := by
  have hcore := State.OnCore.of_seq? hc h.1.1
  rw [execLwgt_eq]
  refine State.word_faults h.1 ((ladderOpen_bind hl hp).trans ?_)
  rw [if_pos (hr.trans (hcore.rank_mAcquire k).symm)]
  exact need_bind_error hs

theorem execLwgt_own (hr : ptrRank l.ptr = r) (hs : (s.mAcquire k).lcbSound (ptrOff l.ptr + 16) 240 = true) :
    GoesTo (execLwgt k g s) (fun t => t.mat.portEnd = s.ec + 24 ∧
      t.mat.ladder = some (l.reload ((s.mAcquire k).lcbRead (ptrOff l.ptr + 16) 240 k).2)) := by
  have hcore := State.OnCore.of_seq? hc h.1.1
  obtain ⟨hec, c', ht, -⟩ := hcore.lcbRead (ptrOff l.ptr + 16) 240 k
  have ht' := (ht.updMat fun u =>
    { u with ladder := some (l.reload ((s.mAcquire k).lcbRead (ptrOff l.ptr + 16) 240 k).2) }).holdLadder 24
  simp only [State.ec_updMat, hec] at ht'
  refine ⟨(s.reloadedOwn l k).advance, ?_, ?_⟩
  · rw [execLwgt_eq]
    refine State.word_runs h ((ladderOpen_bind hl hp).trans ?_)
    rw [if_pos (hr.trans (hcore.rank_mAcquire k).symm)]
    exact need_bind_ok hs
  · have hm : (s.reloadedOwn l k).advance.mat = MUnit.ladderHeld { c'.mat with
        ladder := some (l.reload ((s.mAcquire k).lcbRead (ptrOff l.ptr + 16) 240 k).2) } (s.ec + 24) := ht'.mat_advance
    simp only [hm]
    exact ⟨rfl, rfl⟩

theorem execLwgt_far (hr : ptrRank l.ptr ≠ r) : GoesTo (execLwgt k g s) (fun t => t.mat.portEnd = s.ec + 24 ∧
    t.mat.ladder = some l ∧ t.mat.beats.length = (s.mAcquire k).mat.beats.length + 1) := by
  have hcore := State.OnCore.of_seq? hc h.1.1
  obtain ⟨hec, c', ht, hstill, hbeats⟩ := hcore.lcbAsked .lwgt l.ptr k
  have ht' := ht.holdLadder 24
  rw [hec] at ht'
  refine ⟨(((s.mAcquire k).startBeats .lwgt l.ptr 1 true k).holdLadder 24).advance, ?_, ?_⟩
  · rw [execLwgt_eq]
    refine State.word_runs h ((ladderOpen_bind hl hp).trans ?_)
    rw [if_neg (hcore.rank_mAcquire k ▸ hr)]
    rfl
  · rw [hcore.mat_eq] at hl
    simp only [ht'.mat_advance]
    exact ⟨rfl, (congrArg MUnit.ladder hstill).trans hl, hbeats⟩

end

end

/-! ## LOPN (R226, R229, R230) -/

/-- The ladder of an LCB of the own rank opened. -/
def State.openedOwn (s : State) (ptr : Word) (k : Bool) : State :=
  (((s.mAcquire k).lcbRead (ptrOff ptr) 256 k).1.updMat fun u =>
    { u with ladder := some (lcbLadder ptr ((s.mAcquire k).lcbRead (ptrOff ptr) 256 k).2) }).holdLadder 48

/-- What LOPN does with the LCB that its pointer names. -/
def State.lcbOpened (s : State) (ptr : Word) (k : Bool) : Except Stop State :=
  if ptrRank ptr = (s.mAcquire k).rank then do
    need ((s.mAcquire k).lcbSound (ptrOff ptr) 256) 0x10 ptr
    match lopnFault (s.mAcquire k).hdr (s.mAcquire k).mat.close ptr ((s.mAcquire k).lcbRead (ptrOff ptr) 256 k).2 with
    | some x => .error (.fault { cause := x, addr := ptr })
    | none => pure (s.openedOwn ptr k)
  else pure (((s.mAcquire k).startBeats .lopn ptr 1 true k).holdLadder 48)

section
variable {s : State} {p : BitVec 8} {k : Bool} {g : BitVec 4}

theorem execLopn_eq : execLopn p k g s = s.word (sn [p.toNat]) (s.guard g) (fun _ => do
    need s.mat.ladder.isNone 0x14
    s.portFree
    checkUse s.m s.cur .m (s.rd p.toNat) (ptrOff (s.rd p.toNat)) 256
    need (ptrOff (s.rd p.toNat) % 256 == 0) 0x06 (s.rd p.toNat)
    need (!beyond s.hdr (ptrOff (s.rd p.toNat)) 256) 0x02 (s.rd p.toNat)
    s.lcbOpened (s.rd p.toNat) k) := State.word_congr rfl

theorem execLopn_open (h : Runs s (sn [p.toNat]) g) (hl : s.mat.ladder ≠ none) :
    execLopn p k g s = .next (s.raise { cause := 0x14 }) := by
  rw [execLopn_eq]
  exact State.word_faults h.1 (need_bind_error (by simpa [Option.isNone_eq_false_iff, Option.isSome_iff_ne_none] using hl))

section
variable (h : Runs s (sn [p.toNat]) g) (hl : s.mat.ladder = none)
include h hl

theorem execLopn_busy (hp : ¬ s.mat.portEnd ≤ s.ec) : execLopn p k g s = .next (s.raise { cause := 0x07 }) := by
  rw [execLopn_eq]
  exact State.word_faults h.1 ((need_bind_ok (by rw [hl]; rfl)).trans (bind_of_error (State.portFree_error hp)))

variable (hp : s.mat.portEnd ≤ s.ec)
include hp

theorem execLopn_refused {x : Stop} (hu : checkUse s.m s.cur .m (s.rd p.toNat) (ptrOff (s.rd p.toNat)) 256 = .error x) :
    execLopn p k g s = .next (s.stopped x) := by
  rw [execLopn_eq]
  exact State.word_stops h.1 ((need_bind_ok (by rw [hl]; rfl)).trans ((bind_of_ok (State.portFree_ok hp)).trans (bind_of_error hu)))

variable (hu : checkUse s.m s.cur .m (s.rd p.toNat) (ptrOff (s.rd p.toNat)) 256 = .ok ())
include hu

theorem execLopn_unaligned (ha : ptrOff (s.rd p.toNat) % 256 ≠ 0) :
    execLopn p k g s = .next (s.raise { cause := 0x06, addr := s.rd p.toNat }) := by
  rw [execLopn_eq]
  exact State.word_faults h.1 ((need_bind_ok (by rw [hl]; rfl)).trans ((bind_of_ok (State.portFree_ok hp)).trans
    ((bind_of_ok hu).trans (need_bind_error (beq_false_of_ne ha)))))

variable (ha : ptrOff (s.rd p.toNat) % 256 = 0)
include ha

theorem execLopn_beyond (hb : beyond s.hdr (ptrOff (s.rd p.toNat)) 256 = true) :
    execLopn p k g s = .next (s.raise { cause := 0x02, addr := s.rd p.toNat }) := by
  rw [execLopn_eq]
  exact State.word_faults h.1 ((need_bind_ok (by rw [hl]; rfl)).trans ((bind_of_ok (State.portFree_ok hp)).trans
    ((bind_of_ok hu).trans ((need_bind_ok (beq_of_eq ha)).trans (need_bind_error (by rw [hb]; rfl))))))

variable (hb : beyond s.hdr (ptrOff (s.rd p.toNat)) 256 = false)
include hb

/-- Past the pointer's checks LOPN is what it does with the LCB: a fault, -/
theorem execLopn_faults {c : BitVec 8} (he : s.lcbOpened (s.rd p.toNat) k = .error (.fault { cause := c, addr := s.rd p.toNat })) :
    execLopn p k g s = .next (s.raise { cause := c, addr := s.rd p.toNat }) := by
  rw [execLopn_eq]
  exact State.word_faults h.1 ((need_bind_ok (by rw [hl]; rfl)).trans ((bind_of_ok (State.portFree_ok hp)).trans
    ((bind_of_ok hu).trans ((need_bind_ok (beq_of_eq ha)).trans ((need_bind_ok (by rw [hb]; rfl)).trans he)))))

/-- or the state it leaves. -/
theorem execLopn_runs {t : State} (ht : s.lcbOpened (s.rd p.toNat) k = .ok t) : execLopn p k g s = .next t.advance := by
  rw [execLopn_eq]
  exact State.word_runs h ((need_bind_ok (by rw [hl]; rfl)).trans ((bind_of_ok (State.portFree_ok hp)).trans
    ((bind_of_ok hu).trans ((need_bind_ok (beq_of_eq ha)).trans ((need_bind_ok (by rw [hb]; rfl)).trans ht)))))

end

/-! ### What it does with the LCB -/

section
variable {e r : Nat} {st : Stream} {c : Core} (hcore : s.OnCore e r st c) {ptr : Word}
include hcore

section
variable (hr : ptrRank ptr = r)
include hr

theorem State.OnCore.lcbOpened_unsound (hs : (s.mAcquire k).lcbSound (ptrOff ptr) 256 = false) :
    s.lcbOpened ptr k = .error (.fault { cause := 0x10, addr := ptr }) := by
  rw [State.lcbOpened, if_pos (hr.trans (hcore.rank_mAcquire k).symm)]
  exact need_bind_error hs

theorem State.OnCore.lcbOpened_bad (hs : (s.mAcquire k).lcbSound (ptrOff ptr) 256 = true) {x : BitVec 8}
    (hx : lopnFault (s.mAcquire k).hdr (s.mAcquire k).mat.close ptr ((s.mAcquire k).lcbRead (ptrOff ptr) 256 k).2 = some x) :
    s.lcbOpened ptr k = .error (.fault { cause := x, addr := ptr }) := by
  rw [State.lcbOpened, if_pos (hr.trans (hcore.rank_mAcquire k).symm), need_bind_ok hs, hx]

theorem State.OnCore.lcbOpened_own (hs : (s.mAcquire k).lcbSound (ptrOff ptr) 256 = true)
    (hx : lopnFault (s.mAcquire k).hdr (s.mAcquire k).mat.close ptr ((s.mAcquire k).lcbRead (ptrOff ptr) 256 k).2 = none) :
    s.lcbOpened ptr k = .ok (s.openedOwn ptr k) := by
  rw [State.lcbOpened, if_pos (hr.trans (hcore.rank_mAcquire k).symm), need_bind_ok hs, hx]
  rfl

end

theorem State.OnCore.lcbOpened_far (hr : ptrRank ptr ≠ r) :
    s.lcbOpened ptr k = .ok (((s.mAcquire k).startBeats .lopn ptr 1 true k).holdLadder 48) := by
  rw [State.lcbOpened, if_neg (hcore.rank_mAcquire k ▸ hr)]
  rfl

theorem State.OnCore.mat_openedOwn (ptr : Word) : (s.openedOwn ptr k).advance.mat.ladder =
      some (lcbLadder ptr ((s.mAcquire k).lcbRead (ptrOff ptr) 256 k).2) ∧
    (s.openedOwn ptr k).advance.mat.portEnd = s.ec + 48 ∧ (s.openedOwn ptr k).advance.mat.ladEnd = s.ec + 48 := by
  obtain ⟨hec, c', ht, -⟩ := hcore.lcbRead (ptrOff ptr) 256 k
  have ht' := (ht.updMat fun u =>
    { u with ladder := some (lcbLadder ptr ((s.mAcquire k).lcbRead (ptrOff ptr) 256 k).2) }).holdLadder 48
  simp only [State.ec_updMat, hec] at ht'
  have hm : (s.openedOwn ptr k).advance.mat = MUnit.ladderHeld { c'.mat with
      ladder := some (lcbLadder ptr ((s.mAcquire k).lcbRead (ptrOff ptr) 256 k).2) } (s.ec + 48) := ht'.mat_advance
  simp only [hm]
  exact ⟨rfl, rfl, rfl⟩

theorem State.OnCore.mat_askedLcb (ptr : Word) (hl : s.mat.ladder = none) :
    let t := (((s.mAcquire k).startBeats .lopn ptr 1 true k).holdLadder 48).advance
    t.mat.ladder = none ∧ t.mat.portEnd = s.ec + 48 ∧ t.mat.beats.length = (s.mAcquire k).mat.beats.length + 1 := by
  obtain ⟨hec, c', ht, hstill, hbeats⟩ := hcore.lcbAsked .lopn ptr k
  have ht' := ht.holdLadder 48
  rw [hec] at ht'
  rw [hcore.mat_eq] at hl
  simp only [ht'.mat_advance]
  exact ⟨(congrArg MUnit.ladder hstill).trans hl, rfl, hbeats⟩

end

end

/-! ## LCLS (R227, R234) -/

/-- The command as LCLS describes its accesses. -/
def State.closeBeat (s : State) (l : Ladder) (k : Bool) : Beat :=
  { s.ladBeat with rank := ptrRank l.ptr, off := ptrOff l.ptr, rel := k }

/-- The header on its way into the LCB, and behind it the release of K = 1. -/
def State.headerOut (s : State) (l : Ladder) (k : Bool) : State :=
  let b := s.closeBeat l k
  let s := if b.rank == s.rank then s.mStore b b.off l.header else { s with m := s.m.mWrite s.gno s.rank b b.off l.header }
  if k then { s with m := s.m.enqueue { mEntry s.m s.gno s.rank b b.off (.mend none true b.snap) with rel := true } 20 } else s

/-- The whole effect of LCLS. -/
def State.ladderClosed (s : State) (l : Ladder) (k : Bool) : State :=
  ((s.headerOut l k).updMat fun m => { m with ladder := none, close := some (l.ptr, l.ver + 1) }).holdLadder 48

theorem Ladder.length_header (l : Ladder) : l.header.length = 16 := natLE_length ..

/-- A header at the start of a 64-byte unit is one part. -/
theorem parts_header {off : Nat} (h : off % 64 = 0) : parts off 16 = [(off, 16)] := by
  have hone : (off + 16 - 1) / 64 - off / 64 + 1 = 1 := by omega
  have hlo : max off (64 * (off / 64)) = off := by omega
  have hlen : min (off + 16) (64 * (off / 64) + 64) - off = 16 := by omega
  rw [parts, if_neg (by decide), hone, List.range_one, List.map_singleton, Nat.add_zero]
  simp only [hlo, hlen]

section
variable {s : State} {k : Bool} {g : BitVec 4} {l : Ladder}

theorem execLcls_eq : execLcls k g s = s.word [] (s.guard g) (fun _ => s.openLadder >>= fun l => s.portFree >>= fun _ =>
    pure (s.ladderClosed l k)) := State.word_congr rfl

theorem State.mStore_m (b : Beat) (off : Nat) (bytes : List Byte) : (s.mStore b off bytes).m = s.m ∧ (s.mStore b off bytes).cur = s.cur :=
  foldl_keeps (P := fun t : State => t.m = s.m ∧ t.cur = s.cur) ⟨rfl, rfl⟩ fun _ _ h => h

theorem State.headerOut_rests (l : Ladder) (k : Bool) : s.m.Rests (s.headerOut l k).m ∧ (s.headerOut l k).cur = s.cur := by
  unfold State.headerOut
  extract_lets b t
  have ht : s.m.Rests t.m ∧ t.cur = s.cur := by
    unfold t
    split
    · obtain ⟨hm, hcur⟩ := s.mStore_m b b.off l.header
      exact ⟨hm ▸ .refl, hcur⟩
    · exact ⟨Mach.Rests.refl.mWrite, rfl⟩
  split
  · exact ⟨ht.1.congr rfl, ht.2⟩
  · exact ht

theorem Ladder.headerPart (l : Ladder) (off : Nat) : (l.header.drop (off - off)).take 16 = l.header := by
  rw [Nat.sub_self, List.drop_zero, List.take_of_length_le (Nat.le_of_eq l.length_header)]

/-- A header into the own bank waits for the end of the ec as one access (R271). -/
theorem State.mStore_header (b : Beat) {off : Nat} (h : off % 64 = 0) : ∃ o : BankOp,
    s.mStore b off l.header = s.updIss (fun i => { i with bank := i.bank ++ [o] }) ∧
      o.entry = mEntry s.m s.gno s.rank b off (.store (offs l.header)) := by
  refine ⟨{ order := Stream.m.idx, entry := mEntry s.m s.gno s.rank b off (.store (offs l.header)) }, ?_, rfl⟩
  rw [State.mStore, l.length_header, parts_header h, List.foldl_cons, List.foldl_nil]
  simp only [l.headerPart]

/-- A header for another rank is posted (R213). -/
theorem Mach.mWrite_header (m : Mach) (g : Nat) {r : Nat} {b : Beat} (hb : b.rank ≠ r) {off : Nat} (h : off % 64 = 0) :
    ∃ x ∈ (m.mWrite g r b off l.header).queue, x.2 = mEntry m.fresh g r b off (.store (offs l.header)) := by
  have hw : m.mWrite g r b off l.header = m.fresh.enqueue (mEntry m.fresh g r b off (.store (offs l.header))) 16 := by
    rw [Mach.mWrite, l.length_header, parts_header h, List.zipIdx_singleton, List.foldl_cons, List.foldl_nil]
    simp only [l.headerPart, beq_false_of_ne hb, Bool.false_eq_true, if_false]
  rw [hw]
  exact ⟨_, List.mem_append_right _ (List.mem_singleton_self _), rfl⟩

theorem State.headerOut_own (hr : ptrRank l.ptr = s.rank) (ha : ptrOff l.ptr % 64 = 0) : ∃ o : BankOp,
    (s.headerOut l k).iss = s.iss.map (fun i => { i with bank := i.bank ++ [o] }) ∧
      o.entry = mEntry s.m s.gno s.rank (s.closeBeat l k) (ptrOff l.ptr) (.store (offs l.header)) := by
  obtain ⟨o, hs, ho⟩ := s.mStore_header (l := l) (s.closeBeat l k) ha
  refine ⟨o, ?_, ho⟩
  have hiss := congrArg State.iss hs
  unfold State.headerOut
  extract_lets b t
  have ht : t.iss = s.iss.map fun i => { i with bank := i.bank ++ [o] } := by
    have hb : (b.rank == s.rank) = true := beq_of_eq hr
    unfold t
    rw [if_pos hb]
    exact hiss
  split
  · exact ht
  · exact ht

theorem State.headerOut_far (hr : ptrRank l.ptr ≠ s.rank) (ha : ptrOff l.ptr % 64 = 0) : ∃ x ∈ (s.headerOut l k).m.queue,
    x.2 = mEntry s.m.fresh s.gno s.rank (s.closeBeat l k) (ptrOff l.ptr) (.store (offs l.header)) := by
  obtain ⟨x, hx, he⟩ := s.m.mWrite_header (l := l) s.gno (b := s.closeBeat l k) hr ha
  refine ⟨x, ?_, he⟩
  unfold State.headerOut
  extract_lets b t
  have ht : x ∈ t.m.queue := by
    have hb : ¬ (b.rank == s.rank) = true := mt eq_of_beq hr
    unfold t
    rw [if_neg hb]
    exact hx
  split
  · exact List.mem_append_left _ ht
  · exact ht

/-- Closing the ladder changes neither the ec's accesses nor the queue, and the stream going on neither. -/
theorem State.ladderClosed_advance : (s.ladderClosed l k).advance.m.queue = (s.headerOut l k).m.queue ∧
    (s.ladderClosed l k).advance.iss.map (·.bank) = (s.headerOut l k).iss.map (·.bank) := by
  constructor
  · obtain ⟨gangs, dies, n, hm⟩ := (s.ladderClosed l k).advance_m
    rw [hm]
    simp only [State.ladderClosed, State.holdLadder, State.holdPort, State.updMat, State.updCore_queue]
  · rw [State.advance_iss, Option.map_map]
    simp only [State.ladderClosed, State.holdLadder, State.holdPort, State.updMat, State.updCore_iss]
    rfl

theorem execLcls_goesTo {e r : Nat} (hc : s.cur = .core e r .m) (h : Runs s [] g) (hl : s.mat.ladder = some l)
    (hp : s.mat.portEnd ≤ s.ec) :
    GoesTo (execLcls k g s) (fun t => t.mat.ladder = none ∧ t.mat.close = some (l.ptr, l.ver + 1) ∧ t.mat.portEnd = s.ec + 48 ∧
      t.mat.rung = s.mat.rung ∧ t.mat.tile = s.mat.tile ∧
      (ptrOff l.ptr % 64 = 0 →
        (ptrRank l.ptr = r → ∀ i, s.iss = some i → ∃ o, t.iss.map (·.bank) = some (i.bank ++ [o]) ∧
          o.entry.loc = .scr e r (ptrOff l.ptr) ∧ o.entry.op = .store (offs l.header)) ∧
        (ptrRank l.ptr ≠ r → ∃ x ∈ t.m.queue, x.2.loc = .scr e (ptrRank l.ptr) (ptrOff l.ptr) ∧ x.2.op = .store (offs l.header)))) := by
  have hcore := State.OnCore.of_seq? hc h.1.1
  obtain ⟨hrests, hcur⟩ := s.headerOut_rests l k
  obtain ⟨ht, hstill, hec⟩ := hcore.of_rests hrests hcur
  have ht' := (ht.updMat fun m => { m with ladder := none, close := some (l.ptr, l.ver + 1) }).holdLadder 48
  simp only [State.ec_updMat, hec] at ht'
  have hm : (s.ladderClosed l k).advance.mat = MUnit.ladderHeld { (s.headerOut l k).core.mat with
      ladder := none, close := some (l.ptr, l.ver + 1) } (s.ec + 48) := ht'.mat_advance
  obtain ⟨hqueue, hiss⟩ := State.ladderClosed_advance (s := s) (k := k) (l := l)
  refine ⟨(s.ladderClosed l k).advance, ?_, ?_⟩
  · rw [execLcls_eq]
    exact State.word_runs h (ladderOpen_bind hl hp)
  · simp only [hm, hqueue, hiss, hcore.mat_eq]
    have hrung := congrArg MUnit.rung hstill
    have htile := congrArg MUnit.tile hstill
    refine ⟨rfl, rfl, rfl, hrung, htile, fun ha => ⟨fun hr i hi => ?_, fun hr => ?_⟩⟩
    · obtain ⟨o, ho, he⟩ := State.headerOut_own (k := k) (hr.trans hcore.rank_eq.symm) ha
      rw [ho, hi, ← hr, ← hcore.gno_eq]
      exact ⟨o, rfl, by rw [he]; rfl, by rw [he]; rfl⟩
    · obtain ⟨x, hx, he⟩ := State.headerOut_far (k := k) (hcore.rank_eq ▸ hr) ha
      rw [← hcore.gno_eq]
      exact ⟨x, hx, by rw [he]; rfl, by rw [he]; rfl⟩

end

/-! ## O48 -/

section
variable {s : State} {ac : BitVec 3} {v k : Bool} {g : BitVec 4} {l : Ladder} (h : Runs s [] g)
include h

theorem ladderWords_closed (hl : s.mat.ladder = none) : execLstp ac v g s = .next (s.raise { cause := 0x14 }) ∧
    execLrd ac v g s = .next (s.raise { cause := 0x14 }) ∧ execLwgt k g s = .next (s.raise { cause := 0x14 }) ∧
    execLcls k g s = .next (s.raise { cause := 0x14 }) :=
  ⟨execLstp_eq.trans (word_ladderClosed h hl), execLrd_eq.trans (word_ladderClosed h hl),
    execLwgt_eq.trans (word_ladderClosed h hl), execLcls_eq.trans (word_ladderClosed h hl)⟩

variable (hl : s.mat.ladder = some l)
include hl

theorem ladderWords_busy (hp : ¬ s.mat.portEnd ≤ s.ec) : execLstp ac v g s = .next (s.raise { cause := 0x07 }) ∧
    execLrd ac v g s = .next (s.raise { cause := 0x07 }) ∧ execLwgt k g s = .next (s.raise { cause := 0x07 }) ∧
    execLcls k g s = .next (s.raise { cause := 0x07 }) :=
  ⟨execLstp_eq.trans (word_ladderBusy h hl hp), execLrd_eq.trans (word_ladderBusy h hl hp),
    execLwgt_eq.trans (word_ladderBusy h hl hp), execLcls_eq.trans (word_ladderBusy h hl hp)⟩

variable (hp : s.mat.portEnd ≤ s.ec) (ht : s.tileFree ac = .ok ())
include hp ht

/-- The carry would pass the depth (R222). -/
theorem execLstp_tooDeep (hs : l.stepOk = false) : execLstp ac v g s = .next (s.raise { cause := 0x14 }) := by
  rw [execLstp_eq]
  exact State.word_faults h.1 ((ladderOpen_bind hl hp).trans ((bind_of_ok ht).trans (need_bind_error hs)))

theorem execLstp_waits (hv : vget s.mat.tver ac.toNat 0 ≠ vget s.mat.texp ac.toNat 0) (hs : l.stepOk = true) :
    execLstp ac true g s = .next (s.hold (.version ac)) := by
  rw [execLstp_eq]
  exact State.word_stops (e := .hold (.version ac)) h.1 ((ladderOpen_bind hl hp).trans ((bind_of_ok ht).trans ((need_bind_ok hs).trans
    (bind_of_error (State.version_waits hv)))))

theorem execLrd_waits (hv : vget s.mat.tver ac.toNat 0 ≠ vget s.mat.texp ac.toNat 0) :
    execLrd ac true g s = .next (s.hold (.version ac)) := by
  rw [execLrd_eq]
  exact State.word_stops (e := .hold (.version ac)) h.1 ((ladderOpen_bind hl hp).trans ((bind_of_ok ht).trans
    (bind_of_error (State.version_waits hv))))

end

/-- Settles O48: each word is its tests in their order; past them its M unit is read off the state it leaves. -/
theorem ladderWords : Obligations.LadderWords := by
  unfold Obligations.LadderWords
  intro s p ac v k g e r hc u ptr off port s1 zero
  simp only [exec_lopn, exec_lstp, exec_lrd, exec_lwgt, exec_lcls]
  refine ⟨fun h => ⟨execLopn_open h, execLopn_busy h, fun hl hp => ⟨fun x => execLopn_refused h hl hp, fun hu =>
      ⟨execLopn_unaligned h hl hp hu, execLopn_beyond h hl hp hu, fun ha hb => ?_⟩⟩⟩,
    fun h => ⟨ladderWords_closed h, fun l hl => ⟨ladderWords_busy h hl,
      fun hp ht hv => ⟨fun hs => execLstp_tooDeep h hl hp ht hs, execLstp_goesTo hc h hl hp ht hv, execLrd_goesTo hc h hl hp ht hv⟩,
      fun hp ht hv hn => ?_,
      fun hp => ⟨execLwgt_unsound hc h hl hp, execLwgt_own hc h hl hp, execLwgt_far hc h hl hp, execLcls_goesTo hc h hl hp⟩⟩⟩⟩
  · have hcore := State.OnCore.of_seq? hc h.1.1
    exact ⟨fun hr hs => execLopn_faults h hl hp hu ha hb (hcore.lcbOpened_unsound hr hs),
      fun hr hs => ⟨fun x hx => execLopn_faults h hl hp hu ha hb (hcore.lcbOpened_bad hr hs hx),
        fun hx => ⟨_, execLopn_runs h hl hp hu ha hb (hcore.lcbOpened_own hr hs hx), hcore.mat_openedOwn ptr⟩⟩,
      fun hr => ⟨_, execLopn_runs h hl hp hu ha hb (hcore.lcbOpened_far hr), hcore.mat_askedLcb ptr hl⟩⟩
  · subst hv
    exact ⟨execLstp_waits h hl hp ht hn, execLrd_waits h hl hp ht hn⟩

end Sys2Proof.Machine
end
